-- ==== Sys2Proof/Word.lean ====
section
/-! DEFINITION. The word types of the W9: bytes, register words, FP32 patterns, addresses and the index ranges of
spec/00_scope.md Table 0.4 and spec/02_tile.md. Nothing here computes more than a range. -/

namespace Sys2Proof

/-- A byte of 8 bits (R6). -/
abbrev Byte := BitVec 8
/-- A 32-bit register word (R17). -/
abbrev Word32 := BitVec 32
/-- A 64-bit register word (R17). -/
abbrev Word64 := BitVec 64
/-- An FP32 bit pattern (Table 4.1). -/
abbrev F32 := BitVec 32
/-- A local address of a tile, 24 bits (R47). -/
abbrev LAddr := BitVec 24
/-- A far address, 64 bits (R285). -/
abbrev FAddr := BitVec 64
/-- A logical tile ID, 0 to 32,255 (R11). -/
abbrev Tile := Fin 32256
/-- A field index, 0 to 47 (R11). -/
abbrev FieldIx := Fin 48
/-- An edge port, P0 to P7 (R387). -/
abbrev PortIx := Fin 8
/-- A memory gateway, 4f + k (R24, R288). -/
abbrev Gateway := Fin 192
/-- A stream number, 0 to 1023 (R12). -/
abbrev StreamIx := Fin 1024
/-- A ring region or window of a tile, 0 to 15 (R45). -/
abbrev RingIx := Fin 16
/-- A signal counter of a tile, 0 to 63 (R45). -/
abbrev CounterIx := Fin 64
/-- An FMQ tag, 0 to 63 (R84). -/
abbrev Tag := Fin 64
/-- A layer index of the precision map, 0 to 255 (R155). -/
abbrev LayerIx := Fin 256

end Sys2Proof
end

