-- ==== Sys2Proof/Syntax.lean ====
section
/-! DEFINITION. The commands of the EXW9-A: one constructor per row of spec/opcode_table.json, with the operands the rule of
the row gives it. What a command means is in Machine/ alone. A value that the world outside the W9 supplies (a sensor reading,
a host's bytes, a model's logits, the outcome of a test) is an operand. -/

namespace Sys2Proof

/-! ## Operand types -/

/-- Where a register lies: a BAR0 offset, or an offset in the control page of a tile (R17, R93). -/
inductive RegAddr where
  | bar0 (off : Nat)
  | page (t : Tile) (off : Nat)
deriving DecidableEq, Repr

/-- A presence condition (Table 2.3). -/
inductive Cond where
  | signal (c : CounterIx) (n : BitVec 32) (consume : Bool)
  | tagDone (t : Tag)
  | tagFree (t : Tag)
  | ringHolds (r : RingIx) (k : Nat)
  | ringRoom (r : RingIx) (k : Nat)
  | arrayReady
deriving DecidableEq, Repr

/-- The two mesh networks (R170). -/
inductive Net where
  | request | reply
deriving DecidableEq, Repr

/-- Router outputs and landing (R179, R192). -/
inductive Out where
  | n | e | s | w | nx | ex | sx | wx | land
deriving DecidableEq, Repr

/-- Router inputs: the eight through inputs in index order, attach inputs, and the tile's own (R173). -/
inductive Inp where
  | n | e | s | w | nx | ex | sx | wx | attach (k : Nat) | loc
deriving DecidableEq, Repr

/-- Where a request goes: a tile or unit in the encoding of R24, or a multicast group (Table 5.2). -/
inductive Dest where
  | unit (code : BitVec 16)
  | group (g : BitVec 12)
deriving DecidableEq, Repr

/-- A mesh packet: the header of Table 5.2 and its payload (R167). `far` is bytes 17 and 18 (R288). -/
structure Packet where
  op : BitVec 4
  sched : Bool
  mcast : Bool
  last : Bool
  yx : Bool
  status : BitVec 4
  target : BitVec 16
  source : BitVec 16
  client : BitVec 2
  signal : Option CounterIx
  address : LAddr
  ring : Option RingIx
  length : BitVec 16
  replyAddr : LAddr
  opSeq : BitVec 32
  credit : BitVec 32
  far : BitVec 16
  hcrc : BitVec 16
  payload : List Byte
deriving DecidableEq, Repr

/-- The operands of a PUT, PUT-SIGNAL or GET issued by a tile (Table 5.1, R161, R164). `row` is the schedule row of a
scheduled send and `cycle` the beat cycle of issue (R181). -/
structure SendArgs where
  src : LAddr
  len : Nat
  dest : Dest
  address : LAddr
  ring : Option RingIx
  row : Option Nat
  cycle : Nat
  signal : Option CounterIx
  conds : List Cond
deriving DecidableEq, Repr

/-- A format named by an operation: a fixed element format code or a precision context (R119, R141). -/
inductive FmtRef where
  | code (c : BitVec 4)
  | ctx (n : Fin 16)
deriving DecidableEq, Repr

/-- Where a MATMUL reads its activations (Table 3.2). -/
inductive ActSource where
  | addr (a : LAddr)
  | ring (r : RingIx)
deriving DecidableEq, Repr

/-- The fields of a MATMUL (Table 3.2). `rows` counts token rows of a B-array product; a C-array product has n rows. `actScale`
is the scale base of a fixed-format narrow activation. `slotRow` says which stream's slot the product serves. -/
structure MatmulArgs where
  weights : LAddr
  n : Nat
  rows : Nat
  wfmt : BitVec 4
  afmt : FmtRef
  act : ActSource
  actScale : LAddr
  scale : LAddr
  transpose : Bool
  dst : LAddr
  add : Bool
  epoch : Bool
  conds : List Cond
deriving DecidableEq, Repr

/-- The fields of a WLOAD (R99, Table 3.2). -/
structure WloadArgs where
  addr : LAddr
  wfmt : BitVec 4
  scale : LAddr
  transpose : Bool
  conds : List Cond
deriving DecidableEq, Repr

/-- The fields of a CONVERT: `n` FP32 values of one token row from `src`, in 64-channel groups, to narrow blocks (R128). -/
structure ConvertArgs where
  src : LAddr
  n : Nat
  row : Fin 2
  fmt : FmtRef
  dst : LAddr
  scaleDst : LAddr
  epoch : Bool
  conds : List Cond
deriving DecidableEq, Repr

/-- The fields of an ATTN (Table 6.1). -/
structure AttnArgs where
  query : LAddr
  rows : Nat
  g : Nat
  d : Nat
  keys : LAddr
  keyScales : LAddr
  values : LAddr
  valueScales : LAddr
  n : Nat
  pos0 : Nat
  limit : LAddr
  scoreScale : F32
  kv8 : Bool
  state : LAddr
  cont : Bool
  final : Bool
  output : LAddr
  conds : List Cond
deriving DecidableEq, Repr

/-- The fields of an AMERGE: state X into state Y for `rows` rows of width d (R214). -/
structure AmergeArgs where
  x : LAddr
  y : LAddr
  rows : Nat
  d : Nat
  final : Bool
  output : LAddr
  conds : List Cond
deriving DecidableEq, Repr

/-- The ports a non-scheduled write arrives on, in merge order (Table 2.4). -/
inductive Port where
  | fmq | n | e | s | w | loc
deriving DecidableEq, Repr

/-- A unit that a self-test names (Table 15.3). -/
inductive TestUnit where
  | bankBank (t : Tile) (bank : Fin 32)
  | opsBank (t : Tile) (bank : Fin 16)
  | gwChannel (g : Gateway) (ch : Fin 4)
  | routerInput (t : Tile)
  | seam (f : FieldIx) (side : Fin 4)
  | array (t : Tile)
  | vector (t : Tile)
  | lanes (p : PortIx)
  | sensorPair (i : Fin 246)
  | supply (f : FieldIx) (patch : Fin 42)
deriving DecidableEq, Repr

/-- How a self-test ended (Table 15.3): passed, or the fault it found. -/
inductive TestResult where
  | pass
  | stuckBit
  | uncorrectable
  | fail (lane : Option (Fin 34))
deriving DecidableEq, Repr

/-- Why a self-test is abandoned (R534). -/
inductive AbandonWhy where
  | timeLimit | park | reset | lost
deriving DecidableEq, Repr

/-- A command register (R22). -/
inductive CmdReg where
  | img | adapter | flip | load | rst | opt | att | fault
deriving DecidableEq, Repr

/-- A ring in host memory (R373). -/
inductive HostRing where
  | token (s : StreamIx)
  | completion (n : RingIx)
  | event
deriving DecidableEq, Repr

/-- A timed step of hold exit (R484). -/
inductive HoldStep where
  | leaveSelf | rampZone (f : FieldIx) | restartClock (f : FieldIx) | beatStart | raiseDuty
deriving DecidableEq, Repr

/-- A stack's park-independent rail (Table 12.5). -/
inductive Rail where
  | vlogic | varray | vlink | vmif | vaux
deriving DecidableEq, Repr

/-- A clock or power zone's report (R443). -/
structure ZoneReading where
  logicMv : BitVec 16
  logicA : BitVec 16
  arrayMv : BitVec 16
  arrayA : BitVec 16
  mifMv : BitVec 16
  mifA : BitVec 16
deriving DecidableEq, Repr

/-! ## The image as its sections spell it (spec/09_image_contract.md; the byte layout inside most sections is not given) -/

/-- The timing profile section (Table 9.3). -/
structure TimingProfile where
  latency : List Nat
  beatBase : Nat
  rowPair : Nat
  rowsMax : Nat
  stages : Nat
  class0Max : Nat
  sFloor : Nat
  beatMax : Nat
  slotLen : Nat
  extRow : Nat
  idleMin : Nat
  kv8 : Bool
  kvBeatBytes : Nat
  kvCycleBytes : Nat
  kvPosBytes : Nat
  chunkMax : Nat
  pfBase : Nat
  pfPos : Nat
deriving DecidableEq, Repr

/-- A band entry of the placement section (R329). ROLE: 0 layer, 1 sampler, 2 prefill group, 3 draft band, 4 spare. -/
structure Band where
  band : Nat
  role : Nat
  kindC : Bool
  tiles : Nat
  cols : Nat
  program : Nat
deriving DecidableEq, Repr

/-- A position entry of the placement section (R329). -/
structure BandPos where
  band : Nat
  field : Nat
  lx0 : Nat
  ly0 : Nat
deriving DecidableEq, Repr

/-- A (band, index) reference that the loader turns into a tile ID, with the band that owns the entry (R330). -/
structure BandRef where
  owner : Nat
  band : Nat
  index : Nat
deriving DecidableEq, Repr

/-- A tile program (R95, check 0x08): its bundles, and what its operations name. `rowless` says that some scheduled send of it names no row
(R335). -/
structure Program where
  index : Nat
  bundles : List (BitVec 256)
  idleCycles : Nat
  hasBeat : Bool
  formats : List (BitVec 4)
  contexts : List Nat
  rings : List Nat
  tags : List Nat
  addresses : List LAddr
  rowless : Bool
deriving DecidableEq, Repr

/-- A row entry of a slot table: in `row`, output `out` of the router at `tile` is driven by `inp` (R179). -/
structure SlotEntry where
  tile : Tile
  net : Net
  row : Nat
  out : Out
  inp : Inp
deriving DecidableEq, Repr

/-- A scheduled path (R180): the rows it starts and ends in, the tiles it visits in order, its target, the ring it appends to
and whether it is an injection row of a flow (R185). -/
structure SchedPath where
  startRow : Nat
  endRow : Nat
  tiles : List Tile
  target : Tile
  ring : Option RingIx
  injection : Bool
deriving DecidableEq, Repr

/-- A multicast group (R192): its root and, per branch, the tiles from the root to a member. -/
structure McastGroup where
  group : BitVec 12
  net : Net
  root : Tile
  branches : List (List Tile)
deriving DecidableEq, Repr

/-- A ring-region map entry (R74, R195): who appends is part of its credit mode. -/
structure RingMap where
  band : Nat
  index : Nat
  ring : RingIx
  base : LAddr
  log2 : Nat
  dynamic : Bool
  tileAppends : Bool
  schedAppends : Bool
  muleLoop : Bool
  prodA : Word32
  prodB : Word32
deriving DecidableEq, Repr

/-- A window template (R78). -/
structure WindowMap where
  band : Nat
  index : Nat
  win : RingIx
  base : Word32
  size : Word32
  ctrl : Word32
deriving DecidableEq, Repr

/-- A precision-map layer (spec/04_narrow_precision.md). KIND: 0 plain, 1 embedding, 2 head, 3 normalisation, 4 router gate. -/
structure LayerMap where
  layer : LayerIx
  kind : Nat
  wide : Bool
  ladder : List (BitVec 4)
  slots : Nat
  threshold : BitVec 16
  ceiling : BitVec 8
  burst : Bool
  bufferBytes : Nat
  widestBytes : Nat
  ovfLimit : Nat
  band : Nat
  decode : Bool
  gander : List (Nat × Nat)
  products : Nat
  dutyBand : Option Nat
  dutyTile : Nat
  kv : Bool
  heads : Nat
  width : Nat
deriving DecidableEq, Repr

/-- A precision context the loader writes: band tile, number, and the entry's words of Table 4.12. -/
structure CtxMap where
  band : Nat
  index : Nat
  n : Fin 16
  layer : LayerIx
  ctx : Word32
  scale : Word32
  outl : Word32
deriving DecidableEq, Repr

/-- A rotation set (R343). -/
structure RotationSet where
  role : Nat
  members : List Nat
deriving DecidableEq, Repr

/-- A degradation-ladder entry (R345). -/
structure LadderEntry where
  rung : Nat
  drops : BitVec 8
  used : BitVec 64
  mapId : Word64
  reservedZero : Bool
deriving DecidableEq, Repr

/-- A region of the far-memory layout: start, length and use. USE: 0 weight area, 1 KV space, 2 stream table, 3 directories,
4 token logs, 5 prefix structures, 6 intake ring, 7 other. -/
structure FarRegion where
  start : FAddr
  len : Nat
  use : Nat
deriving DecidableEq, Repr

/-- A streamed layer (R309): bytes, share, start and end cycles. -/
structure StreamedLayer where
  layer : LayerIx
  bytes : Nat
  share : Nat
  start : Nat
  stop : Nat
deriving DecidableEq, Repr

/-- An entry of the refill list (R318): the tiles that hold the layer and the declared time in ns. -/
structure RefillEntry where
  tiles : List Tile
  ns : Nat
deriving DecidableEq, Repr

/-- An item of the weight map: bytes of the set at `offset` for a band tile, or for a multicast group, at a local address (R306). -/
structure WeightItem where
  offset : Nat
  len : Nat
  group : Option (BitVec 12)
  band : Nat
  index : Nat
  target : LAddr
  signal : Option CounterIx
deriving DecidableEq, Repr

/-- Where the second copy of a band tile's weights lies: offsets in the bank store and the operand store (R312). -/
structure CopyOfs where
  band : Nat
  index : Nat
  bank : Nat
  ops : Nat
deriving DecidableEq, Repr

/-- The far-memory layout and weight map section (type 0x0D). -/
structure FarLayout where
  stripe : BitVec 48
  regions : List FarRegion
  streamed : List StreamedLayer
  prefillBytes : Nat
  prefillShare : Nat
  secondCopy : Bool
  copyOffsets : List CopyOfs
  weights : List WeightItem
  refill : List RefillEntry
  streamTable : FAddr
  directoryBase : FAddr
  tokenLogBase : FAddr
  kvPages : Nat
  prefixTable : FAddr
  prefixRoots : FAddr
  log2Buckets : Nat
  localStacks : List Nat
deriving DecidableEq, Repr

/-- What one rung's sections spell after R328 has chosen them. -/
structure Rung where
  timing : TimingProfile
  bands : List Band
  positions : List BandPos
  refs : List BandRef
  programs : List Program
  slotTables : List SlotEntry
  paths : List SchedPath
  mcast : List McastGroup
  rotation : List RotationSet
  rotationPaths : Bool
  parkable : BitVec 48
  draft : Option Nat
  far : FarLayout
deriving DecidableEq, Repr

/-- The image's sections as they decode; `badSection` names the first section whose inner lengths disagree with its LENGTH. -/
structure ImageBody where
  rungs : List Rung
  rings : List RingMap
  windows : List WindowMap
  layers : List LayerMap
  contexts : List CtxMap
  ladder : List LadderEntry
  vocab : Nat
  badSection : Option (Nat × Nat)
deriving DecidableEq, Repr

/-! ## Messages between devices (Table 11.3) and transfers (Table 11.4) -/

/-- A TRANSFER (Table 11.4) with its data. -/
structure Transfer where
  op : BitVec 8
  purpose : BitVec 8
  signal : Option CounterIx
  dest : BitVec 16
  src : BitVec 16
  address : FAddr
  length : Nat
  xferSeq : BitVec 32
  stream : BitVec 16
  tainted : Bool
  data : List Byte
deriving DecidableEq, Repr

/-- A PAIR_HELLO (Table 11.3). -/
structure Hello where
  side : Bool
  member : BitVec 4
  rung : BitVec 8
  compat : Bool
  debug : Bool
  class0 : Bool
  layoutOk : Bool
  deviceId : Word32
  digest : List Byte
deriving DecidableEq, Repr

/-- A HEARTBEAT (Table 11.3). -/
structure Heartbeat where
  healthy : Bool
  pairBeat : BitVec 32
  txTime : Nat
  echoTime : Nat
  echoRx : Nat
deriving DecidableEq, Repr

/-- A COMMIT (Table 11.3). -/
structure CommitMsg where
  stream : StreamIx
  last : Bool
  byOwner : Bool
  position : Nat
  lAfter : Nat
  tokens : List Word32
deriving DecidableEq, Repr

/-- The messages of Table 11.3. -/
inductive Msg where
  | transfer (x : Transfer)
  | reply (status : BitVec 4) (dest src : BitVec 16) (xferSeq : BitVec 32) (data : List Byte)
  | heartbeat (h : Heartbeat)
  | hello (h : Hello)
  | pairAccept
  | pairRefuse (reason : BitVec 8)
  | commit (c : CommitMsg)
  | shadowReq (s : StreamIx) (phase : Nat) (bTtft : Nat)
  | shadowAck (s : StreamIx) (bTtft : Nat)
  | shadowNak (reason : BitVec 8) (s : StreamIx)
  | ready (s : StreamIx)
  | start (s : StreamIx) (pairBeat : Nat)
  | block (s : StreamIx) (index : Nat) (layers : FAddr) (state : BitVec 8)
  | chunkDone (s : StreamIx) (chunk : Nat) (firstLayer lastLayer : Nat)
  | ended (s : StreamIx)
  | escReq (layer : LayerIx) (fmt : BitVec 4) (kind : Fin 3)
  | escCommit (layer : LayerIx) (fmt : BitVec 4) (boundary : Nat)
  | escClear (pairBeat : Nat)
  | stretch (cycles : Nat) (firstBeat : Nat)
  | freeze
  | resume (t : Nat)
  | failing (cause : Fin 5)
  | claim
  | handoff (s : StreamIx) (position : Nat)
  | muleResend (attempt : Nat) (layer : LayerIx) (dest src : BitVec 16)
  | muleFail (dest src : BitVec 16)
deriving DecidableEq, Repr

/-- A control flit (Table 11.2); `crc` is the field as it arrived and `body` bytes 0 to 251. -/
structure ControlFlit where
  msgs : Nat
  dataCount : Nat
  seq : BitVec 16
  ack : BitVec 16
  nak : Bool
  sequenced : Bool
  freed : BitVec 16
  body : List Byte
  crc : BitVec 32
deriving DecidableEq, Repr

/-- A far request at a gateway (R288): its FMQ, tag, kind, offset in the stack and length. -/
structure FarReq where
  tile : Tile
  tag : Tag
  load : Bool
  offset : Nat
  len : Nat
  landing : LAddr
  sched : Bool
  data : List Byte
deriving DecidableEq, Repr

/-- A critical-state error (Table 14.3): its row, the field whose copy it is in, and whether steward memory corrected it. -/
structure CritError where
  row : Fin 9
  field : Option FieldIx
  corrected : Bool
deriving DecidableEq, Repr

/-- What the world shows the W9 at a beat boundary: the logits of the slot leaving the sampler, one list per token row; whether
the flight-log entry was accepted (R541); how far this W9's boundary leads the twin's, in ns; and the pair beat of the twin's boundary it aligns to (R405). -/
structure BoundaryIn where
  logits : List (List F32)
  logAccepted : Bool
  lead : Int
  partnerBeat : Nat
deriving DecidableEq, Repr

/-! ## The commands -/

/-- The commands, one per row of spec/opcode_table.json in the table's order. Each docstring names the row's rule. -/
inductive Instr where
  -- registers (R14, R17 to R22)
  /-- R19: a write of 32 bits, or 64 where `wide`. -/
  | registerWrite (a : RegAddr) (wide : Bool) (value : Word64)
  /-- R19: a read of 32 bits, or 64 where `wide`; `bump` is an update of an RC field in the same cycle (R20). -/
  | rcRead (a : RegAddr) (wide : Bool) (bump : Nat)
  /-- R14. -/
  | deviceTimeLowRead
  /-- R17: an access of `size` bytes at `off` that is not naturally aligned 32 or 64 bits. -/
  | bar0MisalignedAccess (write : Bool) (off size : Nat)
  /-- R22: a command register written with an OP its map does not list. -/
  | commandUnlistedOp (reg : CmdReg) (value : Word32)
  -- beats and time
  | beatBoundary (w : BoundaryIn)
  | beatPlanWord (lead : Nat)
  | beatStart
  | timeBroadcast (diffs : List (Nat × Int))
  | beatBundle (t : Tile)
  | precisionCountReport (t : Tile)
  | fieldBeatCounterAdvance (f : FieldIx)
  | idleBundle (t : Tile) (n : Nat)
  -- tile memory slot
  | localLoad (t : Tile) (a : LAddr) (len : Nat) (conds : List Cond)
  | localStore (t : Tile) (a : LAddr) (data : List Byte) (conds : List Cond)
  | freezeBegin
  | ringPop (t : Tile) (r : RingIx) (k : Nat) (conds : List Cond)
  | localAppend (t : Tile) (r : RingIx) (data : List Byte) (conds : List Cond)
  -- mesh operations
  | put (t : Tile) (p : SendArgs)
  | putSignal (t : Tile) (p : SendArgs)
  | get (t : Tile) (p : SendArgs)
  | atomicAdd (t : Tile) (p : SendArgs) (addend : Word64)
  | atomicCas (t : Tile) (p : SendArgs) (cmp swap : Word64)
  | packetArrive (t : Tile) (net : Net) (inp : Inp) (pkt : Packet) (row : Nat)
  | openSlotGrant (t : Tile) (net : Net) (out : Out) (pointer : Fin 8) (room : Bool)
  | seamRelease (f : FieldIx) (side : Fin 4) (net : Net) (express : Bool)
  | seamLate (f : FieldIx) (side : Fin 4) (net : Net) (express : Bool)
  | remoteWriteLand (t : Tile) (port : Port) (pkt : Packet) (schedWrites : List LAddr)
  | deferredWriteLand (t : Tile) (schedWrites : List LAddr)
  | remoteGetServe (t : Tile) (pkt : Packet) (schedReads : List LAddr)
  | atomicExecute (t : Tile) (pkt : Packet) (schedWrites : List LAddr)
  | ringAppendLand (t : Tile) (pkt : Packet)
  | replyLand (t : Tile) (pkt : Packet)
  | creditReq (t : Tile) (r : RingIx) (producer : BitVec 16) (bytes : Nat)
  | creditGrant (t : Tile) (r : RingIx)
  | creditGrantReceive (producer : Tile) (target : Tile) (r : RingIx) (bytes : Nat) (status : BitVec 4)
  -- tile control page
  | ringEnable (t : Tile) (r : RingIx) (value : Word32)
  | windowEnable (t : Tile) (n : RingIx) (value : Word32)
  | sigcntWrite (t : Tile) (c : CounterIx) (value : Word32) (increments : Nat)
  | bundlePortWrite (t : Tile) (off : Nat) (data : List Byte)
  | seqStart (t : Tile)
  | seqStop (t : Tile)
  | sequencerRunBegin (t : Tile)
  -- far-memory queue
  | fmqLoad (t : Tile) (tag : Tag) (far : FAddr) (a : LAddr) (len : Nat) (conds : List Cond)
  | fmqStore (t : Tile) (tag : Tag) (far : FAddr) (a : LAddr) (len : Nat) (conds : List Cond)
  | fmqTagDone (t : Tile) (tag : Tag)
  | wait (t : Tile) (tag : Tag)
  | fmqWatchExpired (t : Tile) (tag : Tag)
  -- scrubbing
  | scrubRead (t : Tile) (busy : List Nat)
  | scrubWriteBack (t : Tile) (written : List LAddr)
  | scrubLate (t : Tile)
  | storeZeroingComplete (t : Tile)
  -- arrays
  | matmul (t : Tile) (m : MatmulArgs)
  | wload (t : Tile) (w : WloadArgs)
  | productDrainComplete (t : Tile)
  | convert (t : Tile) (c : ConvertArgs)
  -- Gander and format changes
  | ganderRerun (layer : LayerIx) (yn : List F32)
  | ganderErrorCompute (layer : LayerIx) (weights : List (List F32)) (acts : List F32)
  | evaluationPoint (layer : LayerIx)
  | deescalationDecision (layer : LayerIx)
  | changeComplete
  -- attention and KV
  | attn (t : Tile) (a : AttnArgs)
  | amerge (t : Tile) (a : AmergeArgs)
  | attnComplete (t : Tile)
  | stagingAppend (t : Tile) (st : StreamIx) (layer : LayerIx) (pos : Nat) (kv : List Byte)
  | flushedMaskSet (t : Tile) (s : StreamIx) (layer : LayerIx) (chunk : Nat)
  | allocationResume (s : StreamIx)
  | prefixLookup (s : StreamIx)
  | prefixInsert (s : StreamIx) (block : Nat)
  | prefixRelease (s : StreamIx)
  -- serving
  | intakeScan
  | admissionDecision
  | cancel (s : StreamIx) (tag : BitVec 16)
  | stepConfirm (s : StreamIx)
  | draftExtend (s : StreamIx) (token : Word32)
  | chunkStart (group : Nat) (logAccepted : Bool)
  | chunkEnd (group : Nat)
  | windowPublish
  | install (handle : BitVec 16)
  | adapterSlotTaken
  | adapterLoadComplete
  | remove (handle : BitVec 16)
  -- weights and far memory
  | setLoad (header : List Byte)
  | verify
  | abort
  | layerDigestCheck (data : List Byte)
  | loadEngineDone (hostError : Bool)
  | muleDataReceive (port : PortIx) (src : BitVec 16) (addr : FAddr) (data : List Byte)
  | loadItemPop (point : Fin 32)
  | loadItemComplete (seq : BitVec 32)
  | gatewayRequestAccept (g : Gateway) (r : FarReq)
  | gatewayServe (g : Gateway) (channel : Fin 4) (latency : Nat)
  | refreshInterval (f : FieldIx) (channel : Fin 16)
  | stackLeaveSelf (f : FieldIx)
  | start (move0 : Bool)
  | flipAbort
  | flipBuildComplete
  | flipDrainExpired
  | streamPark (s : StreamIx)
  | flipDrainComplete
  | refillEntryDone (damaged : Bool)
  -- image
  | imageLoad (debug : Bool) (body : ImageBody)
  | imageInstantiated
  | unload
  | reload
  | resume
  | resumeTimeReached
  | pop
  | dbgTilePageAccess (write : Bool) (off : Nat) (value : Word32)
  -- host interface
  | bar2Read (off len : Nat)
  | bar2Write (off : Nat) (bytes : List (Option Byte))
  | bar2ReadTimeout (bar4 : Bool) (off : Nat)
  | bar4Write (off : Nat) (bytes : List (Option Byte))
  | bar4Read (off len : Nat)
  | bar4ReadComplete (status : BitVec 4) (data : List Byte)
  | intakeEnable (n : RingIx) (value : Word32)
  | intakeStampsCleared (n : RingIx)
  | intakeDisable (n : RingIx) (value : Word32)
  | hostRingEnable (r : HostRing) (value : Word32)
  | ringBatchWrite (r : HostRing)
  | msixSend (vector : Fin 256)
  | completionPost (s : StreamIx)
  | linkTrained (rate : Fin 8) (width : Fin 17)
  | linkDown
  | functionLevelReset
  | d3hotEntry
  -- sideband
  | setEndpointId (eid : Byte)
  | getEndpointId
  | getEndpointUuid
  | getMctpVersionSupport
  | getMessageTypeSupport
  | getState
  | setFacilityCap (cap : Word32)
  | getPower
  | attestStart (nonce : List Byte)
  | attestRead (offset : BitVec 16)
  -- edge links
  | portTrain (p : PortIx) (goodLanes : BitVec 34)
  | portTrainRetry (p : PortIx)
  | laneFail (p : PortIx) (lane : Fin 34)
  | controlFlitReceive (p : PortIx) (flit : ControlFlit)
  | dataFlitReceive (p : PortIx) (uncorrectable : Bool)
  | replayTimeout (p : PortIx)
  | farWrite (p : PortIx) (x : Transfer)
  | windowWrite (p : PortIx) (x : Transfer)
  | windowWriteWithSignal (p : PortIx) (x : Transfer)
  | windowRead (p : PortIx) (x : Transfer)
  | reply (p : PortIx) (status : BitVec 4) (xferSeq : BitVec 32) (data : List Byte)
  -- the twin
  | pairHelloSend
  | pairHello (p : PortIx) (h : Hello)
  | pairAccept (p : PortIx)
  | pairRefuse (p : PortIx) (reason : BitVec 8)
  | heartbeatSend
  | heartbeat (p : PortIx) (h : Heartbeat)
  | partnerSilence (unacknowledged : Bool)
  | shadowBacklogHandover
  | mirrorAdopt (s : StreamIx)
  | failing (p : PortIx) (cause : Fin 5)
  | claim (p : PortIx)
  | handoff (p : PortIx) (s : StreamIx) (position : Nat)
  | ended (p : PortIx) (s : StreamIx)
  | commit (p : PortIx) (c : CommitMsg)
  | commitTimeout (s : StreamIx)
  | shadowReq (p : PortIx) (s : StreamIx) (phase bTtft : Nat)
  | shadowAck (p : PortIx) (s : StreamIx) (bTtft : Nat)
  | shadowNak (p : PortIx) (reason : BitVec 8) (s : StreamIx)
  | ready (p : PortIx) (s : StreamIx)
  | shadowStepStart (p : PortIx) (s : StreamIx) (pairBeat : Nat)
  | block (p : PortIx) (s : StreamIx) (index : Nat) (layers : FAddr) (state : Byte)
  | chunkDone (p : PortIx) (s : StreamIx) (chunk first last : Nat)
  | mirrorSend
  | escReq (p : PortIx) (layer : LayerIx) (fmt : BitVec 4) (kind : Fin 3)
  | escCommit (p : PortIx) (layer : LayerIx) (fmt : BitVec 4) (boundary : Nat)
  | escClear (p : PortIx) (pairBeat : Nat)
  | stretch (p : PortIx) (cycles firstBeat : Nat)
  | freeze (p : PortIx)
  | resumeMessage (p : PortIx) (t : Nat)
  | muleResend (p : PortIx) (attempt : Nat) (layer : LayerIx) (dest src : BitVec 16)
  | muleFail (p : PortIx) (dest src : BitVec 16)
  | pairCtrlWrite (value : Word32)
  -- clocks and power
  | fieldPllLoss (f : FieldIx)
  | fieldPllRelockTimeout (f : FieldIx)
  | mifPllLoss (f : FieldIx)
  | stewardPllLoss
  | timebasePllLoss
  | referenceLoss
  | inputOutOfRange (volts10mV : BitVec 16)
  | inputCutoff
  | zoneTelemetry (f : FieldIx) (z : ZoneReading)
  | zoneCurrentLimit (f : FieldIx)
  | droopWindow (f : FieldIx) (high : List (Nat × Nat)) (meanUv : Nat) (fast : Nat)
  | suspectedCrack (f : FieldIx) (patch : Fin 42)
  | zoneShort (r : Rail) (zone : Nat) (amps : Nat)
  | drainEnd (f : FieldIx)
  | drainAbandon (f : FieldIx)
  | fieldGate (f : FieldIx)
  | wakeComplete (f : FieldIx)
  | fieldReopen (f : FieldIx)
  -- thermal and envelope
  | sensorSample (readings : List (Nat × BitVec 16 × BitVec 16))
  | sensorReferenceCheck (i : Fin 246) (passA passB : Bool)
  | thermalEvaluation (means : Option (Nat × Int × Int × Int)) (pFix pDec pPf : Nat)
  | envelopeDecision (power5ms : Nat) (modelRoom : Bool)
  | class0ReleaseHandoffTimeout (s : StreamIx)
  | class0ReleaseComplete
  | hostCapWrite (value : Word32)
  | holdQuiesced
  | holdAbandon (f : FieldIx)
  | holdExitStep (k : HoldStep)
  | clearEmerg
  | clearTrip
  -- reset and boot
  | powerOn
  | coldReset
  | resetRelease (bootNs : Nat)
  | warm
  | field (index : BitVec 16)
  | gateway (index : BitVec 16)
  | linkPort (index : BitVec 16) (force : Bool)
  | quiesceComplete (kind : Fin 3) (index : Nat) (drops : Nat)
  | quiesceTimeout (kind : Fin 3) (index : Nat) (drops : Nat)
  | fieldResetReopen (f : FieldIx)
  | criticalStateError (e : CritError)
  | read
  | erase
  | program
  | optionOperationEnd (failed : Bool)
  | report
  | extend (m : Fin 8)
  | twin
  | twinStatePoll
  | attestReportReady
  -- faults
  | roosterBeat (byHost : Bool)
  | roosterWindow
  | beatWatch (f : FieldIx)
  | replayWatch
  | recoveryStart
  | recoveryTwinListenEnd
  | suspectReplay
  | release (s : StreamIx)
  | selfTestRun (u : TestUnit)
  | selfTestEnd (u : TestUnit) (r : TestResult)
  | selfTestAbandon (u : TestUnit) (why : AbandonWhy)
  | fieldLoss (f : FieldIx) (cause : Fin 8)
  | fieldPllRelock (f : FieldIx)
  | timebasePllRelock
  | aerErrorLogged (uncorrectable correctable : Word32)
  | sidebandUnknownCommand (command : Byte)
deriving DecidableEq, Repr

end Sys2Proof
end

