-- ==== Sys2Proof/Config.lean ====
section
/-! DEFINITION. The free values: what the spec leaves open and the machine goes on with. Each is an opaque constant
with no body, so that nothing can be proved of its value; notes/assumptions names each. -/

namespace Sys2Proof.Config

/-- A fresh 8-bit value for the n-th byte the spec calls undefined (R512: bytes an abandoned erase or program
touched). UNVERIFIED value, safe: every claim holds for every value. -/
opaque freeByte : Nat → Byte

/-- A fresh 64-bit value for the n-th choice Bellwether makes without a rule: the far address of a layer vector or of a
prefix node's token copy (R226, R237). UNVERIFIED value, safe. -/
opaque freeFar : Nat → FAddr

/-- The public key that key recovery yields from the wrapped key and the helper data (R511 steps 1 to 5); none when
the unwrap fails. The response of the physically unclonable function is the part's own. UNVERIFIED, safe. -/
opaque recoverKey : List Byte → List Byte → Option (List Byte)

/-- The ECDSA P-256 signature, r then s, 64 bytes, over a report with the recovered private scalar (R520). The scalar is
never readable (R511). UNVERIFIED, safe. -/
opaque sign : List Byte → List Byte → List Byte

/-- The endpoint UUID reported over the sideband (R382); the spec gives no value. UNVERIFIED, safe. -/
opaque endpointUuid : List Byte

/-- The version entries that Get MCTP Version Support reports (R382); the spec leaves them to the MCTP base specification and gives none.
UNVERIFIED, safe. -/
opaque mctpVersions : List Byte

/-- The Vendor ID assigned to Lomaulyn (R357, R383); the spec gives no number. UNVERIFIED, safe. -/
opaque vendorId : BitVec 16

/-- The trims that option-block bytes 0x0A00 to 0x0FFF spell: the spec names them and gives no layout (R508). The
arguments are those bytes and an index: 0 RTH_J_NOM, 1 RTH_M_NOM (0.001 K/kW), 2 INLET_MAX (1/16 C), 3 P_fix, 4 P_dec,
5 P_pf (W), 16 + f the VLOGIC set point of field f (mV). UNVERIFIED, safe. -/
opaque trim : List Byte → Nat → Nat

/-- The boot options that option-block bytes 0x1000 to 0x10FF spell: 0 the SMBus address, 1 DEVICE_ADDR (R508 gives no
layout). UNVERIFIED, safe. -/
opaque bootOption : List Byte → Nat → Nat

/-- fp32 of a sum with an infinite or NaN operand: R111 to R113 state no result for an infinity or NaN already in a destination or
a state. UNVERIFIED value, safe. -/
opaque openSum : F32 → F32 → F32

/-- fp32 of a product with an infinite or NaN operand (R210 states none). UNVERIFIED value, safe. -/
opaque openProd : F32 → F32 → F32

/-- fp32 of a quotient with an infinite, NaN or zero operand where R148 and R210 state none. UNVERIFIED value, safe. -/
opaque openQuot : F32 → F32 → F32

/-- The thermal cap that a measured thermal resistance of zero gives: R466 divides by it and states no quotient. The argument is the
difference of temperatures divided, in 1/16 K. UNVERIFIED value, safe. -/
opaque openCap : Int → Int

end Sys2Proof.Config
end

