-- ==== Sys2Proof/Machine/State.lean ====
section
/-! DEFINITION. The state of one W9 as plain data. Registers live in two sparse maps (`bar0` by BAR0 dword offset, `page` by tile
and control-page dword offset) whose unlisted dwords hold the reset value of the register map (Machine/RegMap.lean); every other
piece of state the spec names is a field here. INVENTORY.md lists each with its rule and its reset value. -/

namespace Sys2Proof.Machine

/-- A sparse map by natural keys in one canonical form: keys strictly rising, no entry equal to what its key reads as unlisted. -/
abbrev SMap (α : Type) := List (Nat × α)

/-! ## The part and its time -/

/-- The steppings (R1). -/
inductive Stepping where
  | a1 | b0
deriving DecidableEq, Repr

/-- An event record before it is numbered into 32 bytes (Table 0.6). -/
structure EventRec where
  code : BitVec 16
  source : BitVec 16
  classStream : BitVec 16
  seq : BitVec 16
  time : Nat
  detail : List Byte
deriving DecidableEq, Repr

/-- Identity, power, time and records of the device (R1, R13, R14, R26, R92, R436). `free` counts the free values drawn: it is
the model's own field. `copies` holds how far the sampled copy of each domain is ahead of the timebase, in ns. -/
structure Dev where
  stepping : Stepping
  powered : Bool
  rstDone : Bool
  time : Nat
  timeLatch : Word32
  seq : BitVec 16
  limits : List ((BitVec 16 × BitVec 16) × Nat)
  copies : SMap Int
  free : Nat
deriving DecidableEq, Repr

/-! ## Memories -/

/-- Far memory, tile stores and bundle stores with their damaged and single-bit quarters (R46, R53, R54, R285, R294). Quarter
lists hold the key of the quarter's first byte; `farLasting` are single-bit faults a write-back does not mend. -/
structure Mem where
  far : List Host.Cell
  farUE : List Nat
  farCE : List Nat
  farLasting : List Nat
  store : List Host.Cell
  storeUE : List Nat
  storeCE : List Nat
  bundles : SMap (BitVec 256)
deriving DecidableEq, Repr

/-! ## Tiles, routers, fields, gateways -/

/-- A write waiting in the deferral buffer with what it announces (R69, R70). -/
structure Deferred where
  addr : LAddr
  data : List Byte
  signal : Option CounterIx
  sched : Bool
deriving DecidableEq, Repr

/-- A transfer a tag tracks (R84, R85): `left` far requests are outstanding. -/
structure FmqXfer where
  load : Bool
  far : FAddr
  addr : LAddr
  len : Nat
  since : Nat
  left : Nat
  damaged : Bool
  watched : Bool
deriving DecidableEq, Repr

/-- A product in flight (R108): its sums in landing order, the device time of its issue, its input cycles n × r, and the cycles
T of R107. -/
structure Product where
  dst : LAddr
  add : Bool
  sums : List F32
  sat : Bool
  issued : Nat
  input : Nat
  cycles : Nat
deriving DecidableEq, Repr

/-- A weight block in a C-array buffer (R99): weights W(i, k) as edge conversion gives them with their scales applied, row by row
of i, what edge conversion found in them, the rate factor of their format, and the device time the WLOAD completes. -/
structure WBlock where
  rows : List (List (Int × Int))
  nonfinite : Bool
  r : Nat
  ready : Nat
deriving DecidableEq, Repr

/-- An ATTN or AMERGE in flight with its last write (R215). -/
structure AttnOp where
  writes : List (LAddr × F32)
  cycles : Nat
deriving DecidableEq, Repr

/-- The scrub engine of a tile (R55 to R57): `rows` is the next row of each bank (0 to 31 bank store, 32 to 47 operand store); `seen` are the banks that
have recorded a correctable error in the pass (R92). -/
structure Scrub where
  rows : SMap Nat
  waiting : List LAddr
  passStart : Nat
  lateRaised : Bool
  seen : List Nat
deriving DecidableEq, Repr

/-- What a tile counted for one layer in a beat (R130). -/
structure LayerCounts where
  layer : LayerIx
  flushed : Nat
  saturated : Nat
  overflow : Nat
deriving DecidableEq, Repr

/-- What a BEAT bundle sends (R130, R529). `taint` says what delivered zeros: false a store read, true an FMQ landing. -/
structure BeatReport where
  counts : List LayerCounts
  taint : Option Bool
  stream : Option StreamIx
deriving DecidableEq, Repr

/-- A staging slot of a stream and layer at its owning tile (R219 to R222): the chunk it holds, its flushes not yet DONE, whether
it has been flushed at all, and the entry written at each position of the chunk. -/
structure StageSlot where
  chunk : Option Nat
  flushPending : Nat
  flushed : Bool
  data : SMap (List Byte)
deriving DecidableEq, Repr

/-- The staging of one stream and layer (R219, R223). -/
structure Staging where
  stream : StreamIx
  layer : LayerIx
  slot0 : StageSlot
  slot1 : StageSlot
  frontier : Option Nat
deriving DecidableEq, Repr

/-- The state of a tile beside its control page and stores. `credits` is its credit per target ring (R200), `opSeq` the number of
its next operation (Table 5.2), `wants` the bytes each producer entry of a ring asks for and `servedLast` one more than the entry
served last (R196, R198). -/
structure TileS where
  startWait : Bool
  stopWait : Bool
  pulses : Nat
  idleUntil : Nat
  zeroing : Bool
  defer : List Deferred
  fmq : SMap (Option FmqXfer)
  products : List Product
  active : Option WBlock
  shadow : Option WBlock
  attn : List AttnOp
  scrub : Scrub
  counts : List LayerCounts
  taint : Option Bool
  taintOf : Option StreamIx
  reports : List BeatReport
  credits : SMap Nat
  opSeq : BitVec 32
  wants : SMap Nat
  servedLast : SMap Nat
  staging : List Staging
deriving DecidableEq, Repr

/-- A packet in a router's input buffer: the outputs it still needs, the flits left of the one it holds, and how many open slots
in a row it has lost (R186, R187). -/
structure BufEntry where
  net : Net
  inp : Inp
  pkt : Packet
  outs : List Out
  holds : Option Out
  left : Nat
  lost : Nat
deriving DecidableEq, Repr

/-- A packet in a seam queue of a field: the side it arrives from, its link, and the beat cycle of entry (R175, R176). -/
structure SeamEntry where
  side : Fin 4
  net : Net
  express : Bool
  pkt : Packet
  entered : Nat
deriving DecidableEq, Repr

/-- Who asked for a block's reset (Table 14.13, R501) and how it stands. `row` is the row of Table 14.3 of a critical-state error that
waits for its event, 0 for none. -/
structure FieldReset where
  cause : Fin 4
  row : Nat
  started : Nat
  quiescing : Bool
  timedOut : Bool
deriving DecidableEq, Repr

/-- Reasons why a field withholds its beat pulses (R254). -/
structure Withheld where
  drain : Bool
  freeze : Bool
  hold : Bool
  refill : Bool
  reset : Bool
deriving DecidableEq, Repr

/-- The state of a field beside its field control block. `beatStart` is the device time of its last beat cycle 0, `owing` the pulses its beat
counter has not counted, each with the planned end of its beat and the tiles it waits for, `wsel` is WSEL of its tiles (R313, R317). -/
structure FieldS where
  beatStart : Nat
  beatCount : Nat
  beatLen : Nat
  withheld : Withheld
  owing : List (Nat × List Tile)
  parkOrder : Bool
  parkHeld : Bool
  drainStart : Nat
  stateSince : Nat
  rampPlace : Nat
  pllLostAt : Option Nat
  reset : Option FieldReset
  seams : List SeamEntry
  slots : List SlotEntry
  mcast : List (Net × Tile × BitVec 12 × List Out)
  mcastRoots : List (Net × BitVec 12 × Tile)
  hotSince : Option Nat
  patchRuns : SMap Nat
  droopMean : Nat
  stackFailed : Bool
  stackSelf : Bool
  stackDouble : Bool
  lanesFailed : List (Fin 4)
  wsel : Bool
deriving DecidableEq, Repr

/-- A gateway's queue (R290) and its reset. -/
structure GwS where
  queue : List FarReq
  reset : Option FieldReset
deriving DecidableEq, Repr

/-! ## Precision -/

/-- A rung move decided for a layer (R151, R152). -/
inductive Decision where
  | up | down
deriving DecidableEq, Repr

/-- A narrow layer's policy state (R148 to R152). `errs` are the errors of the open window, oldest first. -/
structure LayerS where
  errs : List F32
  ovf : Nat
  evalStep : Nat
  quietStep : Nat
  decided : Option Decision
  partnerDown : Bool
deriving DecidableEq, Repr

/-- A Gander sample under way (R146): its layer, sampled tile, duty tile, the boundary its slot entered at, and the y_n it has sent. -/
structure Sample where
  layer : LayerIx
  tile : Tile
  product : Nat
  duty : Tile
  entered : Nat
  yn : Option (List F32)
deriving DecidableEq, Repr

/-- A format change whose boundary is fixed (R143): the step of its boundary, and the rung each layer takes. -/
structure FmtChange where
  boundary : Nat
  byPairBeat : Bool
  layers : List (LayerIx × Nat)
  flipped : Bool
deriving DecidableEq, Repr

/-- Format control of the device (R143 to R153). -/
structure Prec where
  layers : SMap LayerS
  change : Option FmtChange
  waiting : List (LayerIx × Nat)
  samples : List Sample
deriving DecidableEq, Repr

/-! ## Serving -/

/-- The states of Table 7.1. -/
inductive StreamState where
  | free | admitting | prefill | decode | held | parked | ending | quarantined
deriving DecidableEq, Repr

/-- A stream record (Table 7.2) and what Bellwether keeps beside it: where it was parked, its bounds and its marks. -/
structure Stream where
  state : StreamState
  cls : BitVec 2
  spec : Bool
  lookup : Bool
  insert : Bool
  shadow : Bool
  lateSeen : Bool
  modelVer : Word32
  adapterSlot : Option (Fin 64)
  adapterHandle : BitVec 16
  adapterVer : Word32
  reqTag : BitVec 16
  phase : Option Nat
  promptLen : Nat
  maxNew : Nat
  length : Nat
  generated : Nat
  stopId : Word32
  arrival : Nat
  deadlineFirst : Nat
  deadlineStep : Nat
  endStatus : BitVec 8
  lastDelivery : Nat
  seed : Word64
  temperature : BitVec 16
  topP : BitVec 16
  topK : Nat
  steps : Nat
  rowsRun : Nat
  rowsAccepted : Nat
  cplRing : Option RingIx
  reserved : Bool
  entered : Option Nat
  order : Nat
  prefixHit : Nat
  parkedIn : StreamState
  parkAsked : Bool
  cancelAsked : Bool
  tokensLost : Bool
  endTime : Nat
  handedOff : Bool
deriving DecidableEq, Repr

/-- A slot in the pipeline (R254, R142): its stream, the token of each row, epoch and step number. -/
structure Slot where
  stream : StreamIx
  pos : Nat
  rows : List Word32
  epoch : Bool
  step : Nat
  entered : Nat
  time : Nat
deriving DecidableEq, Repr

/-- A prefill or recompute chunk (R262 to R264). -/
structure Chunk where
  stream : StreamIx
  first : Nat
  count : Nat
  recompute : Option Nat
deriving DecidableEq, Repr

/-- A prefill group and its running chunk with start time and epoch (R262, R142). -/
structure Group where
  band : Nat
  field : FieldIx
  running : Option (Chunk × Nat × Bool)
deriving DecidableEq, Repr

/-- A hand-over awaiting confirmation (R256, R530). -/
structure HandOver where
  slot : Slot
  sampled : List Word32
  accepted : Nat
  time : Nat
deriving DecidableEq, Repr

/-- A request record as intake passes it on (Table 7.3). -/
structure Request where
  ring : RingIx
  kind : Byte
  cls : Byte
  flags : Byte
  stream : Nat
  tag : BitVec 16
  modelVer : Word32
  adapter : BitVec 16
  topK : Nat
  promptAddr : FAddr
  promptLen : Nat
  maxNew : Nat
  limitFirst : Nat
  limitStep : Nat
  stopId : Word32
  seed : Word64
  temperature : BitVec 16
  topP : BitVec 16
  arrival : Nat
deriving DecidableEq, Repr

/-- Counts of a window for one class (R273). -/
structure WinCount where
  tokens : Nat
  late : Nat
  refused : Nat
  ended : Nat
deriving DecidableEq, Repr

/-- Bellwether and the pipeline. `plan` holds the stretch of the plan word for the next beat; `wins` counts the running window and
`closed` what falls after its end until it is published (R273). `held` are requests held at the flip barrier, `waiting` those that wait in hold (R565). -/
structure Serve where
  pipe : List (Option Slot)
  streams : SMap Stream
  chains : SMap (List Word32)
  queue : List Chunk
  groups : List Group
  handOvers : List HandOver
  admitQ : List Request
  held : List Request
  holdWait : List Request
  decisions : Nat
  plan : Option Nat
  planNext : Option Nat
  extNow : Nat
  stretchNow : Nat
  wins : List WinCount
  closed : List WinCount
  winStart : Nat
  winLenNow : Nat
  rotMoved : List Nat
  draftField : Option FieldIx
  tainted : List (StreamIx × Bool)
deriving DecidableEq, Repr

/-! ## Key/value blocks and prefixes -/

/-- Block states (Table 6.5). -/
inductive BlockState where
  | empty | active | full | shared | dropped | recomputing
deriving DecidableEq, Repr

/-- A block descriptor (Table 6.5) with the FLUSHED masks of its layer vector (Table 6.6), one per layer index. -/
structure BlockDesc where
  state : BlockState
  layers : FAddr
  lastUse : Nat
  node : Option Nat
  flushed : SMap Nat
deriving DecidableEq, Repr

/-- A prefix node (Table 6.9); the chain order of its bucket is the order of `KvS.nodes`, newest first. -/
structure PrefixNode where
  index : Nat
  hash : Word64
  parent : Option Nat
  tokens : List Word32
  layers : FAddr
  refcount : Nat
  root : Fin 256
  lastUse : Nat
deriving DecidableEq, Repr

/-- A root-table entry in use (R238). -/
structure RootEntry where
  index : Fin 256
  key : List Byte
  hash : Word64
  count : Nat
deriving DecidableEq, Repr

/-- KV space and prefix tree. `blocks` is keyed by stream * 8192 + block. -/
structure KvS where
  blocks : SMap (Option BlockDesc)
  nodes : List PrefixNode
  roots : List RootEntry
  held : List (StreamIx × Nat)
  nextNode : Nat
  reserve : SMap Nat
deriving DecidableEq, Repr

/-! ## Weights, flips, adapters -/

/-- A manifest entry (Table 8.3). -/
structure ManifestEntry where
  layer : Nat
  tier : Nat
  offset : Nat
  length : Nat
  digest : List Byte
deriving DecidableEq, Repr

/-- A set header with its manifest (Table 8.2). -/
structure SetHeader where
  magic : Word32
  kind : Byte
  modelVer : Word32
  adapterVer : Word32
  mapId : Word64
  entries : Nat
  totalLen : Nat
  manifest : List ManifestEntry
deriving DecidableEq, Repr

/-- The load engine's operation in progress (R300, R301): the entry processed next, the copies a receiver has had of it, the port and
device its Mule data comes from, and the reason it will fail with. -/
structure LoadOp where
  header : SetHeader
  dst : FAddr
  next : Nat
  attempt : Nat
  receive : Bool
  source : Option (PortIx × BitVec 16)
  result : Option (Fin 7)
deriving DecidableEq, Repr

/-- A load item in a Mule ring, or under way (Table 8.5). -/
structure LoadItem where
  far : FAddr
  len : Nat
  mcast : Bool
  target : BitVec 15
  local' : LAddr
  signal : Option CounterIx
  seq : BitVec 32
deriving DecidableEq, Repr

/-- A flip in progress (R314): its start, drain, commit point and refill position. -/
structure Flip where
  started : Nat
  move0 : Bool
  oldVer : Word32
  version : Word32
  set : FAddr
  header : SetHeader
  drainPassed : Bool
  committed : Bool
  switchBeat : Option Nat
  entry : Nat
  retried : Bool
deriving DecidableEq, Repr

/-- A waiting or loading INSTALL (R281). -/
structure Install where
  handle : BitVec 16
  version : Word32
  addr : FAddr
  slot : Option (Fin 64)
deriving DecidableEq, Repr

/-- Loading and replacing of weights (R285 to R325). `muleRings` holds the steward's load items for ring 15 of each attach tile that its
loop has not taken, `outstanding` those taken whose signal the steward has not seen. -/
structure WeightS where
  verified : Option (FAddr × SetHeader)
  active : Option SetHeader
  load : Option LoadOp
  muleRings : SMap (List LoadItem)
  outstanding : List LoadItem
  flip : Option Flip
  install : Option Install
  adapterAddr : SMap FAddr
  itemSeq : BitVec 32
deriving DecidableEq, Repr

/-! ## Image, debug -/

/-- An image that has passed every check: its sections, header fields, digests and where it lies (R326, R339, R340). `mapId` is the weight
map of the rung in force, `oldRung` the rung that a RELOAD left. -/
structure ImageS where
  body : ImageBody
  profile : Nat
  compat : Bool
  len : Nat
  mapId : Word64
  buildId : Word64
  bodyDigest : List Byte
  digest : List Byte
  addr : FAddr
  oldRung : Option Nat
deriving DecidableEq, Repr

/-- A trap record (Table 9.11). -/
structure Trap where
  check : Fin 5
  tile : BitVec 16
  beatCycle : Nat
  beat : Nat
  time : Nat
  address : LAddr
  unit : Byte
  other : BitVec 16
deriving DecidableEq, Repr

/-- The hazard detector's FIFO and the freeze (R350, R351). -/
structure Dbg where
  fifo : List Trap
  freezeDue : Bool
  freezeTwin : Bool
  resumeAt : Option Nat
deriving DecidableEq, Repr

/-! ## Host interface and sideband -/

/-- A token record waiting in a backlog (Table 10.4). -/
structure TokenRec where
  token : Word32
  spec : Bool
  final : Bool
  late : Bool
  position : Nat
  since : Nat
deriving DecidableEq, Repr

/-- A completion record waiting to be written (Table 10.5). -/
structure CplRec where
  stream : Nat
  tag : BitVec 16
  status : Byte
  flags : Byte
  cls : Byte
  generated : Nat
  outEnd : Word32
  arrival : Nat
  endTime : Nat
  releases : Bool
  since : Nat
deriving DecidableEq, Repr

/-- A BAR4 read whose replies are awaited (R366). -/
structure Bar4Pending where
  off : Nat
  len : Nat
  tile : Nat
  issued : Nat
deriving DecidableEq, Repr

/-- The host port and the intake engine. `hostMem` is host memory as the W9 has written it; `readData` is the last read
completion, `poisoned` whether it was poisoned (R361). -/
structure HostS where
  readData : List Byte
  poisoned : Bool
  hostMem : List Host.Cell
  linkUp : Bool
  d3hot : Bool
  msixOn : Bool
  backlog : SMap (List TokenRec)
  cplWait : SMap (List CplRec)
  evtWait : List EventRec
  stamping : List (Fin 16)
  vectorDue : List (Fin 256)
  vectorLast : SMap Nat
  msixSent : SMap Nat
  bar2Waiting : List (Nat × Nat × Nat)
  bar4 : List Bar4Pending
  opSeq : BitVec 32
deriving DecidableEq, Repr

/-- The management sideband (R382, R383). -/
structure SideS where
  eid : Byte
  response : List Byte
deriving DecidableEq, Repr

/-! ## Edge ports and the twin -/

/-- A sent and unacknowledged message with its flit's number, the time it was first sent on any port and the time it was last sent on this
one (R396, R407). -/
structure SentMsg where
  seq : BitVec 16
  msg : Msg
  first : Nat
  sentAt : Nat
  replays : Nat
deriving DecidableEq, Repr

/-- An edge port beside its registers (R388 to R399). `tainted` and `overrun` tell of the data flits held for the transfer not yet acted on: one
was damaged, one found the buffer full. -/
structure PortS where
  failed : BitVec 34
  good : BitVec 34
  nextTrain : Nat
  seqTx : BitVec 16
  seqRx : BitVec 16
  resync : Bool
  nakOut : Bool
  ackOut : BitVec 16
  replay : List SentMsg
  txData : BitVec 16
  freedRx : BitVec 16
  freedTx : BitVec 16
  rxHeld : Nat
  dataDue : Nat
  tainted : Bool
  overrun : Bool
  xferSeq : BitVec 32
  reset : Option FieldReset
deriving DecidableEq, Repr

/-- A shadow setup the owner waits on (R411), and a shadow this W9 keeps for its partner. -/
structure ShadowSetup where
  req : Request
  phase : Nat
  bTtft : Nat
  retried : Bool
deriving DecidableEq, Repr

/-- A hand-over of a shadowed step with the tokens it commits (R414), its time and the deadline it has to meet. -/
structure CommitRec where
  stream : StreamIx
  position : Nat
  tokens : List Word32
  time : Nat
  due : Nat
deriving DecidableEq, Repr

/-- The pair (R403 to R423). `tainted` lists streams with the PURPOSE of a damaged transfer about their chunk or their setup (R409, R411). -/
structure PairS where
  sentAccept : Bool
  rcvAccept : Bool
  lastHb : Nat
  hbP6 : Nat
  hbP7 : Nat
  lastEcho : Nat × Nat
  partnerStretch : Nat
  partnerNext : Option (Nat × Nat)
  nextStretch : Option (Nat × Nat)
  setups : SMap (Option ShadowSetup)
  shadows : List StreamIx
  shadowPhases : SMap (Option Nat)
  ownReady : List StreamIx
  twinReady : List StreamIx
  starts : SMap (Option Nat)
  backlog : List CommitRec
  own : List CommitRec
  theirs : List CommitRec
  mirrorQueue : List (StreamIx × LayerIx × Nat)
  escClear : Bool
  handedTo : List StreamIx
  failedAt : Nat
  claimed : Bool
  alignDue : Bool
  tainted : List (StreamIx × BitVec 8)
deriving DecidableEq, Repr

/-! ## Power, thermal, reset, option store, attestation, faults -/

/-- Class-0 release in progress (R480): its cause, its start, and the streams it concerns. -/
structure Rel where
  cause : Fin 3
  started : Nat
  count : Nat
deriving DecidableEq, Repr

/-- The envelope manager and the sensor hub (R460 to R491). `pNom` holds the option block's power-model terms, `pFix` to `pPf` the largest measured. Temperatures are in 1/16 degree; a thermal resistance is a
difference of temperatures over a power in W. -/
structure EnvS where
  prevSamples : List (List (Nat × Int))
  disagree : SMap Nat
  agreeSince : SMap Nat
  checked : List Nat
  overSince : Option Nat
  limitOn : Bool
  stackSince : Option Nat
  risingSince : Nat
  rJ : Int × Nat
  rM : Int × Nat
  pNom : Nat × Nat × Nat
  pFix : Nat
  pDec : Nat
  pPf : Nat
  imageSince : Nat
  pace : Nat
  stretch : Nat
  stretchEndSince : Option Nat
  lowSince : Option Nat
  roomSince : Option Nat
  lastPark : Nat
  clampReq : Option Nat
  release : Option Rel
  holdStart : Nat
  holdStep : Nat
  holdDecision : Nat
  savedPace : Nat
  savedStretch : Nat
  selfStacks : Bool
deriving DecidableEq, Repr

/-- The reset controller and the pins (R494 to R506). -/
structure RstS where
  asserted : Bool
  countedWarm : List Nat
  pendingSafe : Bool
  lastSafe : Option (Fin 4)
  releasedAt : Nat
  hangReport : Bool
  critReport : Option CritError
deriving DecidableEq, Repr

/-- The option store and its operation (R507 to R512), and what boot took from it: the copy in use, its GENERATION, its repair, seam-lane and channel maps
as applied (bytes 0x0040 to 0x09BF), its public key and its SHA-256. -/
structure OptS where
  flash : List Host.Cell
  op : Option (BitVec 2 × Nat × Nat)
  copy : Nat
  gen : Nat
  maps : List Byte
  pubKey : List Byte
  hash : List Byte
deriving DecidableEq, Repr

/-- A report requester (R518, Table 14.9). -/
inductive Requester where
  | host | twin | sideband
deriving DecidableEq, Repr

/-- A report being fetched from the twin (R522): the port, when it was asked for, the transfer number awaited, whether that transfer is
for the report itself, and the nonce. -/
structure Fetch where
  port : PortIx
  started : Nat
  seq : BitVec 32
  report : Bool
  nonce : List Byte
deriving DecidableEq, Repr

/-- Attestation (R517 to R522). A report under way is already complete as its bytes: it records the state at the start of its building.
`pageReport` is the report the attestation page holds for the twin, `twinReport` the last one fetched from the twin. -/
structure AttS where
  queue : List (Requester × List Byte)
  building : Option (Requester × List Byte)
  hostReport : List Byte
  pageReport : List Byte
  twinReport : List Byte
  sideReport : List Byte
  twinState : Fin 4
  sideBusy : Bool
  fetch : Option Fetch
  certificate : List Byte
deriving DecidableEq, Repr

/-- A queued or running self-test (R533, R534). -/
structure SelfTest where
  unit : TestUnit
  row : Nat
  trigger : Nat
  started : Option Nat
deriving DecidableEq, Repr

/-- A replay under way (R548). -/
structure Replay where
  stream : StreamIx
  started : Nat
  limit : Nat
  chunk : Bool
deriving DecidableEq, Repr

/-- Faults and recovery (R527 to R556). `windowEnd` is the end of Rooster's last window, `waitSince` the start of a recovery's wait for the
twin, `helloSeen` a PAIR_HELLO heard in it; `recoveryDue` says that
no recovery has started since the last warm reset. -/
structure FaultS where
  tests : List SelfTest
  seamLate : List (FieldIx × Fin 4 × Nat)
  beatSeen : Bool
  misses : Nat
  windowEnd : Nat
  suspects : List StreamIx
  replay : Option Replay
  detectTime : Nat
  recovering : Bool
  firstLost : Bool
  recoveryDue : Bool
  waitSince : Nat
  helloSeen : Bool
deriving DecidableEq, Repr

/-- One W9: everything but the queue of waiting commands. `img` is the image in force; `checked` the one that has passed every check since
the last LOAD (Table 9.8). -/
structure W9 where
  dev : Dev
  bar0 : SMap Word32
  page : SMap Word32
  mem : Mem
  tiles : SMap TileS
  routers : SMap (List BufEntry)
  fields : SMap FieldS
  gws : SMap GwS
  prec : Prec
  serve : Serve
  kv : KvS
  wt : WeightS
  img : Option ImageS
  checked : Option ImageS
  dbg : Dbg
  host : HostS
  side : SideS
  ports : SMap PortS
  pair : PairS
  env : EnvS
  rst : RstS
  opt : OptS
  att : AttS
  flt : FaultS
deriving DecidableEq, Repr

/-- The machine: one W9 and the commands that wait, first in, first out. -/
structure State where
  w : W9
  pending : List Instr
deriving DecidableEq, Repr

/-- No condition of the W9 stops it without an effect that the spec gives (INVENTORY.md, Faults): no command faults, so
there is no constructor. -/
inductive Fault where
deriving DecidableEq, Repr

/-- Why a command has no meaning. -/
inductive Refusal where
  /-- Raised by an arm of exec that is not yet written; safe, because the machine stops. -/
  | notModelled (mnemonic : String)
deriving DecidableEq, Repr

/-! ## Reset -/

/-- A tile right after a reset that covers it, zeroing done (R59, R91, R110). -/
def TileS.init : TileS :=
  { startWait := false, stopWait := false, pulses := 0, idleUntil := 0, zeroing := false, defer := [], fmq := [],
    products := [], active := none, shadow := none, attn := [], scrub := ⟨[], [], 0, false, []⟩, counts := [], taint := none,
    taintOf := none, reports := [], credits := [], opSeq := 0, wants := [], servedLast := [], staging := [] }

/-- No reason to withhold pulses. -/
def Withheld.none : Withheld := ⟨false, false, false, false, false⟩

/-- A field right after power-on (R206, R457, R555). -/
def FieldS.init : FieldS :=
  { beatStart := 0, beatCount := 0, beatLen := 0, withheld := Withheld.none, owing := [], parkOrder := false,
    parkHeld := false, drainStart := 0, stateSince := 0, rampPlace := 0, pllLostAt := none,
    reset := none, seams := [], slots := [], mcast := [], mcastRoots := [], hotSince := none, patchRuns := [], droopMean := 0,
    stackFailed := false, stackSelf := false, stackDouble := false, lanesFailed := [], wsel := false }

/-- A gateway right after its reset (R502). -/
def GwS.init : GwS := ⟨[], none⟩

/-- A layer before its first window (R148, R150). -/
def LayerS.init : LayerS := ⟨[], 0, 0, 0, none, false⟩

/-- A FREE stream slot (Table 7.1). -/
def Stream.init : Stream :=
  { state := .free, cls := 3, spec := false, lookup := false, insert := false, shadow := false, lateSeen := false,
    modelVer := 0, adapterSlot := none, adapterHandle := 0, adapterVer := 0, reqTag := 0, phase := none, promptLen := 0,
    maxNew := 0, length := 0, generated := 0, stopId := 0xFFFFFFFF, arrival := 0, deadlineFirst := 0, deadlineStep := 0,
    endStatus := 0, lastDelivery := 0, seed := 0, temperature := 0, topP := 0, topK := 0, steps := 0, rowsRun := 0,
    rowsAccepted := 0, cplRing := none, reserved := false, entered := none, order := 0, prefixHit := 0,
    parkedIn := .free, parkAsked := false, cancelAsked := false, tokensLost := false, endTime := 0, handedOff := false }

/-- An edge port right after its reset (R388, R396, R397). -/
def PortS.init : PortS :=
  { failed := 0, good := 0, nextTrain := 0, seqTx := 0, seqRx := 0, resync := false, nakOut := false, ackOut := 0xFFFF,
    replay := [], txData := 0, freedRx := 0, freedTx := 0, rxHeld := 0, dataDue := 0, tainted := false, overrun := false, xferSeq := 0,
    reset := none }

/-- No counts (R273). -/
def WinCount.zero : WinCount := ⟨0, 0, 0, 0⟩

/-- Format control with no image. -/
def Prec.init : Prec := ⟨[], none, [], []⟩

/-- Bellwether with no image (R516). -/
def Serve.init : Serve :=
  { pipe := [], streams := [], chains := [], queue := [], groups := [], handOvers := [], admitQ := [], held := [],
    holdWait := [], decisions := 0, plan := none, planNext := none, extNow := 0, stretchNow := 0,
    wins := [WinCount.zero, WinCount.zero, WinCount.zero], closed := [WinCount.zero, WinCount.zero, WinCount.zero],
    winStart := 0, winLenNow := 0x3B9ACA00, rotMoved := [], draftField := none, tainted := [] }

/-- KV space with no image. -/
def KvS.init : KvS := ⟨[], [], [], [], 0, []⟩

/-- No set, no flip. -/
def WeightS.init : WeightS := ⟨none, none, none, [], [], none, none, [], 0⟩

/-- No trap, no freeze. -/
def Dbg.init : Dbg := ⟨[], false, false, none⟩

/-- The host port after reset (R385); host memory is the world's and is kept by the one who calls this. -/
def HostS.init : HostS :=
  { readData := [], poisoned := false, hostMem := [], linkUp := false, d3hot := false, msixOn := false, backlog := [],
    cplWait := [], evtWait := [], stamping := [], vectorDue := [], vectorLast := [], msixSent := [], bar2Waiting := [],
    bar4 := [], opSeq := 0 }

/-- The sideband before an endpoint ID is set. PRESUMED (log entry 7): EID 0. -/
def SideS.init : SideS := ⟨0, []⟩

/-- Solo (R423). -/
def PairS.init : PairS :=
  { sentAccept := false, rcvAccept := false, lastHb := 0, hbP6 := 0, hbP7 := 0, lastEcho := (0, 0), partnerStretch := 0,
    partnerNext := none, nextStretch := none, setups := [], shadows := [], shadowPhases := [], ownReady := [], twinReady := [],
    starts := [], backlog := [], own := [], theirs := [], mirrorQueue := [], escClear := true, handedTo := [],
    failedAt := 0, claimed := false, alignDue := false, tainted := [] }

/-- The envelope manager right after reset: pace 8, no stretch (Table 13.7). -/
def EnvS.init : EnvS :=
  { prevSamples := [], disagree := [], agreeSince := [], checked := [], overSince := none, limitOn := false, stackSince := none, risingSince := 0,
    rJ := (0, 1), rM := (0, 1), pNom := (0, 0, 0), pFix := 0, pDec := 0, pPf := 0, imageSince := 0, pace := 8, stretch := 0,
    stretchEndSince := none, lowSince := none, roomSince := none, lastPark := 0, clampReq := none, release := none, holdStart := 0,
    holdStep := 0, holdDecision := 0, savedPace := 8, savedStretch := 0, selfStacks := false }

/-- Reset asserted, as it is when power-good rises (R495, R515). -/
def RstS.init : RstS := ⟨true, [], false, none, 0, false, none⟩

/-- The option store idle; its bytes are not a matter of reset. -/
def OptS.init : OptS := ⟨[], none, 0, 0, [], [], []⟩

/-- No report. -/
def AttS.init : AttS := ⟨[], none, [], [], [], [], 0, false, none, []⟩

/-- No test, no hang. -/
def FaultS.init : FaultS := ⟨[], [], false, 0, 0, [], none, 0, false, false, false, 0, false⟩

/-- No byte listed: what an unlisted byte reads as is in Machine/Ops.lean. -/
def Mem.init : Mem := ⟨[], [], [], [], [], [], [], []⟩

/-- The device as power-good rises (R13, R26). DESIGN CHOICE (log entry 2): stepping B0. -/
def Dev.init : Dev :=
  { stepping := .b0, powered := true, rstDone := false, time := 0, timeLatch := 0, seq := 0, limits := [], copies := [],
    free := 0 }

/-- One W9 as power-good rises: everything cleared (Table 14.1), reset asserted, boot not yet run. -/
def W9.reset : W9 :=
  { dev := Dev.init, bar0 := [], page := [], mem := Mem.init, tiles := [], routers := [], fields := [], gws := [],
    prec := Prec.init, serve := Serve.init, kv := KvS.init, wt := WeightS.init, img := none, checked := none, dbg := Dbg.init,
    host := HostS.init, side := SideS.init, ports := [], pair := PairS.init, env := EnvS.init, rst := RstS.init,
    opt := OptS.init, att := AttS.init, flt := FaultS.init }

/-- The machine right after reset: power-good has risen, every register at its reset value, no command waiting. -/
def State.reset : State := ⟨W9.reset, []⟩

end Sys2Proof.Machine
end

