-- ==== Sys2Proof/Machine/Ops.lean ====
section
/-! DEFINITION. The shared operations over the state: sparse maps in canonical form, bit fields, little-endian bytes, registers,
memories, the parts of the machine by index, and raising an event. Meanings are written over these alone. -/

namespace Sys2Proof.Machine

open Sys2Proof

/-! ## Sparse maps in canonical form -/

/-- What key `k` holds: its entry, or what an unlisted key reads as. -/
def smGet {α : Type} (d : Nat → α) : SMap α → Nat → α
  | [], k => d k
  | e :: r, k => if e.1 = k then e.2 else smGet d r k

/-- Put (k, v) in its place among rising keys. -/
def smInsert {α : Type} (k : Nat) (v : α) : SMap α → SMap α
  | [] => [(k, v)]
  | e :: r => if k < e.1 then (k, v) :: e :: r else e :: smInsert k v r

/-- Drop every entry of key `k`. -/
def smErase {α : Type} (k : Nat) : SMap α → SMap α
  | [] => []
  | e :: r => if e.1 = k then smErase k r else e :: smErase k r

/-- Write `v` at `k`: writing what an unlisted key reads as removes the entry. -/
def smPut {α : Type} [DecidableEq α] (d : Nat → α) (m : SMap α) (k : Nat) (v : α) : SMap α :=
  if v = d k then smErase k m else smInsert k v (smErase k m)

/-- Keys strictly rising from above `lo` and no entry at its unlisted value. -/
def smWfFrom {α : Type} [DecidableEq α] (d : Nat → α) : Option Nat → SMap α → Bool
  | _, [] => true
  | lo, e :: r => (match lo with | none => true | some l => decide (l < e.1)) && decide (e.2 ≠ d e.1) && smWfFrom d (some e.1) r

/-- The canonical form of a sparse map. -/
def smWf {α : Type} [DecidableEq α] (d : Nat → α) (m : SMap α) : Bool := smWfFrom d none m

/-- Change what key `k` holds. -/
def smMod {α : Type} [DecidableEq α] (d : Nat → α) (m : SMap α) (k : Nat) (f : α → α) : SMap α :=
  smPut d m k (f (smGet d m k))

/-! ## Memories of bytes -/

/-- The canonical form of a memory whose unlisted bytes read as `b`. -/
abbrev Memory.wf (b : Byte) (m : List Host.Cell) : Bool := smWf (fun _ => b) m

/-- Read `n` bytes from `k` upward. -/
def bytesAt (b : Byte) (m : List Host.Cell) (k : Nat) : Nat → List Byte
  | 0 => []
  | n + 1 => smGet (fun _ => b) m k :: bytesAt b m (k + 1) n

/-- Write bytes from `k` upward. -/
def putBytes (b : Byte) (m : List Host.Cell) (k : Nat) : List Byte → List Host.Cell
  | [] => m
  | x :: r => putBytes b (smPut (fun _ => b) m k x) (k + 1) r

/-! ## Little-endian bytes and bit fields (R7, R8) -/

/-- The low `n` bytes of `v`, least significant first (R8). -/
def le : Nat → Nat → List Byte
  | 0, _ => []
  | n + 1, v => BitVec.ofNat 8 v :: le n (v / 256)

/-- The number that bytes spell, least significant first (R8). -/
def ofLe : List Byte → Nat
  | [] => 0
  | b :: r => b.toNat + 256 * ofLe r

/-- Bits [hi:lo] of `v` as a number (R7). -/
def fieldOf {w : Nat} (v : BitVec w) (hi lo : Nat) : Nat := v.toNat / 2 ^ lo % 2 ^ (hi + 1 - lo)

/-- The mask of bits [hi:lo]. -/
def maskOf (w hi lo : Nat) : BitVec w := BitVec.ofNat w ((2 ^ (hi + 1 - lo) - 1) * 2 ^ lo)

/-- `v` with bits [hi:lo] set to the low bits of `x`. -/
def setField {w : Nat} (v : BitVec w) (hi lo x : Nat) : BitVec w :=
  (v &&& ~~~(maskOf w hi lo)) ||| (BitVec.ofNat w (x * 2 ^ lo) &&& maskOf w hi lo)

/-- Bit `i` of a number. -/
def bitAt (n i : Nat) : Bool := n / 2 ^ i % 2 == 1

/-- A boolean as one bit. -/
def b2n (b : Bool) : Nat := if b then 1 else 0

/-- A pattern of bits, one per element, least significant first. -/
def ofBits : List Bool → Nat
  | [] => 0
  | b :: r => b2n b + 2 * ofBits r

/-- A signed number in two's complement of `w` bits. -/
def signedBits (w : Nat) (i : Int) : BitVec w := BitVec.ofInt w i

/-- A 32-bit counter marked RC saturates at 0xFFFF_FFFF (R93, R246, R385 and every register chapter). -/
def satAdd32 (v : Word32) (n : Nat) : Word32 := BitVec.ofNat 32 (min (v.toNat + n) 0xFFFFFFFF)

/-- Ceiling division. -/
def cdiv (a b : Nat) : Nat := (a + b - 1) / b

/-! ## Sources of events (R24) -/

/-- SOURCE of a unit: its type and instance (Table 0.7). -/
def unitSrc (ty inst : Nat) : BitVec 16 := BitVec.ofNat 16 (0x8000 + ty * 256 + inst)
/-- SOURCE of a tile. -/
def tileSrc (t : Tile) : BitVec 16 := BitVec.ofNat 16 t.val
/-- Field control. -/
def srcField (f : FieldIx) : BitVec 16 := unitSrc 1 f.val
/-- Memory gateway. -/
def srcGw (g : Nat) : BitVec 16 := unitSrc 2 g
/-- DRAM stack. -/
def srcStack (f : Nat) : BitVec 16 := unitSrc 3 f
/-- Edge port. -/
def srcPort (p : PortIx) : BitVec 16 := unitSrc 4 p.val
/-- Host port. -/
def srcHost : BitVec 16 := unitSrc 5 0
/-- Intake engine. -/
def srcIntake : BitVec 16 := unitSrc 6 0
/-- Steward complex. DESIGN CHOICE (log entry 8): core 0 is the instance of every steward event. -/
def srcSteward : BitVec 16 := unitSrc 7 0
/-- Envelope manager. -/
def srcEnv : BitVec 16 := unitSrc 8 0
/-- Reset controller. -/
def srcRst : BitVec 16 := unitSrc 9 0
/-- Sensor hub. -/
def srcHub : BitVec 16 := unitSrc 0x0A 0
/-- Option-store interface. -/
def srcOpt : BitVec 16 := unitSrc 0x0B 0
/-- Rooster. -/
def srcRooster : BitVec 16 := unitSrc 0x0C 0

/-! ## Parts of the machine by index -/

/-- Tile `t`. -/
def tileOf (w : W9) (t : Tile) : TileS := smGet (fun _ => TileS.init) w.tiles t.val
/-- Change tile `t`. -/
def modTile (t : Tile) (f : TileS → TileS) (w : W9) : W9 :=
  { w with tiles := smMod (fun _ => TileS.init) w.tiles t.val f }
/-- Field `f`. -/
def fieldState (w : W9) (f : FieldIx) : FieldS := smGet (fun _ => FieldS.init) w.fields f.val
/-- Change field `f`. -/
def modField (f : FieldIx) (g : FieldS → FieldS) (w : W9) : W9 :=
  { w with fields := smMod (fun _ => FieldS.init) w.fields f.val g }
/-- Gateway `g`. -/
def gwOf (w : W9) (g : Gateway) : GwS := smGet (fun _ => GwS.init) w.gws g.val
/-- Change gateway `g`. -/
def modGw (g : Gateway) (h : GwS → GwS) (w : W9) : W9 := { w with gws := smMod (fun _ => GwS.init) w.gws g.val h }
/-- Port `p`. -/
def portOf (w : W9) (p : PortIx) : PortS := smGet (fun _ => PortS.init) w.ports p.val
/-- Change port `p`. -/
def modPort (p : PortIx) (g : PortS → PortS) (w : W9) : W9 :=
  { w with ports := smMod (fun _ => PortS.init) w.ports p.val g }
/-- Stream slot `s`. -/
def streamOf (w : W9) (s : StreamIx) : Stream := smGet (fun _ => Stream.init) w.serve.streams s.val
/-- Change stream slot `s`. -/
def modStream (s : StreamIx) (g : Stream → Stream) (w : W9) : W9 :=
  { w with serve := { w.serve with streams := smMod (fun _ => Stream.init) w.serve.streams s.val g } }
/-- Layer `l`'s policy state. -/
def layerOf (w : W9) (l : LayerIx) : LayerS := smGet (fun _ => LayerS.init) w.prec.layers l.val
/-- Change layer `l`'s policy state. -/
def modLayer (l : LayerIx) (g : LayerS → LayerS) (w : W9) : W9 :=
  { w with prec := { w.prec with layers := smMod (fun _ => LayerS.init) w.prec.layers l.val g } }
/-- The packets in the router of tile `t`. -/
def routerOf (w : W9) (t : Tile) : List BufEntry := smGet (fun _ => []) w.routers t.val
/-- Set the packets in the router of tile `t`. -/
def setRouter (t : Tile) (b : List BufEntry) (w : W9) : W9 := { w with routers := smPut (fun _ => []) w.routers t.val b }

/-- All fields, all ports, all gateways, all stream slots in ascending order. -/
def allFields : List FieldIx := List.finRange 48
/-- All ports. -/
def allPorts : List PortIx := List.finRange 8
/-- All stream slots. -/
def allStreams : List StreamIx := List.finRange 1024
/-- The 16 rings. -/
def allRings : List RingIx := List.finRange 16

/-- Do `f` for each element in order. -/
def forEach {α : Type} (l : List α) (f : α → W9 → W9) (w : W9) : W9 := l.foldl (fun w a => f a w) w

/-- Do `f` where `b`, else nothing. -/
def onlyIf (b : Bool) (f : W9 → W9) (w : W9) : W9 := if b then f w else w

/-! ## Free values -/

/-- Advance the counter of free values by `n`. -/
def drawFree (n : Nat) (w : W9) : W9 := { w with dev := { w.dev with free := w.dev.free + n } }

/-! ## The lift of a meaning to the machine -/

/-- Run a meaning over the W9 and keep the queue. -/
def lift (f : W9 → W9) (s : State) : Host.Outcome State Fault Refusal := .next { s with w := f s.w }

end Sys2Proof.Machine
end

