-- ==== Sys2Proof/Machine/RegMap.lean ====
section
/-! DEFINITION. The register map (R17 to R21): where each register lies, what its bits do on a write and a read, its reset value
and whether warm reset keeps it, as the register tables of the chapters give them; then reading and writing a register's
storage. A 64-bit register is two rows, the low dword first (R17). -/

namespace Sys2Proof.Machine

open Sys2Proof

/-- A register, or `count` alike registers `stride` apart: its reset value, the bits a write sets (RW), the bits a 1 clears (W1C),
the bits a read clears (RC), and whether warm reset keeps it. Every other bit discards writes: RO, WO or reserved. -/
structure RegRow where
  base : Nat
  stride : Nat
  count : Nat
  reset : Word32
  rw : Word32
  w1c : Word32
  rc : Word32
  keep : Bool
deriving DecidableEq, Repr

/-! ## Offsets. `Reg` names offsets in BAR0, `Pg` offsets in the tile control page. -/

/-! identity, time (R2, R14) -/
abbrev Reg.deviceId : Nat := 0
abbrev Reg.deviceTime : Nat := 0x10
/-! image (Table 9.12) -/
abbrev Reg.imgCmd : Nat := 0x8000
abbrev Reg.imgStatus : Nat := 0x8004
abbrev Reg.imgErrDetail : Nat := 0x8008
abbrev Reg.imgAddr : Nat := 0x8010
abbrev Reg.imgWset : Nat := 0x8018
abbrev Reg.imgLen : Nat := 0x8020
abbrev Reg.imgMapId : Nat := 0x8028
abbrev Reg.imgBuildId : Nat := 0x8030
abbrev Reg.imgDigest (i : Nat) : Nat := 0x8040 + 4 * i
abbrev Reg.imgLost : Nat := 0x8060
abbrev Reg.imgUnused : Nat := 0x8068
abbrev Reg.imgParkable : Nat := 0x8070
abbrev Reg.rotMember (i : Nat) : Nat := 0x8080 + 4 * i
/-! intake and output block (Table 10.8) -/
abbrev Reg.hostifCtrl : Nat := 0x100000
abbrev Reg.linkStatus : Nat := 0x100004
abbrev Reg.hostifErr : Nat := 0x100008
abbrev Reg.coalNs : Nat := 0x10000C
abbrev Reg.irqMinNs : Nat := 0x100010
abbrev Reg.intakeFound : Nat := 0x100014
abbrev Reg.tokenDrops : Nat := 0x100018
abbrev Reg.barRejects : Nat := 0x10001C
abbrev Reg.evtLost : Nat := 0x100020
abbrev Reg.bar2Far : Nat := 0x100028
abbrev Reg.evtBase : Nat := 0x100030
abbrev Reg.evtCtrl : Nat := 0x100038
abbrev Reg.evtConsumed : Nat := 0x10003C
abbrev Reg.evtWritten : Nat := 0x100040
abbrev Reg.evtWb : Nat := 0x100048
abbrev Reg.apTile (i : Nat) : Nat := 0x100080 + 4 * i
abbrev Reg.intakeBase (i : Nat) : Nat := 0x101000 + 0x40 * i
abbrev Reg.intakeCtrl (i : Nat) : Nat := 0x101008 + 0x40 * i
abbrev Reg.intakeTaken (i : Nat) : Nat := 0x101010 + 0x40 * i
abbrev Reg.intakeWb (i : Nat) : Nat := 0x101018 + 0x40 * i
abbrev Reg.cplBase (i : Nat) : Nat := 0x101020 + 0x40 * i
abbrev Reg.cplCtrl (i : Nat) : Nat := 0x101028 + 0x40 * i
abbrev Reg.cplConsumed (i : Nat) : Nat := 0x10102C + 0x40 * i
abbrev Reg.cplWritten (i : Nat) : Nat := 0x101030 + 0x40 * i
abbrev Reg.cplReserved (i : Nat) : Nat := 0x101034 + 0x40 * i
abbrev Reg.outAddr (i : Nat) : Nat := 0x104000 + 0x20 * i
abbrev Reg.outCtrl (i : Nat) : Nat := 0x104008 + 0x20 * i
abbrev Reg.outConsumed (i : Nat) : Nat := 0x10400C + 0x20 * i
abbrev Reg.outWritten (i : Nat) : Nat := 0x104010 + 0x20 * i
abbrev Reg.outBacklog (i : Nat) : Nat := 0x104014 + 0x20 * i
abbrev Reg.outDropped (i : Nat) : Nat := 0x104018 + 0x20 * i
abbrev Reg.msixAddrLo (i : Nat) : Nat := 0x10C000 + 0x10 * i
abbrev Reg.msixAddrHi (i : Nat) : Nat := 0x10C004 + 0x10 * i
abbrev Reg.msixData (i : Nat) : Nat := 0x10C008 + 0x10 * i
abbrev Reg.msixCtl (i : Nat) : Nat := 0x10C00C + 0x10 * i
abbrev Reg.msixPba (i : Nat) : Nat := 0x10D000 + 4 * i
/-! envelope and thermal block (Table 13.7) -/
abbrev Reg.envCtrl : Nat := 0x200000
abbrev Reg.envStatus : Nat := 0x200004
abbrev Reg.envErr : Nat := 0x200008
abbrev Reg.envCmd : Nat := 0x20000C
abbrev Reg.hostCap : Nat := 0x200010
abbrev Reg.facilityCap : Nat := 0x200014
abbrev Reg.thermalCap : Nat := 0x200018
abbrev Reg.capInForce : Nat := 0x20001C
abbrev Reg.power5ms : Nat := 0x200020
abbrev Reg.class0Floor : Nat := 0x200024
abbrev Reg.runFloor : Nat := 0x200028
abbrev Reg.rth : Nat := 0x20002C
abbrev Reg.rthNom : Nat := 0x200030
abbrev Reg.settings : Nat := 0x200034
abbrev Reg.hottest : Nat := 0x200038
abbrev Reg.stackHottest : Nat := 0x20003C
abbrev Reg.coolantT : Nat := 0x200040
abbrev Reg.inletMax : Nat := 0x200044
abbrev Reg.rotInterval : Nat := 0x200048
abbrev Reg.holdCount : Nat := 0x20004C
abbrev Reg.clampCount : Nat := 0x200050
abbrev Reg.sensorFlags : Nat := 0x200054
abbrev Reg.holdExitLast : Nat := 0x200058
abbrev Reg.pairRaw (i : Nat) : Nat := 0x201000 + 8 * i
abbrev Reg.pairCtl (i : Nat) : Nat := 0x201004 + 8 * i
/-! reset registers (Table 14.10) -/
abbrev Reg.rstCmd : Nat := 0x300000
abbrev Reg.rstStatus : Nat := 0x300004
abbrev Reg.rstCause : Nat := 0x300008
abbrev Reg.warmCount : Nat := 0x30000C
abbrev Reg.fieldsInReset : Nat := 0x300010
abbrev Reg.blockTimeouts : Nat := 0x300018
abbrev Reg.resetDrops : Nat := 0x30001C
abbrev Reg.critErrors : Nat := 0x300020
abbrev Reg.lastBootNs : Nat := 0x300024
/-! clock and power-delivery registers (Table 12.9) -/
abbrev Reg.clkStatus : Nat := 0x301000
abbrev Reg.fieldPllLock : Nat := 0x301008
abbrev Reg.mifPllLock : Nat := 0x301010
abbrev Reg.inputV : Nat := 0x301018
abbrev Reg.inputI : Nat := 0x30101C
abbrev Reg.zonesIsolated : Nat := 0x301020
abbrev Reg.fieldsParked : Nat := 0x301028
abbrev Reg.fieldsIlim : Nat := 0x301030
abbrev Reg.pwrErr : Nat := 0x301038
abbrev Reg.pipePlanMiss : Nat := 0x30103C
/-! option store (Table 14.11) -/
abbrev Reg.optStatus : Nat := 0x302000
abbrev Reg.optCmd : Nat := 0x302004
abbrev Reg.optAddr : Nat := 0x302008
abbrev Reg.optLen : Nat := 0x30200C
abbrev Reg.optBuf (i : Nat) : Nat := 0x303000 + 4 * i
/-! faults (Table 15.10) -/
abbrev Reg.faultCtrl : Nat := 0x304000
abbrev Reg.faultStatus : Nat := 0x304004
abbrev Reg.faultCmd : Nat := 0x304008
abbrev Reg.hangInfo : Nat := 0x30400C
abbrev Reg.hangTime : Nat := 0x304010
abbrev Reg.recoveryAddr : Nat := 0x304018
abbrev Reg.faultLost : Nat := 0x304020
abbrev Reg.roosterBeat : Nat := 0x304028
abbrev Reg.roosterMisses : Nat := 0x30402C
abbrev Reg.recoveries : Nat := 0x304030
abbrev Reg.lastRecoveryNs : Nat := 0x304034
abbrev Reg.stepsTainted : Nat := 0x304038
abbrev Reg.testsRun : Nat := 0x30403C
abbrev Reg.transients : Nat := 0x304040
abbrev Reg.lasting : Nat := 0x304044
abbrev Reg.testsAbandoned : Nat := 0x304048
abbrev Reg.testsQueued : Nat := 0x30404C
abbrev Reg.quarantinedSlots : Nat := 0x304050
abbrev Reg.faultGen : Nat := 0x304054
/-! attestation mailbox (Table 14.12) -/
abbrev Reg.attCmd : Nat := 0x400000
abbrev Reg.attStatus : Nat := 0x400004
abbrev Reg.attArg (i : Nat) : Nat := 0x400020 + 4 * i
abbrev Reg.meas (i : Nat) : Nat := 0x400100 + 4 * i
abbrev Reg.certLen : Nat := 0x400300
abbrev Reg.attReport (i : Nat) : Nat := 0x401000 + 4 * i
abbrev Reg.attTwinReport (i : Nat) : Nat := 0x401400 + 4 * i
abbrev Reg.cert (i : Nat) : Nat := 0x402000 + 4 * i
/-! serving (Table 7.8) -/
abbrev Reg.serveCtrl : Nat := 0x500000
abbrev Reg.serveStatus : Nat := 0x500004
abbrev Reg.streamCounts : Nat := 0x500008
abbrev Reg.pipeShape : Nat := 0x50000C
abbrev Reg.beatCycles : Nat := 0x500010
abbrev Reg.sFloor : Nat := 0x500014
abbrev Reg.tbt0Bound : Nat := 0x500018
abbrev Reg.class0Max : Nat := 0x50001C
abbrev Reg.beatCount : Nat := 0x500020
abbrev Reg.extLast : Nat := 0x500028
abbrev Reg.extBeats : Nat := 0x50002C
abbrev Reg.emptyBeats : Nat := 0x500030
abbrev Reg.streamTable : Nat := 0x500038
abbrev Reg.kvBeatBytes : Nat := 0x500040
abbrev Reg.kvCycleBytes : Nat := 0x500048
abbrev Reg.kvPosBytes : Nat := 0x50004C
abbrev Reg.ledgerNow : Nat := 0x500050
abbrev Reg.winLen : Nat := 0x500060
abbrev Reg.winStart : Nat := 0x500068
abbrev Reg.winTokens (i : Nat) : Nat := 0x500080 + 0x10 * i
abbrev Reg.winLate (i : Nat) : Nat := 0x500084 + 0x10 * i
abbrev Reg.winRefused (i : Nat) : Nat := 0x500088 + 0x10 * i
abbrev Reg.winEnded (i : Nat) : Nat := 0x50008C + 0x10 * i
abbrev Reg.adapterCmd : Nat := 0x500100
abbrev Reg.adapterVerArg : Nat := 0x500104
abbrev Reg.adapterAddr : Nat := 0x500108
abbrev Reg.adapterStatus : Nat := 0x500110
abbrev Reg.adapterId (i : Nat) : Nat := 0x500200 + 0x10 * i
abbrev Reg.adapterVer (i : Nat) : Nat := 0x500204 + 0x10 * i
abbrev Reg.adapterRef (i : Nat) : Nat := 0x500208 + 0x10 * i
abbrev Reg.streamState (i : Nat) : Nat := 0x501000 + 4 * i
/-! KV and prefix (Table 6.11) -/
abbrev Reg.kvCtrl : Nat := 0x508000
abbrev Reg.kvPagesTotal : Nat := 0x508004
abbrev Reg.kvPagesFree : Nat := 0x508008
abbrev Reg.kvPagesClass0 : Nat := 0x50800C
abbrev Reg.kvDrops : Nat := 0x508010
abbrev Reg.kvRecomputes : Nat := 0x508014
abbrev Reg.kvHeld : Nat := 0x508018
abbrev Reg.prefixCtrl : Nat := 0x508020
abbrev Reg.prefixNodes : Nat := 0x508024
abbrev Reg.prefixLookups : Nat := 0x508028
abbrev Reg.prefixHits : Nat := 0x50802C
abbrev Reg.prefixCollisions : Nat := 0x508030
abbrev Reg.prefixInserts : Nat := 0x508034
abbrev Reg.prefixSkips : Nat := 0x508038
abbrev Reg.prefixTable : Nat := 0x508040
abbrev Reg.prefixRoots : Nat := 0x508048
/-! model and loading (Table 8.7) -/
abbrev Reg.modelVer : Nat := 0x509000
abbrev Reg.flipStatus : Nat := 0x509004
abbrev Reg.flipCmd : Nat := 0x509008
abbrev Reg.flipVerArg : Nat := 0x50900C
abbrev Reg.flipSet : Nat := 0x509010
abbrev Reg.flipDrain : Nat := 0x509018
abbrev Reg.flipProgress : Nat := 0x50901C
abbrev Reg.flipHeld : Nat := 0x509020
abbrev Reg.wsetActive : Nat := 0x509028
abbrev Reg.loadCmd : Nat := 0x509030
abbrev Reg.loadStatus : Nat := 0x509034
abbrev Reg.loadSrc : Nat := 0x509038
abbrev Reg.loadDst : Nat := 0x509040
abbrev Reg.loadDoneBytes : Nat := 0x509048
abbrev Reg.loadVerified : Nat := 0x509050
abbrev Reg.muleCtrl : Nat := 0x509058
abbrev Reg.muleRxBase : Nat := 0x509060
abbrev Reg.muleRxLen : Nat := 0x509068
abbrev Reg.muleResends : Nat := 0x509070
abbrev Reg.muleDrops : Nat := 0x509074
abbrev Reg.stripeSet : Nat := 0x509078
abbrev Reg.wselAtBeat : Nat := 0x509080
/-! precision block (Table 4.9) -/
abbrev Reg.precCtrl : Nat := 0x600000
abbrev Reg.precStatus : Nat := 0x600004
abbrev Reg.precStep : Nat := 0x600008
abbrev Reg.ganderSamples : Nat := 0x600010
abbrev Reg.ganderSkipped : Nat := 0x600014
abbrev Reg.ganderGross : Nat := 0x600018
abbrev Reg.nanscaleCount : Nat := 0x60001C
abbrev Reg.burstTagCount : Nat := 0x600020
abbrev Reg.nonfiniteConv : Nat := 0x600024
abbrev Reg.layerFmt (i : Nat) : Nat := 0x601000 + 0x20 * i
abbrev Reg.flushed (i : Nat) : Nat := 0x601004 + 0x20 * i
abbrev Reg.saturated (i : Nat) : Nat := 0x601008 + 0x20 * i
abbrev Reg.outlierOvf (i : Nat) : Nat := 0x60100C + 0x20 * i
abbrev Reg.errMean (i : Nat) : Nat := 0x601010 + 0x20 * i
abbrev Reg.errWindow (i : Nat) : Nat := 0x601014 + 0x20 * i
abbrev Reg.quietSteps (i : Nat) : Nat := 0x601018 + 0x20 * i
abbrev Reg.escCount (i : Nat) : Nat := 0x60101C + 0x20 * i
/-! field control blocks (Tables 5.11, 12.10, 15.12) -/
abbrev Reg.routeCtrl (i : Nat) : Nat := 0x1008000 + 0x10000 * i
abbrev Reg.routeStatus (i : Nat) : Nat := 0x1008004 + 0x10000 * i
abbrev Reg.slotLen (i : Nat) : Nat := 0x1008008 + 0x10000 * i
abbrev Reg.fieldState0 (i : Nat) : Nat := 0x1008010 + 0x10000 * i
abbrev Reg.fieldState1 (i : Nat) : Nat := 0x1008014 + 0x10000 * i
abbrev Reg.fieldState2 (i : Nat) : Nat := 0x1008018 + 0x10000 * i
abbrev Reg.seamState (i : Nat) : Nat := 0x1008020 + 0x10000 * i
abbrev Reg.seamSpare (i : Nat) : Nat := 0x1008024 + 0x10000 * i
abbrev Reg.seamNaks (i : Nat) : Nat := 0x1008028 + 0x10000 * i
abbrev Reg.seamLateCount (i : Nat) : Nat := 0x100802C + 0x10000 * i
abbrev Reg.routeStrays (i : Nat) : Nat := 0x1008030 + 0x10000 * i
abbrev Reg.tableRejects (i : Nat) : Nat := 0x1008034 + 0x10000 * i
abbrev Reg.fieldClk (i : Nat) : Nat := 0x1004000 + 0x10000 * i
abbrev Reg.fieldPwr (i : Nat) : Nat := 0x1004004 + 0x10000 * i
abbrev Reg.parkStatus (i : Nat) : Nat := 0x1004008 + 0x10000 * i
abbrev Reg.zoneLogic (i : Nat) : Nat := 0x100400C + 0x10000 * i
abbrev Reg.zoneArray (i : Nat) : Nat := 0x1004010 + 0x10000 * i
abbrev Reg.zoneMif (i : Nat) : Nat := 0x1004014 + 0x10000 * i
abbrev Reg.zoneSet (i : Nat) : Nat := 0x1004018 + 0x10000 * i
abbrev Reg.droopStatus (i : Nat) : Nat := 0x100401C + 0x10000 * i
abbrev Reg.droopFast (i : Nat) : Nat := 0x1004020 + 0x10000 * i
abbrev Reg.parkCount (i : Nat) : Nat := 0x1004024 + 0x10000 * i
abbrev Reg.unparkLast (i : Nat) : Nat := 0x1004028 + 0x10000 * i
abbrev Reg.timeErr (i : Nat) : Nat := 0x100402C + 0x10000 * i
abbrev Reg.latPad (i : Nat) : Nat := 0x100C000 + 0x10000 * i
abbrev Reg.fieldFault (i : Nat) : Nat := 0x100D000 + 0x10000 * i
abbrev Reg.fieldTransients (i : Nat) : Nat := 0x100D004 + 0x10000 * i
abbrev Reg.fieldLasting (i : Nat) : Nat := 0x100D008 + 0x10000 * i
abbrev Reg.beatAdvance (i : Nat) : Nat := 0x100D010 + 0x10000 * i
/-! edge ports and the pair (Tables 11.10, 11.12) -/
abbrev Reg.portCtrl (i : Nat) : Nat := 0x2000000 + 0x10000 * i
abbrev Reg.portCtrlTwin (i : Nat) : Nat := 0x2060000 + 0x10000 * i
abbrev Reg.portStatus (i : Nat) : Nat := 0x2000004 + 0x10000 * i
abbrev Reg.portErr (i : Nat) : Nat := 0x2000008 + 0x10000 * i
abbrev Reg.fecCorrected (i : Nat) : Nat := 0x2000018 + 0x10000 * i
abbrev Reg.fecUcw (i : Nat) : Nat := 0x200001C + 0x10000 * i
abbrev Reg.crcErrors (i : Nat) : Nat := 0x2000020 + 0x10000 * i
abbrev Reg.replays (i : Nat) : Nat := 0x2000024 + 0x10000 * i
abbrev Reg.retrains (i : Nat) : Nat := 0x2000028 + 0x10000 * i
abbrev Reg.txDataFlits (i : Nat) : Nat := 0x200002C + 0x10000 * i
abbrev Reg.rxDataFlits (i : Nat) : Nat := 0x2000030 + 0x10000 * i
abbrev Reg.rxDrops (i : Nat) : Nat := 0x2000034 + 0x10000 * i
abbrev Reg.laneMap (i : Nat) : Nat := 0x2000010 + 0x10000 * i
abbrev Reg.pairCtrl : Nat := 0x2080000
abbrev Reg.pairStatus : Nat := 0x2080004
abbrev Reg.pairPartner : Nat := 0x2080008
abbrev Reg.deviceAddr : Nat := 0x208000C
abbrev Reg.pairOffset : Nat := 0x2080010
abbrev Reg.pairBeatOfs : Nat := 0x2080018
abbrev Reg.pairSkew : Nat := 0x2080020
abbrev Reg.pairShadows : Nat := 0x2080024
abbrev Reg.hbLate : Nat := 0x2080028
abbrev Reg.tokenMismatch : Nat := 0x208002C
abbrev Reg.mirrorPending : Nat := 0x2080030
abbrev Reg.mirrorChunks : Nat := 0x2080034
abbrev Reg.mirrorLost : Nat := 0x2080038
abbrev Reg.adopted : Nat := 0x208003C
/-! gateways (Table 8.9) -/
abbrev Reg.gwStatus (i : Nat) : Nat := 0x3000000 + 0x1000 * i
abbrev Reg.gwErr (i : Nat) : Nat := 0x3000004 + 0x1000 * i
abbrev Reg.gwReads (i : Nat) : Nat := 0x3000008 + 0x1000 * i
abbrev Reg.gwWrites (i : Nat) : Nat := 0x300000C + 0x1000 * i
abbrev Reg.gwCeCount (i : Nat) : Nat := 0x3000010 + 0x1000 * i
abbrev Reg.gwUeCount (i : Nat) : Nat := 0x3000014 + 0x1000 * i
abbrev Reg.gwRefreshWaits (i : Nat) : Nat := 0x3000018 + 0x1000 * i
abbrev Reg.gwLatMax (i : Nat) : Nat := 0x300001C + 0x1000 * i
abbrev Reg.gwQueuePeak (i : Nat) : Nat := 0x3000020 + 0x1000 * i
/-! debug block (Table 9.14) -/
abbrev Reg.dbgCtrl : Nat := 0x4000000
abbrev Reg.dbgStatus : Nat := 0x4000004
abbrev Reg.dbgCmd : Nat := 0x4000008
abbrev Reg.dbgOvf : Nat := 0x400000C
abbrev Reg.dbgCount (i : Nat) : Nat := 0x4000010 + 4 * i
abbrev Reg.dbgFifo (i : Nat) : Nat := 0x4000040 + 4 * i
abbrev Reg.dbgTileSel : Nat := 0x4001000
/-! the tile (Tables 2.8, 2.14) -/
abbrev Pg.tileId : Nat := 0
abbrev Pg.tileStatus : Nat := 4
abbrev Pg.tileErr : Nat := 8
abbrev Pg.stallCycles : Nat := 0xC
abbrev Pg.lateBeats : Nat := 0x10
abbrev Pg.bankConflicts : Nat := 0x14
abbrev Pg.ceCount : Nat := 0x18
abbrev Pg.ueCount : Nat := 0x1C
abbrev Pg.ringOvfCount : Nat := 0x20
abbrev Pg.rejectCount : Nat := 0x24
abbrev Pg.fmqWatch : Nat := 0x28
abbrev Pg.scrubLast : Nat := 0x30
abbrev Pg.scrubPasses : Nat := 0x38
abbrev Pg.fmqDone : Nat := 0x40
abbrev Pg.fmqPending : Nat := 0x48
abbrev Pg.fmqErr : Nat := 0x50
abbrev Pg.ringBase (i : Nat) : Nat := 0x100 + 0x10 * i
abbrev Pg.ringCtrl (i : Nat) : Nat := 0x104 + 0x10 * i
abbrev Pg.ringHead (i : Nat) : Nat := 0x108 + 0x10 * i
abbrev Pg.ringTail (i : Nat) : Nat := 0x10C + 0x10 * i
abbrev Pg.winBase (i : Nat) : Nat := 0x200 + 0x10 * i
abbrev Pg.winSize (i : Nat) : Nat := 0x204 + 0x10 * i
abbrev Pg.winCtrl (i : Nat) : Nat := 0x208 + 0x10 * i
abbrev Pg.sigcnt (i : Nat) : Nat := 0x300 + 4 * i
abbrev Pg.bundleBase : Nat := 0xC00
abbrev Pg.seqCtrl : Nat := 0xC04
/-! arrays (Table 3.8) -/
abbrev Pg.arrayStatus : Nat := 0x400
abbrev Pg.arrayErr : Nat := 0x404
abbrev Pg.arrayProducts : Nat := 0x408
abbrev Pg.arrayInputCycles : Nat := 0x40C
abbrev Pg.arrayReadyWaits : Nat := 0x410
abbrev Pg.accSatCount : Nat := 0x414
abbrev Pg.nonfiniteCount : Nat := 0x418
/-! precision contexts (Table 4.12) -/
abbrev Pg.ctx (i : Nat) : Nat := 0x500 + 0x10 * i
abbrev Pg.ctxScale (i : Nat) : Nat := 0x504 + 0x10 * i
abbrev Pg.ctxOutl (i : Nat) : Nat := 0x508 + 0x10 * i
/-! the router (Table 5.7) -/
abbrev Pg.meshStatus : Nat := 0x800
abbrev Pg.meshErr : Nat := 0x804
abbrev Pg.schedDemoted : Nat := 0x808
abbrev Pg.openPackets : Nat := 0x80C
abbrev Pg.injWait : Nat := 0x810
abbrev Pg.starveGuard : Nat := 0x814
abbrev Pg.nakReceived : Nat := 0x818
abbrev Pg.hdrDrops : Nat := 0x81C
abbrev Pg.deferFull : Nat := 0x820
abbrev Pg.mcastRootDrops : Nat := 0x824
abbrev Pg.creditReject : Nat := 0x828
abbrev Pg.ringCredit (i : Nat) : Nat := 0x900 + 0x10 * i
abbrev Pg.ringProdA (i : Nat) : Nat := 0x904 + 0x10 * i
abbrev Pg.ringProdB (i : Nat) : Nat := 0x908 + 0x10 * i
/-! attention (Table 6.10) -/
abbrev Pg.attnStatus : Nat := 0xA00
abbrev Pg.attnErr : Nat := 0xA04
abbrev Pg.attnBlocks : Nat := 0xA08
abbrev Pg.attnMaskedRows : Nat := 0xA0C
abbrev Pg.scoreSatCount : Nat := 0xA10
abbrev Pg.stageFlushes : Nat := 0xA14
abbrev Pg.stageReflushes : Nat := 0xA18
abbrev Pg.stageWaits : Nat := 0xA1C
/-! weight copies (Table 8.10) -/
abbrev Pg.weightCtrl : Nat := 0xB00
abbrev Pg.weightOfsBank : Nat := 0xB04
abbrev Pg.weightOfsOps : Nat := 0xB08

/-! ## The rows -/

/-- Identity, time (R2, R14). -/
def bar0Rows0 : List RegRow := [
  ⟨0, 4, 1, 0, 0, 0, 0, false⟩,  -- deviceId
  ⟨0x10, 4, 1, 0, 0, 0, 0, false⟩,  -- deviceTime
  ⟨0x14, 4, 1, 0, 0, 0, 0, false⟩]  -- deviceTime high

/-- Image (Table 9.12). -/
def bar0Rows1 : List RegRow := [
  ⟨0x8000, 4, 1, 0, 0, 0, 0, false⟩,  -- imgCmd
  ⟨0x8004, 4, 1, 0, 0, 0x8000, 0, false⟩,  -- imgStatus
  ⟨0x8008, 4, 1, 0, 0, 0, 0, false⟩,  -- imgErrDetail
  ⟨0x8010, 4, 1, 0, 0xFFFFFFFF, 0, 0, true⟩,  -- imgAddr
  ⟨0x8014, 4, 1, 0, 0xFFFFFFFF, 0, 0, true⟩,  -- imgAddr high
  ⟨0x8018, 4, 1, 0, 0xFFFFFFFF, 0, 0, true⟩,  -- imgWset
  ⟨0x801C, 4, 1, 0, 0xFFFFFFFF, 0, 0, true⟩,  -- imgWset high
  ⟨0x8020, 4, 1, 0, 0, 0, 0, false⟩,  -- imgLen
  ⟨0x8024, 4, 1, 0, 0, 0, 0, false⟩,  -- imgLen high
  ⟨0x8028, 4, 1, 0, 0, 0, 0, false⟩,  -- imgMapId
  ⟨0x802C, 4, 1, 0, 0, 0, 0, false⟩,  -- imgMapId high
  ⟨0x8030, 4, 1, 0, 0, 0, 0, false⟩,  -- imgBuildId
  ⟨0x8034, 4, 1, 0, 0, 0, 0, false⟩,  -- imgBuildId high
  ⟨0x8040, 4, 8, 0, 0, 0, 0, false⟩,  -- imgDigest
  ⟨0x8060, 4, 1, 0, 0, 0, 0, false⟩,  -- imgLost
  ⟨0x8064, 4, 1, 0, 0, 0, 0, false⟩,  -- imgLost high
  ⟨0x8068, 4, 1, 0, 0, 0, 0, false⟩,  -- imgUnused
  ⟨0x806C, 4, 1, 0, 0, 0, 0, false⟩,  -- imgUnused high
  ⟨0x8070, 4, 1, 0, 0, 0, 0, false⟩,  -- imgParkable
  ⟨0x8074, 4, 1, 0, 0, 0, 0, false⟩,  -- imgParkable high
  ⟨0x8080, 4, 0x10, 0, 0, 0, 0, false⟩]  -- rotMember

/-- Intake and output block (Table 10.8). -/
def bar0Rows2 : List RegRow := [
  ⟨0x100000, 4, 1, 0, 0x80000000, 0, 0, false⟩,  -- hostifCtrl
  ⟨0x100004, 4, 1, 0, 0, 0, 0, false⟩,  -- linkStatus
  ⟨0x100008, 4, 1, 0, 0, 0x3F, 0, false⟩,  -- hostifErr
  ⟨0x10000C, 4, 1, 0, 0xFFFF, 0, 0, false⟩,  -- coalNs
  ⟨0x100010, 4, 1, 0, 0xFFFFF, 0, 0, false⟩,  -- irqMinNs
  ⟨0x100014, 4, 1, 0, 0, 0, 0xFFFFFFFF, false⟩,  -- intakeFound
  ⟨0x100018, 4, 1, 0, 0, 0, 0xFFFFFFFF, false⟩,  -- tokenDrops
  ⟨0x10001C, 4, 1, 0, 0, 0, 0xFFFFFFFF, false⟩,  -- barRejects
  ⟨0x100020, 4, 1, 0, 0, 0, 0xFFFFFFFF, false⟩,  -- evtLost
  ⟨0x100028, 4, 1, 0, 0xC0000000, 0, 0, false⟩,  -- bar2Far
  ⟨0x10002C, 4, 1, 0x400, 0xFFFFFFFF, 0, 0, false⟩,  -- bar2Far high
  ⟨0x100030, 4, 1, 0, 0xFFFFFFFF, 0, 0, false⟩,  -- evtBase
  ⟨0x100034, 4, 1, 0, 0xFFFFFFFF, 0, 0, false⟩,  -- evtBase high
  ⟨0x100038, 4, 1, 0, 0x80FF001F, 0, 0, false⟩,  -- evtCtrl
  ⟨0x10003C, 4, 1, 0, 0xFFFFFFFF, 0, 0, false⟩,  -- evtConsumed
  ⟨0x100040, 4, 1, 0, 0, 0, 0, false⟩,  -- evtWritten
  ⟨0x100048, 4, 1, 0, 0xFFFFFFFF, 0, 0, false⟩,  -- evtWb
  ⟨0x10004C, 4, 1, 0, 0xFFFFFFFF, 0, 0, false⟩,  -- evtWb high
  ⟨0x100080, 4, 0x10, 0, 0x7FFF, 0, 0, false⟩,  -- apTile
  ⟨0x101000, 0x40, 0x10, 0, 0xFFFFFFFF, 0, 0, false⟩,  -- intakeBase
  ⟨0x101004, 0x40, 0x10, 0, 0xFFFFFFFF, 0, 0, false⟩,  -- intakeBase high
  ⟨0x101008, 0x40, 0x10, 0, 0x8000000F, 0x20000000, 0, false⟩,  -- intakeCtrl
  ⟨0x101010, 0x40, 0x10, 0, 0, 0, 0, false⟩,  -- intakeTaken
  ⟨0x101014, 0x40, 0x10, 0, 0, 0, 0, false⟩,  -- intakeTaken high
  ⟨0x101018, 0x40, 0x10, 0, 0xFFFFFFFF, 0, 0, false⟩,  -- intakeWb
  ⟨0x10101C, 0x40, 0x10, 0, 0xFFFFFFFF, 0, 0, false⟩,  -- intakeWb high
  ⟨0x101020, 0x40, 0x10, 0, 0xFFFFFFFF, 0, 0, false⟩,  -- cplBase
  ⟨0x101024, 0x40, 0x10, 0, 0xFFFFFFFF, 0, 0, false⟩,  -- cplBase high
  ⟨0x101028, 0x40, 0x10, 0, 0x80FF801F, 0x40000000, 0, false⟩,  -- cplCtrl
  ⟨0x10102C, 0x40, 0x10, 0, 0xFFFFFFFF, 0, 0, false⟩,  -- cplConsumed
  ⟨0x101030, 0x40, 0x10, 0, 0, 0, 0, false⟩,  -- cplWritten
  ⟨0x101034, 0x40, 0x10, 0, 0, 0, 0, false⟩,  -- cplReserved
  ⟨0x104000, 0x20, 0x400, 0, 0xFFFFFFFF, 0, 0, false⟩,  -- outAddr
  ⟨0x104004, 0x20, 0x400, 0, 0xFFFFFFFF, 0, 0, false⟩,  -- outAddr high
  ⟨0x104008, 0x20, 0x400, 0, 0x80FF801F, 0x40000000, 0, false⟩,  -- outCtrl
  ⟨0x10400C, 0x20, 0x400, 0, 0xFFFFFFFF, 0, 0, false⟩,  -- outConsumed
  ⟨0x104010, 0x20, 0x400, 0, 0, 0, 0, false⟩,  -- outWritten
  ⟨0x104014, 0x20, 0x400, 0, 0, 0, 0, false⟩,  -- outBacklog
  ⟨0x104018, 0x20, 0x400, 0, 0, 0, 0xFFFFFFFF, false⟩,  -- outDropped
  ⟨0x10C000, 0x10, 0x100, 0, 0xFFFFFFFC, 0, 0, false⟩,  -- msixAddrLo
  ⟨0x10C004, 0x10, 0x100, 0, 0xFFFFFFFF, 0, 0, false⟩,  -- msixAddrHi
  ⟨0x10C008, 0x10, 0x100, 0, 0xFFFFFFFF, 0, 0, false⟩,  -- msixData
  ⟨0x10C00C, 0x10, 0x100, 1, 1, 0, 0, false⟩,  -- msixCtl
  ⟨0x10D000, 4, 8, 0, 0, 0, 0, false⟩]  -- msixPba

/-- Envelope and thermal block (Table 13.7). -/
def bar0Rows3 : List RegRow := [
  ⟨0x200000, 4, 1, 0x80000000, 0x80000000, 0, 0, false⟩,  -- envCtrl
  ⟨0x200004, 4, 1, 0, 0, 0, 0, false⟩,  -- envStatus
  ⟨0x200008, 4, 1, 0, 0, 0xF, 0, false⟩,  -- envErr
  ⟨0x20000C, 4, 1, 0, 0, 0, 0, false⟩,  -- envCmd
  ⟨0x200010, 4, 1, 0, 0x8000FFFF, 0, 0, false⟩,  -- hostCap
  ⟨0x200014, 4, 1, 0, 0, 0, 0, true⟩,  -- facilityCap
  ⟨0x200018, 4, 1, 0x84D0, 0, 0, 0, false⟩,  -- thermalCap
  ⟨0x20001C, 4, 1, 0x84D0, 0, 0, 0, false⟩,  -- capInForce
  ⟨0x200020, 4, 1, 0, 0, 0, 0, false⟩,  -- power5ms
  ⟨0x200024, 4, 1, 0x84D0, 0, 0, 0, false⟩,  -- class0Floor
  ⟨0x200028, 4, 1, 0, 0, 0, 0, false⟩,  -- runFloor
  ⟨0x20002C, 4, 1, 0, 0, 0, 0, false⟩,  -- rth
  ⟨0x200030, 4, 1, 0, 0, 0, 0, false⟩,  -- rthNom
  ⟨0x200034, 4, 1, 0x80000000, 0, 0, 0, false⟩,  -- settings
  ⟨0x200038, 4, 1, 0x8000, 0, 0, 0, false⟩,  -- hottest
  ⟨0x20003C, 4, 1, 0x8000, 0, 0, 0, false⟩,  -- stackHottest
  ⟨0x200040, 4, 1, 0x80008000, 0, 0, 0, false⟩,  -- coolantT
  ⟨0x200044, 4, 1, 0, 0, 0, 0, false⟩,  -- inletMax
  ⟨0x200048, 4, 1, 0x3E8, 0xFFFFFFFF, 0, 0, false⟩,  -- rotInterval
  ⟨0x20004C, 4, 1, 0, 0, 0, 0xFFFFFFFF, false⟩,  -- holdCount
  ⟨0x200050, 4, 1, 0, 0, 0, 0xFFFFFFFF, false⟩,  -- clampCount
  ⟨0x200054, 4, 1, 0, 0, 0, 0xFFFFFFFF, false⟩,  -- sensorFlags
  ⟨0x200058, 4, 1, 0, 0, 0, 0, false⟩,  -- holdExitLast
  ⟨0x201000, 8, 0xF6, 0x80008000, 0, 0, 0, false⟩,  -- pairRaw
  ⟨0x201004, 8, 0xF6, 0x8000, 0, 0, 0, false⟩]  -- pairCtl

/-- Reset registers (Table 14.10). -/
def bar0Rows4 : List RegRow := [
  ⟨0x300000, 4, 1, 0, 0, 0, 0, false⟩,  -- rstCmd
  ⟨0x300004, 4, 1, 0, 0, 0x88000000, 0, false⟩,  -- rstStatus
  ⟨0x300008, 4, 1, 1, 0, 0, 0, true⟩,  -- rstCause
  ⟨0x30000C, 4, 1, 0, 0, 0, 0, true⟩,  -- warmCount
  ⟨0x300010, 4, 1, 0, 0, 0, 0, false⟩,  -- fieldsInReset
  ⟨0x300014, 4, 1, 0, 0, 0, 0, false⟩,  -- fieldsInReset high
  ⟨0x300018, 4, 1, 0, 0, 0, 0xFFFFFFFF, false⟩,  -- blockTimeouts
  ⟨0x30001C, 4, 1, 0, 0, 0, 0xFFFFFFFF, false⟩,  -- resetDrops
  ⟨0x300020, 4, 1, 0, 0, 0, 0xFFFFFFFF, false⟩,  -- critErrors
  ⟨0x300024, 4, 1, 0, 0, 0, 0, false⟩]  -- lastBootNs

/-- Clock and power-delivery registers (Table 12.9). -/
def bar0Rows5 : List RegRow := [
  ⟨0x301000, 4, 1, 0, 0, 0, 0, false⟩,  -- clkStatus
  ⟨0x301008, 4, 1, 0, 0, 0, 0, false⟩,  -- fieldPllLock
  ⟨0x30100C, 4, 1, 0, 0, 0, 0, false⟩,  -- fieldPllLock high
  ⟨0x301010, 4, 1, 0, 0, 0, 0, false⟩,  -- mifPllLock
  ⟨0x301014, 4, 1, 0, 0, 0, 0, false⟩,  -- mifPllLock high
  ⟨0x301018, 4, 1, 0, 0, 0, 0, false⟩,  -- inputV
  ⟨0x30101C, 4, 1, 0, 0, 0, 0, false⟩,  -- inputI
  ⟨0x301020, 4, 1, 0, 0, 0, 0, false⟩,  -- zonesIsolated
  ⟨0x301024, 4, 1, 0, 0, 0, 0, false⟩,  -- zonesIsolated high
  ⟨0x301028, 4, 1, 0, 0, 0, 0, false⟩,  -- fieldsParked
  ⟨0x30102C, 4, 1, 0, 0, 0, 0, false⟩,  -- fieldsParked high
  ⟨0x301030, 4, 1, 0, 0, 0, 0, false⟩,  -- fieldsIlim
  ⟨0x301034, 4, 1, 0, 0, 0, 0, false⟩,  -- fieldsIlim high
  ⟨0x301038, 4, 1, 0, 0, 0xF, 0, false⟩,  -- pwrErr
  ⟨0x30103C, 4, 1, 0, 0, 0, 0xFFFFFFFF, false⟩]  -- pipePlanMiss

/-- Option store (Table 14.11). -/
def bar0Rows6 : List RegRow := [
  ⟨0x302000, 4, 1, 0, 0, 0x6000000, 0, false⟩,  -- optStatus
  ⟨0x302004, 4, 1, 0, 0, 0, 0, false⟩,  -- optCmd
  ⟨0x302008, 4, 1, 0, 0x3FFFFFF, 0, 0, false⟩,  -- optAddr
  ⟨0x30200C, 4, 1, 0, 0x1FFF, 0, 0, false⟩,  -- optLen
  ⟨0x303000, 4, 0x400, 0, 0xFFFFFFFF, 0, 0, false⟩]  -- optBuf

/-- Faults (Table 15.10). -/
def bar0Rows7 : List RegRow := [
  ⟨0x304000, 4, 1, 0xC0000000, 0xC000000F, 0, 0, true⟩,  -- faultCtrl
  ⟨0x304004, 4, 1, 0, 0, 0x4000000, 0, false⟩,  -- faultStatus
  ⟨0x304008, 4, 1, 0, 0, 0, 0, false⟩,  -- faultCmd
  ⟨0x30400C, 4, 1, 0, 0, 0, 0, true⟩,  -- hangInfo
  ⟨0x304010, 4, 1, 0, 0, 0, 0, true⟩,  -- hangTime
  ⟨0x304014, 4, 1, 0, 0, 0, 0, true⟩,  -- hangTime high
  ⟨0x304018, 4, 1, 0, 0, 0, 0, true⟩,  -- recoveryAddr
  ⟨0x30401C, 4, 1, 0, 0, 0, 0, true⟩,  -- recoveryAddr high
  ⟨0x304020, 4, 1, 0, 0, 0, 0, true⟩,  -- faultLost
  ⟨0x304024, 4, 1, 0, 0, 0, 0, true⟩,  -- faultLost high
  ⟨0x304028, 4, 1, 0, 0, 0, 0, false⟩,  -- roosterBeat
  ⟨0x30402C, 4, 1, 0, 0, 0, 0xFFFFFFFF, false⟩,  -- roosterMisses
  ⟨0x304030, 4, 1, 0, 0, 0, 0, true⟩,  -- recoveries
  ⟨0x304034, 4, 1, 0, 0, 0, 0, true⟩,  -- lastRecoveryNs
  ⟨0x304038, 4, 1, 0, 0, 0, 0xFFFFFFFF, false⟩,  -- stepsTainted
  ⟨0x30403C, 4, 1, 0, 0, 0, 0xFFFFFFFF, false⟩,  -- testsRun
  ⟨0x304040, 4, 1, 0, 0, 0, 0xFFFFFFFF, false⟩,  -- transients
  ⟨0x304044, 4, 1, 0, 0, 0, 0xFFFFFFFF, false⟩,  -- lasting
  ⟨0x304048, 4, 1, 0, 0, 0, 0xFFFFFFFF, false⟩,  -- testsAbandoned
  ⟨0x30404C, 4, 1, 0, 0, 0, 0, false⟩,  -- testsQueued
  ⟨0x304050, 4, 1, 0, 0, 0, 0, false⟩,  -- quarantinedSlots
  ⟨0x304054, 4, 1, 0, 0, 0, 0, true⟩]  -- faultGen

/-- Attestation mailbox (Table 14.12). -/
def bar0Rows8 : List RegRow := [
  ⟨0x400000, 4, 1, 0, 0, 0, 0, false⟩,  -- attCmd
  ⟨0x400004, 4, 1, 0, 0, 0x10000000, 0, false⟩,  -- attStatus
  ⟨0x400020, 4, 8, 0, 0xFFFFFFFF, 0, 0, false⟩,  -- attArg
  ⟨0x400100, 4, 0x40, 0, 0, 0, 0, false⟩,  -- meas
  ⟨0x400300, 4, 1, 0, 0, 0, 0, false⟩,  -- certLen
  ⟨0x401000, 4, 0x90, 0, 0, 0, 0, false⟩,  -- attReport
  ⟨0x401400, 4, 0x90, 0, 0, 0, 0, false⟩,  -- attTwinReport
  ⟨0x402000, 4, 0x400, 0, 0, 0, 0, false⟩]  -- cert

/-- Serving (Table 7.8). -/
def bar0Rows9 : List RegRow := [
  ⟨0x500000, 4, 1, 0x60000000, 0xE0000000, 0, 0, false⟩,  -- serveCtrl
  ⟨0x500004, 4, 1, 0, 0, 0, 0, false⟩,  -- serveStatus
  ⟨0x500008, 4, 1, 0, 0, 0, 0, false⟩,  -- streamCounts
  ⟨0x50000C, 4, 1, 0, 0, 0, 0, false⟩,  -- pipeShape
  ⟨0x500010, 4, 1, 0, 0, 0, 0, false⟩,  -- beatCycles
  ⟨0x500014, 4, 1, 0, 0, 0, 0, false⟩,  -- sFloor
  ⟨0x500018, 4, 1, 0, 0, 0, 0, false⟩,  -- tbt0Bound
  ⟨0x50001C, 4, 1, 0, 0, 0, 0, false⟩,  -- class0Max
  ⟨0x500020, 4, 1, 0, 0, 0, 0, false⟩,  -- beatCount
  ⟨0x500024, 4, 1, 0, 0, 0, 0, false⟩,  -- beatCount high
  ⟨0x500028, 4, 1, 0, 0, 0, 0, false⟩,  -- extLast
  ⟨0x50002C, 4, 1, 0, 0, 0, 0xFFFFFFFF, false⟩,  -- extBeats
  ⟨0x500030, 4, 1, 0, 0, 0, 0xFFFFFFFF, false⟩,  -- emptyBeats
  ⟨0x500038, 4, 1, 0, 0, 0, 0, false⟩,  -- streamTable
  ⟨0x50003C, 4, 1, 0, 0, 0, 0, false⟩,  -- streamTable high
  ⟨0x500040, 4, 1, 0, 0, 0, 0, false⟩,  -- kvBeatBytes
  ⟨0x500044, 4, 1, 0, 0, 0, 0, false⟩,  -- kvBeatBytes high
  ⟨0x500048, 4, 1, 0, 0, 0, 0, false⟩,  -- kvCycleBytes
  ⟨0x50004C, 4, 1, 0, 0, 0, 0, false⟩,  -- kvPosBytes
  ⟨0x500050, 4, 1, 0, 0, 0, 0, false⟩,  -- ledgerNow
  ⟨0x500054, 4, 1, 0, 0, 0, 0, false⟩,  -- ledgerNow high
  ⟨0x500060, 4, 1, 0x3B9ACA00, 0xFFFFFFFF, 0, 0, false⟩,  -- winLen
  ⟨0x500068, 4, 1, 0, 0, 0, 0, false⟩,  -- winStart
  ⟨0x50006C, 4, 1, 0, 0, 0, 0, false⟩,  -- winStart high
  ⟨0x500080, 0x10, 3, 0, 0, 0, 0, false⟩,  -- winTokens
  ⟨0x500084, 0x10, 3, 0, 0, 0, 0, false⟩,  -- winLate
  ⟨0x500088, 0x10, 3, 0, 0, 0, 0, false⟩,  -- winRefused
  ⟨0x50008C, 0x10, 3, 0, 0, 0, 0, false⟩,  -- winEnded
  ⟨0x500100, 4, 1, 0, 0, 0, 0, false⟩,  -- adapterCmd
  ⟨0x500104, 4, 1, 0, 0xFFFFFFFF, 0, 0, false⟩,  -- adapterVerArg
  ⟨0x500108, 4, 1, 0, 0xFFFFFFFF, 0, 0, false⟩,  -- adapterAddr
  ⟨0x50010C, 4, 1, 0, 0xFFFFFFFF, 0, 0, false⟩,  -- adapterAddr high
  ⟨0x500110, 4, 1, 0, 0, 0x10000, 0, false⟩,  -- adapterStatus
  ⟨0x500200, 0x10, 0x40, 0, 0, 0, 0, false⟩,  -- adapterId
  ⟨0x500204, 0x10, 0x40, 0, 0, 0, 0, false⟩,  -- adapterVer
  ⟨0x500208, 0x10, 0x40, 0, 0, 0, 0, false⟩,  -- adapterRef
  ⟨0x501000, 4, 0x400, 0xC000, 0, 0, 0, false⟩]  -- streamState

/-- KV and prefix (Table 6.11). -/
def bar0Rows10 : List RegRow := [
  ⟨0x508000, 4, 1, 0x80000000, 0x80000000, 0, 0, false⟩,  -- kvCtrl
  ⟨0x508004, 4, 1, 0, 0, 0, 0, false⟩,  -- kvPagesTotal
  ⟨0x508008, 4, 1, 0, 0, 0, 0, false⟩,  -- kvPagesFree
  ⟨0x50800C, 4, 1, 0, 0, 0, 0, false⟩,  -- kvPagesClass0
  ⟨0x508010, 4, 1, 0, 0, 0, 0xFFFFFFFF, false⟩,  -- kvDrops
  ⟨0x508014, 4, 1, 0, 0, 0, 0xFFFFFFFF, false⟩,  -- kvRecomputes
  ⟨0x508018, 4, 1, 0, 0, 0, 0xFFFFFFFF, false⟩,  -- kvHeld
  ⟨0x508020, 4, 1, 0x14, 0x80000000, 0, 0, false⟩,  -- prefixCtrl
  ⟨0x508024, 4, 1, 0, 0, 0, 0, false⟩,  -- prefixNodes
  ⟨0x508028, 4, 1, 0, 0, 0, 0xFFFFFFFF, false⟩,  -- prefixLookups
  ⟨0x50802C, 4, 1, 0, 0, 0, 0xFFFFFFFF, false⟩,  -- prefixHits
  ⟨0x508030, 4, 1, 0, 0, 0, 0xFFFFFFFF, false⟩,  -- prefixCollisions
  ⟨0x508034, 4, 1, 0, 0, 0, 0xFFFFFFFF, false⟩,  -- prefixInserts
  ⟨0x508038, 4, 1, 0, 0, 0, 0xFFFFFFFF, false⟩,  -- prefixSkips
  ⟨0x508040, 4, 1, 0, 0, 0, 0, false⟩,  -- prefixTable
  ⟨0x508044, 4, 1, 0, 0, 0, 0, false⟩,  -- prefixTable high
  ⟨0x508048, 4, 1, 0, 0, 0, 0, false⟩,  -- prefixRoots
  ⟨0x50804C, 4, 1, 0, 0, 0, 0, false⟩]  -- prefixRoots high

/-- Model and loading (Table 8.7). -/
def bar0Rows11 : List RegRow := [
  ⟨0x509000, 4, 1, 0, 0, 0, 0, false⟩,  -- modelVer
  ⟨0x509004, 4, 1, 0, 0, 0x10000, 0, false⟩,  -- flipStatus
  ⟨0x509008, 4, 1, 0, 0, 0, 0, false⟩,  -- flipCmd
  ⟨0x50900C, 4, 1, 0, 0xFFFFFFFF, 0, 0, false⟩,  -- flipVerArg
  ⟨0x509010, 4, 1, 0, 0xFFFFFFFF, 0, 0, false⟩,  -- flipSet
  ⟨0x509014, 4, 1, 0, 0xFFFFFFFF, 0, 0, false⟩,  -- flipSet high
  ⟨0x509018, 4, 1, 0x4C4B40, 0xFFFFFFFF, 0, 0, false⟩,  -- flipDrain
  ⟨0x50901C, 4, 1, 0, 0, 0, 0, false⟩,  -- flipProgress
  ⟨0x509020, 4, 1, 0, 0, 0, 0, false⟩,  -- flipHeld
  ⟨0x509028, 4, 1, 0, 0, 0, 0, false⟩,  -- wsetActive
  ⟨0x50902C, 4, 1, 0, 0, 0, 0, false⟩,  -- wsetActive high
  ⟨0x509030, 4, 1, 0, 0, 0, 0, false⟩,  -- loadCmd
  ⟨0x509034, 4, 1, 0, 0, 0x10000, 0, false⟩,  -- loadStatus
  ⟨0x509038, 4, 1, 0, 0xFFFFFFFF, 0, 0, false⟩,  -- loadSrc
  ⟨0x50903C, 4, 1, 0, 0xFFFFFFFF, 0, 0, false⟩,  -- loadSrc high
  ⟨0x509040, 4, 1, 0, 0xFFFFFFFF, 0, 0, false⟩,  -- loadDst
  ⟨0x509044, 4, 1, 0, 0xFFFFFFFF, 0, 0, false⟩,  -- loadDst high
  ⟨0x509048, 4, 1, 0, 0, 0, 0, false⟩,  -- loadDoneBytes
  ⟨0x50904C, 4, 1, 0, 0, 0, 0, false⟩,  -- loadDoneBytes high
  ⟨0x509050, 4, 1, 0, 0, 0, 0, false⟩,  -- loadVerified
  ⟨0x509054, 4, 1, 0, 0, 0, 0, false⟩,  -- loadVerified high
  ⟨0x509058, 4, 1, 0, 0xC00000FF, 0, 0, false⟩,  -- muleCtrl
  ⟨0x509060, 4, 1, 0, 0xFFFFFFFF, 0, 0, false⟩,  -- muleRxBase
  ⟨0x509064, 4, 1, 0, 0xFFFFFFFF, 0, 0, false⟩,  -- muleRxBase high
  ⟨0x509068, 4, 1, 0, 0xFFFFFFFF, 0, 0, false⟩,  -- muleRxLen
  ⟨0x50906C, 4, 1, 0, 0xFFFFFFFF, 0, 0, false⟩,  -- muleRxLen high
  ⟨0x509070, 4, 1, 0, 0, 0, 0xFFFFFFFF, false⟩,  -- muleResends
  ⟨0x509074, 4, 1, 0, 0, 0, 0xFFFFFFFF, false⟩,  -- muleDrops
  ⟨0x509078, 4, 1, 0xFFFFFFFF, 0, 0, 0, true⟩,  -- stripeSet
  ⟨0x50907C, 4, 1, 0xFFFF, 0, 0, 0, true⟩,  -- stripeSet high
  ⟨0x509080, 4, 1, 0xFFFFFFFF, 0, 0, 0, false⟩,  -- wselAtBeat
  ⟨0x509084, 4, 1, 0xFFFFFFFF, 0, 0, 0, false⟩]  -- wselAtBeat high

/-- Precision block (Table 4.9). -/
def bar0Rows12 : List RegRow := [
  ⟨0x600000, 4, 1, 0x80000010, 0x8000FFFF, 0, 0, false⟩,  -- precCtrl
  ⟨0x600004, 4, 1, 0, 0, 0, 0, false⟩,  -- precStatus
  ⟨0x600008, 4, 1, 0, 0, 0, 0, false⟩,  -- precStep
  ⟨0x60000C, 4, 1, 0, 0, 0, 0, false⟩,  -- precStep high
  ⟨0x600010, 4, 1, 0, 0, 0, 0xFFFFFFFF, false⟩,  -- ganderSamples
  ⟨0x600014, 4, 1, 0, 0, 0, 0xFFFFFFFF, false⟩,  -- ganderSkipped
  ⟨0x600018, 4, 1, 0, 0, 0, 0xFFFFFFFF, false⟩,  -- ganderGross
  ⟨0x60001C, 4, 1, 0, 0, 0, 0xFFFFFFFF, false⟩,  -- nanscaleCount
  ⟨0x600020, 4, 1, 0, 0, 0, 0xFFFFFFFF, false⟩,  -- burstTagCount
  ⟨0x600024, 4, 1, 0, 0, 0, 0xFFFFFFFF, false⟩,  -- nonfiniteConv
  ⟨0x601000, 0x20, 0x100, 0, 0, 0, 0, false⟩,  -- layerFmt
  ⟨0x601004, 0x20, 0x100, 0, 0, 0, 0xFFFFFFFF, false⟩,  -- flushed
  ⟨0x601008, 0x20, 0x100, 0, 0, 0, 0xFFFFFFFF, false⟩,  -- saturated
  ⟨0x60100C, 0x20, 0x100, 0, 0, 0, 0xFFFFFFFF, false⟩,  -- outlierOvf
  ⟨0x601010, 0x20, 0x100, 0, 0, 0, 0, false⟩,  -- errMean
  ⟨0x601014, 0x20, 0x100, 0, 0, 0, 0, false⟩,  -- errWindow
  ⟨0x601018, 0x20, 0x100, 0, 0, 0, 0, false⟩,  -- quietSteps
  ⟨0x60101C, 0x20, 0x100, 0, 0, 0, 0xFFFFFFFF, false⟩]  -- escCount

/-- Field control blocks (Tables 5.11, 12.10, 15.12). -/
def bar0Rows13 : List RegRow := [
  ⟨0x1008000, 0x10000, 0x30, 0, 0x80000000, 0, 0, false⟩,  -- routeCtrl
  ⟨0x1008004, 0x10000, 0x30, 0, 0, 0, 0, false⟩,  -- routeStatus
  ⟨0x1008008, 0x10000, 0x30, 0, 0x1FFF, 0, 0, false⟩,  -- slotLen
  ⟨0x1008010, 0x10000, 0x30, 0, 0xFFFFFFFF, 0, 0, false⟩,  -- fieldState0
  ⟨0x1008014, 0x10000, 0x30, 0, 0xFFFFFFFF, 0, 0, false⟩,  -- fieldState1
  ⟨0x1008018, 0x10000, 0x30, 0, 0xFFFFFFFF, 0, 0, false⟩,  -- fieldState2
  ⟨0x1008020, 0x10000, 0x30, 0, 0, 0, 0, false⟩,  -- seamState
  ⟨0x1008024, 0x10000, 0x30, 0, 0, 0, 0, false⟩,  -- seamSpare
  ⟨0x1008028, 0x10000, 0x30, 0, 0, 0, 0xFFFFFFFF, false⟩,  -- seamNaks
  ⟨0x100802C, 0x10000, 0x30, 0, 0, 0, 0xFFFFFFFF, false⟩,  -- seamLateCount
  ⟨0x1008030, 0x10000, 0x30, 0, 0, 0, 0xFFFFFFFF, false⟩,  -- routeStrays
  ⟨0x1008034, 0x10000, 0x30, 0, 0, 0, 0xFFFFFFFF, false⟩,  -- tableRejects
  ⟨0x1004000, 0x10000, 0x30, 0, 0, 0, 0, false⟩,  -- fieldClk
  ⟨0x1004004, 0x10000, 0x30, 0, 0, 0, 0, false⟩,  -- fieldPwr
  ⟨0x1004008, 0x10000, 0x30, 0, 0, 0, 0, false⟩,  -- parkStatus
  ⟨0x100400C, 0x10000, 0x30, 0, 0, 0, 0, false⟩,  -- zoneLogic
  ⟨0x1004010, 0x10000, 0x30, 0, 0, 0, 0, false⟩,  -- zoneArray
  ⟨0x1004014, 0x10000, 0x30, 0, 0, 0, 0, false⟩,  -- zoneMif
  ⟨0x1004018, 0x10000, 0x30, 0, 0, 0, 0, false⟩,  -- zoneSet
  ⟨0x100401C, 0x10000, 0x30, 0, 0, 0, 0, false⟩,  -- droopStatus
  ⟨0x1004020, 0x10000, 0x30, 0, 0, 0, 0xFFFFFFFF, false⟩,  -- droopFast
  ⟨0x1004024, 0x10000, 0x30, 0, 0, 0, 0xFFFFFFFF, false⟩,  -- parkCount
  ⟨0x1004028, 0x10000, 0x30, 0, 0, 0, 0, false⟩,  -- unparkLast
  ⟨0x100402C, 0x10000, 0x30, 0, 0, 0, 0, false⟩,  -- timeErr
  ⟨0x100C000, 0x10000, 0x30, 0, 0, 0, 0, false⟩,  -- latPad
  ⟨0x100D000, 0x10000, 0x30, 0x1F1F, 0, 0, 0, false⟩,  -- fieldFault
  ⟨0x100D004, 0x10000, 0x30, 0, 0, 0, 0xFFFFFFFF, false⟩,  -- fieldTransients
  ⟨0x100D008, 0x10000, 0x30, 0, 0, 0, 0xFFFFFFFF, false⟩,  -- fieldLasting
  ⟨0x100D010, 0x10000, 0x30, 0, 0, 0, 0, false⟩,  -- beatAdvance
  ⟨0x100D014, 0x10000, 0x30, 0, 0, 0, 0, false⟩]  -- beatAdvance high

/-- Edge ports and the pair (Tables 11.10, 11.12). -/
def bar0Rows14 : List RegRow := [
  ⟨0x2000000, 0x10000, 6, 0xA0000000, 0xE0000000, 0, 0, false⟩,  -- portCtrl
  ⟨0x2060000, 0x10000, 2, 0xC0000000, 0xE0000000, 0, 0, false⟩,  -- portCtrlTwin
  ⟨0x2000004, 0x10000, 8, 0, 0, 0, 0, false⟩,  -- portStatus
  ⟨0x2000008, 0x10000, 8, 0, 0, 0x3F, 0, false⟩,  -- portErr
  ⟨0x2000018, 0x10000, 8, 0, 0, 0, 0xFFFFFFFF, false⟩,  -- fecCorrected
  ⟨0x200001C, 0x10000, 8, 0, 0, 0, 0xFFFFFFFF, false⟩,  -- fecUcw
  ⟨0x2000020, 0x10000, 8, 0, 0, 0, 0xFFFFFFFF, false⟩,  -- crcErrors
  ⟨0x2000024, 0x10000, 8, 0, 0, 0, 0xFFFFFFFF, false⟩,  -- replays
  ⟨0x2000028, 0x10000, 8, 0, 0, 0, 0xFFFFFFFF, false⟩,  -- retrains
  ⟨0x200002C, 0x10000, 8, 0, 0, 0, 0xFFFFFFFF, false⟩,  -- txDataFlits
  ⟨0x2000030, 0x10000, 8, 0, 0, 0, 0xFFFFFFFF, false⟩,  -- rxDataFlits
  ⟨0x2000034, 0x10000, 8, 0, 0, 0, 0xFFFFFFFF, false⟩,  -- rxDrops
  ⟨0x2000010, 0x10000, 8, 0, 0, 0, 0, false⟩,  -- laneMap
  ⟨0x2000014, 0x10000, 8, 0, 0, 0, 0, false⟩,  -- laneMap high
  ⟨0x2080000, 4, 1, 0, 0xC000000F, 0, 0, false⟩,  -- pairCtrl
  ⟨0x2080004, 4, 1, 0, 0, 0, 0, false⟩,  -- pairStatus
  ⟨0x2080008, 4, 1, 0, 0, 0, 0, false⟩,  -- pairPartner
  ⟨0x208000C, 4, 1, 0, 0xFFFF, 0, 0, false⟩,  -- deviceAddr
  ⟨0x2080010, 4, 1, 0, 0, 0, 0, false⟩,  -- pairOffset
  ⟨0x2080014, 4, 1, 0, 0, 0, 0, false⟩,  -- pairOffset high
  ⟨0x2080018, 4, 1, 0, 0, 0, 0, false⟩,  -- pairBeatOfs
  ⟨0x208001C, 4, 1, 0, 0, 0, 0, false⟩,  -- pairBeatOfs high
  ⟨0x2080020, 4, 1, 0, 0, 0, 0, false⟩,  -- pairSkew
  ⟨0x2080024, 4, 1, 0, 0, 0, 0, false⟩,  -- pairShadows
  ⟨0x2080028, 4, 1, 0, 0, 0, 0xFFFFFFFF, false⟩,  -- hbLate
  ⟨0x208002C, 4, 1, 0, 0, 0, 0xFFFFFFFF, false⟩,  -- tokenMismatch
  ⟨0x2080030, 4, 1, 0, 0, 0, 0, false⟩,  -- mirrorPending
  ⟨0x2080034, 4, 1, 0, 0, 0, 0xFFFFFFFF, false⟩,  -- mirrorChunks
  ⟨0x2080038, 4, 1, 0, 0, 0, 0xFFFFFFFF, false⟩,  -- mirrorLost
  ⟨0x208003C, 4, 1, 0, 0, 0, 0xFFFFFFFF, false⟩]  -- adopted

/-- Gateways (Table 8.9). -/
def bar0Rows15 : List RegRow := [
  ⟨0x3000000, 0x1000, 0xC0, 0, 0, 0, 0, false⟩,  -- gwStatus
  ⟨0x3000004, 0x1000, 0xC0, 0, 0, 0xF, 0, false⟩,  -- gwErr
  ⟨0x3000008, 0x1000, 0xC0, 0, 0, 0, 0xFFFFFFFF, false⟩,  -- gwReads
  ⟨0x300000C, 0x1000, 0xC0, 0, 0, 0, 0xFFFFFFFF, false⟩,  -- gwWrites
  ⟨0x3000010, 0x1000, 0xC0, 0, 0, 0, 0xFFFFFFFF, false⟩,  -- gwCeCount
  ⟨0x3000014, 0x1000, 0xC0, 0, 0, 0, 0xFFFFFFFF, false⟩,  -- gwUeCount
  ⟨0x3000018, 0x1000, 0xC0, 0, 0, 0, 0xFFFFFFFF, false⟩,  -- gwRefreshWaits
  ⟨0x300001C, 0x1000, 0xC0, 0, 0, 0, 0xFFFFFFFF, false⟩,  -- gwLatMax
  ⟨0x3000020, 0x1000, 0xC0, 0, 0, 0, 0xFFFFFFFF, false⟩]  -- gwQueuePeak

/-- Debug block (Table 9.14). -/
def bar0Rows16 : List RegRow := [
  ⟨0x4000000, 4, 1, 0x8000001F, 0x8000001F, 0, 0, false⟩,  -- dbgCtrl
  ⟨0x4000004, 4, 1, 0, 0, 0x10000000, 0, false⟩,  -- dbgStatus
  ⟨0x4000008, 4, 1, 0, 0, 0, 0, false⟩,  -- dbgCmd
  ⟨0x400000C, 4, 1, 0, 0, 0, 0xFFFFFFFF, false⟩,  -- dbgOvf
  ⟨0x4000010, 4, 5, 0, 0, 0, 0xFFFFFFFF, false⟩,  -- dbgCount
  ⟨0x4000040, 4, 8, 0, 0, 0, 0, false⟩,  -- dbgFifo
  ⟨0x4001000, 4, 1, 0, 0x7FFF, 0, 0, false⟩]  -- dbgTileSel

/-- The tile (Tables 2.8, 2.14). -/
def pageRows0 : List RegRow := [
  ⟨0, 4, 1, 0, 0, 0, 0, false⟩,  -- tileId
  ⟨4, 4, 1, 0, 0, 0, 0, false⟩,  -- tileStatus
  ⟨8, 4, 1, 0, 0, 0x7FFF, 0, false⟩,  -- tileErr
  ⟨0xC, 4, 1, 0, 0, 0, 0xFFFFFFFF, false⟩,  -- stallCycles
  ⟨0x10, 4, 1, 0, 0, 0, 0xFFFFFFFF, false⟩,  -- lateBeats
  ⟨0x14, 4, 1, 0, 0, 0, 0xFFFFFFFF, false⟩,  -- bankConflicts
  ⟨0x18, 4, 1, 0, 0, 0, 0xFFFFFFFF, false⟩,  -- ceCount
  ⟨0x1C, 4, 1, 0, 0, 0, 0xFFFFFFFF, false⟩,  -- ueCount
  ⟨0x20, 4, 1, 0, 0, 0, 0xFFFFFFFF, false⟩,  -- ringOvfCount
  ⟨0x24, 4, 1, 0, 0, 0, 0xFFFFFFFF, false⟩,  -- rejectCount
  ⟨0x28, 4, 1, 0x30D40, 0xFFFFFFFF, 0, 0, false⟩,  -- fmqWatch
  ⟨0x30, 4, 1, 0, 0, 0, 0, false⟩,  -- scrubLast
  ⟨0x34, 4, 1, 0, 0, 0, 0, false⟩,  -- scrubLast high
  ⟨0x38, 4, 1, 0, 0, 0, 0, false⟩,  -- scrubPasses
  ⟨0x40, 4, 1, 0, 0, 0, 0, false⟩,  -- fmqDone
  ⟨0x44, 4, 1, 0, 0, 0, 0, false⟩,  -- fmqDone high
  ⟨0x48, 4, 1, 0, 0, 0, 0, false⟩,  -- fmqPending
  ⟨0x4C, 4, 1, 0, 0, 0, 0, false⟩,  -- fmqPending high
  ⟨0x50, 4, 1, 0, 0, 0xFFFFFFFF, 0, false⟩,  -- fmqErr
  ⟨0x54, 4, 1, 0, 0, 0xFFFFFFFF, 0, false⟩,  -- fmqErr high
  ⟨0x100, 0x10, 0x10, 0, 0xFFF000, 0, 0, false⟩,  -- ringBase
  ⟨0x104, 0x10, 0x10, 0, 0x8000001F, 0, 0, false⟩,  -- ringCtrl
  ⟨0x108, 0x10, 0x10, 0, 0, 0, 0, false⟩,  -- ringHead
  ⟨0x10C, 0x10, 0x10, 0, 0, 0, 0, false⟩,  -- ringTail
  ⟨0x200, 0x10, 0x10, 0, 0xFFFFC0, 0, 0, false⟩,  -- winBase
  ⟨0x204, 0x10, 0x10, 0, 0xFFFFC0, 0, 0, false⟩,  -- winSize
  ⟨0x208, 0x10, 0x10, 0, 0x80000077, 0, 0, false⟩,  -- winCtrl
  ⟨0x300, 4, 0x40, 0, 0xFFFFFFFF, 0, 0, false⟩,  -- sigcnt
  ⟨0xC00, 4, 1, 0, 0xFFF, 0, 0, false⟩,  -- bundleBase
  ⟨0xC04, 4, 1, 0, 0, 0, 0, false⟩]  -- seqCtrl

/-- Arrays (Table 3.8). -/
def pageRows1 : List RegRow := [
  ⟨0x400, 4, 1, 0, 0, 0, 0, false⟩,  -- arrayStatus
  ⟨0x404, 4, 1, 0, 0, 3, 0, false⟩,  -- arrayErr
  ⟨0x408, 4, 1, 0, 0, 0, 0xFFFFFFFF, false⟩,  -- arrayProducts
  ⟨0x40C, 4, 1, 0, 0, 0, 0xFFFFFFFF, false⟩,  -- arrayInputCycles
  ⟨0x410, 4, 1, 0, 0, 0, 0xFFFFFFFF, false⟩,  -- arrayReadyWaits
  ⟨0x414, 4, 1, 0, 0, 0, 0xFFFFFFFF, false⟩,  -- accSatCount
  ⟨0x418, 4, 1, 0, 0, 0, 0xFFFFFFFF, false⟩]  -- nonfiniteCount

/-- Precision contexts (Table 4.12). -/
def pageRows2 : List RegRow := [
  ⟨0x500, 0x10, 0x20, 0, 0x8FF8FFFF, 0, 0, false⟩,  -- ctx
  ⟨0x504, 0x10, 0x20, 0, 0xFFFFFFFF, 0, 0, false⟩,  -- ctxScale
  ⟨0x508, 0x10, 0x20, 0xFE000000, 0xFFFFFFFF, 0, 0, false⟩]  -- ctxOutl

/-- The router (Table 5.7). -/
def pageRows3 : List RegRow := [
  ⟨0x800, 4, 1, 0, 0, 0, 0, false⟩,  -- meshStatus
  ⟨0x804, 4, 1, 0, 0, 0x7D, 0, false⟩,  -- meshErr
  ⟨0x808, 4, 1, 0, 0, 0, 0xFFFFFFFF, false⟩,  -- schedDemoted
  ⟨0x80C, 4, 1, 0, 0, 0, 0xFFFFFFFF, false⟩,  -- openPackets
  ⟨0x810, 4, 1, 0, 0, 0, 0xFFFFFFFF, false⟩,  -- injWait
  ⟨0x814, 4, 1, 0, 0, 0, 0xFFFFFFFF, false⟩,  -- starveGuard
  ⟨0x818, 4, 1, 0, 0, 0, 0xFFFFFFFF, false⟩,  -- nakReceived
  ⟨0x81C, 4, 1, 0, 0, 0, 0xFFFFFFFF, false⟩,  -- hdrDrops
  ⟨0x820, 4, 1, 0, 0, 0, 0xFFFFFFFF, false⟩,  -- deferFull
  ⟨0x824, 4, 1, 0, 0, 0, 0xFFFFFFFF, false⟩,  -- mcastRootDrops
  ⟨0x828, 4, 1, 0, 0, 0, 0xFFFFFFFF, false⟩,  -- creditReject
  ⟨0x900, 0x10, 0x10, 0, 0x80000000, 0, 0, false⟩,  -- ringCredit
  ⟨0x904, 0x10, 0x10, 0xFFFFFFFF, 0xFFFFFFFF, 0, 0, false⟩,  -- ringProdA
  ⟨0x908, 0x10, 0x10, 0xFFFFFFFF, 0xFFFFFFFF, 0, 0, false⟩]  -- ringProdB

/-- Attention (Table 6.10). -/
def pageRows4 : List RegRow := [
  ⟨0xA00, 4, 1, 0, 0, 0, 0, false⟩,  -- attnStatus
  ⟨0xA04, 4, 1, 0, 0, 1, 0, false⟩,  -- attnErr
  ⟨0xA08, 4, 1, 0, 0, 0, 0xFFFFFFFF, false⟩,  -- attnBlocks
  ⟨0xA0C, 4, 1, 0, 0, 0, 0xFFFFFFFF, false⟩,  -- attnMaskedRows
  ⟨0xA10, 4, 1, 0, 0, 0, 0xFFFFFFFF, false⟩,  -- scoreSatCount
  ⟨0xA14, 4, 1, 0, 0, 0, 0xFFFFFFFF, false⟩,  -- stageFlushes
  ⟨0xA18, 4, 1, 0, 0, 0, 0xFFFFFFFF, false⟩,  -- stageReflushes
  ⟨0xA1C, 4, 1, 0, 0, 0, 0xFFFFFFFF, false⟩]  -- stageWaits

/-- Weight copies (Table 8.10). -/
def pageRows5 : List RegRow := [
  ⟨0xB00, 4, 1, 0, 0, 0, 0, false⟩,  -- weightCtrl
  ⟨0xB04, 4, 1, 0, 0x7FF800, 0, 0, false⟩,  -- weightOfsBank
  ⟨0xB08, 4, 1, 0, 0x1FFF80, 0, 0, false⟩]  -- weightOfsOps

/-- Every register of BAR0. -/
def bar0Rows : List RegRow :=
  bar0Rows0 ++ bar0Rows1 ++ bar0Rows2 ++ bar0Rows3 ++ bar0Rows4 ++ bar0Rows5 ++ bar0Rows6 ++ bar0Rows7 ++ bar0Rows8 ++ bar0Rows9 ++ bar0Rows10 ++ bar0Rows11 ++ bar0Rows12 ++ bar0Rows13 ++ bar0Rows14 ++ bar0Rows15 ++ bar0Rows16

/-- Every register of the tile control page. -/
def pageRows : List RegRow :=
  pageRows0 ++ pageRows1 ++ pageRows2 ++ pageRows3 ++ pageRows4 ++ pageRows5

/-- The row a dword offset lies in. -/
def findRow : List RegRow → Nat → Option RegRow
  | [], _ => none
  | r :: rest, off =>
    if decide (r.base ≤ off) && ((off - r.base) % r.stride == 0) && decide ((off - r.base) / r.stride < r.count) then some r
    else findRow rest off

/-- What a BAR0 dword reads as while nothing has written it: its reset value, 0 where nothing is assigned (R18, R21). -/
def regReset (off : Nat) : Word32 := match findRow bar0Rows off with | some r => r.reset | none => 0

/-- The same for a dword of a tile's control page; the key is tile * 0x1000 + offset. -/
def pageReset (key : Nat) : Word32 := match findRow pageRows (key % 0x1000) with | some r => r.reset | none => 0

/-- The new value of a dword after a write of `v` (Table 0.5). -/
def afterWrite (r : RegRow) (old v : Word32) : Word32 := (old &&& ~~~r.rw &&& ~~~(r.w1c &&& v)) ||| (v &&& r.rw)

/-! ## Storage of registers. The hardware's own updates use these; software's accesses are in Machine/Registers.lean. -/

/-- The dword at BAR0 offset `off`. -/
def rd (w : W9) (off : Nat) : Word32 := smGet regReset w.bar0 off
/-- Set the dword at BAR0 offset `off`. -/
def wr (off : Nat) (v : Word32) (w : W9) : W9 := { w with bar0 := smPut regReset w.bar0 off v }
/-- The 64-bit register at `off`. -/
def rd64 (w : W9) (off : Nat) : Nat := (rd w off).toNat + 2 ^ 32 * (rd w (off + 4)).toNat
/-- Set the 64-bit register at `off`. -/
def wr64 (off v : Nat) (w : W9) : W9 := wr (off + 4) (BitVec.ofNat 32 (v / 2 ^ 32)) (wr off (BitVec.ofNat 32 v) w)
/-- Bits [hi:lo] of a register. -/
def rdF (w : W9) (off hi lo : Nat) : Nat := fieldOf (rd w off) hi lo
/-- Set bits [hi:lo] of a register. -/
def wrF (off hi lo x : Nat) (w : W9) : W9 := wr off (setField (rd w off) hi lo x) w
/-- Bit `i` of a register. -/
def rdB (w : W9) (off i : Nat) : Bool := (rd w off).getLsbD i
/-- Set bit `i` of a register to `b`. -/
def wrB (off i : Nat) (b : Bool) (w : W9) : W9 := wrF off i i (b2n b) w
/-- Bit `i` of a 64-bit register. -/
def rdB64 (w : W9) (off i : Nat) : Bool := rdB w (off + 4 * (i / 32)) (i % 32)
/-- Set bit `i` of a 64-bit register. -/
def wrB64 (off i : Nat) (b : Bool) (w : W9) : W9 := wrB (off + 4 * (i / 32)) (i % 32) b w
/-- Add `n` to a counter marked RC, which saturates. -/
def inc (off n : Nat) (w : W9) : W9 := wr off (satAdd32 (rd w off) n) w

/-- The dword at offset `off` of the control page of tile `t`. -/
def prd (w : W9) (t : Tile) (off : Nat) : Word32 := smGet pageReset w.page (t.val * 0x1000 + off)
/-- Set it. -/
def pwr (t : Tile) (off : Nat) (v : Word32) (w : W9) : W9 := { w with page := smPut pageReset w.page (t.val * 0x1000 + off) v }
/-- The 64-bit register at `off`. -/
def prd64 (w : W9) (t : Tile) (off : Nat) : Nat := (prd w t off).toNat + 2 ^ 32 * (prd w t (off + 4)).toNat
/-- Set the 64-bit register at `off`. -/
def pwr64 (t : Tile) (off v : Nat) (w : W9) : W9 :=
  pwr t (off + 4) (BitVec.ofNat 32 (v / 2 ^ 32)) (pwr t off (BitVec.ofNat 32 v) w)
/-- Bits [hi:lo] of a page register. -/
def prdF (w : W9) (t : Tile) (off hi lo : Nat) : Nat := fieldOf (prd w t off) hi lo
/-- Set bits [hi:lo] of a page register. -/
def pwrF (t : Tile) (off hi lo x : Nat) (w : W9) : W9 := pwr t off (setField (prd w t off) hi lo x) w
/-- Bit `i` of a page register. -/
def prdB (w : W9) (t : Tile) (off i : Nat) : Bool := (prd w t off).getLsbD i
/-- Set bit `i` of a page register to `b`. -/
def pwrB (t : Tile) (off i : Nat) (b : Bool) (w : W9) : W9 := pwrF t off i i (b2n b) w
/-- Set bit `i` of a 64-bit page register. -/
def pwrB64 (t : Tile) (off i : Nat) (b : Bool) (w : W9) : W9 := pwrB t (off + 4 * (i / 32)) (i % 32) b w
/-- Add `n` to a page counter marked RC, which saturates (R93). -/
def pinc (t : Tile) (off n : Nat) (w : W9) : W9 := pwr t off (satAdd32 (prd w t off) n) w

/-- Keep the dwords whose row warm reset keeps (R21). -/
def keepWarm (m : SMap Word32) : SMap Word32 :=
  m.filter (fun e => match findRow bar0Rows e.1 with | some r => r.keep | none => false)

/-- Drop every page dword of tile `t`: the page takes its reset values. -/
def clearPage (t : Tile) (w : W9) : W9 := { w with page := w.page.filter (fun e => decide (e.1 / 0x1000 ≠ t.val)) }

end Sys2Proof.Machine
end

