-- ==== Sys2Proof/Machine/Address.lean ====
section
/-! DEFINITION. Addresses: coordinates, repair, field states and routes, attach points, far addresses and far memory's bytes, local
addresses, banks and rows. -/

namespace Sys2Proof.Machine

open Sys2Proof

/-! ## Coordinates (R11, R24, R29) -/

/-- Global x of a tile. -/
def tileX (t : Tile) : Nat := t.val % 192
/-- Global y of a tile. -/
def tileY (t : Tile) : Nat := t.val / 192
/-- The tile at global (x, y). -/
def tileAt (x y : Nat) : Tile := Fin.ofNat 32256 (y * 192 + x)
/-- The field at global (x, y). -/
def fieldAt (x y : Nat) : FieldIx := Fin.ofNat 48 (y / 28 * 8 + x / 24)
/-- The field of a tile. -/
def tileField (t : Tile) : FieldIx := fieldAt (tileX t) (tileY t)
/-- A C-field has fy = 2 or 3 (R29). -/
def fieldIsC (f : FieldIx) : Bool := f.val / 8 == 2 || f.val / 8 == 3
/-- A C-tile lies in a C-field (R30). -/
def isC (t : Tile) : Bool := fieldIsC (tileField t)
/-- The tile at local (lx, ly) of field f. -/
def localTile (f : FieldIx) (lx ly : Nat) : Tile := tileAt (f.val % 8 * 24 + lx) (f.val / 8 * 28 + ly)
/-- The tiles of a field, row by row. -/
def fieldTiles (f : FieldIx) : List Tile :=
  (List.range 28).flatMap (fun ly => (List.range 24).map (fun lx => localTile f lx ly))
/-- The field of a gateway 4f + k. -/
def gwField (g : Gateway) : FieldIx := Fin.ofNat 48 (g.val / 4)

/-- The physical tile of a logical one under a repair map (R32); none is NONE. -/
def physicalTile (badCol badRow : Option Nat) (lx ly : Nat) : Nat × Nat :=
  let shift (bad : Option Nat) (l : Nat) : Nat := match bad with
    | none => l
    | some b => if l < b then l else l + 1
  (shift badCol lx, shift badRow ly)

/-- A unit code of R24 that names a tile. -/
def codeTile (c : BitVec 16) : Option Tile :=
  if h : c.toNat < 32256 then some ⟨c.toNat, h⟩ else none

/-- A unit code of R24 that names a gateway (unit type 0x02). -/
def codeGw (c : BitVec 16) : Option Gateway :=
  if c.toNat / 256 = 0x82 then (if h : c.toNat % 256 < 192 then some ⟨c.toNat % 256, h⟩ else none) else none

/-! ## Field states and routes (R173 to R189, R206) -/

/-- State of field `g` as field `f`'s FIELD_STATE registers give it: 0 open, 1 parked, 2 under reset, 3 lost (R206). -/
def fieldStateSeen (w : W9) (f g : FieldIx) : Nat :=
  rdF w (0x01008010 + 0x10000 * f.val + 4 * (g.val / 16)) (2 * (g.val % 16) + 1) (2 * (g.val % 16))

/-- Write the state of field `g` into field `f`'s FIELD_STATE registers. -/
def setFieldStateIn (f g : FieldIx) (v : Nat) (w : W9) : W9 :=
  wrF (0x01008010 + 0x10000 * f.val + 4 * (g.val / 16)) (2 * (g.val % 16) + 1) (2 * (g.val % 16)) v w

/-- The steward records a field's state in the FIELD_STATE registers of every field (R201). -/
def setFieldState (g : FieldIx) (v : Nat) (w : W9) : W9 := forEach allFields (fun f => setFieldStateIn f g v) w

/-- The coordinates an axis visits from `a` toward `b`: hops of 8 while 8 or more remain, then of 1 (R188). -/
def axisHops : Nat → Nat → Nat → List Nat
  | 0, _, _ => []
  | n + 1, a, b =>
    if a = b then []
    else
      let d := if a < b then b - a else a - b
      let h := if 8 ≤ d then 8 else 1
      let a' := if a < b then a + h else a - h
      a' :: axisHops n a' b

/-- The tiles a route visits, source first: X then Y, or Y then X (R188). -/
def routeTiles (yx : Bool) (x0 y0 x1 y1 : Nat) : List (Nat × Nat) :=
  let xs (y : Nat) := (axisHops 40 x0 x1).map (fun x => (x, y))
  let ys (x : Nat) := (axisHops 40 y0 y1).map (fun y => (x, y))
  (x0, y0) :: (if yx then ys x0 ++ xs y1 else xs y0 ++ ys x1)

/-- A path enters a field if any hop of it starts or ends in it (R188). -/
def pathOpen (w : W9) (f : FieldIx) (tiles : List (Nat × Nat)) : Bool :=
  tiles.all (fun p => fieldStateSeen w f (fieldAt p.1 p.2) == 0)

/-- The status a closed state answers with (Table 5.3). -/
def nakOf (st : Nat) : BitVec 4 := if st = 1 then 2 else if st = 2 then 3 else 4

/-- How a requester routes a packet: a status at once, or the YX bit (R188). -/
def routeChoice (w : W9) (x0 y0 x1 y1 : Nat) : BitVec 4 ⊕ Bool :=
  let f := fieldAt x0 y0
  let st := fieldStateSeen w f (fieldAt x1 y1)
  if st ≠ 0 then .inl (nakOf st)
  else if pathOpen w f (routeTiles false x0 y0 x1 y1) then .inr false
  else if pathOpen w f (routeTiles true x0 y0 x1 y1) then .inr true
  else .inl 4

/-- Cycles of one axis: express hops take 3 cycles, neighbour hops 1 (Table 5.4). -/
def axisCycles (a b : Nat) : Nat :=
  let d := if a < b then b - a else a - b
  d / 8 * 3 + d % 8

/-- Cycles of a route with 6 for each seam it crosses (R174, Table 5.5). -/
def routeCycles (x0 y0 x1 y1 : Nat) : Nat :=
  let seams (a b : Nat) := if a < b then b - a else a - b
  axisCycles x0 x1 + axisCycles y0 y1 + 6 * (seams (x0 / 24) (x1 / 24) + seams (y0 / 28) (y1 / 28))

/-- The attach tile of ring attach point `n` (Table 1.7). -/
def attachTile (n : Nat) : Nat × Nat :=
  let ys := [14, 42, 63, 77, 91, 105, 126, 154]
  if n < 8 then (24 * n + 12, 0)
  else if n < 16 then (191, ys.getD (n - 8) 0)
  else if n < 24 then (24 * (23 - n) + 12, 167)
  else (0, ys.getD (31 - n) 0)

/-- The preferred attach point of a field: fewest cycles to local tile (12, 14), the lower number on a tie (R189). -/
def preferredAttach (f : FieldIx) : Nat :=
  let c := (f.val % 8 * 24 + 12, f.val / 8 * 28 + 14)
  let cost (n : Nat) := routeCycles (attachTile n).1 (attachTile n).2 c.1 c.2
  (List.range 32).foldl (fun best n => if cost n < cost best then n else best) 0

/-- STATE of PARK_STATUS (Table 12.6): 0 OPEN. -/
def parkState (w : W9) (f : FieldIx) : Nat := rdF w (Reg.parkStatus f.val) 2 0

/-- An attach point is unavailable while its field drains, is parked, is reset or is lost (R41). -/
def attachAvailable (w : W9) (n : Nat) : Bool :=
  let f := fieldAt (attachTile n).1 (attachTile n).2
  parkState w f == 0 && !(rdB64 w Reg.fieldsInReset f.val) && fieldStateSeen w f f == 0

/-- The attach point the ring sends from, clockwise from the preferred one, and the YX bit; none gives NAK_UNREACHABLE (R41,
R189). -/
def ringRoute (w : W9) (t : Tile) : Option (Nat × Bool) :=
  let p := preferredAttach (tileField t)
  ((List.range 32).map (fun i => (p + i) % 32)).findSome? (fun n =>
    if attachAvailable w n then
      match routeChoice w (attachTile n).1 (attachTile n).2 (tileX t) (tileY t) with
      | .inr yx => some (n, yx)
      | .inl _ => none
    else none)

/-- The status a ring request to a closed field gets at once, if any (R188, R189). -/
def ringStatus (w : W9) (t : Tile) : Option (BitVec 4) :=
  let f := tileField t
  let st := fieldStateSeen w f f
  if st ≠ 0 then some (nakOf st) else if (ringRoute w t).isNone then some 4 else none

/-! ## Far addresses (R285, R286, R583) -/

/-- The stack capacity, 48 GiB. -/
def stackBytes : Nat := 48 * 2 ^ 30

/-- The stacks of the stripe set in force, in ascending field order (R583). -/
def stripeStacks (w : W9) : List Nat := (List.range 48).filter (fun f => rdB64 w Reg.stripeSet f)

/-- Decode a far address under a stripe set: its stack and offset (R285). -/
def farDecodeIn (sts : List Nat) (a : Nat) : Option (Nat × Nat) :=
  if a / 2 ^ 43 ≠ 0 then none
  else if a / 2 ^ 42 = 0 then
    let f := a / 2 ^ 36
    let o := a % 2 ^ 36
    if f > 47 ∨ o ≥ stackBytes then none else some (f, o)
  else
    let s := a % 2 ^ 42
    let n := sts.length
    if s ≥ n * stackBytes then none
    else
      let g := s / 2 ^ 14
      match sts[g % n]? with
      | some f => some (f, g / n * 2 ^ 14 + s % 2 ^ 14)
      | none => none

/-- The key of a far byte in `Mem.far`: stack * 2^36 + offset. -/
def farKey (p : Nat × Nat) : Nat := p.1 * 2 ^ 36 + p.2

/-- Decode under the stripe set in force. -/
def farDecode (w : W9) (a : Nat) : Option Nat := (farDecodeIn (stripeStacks w) a).map farKey

/-- The gateway 4f + k that serves a far byte (R285). -/
def farGateway (key : Nat) : Gateway := Fin.ofNat 192 (key / 2 ^ 36 * 4 + key / 2 ^ 12 % 4)

/-- Every byte of [a, a + n) has a far address: granules are 16 KiB, so one byte of each granule decides (R285). -/
def farAssigned (w : W9) (a n : Nat) : Bool :=
  let st := stripeStacks w
  (List.range (cdiv n 0x4000 + 1)).all (fun i =>
    let b := min (a + i * 0x4000) (a + n - 1)
    n == 0 || (farDecodeIn st b).isSome)

/-- What a far byte that nothing has written reads as. DESIGN CHOICE (log entry 5): 0. -/
def farEmpty : Byte := 0

/-- Read `n` far bytes from address `a`; an unassigned byte reads as 0xFF (R360). -/
def farBytes (w : W9) (a n : Nat) : List Byte :=
  let st := stripeStacks w
  (List.range n).map (fun i => match farDecodeIn st (a + i) with
    | some p => smGet (fun _ => farEmpty) w.mem.far (farKey p)
    | none => 0xFF)

/-- Write one far byte; unassigned ones discard it. -/
def putFar (a : Nat) (b : Byte) (w : W9) : W9 :=
  match farDecode w a with
  | some k => { w with mem := { w.mem with far := smPut (fun _ => farEmpty) w.mem.far k b } }
  | none => w

/-- Write far bytes from `a` upward. -/
def putFars (a : Nat) : List Byte → W9 → W9
  | [], w => w
  | b :: r, w => putFars (a + 1) r (putFar a b w)

/-- The far keys of the 8 B quarters that [a, a + n) touches. -/
def farQuarters (w : W9) (a n : Nat) : List Nat :=
  let a0 := a / 8 * 8
  (List.range (cdiv (a + n - a0) 8)).filterMap (fun i => farDecode w (a0 + 8 * i))

/-- A write that covers whole quarters clears their errors (R294). -/
def clearFarErrors (qs : List Nat) (w : W9) : W9 :=
  { w with mem := { w.mem with farUE := w.mem.farUE.filter (fun q => !qs.contains q)
                               farCE := w.mem.farCE.filter (fun q => !qs.contains q) } }

/-- A write of whole quarters by a tile, the FMQ, an edge port or the load engine (R294). -/
def writeFar (a : Nat) (bs : List Byte) (w : W9) : W9 :=
  clearFarErrors (farQuarters w a bs.length) (putFars a bs w)

/-- Write bytes to host memory. -/
def putHost (a : Nat) (bs : List Byte) (w : W9) : W9 :=
  { w with host := { w.host with hostMem := putBytes 0 w.host.hostMem a bs } }

/-! ## Local addresses (R47 to R51) -/

/-- The operand store's size by flavour. -/
def opsBytes (c : Bool) : Nat := if c then 0x200000 else 0x100000

/-- The bank store. -/
def inBank (a n : Nat) : Bool := decide (a + n ≤ 0x800000)
/-- The operand store. -/
def inOps (c : Bool) (a n : Nat) : Bool := decide (0x800000 ≤ a) && decide (a + n ≤ 0x800000 + opsBytes c)
/-- The control words (R47). -/
def inControlWords (a n : Nat) : Bool := decide (0x800000 ≤ a) && decide (a + n ≤ 0x801000)
/-- The tile control page (R47). -/
def inPage (a n : Nat) : Bool := decide (0xF00000 ≤ a) && decide (a + n ≤ 0xF01000)
/-- A range lies wholly in one store. -/
def inOneStore (c : Bool) (a n : Nat) : Bool := inBank a n || inOps c a n
/-- A byte is an assigned data address: bank and operand store are adjacent, so a range is assigned when its end is. -/
def dataAssigned (c : Bool) (a n : Nat) : Bool := decide (a + n ≤ 0x800000 + opsBytes c)

/-- Bank and row of a local address in its store: 0 to 31 in the bank store (R50), 32 to 47 in the operand store (R51). -/
def bankRow (c : Bool) (a : Nat) : Nat × Nat :=
  if a < 0x800000 then (a / 64 % 32, a / 2048)
  else if c then (32 + (a - 0x800000) / 128 % 16, (a - 0x800000) / 2048)
  else (32 + (a - 0x800000) / 64 % 16, (a - 0x800000) / 1024)

/-- The word of a bank that a local address lies in: its first address. -/
def wordOf (c : Bool) (a : Nat) : Nat := if c && decide (0x800000 ≤ a) then a / 128 * 128 else a / 64 * 64

/-- The key of a store byte: tile * 2^24 + local address. -/
def storeKey (t : Tile) (a : Nat) : Nat := t.val * 2 ^ 24 + a

/-- Read `n` bytes of a tile's stores, errors aside. -/
def storeBytes (w : W9) (t : Tile) (a n : Nat) : List Byte := bytesAt 0 w.mem.store (storeKey t a) n

/-- The quarters of a tile that [a, a + n) touches, by local address. -/
def quarters (a n : Nat) : List Nat :=
  let a0 := a / 8 * 8
  (List.range (cdiv (a + n - a0) 8)).map (fun i => a0 + 8 * i)

end Sys2Proof.Machine
end

