-- ==== Sys2Proof/Machine/Flags.lean ====
section
/-! DEFINITION. Events and flags: raising an event record under the limit of R92, the host-interface error flags, and the helpers
that build DETAIL and CLASS_STREAM. -/

namespace Sys2Proof.Machine

open Sys2Proof

/-- Device time now (R13). -/
abbrev now (w : W9) : Nat := w.dev.time

/-- DETAIL from its listed bytes: bytes not listed are 0. -/
def detail (l : List Byte) : List Byte := (l ++ List.replicate 16 0).take 16

/-- CLASS_STREAM of an event that concerns no stream (R25). -/
def csNone : BitVec 16 := 0x0C00

/-- CLASS_STREAM of an event that concerns slot `s`: the class of the stream that holds it, 0b11 when it holds none (R25). -/
def csOf (w : W9) (s : StreamIx) : BitVec 16 :=
  let st := streamOf w s
  BitVec.ofNat 16 ((if st.state = .free then 3 else st.cls.toNat) * 1024 + s.val)

/-- Codes that produce a record for every occurrence (R158, R247, R284, R325, R355, R386, R426, R458, R493, R526, R556). -/
def everyOccurrence (c : Nat) : Bool :=
  [0x2010, 0x2011, 0x2012, 0x2020, 0x4011, 0x4012, 0x4020, 0x5010, 0x5011, 0x5012, 0x5020, 0x7001, 0x7010, 0x7011, 0x7012, 0x7042,
   0x7043, 0x8030, 0x8040, 0x9010, 0x9011, 0x9012, 0x9013, 0x9014, 0x9015, 0x9021, 0x9022, 0xA010, 0xA011, 0xA012, 0xA013,
   0xA014, 0xA015, 0xA021, 0xA022].contains c
  || (decide (0x6010 ≤ c) && decide (c ≤ 0x6025))
  || (decide (c / 0x1000 = 0xB) && !([0xB001, 0xB020].contains c))
  || (decide (c / 0x1000 = 0xC) && !([0xC005, 0xC006].contains c))
  || (decide (c / 0x1000 = 0xD) && !([0xD013, 0xD022].contains c))

/-- The start of the running 1 ms window of a source and code, if one was opened. -/
def windowStart : List ((BitVec 16 × BitVec 16) × Nat) → BitVec 16 × BitVec 16 → Option Nat
  | [], _ => none
  | e :: r, k => if e.1 = k then some e.2 else windowStart r k

/-- Whether R92 lets a record of this source and code be made now. DESIGN CHOICE (log entry 9): a 1 ms window starts at the
record that opens it. -/
def allowed (w : W9) (code source : BitVec 16) : Bool :=
  everyOccurrence code.toNat ||
  (match windowStart w.dev.limits (source, code) with
   | none => true
   | some t => decide (t + 1000000 ≤ now w))

/-- A message on vector `v` falls due (R379). -/
def vectorDue (v : Fin 256) (w : W9) : W9 :=
  { w with host := { w.host with vectorDue := if w.host.vectorDue.contains v then w.host.vectorDue else w.host.vectorDue ++ [v] } }

/-- Set bit `i` of HOSTIF_ERR; a change signals on vector 0 (R379). -/
def hostErr (i : Nat) (w : W9) : W9 :=
  if rdB w Reg.hostifErr i then w else vectorDue 0 (wrB Reg.hostifErr i true w)

/-- The entries an event ring of this setting has (R377). -/
def evtEntries (w : W9) : Nat := 2 ^ rdF w Reg.evtCtrl 4 0

/-- Entries of the event ring taken: written and unconsumed, or waiting to be written (R373, R378). -/
def evtUsed (w : W9) : Nat :=
  (rd w Reg.evtWritten - rd w Reg.evtConsumed).toNat + w.host.evtWait.length

/-- A record is created: SEQ steps (R26), and the record goes to the event ring or is counted lost (R377). -/
def record (r : EventRec) (w : W9) : W9 :=
  let w := { w with dev := { w.dev with seq := w.dev.seq + 1 } }
  if rdB w Reg.evtCtrl 31 && !w.host.d3hot && decide (evtUsed w < evtEntries w) then
    { w with host := { w.host with evtWait := w.host.evtWait ++ [r] } }
  else hostErr 5 (inc Reg.evtLost 1 w)

/-- Note that a 1 ms window of this source and code opens now (R92). -/
def openWindow (code source : BitVec 16) (w : W9) : W9 :=
  if everyOccurrence code.toNat then w
  else { w with dev := { w.dev with
    limits := ((source, code), now w) :: w.dev.limits.filter (fun e => decide (e.1 ≠ (source, code))) } }

/-- The far key and channel a local-view or striped address names, as a gateway and one of its channels. -/
def farUnit (w : W9) (a : Nat) : Option TestUnit :=
  (farDecode w a).map (fun k => .gwChannel (farGateway k) (Fin.ofNat 4 (k / 2 ^ 10)))

/-- The bank of a store address as a unit of the tile that raised the event. -/
def bankUnit (src : BitVec 16) (a : Nat) : Option TestUnit := (codeTile src).map (fun t =>
  let b := (bankRow (isC t) a).1
  if a < 0x800000 then .bankBank t (Fin.ofNat 32 b) else .opsBank t (Fin.ofNat 16 (b - 32)))

/-- The unit and row of Table 15.3 that a record triggers a self-test of; the rows of 0x2020, 0x9021, 0xB060 and 0xA021 are queued
where those events are raised. -/
def testOf (w : W9) (r : EventRec) : Option (TestUnit × Nat) :=
  let c := r.code.toNat
  if 0x1001 ≤ c ∧ c ≤ 0x1004 then (bankUnit r.source (ofLe (r.detail.take 8))).map (fun u => (u, 0))
  else if c = 0x1030 then (farUnit w (ofLe ((r.detail.drop 1).take 7))).map (fun u => (u, 1))
  else if c = 0x6003 then (farUnit w (ofLe (r.detail.take 8))).map (fun u => (u, 1))
  else if c = 0x3001 then (codeTile r.source).map (fun t => (.routerInput t, 2))
  else if c = 0x9003 then some (.lanes (Fin.ofNat 8 (r.source.toNat % 256)), 6)
  else none

/-- The unit of a test in the encoding of R24 (event 0xD013). -/
def unitCode : TestUnit → BitVec 16
  | .bankBank t _ => tileSrc t
  | .opsBank t _ => tileSrc t
  | .gwChannel g _ => srcGw g.val
  | .routerInput t => tileSrc t
  | .seam f _ => srcField f
  | .array t => tileSrc t
  | .vector t => tileSrc t
  | .lanes p => srcPort p
  | .sensorPair _ => srcHub
  | .supply f _ => srcField f

/-- Queue a test of a unit unless one is queued or running; the queue holds 256, and a test that finds it full raises 0xD013 (R534).
Tests under way are no longer in the queue. -/
def queueTest (u : TestUnit) (row : Nat) (w : W9) : W9 :=
  if w.flt.tests.any (fun x => x.unit == u) then w
  else if (w.flt.tests.filter (fun x => x.started.isNone)).length < 256 then
    let n := now w
    { w with flt := { w.flt with tests := w.flt.tests ++ [⟨u, row, n, none⟩] } }
  else if allowed w 0xD013 srcSteward then
    record ⟨0xD013, srcSteward, csNone, w.dev.seq, now w, detail ([BitVec.ofNat 8 row, 0] ++ le 2 (unitCode u).toNat)⟩
      (openWindow 0xD013 srcSteward w)
  else w

/-- Three late packets on one side of a field within 1 s queue a test of its seam bundle (Table 15.3). -/
def seamTest (r : EventRec) (w : W9) : W9 :=
  let f : FieldIx := Fin.ofNat 48 (r.source.toNat % 256)
  let sd : Fin 4 := Fin.ofNat 4 (r.detail.headD 0).toNat
  let n := now w
  let l := (f, sd, n) :: w.flt.seamLate.filter (fun e => decide (n < e.2.2 + 1000000000))
  let w := { w with flt := { w.flt with seamLate := l } }
  if 3 ≤ (l.filter (fun e => e.1 == f && e.2.1 == sd)).length then queueTest (.seam f sd) 3 w else w

/-- A record is created, and the self-test it triggers is queued (R533). -/
def emit (r : EventRec) (w : W9) : W9 :=
  let w := record r w
  if r.code = 0x3021 then seamTest r w
  else match testOf w r with
    | some x => queueTest x.1 x.2 w
    | none => w

/-- Raise an event: a record stamped with the device time of now, unless R92 suppresses it (R15, R23, R92). -/
def raise (code source cs : BitVec 16) (det : List Byte) (w : W9) : W9 :=
  if allowed w code source then
    emit ⟨code, source, cs, w.dev.seq, now w, detail det⟩ (openWindow code source w)
  else w

/-- Raise an event that concerns no stream. -/
def raise0 (code source : BitVec 16) (det : List Byte) (w : W9) : W9 := raise code source csNone det w

/-- Raise an event that concerns slot `s`. -/
def raiseS (code source : BitVec 16) (s : StreamIx) (det : List Byte) (w : W9) : W9 := raise code source (csOf w s) det w

/-- Raise an event of tile `t` that concerns no stream. -/
def raiseT (t : Tile) (code : BitVec 16) (det : List Byte) (w : W9) : W9 := raise code (tileSrc t) csNone det w

/-- Set bit `i` of TILE_ERR. -/
def tileErr (t : Tile) (i : Nat) (w : W9) : W9 := pwrB t Pg.tileErr i true w

/-- Signed 16-bit little-endian bytes. -/
def le16s (i : Int) : List Byte := le 2 (BitVec.ofInt 16 i).toNat

/-- Signed 32-bit little-endian bytes. -/
def le32s (i : Int) : List Byte := le 4 (BitVec.ofInt 32 i).toNat

end Sys2Proof.Machine
end

