-- ==== Sys2Proof/Machine/Operands.lean ====
section
/-! DEFINITION. Operand forms: reads and writes of tile stores with their error correction, ring regions, and what the image in force
says of a tile. -/

namespace Sys2Proof.Machine

open Sys2Proof

/-! ## Reads and writes of the stores (R53, R54, R57) -/

/-- Correct a single-bit error met by a read: CE_COUNT, TILE_ERR and, for the bank's first in a scrub pass, the event (R53, R92). -/
def noteCE (t : Tile) (q : Nat) (w : W9) : W9 :=
  let bank := (bankRow (isC t) q).1
  let w := tileErr t (if q < 0x800000 then 0 else 2) (pinc t Pg.ceCount 1 w)
  if (tileOf w t).scrub.seen.contains bank then w
  else
    let code : BitVec 16 := if q < 0x800000 then 0x1001 else 0x1003
    let made := allowed w code (tileSrc t)
    onlyIf made (modTile t (fun s => { s with scrub := { s.scrub with seen := bank :: s.scrub.seen } }))
      (raiseT t code (le 8 q) w)


/-- The bytes a read of [a, a + n) delivers: an uncorrectable quarter as zero, single-bit errors corrected (R53, R54). -/
def readStore (w : W9) (t : Tile) (a n : Nat) : List Byte :=
  (List.range n).map (fun i =>
    if w.mem.storeUE.contains (storeKey t ((a + i) / 8 * 8)) then 0
    else smGet (fun _ => (0 : Byte)) w.mem.store (storeKey t (a + i)))

/-- A write of whole quarters: the bytes, fresh check bits, and the cancelling of a scrub write-back of a word it touches (R57,
R294). -/
def writeStore (t : Tile) (a : Nat) (bs : List Byte) (w : W9) : W9 :=
  let qs := (quarters a bs.length).map (storeKey t)
  let words := (quarters a bs.length).map (wordOf (isC t))
  let w := { w with mem := { w.mem with
    store := putBytes 0 w.mem.store (storeKey t a) bs
    storeUE := w.mem.storeUE.filter (fun q => !qs.contains q)
    storeCE := w.mem.storeCE.filter (fun q => !qs.contains q) } }
  modTile t (fun s => { s with scrub := { s.scrub with waiting := s.scrub.waiting.filter (fun x => !words.contains x.toNat) } }) w

/-- Drop everything a tile's stores hold: zeros with valid check bits (R59, R58). -/
def clearStore (t : Tile) (w : W9) : W9 :=
  let mine (k : Nat) : Bool := k / 2 ^ 24 == t.val
  { w with mem := { w.mem with store := w.mem.store.filter (fun e => !mine e.1)
                               storeUE := w.mem.storeUE.filter (fun k => !mine k)
                               storeCE := w.mem.storeCE.filter (fun k => !mine k) } }

/-- A 32-bit word of a tile's stores. -/
def storeW32 (w : W9) (t : Tile) (a : Nat) : Word32 := BitVec.ofNat 32 (ofLe (readStore w t a 4))

/-! ## Ring regions of a tile (R74) -/

/-- A ring is enabled. -/
def ringOn (w : W9) (t : Tile) (r : RingIx) : Bool := prdB w t (Pg.ringCtrl r.val) 31
/-- A ring's size in bytes. -/
def ringSize (w : W9) (t : Tile) (r : RingIx) : Nat := 2 ^ prdF w t (Pg.ringCtrl r.val) 4 0
/-- A ring's base address. -/
def ringBaseOf (w : W9) (t : Tile) (r : RingIx) : Nat := (prd w t (Pg.ringBase r.val)).toNat
/-- HEAD, modulo twice the size. -/
def ringHeadOf (w : W9) (t : Tile) (r : RingIx) : Nat := (prd w t (Pg.ringHead r.val)).toNat
/-- TAIL, modulo twice the size. -/
def ringTailOf (w : W9) (t : Tile) (r : RingIx) : Nat := (prd w t (Pg.ringTail r.val)).toNat
/-- Occupancy: (TAIL - HEAD) modulo twice the size. -/
def ringOcc (w : W9) (t : Tile) (r : RingIx) : Nat :=
  (ringTailOf w t r + 2 * ringSize w t r - ringHeadOf w t r) % (2 * ringSize w t r)
/-- Free space. -/
def ringFree (w : W9) (t : Tile) (r : RingIx) : Nat := ringSize w t r - ringOcc w t r
/-- The local address of byte `i` from offset `o` of a ring's region. -/
def ringAddr (w : W9) (t : Tile) (r : RingIx) (o : Nat) : Nat := ringBaseOf w t r + o % ringSize w t r

/-- Write bytes at TAIL and advance it: an append that crosses the end continues at the start (R75). -/
def ringWrite (t : Tile) (r : RingIx) (bs : List Byte) (w : W9) : W9 :=
  let o := ringTailOf w t r % ringSize w t r
  let first := min bs.length (ringSize w t r - o)
  let w' := writeStore t (ringBaseOf w t r + o) (bs.take first) w
  let w' := if first < bs.length then writeStore t (ringBaseOf w t r) (bs.drop first) w' else w'
  pwr t (Pg.ringTail r.val) (BitVec.ofNat 32 ((ringTailOf w t r + bs.length) % (2 * ringSize w t r))) w'

/-! ## The image in force -/

/-- The rung in force (R328). -/
def rungNow (w : W9) : Option Rung := match w.img with
  | some im => im.body.rungs[rdF w Reg.imgStatus 23 16]?
  | none => none

/-- Band tile `i` of a position (R329). -/
def bandTile (b : Band) (p : BandPos) (i : Nat) : Tile :=
  localTile (Fin.ofNat 48 p.field) (p.lx0 + i % b.cols) (p.ly0 + i / b.cols)

/-- The tiles of a placed band (R329). -/
def bandTiles (g : Rung) (n : Nat) : List Tile :=
  match g.bands.find? (fun b => b.band == n), g.positions.find? (fun p => p.band == n) with
  | some b, some p => (List.range b.tiles).map (bandTile b p)
  | _, _ => []

/-- The tile that (band, index) names. -/
def bandRefTile (g : Rung) (n i : Nat) : Option Tile := (bandTiles g n)[i]?

/-- The band that holds a tile. -/
def tileBand (g : Rung) (t : Tile) : Option Band :=
  g.bands.find? (fun b => (bandTiles g b.band).contains t)

/-- The stage a band serves: layer bands in table order, then the sampler. DEDUCED (log entry 10). -/
def bandStage (g : Rung) (b : Band) : Option Nat :=
  if b.role = 0 then (g.bands.filter (fun x => x.role == 0)).findIdx? (fun x => x.band == b.band)
  else if b.role = 1 then some (g.timing.stages - 1) else none

/-- The stream whose slot or chunk a tile's band holds now (R529). -/
def tileStream (w : W9) (t : Tile) : Option StreamIx :=
  match rungNow w with
  | none => none
  | some g => match tileBand g t with
    | none => none
    | some b => match bandStage g b with
      | some i => ((w.serve.pipe[i]?).join).map (·.stream)
      | none => (w.serve.groups.find? (fun q => q.band == b.band)).bind (fun q => q.running.map (fun x => x.1.stream))

/-- CLASS_STREAM of a read that serves what the tile's band holds (R54, R529). -/
def tileCs (w : W9) (t : Tile) : BitVec 16 := match tileStream w t with
  | some s => csOf w s
  | none => csNone


/-- An uncorrectable quarter delivered as zero: UE_COUNT, TILE_ERR and the event (R54). -/
def noteUE (t : Tile) (q : Nat) (cs : BitVec 16) (w : W9) : W9 :=
  let w := tileErr t (if q < 0x800000 then 1 else 3) (pinc t Pg.ueCount 1 w)
  raise (if q < 0x800000 then 0x1002 else 0x1004) (tileSrc t) cs (le 8 q) w

/-- The tile's taint flag of the beat is set, for the slot or chunk its band holds (R529). `fmq` tells an FMQ landing from a store
read. -/
def setTaint (t : Tile) (fmq : Bool) (w : W9) : W9 :=
  let st := tileStream w t
  modTile t (fun s => { s with taint := some fmq, taintOf := st }) w

/-- The effects of a read of [a, a + n) that serves what the tile's band holds: counters, events, taint (R53, R54, R529). -/
def readEffects (t : Tile) (a n : Nat) (w : W9) : W9 :=
  forEach (quarters a n) (fun q w =>
    if w.mem.storeUE.contains (storeKey t q) then setTaint t false (noteUE t q (tileCs w t) w)
    else if w.mem.storeCE.contains (storeKey t q) then noteCE t q w else w) w

/-- The effects of a read that serves no slot and no chunk: a scrub read, or a request from outside the tile. -/
def readEffects0 (t : Tile) (a n : Nat) (w : W9) : W9 :=
  forEach (quarters a n) (fun q w =>
    if w.mem.storeUE.contains (storeKey t q) then noteUE t q csNone w
    else if w.mem.storeCE.contains (storeKey t q) then noteCE t q w else w) w

end Sys2Proof.Machine
end

