-- ==== Sys2Proof/Machine/Hazard.lean ====
section
/-! DEFINITION. The hazard detector (R349 to R351) and the issue rule of the sequencer (R60 to R67), as operations that the tile's
commands share. -/

namespace Sys2Proof.Machine

open Sys2Proof

/-- Debug mode is on: IMG_STATUS.DEBUG (R349). -/
def debugOn (w : W9) : Bool := rdB w Reg.imgStatus 6
/-- The loaded image is in compatibility mode: IMG_STATUS.COMPAT. -/
def compatOn (w : W9) : Bool := rdB w Reg.imgStatus 5
/-- The part is PAIRED: PAIR_STATUS.STATE is 2 (Table 11.13). -/
def paired (w : W9) : Bool := rdF w Reg.pairStatus 31 30 == 2
/-- BEAT_COUNT. -/
def beatCountOf (w : W9) : Nat := rd64 w Reg.beatCount

/-- The beat cycle of a field: it counts from 0 at the beat pulse, stands still at EXT_ROW for the beat's extension cycles and does not
count stretch cycles (R183, R261). -/
def beatCycleOf (w : W9) (f : FieldIx) : Nat :=
  let d := now w - (fieldState w f).beatStart
  let row := (rungNow w).map (fun g => g.timing.extRow) |>.getD 0
  let e := w.serve.extNow
  let c := if d < row then d else if d < row + e then row else d - e
  min c (rdF w Reg.beatCycles 31 0 - 1)

/-- The five checks of Table 9.10. -/
abbrev chkBank : Fin 5 := 0
/-- EARLY. -/
abbrev chkEarly : Fin 5 := 1
/-- STALL. -/
abbrev chkStall : Fin 5 := 2
/-- SLOT. -/
abbrev chkSlot : Fin 5 := 3
/-- CREDIT. -/
abbrev chkCredit : Fin 5 := 4

/-- A check fires: the record or its loss, DBG_COUNT, event 0x7040, and the freeze that falls due (R350). In compatibility mode
the checks BANK, EARLY, STALL and a demoted send are off, which `always` says (Table 9.10). -/
def trap (c : Fin 5) (always : Bool) (src : BitVec 16) (f : FieldIx) (addr : LAddr) (unit : Byte) (other : BitVec 16) (w : W9) : W9 :=
  if debugOn w && (always || !compatOn w) && rdB w Reg.dbgCtrl c.val then
    let bc := beatCycleOf w f
    let r : Trap := ⟨c, src, bc, beatCountOf w, now w, addr, unit, other⟩
    let w := inc (Reg.dbgCount c.val) 1 w
    let w := if w.dbg.fifo.length < 64 then { w with dbg := { w.dbg with fifo := w.dbg.fifo ++ [r] } }
      else
        let w := inc Reg.dbgOvf 1 w
        raise0 0x7041 srcSteward (le 4 (rd w Reg.dbgOvf).toNat) w
    let w := raise0 0x7040 src (le 4 c.val ++ le 4 bc ++ le 8 (beatCountOf w)) w
    if rdB w Reg.dbgCtrl 31 then { w with dbg := { w.dbg with freezeDue := true } } else w
  else w

/-- The sequencer of tile `t` runs: TILE_STATUS.RUNNING. -/
def running (w : W9) (t : Tile) : Bool := prdB w t Pg.tileStatus 0

/-- A tag is DONE. -/
def tagDone (w : W9) (t : Tile) (g : Tag) : Bool := (prd w t (Pg.fmqDone + 4 * (g.val / 32))).getLsbD (g.val % 32)
/-- A tag is PENDING. -/
def tagPending (w : W9) (t : Tile) (g : Tag) : Bool := (prd w t (Pg.fmqPending + 4 * (g.val / 32))).getLsbD (g.val % 32)
/-- A tag is FREE (R85). -/
def tagFree (w : W9) (t : Tile) (g : Tag) : Bool := !tagDone w t g && !tagPending w t g

/-- The matrix array accepts a new fill, WLOADs aside: the last product's input has ended and fewer products than the limit of
Table 3.1 are in flight (R108). -/
def arrayInputFree (w : W9) (t : Tile) : Bool :=
  let s := tileOf w t
  decide (s.products.length < (if isC t then 4 else 16)) &&
    s.products.all (fun p => decide (p.issued + p.input ≤ now w))

/-- A MATMUL's Array ready (R108): the C-array also needs a completed WLOAD in its shadow buffer. -/
def matmulReady (w : W9) (t : Tile) : Bool :=
  arrayInputFree w t &&
    (!isC t || (match (tileOf w t).shadow with | some b => decide (b.ready ≤ now w) | none => false))

/-- A presence condition holds (Table 2.3). -/
def condHolds (w : W9) (t : Tile) : Cond → Bool
  | .signal c n _ => decide (n.toNat ≤ (prd w t (Pg.sigcnt c.val)).toNat)
  | .tagDone g => tagDone w t g
  | .tagFree g => tagFree w t g
  | .ringHolds r k => decide (k ≤ ringOcc w t r)
  | .ringRoom r k => decide (k ≤ ringFree w t r)
  | .arrayReady => matmulReady w t

/-- The consume flags of the conditions take effect at issue (R64). -/
def consume (t : Tile) (cs : List Cond) (w : W9) : W9 :=
  forEach cs (fun c w => match c with
    | .signal c n true => pwr t (Pg.sigcnt c.val) (prd w t (Pg.sigcnt c.val) - n) w
    | _ => w) w

/-- A bundle is held for a cycle (R63); in native debug mode the detector traps. -/
def holdBundle (t : Tile) (w : W9) : W9 :=
  trap chkStall false (tileSrc t) (tileField t) 0 0 0 (pwrF t Pg.tileStatus 2 1 1 (pinc t Pg.stallCycles 1 w))

/-- A bundle issues: STALLED and IN_IDLE end, signals are consumed, and the operation acts (R60 to R64). -/
def goBundle (t : Tile) (cs : List Cond) (f : W9 → W9) (w : W9) : W9 :=
  f (consume t cs (pwrF t Pg.tileStatus 2 1 0 w))

/-- An IDLE bundle's cycles run (R66). -/
def idling (w : W9) (t : Tile) : Bool := prdB w t Pg.tileStatus 2 && decide (now w < (tileOf w t).idleUntil)

/-- The sequencer is at a bundle it can try: running, not waiting at a BEAT bundle, not inside an IDLE bundle. -/
def canTry (w : W9) (t : Tile) : Bool := running w t && !prdB w t Pg.tileStatus 3 && !idling w t

/-- One try of a running sequencer that is not inside a BEAT or IDLE bundle to issue an operation (R60, R61, R63, R66). `more` is what the
operation itself asks for beside its conditions. -/
def issue (t : Tile) (cs : List Cond) (more : Bool) (f : W9 → W9) (w : W9) : W9 :=
  if canTry w t then
    if more && cs.all (condHolds w t) then goBundle t cs f w else holdBundle t w
  else w

/-- The words of a tile still owed by a product, an ATTN or an AMERGE in flight: (first byte, length) (R107, R215). -/
def owedRanges (w : W9) (t : Tile) : List (Nat × Nat) :=
  let s := tileOf w t
  s.products.map (fun p => (p.dst.toNat, 4 * p.sums.length)) ++
    s.attn.flatMap (fun a => a.writes.map (fun x => (x.1.toNat, 4)))

/-- A range meets a word still owed. -/
def owed (w : W9) (t : Tile) (a n : Nat) : Bool :=
  (owedRanges w t).any (fun r => decide (r.1 < a + n) && decide (a < r.1 + r.2))

/-- In compatibility mode a bundle that reads an owed word is held (R107, R215); in native mode it reads what has landed. -/
def readReady (w : W9) (t : Tile) (a n : Nat) : Bool := !(compatOn w && owed w t a n)

/-- The detector's EARLY check on a scheduled read (Table 9.10). -/
def earlyCheck (t : Tile) (a n : Nat) (w : W9) : W9 :=
  if owed w t a n then
    trap chkEarly false (tileSrc t) (tileField t) (BitVec.ofNat 24 a) (BitVec.ofNat 8 (bankRow (isC t) a).1) 0 w
  else w

/-- A scheduled read of [a, a + n): the EARLY check and error correction. -/
def schedRead (t : Tile) (a n : Nat) (w : W9) : W9 := readEffects t a n (earlyCheck t a n w)

/-- Add `k` to a signal counter, which saturates with TILE_ERR.SIG_OVF and event 0x1040 (R82). -/
def addSignal (t : Tile) (c : CounterIx) (k : Nat) (w : W9) : W9 :=
  let v := (prd w t (Pg.sigcnt c.val)).toNat + k
  if v ≤ 0xFFFFFFFF then pwr t (Pg.sigcnt c.val) (BitVec.ofNat 32 v) w
  else raiseT t 0x1040 [BitVec.ofNat 8 c.val] (tileErr t 11 (pwr t (Pg.sigcnt c.val) 0xFFFFFFFF w))

/-- The signal that data announces, if it names one (R70). -/
def announce (t : Tile) (c : Option CounterIx) (w : W9) : W9 := match c with
  | some c => addSignal t c 1 w
  | none => w

/-- Mark a tag DONE, PENDING or FREE in FMQ_DONE and FMQ_PENDING. -/
def setTag (t : Tile) (g : Tag) (done pending : Bool) (w : W9) : W9 :=
  pwrB64 t Pg.fmqPending g.val pending (pwrB64 t Pg.fmqDone g.val done w)

end Sys2Proof.Machine
end

