-- ==== Sys2Proof/Machine/Tile.lean ====
section
/-! DEFINITION. The tile (spec/02_tile.md): beats and idle gaps, the memory slot, ring regions, windows, signal counters, the bundle
port and the sequencer, the far-memory queue, and scrubbing. -/

namespace Sys2Proof.Machine

open Sys2Proof

/-! ## Beats and idle gaps (R65, R66) -/

/-- The tile waits at its BEAT bundle: AT_BEAT, and LATE clears because a BEAT bundle waits for a pulse again (R65). -/
def waitAtBeat (t : Tile) (w : W9) : W9 := pwrB t Pg.tileStatus 4 false (pwrB t Pg.tileStatus 3 true w)

/-- Drop tile `t` from the oldest pulse of its field that still waits for it. -/
def dropOwing (t : Tile) : List (Nat × List Tile) → List (Nat × List Tile)
  | [] => []
  | e :: r => if e.2.contains t then (e.1, e.2.erase t) :: r else e :: dropOwing t r

/-- The BEAT bundle issues: one pulse is used, the beat's counts and taint flag go out (R130, R529), and a STOP that waits stops
the sequencer (R96). -/
def issueBeat (t : Tile) (w : W9) : W9 :=
  let w := modTile t (fun s => { s with
    pulses := s.pulses - 1
    reports := s.reports ++ [⟨s.counts, s.taint, s.taintOf⟩]
    counts := [], taint := none, taintOf := none }) w
  let w := pwrF t Pg.tileStatus 3 1 0 w
  let w := modField (tileField t) (fun f => { f with owing := dropOwing t f.owing }) w
  if (tileOf w t).stopWait then
    pwrB t Pg.tileStatus 0 false (modTile t (fun s => { s with stopWait := false }) w)
  else w

/-- BEAT_BUNDLE (R65): a running tile reaches its BEAT bundle. With a pulse it issues; without one the tile waits. -/
def beatBundle (t : Tile) (w : W9) : W9 :=
  if running w t && !idling w t then (if (tileOf w t).pulses = 0 then waitAtBeat t w else issueBeat t w) else w

/-- BEAT_BUNDLE. -/
def execBeatBundle (t : Tile) (s : State) : Host.Outcome State Fault Refusal := lift (beatBundle t) s

/-- A field gives a running tile its beat pulse: a tile not at its BEAT bundle is late (R65). -/
def pulseTile (t : Tile) (w : W9) : W9 :=
  let late := !prdB w t Pg.tileStatus 3
  let w := modTile t (fun s => { s with pulses := s.pulses + 1 }) w
  if late then
    let w := pwrB t Pg.tileStatus 4 true (tileErr t 12 (pinc t Pg.lateBeats 1 w))
    let w := raiseT t 0x1050 (le 8 (fieldState w (tileField t)).beatCount) w
    trap chkStall false (tileSrc t) (tileField t) 0 0 0 w
  else w

/-- The running tiles of a field, in tile order. -/
def runningTiles (w : W9) (f : FieldIx) : List Tile :=
  w.page.filterMap (fun e =>
    let t : Tile := Fin.ofNat 32256 (e.1 / 0x1000)
    if e.1 % 0x1000 = Pg.tileStatus ∧ e.2.getLsbD 0 ∧ tileField t = f then some t else none)

/-- FIELD_BEAT_COUNTER_ADVANCE (R65): once every running tile given the oldest pulse has issued its BEAT bundle. BEAT_ADVANCE takes
the device time (Table 15.12). -/
def fieldBeatAdvance (f : FieldIx) (w : W9) : W9 :=
  match (fieldState w f).owing with
  | (_, []) :: rest =>
    wr64 (Reg.beatAdvance f.val) (now w)
      (modField f (fun s => { s with owing := rest, beatCount := s.beatCount + 1 }) w)
  | _ => w

/-- FIELD_BEAT_COUNTER_ADVANCE. -/
def execFieldBeatCounterAdvance (f : FieldIx) (s : State) : Host.Outcome State Fault Refusal := lift (fieldBeatAdvance f) s

/-- IDLE_BUNDLE (R66): nothing issues for `n` cycles; the bank ports are free for scrubbing and self-test. -/
def idleBundle (t : Tile) (n : Nat) (w : W9) : W9 :=
  issue t [] true (fun w =>
    let u := now w + n
    pwrB t Pg.tileStatus 2 true (modTile t (fun s => { s with idleUntil := u }) w)) w

/-- IDLE_BUNDLE. -/
def execIdleBundle (t : Tile) (n : Nat) (s : State) : Host.Outcome State Fault Refusal := lift (idleBundle t n) s

/-! ## The memory slot (R47, R48, R61 to R64) -/

/-- A sequencer access to an unassigned address: TILE_ERR.ADDR_FAULT and event 0x1006 (R48). -/
def addrFault (t : Tile) (a : LAddr) (w : W9) : W9 := raiseT t 0x1006 (le 8 a.toNat) (tileErr t 5 w)

/-- LOCAL_LOAD (R47, R48, R53): a scheduled read, or zeros with a fault where the range is unassigned. DEDUCED (log entry 11): the
control page is no data address of the sequencer (R49). -/
def localLoad (t : Tile) (a : LAddr) (len : Nat) (cs : List Cond) (w : W9) : W9 :=
  issue t cs (readReady w t a.toNat len)
    (fun w => if dataAssigned (isC t) a.toNat len then schedRead t a.toNat len w else addrFault t a w) w

/-- LOCAL_LOAD. -/
def execLocalLoad (t : Tile) (a : LAddr) (len : Nat) (conds : List Cond) (s : State) : Host.Outcome State Fault Refusal :=
  lift (localLoad t a len conds) s

/-- LOCAL_STORE (R47, R48): a scheduled write, or a fault where the range is unassigned. -/
def localStore (t : Tile) (a : LAddr) (data : List Byte) (cs : List Cond) (w : W9) : W9 :=
  issue t cs true
    (fun w => if dataAssigned (isC t) a.toNat data.length then writeStore t a.toNat data w else addrFault t a w) w

/-- LOCAL_STORE. -/
def execLocalStore (t : Tile) (a : LAddr) (data : List Byte) (conds : List Cond) (s : State) :
    Host.Outcome State Fault Refusal := lift (localStore t a data conds) s

/-- HEAD advances by `k` modulo twice the size (R64, R74). -/
def advanceHead (t : Tile) (r : RingIx) (k : Nat) (w : W9) : W9 :=
  pwr t (Pg.ringHead r.val) (BitVec.ofNat 32 ((ringHeadOf w t r + k) % (2 * ringSize w t r))) w

/-- The read of `k` bytes from HEAD, in two parts where it crosses the end of the region (R75). -/
def ringReadEffects (t : Tile) (r : RingIx) (k : Nat) (w : W9) : W9 :=
  let o := ringHeadOf w t r % ringSize w t r
  let first := min k (ringSize w t r - o)
  let w' := schedRead t (ringBaseOf w t r + o) first w
  if first < k then schedRead t (ringBaseOf w t r) (k - first) w' else w'

/-- The bytes at HEAD. -/
def ringPeek (w : W9) (t : Tile) (r : RingIx) (k : Nat) : List Byte :=
  (List.range k).flatMap (fun i => readStore w t (ringAddr w t r (ringHeadOf w t r + i)) 1)

/-- RING_POP (R64): `k` bytes are read and HEAD advances. -/
def ringPop (t : Tile) (r : RingIx) (k : Nat) (cs : List Cond) (w : W9) : W9 :=
  issue t cs (decide (k ≤ ringOcc w t r)) (fun w => advanceHead t r k (ringReadEffects t r k w)) w

/-- RING_POP. -/
def execRingPop (t : Tile) (r : RingIx) (k : Nat) (conds : List Cond) (s : State) : Host.Outcome State Fault Refusal :=
  lift (ringPop t r k conds) s

/-- A ring append lands at TAIL, or is dropped whole (R75, R76). The result says whether it landed. -/
def appendLands (w : W9) (t : Tile) (r : RingIx) (n : Nat) : Bool := ringOn w t r && decide (n ≤ ringFree w t r)

/-- The drop of an append: RING_OVF_COUNT, TILE_ERR.RING_OVF, event 0x1010, and the CREDIT check (R76, Table 9.10). -/
def dropAppend (t : Tile) (r : RingIx) (client : Byte) (requester : BitVec 16) (w : W9) : W9 :=
  let w := tileErr t 6 (pinc t Pg.ringOvfCount 1 w)
  let w := raiseT t 0x1010 ([BitVec.ofNat 8 r.val, client] ++ le 2 requester.toNat) w
  trap chkCredit true (tileSrc t) (tileField t) 0 (BitVec.ofNat 8 r.val) requester w

/-- A ring append arrives (R75, R76). -/
def landAppend (t : Tile) (r : RingIx) (bs : List Byte) (client : Byte) (requester : BitVec 16) (w : W9) : W9 :=
  if appendLands w t r bs.length then ringWrite t r bs w else dropAppend t r client requester w

/-- LOCAL_APPEND (R61): the sequencer appends to a ring of its own tile once it has room. -/
def localAppend (t : Tile) (r : RingIx) (data : List Byte) (cs : List Cond) (w : W9) : W9 :=
  issue t cs (decide (data.length ≤ ringFree w t r)) (landAppend t r data 0 (tileSrc t)) w

/-- LOCAL_APPEND. -/
def execLocalAppend (t : Tile) (r : RingIx) (data : List Byte) (conds : List Cond) (s : State) :
    Host.Outcome State Fault Refusal := lift (localAppend t r data conds) s

/-! ## Rings, windows, counters (R77, R83, R94) -/

/-- A ring's geometry satisfies R74 with LOG2_SIZE 12 to 22. -/
def ringValid (c : Bool) (base log2 : Nat) : Bool :=
  decide (12 ≤ log2) && decide (log2 ≤ 22) && base % 2 ^ log2 == 0 && inOneStore c base (2 ^ log2)

/-- RING_ENABLE: a write to RING_n_CTRL with ENABLE 1 (R77). LOG2_SIZE is discarded while ENABLE is already 1. -/
def ringEnable (t : Tile) (r : RingIx) (v : Word32) (w : W9) : W9 :=
  let off := Pg.ringCtrl r.val
  let log2 := if ringOn w t r then prdF w t off 4 0 else fieldOf v 4 0
  if ringValid (isC t) (ringBaseOf w t r) log2 then
    pwr t (Pg.ringTail r.val) 0 (pwr t (Pg.ringHead r.val) 0 (pwr t off (BitVec.ofNat 32 (2 ^ 31 + log2)) w))
  else tileErr t 14 (pwr t off (BitVec.ofNat 32 log2) w)

/-- RING_ENABLE. -/
def execRingEnable (t : Tile) (r : RingIx) (value : Word32) (s : State) : Host.Outcome State Fault Refusal :=
  lift (ringEnable t r value) s

/-- A window's span satisfies R78. -/
def windowValid (c : Bool) (base size : Nat) : Bool :=
  base % 64 == 0 && decide (64 ≤ size) && size % 64 == 0 && inOneStore c base size

/-- WINDOW_ENABLE: a write to WIN_n_CTRL with ENABLE 1 (R94). -/
def windowEnable (t : Tile) (n : RingIx) (v : Word32) (w : W9) : W9 :=
  let off := Pg.winCtrl n.val
  if windowValid (isC t) (prd w t (Pg.winBase n.val)).toNat (prd w t (Pg.winSize n.val)).toNat then
    pwr t off ((v ||| 0x80000000) &&& 0x80000077) w
  else tileErr t 14 (pwr t off (v &&& 0x77) w)

/-- WINDOW_ENABLE. -/
def execWindowEnable (t : Tile) (n : RingIx) (value : Word32) (s : State) : Host.Outcome State Fault Refusal :=
  lift (windowEnable t n value) s

/-- SIGCNT_WRITE (R83): the written value takes effect first and the increments of the cycle are added to it. -/
def sigcntWrite (t : Tile) (c : CounterIx) (v : Word32) (k : Nat) (w : W9) : W9 :=
  addSignal t c k (pwr t (Pg.sigcnt c.val) v w)

/-- SIGCNT_WRITE. -/
def execSigcntWrite (t : Tile) (c : CounterIx) (value : Word32) (increments : Nat) (s : State) :
    Host.Outcome State Fault Refusal := lift (sigcntWrite t c value increments) s

/-! ## The bundle port and the sequencer (R95, R96) -/

/-- What an unlisted bundle holds. DESIGN CHOICE (log entry 6): 0. -/
def bundleEmpty : Nat → BitVec 256 := fun _ => 0

/-- Write consecutive bundles of tile `t` from index `i`, 32 bytes each, least significant byte first (R96). -/
def putBundles (t : Tile) : Nat → Nat → List Byte → W9 → W9
  | 0, _, _, w => w
  | k + 1, i, bs, w =>
    putBundles t k (i + 1) (bs.drop 32)
      { w with mem := { w.mem with
        bundles := smPut bundleEmpty w.mem.bundles (t.val * 4096 + i) (BitVec.ofNat 256 (ofLe (bs.take 32))) } }

/-- A bundle-port write is accepted: aligned, inside the port, not past bundle 4,095, the sequencer stopped (R96). -/
def bundlePortOk (w : W9) (t : Tile) (off n : Nat) : Bool :=
  off % 32 == 0 && n % 32 == 0 && decide (0 < n) && decide (0xE00 ≤ off) && decide (off + n ≤ 0x1000) && !running w t &&
    decide (prdF w t Pg.bundleBase 11 0 + (off - 0xE00) / 32 + n / 32 ≤ 4096)

/-- BUNDLE_PORT_WRITE (R96). -/
def bundlePortWrite (t : Tile) (off : Nat) (bs : List Byte) (w : W9) : W9 :=
  if bundlePortOk w t off bs.length then
    putBundles t (bs.length / 32) (prdF w t Pg.bundleBase 11 0 + (off - 0xE00) / 32) bs w
  else tileErr t 14 w

/-- BUNDLE_PORT_WRITE. -/
def execBundlePortWrite (t : Tile) (off : Nat) (data : List Byte) (s : State) : Host.Outcome State Fault Refusal :=
  lift (bundlePortWrite t off data) s

/-- SEQ_START (R96): no effect while RUNNING or while a START waits. -/
def seqStart (t : Tile) (w : W9) : W9 :=
  if running w t then w else modTile t (fun s => { s with startWait := true }) w

/-- SEQ_START. -/
def execSeqStart (t : Tile) (s : State) : Host.Outcome State Fault Refusal := lift (seqStart t) s

/-- SEQ_STOP (R96): at the next BEAT bundle, or cancelling a START that waits. -/
def seqStop (t : Tile) (w : W9) : W9 :=
  if running w t then modTile t (fun s => { s with stopWait := true }) w
  else modTile t (fun s => { s with startWait := false }) w

/-- SEQ_STOP. -/
def execSeqStop (t : Tile) (s : State) : Host.Outcome State Fault Refusal := lift (seqStop t) s

/-- SEQUENCER_RUN_BEGIN (R59, R96): at the first pulse of the beat start, zeroing done, bundle 0 issues and RUNNING becomes 1. -/
def runBegin (t : Tile) (w : W9) : W9 :=
  let s := tileOf w t
  if s.startWait && !s.zeroing && decide (0 < s.pulses) then
    pwrB t Pg.tileStatus 0 true (modTile t (fun s => { s with startWait := false, pulses := s.pulses - 1 }) w)
  else w

/-- SEQUENCER_RUN_BEGIN. -/
def execSequencerRunBegin (t : Tile) (s : State) : Host.Outcome State Fault Refusal := lift (runBegin t) s

/-! ## The far-memory queue (R84 to R91, R287, R288, R297) -/

/-- The entry tile of a gateway nearest a requester's global x, the lower on a tie (R289). -/
def entryTile (g : Gateway) (x : Nat) : Nat × Nat :=
  let f := gwField g
  let cols := [1, 3, 5].map (fun i => f.val % 8 * 24 + 6 * (g.val % 4) + i)
  let dist (c : Nat) := if c < x then x - c else c - x
  let best := cols.foldl (fun b c => if dist c < dist b then c else b) (cols.headD 0)
  (best, f.val / 8 * 28 + 27)

/-- The 1 KiB-aligned spans of a far range, as (address, length), in ascending order (R288). -/
def farSpans (a n : Nat) : List (Nat × Nat) :=
  let a0 := a / 1024 * 1024
  (List.range (cdiv (a + n - a0) 1024)).map (fun i =>
    let lo := max a (a0 + 1024 * i)
    (lo, min (a + n) (a0 + 1024 * (i + 1)) - lo))

/-- The status of the first far request whose gateway lies behind a closed field (R188, R297). -/
def farStatus (w : W9) (t : Tile) (a n : Nat) : Option (BitVec 4) :=
  (farSpans a n).findSome? (fun sp =>
    match farDecode w sp.1 with
    | none => none
    | some k =>
      let e := entryTile (farGateway k) (tileX t)
      match routeChoice w (tileX t) (tileY t) e.1 e.2 with
      | .inl st => some st
      | .inr _ => none)

/-- An FMQ operation that is not sent: a LOAD lands zeros, the tag is DONE with its FMQ_ERR bit, event 0x6001 (R287, R297). -/
def fmqUnsent (t : Tile) (g : Tag) (load : Bool) (far : FAddr) (a : LAddr) (len : Nat) (status : BitVec 4) (w : W9) : W9 :=
  let w := if load then writeStore t a.toNat (List.replicate len 0) w else w
  let w := pwrB64 t Pg.fmqErr g.val true (setTag t g true false w)
  raiseT t 0x6001 (le 8 far.toNat ++ [status.setWidth 8]) w

/-- The tag tracks a transfer (R84, R85). -/
def fmqOpen (t : Tile) (g : Tag) (x : FmqXfer) (w : W9) : W9 :=
  setTag t g false true (modTile t (fun s => { s with fmq := smPut (fun _ => none) s.fmq g.val (some x) }) w)

/-- An FMQ operation issues: its tag must be FREE (R85). -/
def fmqIssue (t : Tile) (g : Tag) (load : Bool) (far : FAddr) (a : LAddr) (len : Nat) (cs : List Cond) (w : W9) : W9 :=
  issue t cs (tagFree w t g && (load || readReady w t a.toNat len))
    (fun w =>
      let w := if load then w else schedRead t a.toNat len w
      if !farAssigned w far.toNat len then fmqUnsent t g load far a len 0 w
      else match farStatus w t far.toNat len with
        | some st => fmqUnsent t g load far a len st w
        | none => fmqOpen t g ⟨load, far, a, len, now w, (farSpans far.toNat len).length, false, false⟩ w) w

/-- FMQ_LOAD (R85). -/
def execFmqLoad (t : Tile) (tag : Tag) (far : FAddr) (a : LAddr) (len : Nat) (conds : List Cond) (s : State) :
    Host.Outcome State Fault Refusal := lift (fmqIssue t tag true far a len conds) s

/-- FMQ_STORE (R85): the local data is read before any later bundle's writes to it. -/
def execFmqStore (t : Tile) (tag : Tag) (far : FAddr) (a : LAddr) (len : Nat) (conds : List Cond) (s : State) :
    Host.Outcome State Fault Refusal := lift (fmqIssue t tag false far a len conds) s

/-- The transfer a tag tracks. -/
def fmqOf (w : W9) (t : Tile) (g : Tag) : Option FmqXfer := smGet (fun _ => none) (tileOf w t).fmq g.val

/-- DETAIL of an FMQ event: the tag and the far address. DESIGN CHOICE (log entry 12): byte 0 and bytes 1 to 7. -/
def fmqDetail (g : Tag) (far : FAddr) : List Byte := BitVec.ofNat 8 g.val :: le 7 far.toNat

/-- The end of a transfer: the tag is DONE (R85), and damaged data sets FMQ_ERR, TILE_ERR.FMQ_ERR and event 0x1030 (R89). -/
def fmqFinish (t : Tile) (g : Tag) (x : FmqXfer) (w : W9) : W9 :=
  let w := setTag t g true false (modTile t (fun s => { s with fmq := smErase g.val s.fmq }) w)
  if x.damaged then
    raise 0x1030 (tileSrc t) (tileCs w t) (fmqDetail g x.far) (tileErr t 9 (pwrB64 t Pg.fmqErr g.val true w))
  else w

/-- FMQ_TAG_DONE (R85): every far request of the transfer has landed or been accepted. -/
def fmqTagDone (t : Tile) (g : Tag) (w : W9) : W9 :=
  match fmqOf w t g with
  | some x => if x.left = 0 then fmqFinish t g x w else w
  | none => w

/-- FMQ_TAG_DONE. -/
def execFmqTagDone (t : Tile) (tag : Tag) (s : State) : Host.Outcome State Fault Refusal := lift (fmqTagDone t tag) s

/-- WAIT (R86): issues when its tag is DONE and makes it FREE. -/
def waitTag (t : Tile) (g : Tag) (w : W9) : W9 := issue t [.tagDone g] true (setTag t g false false) w

/-- WAIT. -/
def execWait (t : Tile) (tag : Tag) (s : State) : Host.Outcome State Fault Refusal := lift (waitTag t tag) s

/-- FMQ_WATCH_EXPIRED (R90): once for each time a tag stays PENDING longer than FMQ_WATCH; 0 disables the watch (Table 2.8). -/
def fmqWatch (t : Tile) (g : Tag) (w : W9) : W9 :=
  match fmqOf w t g with
  | some x =>
    let lim := (prd w t Pg.fmqWatch).toNat
    if !x.watched && decide (lim ≠ 0) && decide (lim < now w - x.since) then
      let w := modTile t (fun s => { s with fmq := smPut (fun _ => none) s.fmq g.val (some { x with watched := true }) }) w
      raiseT t 0x1031 (fmqDetail g x.far) (tileErr t 10 w)
    else w
  | none => w

/-- FMQ_WATCH_EXPIRED. -/
def execFmqWatchExpired (t : Tile) (tag : Tag) (s : State) : Host.Outcome State Fault Refusal := lift (fmqWatch t tag) s

/-! ## Scrubbing and zeroing (R55 to R59) -/

/-- Rows of a bank: 4,096 in the bank store, 1,024 in the operand store (R50, R51). -/
def bankRows (b : Nat) : Nat := if b < 32 then 4096 else 1024

/-- The first address of row `r` of bank `b`. -/
def rowAddr (c : Bool) (b r : Nat) : Nat :=
  if b < 32 then r * 2048 + b * 64
  else if c then 0x800000 + r * 2048 + (b - 32) * 128
  else 0x800000 + r * 1024 + (b - 32) * 64

/-- The next row of a bank in the pass. -/
def scrubRow (w : W9) (t : Tile) (b : Nat) : Nat := smGet (fun _ => 0) (tileOf w t).scrub.rows b

/-- Read one row of one bank: correct and count errors, and note the word for write-back if it held a single-bit error. -/
def scrubBank (t : Tile) (b : Nat) (w : W9) : W9 :=
  let r := scrubRow w t b
  if r < bankRows b then
    let c := isC t
    let a := rowAddr c b r
    let n := if c && decide (32 ≤ b) then 128 else 64
    let hit := (quarters a n).any (fun q =>
      w.mem.storeCE.contains (storeKey t q) && !w.mem.storeUE.contains (storeKey t q))
    let w := readEffects0 t a n w
    modTile t (fun s => { s with scrub := { s.scrub with
      rows := smPut (fun _ => 0) s.scrub.rows b (r + 1)
      waiting := if hit then s.scrub.waiting ++ [BitVec.ofNat 24 a] else s.scrub.waiting } }) w
  else w

/-- Every bank of both stores has been read. -/
def scrubPassed (w : W9) (t : Tile) : Bool := (List.range 48).all (fun b => decide (bankRows b ≤ scrubRow w t b))

/-- A pass ends: SCRUB_PASSES, SCRUB_LAST, SCRUB_ACTIVE, and the next pass's interval starts (R55, R56). -/
def scrubEnd (t : Tile) (w : W9) : W9 :=
  let w := pwr t Pg.scrubPasses (prd w t Pg.scrubPasses + 1) (pwr64 t Pg.scrubLast (now w) w)
  let w := pwrB t Pg.tileStatus 5 false w
  let n := now w
  modTile t (fun s => { s with scrub := { s.scrub with rows := [], passStart := n, lateRaised := false, seen := [] } }) w

/-- SCRUB_READ (R55): in a cycle of an IDLE bundle the next row of every bank whose read port is free is read. `busy` lists the
banks whose port is taken. -/
def scrubRead (t : Tile) (busy : List Nat) (w : W9) : W9 :=
  if prdB w t Pg.tileStatus 2 then
    let w := pwrB t Pg.tileStatus 5 true w
    let w := forEach ((List.range 48).filter (fun b => !busy.contains b)) (scrubBank t) w
    if scrubPassed w t then scrubEnd t w else w
  else w

/-- SCRUB_READ. -/
def execScrubRead (t : Tile) (busy : List Nat) (s : State) : Host.Outcome State Fault Refusal := lift (scrubRead t busy) s

/-- SCRUB_WRITE_BACK (R55, R57, Table 2.4): words read in the cycle before are written back corrected, but for those that a write
lands on in this cycle. -/
def scrubWriteBack (t : Tile) (written : List LAddr) (w : W9) : W9 :=
  let c := isC t
  let ws := written.map (fun a => wordOf c a.toNat)
  let back := (tileOf w t).scrub.waiting.filter (fun a => !ws.contains a.toNat)
  let keys := back.flatMap (fun a =>
    (quarters a.toNat (if c && decide (0x800000 ≤ a.toNat) then 128 else 64)).map (storeKey t))
  let w := { w with mem := { w.mem with storeCE := w.mem.storeCE.filter (fun k => !keys.contains k) } }
  modTile t (fun s => { s with scrub := { s.scrub with waiting := [] } }) w

/-- SCRUB_WRITE_BACK. -/
def execScrubWriteBack (t : Tile) (written : List LAddr) (s : State) : Host.Outcome State Fault Refusal :=
  lift (scrubWriteBack t written) s

/-- SCRUB_LATE (R56): once in a pass that runs longer than 60 s after the end of the one before; the pass continues. -/
def scrubLate (t : Tile) (w : W9) : W9 :=
  let sc := (tileOf w t).scrub
  if !sc.lateRaised && decide (60000000000 < now w - sc.passStart) then
    let w := modTile t (fun s => { s with scrub := { s.scrub with lateRaised := true } }) w
    raiseT t 0x1005 (le 8 (prd64 w t Pg.scrubLast)) (tileErr t 4 w)
  else w

/-- SCRUB_LATE. -/
def execScrubLate (t : Tile) (s : State) : Host.Outcome State Fault Refusal := lift (scrubLate t) s

/-- STORE_ZEROING_COMPLETE (R59): every word of both stores holds zeros with valid check bits. -/
def zeroingComplete (t : Tile) (w : W9) : W9 :=
  if (tileOf w t).zeroing then modTile t (fun s => { s with zeroing := false }) (clearStore t w) else w

/-- STORE_ZEROING_COMPLETE. -/
def execStoreZeroingComplete (t : Tile) (s : State) : Host.Outcome State Fault Refusal := lift (zeroingComplete t) s

/-- A tile is reset: control page, stores, bundle store, tags, products in flight (R59, R91, R110). Zeroing then runs. -/
def resetTile (t : Tile) (w : W9) : W9 :=
  let w := clearStore t (clearPage t w)
  let w := { w with mem := { w.mem with bundles := w.mem.bundles.filter (fun e => decide (e.1 / 4096 ≠ t.val)) } }
  modTile t (fun _ => { TileS.init with zeroing := true }) w

end Sys2Proof.Machine
end

