-- ==== Sys2Proof/Machine/Gateway.lean ====
section
/-! DEFINITION. Memory gateways and stacks (spec/08_weights_tiers.md R288 to R297): reads of far memory with their error correction,
accepting and serving far requests, refresh. -/

namespace Sys2Proof.Machine

open Sys2Proof

/-- The refresh mode of a stack: 0 NORMAL, 1 DOUBLE, 2 SELF (Table 8.1). -/
def refreshMode (w : W9) (f : FieldIx) : Nat :=
  let s := fieldState w f
  if s.stackSelf then 2 else if s.stackDouble then 1 else 0

/-- The stack of a far key. -/
def keyStack (k : Nat) : FieldIx := Fin.ofNat 48 (k / 2 ^ 36)

/-- A quarter holds a single-bit error, transient or lasting. -/
def farHasCE (w : W9) (q : Nat) : Bool := w.mem.farCE.contains q || w.mem.farLasting.contains q

/-- A gateway returns quarter `q` flagged uncorrectable: GW_UE_COUNT, GW_ERR.UE, event 0x6003 (R294). The key of a quarter is its
local-view address. -/
def noteFarUE (q : Nat) (w : W9) : W9 :=
  let g := farGateway q
  raise0 0x6003 (srcGw g.val) (le 8 q) (wrB (Reg.gwErr g.val) 1 true (inc (Reg.gwUeCount g.val) 1 w))

/-- A gateway corrects quarter `q` and writes it back (R294): a transient error is gone. -/
def noteFarCE (q : Nat) (w : W9) : W9 :=
  let g := farGateway q
  let w := raise0 0x6002 (srcGw g.val) (le 8 q) (wrB (Reg.gwErr g.val) 0 true (inc (Reg.gwCeCount g.val) 1 w))
  { w with mem := { w.mem with farCE := w.mem.farCE.filter (fun k => decide (k ≠ q)) } }

/-- The effects of reading quarters of far memory (R294). -/
def farReadEffects (qs : List Nat) (w : W9) : W9 :=
  forEach qs (fun q w => if w.mem.farUE.contains q then noteFarUE q w else if farHasCE w q then noteFarCE q w else w) w

/-- The bytes a read of far memory delivers: an uncorrectable quarter as zero. -/
def farRead (w : W9) (a n : Nat) : List Byte :=
  let st := stripeStacks w
  (List.range n).map (fun i => match farDecodeIn st (a + i) with
    | some p => if w.mem.farUE.contains (farKey p / 8 * 8) then 0 else smGet (fun _ => farEmpty) w.mem.far (farKey p)
    | none => 0)

/-- The local-view address of a far request at a gateway. -/
def reqAddr (g : Gateway) (r : FarReq) : Nat := g.val / 4 * 2 ^ 36 + r.offset

/-- The channel of the gateway a request lies on (R285). -/
def reqChannel (r : FarReq) : Nat := r.offset / 2 ^ 10 % 4

/-- One more far request of a transfer has landed or been accepted. -/
def fmqStep (t : Tile) (g : Tag) (damaged : Bool) (w : W9) : W9 := match fmqOf w t g with
  | some x =>
    let y : FmqXfer := { x with left := x.left - 1, damaged := x.damaged || damaged }
    modTile t (fun s => { s with fmq := smPut (fun _ => none) s.fmq g.val (some y) }) w
  | none => w

/-- A far request of a transfer is answered NAK_RESET (R297, R499, R500): a LOAD lands zeros, a STORE writes nothing; FMQ_ERR, event 0x6001. -/
def farNak (r : FarReq) (w : W9) : W9 := match fmqOf w r.tile r.tag with
  | some x =>
    let w := if r.load then writeStore r.tile r.landing.toNat (List.replicate r.len 0) w else w
    fmqStep r.tile r.tag false
      (raiseT r.tile 0x6001 (le 8 x.far.toNat ++ [3]) (pwrB64 r.tile Pg.fmqErr r.tag.val true w))
  | none => w

/-- GATEWAY_REQUEST_ACCEPT (R288, R290): the queue holds 64; a STORE is answered once every byte is accepted. A request outside the
stack sets GW_ERR.UNASSIGNED and is not queued. While the gateway quiesces the request is answered NAK_RESET (R499). -/
def gatewayAccept (g : Gateway) (r : FarReq) (w : W9) : W9 :=
  let q := (gwOf w g).queue
  if (gwOf w g).reset.isSome then farNak r w
  else if stackBytes < r.offset + r.len then wrB (Reg.gwErr g.val) 2 true w
  else if q.length < 64 then
    let w := modGw g (fun s => { s with queue := s.queue ++ [r] }) w
    let w := wr (Reg.gwQueuePeak g.val) (BitVec.ofNat 32 (max (rd w (Reg.gwQueuePeak g.val)).toNat (q.length + 1))) w
    if r.load then w else fmqStep r.tile r.tag false (inc (Reg.gwWrites g.val) 1 w)
  else w

/-- GATEWAY_REQUEST_ACCEPT. -/
def execGatewayRequestAccept (g : Gateway) (r : FarReq) (s : State) : Host.Outcome State Fault Refusal := lift (gatewayAccept g r) s

/-- Two requests overlap in a 64 B line (R290). -/
def lineOverlap (a b : FarReq) : Bool :=
  decide (a.offset / 64 * 64 < b.offset + b.len) && decide (b.offset / 64 * 64 < a.offset + a.len)

/-- The request a channel serves next: scheduled before unscheduled, each in arrival order, none past an earlier overlapping one
(R290). -/
def nextReq (q : List FarReq) (ch : Nat) : Option FarReq :=
  let free := (List.range q.length).filterMap (fun i => match q[i]? with
    | some r => if reqChannel r == ch && !((q.take i).any (fun e => lineOverlap e r)) then some r else none
    | none => none)
  match free.find? (fun r => r.sched) with
  | some r => some r
  | none => free.head?

/-- A LOAD's data lands at its tile; zeros for an uncorrectable quarter taint what the tile's band holds (R89, R294, R529). Data for a
tag that a reset freed is dropped and counted (R91). -/
def landLoad (g : Gateway) (r : FarReq) (w : W9) : W9 :=
  let a := reqAddr g r
  let qs := farQuarters w a r.len
  let bad := qs.any (fun q => w.mem.farUE.contains q)
  let bs := farRead w a r.len
  let w := farReadEffects qs (inc (Reg.gwReads g.val) 1 w)
  if (fmqOf w r.tile r.tag).isSome then
    fmqStep r.tile r.tag bad (onlyIf bad (setTaint r.tile true) (writeStore r.tile r.landing.toNat bs w))
  else inc Reg.resetDrops 1 w

/-- GATEWAY_SERVE (R290 to R294): the next request of the channel is served, unless the stack is in SELF. -/
def gatewayServe (g : Gateway) (ch : Fin 4) (latency : Nat) (w : W9) : W9 :=
  if refreshMode w (gwField g) = 2 then w
  else match nextReq (gwOf w g).queue ch.val with
    | none => w
    | some r =>
      let w := modGw g (fun s => { s with queue := s.queue.erase r }) w
      let w := wr (Reg.gwLatMax g.val) (BitVec.ofNat 32 (max (rd w (Reg.gwLatMax g.val)).toNat latency)) w
      if r.load then landLoad g r w else writeFar (reqAddr g r) r.data w

/-- GATEWAY_SERVE. -/
def execGatewayServe (g : Gateway) (channel : Fin 4) (latency : Nat) (s : State) : Host.Outcome State Fault Refusal :=
  lift (gatewayServe g channel latency) s

/-- REFRESH_INTERVAL (R292, Table 8.1): one bank group of the channel is busy; the request next on the channel waits for it. -/
def refreshInterval (f : FieldIx) (ch : Fin 16) (w : W9) : W9 :=
  let g : Gateway := Fin.ofNat 192 (f.val * 4 + ch.val / 4)
  if refreshMode w f ≠ 2 ∧ (nextReq (gwOf w g).queue (ch.val % 4)).isSome then inc (Reg.gwRefreshWaits g.val) 1 w else w

/-- REFRESH_INTERVAL. -/
def execRefreshInterval (f : FieldIx) (channel : Fin 16) (s : State) : Host.Outcome State Fault Refusal :=
  lift (refreshInterval f channel) s

end Sys2Proof.Machine
end

