-- ==== Sys2Proof/Machine/Hash.lean ====
section
/-! DEFINITION. The checks and digests the spec names: CRC-16 of mesh headers (Table 5.2), CRC-32 (R326) and SHA-256. -/

namespace Sys2Proof.Machine

open Sys2Proof

/-- One bit of CRC-16, polynomial 0x1021, most significant bit first. -/
def crc16Bit (c : Nat) : Nat := if c / 0x8000 = 1 then (c * 2 % 0x10000) ^^^ 0x1021 else c * 2

/-- Apply `f` n times. -/
def iter {α : Type} (f : α → α) : Nat → α → α
  | 0, a => a
  | n + 1, a => iter f n (f a)

/-- CRC-16 with polynomial 0x1021 and initial value 0xFFFF (Table 5.2). -/
def crc16 (l : List Byte) : Nat := l.foldl (fun c b => iter crc16Bit 8 (c ^^^ (b.toNat * 256))) 0xFFFF

/-- One bit of the reflected CRC-32 with polynomial 0x04C1_1DB7. -/
def crc32Bit (c : Nat) : Nat := if c % 2 = 1 then (c / 2) ^^^ 0xEDB88320 else c / 2

/-- CRC-32: polynomial 0x04C1_1DB7, reflected, initial value 0xFFFF_FFFF, final complement (R326). -/
def crc32 (l : List Byte) : Nat := (l.foldl (fun c b => iter crc32Bit 8 (c ^^^ b.toNat)) 0xFFFFFFFF) ^^^ 0xFFFFFFFF

/-- The round constants of SHA-256 (FIPS 180-4). -/
def shaK : List Word32 := [
  0x428A2F98, 0x71374491, 0xB5C0FBCF, 0xE9B5DBA5, 0x3956C25B, 0x59F111F1, 0x923F82A4, 0xAB1C5ED5,
  0xD807AA98, 0x12835B01, 0x243185BE, 0x550C7DC3, 0x72BE5D74, 0x80DEB1FE, 0x9BDC06A7, 0xC19BF174,
  0xE49B69C1, 0xEFBE4786, 0x0FC19DC6, 0x240CA1CC, 0x2DE92C6F, 0x4A7484AA, 0x5CB0A9DC, 0x76F988DA,
  0x983E5152, 0xA831C66D, 0xB00327C8, 0xBF597FC7, 0xC6E00BF3, 0xD5A79147, 0x06CA6351, 0x14292967,
  0x27B70A85, 0x2E1B2138, 0x4D2C6DFC, 0x53380D13, 0x650A7354, 0x766A0ABB, 0x81C2C92E, 0x92722C85,
  0xA2BFE8A1, 0xA81A664B, 0xC24B8B70, 0xC76C51A3, 0xD192E819, 0xD6990624, 0xF40E3585, 0x106AA070,
  0x19A4C116, 0x1E376C08, 0x2748774C, 0x34B0BCB5, 0x391C0CB3, 0x4ED8AA4A, 0x5B9CCA4F, 0x682E6FF3,
  0x748F82EE, 0x78A5636F, 0x84C87814, 0x8CC70208, 0x90BEFFFA, 0xA4506CEB, 0xBEF9A3F7, 0xC67178F2]

/-- The initial hash value of SHA-256. -/
def shaInit : List Word32 := [
  0x6A09E667, 0xBB67AE85, 0x3C6EF372, 0xA54FF53A, 0x510E527F, 0x9B05688C, 0x1F83D9AB, 0x5BE0CD19]

/-- Rotate right. -/
def rotr (x : Word32) (n : Nat) : Word32 := x.rotateRight n

/-- The big-endian word of four bytes. -/
def beWord : List Byte → Word32
  | [a, b, c, d] => BitVec.ofNat 32 (a.toNat * 0x1000000 + b.toNat * 0x10000 + c.toNat * 0x100 + d.toNat)
  | _ => 0

/-- A word's four bytes, most significant first. -/
def beBytes (x : Word32) : List Byte := (le 4 x.toNat).reverse

/-- Cut a list into `n` pieces of `k`. -/
def pieces {α : Type} (k : Nat) : Nat → List α → List (List α)
  | 0, _ => []
  | n + 1, l => l.take k :: pieces k n (l.drop k)

/-- The message padded to whole 64 B blocks. -/
def shaPad (l : List Byte) : List Byte :=
  let n := l.length
  let z := (119 - n % 64) % 64
  l ++ [0x80] ++ List.replicate z 0 ++ (le 8 (8 * n)).reverse

/-- Extend the message schedule by `n` words; `ws` holds it newest first. -/
def shaSched : Nat → List Word32 → List Word32
  | 0, ws => ws
  | n + 1, ws =>
    let a := ws.getD 14 0
    let b := ws.getD 1 0
    let s0 := rotr a 7 ^^^ rotr a 18 ^^^ (a >>> 3)
    let s1 := rotr b 17 ^^^ rotr b 19 ^^^ (b >>> 10)
    shaSched n ((ws.getD 15 0 + s0 + ws.getD 6 0 + s1) :: ws)

/-- One round over the eight working words. -/
def shaRound (v : List Word32) (kw : Word32 × Word32) : List Word32 := match v with
  | [a, b, c, d, e, f, g, h] =>
    let s1 := rotr e 6 ^^^ rotr e 11 ^^^ rotr e 25
    let t1 := h + s1 + ((e &&& f) ^^^ (~~~e &&& g)) + kw.1 + kw.2
    let s0 := rotr a 2 ^^^ rotr a 13 ^^^ rotr a 22
    [t1 + s0 + ((a &&& b) ^^^ (a &&& c) ^^^ (b &&& c)), a, b, c, d + t1, e, f, g]
  | _ => v

/-- Compress one 64 B block into the hash value. -/
def shaBlock (h : List Word32) (blk : List Byte) : List Word32 :=
  let ws := (shaSched 48 ((pieces 4 16 blk).map beWord).reverse).reverse
  (List.zip h ((shaK.zip ws).foldl shaRound h)).map (fun p => p.1 + p.2)

/-- The SHA-256 digest of a message. -/
def sha256 (l : List Byte) : List Byte :=
  let m := shaPad l
  ((pieces 64 (m.length / 64) m).foldl shaBlock shaInit).flatMap beBytes

end Sys2Proof.Machine
end

