-- ==== Sys2Proof/Machine/Float.lean ====
section
/-! DEFINITION. Arithmetic on FP32 and the narrow element formats (R111, R119 to R123, R128, R148, R210, R211). A finite value is a
dyadic number m × 2^e, kept as the pair (m, e), computed exactly and rounded once, to nearest with ties to even. -/

namespace Sys2Proof.Machine

open Sys2Proof

/-- A dyadic number: (m, e) stands for m × 2^e. -/
abbrev Dy := Int × Int

/-- The value 0. -/
def dy0 : Dy := (0, 0)
/-- Exact product. -/
def dyMul (a b : Dy) : Dy := (a.1 * b.1, a.2 + b.2)
/-- Exact sum. -/
def dyAdd (a b : Dy) : Dy :=
  let e := min a.2 b.2
  (a.1 * 2 ^ (a.2 - e).toNat + b.1 * 2 ^ (b.2 - e).toNat, e)
/-- Exact negation. -/
def dyNeg (a : Dy) : Dy := (-a.1, a.2)
/-- Magnitude. -/
def dyAbs (a : Dy) : Dy := ((a.1.natAbs : Int), a.2)
/-- Comparison a < b. -/
def dyLt (a b : Dy) : Bool := decide ((dyAdd a (dyNeg b)).1 < 0)
/-- The exponent of the leading bit: floor(log2 |a|) for a ≠ 0. -/
def dyLog (a : Dy) : Int := (a.1.natAbs.log2 : Int) + a.2

/-- n / 2^k to nearest, ties to even. -/
def rneShift (n k : Nat) : Nat :=
  let q := n / 2 ^ k
  let r := n % 2 ^ k
  let half := 2 ^ k / 2
  if k = 0 then n else if r < half ∨ (r = half ∧ q % 2 = 0) then q else q + 1

/-- Round a magnitude to a floating-point code with `mb` mantissa bits and smallest subnormal 2^sub, unbounded above. -/
def rneCode (mb : Nat) (sub : Int) (a : Nat) (e : Int) : Nat :=
  if a = 0 then 0
  else
    let top : Int := (a.log2 : Int) + e
    let q := max (top - mb) sub
    let r := if e ≤ q then rneShift a (q - e).toNat else a * 2 ^ (e - q).toNat
    (q - sub).toNat * 2 ^ mb + r

/-! ## FP32 -/

/-- The sign bit of a pattern. -/
def f32Sign (x : F32) : Bool := x.getLsbD 31
/-- A pattern is an infinity or a NaN. -/
def f32Special (x : F32) : Bool := fieldOf x 30 23 == 255
/-- The value of a finite pattern. -/
def f32Val (x : F32) : Dy :=
  let ex := fieldOf x 30 23
  let m := fieldOf x 22 0
  let mag : Int := if ex = 0 then (m : Int) else ((m + 2 ^ 23 : Nat) : Int)
  let e : Int := if ex = 0 then -149 else (ex : Int) - 150
  (if f32Sign x then -mag else mag, e)

/-- fp32(): to nearest, ties to even, subnormals kept; a result that would be infinite becomes the largest finite value of its
sign, and the flag says so (R111, R112, R213). An exact zero is +0. -/
def f32Sat (v : Dy) : F32 × Bool :=
  let c := rneCode 23 (-149) v.1.natAbs v.2
  let ovf := decide (0x7F800000 ≤ c)
  let c := if ovf then 0x7F7FFFFF else c
  (BitVec.ofNat 32 ((if v.1 < 0 ∧ c ≠ 0 then 2 ^ 31 else 0) + c), ovf)

/-- fp32() without the flag. -/
def f32Of (v : Dy) : F32 := (f32Sat v).1

/-- fp32(a + b) for patterns; the value of an infinite or NaN operand is open (log entry 13). -/
def f32AddSat (a b : F32) : F32 × Bool :=
  if f32Special a || f32Special b then (Config.openSum a b, true) else f32Sat (dyAdd (f32Val a) (f32Val b))
/-- fp32(a + b). -/
def f32Add (a b : F32) : F32 := (f32AddSat a b).1
/-- fp32(a × b). -/
def f32Mul (a b : F32) : F32 := if f32Special a || f32Special b then Config.openProd a b else f32Of (dyMul (f32Val a) (f32Val b))

/-- fp32(a / b) for finite a and b ≠ 0: the quotient to 60 extra bits with a sticky bit, then rounded once. -/
def f32Div (a b : F32) : F32 :=
  if f32Special a || f32Special b || (f32Val b).1 == 0 then Config.openQuot a b
  else
    let x := f32Val a
    let y := f32Val b
    let n := x.1.natAbs * 2 ^ 80
    let q := n / y.1.natAbs
    let s := if n % y.1.natAbs = 0 then 0 else 1
    let m : Int := ((2 * q + s : Nat) : Int)
    f32Of (if (x.1 < 0) == (y.1 < 0) then m else -m, x.2 - y.2 - 81)

/-- a < b for finite patterns. -/
def f32Lt (a b : F32) : Bool := dyLt (f32Val a) (f32Val b)

/-- floor(√n), bit by bit from bit `k` down. -/
def isqrtFrom : Nat → Nat → Nat → Nat
  | 0, _, r => r
  | k + 1, n, r =>
    let r' := r + 2 ^ k
    if r' * r' ≤ n then isqrtFrom k n r' else isqrtFrom k n r

/-- √a to nearest, ties to even, for a finite a ≥ 0. DEDUCED (log entry 14): the root of R148 is the nearest FP32 value. -/
def f32Sqrt (a : F32) : F32 :=
  let v := f32Val a
  if v.1 ≤ 0 then 0
  else
    let odd := v.2 % 2 ≠ 0
    let m := v.1.natAbs * (if odd then 2 else 1) * 2 ^ 80
    let e := (if odd then v.2 - 1 else v.2) - 80
    let r := isqrtFrom 64 m 0
    let s := if r * r = m then 0 else 1
    f32Of (((2 * r + s : Nat) : Int), e / 2 - 1)

/-! ## 2^x (R211) -/

/-- floor(2^128 × 2^(2^-j)) for j = 1 to 49; Sys2Proof/Laws/Float.lean checks each against the one before it. -/
def rootTable : List Nat := [
  0x16A09E667F3BCC908B2FB1366EA957D3E,
  0x1306FE0A31B7152DE8D5A46305C85EDEC,
  0x1172B83C7D517ADCDF7C8C50EB14A791F,
  0x10B5586CF9890F6298B92B71842A98363,
  0x1059B0D31585743AE7C548EB68CA417FD,
  0x102C9A3E778060EE6F7CACA4F7A29BDE8,
  0x10163DA9FB33356D84A66AE336DCDFA3F,
  0x100B1AFA5ABCBED6129AB13EC11DC9543,
  0x10058C86DA1C09EA1FF19D294CF2F679B,
  0x1002C605E2E8CEC506D21BFC89A23A00F,
  0x100162F3904051FA128BCA9C55C31E5DF,
  0x1000B175EFFDC76BA38E31671CA939725,
  0x100058BA01FB9F96D6CACD4B180917C3D,
  0x10002C5CC37DA9491D0985C348C68E7B3,
  0x1000162E525EE054754457D5995292026,
  0x10000B17255775C040618BF4A4ADE83FC,
  0x1000058B91B5BC9AE2EED81E9B7D4CFAB,
  0x100002C5C89D5EC6CA4D7C8ACC017B7C9,
  0x10000162E43F4F831060E02D839A9D16D,
  0x100000B1721BCFC99D9F890EA06911763,
  0x10000058B90CF1E6D97F9CA14DBCC1628,
  0x1000002C5C863B73F016468F6BAC5CA2B,
  0x100000162E430E5A18F6119E3C02282A5,
  0x1000000B1721835514B86E6D96EFD1BFE,
  0x100000058B90C0B48C6BE5DF846C5B2EF,
  0x10000002C5C8601CC6B9E94213C72737A,
  0x1000000162E42FFF037DF38AA2B219F06,
  0x10000000B17217FBA9C739AA5819F44F9,
  0x1000000058B90BFCDEE5ACD3C1CEDC823,
  0x100000002C5C85FE31F35A6A30DA1BE50,
  0x10000000162E42FF0999CE3541B9FFFCF,
  0x100000000B17217F80F4EF5AADDA45554,
  0x10000000058B90BFBF8479BD5A81B51AD,
  0x1000000002C5C85FDF84BD62AE30A74CC,
  0x100000000162E42FEFB2FED257559BDAA,
  0x1000000000B17217F7D5A7716BBA4A9AE,
  0x100000000058B90BFBE9DDBAC5E109CCE,
  0x10000000002C5C85FDF4B15DE6F17EB0D,
  0x1000000000162E42FEFA494F1478FDE05,
  0x10000000000B17217F7D20CF927C8E94C,
  0x1000000000058B90BFBE8F71CB4E4B33D,
  0x100000000002C5C85FDF477B662B26945,
  0x10000000000162E42FEFA3AE53369388C,
  0x100000000000B17217F7D1D351A389D40,
  0x10000000000058B90BFBE8E8B2D3D4EDE,
  0x1000000000002C5C85FDF4741BEA6E77E,
  0x100000000000162E42FEFA39FE95583C2,
  0x1000000000000B17217F7D1CFB72B45E1,
  0x100000000000058B90BFBE8E7CC35C3F0]

/-- 2^f × 2^128, rounded down, for f = n / 2^49 in [0, 1), bits from the top. -/
def exp2Frac : List Nat → Nat → Nat → Nat
  | [], _, acc => acc
  | c :: r, n, acc =>
    let b := 2 ^ r.length
    if b ≤ n then exp2Frac r (n - b) (acc * c / 2 ^ 128) else exp2Frac r n acc

/-- The FP32 value nearest to 2^x for x from -149 to 0; +0 below -149 (R211). Arguments above -2^-26 give 1. -/
def f32Exp2 (x : F32) : F32 :=
  if f32Special x then 0
  else
    let v := f32Val x
    if v.1 = 0 then 0x3F800000
    else if dyLt v (-149, 0) then 0
    else if dyLt (-1, -26) v then 0x3F800000
    else
      let n : Int := if -49 ≤ v.2 then v.1 * 2 ^ (v.2 + 49).toNat else v.1 / 2 ^ (-49 - v.2).toNat
      let i := n / 2 ^ 49
      let f := (n % 2 ^ 49).toNat
      let r := exp2Frac rootTable f (2 ^ 128)
      f32Of (((2 * r + (if f = 0 then 0 else 1) : Nat) : Int), i - 129)

/-! ## Narrow elements (R119 to R123) -/

/-- A floating-point element format: mantissa bits, exponent of the smallest subnormal, largest finite code, element bits. -/
structure FpFmt where
  mb : Nat
  sub : Int
  maxCode : Nat
  bits : Nat
deriving DecidableEq, Repr

/-- The floating-point formats of Table 4.1 by code. -/
def fpFmt (c : Nat) : Option FpFmt :=
  if c = 1 then some ⟨1, -1, 0x7, 4⟩ else if c = 3 then some ⟨3, -3, 0x1F, 6⟩ else if c = 4 then some ⟨2, -4, 0x1F, 6⟩
  else if c = 5 then some ⟨3, -9, 0x7E, 8⟩ else if c = 6 then some ⟨2, -16, 0x7B, 8⟩ else if c = 8 then some ⟨7, -133, 0x7F7F, 16⟩
  else if c = 9 then some ⟨10, -24, 0x7BFF, 16⟩ else none

/-- Bits of an element of a format (Table 4.1); 0 for a reserved code. -/
def elemBits (c : Nat) : Nat :=
  if c = 1 ∨ c = 2 then 4 else if c = 3 ∨ c = 4 then 6 else if c = 5 ∨ c = 6 ∨ c = 7 then 8 else if c = 8 ∨ c = 9 then 16
  else if c = 0xA then 3 else if c = 0xB then 2 else 0

/-- Decode an element (Table 4.1, R120); none for an infinity or a NaN. -/
def elemVal (c n : Nat) : Option Dy :=
  match fpFmt c with
  | some f =>
    let neg := n / 2 ^ (f.bits - 1) % 2 == 1
    let mag := n % 2 ^ (f.bits - 1)
    let ex := mag / 2 ^ f.mb
    let m := mag % 2 ^ f.mb
    if f.maxCode < mag then none
    else
      let v : Int := if ex = 0 then (m : Int) else ((m + 2 ^ f.mb : Nat) : Int)
      some (if neg then -v else v, if ex = 0 then f.sub else f.sub + (ex : Int) - 1)
  | none =>
    if c = 7 then some (if n < 128 then (n : Int) else (n : Int) - 256, -6)
    else if c = 2 then some (if n < 8 then (n : Int) else (n : Int) - 16, -2)
    else if c = 0xA then some (if n % 8 < 4 then (n % 4 : Nat) else -((n % 4 : Nat) : Int), 0)
    else if c = 0xB then some (if n = 1 then 1 else if n = 3 then -1 else 0, 0)
    else some dy0

/-- Round a value to an element code: to nearest, ties to even, saturating, zero as the positive code (R121). -/
def elemCode (c : Nat) (v : Dy) : Nat :=
  match fpFmt c with
  | some f =>
    let k := min (rneCode f.mb f.sub v.1.natAbs v.2) f.maxCode
    if v.1 < 0 ∧ k ≠ 0 then 2 ^ (f.bits - 1) + k else k
  | none =>
    let frac : Int := if c = 7 then -6 else -2
    let lim := if c = 7 then 127 else 7
    let wd := if c = 7 then 256 else 16
    let a := v.1.natAbs
    let r := if v.2 ≤ frac then rneShift a (frac - v.2).toNat else a * 2 ^ (v.2 - frac).toNat
    let r := min r lim
    if v.1 < 0 ∧ r ≠ 0 then wd - r else r

/-- emax of a format: the exponent of its largest finite value (the text before R127). -/
def elemMax (c : Nat) : Int :=
  if c = 5 then 8 else if c = 6 then 15 else if c = 3 then 2 else if c = 4 then 4 else if c = 1 then 2 else 0

/-- Convert to BF16 (R121). -/
def toBf16 (x : F32) : BitVec 16 := if f32Special x then 0 else BitVec.ofNat 16 (elemCode 8 (f32Val x))
/-- The value of a BF16 pattern, +0 for an infinity or NaN (R113). -/
def bf16Val (x : BitVec 16) : Dy := (elemVal 8 x.toNat).getD dy0

/-! ## A block (R128, R129) -/

/-- What converting one block gives: its scale, its codes, and whether it saturated or was flushed. -/
structure BlockOut where
  scale : Nat
  codes : List Nat
  sat : Bool
  flushed : Bool
deriving DecidableEq, Repr

/-- The largest magnitude of a block. -/
def dyMaxAbs : List Dy → Dy
  | [] => dy0
  | v :: r =>
    let m := dyMaxAbs r
    if dyLt m (dyAbs v) then dyAbs v else m

/-- Convert one block of values into format `c` under a scale ceiling (R128). -/
def convertBlock (c : Nat) (ceiling : Nat) (vs : List Dy) : BlockOut :=
  let amax := dyMaxAbs vs
  if amax.1 = 0 then ⟨0, vs.map (fun _ => 0), false, false⟩
  else
    let s0 := dyLog amax - elemMax c + 127
    let sat := decide ((ceiling : Int) < s0)
    let s : Int := max (if sat then (ceiling : Int) else s0) 0
    let q := vs.map (fun v => elemCode c (v.1, v.2 - (s - 127)))
    if q.all (fun k => k == 0) then ⟨0, q, sat, true⟩ else ⟨s.toNat, q, sat, false⟩

/-! ## Packing (R134) -/

/-- Pack codes of `b` bits densely, least significant bits first. -/
def packNat (b : Nat) : List Nat → Nat
  | [] => 0
  | c :: r => c % 2 ^ b + 2 ^ b * packNat b r

/-- The bytes of packed codes. -/
def packBytes (b : Nat) (cs : List Nat) : List Byte := le (cdiv (b * cs.length) 8) (packNat b cs)

/-- Code `i` of a packed number. -/
def packedAt (b n i : Nat) : Nat := n / 2 ^ (b * i) % 2 ^ b

end Sys2Proof.Machine
end

