-- ==== Sys2Proof/Machine/Array.lean ====
section
/-! DEFINITION. Matrix arrays and conversion into narrow formats (spec/03_matrix_array.md, spec/04_narrow_precision.md): MATMUL, WLOAD,
the drain of a product, CONVERT. -/

namespace Sys2Proof.Machine

open Sys2Proof

/-! ## Formats and precision contexts (R119, R141, R157) -/

/-- Precision context `n` of epoch `b`: its three dwords start at this page offset (Table 4.12). -/
def ctxIx (b : Bool) (n : Fin 16) : Nat := b2n b * 16 + n.val

/-- A precision context as an operation takes it at issue (R141). -/
structure Ctx where
  valid : Bool
  fmt : Nat
  burst : Bool
  slots : Nat
  threshold : BitVec 16
  layer : LayerIx
  scaleBase : Nat
  ceiling : Nat
  outBase : Nat
deriving DecidableEq, Repr

/-- Read a context of a tile's bank. -/
def ctxOf (w : W9) (t : Tile) (b : Bool) (n : Fin 16) : Ctx :=
  let i := ctxIx b n
  let c := prd w t (Pg.ctx i)
  let s := prd w t (Pg.ctxScale i)
  let o := prd w t (Pg.ctxOutl i)
  ⟨c.getLsbD 31, fieldOf c 27 24, c.getLsbD 23, fieldOf c 22 19, BitVec.ofNat 16 (fieldOf c 15 0), Fin.ofNat 256 (fieldOf s 31 24),
    fieldOf s 23 0, fieldOf o 31 24, fieldOf o 23 0⟩

/-- What an operation's format field names: a fixed code, with no outlier path and the default ceiling (R127), or a context. -/
def fmtOf (w : W9) (t : Tile) (b : Bool) (scaleBase : LAddr) : FmtRef → Ctx
  | .code c => ⟨true, c.toNat, false, 0, 0, 0, scaleBase.toNat, 0xFE, 0⟩
  | .ctx n => ctxOf w t b n

/-- A format name that gives the operation's layer for counters: only a context does (R130). -/
def fmtLayer (c : Ctx) : FmtRef → Option LayerIx
  | .code _ => none
  | .ctx _ => some c.layer

/-! ## Rate and latency (R101, R106, R107, R109) -/

/-- The rate factor of a weight format (Table 3.3). -/
def weightRate (c : Nat) : Nat := if elemBits c = 16 then 4 else if elemBits c = 6 ∨ elemBits c = 8 then 2 else 1
/-- The rate factor of a product (R101). -/
def rateOf (wf af : Nat) : Nat := if elemBits af = 16 then 4 else weightRate wf

/-- The pads of the tile's field: LAT_PAD (Table 9.6). -/
def latPad (w : W9) (t : Tile) (hi lo : Nat) : Nat := rdF w (Reg.latPad (tileField t).val) hi lo
/-- A1 silicon. -/
def isA1 (w : W9) : Bool := decide (w.dev.stepping = .a1)
/-- ARRAY_STATUS.TRANSPOSE_HALF: 1 on A1 B-tiles, and on B0 B-tiles while the pads apply (Table 3.9). -/
def transposeHalf (w : W9) (t : Tile) : Bool := !isC t && (isA1 w || latPad w t 12 12 == 1)
/-- Drain cycles (Table 3.4) with the drain pad. -/
def drainCycles (w : W9) (t : Tile) : Nat := (if isC t then (if isA1 w then 52 else 48) else if isA1 w then 44 else 40) + latPad w t 3 0
/-- T of R107 for an input of `inp` cycles. -/
def productCycles (w : W9) (t : Tile) (inp : Nat) : Nat := 4 + (if isC t then 128 else 64) + drainCycles w t + inp - 1

/-! ## Weight blocks (R134, R125, R113) -/

/-- Bank rows of a block (Table 4.6). -/
def blockRows (c : Bool) (f : Nat) : Nat :=
  if elemBits f = 16 then (if c then 16 else 4) else if elemBits f = 8 then (if c then 8 else 2)
  else if elemBits f = 6 then (if c then 6 else 2) else if f = 0xB then (if c then 3 else 1) else if c then 4 else 1

/-- A format's scales lie after its elements (Table 4.6). -/
def inlineScales (f : Nat) : Bool := f == 0xA || f == 0xB

/-- What an edge conversion gave: decoded values row by row, whether an infinity or NaN was replaced, and how many blocks had
scale 0xFF (R113, R125). -/
structure Decoded where
  rows : List (List Dy)
  nonfinite : Bool
  nanScales : Nat
deriving DecidableEq, Repr

/-- An E8M0 scale (R123). -/
def e8m0 (n : Nat) : Dy := (1, (n : Int) - 127)

/-- An element times its scale: zero for an infinity or NaN element (R113). -/
def scaled (f code : Nat) (sc : Dy) : Dy := match elemVal f code with
  | some v => dyMul v sc
  | none => dy0

/-- The scale of group `i` of `m` elements as the bytes give it: none for 0xFF in an E8M0 byte (R125). -/
def scaleAt (f : Nat) (sc : List Byte) (i : Nat) : Option Dy :=
  if f = 0xB then some (bf16Val (BitVec.ofNat 16 (ofLe ((sc.drop (2 * i)).take 2))))
  else
    let b := (sc.getD i 0).toNat
    if b = 0xFF then none else some (e8m0 b)

/-- Decode a K × K weight block from its element bytes and scale bytes (R126, R134). -/
def decodeBlock (k f : Nat) (el sc : List Byte) : Decoded :=
  let n := ofLe el
  let b := elemBits f
  let grp := if inlineScales f then 16 else 32
  let wide := b == 16
  let scale (i j : Nat) : Option Dy := if wide then some (1, 0) else scaleAt f sc (i * (k / grp) + j / grp)
  let rows := (List.range k).map (fun i => (List.range k).map (fun j =>
    match scale i j with
    | some s => scaled f (packedAt b n (i * k + j)) s
    | none => dy0))
  let bad := (List.range (k * k)).any (fun e => (elemVal f (packedAt b n e)).isNone)
  let nans := if wide || f == 0xB then 0
    else ((List.range (k * (k / grp))).filter (fun i => (sc.getD i 0).toNat == 0xFF)).length
  ⟨rows, bad, nans⟩

/-- The transpose of a block (R104, R105). -/
def transposeRows (k : Nat) (r : List (List Dy)) : List (List Dy) :=
  (List.range k).map (fun i => (List.range k).map (fun j => (r.getD j []).getD i dy0))

/-- Bytes of a block's elements. -/
def elemBytes (k f : Nat) : Nat := k * k * elemBits f / 8
/-- Bytes of a block's scales. -/
def scaleBytes (k f : Nat) : Nat :=
  if elemBits f = 16 then 0 else if f = 0xB then k * (k / 16) * 2 else if f = 0xA then k * (k / 16) else k * (k / 32)

/-- Read the block at bank address `a`; scales held apart are at `sc` (R134). -/
def readBlock (w : W9) (t : Tile) (k f a sc : Nat) (tr : Bool) : Decoded :=
  let el := readStore w t a (elemBytes k f)
  let scb := if inlineScales f then readStore w t (a + elemBytes k f) (scaleBytes k f) else readStore w t sc (scaleBytes k f)
  let d := decodeBlock k f el scb
  if tr then { d with rows := transposeRows k d.rows } else d

/-- The scheduled reads of a block. -/
def blockReads (t : Tile) (k f a sc : Nat) (w : W9) : W9 :=
  let n := elemBytes k f + (if inlineScales f then scaleBytes k f else 0)
  let w := schedRead t a n w
  if inlineScales f || elemBits f == 16 then w else schedRead t sc (scaleBytes k f) w

/-! ## Activations (R133, R135 to R137) -/

/-- One segment of 64 activations of a token row as edge conversion gives it. `tag` is an invalid burst tag met (R137). -/
structure Segment where
  vals : List Dy
  nonfinite : Bool
  nanScales : Nat
  tag : Option Nat
deriving DecidableEq, Repr

/-- Replace elements by the valid outlier pairs of a group; the higher slot wins (R132, R133). -/
def applyPairs (slots : Nat) (pairs : List Byte) (vs : List Dy) : List Dy :=
  (List.range slots).foldl (fun vs i =>
    let p := (pairs.drop (4 * i)).take 4
    let c := (p.getD 2 0).toNat
    if 128 ≤ c then vs.set (c % 64) (bf16Val (BitVec.ofNat 16 (ofLe (p.take 2)))) else vs) vs

/-- Decode 32 elements under one E8M0 scale byte; scale 0xFF gives zeros (R125). -/
def decode32 (f n first scale : Nat) : List Dy :=
  (List.range 32).map (fun j => if scale = 0xFF then dy0 else scaled f (packedAt (elemBits f) n (first + j)) (e8m0 scale))

/-- Edge-convert transport: the dense elements of a segment with its two scale bytes, or a wide segment (R135). -/
def edgeSegment (f : Nat) (el : List Byte) (s0 s1 : Nat) : Segment :=
  let n := ofLe el
  let b := elemBits f
  let bad := (List.range 64).any (fun j => (elemVal f (packedAt b n j)).isNone)
  if b = 16 then ⟨(List.range 64).map (fun j => scaled f (packedAt b n j) (1, 0)), bad, 0, none⟩
  else ⟨decode32 f n 0 s0 ++ decode32 f n 32 s1, bad, b2n (s0 == 0xFF) + b2n (s1 == 0xFF), none⟩

/-- Block `j` of a packed burst (R136): zeros where it is not valid, or where the tag is invalid (R137). -/
def burstBlock (u : List Byte) (j : Nat) : List Dy :=
  let tag := (u.getD 119 0).toNat
  let f := tag % 16
  if (f = 1 ∨ f = 2) ∧ j < tag / 16 then decode32 f (ofLe ((u.drop (16 * j)).take 16)) 0 (u.getD (112 + j) 0).toNat
  else List.replicate 32 dy0

/-- The invalid tag of a burst, if it has one (R137). -/
def badTag (u : List Byte) : Option Nat :=
  let tag := (u.getD 119 0).toNat
  if (tag % 16 = 1 ∨ tag % 16 = 2) ∧ tag / 16 ≠ 0 then none else some tag

/-- How a product reads its activations: bytes by offset from the source. -/
def actBytes (w : W9) (t : Tile) (src : ActSource) (off n : Nat) : List Byte := match src with
  | .addr a => readStore w t (a.toNat + off) n
  | .ring r => (List.range n).flatMap (fun i => readStore w t (ringAddr w t r (ringHeadOf w t r + off + i)) 1)

/-- Bytes of a segment slot: 64 at the narrow widths (R135), 128 for a wide segment. -/
def segBytes (f : Nat) : Nat := if elemBits f = 16 then 128 else 64

/-- Bytes of one token row of `segs` segments. -/
def rowBytes (c : Ctx) (segs : Nat) : Nat := if c.burst then cdiv (2 * segs) 7 * 128 else segs * segBytes c.fmt

/-- Segment `s` of token row `row` of an operation with `segs` segments per row (R133, R135, R136). -/
def readSegment (w : W9) (t : Tile) (c : Ctx) (src : ActSource) (segs row s : Nat) : Segment :=
  let pairs := readStore w t (c.outBase + 32 * (row * segs + s)) 32
  let seg :=
    if c.burst then
      let blk (b : Nat) := actBytes w t src (row * rowBytes c segs + b / 7 * 128) 128
      let b0 := 2 * s
      let b1 := 2 * s + 1
      let bad := (badTag (blk b0)).orElse (fun _ => badTag (blk b1))
      { vals := burstBlock (blk b0) (b0 % 7) ++ burstBlock (blk b1) (b1 % 7), nonfinite := false
        nanScales := b2n (((blk b0).getD (112 + b0 % 7) 0) == 0xFF) + b2n (((blk b1).getD (112 + b1 % 7) 0) == 0xFF)
        tag := bad : Segment }
    else
      let el := actBytes w t src (row * rowBytes c segs + s * segBytes c.fmt) (64 * elemBits c.fmt / 8)
      let sc := readStore w t (c.scaleBase + 2 * (row * segs + s)) 2
      edgeSegment c.fmt el (sc.getD 0 0).toNat (sc.getD 1 0).toNat
  { seg with vals := applyPairs c.slots pairs seg.vals }

/-- Zero activations (R157). -/
def zeroSegment : Segment := ⟨List.replicate 64 dy0, false, 0, none⟩

/-- The scheduled reads of the activations of `rows` token rows; a ring source pops them (Table 3.2). -/
def actReads (t : Tile) (c : Ctx) (src : ActSource) (rows segs : Nat) (w : W9) : W9 :=
  let n := rows * rowBytes c segs
  let w := match src with
    | .addr a => schedRead t a.toNat n w
    | .ring r => advanceHead t r n (ringReadEffects t r n w)
  let w := if elemBits c.fmt = 16 || c.burst then w else schedRead t c.scaleBase (2 * rows * segs) w
  if c.slots = 0 then w else schedRead t c.outBase (32 * rows * segs) w

/-! ## The sums (R111, R112) -/

/-- One step of a sum: s = fp32(s + fp32(w × a)), with the saturation flag. -/
def macStep (s : F32 × Bool) (wv av : Dy) : F32 × Bool :=
  let p := f32Sat (dyMul wv av)
  let r := f32Sat (dyAdd (f32Val s.1) (f32Val p.1))
  (r.1, s.2 || p.2 || r.2)

/-- A sum over pairs in ascending input index. -/
def macSum : F32 × Bool → List (Dy × Dy) → F32 × Bool
  | s, [] => s
  | s, x :: r => macSum (macStep s x.1 x.2) r

/-- A sum over blocks in stream order (R111). -/
def sumOut (blocks : List (List (List Dy))) (segs : List (List Dy)) (i : Nat) : F32 × Bool :=
  (blocks.zip segs).foldl (fun s b => macSum s ((b.1.getD i []).zip b.2)) (0, false)

/-! ## MATMUL (R98 to R116) -/

/-- The operand that edge conversion complains of, for the event of R113 and R125. -/
def reportOperands (t : Tile) (badW badA : Bool) (nans : Nat) (tag : Option Nat) (wa aa : Nat) (w : W9) : W9 :=
  let w := if badW || badA then
      raiseT t 0x1061 (le 8 (if badW then wa else aa)) (pwrB t Pg.arrayErr 1 true (pinc t Pg.nonfiniteCount 1 w))
    else w
  let w := if nans = 0 then w else raiseT t 0x2001 (le 8 aa) (inc Reg.nanscaleCount nans w)
  match tag with
  | some g => raiseT t 0x2005 (le 8 aa ++ [BitVec.ofNat 8 g]) (inc Reg.burstTagCount 1 w)
  | none => w

/-- The local address an activation source starts at. -/
def actAddr (w : W9) (t : Tile) : ActSource → Nat
  | .addr a => a.toNat
  | .ring r => ringAddr w t r (ringHeadOf w t r)

/-- The first invalid burst tag among segments. -/
def firstTag (l : List Segment) : Option Nat := l.findSome? (·.tag)

/-- The product enters the array: counters and the in-flight list (R108, Table 3.8). -/
def openProduct (t : Tile) (p : Product) (w : W9) : W9 :=
  let w := pinc t Pg.arrayInputCycles p.input (pinc t Pg.arrayProducts 1 w)
  modTile t (fun s => { s with products := s.products ++ [p] }) w

/-- The activations of a product: `rows` token rows of `segs` segments each; zeros where the context is invalid (R157). -/
def actRows (w : W9) (t : Tile) (c : Ctx) (src : ActSource) (rows segs : Nat) : List (List Segment) :=
  (List.range rows).map (fun r => (List.range segs).map (fun s =>
    if c.valid then readSegment w t c src segs r s else zeroSegment))

/-- The bank-store weight address in force: with WSEL 1 the second copy (R313). -/
def weightAddr (w : W9) (t : Tile) (a : Nat) : Nat :=
  if (fieldState w (tileField t)).wsel && decide (a < 0x800000) then a + (prd w t Pg.weightOfsBank).toNat else a

/-- The operand-store scale address in force (R313). -/
def scaleAddr (w : W9) (t : Tile) (a : Nat) : Nat :=
  if (fieldState w (tileField t)).wsel && decide (0x800000 ≤ a) then a + (prd w t Pg.weightOfsOps).toNat else a

/-- A B-array product (R98, R103, R104, R111, R114). -/
def matmulB (t : Tile) (m : MatmulArgs) (w : W9) : W9 :=
  let f := m.wfmt.toNat
  let c := fmtOf w t m.epoch m.actScale m.afmt
  let stride := blockRows false f * 2048
  let addrs := (List.range m.n).map (fun b =>
    (weightAddr w t m.weights.toNat + b * stride, scaleAddr w t m.scale.toNat + b * scaleBytes 64 f))
  let blocks := addrs.map (fun a => readBlock w t 64 f a.1 a.2 m.transpose)
  let acts := actRows w t c m.act m.rows m.n
  let segs := acts.flatten
  let outs := acts.flatMap (fun r => (List.range 64).map (sumOut (blocks.map (·.rows)) (r.map (·.vals))))
  let r := rateOf f c.fmt
  let r := if m.transpose && transposeHalf w t then 2 * r else r
  let aa := actAddr w t m.act
  let p : Product := ⟨m.dst, m.add, outs.map (·.1), outs.any (·.2), now w, m.n * r, productCycles w t (m.n * r)⟩
  let w := forEach addrs (fun a w => blockReads t 64 f a.1 a.2 w) w
  let w := if c.valid then actReads t c m.act m.rows m.n w else addrFault t (BitVec.ofNat 24 aa) w
  let w := reportOperands t (blocks.any (·.nonfinite)) (segs.any (·.nonfinite))
    ((blocks.map (·.nanScales)).sum + (segs.map (·.nanScales)).sum) (firstTag segs) m.weights.toNat aa w
  openProduct t p w

/-- A C-array product of `n` token rows through the block of the shadow buffer, which becomes active (R99, R111, R114). -/
def matmulC (t : Tile) (m : MatmulArgs) (b : WBlock) (w : W9) : W9 :=
  let c := fmtOf w t m.epoch m.actScale m.afmt
  let acts := actRows w t c m.act m.n 2
  let segs := acts.flatten
  let outs := acts.flatMap (fun r => (List.range 128).map (sumOut [b.rows] [(r.map (·.vals)).flatten]))
  let r := if elemBits c.fmt = 16 then 4 else b.r
  let aa := actAddr w t m.act
  let p : Product := ⟨m.dst, m.add, outs.map (·.1), outs.any (·.2), now w, m.n * r, productCycles w t (m.n * r)⟩
  let w := modTile t (fun s => { s with active := s.shadow, shadow := none }) w
  let w := if c.valid then actReads t c m.act m.n 2 w else addrFault t (BitVec.ofNat 24 aa) w
  let w := reportOperands t b.nonfinite (segs.any (·.nonfinite)) ((segs.map (·.nanScales)).sum) (firstTag segs) m.weights.toNat aa w
  openProduct t p w

/-- A ring source holds what the product pops. -/
def actHeld (w : W9) (t : Tile) (src : ActSource) (n : Nat) : Bool := match src with
  | .addr a => readReady w t a.toNat n
  | .ring r => decide (n ≤ ringOcc w t r)

/-- A matrix bundle held only for Array ready counts the cycle (Table 3.8). -/
def arrayWait (t : Tile) (cs : List Cond) (other ready : Bool) (w : W9) : W9 :=
  if canTry w t && other && cs.all (condHolds w t) && !ready then pinc t Pg.arrayReadyWaits 1 w else w

/-- The conditions of a bundle but for Array ready. -/
def withoutArray (cs : List Cond) : List Cond := cs.filter (fun c => decide (c ≠ .arrayReady))

/-- MATMUL (R100). -/
def matmul (t : Tile) (m : MatmulArgs) (w : W9) : W9 :=
  let c := fmtOf w t m.epoch m.actScale m.afmt
  let rows := if isC t then m.n else m.rows
  let segs := if isC t then 2 else m.n
  let other := actHeld w t m.act (rows * rowBytes c segs)
  let cs := withoutArray m.conds
  let ready := matmulReady w t
  issue t cs (other && ready)
    (fun w => match isC t, (tileOf w t).shadow with
      | true, some b => matmulC t m b w
      | true, none => w
      | false, _ => matmulB t m w) (arrayWait t cs other ready w)

/-- MATMUL. -/
def execMatmul (t : Tile) (m : MatmulArgs) (s : State) : Host.Outcome State Fault Refusal := lift (matmul t m) s

/-- WLOAD (R99, R105): a C-tile block goes to the shadow buffer, one bank row per cycle. -/
def wload (t : Tile) (a : WloadArgs) (w : W9) : W9 :=
  let ready := isC t && (tileOf w t).shadow.isNone
  let cs := withoutArray a.conds
  issue t cs ready
    (fun w =>
      let f := a.wfmt.toNat
      let wa := weightAddr w t a.addr.toNat
      let sa := scaleAddr w t a.scale.toNat
      let d := readBlock w t 128 f wa sa a.transpose
      let b : WBlock := ⟨d.rows, d.nonfinite, weightRate f, now w + blockRows true f⟩
      let w := blockReads t 128 f wa sa w
      let w := if d.nanScales = 0 then w else raiseT t 0x2001 (le 8 wa) (inc Reg.nanscaleCount d.nanScales w)
      modTile t (fun s => { s with shadow := some b }) w) (arrayWait t cs (isC t) ready w)

/-- WLOAD. -/
def execWload (t : Tile) (a : WloadArgs) (s : State) : Host.Outcome State Fault Refusal := lift (wload t a) s

/-! ## The drain (R107, R112, R114) -/

/-- FP32 values as bytes. -/
def f32Bytes (l : List F32) : List Byte := l.flatMap (fun x => le 4 x.toNat)

/-- `n` FP32 values of a store. -/
def readF32s (w : W9) (t : Tile) (a n : Nat) : List F32 := (List.range n).map (fun i => storeW32 w t (a + 4 * i))

/-- What a product writes: its sums, added to the destination in mode ADD, with the saturation flag (R111). -/
def drained (w : W9) (t : Tile) (p : Product) : List (F32 × Bool) :=
  if p.add then
    (p.sums.zip (readF32s w t p.dst.toNat p.sums.length)).map (fun x => f32AddSat x.2 x.1)
  else p.sums.map (fun x => (x, false))

/-- The last drain write of a product lands (R107, R108, R112). -/
def drainProduct (t : Tile) (p : Product) (w : W9) : W9 :=
  let out := drained w t p
  let w := modTile t (fun s => { s with products := s.products.drop 1 }) w
  let w := if p.add then readEffects t p.dst.toNat (4 * p.sums.length) w else w
  let w := writeStore t p.dst.toNat (f32Bytes (out.map (·.1))) w
  if p.sat || out.any (·.2) then
    raiseT t 0x1060 (le 8 p.dst.toNat) (pwrB t Pg.arrayErr 0 true (pinc t Pg.accSatCount 1 w))
  else w

/-- PRODUCT_DRAIN_COMPLETE (R107): of the product that has been in flight longest. -/
def productDrain (t : Tile) (w : W9) : W9 := match (tileOf w t).products with
  | p :: _ => drainProduct t p w
  | [] => w

/-- PRODUCT_DRAIN_COMPLETE. -/
def execProductDrainComplete (t : Tile) (s : State) : Host.Outcome State Fault Refusal := lift (productDrain t) s

/-! ## CONVERT (R127 to R136) -/

/-- The candidates of a group for extraction: channel and value, above the threshold (R131). -/
def candidates (th : Dy) (vs : List Dy) : List (Nat × Dy) :=
  (vs.zipIdx.filter (fun x => dyLt th (dyAbs x.1))).map (fun x => (x.2, x.1))

/-- Whether candidate `x` goes before `y`: the larger magnitude, the lower channel first among equals (R131). -/
def candBefore (x y : Nat × Dy) : Bool :=
  dyLt (dyAbs y.2) (dyAbs x.2) || (!dyLt (dyAbs x.2) (dyAbs y.2) && decide (x.1 < y.1))

/-- The channels extracted from a group, ascending, and whether there were more candidates than slots (R131). -/
def extractSel (slots : Nat) (cand : List (Nat × Dy)) : List (Nat × Dy) × Bool :=
  if slots < cand.length then (cand.filter (fun x => decide ((cand.filter (fun y => candBefore y x)).length < slots)), true)
  else (cand, false)

/-- The bytes of a group's pairs: valid pairs first, the remaining slots invalid (Table 4.5). -/
def pairBytes (slots : Nat) (sel : List (Nat × Dy)) : List Byte :=
  let ps := sel.flatMap (fun x => le 2 (elemCode 8 x.2) ++ [BitVec.ofNat 8 (128 + x.1 % 64), 0])
  (ps ++ List.replicate 32 0).take (4 * slots)

/-- What converting one group of 64 channels gives. -/
structure GroupOut where
  blocks : List BlockOut
  pairs : List Byte
  ovf : Bool
deriving DecidableEq, Repr

/-- Convert one group: outliers leave first, then two blocks of 32 (R128, R131). -/
def convertGroup (c : Ctx) (vs : List Dy) : GroupOut :=
  let cand := if c.slots = 0 then [] else candidates (bf16Val c.threshold) vs
  let sel := extractSel c.slots cand
  let rest := vs.zipIdx.map (fun x => if sel.1.any (fun y => y.1 == x.2) then dy0 else x.1)
  ⟨[convertBlock c.fmt c.ceiling (rest.take 32), convertBlock c.fmt c.ceiling (rest.drop 32)], pairBytes c.slots sel.1, sel.2⟩

/-- Add to a layer's counts of the beat (R130). -/
def addCounts (l : LayerIx) (fl sa ov : Nat) : List LayerCounts → List LayerCounts
  | [] => [⟨l, fl, sa, ov⟩]
  | x :: r =>
    if x.layer = l then { x with flushed := x.flushed + fl, saturated := x.saturated + sa, overflow := x.overflow + ov } :: r
    else x :: addCounts l fl sa ov r

/-- The bytes of a burst of up to seven blocks (Table 4.7). -/
def burstBytes (f : Nat) (bs : List BlockOut) : List Byte :=
  ((bs.flatMap (fun (b : BlockOut) => packBytes 4 b.codes)) ++ List.replicate 112 0).take 112 ++
    ((bs.map (fun (b : BlockOut) => (BitVec.ofNat 8 b.scale : Byte))) ++ List.replicate 7 0).take 7 ++
    [BitVec.ofNat 8 (bs.length * 16 + f)] ++ List.replicate 8 0

/-- Cut a list into pieces of `k`, with fuel. -/
def chunksOf {α : Type} (k : Nat) : Nat → List α → List (List α)
  | 0, _ => []
  | _ + 1, [] => []
  | n + 1, l => l.take k :: chunksOf k n (l.drop k)

/-- The blocks of a row's groups in channel order. -/
def groupBlocks (gs : List GroupOut) : List BlockOut := gs.flatMap (fun g => g.blocks)

/-- Write the results of an operation in format `c` at `dst` (R135, R136). -/
def writeGroups (t : Tile) (a : ConvertArgs) (c : Ctx) (gs : List GroupOut) (w : W9) : W9 :=
  let segs := gs.length
  let blocks := groupBlocks gs
  let w :=
    if c.burst then writeStore t a.dst.toNat ((chunksOf 7 blocks.length blocks).flatMap (burstBytes c.fmt)) w
    else
      let w := forEach gs.zipIdx (fun g w =>
        writeStore t (a.dst.toNat + 64 * g.2) (packBytes (elemBits c.fmt) (g.1.blocks.flatMap (fun (b : BlockOut) => b.codes))) w) w
      writeStore t (c.scaleBase + 2 * segs * a.row.val) (blocks.map (fun (b : BlockOut) => BitVec.ofNat 8 b.scale)) w
  if c.slots = 0 then w
  else forEach gs.zipIdx (fun g w => writeStore t (c.outBase + 32 * (segs * a.row.val + g.2)) g.1.pairs w) w

/-- The values of a CONVERT's source; a non-finite input is +0 (R121). -/
def convertVals (l : List F32) : List Dy := l.map (fun x => if f32Special x then dy0 else f32Val x)

/-- The effects of non-finite inputs: NONFINITE_CONV and event 0x2006 (R121). -/
def noteNonfinite (t : Tile) (l : LayerIx) (n : Nat) (w : W9) : W9 :=
  if n = 0 then w else raiseT t 0x2006 (le 2 l.val) (inc Reg.nonfiniteConv n w)

/-- A CONVERT to BF16 or FP16, which have no blocks, or to narrow blocks. -/
def convertRun (t : Tile) (a : ConvertArgs) (c : Ctx) (w : W9) : W9 :=
  let src := readF32s w t a.src.toNat a.n
  let vals := convertVals src
  let bad := (src.filter f32Special).length
  let w := noteNonfinite t c.layer bad (schedRead t a.src.toNat (4 * a.n) w)
  if elemBits c.fmt = 16 then writeStore t a.dst.toNat (packBytes 16 (vals.map (elemCode c.fmt))) w
  else
    let gs := (chunksOf 64 vals.length vals).map (convertGroup c)
    let fl := ((groupBlocks gs).filter (·.flushed)).length
    let sa := ((groupBlocks gs).filter (·.sat)).length
    let ov := (gs.filter (·.ovf)).length
    let w := match fmtLayer c a.fmt with
      | some l => modTile t (fun s => { s with counts := addCounts l fl sa ov s.counts }) w
      | none => w
    writeGroups t a c gs w

/-- CONVERT (R128, R157): a context that is not valid makes it an access to an unassigned address that writes nothing. -/
def convert (t : Tile) (a : ConvertArgs) (w : W9) : W9 :=
  issue t a.conds (readReady w t a.src.toNat (4 * a.n))
    (fun w =>
      let c := fmtOf w t a.epoch a.scaleDst a.fmt
      if c.valid then convertRun t a c w else addrFault t a.src w) w

/-- CONVERT. -/
def execConvert (t : Tile) (a : ConvertArgs) (s : State) : Host.Outcome State Fault Refusal := lift (convert t a) s

end Sys2Proof.Machine
end

