-- ==== Sys2Proof/Machine/Attention.lean ====
section
/-! DEFINITION. The attention unit and KV staging (spec/06_attention_kv.md, R208 to R223): ATTN, AMERGE, their completion, the staging
append and the FLUSHED mask. -/

namespace Sys2Proof.Machine

open Sys2Proof

/-! ## Arithmetic of the attention unit. A result outside FP32 is stated for scores alone (R213); elsewhere it is open. -/

/-- fp32(a + b). -/
def attAdd (a b : F32) : F32 :=
  if f32Special a || f32Special b then Config.openSum a b
  else
    let r := f32Sat (dyAdd (f32Val a) (f32Val b))
    if r.2 then Config.openSum a b else r.1
/-- fp32(a × b). -/
def attMul (a b : F32) : F32 :=
  if f32Special a || f32Special b then Config.openProd a b
  else
    let r := f32Sat (dyMul (f32Val a) (f32Val b))
    if r.2 then Config.openProd a b else r.1

/-- The state of a query row: m (none for −∞), l and o (R210, R212). -/
structure AttRow where
  m : Option F32
  l : F32
  o : List F32
deriving DecidableEq, Repr

/-- An empty row: m = −∞, l = 0, o = 0. -/
def AttRow.start (d : Nat) : AttRow := ⟨none, 0, List.replicate d 0⟩

/-- dot(q, k) in ascending dimension. DEDUCED (log entry 15): each term and each partial sum is rounded, as in R111. -/
def attDot : F32 × Bool → List (F32 × Dy) → F32 × Bool
  | s, [] => s
  | s, x :: r =>
    let p := f32Sat (dyMul (f32Val x.1) x.2)
    let t := f32Sat (dyAdd (f32Val s.1) (f32Val p.1))
    attDot (t.1, s.2 || p.2 || t.2) r

/-- A score, with the flag that it rounded to an infinity and was replaced (R210, R213). -/
def attScore (q : List F32) (k : List Dy) (scale : F32) : F32 × Bool :=
  let d := attDot (0, false) (q.zip k)
  let r := f32Sat (dyMul (f32Val d.1) (f32Val scale))
  (r.1, d.2 || r.2)

/-- The largest of a non-empty list of scores. -/
def attMax : F32 → List F32 → F32
  | m, [] => m
  | m, x :: r => attMax (if f32Lt m x then x else m) r

/-- Rescale a row once by f = exp2(m − mb) (R210). -/
def attRescale (r : AttRow) (m mb : F32) : AttRow :=
  let f := f32Exp2 (attAdd m (mb ^^^ 0x80000000))
  { r with l := attMul r.l f, o := r.o.map (fun x => attMul x f) }

/-- Add one visible key's term (R210). -/
def attTerm (m : F32) (r : AttRow) (x : F32 × List Dy) : AttRow :=
  let p := f32Exp2 (attAdd x.1 (m ^^^ 0x80000000))
  { r with l := attAdd r.l p
           o := (r.o.zip x.2).map (fun y => attAdd y.1 (attMul p (f32Of y.2))) }

/-- One block of visible keys: scores with their values (R210). -/
def attBlock (r : AttRow) : List (F32 × List Dy) → AttRow
  | [] => r
  | x :: xs =>
    let mb := attMax x.1 (xs.map (·.1))
    let r := match r.m with
      | none => { r with m := some mb }
      | some m => if f32Lt m mb then { attRescale r m mb with m := some mb } else r
    (x :: xs).foldl (attTerm (r.m.getD mb)) r

/-- out[i] = (l > 0) ? fp32(o[i] / l) : +0 (R210). -/
def attOut (r : AttRow) : List F32 :=
  r.o.map (fun x => if f32Lt 0 r.l then f32Div x r.l else 0)

/-- Load a row's state (R212). -/
def attLoad (w : W9) (t : Tile) (a d : Nat) : AttRow :=
  let m := storeW32 w t a
  ⟨if m = 0xFF800000 then none else some m, storeW32 w t (a + 4), readF32s w t (a + 64) d⟩

/-- The words of a row's state at `a`: m, l, zeros, o (R212). -/
def attStateWords (a : Nat) (r : AttRow) : List (LAddr × F32) :=
  ([r.m.getD 0xFF800000, r.l] ++ List.replicate 14 0 ++ r.o : List F32).zipIdx.map (fun (x : F32 × Nat) => (BitVec.ofNat 24 (a + 4 * x.2), x.1))

/-- The words of a row's output at `a`. -/
def attOutWords (a : Nat) (r : AttRow) : List (LAddr × F32) :=
  (attOut r).zipIdx.map (fun x => (BitVec.ofNat 24 (a + 4 * x.2), x.1))

/-! ## ATTN (R208 to R213, R215) -/

/-- The KV element format of an operation (R216). -/
def kvFmt (kv8 : Bool) : Nat := if kv8 then 5 else 1
/-- Bytes of `d` elements. -/
def kvBytes (kv8 : Bool) (d : Nat) : Nat := if kv8 then d else d / 2

/-- The decoded entry of position `j` of a run (R218): elements at `el`, block scales at `sc`. -/
def kvEntry (w : W9) (t : Tile) (kv8 : Bool) (el sc d j : Nat) : List Dy :=
  let n := ofLe (readStore w t (el + j * kvBytes kv8 d) (kvBytes kv8 d))
  let ss := readStore w t (sc + j * (d / 32)) (d / 32)
  (List.range (d / 32)).flatMap (fun b => decode32 (kvFmt kv8) n (32 * b) (ss.getD b 0).toNat)

/-- Scores of the visible keys of block `b` for query row `i` with their values, ascending (R209, R210). -/
def attVisible (w : W9) (t : Tile) (a : AttnArgs) (limit i b : Nat) (q : List F32) : List ((F32 × Bool) × List Dy) :=
  ((List.range 64).map (fun j => 64 * b + j)).filterMap (fun j =>
    if j < a.n ∧ a.pos0 + j ≤ limit + i / a.g then
      some (attScore q (kvEntry w t a.kv8 a.keys.toNat a.keyScales.toNat a.d j) a.scoreScale,
        kvEntry w t a.kv8 a.values.toNat a.valueScales.toNat a.d j)
    else none)

/-- LIMIT as the operation reads it at issue (R209). -/
def attLimit (w : W9) (t : Tile) (a : AttnArgs) : Nat := ofLe (readStore w t a.limit.toNat 8)

/-- One query row of an ATTN: its final state and whether a score saturated. -/
def attRowRun (w : W9) (t : Tile) (a : AttnArgs) (i : Nat) : AttRow × Bool :=
  let q := readF32s w t (a.query.toNat + i * 4 * a.d) a.d
  let r0 := if a.cont then attLoad w t (a.state.toNat + i * (64 + 4 * a.d)) a.d else AttRow.start a.d
  let bs := (List.range (cdiv a.n 64)).map (fun b => attVisible w t a (attLimit w t a) i b q)
  (bs.foldl (fun r b => attBlock r (b.map (fun x => (x.1.1, x.2)))) r0, bs.any (fun b => b.any (fun x => x.1.2)))

/-- exp2 latency with its pad (Table 6.2, Table 9.6). -/
def exp2Cycles (w : W9) (t : Tile) : Nat := (if isA1 w then 8 else 6) + latPad w t 7 4
/-- T of R215. -/
def attnCycles (w : W9) (t : Tile) (a : AttnArgs) : Nat :=
  4 + 12 + exp2Cycles w t + 6 + cdiv a.n 64 * (a.rows * a.d / (if isC t then 128 else 64)) - 1 + (if a.final then 10 else 0)

/-- The scheduled reads of an ATTN. -/
def attnReads (t : Tile) (a : AttnArgs) (w : W9) : W9 :=
  let w := schedRead t a.query.toNat (a.rows * 4 * a.d) w
  let w := schedRead t a.keys.toNat (a.n * kvBytes a.kv8 a.d) w
  let w := schedRead t a.keyScales.toNat (a.n * (a.d / 32)) w
  let w := schedRead t a.values.toNat (a.n * kvBytes a.kv8 a.d) w
  let w := schedRead t a.valueScales.toNat (a.n * (a.d / 32)) w
  let w := schedRead t a.limit.toNat 8 w
  if a.cont then schedRead t a.state.toNat (a.rows * (64 + 4 * a.d)) w else w

/-- Blocks of 32 of the run whose scale is 0xFF (R125). -/
def attnNans (w : W9) (t : Tile) (a : AttnArgs) : Nat :=
  ((readStore w t a.keyScales.toNat (a.n * (a.d / 32)) ++ readStore w t a.valueScales.toNat (a.n * (a.d / 32))).filter
    (fun b => b == 0xFF)).length

/-- An ATTN that issues: its results are fixed, its counters count, and its words land when it completes (R208 to R215). -/
def attnRun (t : Tile) (a : AttnArgs) (w : W9) : W9 :=
  let rows := (List.range a.rows).map (attRowRun w t a)
  let words := (rows.map (·.1)).zipIdx.flatMap (fun r =>
    if a.final then attOutWords (a.output.toNat + r.2 * 4 * a.d) r.1
    else attStateWords (a.state.toNat + r.2 * (64 + 4 * a.d)) r.1)
  let masked := (rows.filter (fun r => r.1.m.isNone)).length
  let op : AttnOp := ⟨words, attnCycles w t a⟩
  let nans := attnNans w t a
  let w := attnReads t a w
  let w := pinc t Pg.attnBlocks (cdiv a.n 64) w
  let w := if a.final then pinc t Pg.attnMaskedRows masked w else w
  let w := if rows.any (·.2) then
      raise 0x4001 (tileSrc t) (tileCs w t) (le 8 a.query.toNat) (pwrB t Pg.attnErr 0 true (pinc t Pg.scoreSatCount 1 w))
    else w
  let w := if nans = 0 then w else raiseT t 0x2001 (le 8 a.keyScales.toNat) (inc Reg.nanscaleCount nans w)
  modTile t (fun s => { s with attn := s.attn ++ [op] }) w

/-- ATTN (R210). -/
def attn (t : Tile) (a : AttnArgs) (w : W9) : W9 :=
  issue t a.conds (readReady w t a.query.toNat (a.rows * 4 * a.d) &&
    (!a.cont || readReady w t a.state.toNat (a.rows * (64 + 4 * a.d)))) (attnRun t a) w

/-- ATTN. -/
def execAttn (t : Tile) (a : AttnArgs) (s : State) : Host.Outcome State Fault Refusal := lift (attn t a) s

/-! ## AMERGE (R214) -/

/-- Scale a side by exp2(its m − m). -/
def mergeScale (r : AttRow) (mine m : F32) : AttRow := if f32Lt mine m then attRescale r mine m else r

/-- State X into state Y of one row (R214). -/
def mergeRow (x y : AttRow) : AttRow := match x.m, y.m with
  | none, _ => y
  | some _, none => x
  | some mx, some my =>
    let m := if f32Lt my mx then mx else my
    let x := mergeScale x mx m
    let y := mergeScale y my m
    ⟨some m, attAdd y.l x.l, (y.o.zip x.o).map (fun p => attAdd p.1 p.2)⟩

/-- T of an AMERGE (Table 6.2) with its pad. -/
def amergeCycles (w : W9) (t : Tile) (a : AmergeArgs) : Nat :=
  a.rows * (a.d / 16 + (if isA1 w then 20 else 18) + latPad w t 11 8)

/-- An AMERGE that issues. -/
def amergeRun (t : Tile) (a : AmergeArgs) (w : W9) : W9 :=
  let sz := 64 + 4 * a.d
  let rows := (List.range a.rows).map (fun i =>
    mergeRow (attLoad w t (a.x.toNat + i * sz) a.d) (attLoad w t (a.y.toNat + i * sz) a.d))
  let words := rows.zipIdx.flatMap (fun r => attStateWords (a.y.toNat + r.2 * sz) r.1 ++
    (if a.final then attOutWords (a.output.toNat + r.2 * 4 * a.d) r.1 else []))
  let masked := (rows.filter (fun r => r.m.isNone)).length
  let op : AttnOp := ⟨words, amergeCycles w t a⟩
  let w := schedRead t a.y.toNat (a.rows * sz) (schedRead t a.x.toNat (a.rows * sz) w)
  let w := if a.final then pinc t Pg.attnMaskedRows masked w else w
  modTile t (fun s => { s with attn := s.attn ++ [op] }) w

/-- AMERGE (R214). -/
def amerge (t : Tile) (a : AmergeArgs) (w : W9) : W9 :=
  let sz := 64 + 4 * a.d
  issue t a.conds (readReady w t a.x.toNat (a.rows * sz) && readReady w t a.y.toNat (a.rows * sz)) (amergeRun t a) w

/-- AMERGE. -/
def execAmerge (t : Tile) (a : AmergeArgs) (s : State) : Host.Outcome State Fault Refusal := lift (amerge t a) s

/-- Write FP32 words at their addresses. -/
def landWords (t : Tile) : List (LAddr × F32) → W9 → W9
  | [], w => w
  | x :: r, w => landWords t r (writeStore t x.1.toNat (le 4 x.2.toNat) w)

/-- ATTN_COMPLETE (R215): the last word of the operation in flight longest lands. -/
def attnComplete (t : Tile) (w : W9) : W9 := match (tileOf w t).attn with
  | a :: _ => landWords t a.writes (modTile t (fun s => { s with attn := s.attn.drop 1 }) w)
  | [] => w

/-- ATTN_COMPLETE. -/
def execAttnComplete (t : Tile) (s : State) : Host.Outcome State Fault Refusal := lift (attnComplete t) s

/-! ## Staging (R219 to R223) -/

/-- A slot that holds no chunk. -/
def StageSlot.none : StageSlot := ⟨Option.none, 0, false, []⟩

/-- The staging of a stream and layer at a tile. -/
def stagingOf (w : W9) (t : Tile) (s : StreamIx) (l : LayerIx) : Staging :=
  (((tileOf w t).staging.find? (fun x => x.stream == s && x.layer == l))).getD ⟨s, l, .none, .none, Option.none⟩

/-- Set it. -/
def setStaging (t : Tile) (g : Staging) (w : W9) : W9 :=
  modTile t (fun x => { x with
    staging := g :: x.staging.filter (fun y => !(y.stream == g.stream && y.layer == g.layer)) }) w

/-- The slot of a chunk: chunk mod 2 (R219). -/
def stageSlot (g : Staging) (c : Nat) : StageSlot := if c % 2 = 0 then g.slot0 else g.slot1
/-- Set it. -/
def setStageSlot (g : Staging) (c : Nat) (x : StageSlot) : Staging :=
  if c % 2 = 0 then { g with slot0 := x } else { g with slot1 := x }

/-- An append may write into the slot of chunk `c` (R220). -/
def stageFree (x : StageSlot) (c : Nat) : Bool := match x.chunk with
  | some h => decide (h = c) || (x.flushed && decide (x.flushPending = 0))
  | none => true

/-- The layer's entry in the precision map. -/
def layerMap (w : W9) (l : LayerIx) : Option LayerMap :=
  w.img.bind (fun im => im.body.layers.find? (fun x => x.layer == l))

/-- The entry is written; the chunk's last position starts a flush (R220 to R223). -/
def stageWrite (t : Tile) (s : StreamIx) (l : LayerIx) (pos : Nat) (kv : List Byte) (w : W9) : W9 :=
  let c := pos / 64
  let g := stagingOf w t s l
  let x := stageSlot g c
  let reuse := decide (x.chunk ≠ some c)
  let fr := if reuse then (match x.chunk with | some h => some h | none => g.frontier) else g.frontier
  let x : StageSlot := if reuse then { StageSlot.none with chunk := some c } else x
  let x : StageSlot := { x with data := smPut (fun _ => []) x.data (pos % 64) kv }
  let last := pos % 64 == 63
  let again := last && (x.flushed || decide (0 < x.flushPending))
  let x : StageSlot := if last then { x with flushPending := x.flushPending + 1 } else x
  let w := setStaging t { setStageSlot g c x with frontier := fr } w
  let w := if last then pinc t Pg.stageFlushes 1 w else w
  if again then pinc t Pg.stageReflushes 1 w else w

/-- STAGING_APPEND (R220): waits under the issue rule until the slot's old chunk is flushed; STAGE_WAITS counts the cycles. -/
def stagingAppend (t : Tile) (s : StreamIx) (l : LayerIx) (pos : Nat) (kv : List Byte) (w : W9) : W9 :=
  let ok := stageFree (stageSlot (stagingOf w t s l) (pos / 64)) (pos / 64)
  issue t [] ok (stageWrite t s l pos kv) (if canTry w t && !ok then pinc t Pg.stageWaits 1 w else w)

/-- STAGING_APPEND. -/
def execStagingAppend (t : Tile) (st : StreamIx) (layer : LayerIx) (pos : Nat) (kv : List Byte) (s : State) :
    Host.Outcome State Fault Refusal := lift (stagingAppend t st layer pos kv) s

/-- The key of block `b` of a stream in `KvS.blocks`. -/
def blockKey (s : StreamIx) (b : Nat) : Nat := s.val * 8192 + b
/-- A block's descriptor; none is EMPTY (Table 6.5). -/
def blockOf (w : W9) (s : StreamIx) (b : Nat) : Option BlockDesc := smGet (fun _ => none) w.kv.blocks (blockKey s b)
/-- Set a block's descriptor. -/
def setBlock (s : StreamIx) (b : Nat) (d : Option BlockDesc) (w : W9) : W9 :=
  { w with kv := { w.kv with blocks := smPut (fun _ => none) w.kv.blocks (blockKey s b) d } }

/-- Set bit `c` mod 4 of a page's FLUSHED mask (Table 6.6, R221). -/
def setFlushed (s : StreamIx) (l : LayerIx) (c : Nat) (w : W9) : W9 := match blockOf w s (c / 4) with
  | some d =>
    let m := smGet (fun _ => 0) d.flushed l.val
    setBlock s (c / 4) (some { d with flushed := smPut (fun _ => 0) d.flushed l.val (m ||| 2 ^ (c % 4)) }) w
  | none => w

/-- The owner mirrors this stream: PAIRED, class 1 or 2, in its own half (R408). -/
def mirrors (w : W9) (s : StreamIx) : Bool :=
  paired w && (decide (512 ≤ s.val) == rdB w Reg.pairCtrl 30) && ((streamOf w s).cls == 1 || (streamOf w s).cls == 2)

/-- A chunk's mirror item is lost (R409): `kind` 0 where the queue was full, 1 where its data was tainted. -/
def mirrorLost (s : StreamIx) (c : Nat) (kind : Byte) (w : W9) : W9 :=
  raiseS 0x9030 srcSteward s (le 4 c ++ [kind]) (inc Reg.mirrorLost 1 w)

/-- A mirror item for a mirrored stream's chunk (R409): the queue holds 4,096, and a full one drops its oldest. -/
def mirrorItem (s : StreamIx) (l : LayerIx) (c : Nat) (w : W9) : W9 :=
  if mirrors w s then
    let q := w.pair.mirrorQueue
    let full := decide (4096 ≤ q.length)
    let w := { w with pair := { w.pair with mirrorQueue := (if full then q.drop 1 else q) ++ [(s, l, c)] } }
    match full, q with
    | true, x :: _ => mirrorLost x.1 x.2.2 0 w
    | _, _ => w
  else w

/-- FLUSHED_MASK_SET (R221): after every STORE tag of a flush is DONE the chunk's bit is set and a mirror item appended. -/
def flushedMaskSet (t : Tile) (s : StreamIx) (l : LayerIx) (c : Nat) (w : W9) : W9 :=
  let g := stagingOf w t s l
  let x := stageSlot g c
  if x.chunk = some c ∧ 0 < x.flushPending then
    let w := setStaging t (setStageSlot g c { x with flushPending := x.flushPending - 1, flushed := true }) w
    mirrorItem s l c (setFlushed s l c w)
  else w

/-- FLUSHED_MASK_SET. -/
def execFlushedMaskSet (t : Tile) (st : StreamIx) (layer : LayerIx) (chunk : Nat) (s : State) :
    Host.Outcome State Fault Refusal := lift (flushedMaskSet t st layer chunk) s

end Sys2Proof.Machine
end

