-- ==== Sys2Proof/Machine/Page.lean ====
section
/-! DEFINITION. The tile control page as the steward and the debug block see it (R49, R93 to R96): registers computed when they are
read, and what a write of each dword does. -/

namespace Sys2Proof.Machine

open Sys2Proof

/-- TILE_STATUS with DEBUG and COMPAT (Table 2.10). -/
def tileStatusView (w : W9) (t : Tile) : Word32 :=
  setField (setField (prd w t Pg.tileStatus) 7 7 (b2n (debugOn w))) 6 6 (b2n (compatOn w))

/-- A product is in its input phase (Table 3.9). -/
def inInput (w : W9) (p : Product) : Bool := decide (now w < p.issued + p.input)
/-- A product is in its drain phase: the last `drain` cycles before its last write (R107). -/
def inDrain (w : W9) (t : Tile) (p : Product) : Bool := decide (p.issued + p.cycles ≤ now w + drainCycles w t)

/-- ARRAY_STATUS (Table 3.9). -/
def arrayStatusView (w : W9) (t : Tile) : Word32 :=
  let s := tileOf w t
  let loaded := match s.shadow with | some b => decide (b.ready ≤ now w) | none => false
  BitVec.ofNat 32 (s.products.length * 0x10000 + 8 * b2n (transposeHalf w t) + 4 * b2n (isC t && loaded) +
    2 * b2n (s.products.any (inDrain w t)) + b2n (s.products.any (inInput w)))

/-- ATTN_STATUS (Table 6.10). -/
def attnStatusView (w : W9) (t : Tile) : Word32 :=
  let s := tileOf w t
  let fl := s.staging.any (fun g => decide (0 < g.slot0.flushPending) || decide (0 < g.slot1.flushPending))
  BitVec.ofNat 32 (2 * b2n fl + b2n (!s.attn.isEmpty))

/-- The deferral buffer's entries in use, by kind (R69). -/
def deferUsed (w : W9) (t : Tile) (sched : Bool) : Nat := ((tileOf w t).defer.filter (fun d => d.sched == sched)).length

/-- An input is an injection input: an attach input or the local input (R173). -/
def isInjection : Inp → Bool
  | .attach _ => true
  | .loc => true
  | _ => false

/-- MESH_STATUS (Table 5.8). -/
def meshStatusView (w : W9) (t : Tile) : Word32 :=
  let f := (tileField t).val
  BitVec.ofNat 32 (8 * b2n (decide (8 ≤ (tileOf w t).defer.length)) + 4 * b2n ((routerOf w t).any (fun e => isInjection e.inp)) +
    2 * b2n (rdB w (Reg.routeStatus f) 1) + b2n (rdB w (Reg.routeStatus f) 0))

/-- A dword of the control page as a read shows it; the bundle port and unassigned offsets read as 0 (R18, R96). -/
def pageView (w : W9) (t : Tile) (off : Nat) : Word32 :=
  if off = Pg.tileId then BitVec.ofNat 32 (b2n (isC t) * 0x8000 + t.val)
  else if off = Pg.tileStatus then tileStatusView w t
  else if off = Pg.arrayStatus then arrayStatusView w t
  else if off = Pg.attnStatus then attnStatusView w t
  else if off = Pg.meshStatus then meshStatusView w t
  else if off = Pg.weightCtrl then BitVec.ofNat 32 (b2n (fieldState w (tileField t)).wsel * 2 ^ 31)
  else prd w t off

/-- The bits of a page dword that a read clears (Table 0.5). -/
def pageRc (off : Nat) : Word32 := match findRow pageRows off with | some r => r.rc | none => 0

/-- A read of a page dword clears its RC bits (R19). -/
def pageReadClear (t : Tile) (off : Nat) (w : W9) : W9 :=
  if pageRc off = 0 then w else pwr t off (prd w t off &&& ~~~(pageRc off)) w

/-- The ring whose register block an offset lies in. -/
def pageIx (base off : Nat) : Fin 16 := Fin.ofNat 16 ((off - base) / 0x10)

/-- A write of SEQ_CTRL (R96). -/
def seqCtrl (t : Tile) (v : Word32) (w : W9) : W9 :=
  if v.getLsbD 0 && v.getLsbD 1 then tileErr t 14 w
  else if v.getLsbD 0 then seqStart t w
  else if v.getLsbD 1 then seqStop t w else w

/-- A write of a dword by its access code (Table 0.5). -/
def pagePlain (t : Tile) (off : Nat) (v : Word32) (w : W9) : W9 := match findRow pageRows off with
  | some r => pwr t off (afterWrite r (prd w t off) v) w
  | none => w

/-- A write of RING_n_BASE is discarded while the ring is enabled (R77). -/
def ringBaseWrite (t : Tile) (r : RingIx) (v : Word32) (w : W9) : W9 :=
  if ringOn w t r then w else pagePlain t (Pg.ringBase r.val) v w

/-- A write of RING_n_CTRL (R77): ENABLE 1 enables; ENABLE 0 disables, LOG2_SIZE being discarded while ENABLE is still 1. -/
def ringCtrlWrite (t : Tile) (r : RingIx) (v : Word32) (w : W9) : W9 :=
  let off := Pg.ringCtrl r.val
  if v.getLsbD 31 then ringEnable t r v w
  else if ringOn w t r then pwrB t off 31 false w else pagePlain t off v w

/-- A write of a page dword by the steward. -/
def pageWrite (t : Tile) (off : Nat) (v : Word32) (w : W9) : W9 :=
  if 0x100 ≤ off ∧ off < 0x200 ∧ off % 0x10 = 0 then ringBaseWrite t (pageIx 0x100 off) v w
  else if 0x100 ≤ off ∧ off < 0x200 ∧ off % 0x10 = 4 then ringCtrlWrite t (pageIx 0x100 off) v w
  else if 0x200 ≤ off ∧ off < 0x300 ∧ off % 0x10 = 8 ∧ v.getLsbD 31 then windowEnable t (pageIx 0x200 off) v w
  else if 0x300 ≤ off ∧ off < 0x400 ∧ off % 4 = 0 then sigcntWrite t (Fin.ofNat 64 ((off - 0x300) / 4)) v 0 w
  else if off = Pg.seqCtrl then seqCtrl t v w
  else pagePlain t off v w

/-- Consecutive dwords of the page written in ascending order. -/
def pageWrites (t : Tile) : Nat → Nat → List Byte → W9 → W9
  | 0, _, _, w => w
  | n + 1, off, bs, w => pageWrites t n (off + 4) (bs.drop 4) (pageWrite t off (BitVec.ofNat 32 (ofLe (bs.take 4))) w)

/-- A steward PUT into the page at offset `off` (R49, R96). -/
def pagePut (t : Tile) (off : Nat) (bs : List Byte) (w : W9) : W9 :=
  if 0xE00 ≤ off then bundlePortWrite t off bs w else pageWrites t (bs.length / 4) off bs w

/-- The bytes a steward GET of `n` bytes at page offset `off` returns. -/
def pageBytes (w : W9) (t : Tile) (off n : Nat) : List Byte :=
  (List.range (n / 4)).flatMap (fun i => le 4 (pageView w t (off + 4 * i)).toNat)

/-- The clears of such a GET. -/
def pageGetClears (t : Tile) (off n : Nat) (w : W9) : W9 :=
  forEach (List.range (n / 4)) (fun i w => pageReadClear t (off + 4 * i) w) w

end Sys2Proof.Machine
end

