-- ==== Sys2Proof/Machine/Mesh.lean ====
section
/-! DEFINITION. The mesh (spec/05_mesh.md): packets and their headers, routers and open slots, seams, sends of a tile, landings,
replies and ring credits. A packet on a link is not in State: PACKET_ARRIVE carries it. -/

namespace Sys2Proof.Machine

open Sys2Proof

/-! ## Packets (R167, R169) -/

/-- Operation codes (Table 5.1). -/
abbrev opPut : BitVec 4 := 1
/-- PUT-SIGNAL. -/
abbrev opPutSignal : BitVec 4 := 2
/-- GET. -/
abbrev opGet : BitVec 4 := 3
/-- ATOMIC-ADD. -/
abbrev opAdd : BitVec 4 := 4
/-- ATOMIC-CAS. -/
abbrev opCas : BitVec 4 := 5
/-- CREDIT-REQ. -/
abbrev opCreditReq : BitVec 4 := 6
/-- REPLY-DATA. -/
abbrev opReplyData : BitVec 4 := 8
/-- REPLY-STATUS. -/
abbrev opReplyStatus : BitVec 4 := 9
/-- CREDIT-GRANT. -/
abbrev opCreditGrant : BitVec 4 := 10

/-- Bytes 0 to 29 of a header (Table 5.2). -/
def headerBytes (p : Packet) : List Byte :=
  let sig := match p.signal with | some c => 0x80 + c.val | none => 0
  let ring := match p.ring with | some r => 0x80 + r.val | none => 0
  [BitVec.ofNat 8 (p.op.toNat * 16 + 8 * b2n p.sched + 4 * b2n p.mcast + 2 * b2n p.last + b2n p.yx),
   BitVec.ofNat 8 (p.status.toNat * 16)] ++ le 2 p.target.toNat ++ le 2 p.source.toNat ++
  [BitVec.ofNat 8 p.client.toNat, BitVec.ofNat 8 sig] ++ le 3 p.address.toNat ++ [BitVec.ofNat 8 ring] ++ le 2 p.length.toNat ++
  le 3 p.replyAddr.toNat ++ le 2 p.far.toNat ++ [0] ++ le 4 p.opSeq.toNat ++ le 4 p.credit.toNat ++ [0, 0]

/-- A header with its HCRC computed. -/
def sealPkt (p : Packet) : Packet := { p with hcrc := BitVec.ofNat 16 (crc16 (headerBytes p)) }

/-- The header check holds (R168). -/
def hcrcOk (p : Packet) : Bool := decide (p.hcrc.toNat = crc16 (headerBytes p))

/-- A packet with every field 0. -/
def Packet.blank : Packet :=
  { op := 0, sched := false, mcast := false, last := false, yx := false, status := 0, target := 0, source := 0, client := 0,
    signal := none, address := 0, ring := none, length := 0, replyAddr := 0, opSeq := 0, credit := 0, far := 0, hcrc := 0, payload := [] }

/-- A request travels on the request network (R170). -/
def isRequest (op : BitVec 4) : Bool := decide (op.toNat ≤ 5)

/-- Flits of a packet: the header and its data flits (R167). -/
def flitsOf (p : Packet) : Nat := if p.payload.length ≤ 32 then 1 else 1 + cdiv p.payload.length 64

/-- The bytes a GET or atomic has returned: a GET names them, an atomic returns 8. -/
def replyLen (p : Packet) : BitVec 16 := if p.op = opGet then p.length else 8

/-- The reply to a request. A GET and an atomic name where it lands and the counter it adds to (R164). -/
def replyTo (p : Packet) (from' : BitVec 16) (st : BitVec 4) (data : List Byte) : Packet :=
  let answers := decide (p.op = opGet ∨ p.op = opAdd ∨ p.op = opCas)
  sealPkt { Packet.blank with
    op := if st = 0 then opReplyData else opReplyStatus
    status := st, target := p.source, source := from', client := p.client
    signal := if answers then p.signal else none
    address := if answers then p.replyAddr else 0
    length := if answers then replyLen p else 0
    opSeq := p.opSeq, payload := data }

/-! ## Routers (R168, R173, R186 to R194, R201 to R204) -/

/-- The next output toward (tx, ty) (R188). -/
def nextOut (yx : Bool) (x y tx ty : Nat) : Out :=
  let ax : Option Out :=
    if x < tx then some (if 8 ≤ tx - x then .ex else .e)
    else if tx < x then some (if 8 ≤ x - tx then .wx else .w) else none
  let ay : Option Out :=
    if y < ty then some (if 8 ≤ ty - y then .sx else .s)
    else if ty < y then some (if 8 ≤ y - ty then .nx else .n) else none
  let l := if yx then [ay, ax] else [ax, ay]
  (l.findSome? id).getD .land

/-- The tile an output leads to. -/
def overOut (x y : Nat) : Out → Nat × Nat
  | .n => (x, y - 1)
  | .e => (x + 1, y)
  | .s => (x, y + 1)
  | .w => (x - 1, y)
  | .nx => (x, y - 8)
  | .ex => (x + 8, y)
  | .sx => (x, y + 8)
  | .wx => (x - 8, y)
  | .land => (x, y)

/-- The input the packet arrives on at the other end of an output: named by the direction it comes from (R173). -/
def inpOf : Out → Inp
  | .n => .s
  | .e => .w
  | .s => .n
  | .w => .e
  | .nx => .sx
  | .ex => .wx
  | .sx => .nx
  | .wx => .ex
  | .land => .loc

/-- The output that leads back over an input. -/
def backOut : Inp → Option Out
  | .n => some .n
  | .e => some .e
  | .s => some .s
  | .w => some .w
  | .nx => some .nx
  | .ex => some .ex
  | .sx => some .sx
  | .wx => some .wx
  | .attach _ => none
  | .loc => none

/-- Index order of the through inputs (R173). -/
def inpIndex : Inp → Option Nat
  | .n => some 0
  | .e => some 1
  | .s => some 2
  | .w => some 3
  | .nx => some 4
  | .ex => some 5
  | .sx => some 6
  | .wx => some 7
  | .attach _ => none
  | .loc => none

/-- The side of a field an input or output faces: 0 N, 1 E, 2 S, 3 W (Table 5.12). -/
def sideOf : Inp → Option (Fin 4)
  | .n => some 0
  | .nx => some 0
  | .e => some 1
  | .ex => some 1
  | .s => some 2
  | .sx => some 2
  | .w => some 3
  | .wx => some 3
  | .attach _ => none
  | .loc => none

/-- An express link. -/
def isExpress : Out → Bool
  | .nx => true
  | .ex => true
  | .sx => true
  | .wx => true
  | _ => false

/-- Where a packet for a unit code leaves the mesh, seen from tile (x, y): a tile, the entry tile of a gateway, or the attach tile
of the field's preferred point. DEDUCED (log entry 17). -/
def destXY (x y : Nat) (code : BitVec 16) : Nat × Nat :=
  match codeTile code with
  | some t => (tileX t, tileY t)
  | none => match codeGw code with
    | some g => entryTile g x
    | none => attachTile (preferredAttach (fieldAt x y))

/-- The outputs a packet needs at a router: its group's entry, or its next hop (R192, R193). -/
def outsAt (w : W9) (t : Tile) (net : Net) (p : Packet) : List Out :=
  if p.mcast then
    (((fieldState w (tileField t)).mcast.find? (fun e => e.1 == net && e.2.1 == t && e.2.2.1 == p.target.setWidth 12)).map
      (fun e => e.2.2.2)).getD []
  else
    let d := destXY (tileX t) (tileY t) p.target
    [nextOut p.yx (tileX t) (tileY t) d.1 d.2]

/-- A group's root on a network. -/
def isRoot (w : W9) (t : Tile) (net : Net) (g : BitVec 12) : Bool :=
  (fieldState w (tileField t)).mcastRoots.any (fun e => e.1 == net && e.2.1 == g && e.2.2 == t)

/-- The field of tile `t` is in route update: ROUTE_STATUS.UPDATE_ACTIVE (R203). -/
def updating (w : W9) (t : Tile) : Bool := rdB w (Reg.routeStatus (tileField t).val) 1

/-- A multicast packet injected away from its group's root is dropped (R194). -/
def mcastDrop (t : Tile) (p : Packet) (w : W9) : W9 :=
  raiseT t 0x3041 (le 2 (fieldOf p.target 11 0)) (pwrB t Pg.meshErr 6 true (pinc t Pg.mcastRootDrops 1 w))

/-- A packet reaches a router during a route update: it is held (R204). An empty list of outputs marks it. -/
def holdStray (t : Tile) (net : Net) (inp : Inp) (p : Packet) (w : W9) : W9 :=
  let f := tileField t
  let w := setRouter t (routerOf w t ++ [⟨net, inp, p, [], none, flitsOf p, 0⟩]) w
  raise0 0x3031 (srcField f) (le 2 t.val) (inc (Reg.routeStrays f.val) 1 w)

/-- The router takes a packet: it drops it, holds it, or keeps it in its input buffer until its outputs take it. A scheduled packet
passes through the latches of its reserved path (R172, R182); at its source it stays in the local latch until it leaves. -/
def routerTake (t : Tile) (net : Net) (inp : Inp) (p : Packet) (w : W9) : W9 :=
  if p.mcast && isInjection inp && !isRoot w t net (p.target.setWidth 12) then mcastDrop t p w
  else if updating w t then holdStray t net inp p w
  else if p.sched && !isInjection inp then w
  else setRouter t (routerOf w t ++ [⟨net, inp, p, outsAt w t net p, none, flitsOf p, 0⟩]) w

/-- When UPDATE returns to 0 the router forwards its held packets by the new tables (R204). -/
def releaseStrays (t : Tile) (w : W9) : W9 :=
  setRouter t ((routerOf w t).map (fun e => if e.outs.isEmpty then { e with outs := outsAt w t e.net e.pkt } else e)) w

/-- A packet leaves its source's latch or the seam queue when it arrives at the next router. -/
def leaveLatch (t : Tile) (net : Net) (inp : Inp) (p : Packet) (w : W9) : W9 :=
  match backOut inp with
  | none => w
  | some o =>
    let q := overOut (tileX t) (tileY t) o
    let prev := tileAt q.1 q.2
    let w := setRouter prev ((routerOf w prev).filter (fun e => !(e.net == net && e.pkt.sched && e.pkt == p))) w
    match sideOf inp with
    | some sd => modField (tileField t) (fun s => { s with
        seams := s.seams.filter (fun e => !(e.side == sd && e.net == net && e.pkt == p)) }) w
    | none => w

/-- A failed header check drops the whole packet (R168). The number of an input that is not a through input is not given: a free
value (log entry 18). -/
def hdrDrop (t : Tile) (net : Net) (inp : Inp) (w : W9) : W9 :=
  let ix : Byte := match inpIndex inp with | some i => BitVec.ofNat 8 i | none => Config.freeByte w.dev.free
  let w := if (inpIndex inp).isNone then drawFree 1 w else w
  let nb : Byte := if net = .reply then 1 else 0
  raiseT t 0x3001 [nb, ix] (pwrB t Pg.meshErr 2 true (pinc t Pg.hdrDrops 1 w))

/-- A boundary guard of closed field `f` meets a packet on side `sd`: a request is answered with the status of the state; replies
and credit packets are dropped (R201). The answer re-enters the mesh at the router the packet came from. -/
def guardAnswer (f : FieldIx) (sd : Fin 4) (t : Tile) (inp : Inp) (p : Packet) (w : W9) : W9 :=
  if isRequest p.op then
    let st := nakOf (fieldStateSeen w f f)
    let w := raise0 0x3011 (srcField f) (le 2 p.source.toNat ++ [st.setWidth 8, BitVec.ofNat 8 sd.val])
      (inc (Reg.seamNaks f.val) 1 w)
    match backOut inp with
    | some o =>
      let q := overOut (tileX t) (tileY t) o
      routerTake (tileAt q.1 q.2) .reply (inpOf o) (replyTo p (srcField f) st []) w
    | none => w
  else w

/-- PACKET_ARRIVE (R168): the header check, the boundary guard where the hop enters a closed field, then the router. -/
def packetArrive (t : Tile) (net : Net) (inp : Inp) (p : Packet) (w : W9) : W9 :=
  let w := leaveLatch t net inp p w
  if !hcrcOk p then hdrDrop t net inp w
  else
    let f := tileField t
    let crossing := match backOut inp with
      | some o => let q := overOut (tileX t) (tileY t) o; decide (fieldAt q.1 q.2 ≠ f)
      | none => false
    match sideOf inp with
    | some sd =>
      if crossing && fieldStateSeen w f f ≠ 0 then guardAnswer f sd t inp p w else routerTake t net inp p w
    | none => routerTake t net inp p w

/-- PACKET_ARRIVE. `row` says which slot-table row a scheduled packet came in. -/
def execPacketArrive (t : Tile) (net : Net) (inp : Inp) (pkt : Packet) (_row : Nat) (s : State) :
    Host.Outcome State Fault Refusal := lift (packetArrive t net inp pkt) s

/-! ## Open slots (R186, R187) -/

/-- The entry wants output `o`. -/
def wants (e : BufEntry) (net : Net) (o : Out) : Bool := e.net == net && e.outs.contains o && !e.pkt.sched

/-- The first entry of each input and channel is its candidate: packets behind it wait (R190). -/
def isHead (es : List BufEntry) (i : Nat) : Bool := match es[i]? with
  | some e => !((es.take i).any (fun x => x.net == e.net && x.inp == e.inp && x.pkt.yx == e.pkt.yx && !x.pkt.sched))
  | none => false

/-- The next router's buffer of the channel is free as far as State shows (R186). -/
def nextFree (w : W9) (t : Tile) (net : Net) (o : Out) (yx : Bool) : Bool :=
  if o = .land then true
  else
    let q := overOut (tileX t) (tileY t) o
    !((routerOf w (tileAt q.1 q.2)).any (fun x => x.net == net && x.inp == inpOf o && x.pkt.yx == yx))

/-- Rank of a candidate that no guard lifts: through inputs from the pointer, then attach inputs, then the local input. -/
def inpRank (pointer : Nat) (i : Inp) : Nat := match inpIndex i with
  | some k => (k + 8 - pointer) % 8
  | none => if i = .loc then 9 else 8

/-- Whether candidate `a` goes before `b`: a starved injection input first; within one input VC0 first, unless one channel has
lost 8 slots in a row (R187). -/
def before (pointer : Nat) (a b : BufEntry) : Bool :=
  let starved (e : BufEntry) := isInjection e.inp && decide (64 ≤ e.lost)
  if starved a != starved b then starved a
  else if inpRank pointer a.inp ≠ inpRank pointer b.inp then decide (inpRank pointer a.inp < inpRank pointer b.inp)
  else
    let lifted (e : BufEntry) := decide (8 ≤ e.lost)
    if lifted a != lifted b then lifted a else !a.pkt.yx && b.pkt.yx

/-- The index of the packet an open slot starts. -/
def pick (w : W9) (t : Tile) (net : Net) (o : Out) (pointer : Nat) : Option Nat :=
  let es := routerOf w t
  ((List.range es.length).filter (fun i => match es[i]? with
      | some e => wants e net o && isHead es i && nextFree w t net o e.pkt.yx
      | none => false)).foldl
    (fun best i => match best, es[i]? with
      | none, _ => some i
      | some j, some e => (match es[j]? with
        | some b => if before pointer e b then some i else some j
        | none => some i)
      | some j, none => some j) none

/-- Flits an open slot of an output carries: four, or one on an express link (R173). -/
def slotFlits (o : Out) : Nat := if isExpress o then 1 else 4

/-- A flit train passes: the entry that holds the output sends what the slot carries; its copy is gone when the tail has passed. -/
def sendFlits (o : Out) (e : BufEntry) : BufEntry :=
  if e.left ≤ slotFlits o then { e with outs := e.outs.filter (fun x => decide (x ≠ o)), holds := none, left := flitsOf e.pkt }
  else { e with left := e.left - slotFlits o }

/-- The packet that has wholly left over a seam enters the seam queue of the field it reaches (R175). -/
def enterSeam (t : Tile) (net : Net) (o : Out) (p : Packet) (w : W9) : W9 :=
  let q := overOut (tileX t) (tileY t) o
  let f := fieldAt q.1 q.2
  if o = .land ∨ f = tileField t then w
  else match sideOf (inpOf o) with
    | some sd =>
      let c := beatCycleOf w (tileField t)
      modField f (fun s => { s with seams := s.seams ++ [⟨sd, net, isExpress o, p, c⟩] }) w
    | none => w

/-- Drop entries that have left on every output. -/
def dropSent (es : List BufEntry) : List BufEntry := es.filter (fun e => !(e.outs.isEmpty && e.holds.isNone))

/-- Every entry that wants the output and is not the `i`-th loses the slot; INJ_WAIT counts the injection inputs among them. -/
def loseSlot (t : Tile) (net : Net) (o : Out) (i : Option Nat) (w : W9) : W9 :=
  let es := routerOf w t
  let losers := (List.range es.length).filter (fun k => match es[k]? with
    | some e => wants e net o && isHead es k && decide (some k ≠ i)
    | none => false)
  let started := (i.bind (fun k => es[k]?)).map (·.inp)
  let inps := ((losers.filterMap (fun k => es[k]?)).map (·.inp)).filter (fun x => isInjection x && decide (some x ≠ started))
  let n := inps.dedup.length
  let es' := es.mapIdx (fun k e => if losers.contains k then { e with lost := e.lost + 1 } else e)
  pinc t Pg.injWait n (setRouter t es' w)

/-- The flits of entry `i` go; when the tail has passed, the copy leaves. -/
def advance (t : Tile) (net : Net) (o : Out) (i : Nat) (w : W9) : W9 :=
  let es := routerOf w t
  match es[i]? with
  | some e =>
    let e' := sendFlits o e
    let w := setRouter t (dropSent (es.set i e')) w
    if e'.outs.contains o then w else enterSeam t net o e.pkt w
  | none => w

/-- OPEN_SLOT_GRANT (R186, R187): the packet that holds the output goes on, or one packet starts. -/
def openSlot (t : Tile) (net : Net) (o : Out) (pointer : Fin 8) (room : Bool) (w : W9) : W9 :=
  let es := routerOf w t
  match es.findIdx? (fun e => e.net == net && e.holds == some o) with
  | some i => advance t net o i (loseSlot t net o (some i) w)
  | none => match (if room then pick w t net o pointer.val else none) with
    | some i => match es[i]? with
      | some e =>
        let w := loseSlot t net o (some i) w
        let w := if isInjection e.inp && decide (64 ≤ e.lost) then pinc t Pg.starveGuard 1 w else w
        let w := setRouter t ((routerOf w t).set i { e with holds := some o, left := flitsOf e.pkt, lost := 0 }) w
        advance t net o i (pinc t Pg.openPackets 1 w)
      | none => w
    | none => loseSlot t net o none w

/-- OPEN_SLOT_GRANT. -/
def execOpenSlotGrant (t : Tile) (net : Net) (out : Out) (pointer : Fin 8) (room : Bool) (s : State) :
    Host.Outcome State Fault Refusal := lift (openSlot t net out pointer room) s

/-! ## Seams (R175 to R177) -/

/-- The oldest scheduled packet of a seam queue. -/
def seamHead (w : W9) (f : FieldIx) (sd : Fin 4) (net : Net) (ex : Bool) : Option SeamEntry :=
  (fieldState w f).seams.find? (fun e => e.side == sd && e.net == net && e.express == ex && e.pkt.sched)

/-- Take an entry out of its queue. -/
def dropSeam (f : FieldIx) (e : SeamEntry) (w : W9) : W9 := modField f (fun s => { s with seams := s.seams.erase e }) w

/-- SEAM_RELEASE (R176): in the receiving field's beat cycle e + 6 the packet goes on to its router. -/
def seamRelease (f : FieldIx) (sd : Fin 4) (net : Net) (ex : Bool) (w : W9) : W9 := match seamHead w f sd net ex with
  | some e => if beatCycleOf w f = e.entered + 6 then dropSeam f e w else w
  | none => w

/-- SEAM_RELEASE. -/
def execSeamRelease (f : FieldIx) (side : Fin 4) (net : Net) (express : Bool) (s : State) : Host.Outcome State Fault Refusal :=
  lift (seamRelease f side net express) s

/-- SEAM_LATE (R177): the packet goes on unscheduled on VC0; SEAM_LATE counts, event 0x3021, and the SLOT check. -/
def seamLate (f : FieldIx) (sd : Fin 4) (net : Net) (ex : Bool) (w : W9) : W9 := match seamHead w f sd net ex with
  | some e =>
    let row := beatCycleOf w f % max 1 (rdF w (Reg.slotLen f.val) 12 0)
    let p := sealPkt { e.pkt with sched := false, yx := false }
    let w := modField f (fun s => { s with seams := s.seams.erase e ++ [{ e with pkt := p }] }) w
    let w := raise0 0x3021 (srcField f) ([BitVec.ofNat 8 sd.val, 0] ++ le 2 row) (inc (Reg.seamLateCount f.val) 1 w)
    trap chkSlot true (srcField f) f 0 (BitVec.ofNat 8 sd.val) (BitVec.ofNat 16 row) w
  | none => w

/-- SEAM_LATE. -/
def execSeamLate (f : FieldIx) (side : Fin 4) (net : Net) (express : Bool) (s : State) : Host.Outcome State Fault Refusal :=
  lift (seamLate f side net express) s

/-! ## Sends of a tile (R161 to R164, R181, R185, R188, R199, R200) -/

/-- A scheduled read of a source range; an unassigned address gives zeros and the fault of R48. -/
def sourceRead (t : Tile) (a : LAddr) (n : Nat) (w : W9) : W9 :=
  if dataAssigned (isC t) a.toNat n then schedRead t a.toNat n w else addrFault t a w

/-- The bytes such a read delivers. -/
def sourceBytes (w : W9) (t : Tile) (a : LAddr) (n : Nat) : List Byte :=
  if dataAssigned (isC t) a.toNat n then readStore w t a.toNat n else List.replicate n 0

/-- A reply with a status other than OK reaches tile `t` (R202): counters, flags, event. -/
def nakNoted (t : Tile) (responder : BitVec 16) (st op : BitVec 4) (opSeq : BitVec 32) (w : W9) : W9 :=
  let w := pwrB t Pg.meshErr (if st = 1 then 3 else 4) true (pinc t Pg.nakReceived 1 w)
  raiseT t 0x3010 (le 2 responder.toNat ++ [st.setWidth 8, op.setWidth 8] ++ le 4 opSeq.toNat) w

/-- What a non-OK reply to a GET or atomic leaves: zeros over the reply length, then the signal (R202). -/
def zeroReply (t : Tile) (a : LAddr) (n : Nat) (sig : Option CounterIx) (w : W9) : W9 :=
  announce t sig (if 0 < n ∧ dataAssigned (isC t) a.toNat n then writeStore t a.toNat (List.replicate n 0) w else w)

/-- The number of the tile's next operation, and the step to the one after (Table 5.2). -/
def nextOp (t : Tile) (w : W9) : W9 := modTile t (fun s => { s with opSeq := s.opSeq + 1 }) w

/-- The code a destination puts into TARGET (Table 5.2). -/
def destCode : Dest → BitVec 16
  | .unit c => c
  | .group g => g.setWidth 16

/-- A destination is a group. -/
def isGroup : Dest → Bool
  | .unit _ => false
  | .group _ => true

/-- The route of an unscheduled unicast request (R188). -/
def routeOf (w : W9) (t : Tile) (d : Dest) : BitVec 4 ⊕ Bool := match d with
  | .group _ => .inr false
  | .unit c => let q := destXY (tileX t) (tileY t) c; routeChoice w (tileX t) (tileY t) q.1 q.2

/-- The key of a ring of a target tile in a producer's credit table (R200). -/
def creditKey (d : Dest) (r : RingIx) : Nat := (destCode d).toNat * 16 + r.val

/-- A tile's credit for a ring. -/
def creditOf (w : W9) (t : Tile) (d : Dest) (r : RingIx) : Nat := smGet (fun _ => 0) (tileOf w t).credits (creditKey d r)

/-- In compatibility mode an append is held until credit covers it (R200). -/
def creditCovers (w : W9) (t : Tile) (p : SendArgs) : Bool := match p.ring with
  | some r => !compatOn w || decide (p.len ≤ creditOf w t p.dest r)
  | none => true

/-- A dynamic producer's append uses its credit (R199); one that sends beyond it fires the CREDIT check (Table 9.10). -/
def useCredit (t : Tile) (p : SendArgs) (w : W9) : W9 := match p.ring with
  | some r =>
    let k := creditKey p.dest r
    let c := creditOf w t p.dest r
    if compatOn w then modTile t (fun s => { s with credits := smPut (fun _ => 0) s.credits k (c - p.len) }) w else w
  | none => w

/-- The packets of a PUT or PUT-SIGNAL in ascending address order (R161 to R163). -/
def putPackets (t : Tile) (op : BitVec 4) (p : SendArgs) (opSeq : BitVec 32) (sched yx : Bool) (data : List Byte) : List Packet :=
  let spans := if p.ring.isSome then [(p.address.toNat, p.len)] else farSpans p.address.toNat p.len
  let n := spans.length
  spans.mapIdx (fun i sp =>
    let off := sp.1 - p.address.toNat
    let isLast := decide (op = opPutSignal) && decide (i + 1 = n)
    sealPkt { Packet.blank with
      op := op, sched := sched, mcast := isGroup p.dest, last := isLast, yx := yx, target := destCode p.dest
      source := tileSrc t, signal := if op = opPutSignal then p.signal else none
      address := BitVec.ofNat 24 sp.1, ring := p.ring, length := BitVec.ofNat 16 sp.2, opSeq := opSeq
      payload := (data.drop off).take sp.2 })

/-- A scheduled send that issues too late for its row is sent unscheduled (R181). -/
def demote (t : Tile) (row cycle : Nat) (w : W9) : W9 :=
  let w := pwrB t Pg.meshErr 0 true (pinc t Pg.schedDemoted 1 w)
  let w := raiseT t 0x3020 (le 2 row ++ le 2 (cycle + 1)) w
  trap chkSlot false (tileSrc t) (tileField t) 0 0 (BitVec.ofNat 16 row) w

/-- The send names a row it can still make, or is of a flow of a compatibility image (R181, R185). -/
def inTime (w : W9) (p : SendArgs) : Bool := match p.row with
  | some r => compatOn w || decide (p.cycle + 1 ≤ r)
  | none => false

/-- A PUT or PUT-SIGNAL issues. -/
def putRun (t : Tile) (op : BitVec 4) (p : SendArgs) (w : W9) : W9 :=
  let data := sourceBytes w t p.src p.len
  let w := sourceRead t p.src p.len w
  let sched := inTime w p
  let w := match p.row with
    | some r => if sched then w else demote t r p.cycle w
    | none => w
  let q := (tileOf w t).opSeq
  let w := useCredit t p (nextOp t w)
  let send (yx : Bool) : W9 := forEach (putPackets t op p q sched yx data) (fun k w => routerTake t .request .loc k w) w
  if sched then send false
  else match routeOf w t p.dest with
    | .inl st => nakNoted t (tileSrc t) st opReplyStatus q w
    | .inr yx => send yx

/-- A PUT or PUT-SIGNAL under the issue rule. -/
def putIssue (t : Tile) (op : BitVec 4) (p : SendArgs) (w : W9) : W9 :=
  issue t p.conds (readReady w t p.src.toNat p.len && creditCovers w t p) (putRun t op p) w

/-- PUT (R161). -/
def execPut (t : Tile) (p : SendArgs) (s : State) : Host.Outcome State Fault Refusal := lift (putIssue t opPut p) s

/-- PUT_SIGNAL (R163). -/
def execPutSignal (t : Tile) (p : SendArgs) (s : State) : Host.Outcome State Fault Refusal := lift (putIssue t opPutSignal p) s

/-- A GET or an atomic issues: one request, its reply at `src`, or the status at once (R164, R188, R202). -/
def askRun (t : Tile) (op : BitVec 4) (p : SendArgs) (len : Nat) (payload : List Byte) (w : W9) : W9 :=
  let q := (tileOf w t).opSeq
  let sched := inTime w p
  let w := match p.row with
    | some r => if sched then w else demote t r p.cycle w
    | none => w
  let w := nextOp t w
  let pkt (yx : Bool) : Packet := sealPkt { Packet.blank with
    op := op, sched := sched, yx := yx, target := destCode p.dest, source := tileSrc t, signal := p.signal, address := p.address
    length := BitVec.ofNat 16 len, replyAddr := p.src, opSeq := q, payload := payload }
  if sched then routerTake t .request .loc (pkt false) w
  else match routeOf w t p.dest with
    | .inl st => zeroReply t p.src (if op = opGet then len else 8) p.signal (nakNoted t (tileSrc t) st opReplyStatus q w)
    | .inr yx => routerTake t .request .loc (pkt yx) w

/-- GET (R164). -/
def getIssue (t : Tile) (p : SendArgs) (w : W9) : W9 := issue t p.conds true (askRun t opGet p p.len []) w

/-- GET. -/
def execGet (t : Tile) (p : SendArgs) (s : State) : Host.Outcome State Fault Refusal := lift (getIssue t p) s

/-- ATOMIC_ADD (R72, R164). -/
def atomicAddIssue (t : Tile) (p : SendArgs) (addend : Word64) (w : W9) : W9 :=
  issue t p.conds true (askRun t opAdd p 8 (le 8 addend.toNat)) w

/-- ATOMIC_ADD. -/
def execAtomicAdd (t : Tile) (p : SendArgs) (addend : Word64) (s : State) : Host.Outcome State Fault Refusal :=
  lift (atomicAddIssue t p addend) s

/-- ATOMIC_CAS (R160, R167): compare value, then swap value. -/
def atomicCasIssue (t : Tile) (p : SendArgs) (cmp swap : Word64) (w : W9) : W9 :=
  issue t p.conds true (askRun t opCas p 16 (le 8 cmp.toNat ++ le 8 swap.toNat)) w

/-- ATOMIC_CAS. -/
def execAtomicCas (t : Tile) (p : SendArgs) (cmp swap : Word64) (s : State) : Host.Outcome State Fault Refusal :=
  lift (atomicCasIssue t p cmp swap) s

/-! ## Landings (R68 to R72, R78 to R80, R163, R190) -/

/-- Which access a window must allow: its bit of WIN_n_CTRL (Table 2.13). -/
inductive Access where
  | read | write | atomic
deriving DecidableEq, Repr

/-- The permission bit. -/
def accessBit : Access → Nat
  | .read => 0
  | .write => 1
  | .atomic => 2

/-- Some enabled window admits the whole access of an off-device client (R79). -/
def windowAdmits (w : W9) (t : Tile) (client : BitVec 2) (k : Access) (a n : Nat) : Bool :=
  allRings.any (fun i =>
    let c := prd w t (Pg.winCtrl i.val)
    let b := (prd w t (Pg.winBase i.val)).toNat
    let sz := (prd w t (Pg.winSize i.val)).toNat
    c.getLsbD 31 && c.getLsbD (accessBit k) && c.getLsbD (3 + client.toNat) && decide (b ≤ a) && decide (a + n ≤ b + sz))

/-- The steward complex is the requester (unit type 0x07), on-device. -/
def isSteward (p : Packet) : Bool := decide (p.source.toNat / 256 = 0x87) && decide (p.client = 0)

/-- A PUT or GET is admitted: assigned, in the page only for the steward, in a window for off-device clients (R48, R49, R79, R80). -/
def admits (w : W9) (t : Tile) (p : Packet) (k : Access) (n : Nat) : Bool :=
  let a := p.address.toNat
  if inPage a n then isSteward p
  else dataAssigned (isC t) a n && (decide (p.client = 0) || windowAdmits w t p.client k a n)

/-- DETAIL of a rejection (Table 2.7). -/
def rejectDetail (p : Packet) : List Byte :=
  le 3 p.address.toNat ++ [p.client.setWidth 8] ++ le 2 p.source.toNat ++ [p.op.setWidth 8]

/-- A request is rejected: REJECT_COUNT, TILE_ERR.REJECT, event 0x1020 (R79). -/
def rejectRequest (t : Tile) (p : Packet) (w : W9) : W9 :=
  raiseT t 0x1020 (rejectDetail p) (tileErr t 7 (pinc t Pg.rejectCount 1 w))

/-- Take a packet out of the router's buffers once it has landed. -/
def takenIn (t : Tile) (p : Packet) (w : W9) : W9 :=
  setRouter t (dropSent ((routerOf w t).map (fun e =>
    if e.pkt == p then { e with outs := e.outs.filter (fun o => decide (o ≠ .land)), holds := none } else e))) w

/-- The 64 B words of a landing: (address, bytes) cut at word boundaries (R163). -/
def wordsOf (a : Nat) (bs : List Byte) : List (Nat × List Byte) :=
  let a0 := a / 64 * 64
  ((List.range (cdiv (a + bs.length - a0) 64)).map (fun i =>
    let lo := max a (a0 + 64 * i)
    let hi := min (a + bs.length) (a0 + 64 * (i + 1))
    (lo, (bs.drop (lo - a)).take (hi - lo)))).filter (fun x => !x.2.isEmpty)

/-- Banks a non-scheduled write cannot take in this cycle: those with a scheduled write, and those a deferred write waits for,
which keeps its place ahead of later arrivals (Table 2.4). -/
def busyBanks (w : W9) (t : Tile) (sched : List LAddr) : List Nat :=
  sched.map (fun a => (bankRow (isC t) a.toNat).1) ++ (tileOf w t).defer.map (fun d => (bankRow (isC t) d.addr.toNat).1)

/-- The deferral buffer takes `n` more writes of this kind: 8 entries, of which four are kept for scheduled flows (R69). -/
def deferRoom (w : W9) (t : Tile) (sched : Bool) (n : Nat) : Bool :=
  decide ((tileOf w t).defer.length + n ≤ 8) && (sched || decide (deferUsed w t false + n ≤ 4))

/-- Land words at once. -/
def landNow (t : Tile) : List (Nat × List Byte) → W9 → W9
  | [], w => w
  | x :: r, w => landNow t r (writeStore t x.1 x.2 w)

/-- The deferred writes of the words that must wait; the last carries the signal (R70). -/
def deferrals (sched : Bool) (sig : Option CounterIx) : List (Nat × List Byte) → List Deferred
  | [] => []
  | [x] => [⟨BitVec.ofNat 24 x.1, x.2, sig, sched⟩]
  | x :: r => ⟨BitVec.ofNat 24 x.1, x.2, none, sched⟩ :: deferrals sched sig r

/-- A payload lands in the stores through the merge and the deferral buffer, or waits in its router input or landing latch
(R68 to R70, R163, R190). -/
def landPayload (t : Tile) (p : Packet) (sched : List LAddr) (w : W9) : W9 :=
  let ws := wordsOf p.address.toNat p.payload
  let busy := busyBanks w t sched
  let late := ws.filter (fun x => busy.contains (bankRow (isC t) x.1).1)
  let sig := if p.last then p.signal else none
  if late.isEmpty then announce t sig (landNow t ws (takenIn t p w))
  else if deferRoom w t p.sched late.length then
    let w := landNow t (ws.filter (fun x => !busy.contains (bankRow (isC t) x.1).1)) (takenIn t p w)
    modTile t (fun s => { s with defer := s.defer ++ deferrals p.sched sig late }) w
  else
    let w := pinc t Pg.deferFull 1 w
    if p.sched then
      trap chkSlot true (tileSrc t) (tileField t) 0 0
        (BitVec.ofNat 16 (beatCycleOf w (tileField t) % max 1 (rdF w (Reg.slotLen (tileField t).val) 12 0))) w
    else if (routerOf w t).any (fun e => e.pkt == p) then w
    else setRouter t (routerOf w t ++ [⟨.request, .loc, p, [.land], none, flitsOf p, 0⟩]) w

/-- The producer entries of a ring (R196). -/
def producers (w : W9) (t : Tile) (r : RingIx) : List Nat :=
  [prdF w t (Pg.ringProdA r.val) 15 0, prdF w t (Pg.ringProdA r.val) 31 16,
   prdF w t (Pg.ringProdB r.val) 15 0, prdF w t (Pg.ringProdB r.val) 31 16]

/-- The entry of a producer. -/
def producerIx (w : W9) (t : Tile) (r : RingIx) (code : BitVec 16) : Option Nat :=
  if code = 0xFFFF then none else (producers w t r).findIdx? (fun c => c == code.toNat)

/-- GRANTED decreases when a dynamic producer's append lands or is dropped (R198). -/
def spendGrant (t : Tile) (r : RingIx) (source : BitVec 16) (n : Nat) (w : W9) : W9 :=
  let off := Pg.ringCredit r.val
  if prdB w t off 31 && (producerIx w t r source).isSome then pwrF t off 22 0 (prdF w t off 22 0 - n) w else w

/-- A ring append lands or is dropped whole; its signal goes with its data (R70, R75, R76, R198). -/
def appendLand (t : Tile) (p : Packet) (r : RingIx) (w : W9) : W9 :=
  let lands := appendLands w t r p.payload.length
  let w := takenIn t p w
  let w := landAppend t r p.payload (p.client.setWidth 8) p.source w
  let w := spendGrant t r p.source p.payload.length w
  if lands && p.last then announce t p.signal w else w

/-- RING_APPEND_LAND (R76). -/
def ringAppendLand (t : Tile) (p : Packet) (w : W9) : W9 := match p.ring with
  | some r => appendLand t p r w
  | none => w

/-- RING_APPEND_LAND. -/
def execRingAppendLand (t : Tile) (pkt : Packet) (s : State) : Host.Outcome State Fault Refusal := lift (ringAppendLand t pkt) s

/-- REMOTE_WRITE_LAND (R163): the control page for the steward, a ring for an append, the stores for the rest; a request that is
not admitted is dropped (R79). -/
def remoteWriteLand (t : Tile) (p : Packet) (sched : List LAddr) (w : W9) : W9 :=
  match p.ring with
  | some r => appendLand t p r w
  | none =>
    let n := p.payload.length
    if !admits w t p .write n then rejectRequest t p (takenIn t p w)
    else if inPage p.address.toNat n then pagePut t (p.address.toNat - 0xF00000) p.payload (takenIn t p w)
    else landPayload t p sched w

/-- REMOTE_WRITE_LAND. `port` names where the write arrives: writes of one cycle come as commands in the order of Table 2.4. -/
def execRemoteWriteLand (t : Tile) (_port : Port) (pkt : Packet) (schedWrites : List LAddr) (s : State) :
    Host.Outcome State Fault Refusal := lift (remoteWriteLand t pkt schedWrites) s

/-- The first deferred write whose bank is free of scheduled writes. -/
def deferReady (w : W9) (t : Tile) (sched : List LAddr) : Option Deferred :=
  let busy := sched.map (fun a => (bankRow (isC t) a.toNat).1)
  (tileOf w t).defer.find? (fun d => !busy.contains (bankRow (isC t) d.addr.toNat).1)

/-- DEFERRED_WRITE_LAND (R68, R70): the oldest deferred write whose bank has no scheduled write lands, and what it announces with
it. -/
def deferredWriteLand (t : Tile) (sched : List LAddr) (w : W9) : W9 := match deferReady w t sched with
  | some d =>
    let w := modTile t (fun s => { s with defer := s.defer.erase d }) w
    announce t d.signal (writeStore t d.addr.toNat d.data w)
  | none => w

/-- DEFERRED_WRITE_LAND. -/
def execDeferredWriteLand (t : Tile) (schedWrites : List LAddr) (s : State) : Host.Outcome State Fault Refusal :=
  lift (deferredWriteLand t schedWrites) s

/-- A tile sends a reply on the reply network; one toward a closed field has nowhere to go and is dropped (R188, R201). -/
def sendReply (t : Tile) (p : Packet) (w : W9) : W9 :=
  match routeOf w t (.unit p.target) with
  | .inl _ => w
  | .inr yx => routerTake t .reply .loc (sealPkt { p with yx := yx }) w

/-- REMOTE_GET_SERVE (R68, R164): the read waits while a scheduled read has one of its banks. -/
def remoteGetServe (t : Tile) (p : Packet) (sched : List LAddr) (w : W9) : W9 :=
  let a := p.address.toNat
  let n := p.length.toNat
  if !admits w t p .read n then sendReply t (replyTo p (tileSrc t) 1 []) (rejectRequest t p (takenIn t p w))
  else if inPage a n then
    let off := a - 0xF00000
    sendReply t (replyTo p (tileSrc t) 0 (pageBytes w t off n)) (pageGetClears t off n (takenIn t p w))
  else
    let busy := sched.map (fun x => (bankRow (isC t) x.toNat).1)
    if (quarters a n).any (fun q => busy.contains (bankRow (isC t) q).1) then w
    else sendReply t (replyTo p (tileSrc t) 0 (readStore w t a n)) (readEffects0 t a n (takenIn t p w))

/-- REMOTE_GET_SERVE. -/
def execRemoteGetServe (t : Tile) (pkt : Packet) (schedReads : List LAddr) (s : State) : Host.Outcome State Fault Refusal :=
  lift (remoteGetServe t pkt schedReads) s

/-- The new value of a control word: an addition modulo 2^64, or a compare and swap (R72, R160). -/
def atomicNew (p : Packet) (old : Nat) : Nat :=
  if p.op = opAdd then (old + ofLe (p.payload.take 8)) % 2 ^ 64
  else if old = ofLe (p.payload.take 8) then ofLe ((p.payload.drop 8).take 8) else old

/-- ATOMIC_EXECUTE (R72): on a control word, after every write that comes before it; elsewhere rejected. -/
def atomicExecute (t : Tile) (p : Packet) (sched : List LAddr) (w : W9) : W9 :=
  let a := p.address.toNat
  if !inControlWords a 8 || a % 8 ≠ 0 then
    let w := pinc t Pg.rejectCount 1 (takenIn t p w)
    sendReply t (replyTo p (tileSrc t) 1 []) (raiseT t 0x1021 (rejectDetail p) (tileErr t 8 w))
  else if p.client ≠ 0 && !windowAdmits w t p.client .atomic a 8 then
    sendReply t (replyTo p (tileSrc t) 1 []) (rejectRequest t p (takenIn t p w))
  else
    let word := wordOf (isC t) a
    let bank := (bankRow (isC t) a).1
    if sched.any (fun x => wordOf (isC t) x.toNat == word) ||
        (tileOf w t).defer.any (fun d => (bankRow (isC t) d.addr.toNat).1 == bank) then w
    else
      let old := readStore w t a 8
      let w := readEffects0 t a 8 (takenIn t p w)
      let w := writeStore t a (le 8 (atomicNew p (ofLe old))) w
      sendReply t (replyTo p (tileSrc t) 0 old) w

/-- ATOMIC_EXECUTE. -/
def execAtomicExecute (t : Tile) (pkt : Packet) (schedWrites : List LAddr) (s : State) : Host.Outcome State Fault Refusal :=
  lift (atomicExecute t pkt schedWrites) s

/-- REPLY_LAND (R164, R202): data at the reply address and the signal, or zeros where the status is not OK. -/
def replyLand (t : Tile) (p : Packet) (w : W9) : W9 :=
  let w := takenIn t p w
  if p.status = 0 then
    let n := p.payload.length
    announce t p.signal (if 0 < n ∧ dataAssigned (isC t) p.address.toNat n then writeStore t p.address.toNat p.payload w else w)
  else zeroReply t p.address p.length.toNat p.signal (nakNoted t p.source p.status p.op p.opSeq w)

/-- REPLY_LAND. -/
def execReplyLand (t : Tile) (pkt : Packet) (s : State) : Host.Outcome State Fault Refusal := lift (replyLand t pkt) s

/-! ## Credits (R196 to R200) -/

/-- A CREDIT-GRANT packet of tile `t`. -/
def grantPacket (t : Tile) (r : RingIx) (producer : BitVec 16) (k : Nat) (st : BitVec 4) : Packet :=
  sealPkt { Packet.blank with
    op := opCreditGrant, status := st, target := producer, source := tileSrc t, ring := some r, credit := BitVec.ofNat 32 k }

/-- The bytes producer entry `j` of ring `r` wants. -/
def wantOf (w : W9) (t : Tile) (r : RingIx) (j : Nat) : Nat := smGet (fun _ => 0) (tileOf w t).wants (r.val * 4 + j)

/-- Set them and the WANT bit of RING_n_CREDIT (Table 5.10). -/
def setWant (t : Tile) (r : RingIx) (j k : Nat) (w : W9) : W9 :=
  pwrB t (Pg.ringCredit r.val) (23 + j) (decide (0 < k))
    (modTile t (fun s => { s with wants := smPut (fun _ => 0) s.wants (r.val * 4 + j) k }) w)

/-- CREDIT_REQ (R196, R197). -/
def creditReq (t : Tile) (r : RingIx) (producer : BitVec 16) (k : Nat) (w : W9) : W9 :=
  match producerIx w t r producer with
  | some j => if k ≤ ringSize w t r then setWant t r j k w else refuse w
  | none => refuse w
where
  /-- A grant of 0 bytes with status REJECT, CREDIT_REJECT, MESH_ERR and event 0x3040 (R197). -/
  refuse (w : W9) : W9 :=
    let w := pwrB t Pg.meshErr 5 true (pinc t Pg.creditReject 1 w)
    let w := raiseT t 0x3040 ([BitVec.ofNat 8 r.val, 0] ++ le 2 producer.toNat ++ le 4 k) w
    sendReply t (grantPacket t r producer 0 1) w

/-- CREDIT_REQ. -/
def execCreditReq (t : Tile) (r : RingIx) (producer : BitVec 16) (bytes : Nat) (s : State) : Host.Outcome State Fault Refusal :=
  lift (creditReq t r producer bytes) s

/-- The first wanting entry after the one served last (R198). -/
def nextWant (w : W9) (t : Tile) (r : RingIx) : Option Nat :=
  let from' := smGet (fun _ => 0) (tileOf w t).servedLast r.val
  ((List.range 4).map (fun i => (from' + i) % 4)).find? (fun j => decide (0 < wantOf w t r j))

/-- CREDIT_GRANT (R198): the entry is granted in full once the pool, free space minus GRANTED, covers it. -/
def creditGrant (t : Tile) (r : RingIx) (w : W9) : W9 := match nextWant w t r with
  | some j =>
    let k := wantOf w t r j
    let off := Pg.ringCredit r.val
    let g := prdF w t off 22 0
    if k + g ≤ ringFree w t r then
      let w := setWant t r j 0 (pwrF t off 22 0 (g + k) w)
      let w := modTile t (fun s => { s with servedLast := smPut (fun _ => 0) s.servedLast r.val (j + 1) }) w
      sendReply t (grantPacket t r (BitVec.ofNat 16 ((producers w t r).getD j 0)) k 0) w
    else w
  | none => w

/-- CREDIT_GRANT. -/
def execCreditGrant (t : Tile) (r : RingIx) (s : State) : Host.Outcome State Fault Refusal := lift (creditGrant t r) s

/-- CREDIT_GRANT_RECEIVE (R199, R202): the grant is added to the producer's credit; a status other than OK is noted. -/
def grantReceive (producer target : Tile) (r : RingIx) (k : Nat) (st : BitVec 4) (w : W9) : W9 :=
  if st = 0 then
    let key := creditKey (.unit (tileSrc target)) r
    modTile producer (fun s => { s with credits := smMod (fun _ => 0) s.credits key (fun c => c + k) }) w
  else nakNoted producer (tileSrc target) st opCreditGrant 0 w

/-- CREDIT_GRANT_RECEIVE. -/
def execCreditGrantReceive (producer target : Tile) (r : RingIx) (bytes : Nat) (status : BitVec 4) (s : State) :
    Host.Outcome State Fault Refusal := lift (grantReceive producer target r bytes status) s

end Sys2Proof.Machine
end

