-- ==== Sys2Proof/Machine/HostIf.lean ====
section
/-! DEFINITION. The host interface (spec/10_host_interface.md): the BARs, intake rings, the rings in host memory, MSI-X, the link and
the function's resets. -/

namespace Sys2Proof.Machine

open Sys2Proof

/-- Safe mode: RST_STATUS.SAFE_MODE (R513). -/
def safeMode (w : W9) : Bool := rdB w Reg.rstStatus 30
/-- The host port answers: boot has reached step 9, or safe mode (R498, R513). -/
def hostAnswers (w : W9) : Bool := w.dev.powered && (w.dev.rstDone || safeMode w)
/-- ENV_STATUS.STATE (Table 13.8): 0 RUN, 1 ENTERING_HOLD, 2 HOLD, 3 LEAVING_HOLD, 4 TRIPPED. -/
def envState (w : W9) : Nat := rdF w Reg.envStatus 31 29
/-- The W9 is in hold. -/
def inHold (w : W9) : Bool := envState w == 2

/-- A read completes with data; `poisoned` marks a poisoned completion (R361). -/
def complete (bs : List Byte) (poisoned : Bool) (w : W9) : W9 := { w with host := { w.host with readData := bs, poisoned := poisoned } }

/-- A read completes with 0xFF in every byte. -/
def completeOnes (n : Nat) (w : W9) : W9 := complete (List.replicate n 0xFF) false w

/-- A BAR access is refused, discarded or timed out: BAR_REJECTS and its flag of HOSTIF_ERR. -/
def barReject (flag : Nat) (w : W9) : W9 := hostErr flag (inc Reg.barRejects 1 w)

/-! ## BAR2 (R360 to R363) -/

/-- The far address of a BAR2 offset. -/
def bar2Addr (w : W9) (off : Nat) : Nat := rd64 w Reg.bar2Far + off

/-- Every byte is assigned; in safe mode none is (R513). -/
def bar2Assigned (w : W9) (off n : Nat) : Bool := !safeMode w && farAssigned w (bar2Addr w off) n

/-- A BAR2 access to an unassigned far address (R360). -/
def bar2Unassigned (off : Nat) (write : Bool) (w : W9) : W9 :=
  raise0 0x8004 srcHost (le 8 (bar2Addr w off) ++ [BitVec.ofNat 8 (b2n write)]) (barReject 2 w)

/-- Some stack the range touches is in SELF (R293). -/
def bar2Waits (w : W9) (off n : Nat) : Bool :=
  (farQuarters w (bar2Addr w off) n).any (fun q => refreshMode w (keyStack q) == 2)

/-- The read itself: corrected data, poisoned where a quarter is uncorrectable (R294, R361). -/
def bar2Do (off n : Nat) (w : W9) : W9 :=
  let a := bar2Addr w off
  let qs := farQuarters w a n
  let bad := qs.any (fun q => w.mem.farUE.contains q)
  complete (farRead w a n) bad (farReadEffects qs w)

/-- BAR2_READ (R360, R361, R363): a read of a stack in SELF waits. -/
def bar2Read (off n : Nat) (w : W9) : W9 :=
  if !hostAnswers w then w
  else if !bar2Assigned w off n then completeOnes n (bar2Unassigned off false w)
  else if bar2Waits w off n then
    let t := now w
    { w with host := { w.host with bar2Waiting := w.host.bar2Waiting ++ [(off, n, t)] } }
  else bar2Do off n w

/-- BAR2_READ. -/
def execBar2Read (off len : Nat) (s : State) : Host.Outcome State Fault Refusal := lift (bar2Read off len) s

/-- The enabled bytes that fall into the quarter at far address `q`, by position. -/
def inQuarter (a : Nat) (bs : List (Option Byte)) (q : Nat) : List (Option Byte) :=
  (List.range 8).map (fun i => if q + i < a then none else (bs[q + i - a]?).join)

/-- Write the enabled bytes of one quarter; a partial write of an uncorrectable quarter is not applied (R294). -/
def bar2Quarter (q : Nat) (bs : List (Option Byte)) (w : W9) : W9 :=
  match farDecode w q with
  | none => w
  | some k =>
    if bs.all (·.isNone) then w
    else if w.mem.farUE.contains k && bs.any (·.isNone) then noteFarUE k w
    else clearFarErrors [k] ((List.range 8).foldl (fun w i => match (bs[i]?).join with
      | some b => putFar (q + i) b w
      | none => w) w)

/-- BAR2_WRITE (R360, R361): the enabled bytes land, quarter by quarter in ascending order. -/
def bar2Write (off : Nat) (bs : List (Option Byte)) (w : W9) : W9 :=
  let a := bar2Addr w off
  let n := bs.length
  if !hostAnswers w then w
  else if !bar2Assigned w off n then bar2Unassigned off true w
  else
    let a0 := a / 8 * 8
    forEach ((List.range (cdiv (a + n - a0) 8)).map (fun i => a0 + 8 * i)) (fun q w => bar2Quarter q (inQuarter a bs q) w) w

/-- BAR2_WRITE. -/
def execBar2Write (off : Nat) (bytes : List (Option Byte)) (s : State) : Host.Outcome State Fault Refusal :=
  lift (bar2Write off bytes) s

/-- STACK_LEAVE_SELF (R293): the stack the envelope manager has ordered out of SELF leaves it; BAR2 reads that waited for it alone are
served. -/
def stackLeaveSelf (f : FieldIx) (w : W9) : W9 :=
  if w.env.selfStacks then w
  else
    let w := modField f (fun s => { s with stackSelf := false }) w
    let go := w.host.bar2Waiting.filter (fun e => !bar2Waits w e.1 e.2.1)
    let w := { w with host := { w.host with bar2Waiting := w.host.bar2Waiting.filter (fun e => bar2Waits w e.1 e.2.1) } }
    forEach go (fun e w => bar2Do e.1 e.2.1 w) w

/-- STACK_LEAVE_SELF. -/
def execStackLeaveSelf (f : FieldIx) (s : State) : Host.Outcome State Fault Refusal := lift (stackLeaveSelf f) s

/-- A read done by the 1 ms limit (R363). -/
def timedOut (off n : Nat) (bar : Byte) (w : W9) : W9 :=
  completeOnes n (raise0 0x8005 srcHost (le 8 off ++ [bar]) (barReject 3 w))

/-- BAR2_READ_TIMEOUT (R363, R366): a BAR2 or BAR4 read 1 ms old completes with ones. -/
def readTimeout (bar4 : Bool) (off : Nat) (w : W9) : W9 :=
  if bar4 then
    match w.host.bar4.find? (fun p => p.off == off && decide (p.issued + 1000000 ≤ now w)) with
    | some p => timedOut off p.len 4 { w with host := { w.host with bar4 := w.host.bar4.erase p } }
    | none => w
  else
    match w.host.bar2Waiting.find? (fun p => p.1 == off && decide (p.2.2 + 1000000 ≤ now w)) with
    | some p => timedOut off p.2.1 2 { w with host := { w.host with bar2Waiting := w.host.bar2Waiting.erase p } }
    | none => w

/-- BAR2_READ_TIMEOUT. -/
def execBar2ReadTimeout (bar4 : Bool) (off : Nat) (s : State) : Host.Outcome State Fault Refusal := lift (readTimeout bar4 off) s

/-! ## BAR4 (R364 to R366) -/

/-- A request of an I/O-ring unit enters the mesh at an attach point, or is answered with a status at once (R189, R483). -/
def ringSend (t : Tile) (p : Packet) (w : W9) : (BitVec 4) × W9 :=
  if inHold w then (2, w)
  else match ringStatus w t with
    | some st => (st, w)
    | none => match ringRoute w t with
      | some r =>
        let q := attachTile r.1
        (0, routerTake (tileAt q.1 q.2) .request (.attach 0) (sealPkt { p with yx := r.2 }) w)
      | none => (4, w)

/-- The tile code of the aperture an offset lies in (R364). -/
def apTile (w : W9) (off : Nat) : Nat := rdF w (Reg.apTile (off / 2 ^ 24 % 16)) 14 0

/-- A BAR4 write is discarded (R365). -/
def bar4Discard (off : Nat) (why : Byte) (w : W9) : W9 := raise0 0x8003 srcHost (le 8 off ++ [why]) (barReject 1 w)

/-- The next operation number of the host port. -/
def hostOp (w : W9) : W9 := { w with host := { w.host with opSeq := w.host.opSeq + 1 } }

/-- A BAR4 write's PUTs, at most 1 KiB each, in ascending address order (R365). -/
def bar4Puts (t : Tile) (a : Nat) (bs : List Byte) (w : W9) : W9 :=
  forEach (farSpans a bs.length) (fun sp w =>
    let q := w.host.opSeq
    (ringSend t { Packet.blank with
      op := opPut, target := tileSrc t, source := srcHost, client := 1, address := BitVec.ofNat 24 sp.1
      length := BitVec.ofNat 16 sp.2, opSeq := q, payload := (bs.drop (sp.1 - a)).take sp.2 } (hostOp w)).2) w

/-- BAR4_WRITE (R365). -/
def bar4Write (off : Nat) (bs : List (Option Byte)) (w : W9) : W9 :=
  if !hostAnswers w then w
  else if safeMode w then bar4Discard off 0xFF w
  else if off % 8 ≠ 0 ∨ bs.length % 8 ≠ 0 ∨ bs.any (·.isNone) then bar4Discard off 0 w
  else match codeTile (BitVec.ofNat 16 (apTile w off)) with
    | none => bar4Discard off 0xFF w
    | some t => bar4Puts t (off % 2 ^ 24) (bs.filterMap id) w

/-- BAR4_WRITE. -/
def execBar4Write (off : Nat) (bytes : List (Option Byte)) (s : State) : Host.Outcome State Fault Refusal :=
  lift (bar4Write off bytes) s

/-- A BAR4 read is refused with a status (R366). -/
def bar4Refuse (off n : Nat) (st : Byte) (w : W9) : W9 :=
  completeOnes n (raise0 0x8002 srcHost (le 8 off ++ [st]) (barReject 1 w))

/-- The GETs of a BAR4 read; the first status other than OK, if any. -/
def bar4Gets (t : Tile) (a n : Nat) (w : W9) : BitVec 4 × W9 :=
  let a0 := a / 8 * 8
  (farSpans a0 (cdiv (a + n - a0) 8 * 8)).foldl (fun acc sp =>
    if acc.1 ≠ 0 then acc
    else
      let q := acc.2.host.opSeq
      ringSend t { Packet.blank with
        op := opGet, target := tileSrc t, source := srcHost, client := 1, address := BitVec.ofNat 24 sp.1
        length := BitVec.ofNat 16 sp.2, opSeq := q } (hostOp acc.2)) (0, w)

/-- BAR4_READ (R366). -/
def bar4Read (off n : Nat) (w : W9) : W9 :=
  if !hostAnswers w then w
  else if safeMode w then bar4Refuse off n 0xFF w
  else match codeTile (BitVec.ofNat 16 (apTile w off)) with
    | none => bar4Refuse off n 0xFF w
    | some t =>
      let r := bar4Gets t (off % 2 ^ 24) n w
      if r.1 = 0 then
        let p : Bar4Pending := ⟨off, n, t.val, now w⟩
        { r.2 with host := { r.2.host with bar4 := r.2.host.bar4 ++ [p] } }
      else bar4Refuse off n (r.1.setWidth 8) w

/-- BAR4_READ. -/
def execBar4Read (off len : Nat) (s : State) : Host.Outcome State Fault Refusal := lift (bar4Read off len) s

/-- BAR4_READ_COMPLETE (R366): the oldest read's replies have all arrived; `data` are its bytes. -/
def bar4Complete (st : BitVec 4) (data : List Byte) (w : W9) : W9 := match w.host.bar4 with
  | p :: r =>
    let w := { w with host := { w.host with bar4 := r } }
    if st = 0 then complete (data.take p.len) false w else bar4Refuse p.off p.len (st.setWidth 8) w
  | [] => w

/-- BAR4_READ_COMPLETE. -/
def execBar4ReadComplete (status : BitVec 4) (data : List Byte) (s : State) : Host.Outcome State Fault Refusal :=
  lift (bar4Complete status data) s

/-! ## Intake rings (R367 to R372) -/

/-- An enable is refused (R368, R373): event 0x8010 from the intake engine. -/
def ringRefused (kind : Byte) (ix : Nat) (w : W9) : W9 := raise0 0x8010 srcIntake ([kind, 0] ++ le 2 ix) w

/-- A ring of 2^n records of 64 B may be enabled at this base (R368). -/
def intakeValid (w : W9) (base log2 : Nat) : Bool :=
  decide (6 ≤ log2) && decide (log2 ≤ 12) && base % (64 * 2 ^ log2) == 0 && farAssigned w base (64 * 2 ^ log2)

/-- INTAKE_ENABLE (R368): a write of INTAKE_n_CTRL with ENABLE 1. -/
def intakeEnable (n : RingIx) (v : Word32) (w : W9) : W9 :=
  let off := Reg.intakeCtrl n.val
  let old := rd w off
  let log2 := if old.getLsbD 31 then fieldOf old 3 0 else fieldOf v 3 0
  let err := old.getLsbD 29 && !v.getLsbD 29
  if !hostAnswers w then w
  else if intakeValid w (rd64 w (Reg.intakeBase n.val)) log2 then
    let w := wr64 (Reg.intakeTaken n.val) 0 (wr off (BitVec.ofNat 32 (2 ^ 31 + b2n err * 2 ^ 29 + log2)) w)
    { w with host := { w.host with stamping := n :: w.host.stamping.filter (fun x => decide (x ≠ n)) } }
  else ringRefused 0 n.val (wr off (BitVec.ofNat 32 (2 ^ 29 + log2)) w)

/-- INTAKE_ENABLE. -/
def execIntakeEnable (n : RingIx) (value : Word32) (s : State) : Host.Outcome State Fault Refusal := lift (intakeEnable n value) s

/-- INTAKE_STAMPS_CLEARED (R368): every stamp of the ring is 0 and READY becomes 1. -/
def stampsCleared (n : RingIx) (w : W9) : W9 :=
  if w.host.stamping.contains n then
    let base := rd64 w (Reg.intakeBase n.val)
    let w := { w with host := { w.host with stamping := w.host.stamping.filter (fun x => decide (x ≠ n)) } }
    let w := forEach (List.range (2 ^ rdF w (Reg.intakeCtrl n.val) 3 0)) (fun i w => putFars (base + 64 * i + 60) [0, 0, 0, 0] w) w
    wrB (Reg.intakeCtrl n.val) 30 true w
  else w

/-- INTAKE_STAMPS_CLEARED. -/
def execIntakeStampsCleared (n : RingIx) (s : State) : Host.Outcome State Fault Refusal := lift (stampsCleared n) s

/-- INTAKE_DISABLE (R368): READY and CPL_WAIT become 0, TAKEN keeps its value; the write sets LOG2_ENTRIES only while the ring is
disabled. -/
def intakeDisable (n : RingIx) (v : Word32) (w : W9) : W9 :=
  let off := Reg.intakeCtrl n.val
  let old := rd w off
  let err := old.getLsbD 29 && !v.getLsbD 29
  let log2 := if old.getLsbD 31 then fieldOf old 3 0 else fieldOf v 3 0
  if !hostAnswers w then w
  else
    let w := wr off (BitVec.ofNat 32 (b2n err * 2 ^ 29 + log2)) w
    { w with host := { w.host with stamping := w.host.stamping.filter (fun x => decide (x ≠ n)) } }

/-- INTAKE_DISABLE. -/
def execIntakeDisable (n : RingIx) (value : Word32) (s : State) : Host.Outcome State Fault Refusal := lift (intakeDisable n value) s

/-- Entries of a completion ring that are written and unconsumed, or reserved (R371). -/
def cplUsed (w : W9) (n : RingIx) : Nat :=
  (rd w (Reg.cplWritten n.val) - rd w (Reg.cplConsumed n.val)).toNat + rdF w (Reg.cplReserved n.val) 10 0

/-- The completion ring is enabled and has a free entry. -/
def cplFree (w : W9) (n : RingIx) : Bool :=
  rdB w (Reg.cplCtrl n.val) 31 && decide (cplUsed w n < 2 ^ rdF w (Reg.cplCtrl n.val) 4 0)

/-- The record as intake passes it on (Table 10.3). -/
def parseRequest (n : RingIx) (b : List Byte) (arrival : Nat) : Request :=
  let at' (o k : Nat) : Nat := ofLe ((b.drop o).take k)
  { ring := n, kind := b.getD 0 0, cls := b.getD 1 0, flags := b.getD 2 0 &&& 7, stream := at' 4 2, tag := BitVec.ofNat 16 (at' 6 2),
    modelVer := BitVec.ofNat 32 (at' 8 4), adapter := BitVec.ofNat 16 (at' 12 2), topK := at' 14 2,
    promptAddr := BitVec.ofNat 64 (at' 16 8), promptLen := at' 24 4, maxNew := at' 28 4, limitFirst := at' 32 8,
    limitStep := at' 40 4, stopId := BitVec.ofNat 32 (at' 44 4), seed := BitVec.ofNat 64 (at' 48 8),
    temperature := BitVec.ofNat 16 (at' 56 2), topP := BitVec.ofNat 16 (at' 58 2), arrival := arrival }

/-- Take up to `k` records of ring `n` (R370, R371). -/
def takeRecords (n : RingIx) (arrival : Nat) : Nat → W9 → W9
  | 0, w => w
  | k + 1, w =>
    let taken := rd64 w (Reg.intakeTaken n.val)
    let a := rd64 w (Reg.intakeBase n.val) + 64 * (taken % 2 ^ rdF w (Reg.intakeCtrl n.val) 3 0)
    let b := farRead w a 64
    if ofLe (b.drop 60) ≠ taken % 0xFFFFFFFF + 1 then w
    else
      let isNew := decide (b.getD 0 0 ≠ 1)
      if isNew && !cplFree w n then wrB (Reg.intakeCtrl n.val) 28 true w
      else
        let w := farReadEffects (farQuarters w a 64) w
        let w := if isNew then
            wrF (Reg.cplReserved n.val) 10 0 (rdF w (Reg.cplReserved n.val) 10 0 + 1) (wrB (Reg.intakeCtrl n.val) 28 false w)
          else w
        let w := inc Reg.intakeFound 1 (wr64 (Reg.intakeTaken n.val) (taken + 1) w)
        takeRecords n arrival k { w with serve := { w.serve with admitQ := w.serve.admitQ ++ [parseRequest n b arrival] } }

/-- Write TAKEN back to host memory; 0 turns it off (R369). -/
def takenBack (n : RingIx) (w : W9) : W9 :=
  let a := rd64 w (Reg.intakeWb n.val)
  if a = 0 then w else putHost a (le 8 (rd64 w (Reg.intakeTaken n.val))) w

/-- Scan one ring. -/
def scanRing (arrival : Nat) (n : RingIx) (w : W9) : W9 :=
  let c := rd w (Reg.intakeCtrl n.val)
  if c.getLsbD 31 && c.getLsbD 30 then
    let before := rd64 w (Reg.intakeTaken n.val)
    let w := takeRecords n arrival 8 w
    if rd64 w (Reg.intakeTaken n.val) = before then w else onlyIf w.host.linkUp (takenBack n) w
  else w

/-- INTAKE_SCAN (R370): the enabled rings in ascending order, at most 8 records each. -/
def intakeScan (w : W9) : W9 :=
  if hostAnswers w && rdB w Reg.hostifCtrl 31 && !w.host.d3hot then
    let t := now w
    forEach allRings (scanRing t) w
  else w

/-- INTAKE_SCAN. -/
def execIntakeScan (s : State) : Host.Outcome State Fault Refusal := lift intakeScan s

/-! ## Rings in host memory (R373 to R379) -/

/-- Where a ring's registers lie: base, control, CONSUMED, WRITTEN, and its entry size. -/
def ringRegs : HostRing → Nat × Nat × Nat × Nat × Nat
  | .token s => (Reg.outAddr s.val, Reg.outCtrl s.val, Reg.outConsumed s.val, Reg.outWritten s.val, 8)
  | .completion n => (Reg.cplBase n.val, Reg.cplCtrl n.val, Reg.cplConsumed n.val, Reg.cplWritten n.val, 32)
  | .event => (Reg.evtBase, Reg.evtCtrl, Reg.evtConsumed, Reg.evtWritten, 32)

/-- A ring's base address. -/
def hrBase (w : W9) (r : HostRing) : Nat := rd64 w (ringRegs r).1
/-- A ring's control word. -/
def hrCtrl (w : W9) (r : HostRing) : Word32 := rd w (ringRegs r).2.1
/-- Entries of a ring. -/
def hrEntries (w : W9) (r : HostRing) : Nat := 2 ^ fieldOf (hrCtrl w r) 4 0
/-- WRITTEN. -/
def hrWritten (w : W9) (r : HostRing) : Word32 := rd w (ringRegs r).2.2.2.1
/-- Entries that may be written now (R373); in D3hot every ring counts as disabled (R381). -/
def hrRoom (w : W9) (r : HostRing) : Nat :=
  if (hrCtrl w r).getLsbD 31 && !w.host.d3hot then hrEntries w r - (hrWritten w r - rd w (ringRegs r).2.2.1).toNat else 0

/-- The least and largest LOG2_ENTRIES and the kind and index of event 0x8010. -/
def hrLimits : HostRing → Nat × Byte × Nat
  | .token s => (16, 2, s.val)
  | .completion n => (12, 1, n.val)
  | .event => (16, 3, 0)

/-- A ring may be enabled: the size in range and the base aligned to the ring's size in bytes; the event ring not in safe mode
(R373, R513). -/
def hrValid (w : W9) (r : HostRing) (log2 : Nat) : Bool :=
  decide (6 ≤ log2) && decide (log2 ≤ (hrLimits r).1) && hrBase w r % ((ringRegs r).2.2.2.2 * 2 ^ log2) == 0 && !safeMode w

/-- HOST_RING_ENABLE (R373): a write of a ring's control register with ENABLE 1. -/
def hostRingEnable (r : HostRing) (v : Word32) (w : W9) : W9 :=
  let off := (ringRegs r).2.1
  let old := rd w off
  let isEvt := decide (r = .event)
  let err := !isEvt && old.getLsbD 30 && !v.getLsbD 30
  let keep : Word32 := if isEvt then 0x00FF0000 else 0x00FF8000
  let errBit : Word32 := if err then 0x40000000 else 0
  if !hostAnswers w then w
  else if old.getLsbD 31 then wr off ((old &&& 0x8000001F) ||| (v &&& keep) ||| errBit) w
  else if hrValid w r (fieldOf v 4 0) then
    wr (ringRegs r).2.2.1 0 (wr (ringRegs r).2.2.2.1 0 (wr off ((v &&& (keep ||| 0x8000001F)) ||| errBit) w))
  else
    ringRefused (hrLimits r).2.1 (hrLimits r).2.2
      (wr off ((v &&& (keep ||| 0x1F)) ||| (if isEvt then 0 else 0x40000000)) w)

/-- HOST_RING_ENABLE. -/
def execHostRingEnable (r : HostRing) (value : Word32) (s : State) : Host.Outcome State Fault Refusal :=
  lift (hostRingEnable r value) s

/-- A token record's 8 bytes (Table 10.4). -/
def tokenBytes (x : TokenRec) (phase : Bool) : List Byte :=
  le 4 x.token.toNat ++
  le 4 (b2n phase * 2 ^ 31 + b2n x.spec * 2 ^ 23 + b2n x.final * 2 ^ 22 + b2n x.late * 2 ^ 21 + x.position % 2 ^ 21)

/-- A completion record's 32 bytes (Table 10.5). -/
def cplBytes (x : CplRec) (phase : Bool) : List Byte :=
  le 2 x.stream ++ le 2 x.tag.toNat ++ [x.status, x.flags, x.cls, BitVec.ofNat 8 (b2n phase * 0x80)] ++ le 4 x.generated ++
  le 4 x.outEnd.toNat ++ le 8 x.arrival ++ le 8 x.endTime

/-- An event record's 32 bytes (Table 0.6). -/
def evtBytes (x : EventRec) : List Byte :=
  le 2 x.code.toNat ++ le 2 x.source.toNat ++ le 2 x.classStream.toNat ++ le 2 x.seq.toNat ++ le 8 x.time ++ x.detail

/-- The waiting entries of a ring, as bytes for a phase, and the device time the oldest began to wait. -/
def hrWaiting (w : W9) : HostRing → List (Bool → List Byte)
  | .token s => (smGet (fun _ => []) w.host.backlog s.val).map tokenBytes
  | .completion n => (smGet (fun _ => []) w.host.cplWait n.val).map cplBytes
  | .event => w.host.evtWait.map (fun e _ => evtBytes e)

/-- Since when the oldest entry waits. -/
def hrSince (w : W9) : HostRing → Option Nat
  | .token s => (smGet (fun _ => []) w.host.backlog s.val).head?.map (·.since)
  | .completion n => (smGet (fun _ => []) w.host.cplWait n.val).head?.map (·.since)
  | .event => w.host.evtWait.head?.map (·.time)

/-- Write entries at WRITTEN, each with its lap's PHASE (R373). -/
def putEntries (r : HostRing) : List (Bool → List Byte) → W9 → W9
  | [], w => w
  | e :: rest, w =>
    let n := (hrWritten w r).toNat
    let k := hrEntries w r
    let w := putHost (hrBase w r + n % k * (ringRegs r).2.2.2.2) (e (n / k % 2 == 0)) w
    putEntries r rest (wr (ringRegs r).2.2.2.1 (hrWritten w r + 1) w)

/-- A completion record of a stream that holds a reservation releases it (R371). -/
def releaseEntries (n : RingIx) (l : List CplRec) (w : W9) : W9 :=
  let k := (l.filter (fun x => x.releases)).length
  wrF (Reg.cplReserved n.val) 10 0 (rdF w (Reg.cplReserved n.val) 10 0 - k) w

/-- The first `n` waiting entries are gone. -/
def dropWaiting (r : HostRing) (n : Nat) (w : W9) : W9 := match r with
  | .token s => { w with host := { w.host with backlog := smMod (fun _ => []) w.host.backlog s.val (fun l => l.drop n) } }
  | .completion k =>
    let gone := (smGet (fun _ => []) w.host.cplWait k.val).take n
    let w := { w with host := { w.host with cplWait := smMod (fun _ => []) w.host.cplWait k.val (fun l => l.drop n) } }
    releaseEntries k gone w
  | .event => { w with host := { w.host with evtWait := w.host.evtWait.drop n } }

/-- What follows a batch: EVT_WRITTEN is written back, and the ring's vector falls due (R377, R379). -/
def afterBatch (r : HostRing) (w : W9) : W9 :=
  let c := hrCtrl w r
  let v : Fin 256 := Fin.ofNat 256 (fieldOf c 23 16)
  if r = .event then
    let a := rd64 w Reg.evtWb
    vectorDue v (if a = 0 then w else putHost a (le 4 (rd w Reg.evtWritten).toNat) w)
  else if c.getLsbD 15 then vectorDue v w else w

/-- The host port can write to host memory: the link is up and the function is in D0 (R378, R380, R381). -/
def canWrite (w : W9) : Bool := hostAnswers w && w.host.linkUp && !w.host.d3hot

/-- One batch: as many waiting entries as the ring has room for. -/
def ringBatch (r : HostRing) (w : W9) : W9 :=
  let es := (hrWaiting w r).take (hrRoom w r)
  if !canWrite w || es.isEmpty then w else afterBatch r (dropWaiting r es.length (putEntries r es w))

/-- A completion record waits behind this ring's token records: its stream is ENDING (R378). -/
def cplBehind (w : W9) : HostRing → Bool
  | .token s => decide ((streamOf w s).state = .ending)
  | _ => false

/-- A condition of R378 holds for the ring. -/
def batchDue (w : W9) (r : HostRing) : Bool := match hrSince w r with
  | some t => decide (t + rdF w Reg.coalNs 15 0 ≤ now w) ||
      decide (512 ≤ (hrWaiting w r).length * (ringRegs r).2.2.2.2) || cplBehind w r
  | none => false

/-- RING_BATCH_WRITE (R378). -/
def ringBatchWrite (r : HostRing) (w : W9) : W9 := if batchDue w r then ringBatch r w else w

/-- RING_BATCH_WRITE. -/
def execRingBatchWrite (r : HostRing) (s : State) : Host.Outcome State Fault Refusal := lift (ringBatchWrite r) s

/-- Token records of slot `s` beyond what its ring has room for: OUT_s_BACKLOG (R375). -/
def backlogCount (w : W9) (s : StreamIx) : Nat := (smGet (fun _ => []) w.host.backlog s.val).length - hrRoom w (.token s)

/-- A token record reaches its ring or the backlog of 64, or is discarded (R375, TOKEN_DROP). -/
def pushToken (s : StreamIx) (x : TokenRec) (w : W9) : W9 :=
  let n := (smGet (fun _ => []) w.host.backlog s.val).length
  if n < hrRoom w (.token s) + 64 then
    { w with host := { w.host with backlog := smMod (fun _ => []) w.host.backlog s.val (fun l => l ++ [x]) } }
  else
    let w := hostErr 4 (inc Reg.tokenDrops 1 (inc (Reg.outDropped s.val) 1 w))
    raiseS 0x8020 srcHost s (le 4 x.position) (modStream s (fun t => { t with tokensLost := true }) w)

/-- A completion record waits for ring `n`. -/
def pushCpl (n : RingIx) (x : CplRec) (w : W9) : W9 :=
  { w with host := { w.host with cplWait := smMod (fun _ => []) w.host.cplWait n.val (fun l => l ++ [x]) } }

/-! ## MSI-X, the link and the function (R358, R379 to R381, R386) -/

/-- The last time a vector sent, one more than the device time; 0 for never. -/
def vectorSentAt (w : W9) (v : Fin 256) : Nat := smGet (fun _ => 0) w.host.vectorLast v.val

/-- IRQ_MIN_NS has passed since the vector's last message. -/
def vectorReady (w : W9) (v : Fin 256) : Bool :=
  decide (vectorSentAt w v = 0) || decide (vectorSentAt w v - 1 + rdF w Reg.irqMinNs 19 0 ≤ now w)

/-- MSIX_SEND (R379): a message that is due is sent, or sets its pending bit where the vector is masked. -/
def msixSend (v : Fin 256) (w : W9) : W9 :=
  if w.host.vectorDue.contains v && canWrite w && w.host.msixOn then
    let gone := { w with host := { w.host with vectorDue := w.host.vectorDue.filter (fun x => decide (x ≠ v)) } }
    if rdB w (Reg.msixCtl v.val) 0 then wrB (Reg.msixPba (v.val / 32)) (v.val % 32) true gone
    else if vectorReady w v then
      let a := (rd w (Reg.msixAddrLo v.val)).toNat + 2 ^ 32 * (rd w (Reg.msixAddrHi v.val)).toNat
      let w := putHost a (le 4 (rd w (Reg.msixData v.val)).toNat) gone
      let t := now w
      { w with host := { w.host with
        vectorLast := smPut (fun _ => 0) w.host.vectorLast v.val (t + 1)
        msixSent := smMod (fun _ => 0) w.host.msixSent v.val (fun n => n + 1) } }
    else w
  else w

/-- MSIX_SEND. -/
def execMsixSend (vector : Fin 256) (s : State) : Host.Outcome State Fault Refusal := lift (msixSend vector) s

/-- A vector whose mask clears sends its pending message (PCI Express). -/
def unmaskVector (v : Fin 256) (w : W9) : W9 :=
  if rdB w (Reg.msixPba (v.val / 32)) (v.val % 32) && !rdB w (Reg.msixCtl v.val) 0 then
    vectorDue v (wrB (Reg.msixPba (v.val / 32)) (v.val % 32) false w)
  else w

/-- LINK_STATUS of a rate and width (Table 10.9). -/
def linkWord (rate width : Nat) : Word32 :=
  if rate = 0 then 0 else BitVec.ofNat 32 (2 ^ 31 + b2n (decide (6 ≤ rate)) * 2 ^ 30 + rate * 2 ^ 16 + width * 2 ^ 8)

/-- The link's state changes: LINK_STATUS and event 0x8030 (R358). -/
def setLink (rate width : Nat) (w : W9) : W9 :=
  let v := linkWord rate width
  let old := rd w Reg.linkStatus
  let w := wr Reg.linkStatus v { w with host := { w.host with linkUp := decide (rate ≠ 0) } }
  if v = old then w
  else raise0 0x8030 srcHost [BitVec.ofNat 8 rate, BitVec.ofNat 8 (if rate = 0 then 0 else width), BitVec.ofNat 8 (b2n (decide (rate ≠ 0)))] w

/-- LINK_TRAINED (R358, R498): the host port trains once boot has reached step 9, or in safe mode. MSI-X is the host's to enable:
DESIGN CHOICE (log entry 19): a trained link has it enabled. Write-backs held while the link was down go out. -/
def linkTrained (rate width : Nat) (w : W9) : W9 :=
  if hostAnswers w then
    let was := w.host.linkUp
    let w := setLink rate width w
    let w := { w with host := { w.host with msixOn := decide (rate ≠ 0) } }
    onlyIf (!was && decide (rate ≠ 0)) (forEach allRings (fun n w => onlyIf (rdB w (Reg.intakeCtrl n.val) 31) (takenBack n) w)) w
  else w

/-- LINK_TRAINED. -/
def execLinkTrained (rate : Fin 8) (width : Fin 17) (s : State) : Host.Outcome State Fault Refusal :=
  lift (linkTrained rate.val width.val) s

/-- LINK_DOWN (R380): the link and configuration state is reset; reads in flight are lost; the block's registers keep their values. -/
def linkDown (w : W9) : W9 :=
  let w := setLink 0 0 w
  { w with host := { w.host with bar2Waiting := [], bar4 := [], msixOn := false, d3hot := false } }

/-- LINK_DOWN. -/
def execLinkDown (s : State) : Host.Outcome State Fault Refusal := lift linkDown s

/-- A dword of the intake and output block that an FLR resets: all but CPL_n_RESERVED, and LINK_STATUS, which reports the link.
DEDUCED (log entry 20). -/
def flrResets (off : Nat) : Bool :=
  decide (0x100000 ≤ off) && decide (off < 0x110000) && decide (off ≠ Reg.linkStatus) &&
    !((List.range 16).any (fun n => off == Reg.cplReserved n))

/-- What a function-level reset does (R381). -/
def functionReset (w : W9) : W9 :=
  let w := { w with bar0 := w.bar0.filter (fun e => !flrResets e.1) }
  { w with host := { w.host with
    backlog := [], evtWait := [], stamping := [], vectorDue := [], vectorLast := [], bar2Waiting := [], bar4 := [],
    msixOn := false, d3hot := false } }

/-- FUNCTION_LEVEL_RESET (R381). -/
def functionLevelReset (w : W9) : W9 := if hostAnswers w then functionReset w else w

/-- FUNCTION_LEVEL_RESET. -/
def execFunctionLevelReset (s : State) : Host.Outcome State Fault Refusal := lift functionLevelReset s

/-- D3HOT_ENTRY (R381): scans and memory writes stop. -/
def d3hotEntry (w : W9) : W9 := if hostAnswers w then { w with host := { w.host with d3hot := true } } else w

/-- D3HOT_ENTRY. -/
def execD3hotEntry (s : State) : Host.Outcome State Fault Refusal := lift d3hotEntry s

/-- AER_ERROR_LOGGED (R386). -/
def aerErrorLogged (u c : Word32) (w : W9) : W9 := raise0 0x8031 srcHost (le 4 u.toNat ++ le 4 c.toNat) w

/-- AER_ERROR_LOGGED. -/
def execAerErrorLogged (uncorrectable correctable : Word32) (s : State) : Host.Outcome State Fault Refusal :=
  lift (aerErrorLogged uncorrectable correctable) s

/-- The configuration header's identity (R357): Device ID, class code, and Revision ID from DEVICE_ID[11:4]. -/
def configIdentity (w : W9) : BitVec 16 × BitVec 16 × Nat × Byte :=
  (Config.vendorId, 0x0E39, 0x120000, if isA1 w then 0x11 else 0x20)

end Sys2Proof.Machine
end

