-- ==== Sys2Proof/Machine/Msg.lean ====
section
/-! DEFINITION. Messages between devices as the rest of the machine sends them (R391 to R397), the pair beat (R405) and the halves of a
pair (R403). -/

namespace Sys2Proof.Machine

open Sys2Proof

/-! ## Ports -/

/-- STATE of PORT_STATUS: 0 DOWN, 1 TRAINING, 2 UP, 3 RESETTING. -/
def portState (w : W9) (p : PortIx) : Nat := rdF w (Reg.portStatus p.val) 31 30
/-- A port is UP. -/
def portUp (w : W9) (p : PortIx) : Bool := portState w p == 2
/-- A port is enabled. -/
def portEnabled (w : W9) (p : PortIx) : Bool := rdB w (Reg.portCtrl p.val) 31
/-- ROLE: 0 OFF, 1 FABRIC, 2 TWIN. -/
def portRole (w : W9) (p : PortIx) : Nat := rdF w (Reg.portCtrl p.val) 30 29
/-- A twin port. -/
def isTwinPort (w : W9) (p : PortIx) : Bool := portRole w p == 2
/-- The UP twin ports in ascending order. -/
def twinPorts (w : W9) : List PortIx := allPorts.filter (fun p => isTwinPort w p && portUp w p)

/-- The data flits of a message (R393). -/
def dataFlits : Msg → Nat
  | .transfer x => cdiv x.data.length 256
  | .reply _ _ _ _ d => cdiv d.length 256
  | _ => 0

/-- Send a message on port `p` that was first sent at `first`: it takes a sequenced control flit, which the replay buffer keeps until it is acknowledged (R396), and its
data flits count against the receiver's credit (R397). -/
def sendMsgAt (first : Nat) (p : PortIx) (m : Msg) (w : W9) : W9 :=
  let t := now w
  let n := dataFlits m
  let w := modPort p (fun s => { s with
    replay := s.replay ++ [⟨s.seqTx, m, first, t, 0⟩], seqTx := s.seqTx + 1, txData := s.txData + BitVec.ofNat 16 n }) w
  inc (Reg.txDataFlits p.val) n w

/-- Send a message on port `p` for the first time. -/
def sendMsg (p : PortIx) (m : Msg) (w : W9) : W9 := sendMsgAt (now w) p m w

/-- Send a pair message once. DESIGN CHOICE (log entry 21): on the lowest UP twin port. -/
def sendTwin (m : Msg) (w : W9) : W9 := match twinPorts w with
  | p :: _ => sendMsg p m w
  | [] => w

/-- Send a pair message on every UP twin port (R404, R417 to R419). -/
def sendTwins (m : Msg) (w : W9) : W9 := forEach (twinPorts w) (fun p w => sendMsg p m w) w

/-! ## The pair (R403 to R407, R423) -/

/-- PAIR_CTRL.EN. -/
def pairEn (w : W9) : Bool := rdB w Reg.pairCtrl 31
/-- Side B. -/
def sideB (w : W9) : Bool := rdB w Reg.pairCtrl 30
/-- STATE of PAIR_STATUS: 0 SOLO, 1 SEEKING, 2 PAIRED, 3 PARTNER_FAILED. -/
def pairState (w : W9) : Nat := rdF w Reg.pairStatus 31 30

/-- A stream slot lies in this W9's own half (Table 11.6); with EN 0 every slot does. -/
def ownSlot (w : W9) (s : StreamIx) : Bool := !pairEn w || (decide (512 ≤ s.val) == sideB w)

/-- T_b: BEAT_CYCLES in ns (R266). -/
def beatNs (w : W9) : Nat := rdF w Reg.beatCycles 19 0

/-- T_lead in pair beats (R407). -/
def tLead (w : W9) : Nat := max 64 (cdiv 100000 (beatNs w))

/-- The pair beat while PAIRED, BEAT_COUNT otherwise (R405). -/
def pairBeat (w : W9) : Nat :=
  if paired w && sideB w then (rd64 w Reg.beatCount + 2 ^ 64 - rd64 w Reg.pairBeatOfs) % 2 ^ 64 else rd64 w Reg.beatCount

/-- N, the pipeline stages (PIPE_SHAPE). -/
def stagesN (w : W9) : Nat := rdF w Reg.pipeShape 15 0
/-- ROWS_MAX. -/
def rowsMax (w : W9) : Nat := rdF w Reg.pipeShape 23 16

end Sys2Proof.Machine
end

