-- ==== Sys2Proof/Machine/Streams.lean ====
section
/-! DEFINITION. Stream records and token logs in far memory (spec/07_serving.md R248, R249, R584; R228), and their mirroring (R408). -/

namespace Sys2Proof.Machine

open Sys2Proof

/-- The far-memory layout of the rung in force. -/
def farOf (w : W9) : Option FarLayout := (rungNow w).map (fun g => g.far)

/-- The code of a stream state (Table 7.1). -/
def stateCode : StreamState → Nat
  | .free => 0
  | .admitting => 1
  | .prefill => 2
  | .decode => 3
  | .held => 4
  | .parked => 5
  | .ending => 6
  | .quarantined => 7

/-- Where slot `s`'s token log lies (R584). -/
def logBase (f : FarLayout) (s : StreamIx) : Nat := f.tokenLogBase.toNat + 0x800000 * s.val
/-- Where slot `s`'s block directory lies (R584). -/
def dirBase (f : FarLayout) (s : StreamIx) : Nat := f.directoryBase.toNat + 0x40000 * s.val
/-- Where slot `s`'s stream record lies (R249). -/
def recordBase (f : FarLayout) (s : StreamIx) : Nat := f.streamTable.toNat + 256 * s.val

/-- FLAGS of a stream record (Table 7.2). -/
def recordFlags (t : Stream) : Nat :=
  t.cls.toNat + 4 * b2n t.spec + 8 * b2n t.lookup + 16 * b2n t.insert + 32 * b2n t.shadow + 64 * b2n t.lateSeen

/-- A stream record's 256 bytes (Table 7.2). -/
def recordBytes (f : FarLayout) (s : StreamIx) (t : Stream) : List Byte :=
  le 2 s.val ++ le 1 (stateCode t.state) ++ le 1 (recordFlags t) ++ le 4 t.modelVer.toNat ++
  le 2 (match t.adapterSlot with | some a => a.val | none => 0xFFFF) ++ le 2 t.adapterHandle.toNat ++ le 4 t.adapterVer.toNat ++
  le 2 t.reqTag.toNat ++ le 2 (match t.phase with | some p => p | none => 0xFFFF) ++ le 4 t.promptLen ++ le 4 t.maxNew ++
  le 4 t.length ++ le 4 t.generated ++ le 4 t.stopId.toNat ++ le 8 (logBase f s) ++ le 8 (dirBase f s) ++ le 8 t.arrival ++
  le 8 t.deadlineFirst ++ le 4 t.deadlineStep ++ le 1 t.endStatus.toNat ++ [0, 0, 0] ++ le 8 t.lastDelivery ++ le 8 t.seed.toNat ++
  le 2 t.temperature.toNat ++ le 2 t.topP.toNat ++ le 4 t.topK ++ le 8 t.steps ++ le 4 t.rowsRun ++ le 4 t.rowsAccepted ++
  List.replicate 136 0

/-- The state of a code. -/
def codeState (n : Nat) : StreamState :=
  ([.free, .admitting, .prefill, .decode, .held, .parked, .ending, .quarantined] : List StreamState).getD (n % 8) .free

/-- A stream as its record in far memory spells it (Table 7.2). A record does not say in which state a PARKED stream was parked:
it was DECODE once L had reached P − 1. -/
def parseRecord (b : List Byte) : Stream :=
  let at' (o k : Nat) : Nat := ofLe ((b.drop o).take k)
  let f := at' 3 1
  let st := codeState (at' 2 1)
  { Stream.init with
    state := st, cls := BitVec.ofNat 2 f, spec := bitAt f 2, lookup := bitAt f 3, insert := bitAt f 4, shadow := bitAt f 5,
    lateSeen := bitAt f 6, modelVer := BitVec.ofNat 32 (at' 4 4),
    adapterSlot := (if h : at' 8 2 < 64 then some ⟨at' 8 2, h⟩ else none), adapterHandle := BitVec.ofNat 16 (at' 10 2),
    adapterVer := BitVec.ofNat 32 (at' 12 4), reqTag := BitVec.ofNat 16 (at' 16 2),
    phase := (if at' 18 2 = 0xFFFF then none else some (at' 18 2)), promptLen := at' 20 4, maxNew := at' 24 4, length := at' 28 4,
    generated := at' 32 4, stopId := BitVec.ofNat 32 (at' 36 4), arrival := at' 56 8, deadlineFirst := at' 64 8,
    deadlineStep := at' 72 4, endStatus := BitVec.ofNat 8 (at' 76 1), lastDelivery := at' 80 8, seed := BitVec.ofNat 64 (at' 88 8),
    temperature := BitVec.ofNat 16 (at' 96 2), topP := BitVec.ofNat 16 (at' 98 2), topK := at' 100 4, steps := at' 104 8,
    rowsRun := at' 112 4, rowsAccepted := at' 116 4,
    parkedIn := (if st = .parked then (if at' 20 4 ≤ at' 28 4 + 1 then .decode else .prefill) else .free) }

/-- The stream that slot `s`'s record in far memory describes. -/
def recordStream (w : W9) (s : StreamIx) : Stream := match farOf w with
  | some f => parseRecord (farBytes w (recordBase f s) 256)
  | none => Stream.init

/-- Bellwether writes the stream record of slot `s` (R249). -/
def syncRecord (s : StreamIx) (w : W9) : W9 := match farOf w with
  | some f => writeFar (recordBase f s) (recordBytes f s (streamOf w s)) w
  | none => w

/-- A TRANSFER that the W9 originates on the twin ports: OP 0 with a PURPOSE (R401). DESIGN CHOICE (log entry 22): DEST is 0xFFFF. -/
def twinTransfer (w : W9) (purpose : BitVec 8) (addr : Nat) (stream : Nat) (data : List Byte) : Msg :=
  .transfer { op := 0, purpose := purpose, signal := none, dest := 0xFFFF, src := BitVec.ofNat 16 (rdF w Reg.deviceAddr 15 0),
              address := BitVec.ofNat 64 addr, length := data.length, xferSeq := (portOf w 6).xferSeq, stream := BitVec.ofNat 16 stream,
              tainted := false, data := data }

/-- Send far bytes to the same addresses of the twin, at most 1 KiB to a TRANSFER (R400, R408, R411). -/
def sendFar (purpose : BitVec 8) (stream : Nat) (addr n : Nat) (w : W9) : W9 :=
  forEach (List.range (cdiv n 1024)) (fun i w =>
    let bs := farBytes w (addr + 1024 * i) (min 1024 (n - 1024 * i))
    let m := twinTransfer w purpose (addr + 1024 * i) stream bs
    sendTwin m (modPort 6 (fun s => { s with xferSeq := s.xferSeq + 1 }) w)) w

/-- The record goes to the twin (R408). -/
def mirrorRecord (s : StreamIx) (w : W9) : W9 := match farOf w with
  | some f => if mirrors w s then sendFar 2 s.val (recordBase f s) 256 w else w
  | none => w

/-- Change slot `s` and its record; a change of state is mirrored (R249, R408). -/
def putStream (s : StreamIx) (g : Stream → Stream) (w : W9) : W9 :=
  let old := (streamOf w s).state
  let w := syncRecord s (modStream s g w)
  onlyIf (decide ((streamOf w s).state ≠ old)) (mirrorRecord s) w

/-- Move slot `s` to a state. -/
def setState (s : StreamIx) (x : StreamState) (w : W9) : W9 := putStream s (fun t => { t with state := x }) w

/-- Write token IDs to the token log from position `pos` (R228). -/
def writeLog (s : StreamIx) (pos : Nat) (toks : List Word32) (w : W9) : W9 := match farOf w with
  | some f => putFars (logBase f s + 4 * pos) (toks.flatMap (fun x => le 4 x.toNat)) w
  | none => w

/-- Words of 4 bytes. -/
def wordsFrom : Nat → List Byte → List Word32
  | 0, _ => []
  | n + 1, b => BitVec.ofNat 32 (ofLe (b.take 4)) :: wordsFrom n (b.drop 4)

/-- `n` token IDs of the token log from position `pos`. -/
def logTokens (w : W9) (s : StreamIx) (pos n : Nat) : List Word32 := match farOf w with
  | some f => wordsFrom n (farBytes w (logBase f s + 4 * pos) (4 * n))
  | none => []

/-- A slot of the stream is in the pipeline (R256). -/
def inPipe (w : W9) (s : StreamIx) : Bool := w.serve.pipe.any (fun x => match x with | some y => y.stream == s | none => false)
/-- A chunk of the stream runs. -/
def chunkRuns (w : W9) (s : StreamIx) : Bool :=
  w.serve.groups.any (fun g => match g.running with | some r => r.1.stream == s | none => false)
/-- A hand-over of the stream awaits confirmation (R530). -/
def awaiting (w : W9) (s : StreamIx) : Bool := w.serve.handOvers.any (fun h => h.slot.stream == s)

/-- The chain of drafted tokens of a stream: the entry at index k stands at position L + 1 + k (R274). -/
def chainOf (w : W9) (s : StreamIx) : List Word32 := smGet (fun _ => []) w.serve.chains s.val
/-- Set it. -/
def setChain (s : StreamIx) (l : List Word32) (w : W9) : W9 :=
  { w with serve := { w.serve with chains := smPut (fun _ => []) w.serve.chains s.val l } }

end Sys2Proof.Machine
end

