-- ==== Sys2Proof/Machine/Record.lean ====
section
/-! DEFINITION. The recovery region (spec/15_faults_recovery.md R540, R541): header copies, adapter table, flight log. -/

namespace Sys2Proof.Machine

open Sys2Proof

/-- RECOVERY_ADDR; 0 while no image is loaded. -/
def recoveryAddr (w : W9) : Nat := rd64 w Reg.recoveryAddr

/-- What a header copy carries (Table 15.4). -/
structure RecHeader where
  rseq : Nat
  digest : List Byte
  rung : Nat
  modelVer : Word32
  wset : Nat
  paired : Bool
  side : Bool
deriving DecidableEq, Repr

/-- The bytes of a header copy before its CRC. DESIGN CHOICE (log entry 25): the spec lists the fields and gives no widths. -/
def headerBody (h : RecHeader) : List Byte :=
  le 4 0x31564352 ++ le 4 h.rseq ++ h.digest ++ le 4 h.rung ++ le 4 h.modelVer.toNat ++ le 8 h.wset ++
  le 4 (b2n h.paired + 2 * b2n h.side)

/-- A header copy with its CRC. -/
def headerCopy (h : RecHeader) : List Byte := headerBody h ++ le 4 (crc32 (headerBody h))

/-- A valid header copy in far memory: its CRC and MAGIC agree (R540). -/
def readHeader (w : W9) (a : Nat) : Option RecHeader :=
  let b := farRead w a 64
  let at' (o k : Nat) : Nat := ofLe ((b.drop o).take k)
  if at' 60 4 = crc32 (b.take 60) ∧ at' 0 4 = 0x31564352 then
    some ⟨at' 4 4, (b.drop 8).take 32, at' 40 4, BitVec.ofNat 32 (at' 44 4), at' 48 8, bitAt (at' 56 4) 0, bitAt (at' 56 4) 1⟩
  else none

/-- The two copies. -/
def headerCopies (w : W9) : Option RecHeader × Option RecHeader :=
  (readHeader w (recoveryAddr w), readHeader w (recoveryAddr w + 0x1000))

/-- The copy recovery uses: valid, with the higher RSEQ (R540). -/
def bestHeader (w : W9) : Option RecHeader := match headerCopies w with
  | (some a, some b) => if a.rseq < b.rseq then some b else some a
  | (some a, none) => some a
  | (none, b) => b

/-- Bellwether writes the header to the older copy with the next RSEQ (R540). -/
def writeHeader (w : W9) : W9 := match w.img with
  | none => w
  | some im =>
    let c := headerCopies w
    let old := match c.1, c.2 with
      | some a, some b => decide (b.rseq < a.rseq)
      | some _, none => true
      | none, _ => false
    let n := match bestHeader w with | some h => h.rseq + 1 | none => 1
    let h : RecHeader := ⟨n, im.bodyDigest, rdF w Reg.imgStatus 23 16, rd w Reg.modelVer, rd64 w Reg.wsetActive, paired w, sideB w⟩
    writeFar (recoveryAddr w + (if old then 0x1000 else 0)) (headerCopy h) w

/-- An entry of the adapter table (R540). DESIGN CHOICE (log entry 25): state 1 B, a reserved byte, handle 2 B, version 4 B, address
8 B, the rest 0. -/
def adapterEntry (w : W9) (n : Fin 64) : List Byte :=
  let id := rd w (Reg.adapterId n.val)
  le 2 (fieldOf id 1 0) ++ le 2 (fieldOf id 31 16) ++ le 4 (rd w (Reg.adapterVer n.val)).toNat ++
  le 8 (smGet (fun _ => (0 : FAddr)) w.wt.adapterAddr n.val).toNat ++ List.replicate 16 0

/-- Bellwether writes the adapter table at an adapter state change (R540). -/
def writeAdapterTable (w : W9) : W9 :=
  if w.img.isNone then w
  else writeFar (recoveryAddr w + 0x2000) ((List.finRange 64).flatMap (adapterEntry w)) w

/-- The flight log's bytes (Table 15.4): BEAT_COUNT, the stream of each stage and of each group's running chunk. -/
def flightBytes (w : W9) : List Byte :=
  let code (o : Option StreamIx) : List Byte := le 2 (match o with | some s => s.val | none => 0xFFFF)
  le 8 (rd64 w Reg.beatCount) ++
  w.serve.pipe.flatMap (fun x => code (x.map (·.stream))) ++
  (List.range 16).flatMap (fun i => code ((w.serve.groups[i]?).bind (fun g => g.running.map (fun r => r.1.stream))))

/-- The flight-log entry is written and accepted (R541). -/
def writeFlight (w : W9) : W9 := if w.img.isNone then w else writeFar (recoveryAddr w + 0x10000) (flightBytes w) w

/-- The streams that the flight log names, each once, in ascending order (R541). -/
def flightStreams (w : W9) (stages : Nat) : List StreamIx :=
  let b := farRead w (recoveryAddr w + 0x10008) (2 * (stages + 16))
  let ns := (List.range (stages + 16)).map (fun i => ofLe ((b.drop (2 * i)).take 2))
  allStreams.filter (fun s => ns.contains s.val)

end Sys2Proof.Machine
end

