-- ==== Sys2Proof/Machine/Sets.lean ====
section
/-! DEFINITION. Weight sets and adapter images (spec/08_weights_tiers.md R286, R298, R299, R301): the header and manifest as bytes spell
them, far ranges that meet, and the load items the steward makes (R306, R308). -/

namespace Sys2Proof.Machine

open Sys2Proof

/-- A manifest entry's 64 bytes (Table 8.3). -/
def parseEntry (b : List Byte) : ManifestEntry :=
  let at' (o k : Nat) : Nat := ofLe ((b.drop o).take k)
  { layer := at' 0 2, tier := at' 2 1, offset := at' 8 8, length := at' 16 8, digest := (b.drop 24).take 32 }

/-- A set header with its manifest (Table 8.2). -/
def parseSet (b : List Byte) : SetHeader :=
  let at' (o k : Nat) : Nat := ofLe ((b.drop o).take k)
  let n := at' 24 4
  { magic := BitVec.ofNat 32 (at' 0 4), kind := BitVec.ofNat 8 (at' 4 1), modelVer := BitVec.ofNat 32 (at' 8 4)
    adapterVer := BitVec.ofNat 32 (at' 12 4), mapId := BitVec.ofNat 64 (at' 16 8), entries := n, totalLen := at' 32 8
    manifest := (List.range (min n 512)).map (fun i => parseEntry ((b.drop (64 + 64 * i)).take 64)) }

/-- Bytes of a header with its manifest. -/
def headerLen (n : Nat) : Nat := 64 + 64 * min n 512

/-- The header of a set in far memory. -/
def farSet (w : W9) (a : Nat) : SetHeader :=
  let n := ofLe (farRead w (a + 24) 4)
  parseSet (farRead w a (headerLen n))

/-- The effects of that read. -/
def farSetEffects (a : Nat) (w : W9) : W9 :=
  farReadEffects (farQuarters w a (headerLen (ofLe (farRead w (a + 24) 4)))) w

/-- A header that the load engine turns away (R301). -/
def headerBad (w : W9) (h : SetHeader) : Bool :=
  decide (h.magic ≠ 0x57454931) || decide (1 < h.kind.toNat) || decide (h.entries < 1) || decide (512 < h.entries) ||
  h.manifest.any (fun e => decide (h.totalLen < e.offset + e.length)) ||
  (match w.img with | some im => h.kind == 0 && decide (h.mapId.toNat ≠ im.mapId) | none => false)

/-- Every layer's data in far memory has its digest (R300). -/
def digestsOk (w : W9) (a : Nat) (h : SetHeader) : Bool :=
  h.manifest.all (fun e => decide (sha256 (farRead w (a + e.offset) e.length) = e.digest))

/-! ## Ranges that meet (R286, R302) -/

/-- A local-view range meets a striped one on some granule, under a stripe set. -/
def mixedMeet (sts : List Nat) (l ln s sn : Nat) : Bool :=
  (List.range (ln / 2 ^ 14 + 2)).any (fun i =>
    let x := max l (l / 2 ^ 14 * 2 ^ 14 + i * 2 ^ 14)
    let e := min (l + ln) ((l / 2 ^ 14 + i + 1) * 2 ^ 14)
    decide (x < e) && (match sts.idxOf? (x / 2 ^ 36) with
      | some j =>
        let g := (x % 2 ^ 36 / 2 ^ 14) * sts.length + j
        let y := 2 ^ 42 + g * 2 ^ 14 + x % 2 ^ 14
        decide (y < s + sn) && decide (s < y + (e - x))
      | none => false))

/-- Two far ranges name a common byte, whatever view each is given in (R286). -/
def rangesMeet (sts : List Nat) (a n b m : Nat) : Bool :=
  if n = 0 ∨ m = 0 then false
  else if a / 2 ^ 42 = b / 2 ^ 42 then decide (a < b + m) && decide (b < a + n)
  else if a / 2 ^ 42 = 0 then mixedMeet sts a n b m
  else mixedMeet sts b m a n

/-- The first write into the verified set's range ends its standing (R299). -/
def touchVerified (a n : Nat) (w : W9) : W9 := match w.wt.verified with
  | some v =>
    if rangesMeet (stripeStacks w) a n v.1.toNat v.2.totalLen then
      wr64 Reg.loadVerified 0 { w with wt := { w.wt with verified := none } }
    else w
  | none => w

/-! ## Load items (R306 to R308) -/

/-- The attach point that serves a tile: the preferred one of its field, or the next available one clockwise (R189, R308). -/
def servingPoint (w : W9) (t : Tile) : Nat :=
  let p := preferredAttach (tileField t)
  (((List.range 32).map (fun i => (p + i) % 32)).find? (attachAvailable w)).getD p

/-- The attach point at the root of a multicast group (R306). -/
def rootPoint (g : Rung) (grp : BitVec 12) : Option Nat := match g.mcast.find? (fun m => m.group == grp && m.net == .request) with
  | some m => (List.range 32).find? (fun n => tileAt (attachTile n).1 (attachTile n).2 == m.root)
  | none => none

/-- The members of a multicast group. -/
def groupMembers (g : Rung) (grp : BitVec 12) : List Tile := match g.mcast.find? (fun m => m.group == grp && m.net == .request) with
  | some m => m.branches.filterMap (fun b => b.getLast?)
  | none => []

/-- A local address in the copy that WSEL = `sel` uses (R313). -/
def copyAddr (w : W9) (t : Tile) (sel : Bool) (a : Nat) : Nat :=
  if sel then a + (if a < 0x800000 then prd w t Pg.weightOfsBank else prd w t Pg.weightOfsOps).toNat else a

/-- The tile whose copy offsets an item uses, its target code, and its attach point. -/
def itemTarget (w : W9) (g : Rung) (x : WeightItem) : Option (Tile × BitVec 15 × Nat) := match x.group with
  | some grp => match groupMembers g grp, rootPoint g grp with
    | t :: _, some n => some (t, grp.setWidth 15, n)
    | _, _ => none
  | none => (bandRefTile g x.band x.index).map (fun t => (t, BitVec.ofNat 15 t.val, servingPoint w t))

/-- The steward appends one item of the weight map to its Mule tile's list, for the copy `sel` of the set at `set` (R306, R308). -/
def queueItem (g : Rung) (set : Nat) (sel : Bool) (x : WeightItem) (w : W9) : W9 := match itemTarget w g x with
  | some (t, code, n) =>
    let it : LoadItem := { far := BitVec.ofNat 64 (set + x.offset), len := x.len, mcast := x.group.isSome, target := code,
                           local' := BitVec.ofNat 24 (copyAddr w t sel x.target.toNat), signal := x.signal, seq := w.wt.itemSeq }
    { w with wt := { w.wt with muleRings := smMod (fun _ => []) w.wt.muleRings n (fun l => l ++ [it]), itemSeq := w.wt.itemSeq + 1 } }
  | none => w

/-- Every item of the weight map of the rung in force. -/
def queueItems (set : Nat) (sel : Bool) (w : W9) : W9 := match rungNow w with
  | some g => forEach g.far.weights (queueItem g set sel) w
  | none => w

/-- No item waits or is outstanding: the copy is filled, or the weights are resident (R307). -/
def itemsDone (w : W9) : Bool := w.wt.muleRings.isEmpty && w.wt.outstanding.isEmpty

/-- The items that wait and those outstanding are given up. -/
def dropItems (w : W9) : W9 := { w with wt := { w.wt with muleRings := [], outstanding := [] } }

end Sys2Proof.Machine
end

