-- ==== Sys2Proof/Machine/Kv.lean ====
section
/-! DEFINITION. Key/value blocks and the prefix tree (spec/06_attention_kv.md R224 to R247): allocating, holding and dropping blocks,
restoring dropped blocks, and the prefix walker. -/

namespace Sys2Proof.Machine

open Sys2Proof

/-! ## Pages (R227, R232, R233) -/

/-- Pages of a block: one per KV layer (R227). -/
def kvLayers (w : W9) : Nat := match w.img with
  | some im => (im.body.layers.filter (fun l => l.kv)).length
  | none => 0

/-- KV_PAGES_FREE. -/
def kvFree (w : W9) : Nat := (rd w Reg.kvPagesFree).toNat
/-- Set KV_PAGES_FREE. -/
def setKvFree (n : Nat) (w : W9) : W9 := wr Reg.kvPagesFree (BitVec.ofNat 32 n) w
/-- Free pages reserved for class-0 streams: KV_PAGES_CLASS0. -/
def kvReserved (w : W9) : Nat := (w.kv.reserve.map (·.2)).sum
/-- Pages reserved for stream `s`. -/
def reserveOf (w : W9) (s : StreamIx) : Nat := smGet (fun _ => 0) w.kv.reserve s.val
/-- Set it. -/
def setReserve (s : StreamIx) (n : Nat) (w : W9) : W9 :=
  { w with kv := { w.kv with reserve := smPut (fun _ => 0) w.kv.reserve s.val n } }

/-- The stream's pages lie in the partner's half: a shadow's, or those of a stream handed to this W9 (R412, R422). -/
def pagesAway (w : W9) (s : StreamIx) : Bool := w.pair.shadows.contains s || w.pair.handedTo.contains s
/-- One block's pages of stream `s` become free. -/
def freePages (s : StreamIx) (w : W9) : W9 := if pagesAway w s then w else setKvFree (kvFree w + kvLayers w) w

/-- The blocks of a stream that have a descriptor, in ascending order. -/
def streamBlocks (w : W9) (s : StreamIx) : List (Nat × BlockDesc) :=
  w.kv.blocks.filterMap (fun e => if e.1 / 8192 = s.val then e.2.map (fun d => (e.1 % 8192, d)) else none)

/-- The image's KV format is KV8 (KV_CTRL[0]). -/
def kv8On (w : W9) : Bool := rdB w Reg.kvCtrl 0

/-- The code of a block state (Table 6.5). -/
def blockCode : BlockState → Nat
  | .empty => 0
  | .active => 1
  | .full => 2
  | .shared => 3
  | .dropped => 4
  | .recomputing => 5

/-- A block descriptor's 32 bytes (Table 6.5). -/
def descBytes (w : W9) : Option BlockDesc → List Byte
  | none => List.replicate 16 0 ++ [0xFF, 0xFF, 0xFF, 0xFF] ++ List.replicate 12 0
  | some d => le 8 d.layers.toNat ++ le 8 d.lastUse ++ le 4 (match d.node with | some n => n | none => 0xFFFFFFFF) ++
      le 1 (blockCode d.state) ++ le 1 (b2n (decide (d.state = .shared)) + 2 * b2n (kv8On w)) ++ List.replicate 10 0

/-- The state of a descriptor; none is EMPTY. -/
def stateOf (d : Option BlockDesc) : BlockState := match d with | some x => x.state | none => .empty

/-- Mirror a block whose state changed: its layer vector by TRANSFER and the descriptor by BLOCK (R408). -/
def mirrorBlock (s : StreamIx) (b : Nat) (w : W9) : W9 :=
  if mirrors w s then
    match blockOf w s b with
    | some d => sendTwin (.block s b d.layers (BitVec.ofNat 8 (blockCode d.state)))
        (onlyIf (decide (d.layers ≠ 0)) (sendFar 2 s.val d.layers.toNat (16 * kvLayers w)) w)
    | none => sendTwin (.block s b 0 0) w
  else w

/-- Set a block's descriptor, here and in the directory (R226). -/
def putBlock (s : StreamIx) (b : Nat) (d : Option BlockDesc) (w : W9) : W9 :=
  let old := stateOf (blockOf w s b)
  let w := setBlock s b d w
  let w := match farOf w with
    | some f => writeFar (dirBase f s + 32 * b) (descBytes w d) w
    | none => w
  onlyIf (decide (stateOf d ≠ old)) (mirrorBlock s b) w

/-- Free pages an allocation of stream `s` may take: a stream with a reservation takes from it, others only what is not reserved
(R232). -/
def kvAvailable (w : W9) (s : StreamIx) : Nat := if 0 < reserveOf w s then kvFree w else kvFree w - kvReserved w

/-! ## Dropping (R232 to R234) -/

/-- A node of the tree by its index. -/
def nodeOf (w : W9) (i : Nat) : Option PrefixNode := w.kv.nodes.find? (fun n => n.index == i)

/-- The indices of `l` with all their descendants. -/
def subtree (ns : List PrefixNode) : Nat → List Nat → List Nat
  | 0, l => l
  | k + 1, l =>
    let more := (ns.filter (fun n => !l.contains n.index && (match n.parent with | some p => l.contains p | none => false))).map (·.index)
    if more.isEmpty then l else subtree ns k (l ++ more)

/-- The number of ancestors of a node: the index of its block in a sequence. -/
def nodeDepth (w : W9) : Nat → Nat → Nat
  | 0, _ => 0
  | k + 1, i => match (nodeOf w i).bind (·.parent) with
    | some p => nodeDepth w k p + 1
    | none => 0

/-- A root-table entry's 32 bytes (R238). -/
def rootBytes (r : RootEntry) : List Byte := r.key ++ le 8 r.hash.toNat ++ le 4 r.count ++ [1, 0, 0, 0]

/-- Write entry `i` of the root table (R238). -/
def syncRoot (i : Fin 256) (w : W9) : W9 :=
  let a := rd64 w Reg.prefixRoots + 32 * i.val
  if rd64 w Reg.prefixRoots = 0 then w
  else match w.kv.roots.find? (fun r => r.index == i) with
    | some r => writeFar a (rootBytes r) w
    | none => writeFar a (List.replicate 32 0) w

/-- Add to or take from the node count of a root; a count of 0 frees the entry (R238). -/
def countRoot (i : Fin 256) (d : Int) (w : W9) : W9 :=
  let rs := (w.kv.roots.map (fun r => if r.index = i then { r with count := ((r.count : Int) + d).toNat } else r)).filter
    (fun r => !(r.index == i && r.count == 0))
  syncRoot i { w with kv := { w.kv with roots := rs } }

/-- A node leaves the tree: its pages are freed, its root's count falls, and every descriptor bound to it becomes DROPPED (R234,
Table 15.2). -/
def removeNode (i : Nat) (w : W9) : W9 := match nodeOf w i with
  | none => w
  | some n =>
    let bound := w.kv.blocks.filterMap (fun e => match e.2 with
      | some d => if d.node = some i ∧ d.state = .shared then some (e.1, d) else none
      | none => none)
    let w := { w with kv := { w.kv with nodes := w.kv.nodes.filter (fun x => !(x.index == i)) } }
    let w := countRoot n.root (-1) (setKvFree (kvFree w + kvLayers w) w)
    forEach bound (fun e w => putBlock (Fin.ofNat 1024 (e.1 / 8192)) (e.1 % 8192)
      (some { e.2 with state := .dropped, layers := 0, node := none, flushed := [] }) w) w

/-- One dropped block is counted and reported (R234). -/
def noteDrop (cs : BitVec 16) (b : Nat) (node : Byte) (w : W9) : W9 :=
  raise 0x4010 srcSteward cs (le 4 b ++ [node]) (inc Reg.kvDrops 1 w)

/-- Drop a node with its descendants, deepest last in the list first out of the tree. -/
def dropNode (i : Nat) (w : W9) : W9 :=
  forEach (subtree w.kv.nodes w.kv.nodes.length [i]) (fun j w =>
    let d := nodeDepth w w.kv.nodes.length j
    noteDrop csNone d 1 (removeNode j w)) w

/-- Drop a private block (R234). -/
def dropPrivate (s : StreamIx) (b : Nat) (d : BlockDesc) (w : W9) : W9 :=
  let w := putBlock s b (some { d with state := .dropped, layers := 0, node := none, flushed := [] }) w
  noteDrop (csOf w s) b 0 (setKvFree (kvFree w + kvLayers w) w)

/-- A candidate for dropping (R232). -/
inductive Cand where
  | node (n : PrefixNode)
  | priv (s : StreamIx) (b : Nat) (d : BlockDesc) (cls : Nat)
deriving DecidableEq, Repr

/-- Its rank: class 2 before class 1, then LAST_USE, then node before private block, then index, or stream and block. -/
def candKey : Cand → List Nat
  | .node n => [0, n.lastUse, 0, n.index, 0]
  | .priv s b d cls => [if cls = 1 then 1 else 0, d.lastUse, 1, s.val, b]

/-- Lexicographic order. -/
def lexLt : List Nat → List Nat → Bool
  | a :: r, b :: q => decide (a < b) || (decide (a = b) && lexLt r q)
  | [], _ :: _ => true
  | _, [] => false

/-- Candidates for an allocation of stream `s`: nodes at count 0, and FULL blocks of other class-1 or class-2 streams with no step in
the pipeline (R232, R233). A node with a bound descendant is not one: dropping takes its descendants, whose counts are 0 (R234). -/
def candidates' (w : W9) (s : StreamIx) : List Cand :=
  (w.kv.nodes.filter (fun n => n.refcount == 0 &&
    (subtree w.kv.nodes w.kv.nodes.length [n.index]).all (fun j => match nodeOf w j with | some x => x.refcount == 0 | none => true))).map .node ++
  w.kv.blocks.filterMap (fun e => match e.2 with
    | some d =>
      let o : StreamIx := Fin.ofNat 1024 (e.1 / 8192)
      let c := (streamOf w o).cls.toNat
      if d.state = .full ∧ o ≠ s ∧ (c = 1 ∨ c = 2) ∧ !inPipe w o then some (.priv o (e.1 % 8192) d c) else none
    | none => none)

/-- The first candidate in rank. -/
def bestCand : List Cand → Option Cand
  | [] => none
  | c :: r => match bestCand r with
    | some x => if lexLt (candKey x) (candKey c) then some x else some c
    | none => some c

/-- Drop one candidate. -/
def dropCand (c : Cand) (w : W9) : W9 := match c with
  | .node n => dropNode n.index w
  | .priv s b d _ => dropPrivate s b d w

/-- Drop candidates until `need` pages are available, or none is left, or dropping is off (R232, R233). -/
def dropUntil (s : StreamIx) (need : Nat) : Nat → W9 → W9
  | 0, w => w
  | k + 1, w =>
    if need ≤ kvAvailable w s ∨ !rdB w Reg.kvCtrl 31 then w
    else match bestCand (candidates' w s) with
      | some c => dropUntil s need k (dropCand c w)
      | none => w

/-! ## Allocating (R226, R228, R232) -/

/-- A far address that the W9 chooses, 64 B-aligned; the spec gives no rule for which (R226). -/
def freeAddr (w : W9) : FAddr := Config.freeFar w.dev.free &&& ~~~(63 : BitVec 64)

/-- Allocate block `b` in state `st` from covered pages; what was recorded of it as DROPPED keeps its LAST_USE. -/
def allocBlock (s : StreamIx) (st : BlockState) (b : Nat) (w : W9) : W9 :=
  let a := freeAddr w
  let used := match blockOf w s b with | some d => d.lastUse | none => now w
  let k := kvLayers w
  let r := reserveOf w s
  let w := drawFree 1 w
  let w := setReserve s (r - k) (setKvFree (kvFree w - k) w)
  putBlock s b (some ⟨st, a, used, none, []⟩) w

/-- Allocate blocks of stream `s`, dropping others where pages are short; or hold the allocation (R232, R233). -/
def allocBlocks (s : StreamIx) (st : BlockState) (bs : List Nat) (w : W9) : Bool × W9 :=
  let need := bs.length * kvLayers w
  let w := dropUntil s need (w.kv.nodes.length + w.kv.blocks.length) w
  if need ≤ kvAvailable w s then (true, forEach bs (allocBlock s st) w)
  else
    let free := kvFree w
    let w := { w with kv := { w.kv with held := w.kv.held.filter (fun e => !(e.1 == s)) ++ [(s, need)] } }
    let w := raiseS 0x4013 srcSteward s (le 4 need ++ le 4 free) (inc Reg.kvHeld 1 w)
    (false, setState s .held w)

/-- The blocks that positions [a, a + n) lie in and that have no pages: EMPTY ones. -/
def missingBlocks (w : W9) (s : StreamIx) (a n : Nat) : List Nat :=
  if n = 0 then []
  else ((List.range ((a + n - 1) / 256 + 1 - a / 256)).map (fun i => a / 256 + i)).filter (fun b => (blockOf w s b).isNone)

/-- The pages for positions [a, a + n) are there, or are allocated now, or the allocation is held. -/
def ensureBlocks (s : StreamIx) (a n : Nat) (w : W9) : Bool × W9 :=
  let bs := missingBlocks w s a n
  if bs.isEmpty then (true, w) else allocBlocks s .active bs w

/-- Blocks whose end L has reached become FULL (R228). -/
def fillBlocks (s : StreamIx) (w : W9) : W9 :=
  let l := (streamOf w s).length
  forEach ((streamBlocks w s).filter (fun e => decide (e.2.state = .active) && decide (256 * (e.1 + 1) ≤ l)))
    (fun e w => putBlock s e.1 (some { e.2 with state := .full }) w) w

/-- A step of the stream read its blocks: LAST_USE of each and of the nodes it binds (Tables 6.5, 6.9). -/
def touchBlocks (s : StreamIx) (w : W9) : W9 :=
  let t := now w
  let bs := streamBlocks w s
  let ns := bs.filterMap (fun e => e.2.node)
  let w := forEach bs (fun e w => putBlock s e.1 (some { e.2 with lastUse := t }) w) w
  { w with kv := { w.kv with nodes := w.kv.nodes.map (fun n => if ns.contains n.index then { n with lastUse := max n.lastUse t } else n) } }

/-- Free a stream's private blocks (R272 step 1); SHARED ones stay bound. -/
def freePrivate (s : StreamIx) (w : W9) : W9 :=
  forEach ((streamBlocks w s).filter (fun e => decide (e.2.state ≠ .shared))) (fun e w =>
    let w := putBlock s e.1 none w
    if e.2.state = .dropped then w else freePages s w) w

/-! ## The prefix tree (R236 to R243) -/

/-- Prefix sharing is on: PREFIX_CTRL.EN. -/
def prefixOn (w : W9) : Bool := rdB w Reg.prefixCtrl 31

/-- The first 8 bytes of a SHA-256 digest, little-endian (R236). -/
def hash8 (l : List Byte) : Nat := ofLe ((sha256 l).take 8)

/-- The root key of a stream (R236). -/
def rootKey (w : W9) (s : StreamIx) : List Byte :=
  let t := streamOf w s
  le 4 t.modelVer.toNat ++ le 4 t.adapterVer.toNat ++ [BitVec.ofNat 8 (b2n (kv8On w))] ++ List.replicate 7 0

/-- The hash of a block (R236). -/
def blockHash (parent : Nat) (toks : List Word32) : Nat := hash8 (le 8 parent ++ toks.flatMap (fun x => le 4 x.toNat))

/-- The IN_USE root entry of a key (R238). -/
def findRoot (w : W9) (key : List Byte) : Option RootEntry := w.kv.roots.find? (fun r => r.key == key)

/-- The chain of a hash's bucket, head first (R237). -/
def bucketChain (w : W9) (h : Nat) : List PrefixNode :=
  let m := 2 ^ rdF w Reg.prefixCtrl 4 0
  w.kv.nodes.filter (fun n => n.hash.toNat % m == h % m)

/-- A node matches a block (R240): hash, parent, for block 0 the root, and tokens. -/
def nodeMatches (root : Fin 256) (parent : Option Nat) (h : Nat) (toks : List Word32) (n : PrefixNode) : Bool :=
  n.hash.toNat == h && n.parent == parent && (parent.isSome || n.root == root) && n.tokens == toks

/-- The node a block matches, and the nodes passed over before it whose hash is equal and whose tokens are not. -/
def matchBlock (w : W9) (root : Fin 256) (parent : Option Nat) (h : Nat) (toks : List Word32) : Option PrefixNode × List Nat :=
  let c := bucketChain w h
  let passed := c.takeWhile (fun n => !nodeMatches root parent h toks n)
  (c.find? (nodeMatches root parent h toks),
   (passed.filter (fun n => n.hash.toNat == h && !(n.tokens == toks))).map (·.index))

/-- A collision is counted and reported (R240). -/
def noteCollision (s : StreamIx) (h i : Nat) (w : W9) : W9 :=
  raiseS 0x4020 srcIntake s (le 8 h ++ le 4 i) (inc Reg.prefixCollisions 1 w)

/-- Change a node. -/
def modNode (i : Nat) (f : PrefixNode → PrefixNode) (w : W9) : W9 :=
  { w with kv := { w.kv with nodes := w.kv.nodes.map (fun n => if n.index = i then f n else n) } }

/-- The FLUSHED masks of pages whose every chunk is flushed. -/
def allFlushed (w : W9) : SMap Nat := match w.img with
  | some im => (im.body.layers.filter (fun l => l.kv)).foldl (fun m l => smPut (fun _ => 0) m l.layer.val 15) []
  | none => []

/-- Block `b` of the stream binds a node's pages (R240). -/
def bindNode (s : StreamIx) (b : Nat) (n : PrefixNode) (w : W9) : W9 :=
  let w := modNode n.index (fun x => { x with refcount := x.refcount + 1 }) (inc Reg.prefixHits 1 w)
  putBlock s b (some ⟨.shared, n.layers, n.lastUse, some n.index, allFlushed w⟩) w

/-- Match and bind blocks in order until one does not match; answers the blocks bound (R240). -/
def walkBlocks (s : StreamIx) (root : Fin 256) : Nat → Nat → Option Nat → Nat → W9 → Nat × W9
  | 0, b, _, _, w => (b, w)
  | k + 1, b, parent, ph, w =>
    let toks := logTokens w s (256 * b) 256
    let h := blockHash ph toks
    let m := matchBlock w root parent h toks
    let w := forEach m.2 (fun i w => noteCollision s h i w) w
    match m.1 with
    | some n => walkBlocks s root k (b + 1) (some n.index) h (bindNode s b n w)
    | none => (b, w)

/-- The prefix walk of a prompt of P tokens (R240, R243): the blocks bound. -/
def prefixWalk (s : StreamIx) (w : W9) : Nat × W9 :=
  let w := inc Reg.prefixLookups 1 w
  match findRoot w (rootKey w s) with
  | some r => walkBlocks s r.index (((streamOf w s).promptLen - 1) / 256) 0 none r.hash.toNat w
  | none => (0, w)

/-- The node that blocks 0 to `b` of a stream match in the tree, without binding (R235). -/
def chainNode (w : W9) (s : StreamIx) (root : Fin 256) : Nat → Nat → Option Nat → Nat → Option PrefixNode
  | 0, _, _, _ => none
  | k + 1, b, parent, ph =>
    let toks := logTokens w s (256 * b) 256
    let h := blockHash ph toks
    match (matchBlock w root parent h toks).1 with
    | some n => if k = 0 then some n else chainNode w s root k (b + 1) (some n.index) h
    | none => none

/-- The same for the whole chain up to block `b`. -/
def treeNode (w : W9) (s : StreamIx) (b : Nat) : Option PrefixNode :=
  if prefixOn w && (streamOf w s).lookup then
    match findRoot w (rootKey w s) with
    | some r => chainNode w s r.index (b + 1) 0 none r.hash.toNat
    | none => none
  else none

/-- Restore one DROPPED block: bind it, or allocate it RECOMPUTING and queue its recompute chunk (R235, R264). -/
def restoreBlock (s : StreamIx) (b : Nat) (w : W9) : Bool × W9 := match treeNode w s b with
  | some n => (true, bindNode s b n w)
  | none => match allocBlocks s .recomputing [b] w with
    | (true, w) => (true, { w with serve := { w.serve with queue := w.serve.queue ++ [⟨s, 256 * b, 256, some b⟩] } })
    | r => r

/-- Restore blocks in ascending order until an allocation is held. -/
def restoreAll (s : StreamIx) : List Nat → W9 → W9
  | [], w => w
  | b :: r, w => match restoreBlock s b w with
    | (true, w) => restoreAll s r w
    | (false, w) => w

/-- The DROPPED blocks of a stream. -/
def droppedBlocks (w : W9) (s : StreamIx) : List Nat :=
  ((streamBlocks w s).filter (fun e => decide (e.2.state = .dropped))).map (·.1)

/-- BLOCK_RESTORE: before a step of a stream with DROPPED blocks (R235). While recompute chunks are queued the stream is in PREFILL
(Table 7.1). -/
def restoreStream (s : StreamIx) (w : W9) : W9 :=
  let w := restoreAll s (droppedBlocks w s) w
  if (streamOf w s).state = .decode ∧ w.serve.queue.any (fun c => c.stream == s) then setState s .prefill w else w

/-! ## The rows -/

/-- The walk of a stream in ADMITTING: H is 256 for each matched block (R240, R263). -/
def lookupFor (s : StreamIx) (w : W9) : W9 := match prefixWalk s w with
  | (n, w) => modStream s (fun t => { t with prefixHit := 256 * n }) w

/-- PREFIX_LOOKUP (R240, R243): for a stream in ADMITTING whose request allows a lookup and that has bound no block, while sharing is
on. -/
def prefixLookup (s : StreamIx) (w : W9) : W9 :=
  let t := streamOf w s
  if t.state = .admitting ∧ t.lookup ∧ prefixOn w ∧ (streamBlocks w s).isEmpty then lookupFor s w else w

/-- PREFIX_LOOKUP. -/
def execPrefixLookup (st : StreamIx) (s : State) : Host.Outcome State Fault Refusal := lift (prefixLookup st) s

/-- The root entry an insertion under `key` names: the key's, or the lowest FREE one (R238). -/
def rootFor (w : W9) (key : List Byte) : Option RootEntry := match findRoot w key with
  | some r => some r
  | none => ((List.finRange 256).find? (fun i => !(w.kv.roots.any (fun r => r.index == i)))).map
      (fun i => ⟨i, key, BitVec.ofNat 64 (hash8 key), 0⟩)

/-- The parent's node and hash for block `b`: the node of block b − 1, or the root. -/
def parentOf (w : W9) (s : StreamIx) (b : Nat) (r : RootEntry) : Option Nat × Nat :=
  if b = 0 then (none, r.hash.toNat)
  else match (blockOf w s (b - 1)).bind (·.node) with
    | some i => (some i, match nodeOf w i with | some n => n.hash.toNat | none => 0)
    | none => (none, r.hash.toNat)

/-- Create the node of block `b` with REFCOUNT 1; the block becomes SHARED (R237, R241). -/
def createNode (s : StreamIx) (b : Nat) (d : BlockDesc) (r : RootEntry) (parent : Option Nat) (h : Nat) (toks : List Word32) (w : W9) : W9 :=
  let i := w.kv.nextNode
  let n : PrefixNode := ⟨i, BitVec.ofNat 64 h, parent, toks, d.layers, 1, r.index, now w⟩
  let rs := if (findRoot w r.key).isSome then w.kv.roots else w.kv.roots ++ [r]
  let w := { w with kv := { w.kv with nodes := n :: w.kv.nodes, nextNode := i + 1, roots := rs } }
  putBlock s b (some { d with state := .shared, node := some i }) (inc Reg.prefixInserts 1 (countRoot r.index 1 w))

/-- What the walker does with an insertion it may make (R238, R241). -/
def insertBlock (s : StreamIx) (b : Nat) (d : BlockDesc) (w : W9) : W9 := match rootFor w (rootKey w s) with
  | none => inc Reg.prefixSkips 1 w
  | some r =>
    let p := parentOf w s b r
    let toks := logTokens w s (256 * b) 256
    let h := blockHash p.2 toks
    let m := matchBlock w r.index p.1 h toks
    let w := forEach m.2 (fun i w => noteCollision s h i w) w
    if m.1.isSome then inc Reg.prefixSkips 1 w else createNode s b d r p.1 h toks w

/-- PREFIX_INSERT (R241): L has reached the block's end, the request allows insertion, sharing is on, the block is private and its
parent SHARED, and this W9 owns the stream (R412). -/
def prefixInsert (s : StreamIx) (b : Nat) (w : W9) : W9 :=
  let t := streamOf w s
  let parentOk := decide (b = 0) || decide (stateOf (blockOf w s (b - 1)) = .shared)
  if 256 * (b + 1) ≤ t.length ∧ t.insert ∧ prefixOn w ∧ parentOk ∧ !w.pair.shadows.contains s then
    match blockOf w s b with
    | some d => if d.state = .full then insertBlock s b d w else w
    | none => w
  else w

/-- PREFIX_INSERT. -/
def execPrefixInsert (st : StreamIx) (block : Nat) (s : State) : Host.Outcome State Fault Refusal := lift (prefixInsert st block) s

/-- One binding is released (R242). -/
def releaseNode (s : StreamIx) (i : Nat) (w : W9) : W9 := match nodeOf w i with
  | some n =>
    if n.refcount = 0 then raiseS 0x4021 srcIntake s (List.replicate 8 0 ++ le 4 i) w
    else modNode i (fun x => { x with refcount := x.refcount - 1 }) w
  | none => w

/-- The walker releases every SHARED block of a stream (R242). -/
def releaseShared (s : StreamIx) (w : W9) : W9 :=
  forEach ((streamBlocks w s).filter (fun e => decide (e.2.state = .shared))) (fun e w =>
    let w := match e.2.node with | some i => releaseNode s i w | none => w
    putBlock s e.1 none w) w

/-- PREFIX_RELEASE (R242): a stream that ends releases what it has bound. -/
def prefixRelease (s : StreamIx) (w : W9) : W9 :=
  if (streamOf w s).state = .ending then releaseShared s w else w

/-- PREFIX_RELEASE. -/
def execPrefixRelease (st : StreamIx) (s : State) : Host.Outcome State Fault Refusal := lift (prefixRelease st) s

/-- The state a held stream returns to: PREFILL while it has chunks, else DECODE. -/
def heldReturn (w : W9) (s : StreamIx) : StreamState :=
  if w.serve.queue.any (fun c => c.stream == s) then .prefill else .decode

/-- The positions a held stream asked pages for: its first queued chunk, or the block of L. -/
def heldRange (w : W9) (s : StreamIx) : Nat × Nat := match w.serve.queue.find? (fun c => c.stream == s) with
  | some c => (c.first, c.count)
  | none => ((streamOf w s).length, 1)

/-- ALLOCATION_RESUME (R233): a held allocation resumes once pages cover it. -/
def allocationResume (s : StreamIx) (w : W9) : W9 := match w.kv.held.find? (fun e => e.1 == s) with
  | some e =>
    if e.2 ≤ kvAvailable w s then
      let r := heldRange w s
      let w := { w with kv := { w.kv with held := w.kv.held.filter (fun x => !(x.1 == s)) } }
      let w := (ensureBlocks s r.1 r.2 w).2
      if w.kv.held.any (fun x => x.1 == s) then w else setState s (heldReturn w s) w
    else w
  | none => w

/-- ALLOCATION_RESUME. -/
def execAllocationResume (st : StreamIx) (s : State) : Host.Outcome State Fault Refusal := lift (allocationResume st) s

end Sys2Proof.Machine
end

