-- ==== Sys2Proof/Machine/Serving.lean ====
section
/-! DEFINITION. Admission, cancellation and ending of streams (spec/07_serving.md R248 to R273, R280; R403, R411, R565). -/

namespace Sys2Proof.Machine

open Sys2Proof

/-! ## Streams at large -/

/-- The slots that are not FREE, in ascending order. -/
def busyStreams (w : W9) : List StreamIx :=
  (w.serve.streams.filter (fun e => decide (e.2.state ≠ .free))).map (fun e => Fin.ofNat 1024 e.1)

/-- A class-0 stream is admitted: it holds a phase (R257). -/
def isClass0 (t : Stream) : Bool := t.cls == 0 && t.phase.isSome && decide (t.state ≠ .free)

/-- The admitted class-0 streams of this W9, its shadows for the partner included. -/
def class0s (w : W9) : List StreamIx := (busyStreams w).filter (fun s => isClass0 (streamOf w s))

/-- SERVE_STATUS.CLASS0 follows the admitted class-0 streams (Table 7.9). -/
def syncClass0 (w : W9) : W9 := wrB Reg.serveStatus 2 (!(class0s w).isEmpty) w

/-- The timing profile of the rung in force, or zeros. -/
def timingOf (w : W9) : TimingProfile := match rungNow w with
  | some g => g.timing
  | none => ⟨[], 0, 0, 0, 0, 0, 0, 0, 0, 0, 0, false, 0, 0, 0, 0, 0, 0⟩

/-- Bytes of whole chunks: 64 × floor(L / 64) × KV_POS_BYTES (R259). -/
def ledgerCost (w : W9) (l : Nat) : Nat := 64 * (l / 64) * (rd w Reg.kvPosBytes).toNat

/-- c_max of a stream (R260). -/
def ledgerMax (w : W9) (p maxNew : Nat) : Nat := ledgerCost w (p + maxNew - 1)

/-- The slots in stages 0 to N − 2. -/
def bandSlots (w : W9) : List Slot := (w.serve.pipe.take (stagesN w - 1)).filterMap id

/-- c over the class-1 and class-2 slots in stages 0 to N − 2. -/
def ledgerOthers (w : W9) : Nat :=
  (((bandSlots w).filter (fun x => !((streamOf w x.stream).cls == 0))).map (fun x => ledgerCost w x.pos)).sum

/-- The ledger shares of the admitted class-0 streams. -/
def ledgerClass0 (w : W9) : Nat :=
  ((class0s w).map (fun s => ledgerMax w (streamOf w s).promptLen (streamOf w s).maxNew)).sum

/-- The share of a new class-0 request fits (R260). -/
def shareFits (w : W9) (p maxNew : Nat) : Bool :=
  decide (ledgerOthers w + ledgerClass0 w + ledgerMax w p maxNew ≤ rd64 w Reg.kvBeatBytes)

/-! ## Windows (R273) -/

/-- Count in the window that contains time `t`: the running one, or, past its end, the one after (R273). -/
def winModAt (t c : Nat) (f : WinCount → WinCount) (w : W9) : W9 :=
  if t < w.serve.winStart + w.serve.winLenNow then { w with serve := { w.serve with wins := w.serve.wins.modify c f } }
  else { w with serve := { w.serve with closed := w.serve.closed.modify c f } }
/-- Count at the present moment. -/
def winMod (c : Nat) (f : WinCount → WinCount) (w : W9) : W9 := winModAt (now w) c f w
/-- A refusal, or a request ignored. -/
def winRefused (c : Nat) (w : W9) : W9 := winMod c (fun x => { x with refused := x.refused + 1 }) w
/-- An ending. -/
def winEnded (c : Nat) (w : W9) : W9 := winMod c (fun x => { x with ended := x.ended + 1 }) w
/-- Tokens delivered at time `t`. -/
def winTokens (t c n : Nat) (w : W9) : W9 := winModAt t c (fun x => { x with tokens := x.tokens + n }) w
/-- Late or discarded tokens of a delivery at time `t`. -/
def winLate (t c n : Nat) (w : W9) : W9 := winModAt t c (fun x => { x with late := x.late + n }) w

/-- The WIN registers of class `c` show counts. -/
def winShow (c : Nat) (x : WinCount) (w : W9) : W9 :=
  wr (Reg.winEnded c) (BitVec.ofNat 32 x.ended) (wr (Reg.winRefused c) (BitVec.ofNat 32 x.refused)
    (wr (Reg.winLate c) (BitVec.ofNat 32 x.late) (wr (Reg.winTokens c) (BitVec.ofNat 32 x.tokens) w)))

/-- WINDOW_PUBLISH (R273): 10 µs after the window ended its counts show, and the next window runs with the WIN_LEN of its start. -/
def windowPublish (w : W9) : W9 :=
  let t := w.serve.winStart
  let l := w.serve.winLenNow
  if t + l + 10000 ≤ now w then
    let cs := w.serve.wins
    let w := { w with serve := { w.serve with
      wins := w.serve.closed, closed := [WinCount.zero, WinCount.zero, WinCount.zero], winStart := t + l, winLenNow := (rd w Reg.winLen).toNat } }
    wr64 Reg.winStart t (winShow 2 (cs.getD 2 WinCount.zero) (winShow 1 (cs.getD 1 WinCount.zero) (winShow 0 (cs.getD 0 WinCount.zero) w)))
  else w

/-- WINDOW_PUBLISH. -/
def execWindowPublish (s : State) : Host.Outcome State Fault Refusal := lift windowPublish s

/-! ## Adapters bound (R280) -/

/-- State of an adapter slot: 0 FREE, 1 LOADING, 2 CURRENT, 3 RETIRING (Table 7.8). -/
def adState (w : W9) (n : Fin 64) : Nat := rdF w (Reg.adapterId n.val) 1 0
/-- Handle of an adapter slot. -/
def adHandle (w : W9) (n : Fin 64) : Nat := rdF w (Reg.adapterId n.val) 31 16
/-- Version of an adapter slot. -/
def adVer (w : W9) (n : Fin 64) : Word32 := rd w (Reg.adapterVer n.val)
/-- Bound streams of an adapter slot. -/
def adRef (w : W9) (n : Fin 64) : Nat := rdF w (Reg.adapterRef n.val) 10 0

/-- The CURRENT slot of a handle. -/
def adCurrent (w : W9) (h : BitVec 16) : Option (Fin 64) :=
  (List.finRange 64).find? (fun n => adState w n == 2 && adHandle w n == h.toNat)

/-- A stream binds an adapter slot. -/
def adBind (n : Fin 64) (w : W9) : W9 := wrF (Reg.adapterRef n.val) 10 0 (adRef w n + 1) w

/-- A RETIRING slot without bound streams becomes FREE (R282). -/
def adSettle (n : Fin 64) (w : W9) : W9 :=
  if adState w n = 3 ∧ adRef w n = 0 then writeAdapterTable (wr (Reg.adapterVer n.val) 0 (wr (Reg.adapterId n.val) 0 w)) else w

/-- A stream releases its adapter slot (R272). -/
def adRelease (n : Fin 64) (w : W9) : W9 := adSettle n (wrF (Reg.adapterRef n.val) 10 0 (adRef w n - 1) w)

/-! ## Chunks (R262 to R264) -/

/-- A chunk's rank in the queue of R264. -/
def chunkKey (w : W9) (c : Chunk) : List Nat :=
  let t := streamOf w c.stream
  if t.cls = 0 then [0, t.order, c.stream.val, c.first]
  else if t.cls = 1 then [1, t.deadlineFirst, t.order, c.first]
  else [2, t.order, c.stream.val, c.first]

/-- Put a chunk in its place of a ranked list. -/
def insertChunk (w : W9) (c : Chunk) : List Chunk → List Chunk
  | [] => [c]
  | x :: r => if lexLt (chunkKey w c) (chunkKey w x) then c :: x :: r else x :: insertChunk w c r

/-- Chunks in queue order (R264). -/
def ranked (w : W9) (l : List Chunk) : List Chunk := l.foldr (insertChunk w) []

/-- The prefill pace: SETTINGS holds the settings in force; `env.pace` is its home (R472). -/
def paceNow (w : W9) : Nat := w.env.pace

/-- The bound of a chunk of `c` positions, in ns, at a pace; none at pace 0 (R262). -/
def chunkBound (w : W9) (pace c : Nat) : Option Nat :=
  let t := (timingOf w).pfBase + c * (timingOf w).pfPos
  if 4 ≤ pace then some t else if pace = 0 then none else some (cdiv (t * 4) pace)

/-- Positions a to e in chunks of CHUNK_MAX (R263). -/
def chunksOver (s : StreamIx) (rec' : Bool) (m : Nat) : Nat → Nat → Nat → List Chunk
  | 0, _, _ => []
  | k + 1, a, e =>
    if e ≤ a then []
    else
      let n := min m (e - a)
      ⟨s, a, n, if rec' then some (a / 256) else none⟩ :: chunksOver s rec' m k (a + n) e

/-- The prefill chunks of positions [a, e). -/
def prefillChunks (w : W9) (s : StreamIx) (a e : Nat) : List Chunk :=
  chunksOver s false (max 1 (timingOf w).chunkMax) (e - a) a e

/-- A prefill group is available: its field is open and not ordered parked (R342). -/
def groupOpen (w : W9) (g : Group) : Bool :=
  parkState w g.field == 0 && fieldStateSeen w g.field g.field == 0 && !(fieldState w g.field).parkOrder

/-- The place of the least element. -/
def argMin (l : List Nat) : Nat :=
  (List.range l.length).foldl (fun b i => if l.getD i 0 < l.getD b 0 then i else b) 0

/-- Place the chunks ahead on the groups (R266): `free` per group, and the end of the last placed chunk per stream. -/
def placeChunks (w : W9) (pace : Nat) : List Chunk → List Nat → SMap Nat → List Nat
  | [], free, _ => free
  | c :: r, free, ends =>
    let g := argMin free
    let s := max (free.getD g 0) (smGet (fun _ => 0) ends c.stream.val)
    let e := s + (chunkBound w pace c.count).getD 0
    placeChunks w pace r (free.set g e) (smPut (fun _ => 0) ends c.stream.val e)

/-- Q of R266: the bound on the wait for a group, given the chunks ahead. -/
def waitBound (w : W9) (pace : Nat) (ahead : List Chunk) : Nat :=
  let t := now w
  let free := (w.serve.groups.filter (groupOpen w)).map (fun g => match g.running with
    | some r => r.2.1 + (chunkBound w pace r.1.count).getD 0
    | none => t)
  let f := placeChunks w pace ahead free []
  f.getD (argMin f) 0 - t

/-- A whole microsecond, rounded up, in ns. -/
def ceilUs (x : Nat) : Nat := cdiv x 1000 * 1000

/-- S_FLOOR in ns. -/
def sFloor (w : W9) : Nat := (rd w Reg.sFloor).toNat

/-- B_tbt (R266). -/
def bTbt (w : W9) : Nat := ceilUs ((stagesN w + 1) * (beatNs w + sFloor w) + 25000)

/-- B_ttft of a request with the given Q and chunk sum; T_lead is added for a class-0 request while PAIRED (R266, R407). -/
def bTtft (w : W9) (arrival q sum : Nat) (lead : Bool) : Nat :=
  ceilUs ((now w - arrival) + q + sum + (2 * stagesN w + 1) * (beatNs w + sFloor w) + 25000 +
    (if lead then tLead w * beatNs w else 0))

/-! ## Ending (R272) -/

/-- A fault ending's status (Table 15.9). -/
def isFaultStatus (x : BitVec 8) : Bool := decide (0x20 ≤ x.toNat) && decide (x.toNat ≤ 0x25)

/-- What a stream that ends no longer takes part in: its queued chunks, its held allocation, its chain, its pair state. -/
def dropWork (s : StreamIx) (w : W9) : W9 :=
  let w := { w with serve := { w.serve with
    queue := w.serve.queue.filter (fun c => !(c.stream == s)), held := w.serve.held.filter (fun q => !(q.stream == s.val)),
    holdWait := w.serve.holdWait.filter (fun q => !(q.stream == s.val)) } }
  let w := { w with kv := { w.kv with held := w.kv.held.filter (fun e => !(e.1 == s)) } }
  let w := { w with pair := { w.pair with
    ownReady := w.pair.ownReady.filter (· ≠ s), twinReady := w.pair.twinReady.filter (· ≠ s),
    starts := smErase s.val w.pair.starts, setups := smErase s.val w.pair.setups } }
  setChain s [] w

/-- Steps 1 and 2 of R272 but for the walker's part (R242). -/
def releaseHoldings (s : StreamIx) (w : W9) : W9 :=
  let t := streamOf w s
  let w := setReserve s 0 (freePrivate s w)
  let w := match t.adapterSlot with | some n => adRelease n w | none => w
  syncClass0 (putStream s (fun t => { t with phase := none, adapterSlot := none }) w)

/-- STREAM_END (R272): END_STATUS, ENDING, and the release of blocks, bindings and reservations; a fault ending is reported (R553). The
end of a class-0 stream goes to the twin, which holds its phase: DEDUCED (log entry 26). -/
def endStream (s : StreamIx) (status : BitVec 8) (w : W9) : W9 :=
  let t := now w
  let x := streamOf w s
  let told := paired w && x.cls == 0 && x.phase.isSome
  let w := putStream s (fun x => { x with endStatus := status, state := .ending, endTime := t }) w
  let w := releaseHoldings s (dropWork s (winEnded x.cls.toNat w))
  let w := if isFaultStatus status then raiseS 0xD032 srcSteward s [status] w else w
  if told then sendTwin (.ended s) { w with pair := { w.pair with handedTo := w.pair.handedTo.filter (fun y => decide (y ≠ s)) } } else w

/-- The completion record of a slot (Table 10.5). -/
def cplOf (w : W9) (s : StreamIx) : CplRec :=
  let t := streamOf w s
  { stream := s.val, tag := t.reqTag, status := t.endStatus,
    flags := BitVec.ofNat 8 (b2n t.lateSeen + 2 * b2n t.tokensLost + 4 * b2n (decide (0 < t.prefixHit))),
    cls := BitVec.ofNat 8 t.cls.toNat, generated := t.generated, outEnd := hrWritten w (.token s), arrival := t.arrival,
    endTime := t.endTime, releases := t.reserved, since := now w }

/-- Every token record of the slot has been written or discarded. -/
def tokensDone (w : W9) (s : StreamIx) : Bool := (smGet (fun _ => []) w.host.backlog s.val).isEmpty

/-- A slot returns to FREE. -/
def freeSlot (s : StreamIx) (w : W9) : W9 := syncClass0 (putStream s (fun _ => Stream.init) w)

/-- The completion record of slot `s` waits in its ring. -/
def cplWaits (w : W9) (s : StreamIx) (n : RingIx) : Bool :=
  (smGet (fun _ => []) w.host.cplWait n.val).any (fun x => x.stream == s.val && x.tag == (streamOf w s).reqTag && x.status == (streamOf w s).endStatus)

/-- COMPLETION_POST (R272 steps 1 to 4, R376): an ENDING stream's bindings are released; once its token records are written its
completion record is posted, and when that is written the slot is FREE. A stream handed off, or shadowed here for the twin, posts none
(R414, R422). -/
def completionPost (s : StreamIx) (w : W9) : W9 :=
  let t := streamOf w s
  if t.state ≠ .ending ∨ t.handedOff ∨ w.pair.shadows.contains s then w
  else
    let w := releaseShared s w
    match t.cplRing with
    | none => freeSlot s w
    | some n =>
      if !tokensDone w s then w
      else
        let w := if cplWaits w s n then w else pushCpl n (cplOf w s) w
        let w := ringBatch (.completion n) w
        if cplWaits w s n then w else freeSlot s w

/-- COMPLETION_POST. -/
def execCompletionPost (st : StreamIx) (s : State) : Host.Outcome State Fault Refusal := lift (completionPost st) s

/-! ## Cancelling (R271) -/

/-- A cancelled stream with no work in flight ends (R271). -/
def finishCancel (s : StreamIx) (w : W9) : W9 :=
  let t := streamOf w s
  if t.cancelAsked ∧ !inPipe w s ∧ !chunkRuns w s ∧ !awaiting w s ∧ (t.state = .prefill ∨ t.state = .decode ∨ t.state = .held ∨ t.state = .parked) then
    raiseS 0x5013 srcSteward s ([0, 0] ++ le 2 t.reqTag.toNat) (endStream s 2 w)
  else w

/-- CANCEL (R271, R483): ignored for a FREE slot, another tag, or a stream that has ended; else the stream's queued chunks go, and it ends
once its work in flight is over. In hold it takes effect at the first boundary after. -/
def cancel (s : StreamIx) (tag : BitVec 16) (w : W9) : W9 :=
  let t := streamOf w s
  if t.state = .free then winRefused 2 w
  else if t.reqTag ≠ tag ∨ t.state = .ending ∨ t.state = .quarantined then winRefused t.cls.toNat w
  else
    let w := modStream s (fun x => { x with cancelAsked := true }) w
    if inHold w then w
    else
      let w := { w with serve := { w.serve with queue := w.serve.queue.filter (fun c => !(c.stream == s)) } }
      finishCancel s w

/-- CANCEL. -/
def execCancel (st : StreamIx) (tag : BitVec 16) (s : State) : Host.Outcome State Fault Refusal := lift (cancel st tag) s

/-! ## Admission (R250, R265, R314, R565) -/

/-- TEMPERATURE is a BF16 of at least 0. -/
def temperatureOk (t : BitVec 16) : Bool := decide (t.toNat ≤ 0x7F80) || decide (t = 0x8000)
/-- TOP_P is a BF16 above 0 and at most 1. -/
def topPOk (p : BitVec 16) : Bool := decide (0 < p.toNat) && decide (p.toNat ≤ 0x3F80)

/-- The vocabulary size of the image. -/
def vocabOf (w : W9) : Nat := match w.img with | some im => im.body.vocab | none => 0

/-- Every field of a NEW request lies in its range (Table 7.3), and the slot in this W9's half (R403). -/
def paramOk (w : W9) (q : Request) : Bool :=
  q.kind == 0 && decide (q.stream < 1024) && decide (q.cls.toNat ≤ 2) && q.promptAddr.toNat % 4 == 0 &&
  decide (1 ≤ q.promptLen) && decide (q.promptLen ≤ 2097151) && farAssigned w q.promptAddr.toNat (4 * q.promptLen) &&
  decide (1 ≤ q.maxNew) && decide (q.maxNew + q.promptLen ≤ 2097152) && temperatureOk q.temperature && topPOk q.topP &&
  decide (q.topK ≤ 1024) && (decide (q.stopId.toNat < vocabOf w) || q.stopId == 0xFFFFFFFF) &&
  ownSlot w (Fin.ofNat 1024 q.stream)

/-- The slot a request names, where there is one. -/
def slotOf (q : Request) : StreamIx := Fin.ofNat 1024 q.stream

/-- Refuse a request: its completion record, the event and the count (R265). -/
def refuse (q : Request) (status : BitVec 8) (w : W9) : W9 :=
  let t := now w
  let rec' : CplRec := ⟨q.stream, q.tag, status, 0, q.cls, 0, 0xFFFFFFFF, q.arrival, t, true, t⟩
  let cs := if q.stream < 1024 then csOf w (slotOf q) else csNone
  let w := raise 0x5001 srcSteward cs ([status, 0] ++ le 2 q.tag.toNat) w
  let w := if q.cls.toNat ≤ 2 then winRefused q.cls.toNat w else w
  pushCpl q.ring rec' w

/-- The bindings of a refused request go back, and the slot is FREE (R265). -/
def refuseSlot (q : Request) (status : BitVec 8) (w : W9) : W9 :=
  let s := slotOf q
  let w := freeSlot s (releaseHoldings s (releaseShared s (dropWork s w)))
  refuse q status w

/-- ADMIT_EN, the slot and the field ranges: the first status that applies. -/
def firstTests (w : W9) (q : Request) : Option (BitVec 8) :=
  if !rdB w Reg.serveCtrl 31 then some 0x18
  else if q.stream < 1024 ∧ (streamOf w (slotOf q)).state ≠ .free then some 0x10
  else if !paramOk w q then some 0x11
  else none

/-- MODEL_VER and the adapter. -/
def modelTests (w : W9) (q : Request) : Option (BitVec 8) :=
  if q.modelVer ≠ rd w Reg.modelVer ∨ q.modelVer = 0 then some 0x12
  else if q.adapter ≠ 0 ∧ (adCurrent w q.adapter).isNone then some 0x13
  else none

/-- The slot's stream as a request describes it, in ADMITTING. -/
def streamFor (w : W9) (q : Request) : Stream :=
  let a := if q.adapter = 0 then none else adCurrent w q.adapter
  { Stream.init with
    state := .admitting, cls := BitVec.ofNat 2 q.cls.toNat, spec := q.flags.getLsbD 0, lookup := q.flags.getLsbD 1,
    insert := q.flags.getLsbD 2, modelVer := q.modelVer, adapterHandle := q.adapter,
    adapterVer := (match a with | some n => adVer w n | none => 0), reqTag := q.tag, promptLen := q.promptLen, maxNew := q.maxNew,
    stopId := q.stopId, arrival := q.arrival, seed := q.seed, temperature := q.temperature, topP := q.topP, topK := q.topK,
    cplRing := some q.ring, reserved := true,
    deadlineFirst := (if q.cls = 1 then q.limitFirst else 0xFFFFFFFFFFFFFFFF), deadlineStep := (if q.cls = 1 then q.limitStep else 0) }

/-- The slot takes the request in ADMITTING. -/
def takeSlot (q : Request) (w : W9) : W9 :=
  let x := streamFor w q
  putStream (slotOf q) (fun _ => x) w

/-- The prompt is copied into the token log (R251, R265). -/
def copyPrompt (q : Request) (w : W9) : W9 :=
  let a := q.promptAddr.toNat
  let n := 4 * q.promptLen
  let w' := farReadEffects (farQuarters w a n) w
  writeLog (slotOf q) 0 (wordsFrom q.promptLen (farRead w a n)) w'

/-- The phases held: this W9's class-0 streams and, pair-wide, the twin's. -/
def heldPhases (w : W9) : List Nat :=
  (busyStreams w).filterMap (fun s => (streamOf w s).phase) ++ w.pair.shadowPhases.filterMap (fun e => e.2)

/-- The lowest free phase, while CLASS0_MAX allows one more (R257). -/
def freePhase (w : W9) : Option Nat :=
  let h := heldPhases w
  if h.length < rdF w Reg.class0Max 15 0 then (List.range (stagesN w + 1)).find? (fun p => !h.contains p) else none

/-- Pages a class-0 request needs beyond the blocks it has bound. -/
def class0Pages (w : W9) (q : Request) (h : Nat) : Nat := (cdiv (q.promptLen + q.maxNew) 256 - h / 256) * kvLayers w

/-- A cap register's value; 0 counts as absent (R469). -/
def capOr (v : Nat) : Nat := if v = 0 then 34000 else v

/-- C_ext before the clamp: min(34,000, F, H) (R469). -/
def capExt (w : W9) : Nat := min 34000 (min (capOr (rdF w Reg.facilityCap 15 0)) (capOr (rdF w Reg.hostCap 15 0)))

/-- The W9 is in hold, or min(C_ext before the clamp, C_th) is below the class-0 floor (R471). -/
def belowFloor (w : W9) : Bool :=
  inHold w || decide (min (capExt w) (rdF w Reg.thermalCap 15 0) < rdF w Reg.class0Floor 15 0)

/-- B_ttft of a request whose walk bound H positions; none where a chunk has no bound (R266). -/
def ttftOf (w : W9) (q : Request) (h : Nat) : Option Nat :=
  let s := slotOf q
  let pace := if q.cls = 0 then 4 else paceNow w
  let own := prefillChunks w s h (q.promptLen - 1)
  let ahead := ranked w (w.serve.queue.filter (fun c =>
    let t := streamOf w c.stream
    t.cls == 0 || (q.cls == 1 && t.cls == 1 && decide (t.deadlineFirst < q.limitFirst))))
  let lead := decide (q.cls = 0) && paired w
  if own.isEmpty then some (bTtft w q.arrival 0 0 lead)
  else if pace = 0 then none
  else some (bTtft w q.arrival (waitBound w pace ahead) ((own.map (fun c => (chunkBound w pace c.count).getD 0)).sum) lead)

/-- The owner of a shadowed stream that is READY on both twins sends START with the first phase beat at least T_lead ahead (R413). -/
def tryStart (s : StreamIx) (w : W9) : W9 :=
  match (streamOf w s).phase with
  | some k =>
    if w.pair.ownReady.contains s ∧ w.pair.twinReady.contains s ∧ w.pair.shadows.contains s = false ∧
        smGet (fun _ => none) w.pair.starts s.val = none then
      let m := stagesN w + 1
      let b := pairBeat w + tLead w
      let b := b + (k + m - b % m) % m
      sendTwin (.start s b) { w with pair := { w.pair with starts := smPut (fun _ => none) w.pair.starts s.val (some b) } }
    else w
  | none => w

/-- The stream enters DECODE with L = P − 1 (R263); a shadowed one sends READY (R413). -/
def enterDecode (s : StreamIx) (w : W9) : W9 :=
  let p := (streamOf w s).promptLen
  let w := putStream s (fun t => { t with state := .decode, length := p - 1 }) w
  let w := (ensureBlocks s (p - 1) 1 (fillBlocks s w)).2
  if (streamOf w s).shadow then
    tryStart s (sendTwin (.ready s) { w with pair := { w.pair with ownReady := w.pair.ownReady ++ [s] } })
  else w

/-- The stream is admitted: its binding, its place in the order, its record, its chunks (R263, R265). -/
def admitReq (q : Request) (h : Nat) (phase : Option Nat) (ttft tbt : Nat) (shadow : Bool) (w : W9) : W9 :=
  let s := slotOf q
  let a := if q.adapter = 0 then none else adCurrent w q.adapter
  let k := w.serve.decisions
  let chunks := prefillChunks w s h (q.promptLen - 1)
  let w := match a with | some n => adBind n w | none => w
  let w := { w with serve := { w.serve with decisions := k + 1, queue := w.serve.queue ++ chunks } }
  let w := putStream s (fun t => { t with
    state := .prefill, phase := phase, length := h, prefixHit := h, order := k, adapterSlot := a, shadow := shadow,
    lookup := t.lookup && !shadow, spec := t.spec && !shadow,
    deadlineFirst := (if q.cls = 0 then q.arrival + ttft else t.deadlineFirst),
    deadlineStep := (if q.cls = 0 then tbt else t.deadlineStep) }) w
  let w := syncClass0 w
  let w := if chunks.isEmpty then enterDecode s w else w
  finishCancel s w

/-- The setup of a shadowed stream (R411): every block is allocated, the setup data and SHADOW_REQ go to the twin, and the owner waits. -/
def shadowSetup (q : Request) (phase ttft : Nat) (retried : Bool) (w : W9) : W9 :=
  let s := slotOf q
  let bs := List.range (cdiv (q.promptLen + q.maxNew) 256)
  let w := if (streamBlocks w s).isEmpty then forEach bs (allocBlock s .active) w else w
  let w := match farOf w with
    | some f =>
      let w := sendFar 3 s.val (recordBase f s) 256 w
      let w := sendFar 3 s.val (dirBase f s) (32 * bs.length) w
      let w := forEach (streamBlocks w s) (fun e w => sendFar 3 s.val e.2.layers.toNat (16 * kvLayers w) w) w
      sendFar 3 s.val (logBase f s) (4 * q.promptLen) w
    | none => w
  let w := { w with pair := { w.pair with
    setups := smPut (fun _ => none) w.pair.setups s.val (some ⟨q, phase, ttft, retried⟩),
    alignDue := w.pair.alignDue || (sideB w && (class0s w).isEmpty && w.pair.shadows.isEmpty) } }
  sendTwin (.shadowReq s phase ttft) (putStream s (fun t => { t with phase := some phase }) w)

/-- The tests and reservations of a class-0 request (R265, R403, R411). -/
def decideClass0 (q : Request) (h : Nat) (w : W9) : W9 :=
  let need := class0Pages w q h
  let t := (ttftOf w q h).getD 0
  let b := bTbt w
  if belowFloor w then refuseSlot q 0x14 w
  else if pairEn w && !paired w then refuseSlot q 0x15 w
  else match freePhase w with
    | none => refuseSlot q 0x15 w
    | some p =>
      if kvFree w - kvReserved w < need ∨ !shareFits w q.promptLen q.maxNew then refuseSlot q 0x15 w
      else if q.limitFirst < t ∨ q.limitStep < b then refuseSlot q 0x16 w
      else
        let w := setReserve (slotOf q) need w
        if paired w then shadowSetup q p t false w else admitReq q h (some p) t b false w

/-- The decision once the walk is made: R265 from the class tests on. -/
def decide' (q : Request) (w : W9) : W9 :=
  let h := (streamOf w (slotOf q)).prefixHit
  if q.cls = 0 then decideClass0 q h w
  else if q.cls = 1 then
    match ttftOf w q h with
    | some t => if q.limitFirst < q.arrival + t then refuseSlot q 0x17 w else admitReq q h none 0 0 false w
    | none => refuseSlot q 0x17 w
  else admitReq q h none 0 0 false w

/-- From ADMITTING on: prompt copy, prefix walk, decision. A shadowed stream makes no lookup (R412). -/
def runAdmission (q : Request) (w : W9) : W9 :=
  let s := slotOf q
  let w := copyPrompt q (takeSlot q w)
  let walk := (streamOf w s).lookup && prefixOn w && !(decide (q.cls = 0) && paired w)
  decide' q (if walk then lookupFor s w else w)

/-- A flip is in progress and has not committed (R314). -/
def flipBarrier (w : W9) : Option Flip := match w.wt.flip with
  | some f => some f
  | none => none

/-- A NEW request (R265, R314, R565). -/
def newRequest (q : Request) (w : W9) : W9 := match firstTests w q with
  | some st => refuse q st w
  | none =>
    match flipBarrier w with
    | some f =>
      if q.modelVer = f.version then
        let w := takeSlot q w
        { w with serve := { w.serve with held := w.serve.held ++ [q] } }
      else refuse q 0x12 w
    | none => match modelTests w q with
      | some st => refuse q st w
      | none =>
        if inHold w then
          if q.cls = 0 then refuse q 0x14 w
          else
            let w := takeSlot q w
            { w with serve := { w.serve with holdWait := w.serve.holdWait ++ [q] } }
        else runAdmission q w

/-- A request held at the barrier or in hold is decided (R314, R565); a cancelled one ends as its admission ends. -/
def resumeRequest (model : Bool) (q : Request) (w : W9) : W9 :=
  let s := slotOf q
  let asked := (streamOf w s).cancelAsked
  match (if model then modelTests w q else none) with
  | some st => refuse q st (freeSlot s w)
  | none => finishCancel s (modStream s (fun t => { t with cancelAsked := asked }) (runAdmission q w))

/-- ADMISSION_DECISION (R265): the next request that intake has passed on; a CANCEL record is carried out (R271). -/
def admissionDecision (w : W9) : W9 := match w.serve.admitQ with
  | [] => w
  | q :: r =>
    let w := { w with serve := { w.serve with admitQ := r } }
    if q.kind = 1 then (if q.stream < 1024 then cancel (slotOf q) q.tag w else winRefused 2 w)
    else newRequest q w

/-- ADMISSION_DECISION. -/
def execAdmissionDecision (s : State) : Host.Outcome State Fault Refusal := lift admissionDecision s

/-! ## Speculation (R274) -/

/-- The stream speculates now (R274). -/
def speculates (w : W9) (s : StreamIx) : Bool :=
  (streamOf w s).spec && rdB w Reg.serveCtrl 30 && w.serve.draftField.isSome && decide (2 ≤ rowsMax w) && !(streamOf w s).shadow

/-- The draft band is available: its field is open and not parked (R564). -/
def draftOpen (w : W9) : Bool := match w.serve.draftField with
  | some f => parkState w f == 0 && fieldStateSeen w f f == 0
  | none => false

/-- DRAFT_EXTEND (R274): the draft band adds an entry to a stream's chain, up to ROWS_MAX − 1 beyond L. -/
def draftExtend (s : StreamIx) (token : Word32) (w : W9) : W9 :=
  if speculates w s && draftOpen w && decide ((streamOf w s).state = .decode) && decide ((chainOf w s).length + 1 < rowsMax w) then
    setChain s (chainOf w s ++ [token]) w
  else w

/-- DRAFT_EXTEND. -/
def execDraftExtend (st : StreamIx) (token : Word32) (s : State) : Host.Outcome State Fault Refusal := lift (draftExtend st token) s

end Sys2Proof.Machine
end

