-- ==== Sys2Proof/Machine/Precision.lean ====
section
/-! DEFINITION. Format control (spec/04_narrow_precision.md R141 to R158): format changes and epochs, Gander samples, escalation and
de-escalation. -/

namespace Sys2Proof.Machine

open Sys2Proof

/-! ## The formats in force -/

/-- PREC_STEP: slots admitted since the image was loaded. -/
def precStep (w : W9) : Nat := rd64 w Reg.precStep
/-- EPOCH of slots now entering stage 0. -/
def epochNow (w : W9) : Bool := rdB w Reg.precStatus 1
/-- CHANGE_PENDING. -/
def changePending (w : W9) : Bool := rdB w Reg.precStatus 2
/-- ESC_EN. -/
def escEn (w : W9) : Bool := rdB w Reg.precCtrl 31
/-- GANDER_N. -/
def ganderN (w : W9) : Nat := rdF w Reg.precCtrl 15 0
/-- RUNG of a layer (Table 4.11). -/
def layerRung (w : W9) (l : LayerIx) : Nat := rdF w (Reg.layerFmt l.val) 1 0
/-- ACT_FMT of a layer. -/
def layerAct (w : W9) (l : LayerIx) : Nat := rdF w (Reg.layerFmt l.val) 27 24

/-- The format of a layer's ladder at a rung. -/
def ladderAt (m : LayerMap) (r : Nat) : Nat := match m.ladder[r]? with
  | some f => f.toNat
  | none => 0

/-- The layers of the image that are narrow and decode, in map order: those Gander samples and the policy moves. -/
def policyLayers (w : W9) : List LayerMap := match w.img with
  | some im => im.body.layers.filter (fun m => !m.wide && m.decode)
  | none => []

/-- The rung a layer is bound for: that of a change or a waiting change that names it, else its own. -/
def targetRung (w : W9) (l : LayerIx) : Nat :=
  let c := match w.prec.change with | some x => x.layers | none => []
  match (w.prec.waiting ++ c).find? (fun e => e.1 == l) with
  | some e => e.2
  | none => layerRung w l

/-- The steward writes a layer's contexts into bank `b`, taking the other words from the bank in force (R143). -/
def writeCtx (g : Rung) (m : LayerMap) (f : Nat) (b : Bool) (c : CtxMap) (w : W9) : W9 := match bandRefTile g c.band c.index with
  | none => w
  | some t =>
    let i := ctxIx b c.n
    let j := ctxIx (!b) c.n
    let v := setField (setField (prd w t (Pg.ctx j)) 27 24 f) 23 23 (b2n (m.burst && elemBits f == 4))
    pwr t (Pg.ctxOutl i) (prd w t (Pg.ctxOutl j)) (pwr t (Pg.ctxScale i) (prd w t (Pg.ctxScale j)) (pwr t (Pg.ctx i) v w))

/-- Write the bank of the epoch not in force: the changed layers in their new formats, and every other layer as it stands, so that the
bank is whole when it comes into force (R143). DEDUCED (log entry 23): the other layers' entries are brought up to date too. -/
def writeBank (ch : List (LayerIx × Nat)) (w : W9) : W9 := match w.img, rungNow w with
  | some im, some g =>
    forEach im.body.contexts (fun c w => match im.body.layers.find? (fun m => m.layer == c.layer) with
      | some m =>
        let f := match ch.find? (fun e => e.1 == c.layer) with
          | some e => ladderAt m e.2
          | none => layerAct w c.layer
        writeCtx g m f (!epochNow w) c w
      | none => w) w
  | _, _ => w

/-- A change's boundary is fixed: step 1 of R143. -/
def startChange (boundary : Nat) (byPair : Bool) (ch : List (LayerIx × Nat)) (w : W9) : W9 :=
  let w := wrB Reg.precStatus 2 true (writeBank ch w)
  { w with prec := { w.prec with change := some ⟨boundary, byPair, ch, false⟩ } }

/-- A layer takes its new rung: LAYER_FMT, ESC_COUNT, and its quiet count starts again (R152). -/
def applyLayer (e : LayerIx × Nat) (w : W9) : W9 := match layerMap w e.1 with
  | none => w
  | some m =>
    let f := ladderAt m e.2
    let v := setField (setField (setField (rd w (Reg.layerFmt e.1.val)) 27 24 f) 1 0 e.2) 2 2 (b2n (m.burst && elemBits f == 4))
    let s := precStep w
    modLayer e.1 (fun x => { x with quietStep := s, decided := none, partnerDown := false })
      (inc (Reg.escCount e.1.val) 1 (wr (Reg.layerFmt e.1.val) v w))

/-- EPOCH_FLIP: the slot that enters now is the first at or after the boundary (R143, R415). -/
def epochFlip (w : W9) : W9 := match w.prec.change with
  | none => w
  | some c =>
    let due := if c.byPairBeat then decide (c.boundary ≤ pairBeat w) else decide (c.boundary ≤ precStep w)
    if due && !c.flipped then
      let w := wrB Reg.precStatus 1 (!epochNow w) w
      forEach c.layers applyLayer { w with prec := { w.prec with change := some { c with flipped := true } } }
    else w

/-- Slots and chunks of the old epoch are left (R143). -/
def oldEpochLeft (w : W9) : Bool :=
  w.serve.pipe.any (fun x => match x with | some s => s.epoch != epochNow w | none => false) ||
  w.serve.groups.any (fun g => match g.running with | some r => r.2.2 != epochNow w | none => false)

/-- Side A commits what waits once no change is pending on either side (R415): one ESC_COMMIT a layer, one boundary. -/
def commitWaiting (w : W9) : W9 :=
  let ch := w.prec.waiting
  if ch.isEmpty ∨ changePending w ∨ !w.pair.escClear then w
  else
    let b := pairBeat w + tLead w
    let w := forEach ch (fun e w => match layerMap w e.1 with
      | some m => sendTwin (.escCommit e.1 (BitVec.ofNat 4 (ladderAt m e.2)) b) w
      | none => w) w
    let w := { w with prec := { w.prec with waiting := [] }, pair := { w.pair with escClear := false } }
    startChange b true ch w

/-- Waiting changes get their boundary (R143, R144): solo, PREC_STEP + 4; paired, side A's commit. -/
def commitNow (w : W9) : W9 :=
  if paired w then (if sideB w then w else commitWaiting w)
  else
    let ch := w.prec.waiting
    if ch.isEmpty ∨ changePending w then w
    else startChange (precStep w + 4) false ch { w with prec := { w.prec with waiting := [] } }

/-- CHANGE_COMPLETE (R143): the last slot and chunk of the old epoch have left; changes that waited are committed together. -/
def changeComplete (w : W9) : W9 := match w.prec.change with
  | some c =>
    if c.flipped ∧ !oldEpochLeft w then
      let w := wrB Reg.precStatus 2 false { w with prec := { w.prec with change := none } }
      let w := if paired w && sideB w then sendTwin (.escClear (pairBeat w)) w else w
      commitNow w
    else w
  | none => w

/-- CHANGE_COMPLETE. -/
def execChangeComplete (s : State) : Host.Outcome State Fault Refusal := lift changeComplete s

/-! ## Decisions (R150 to R154, R561) -/

/-- A decision for a layer waits to be committed; a later one for the same layer takes its place. -/
def addWaiting (e : LayerIx × Nat) (w : W9) : W9 :=
  { w with prec := { w.prec with waiting := w.prec.waiting.filter (fun x => !(x.1 == e.1)) ++ [e] } }

/-- The event of a decision (Table 4.13): the boundary is 0 where it is not yet fixed. -/
def decisionEvent (code : BitVec 16) (l : LayerIx) (old new boundary : Nat) (w : W9) : W9 :=
  raise0 code srcSteward (le 2 l.val ++ le 1 old ++ le 1 new ++ [0, 0, 0, 0] ++ le 8 boundary) w

/-- The W9 decides to move a layer one rung (R151, R152, R153). Paired, side B asks; side A commits an escalation, and a de-escalation
once both have decided it. -/
def decideMove (up : Bool) (m : LayerMap) (w : W9) : W9 :=
  let l := m.layer
  let r := targetRung w l
  let n := if up then r + 1 else r - 1
  let fixed := !paired w && !changePending w
  let b := if fixed then precStep w + 4 else 0
  let w := decisionEvent (if up then 0x2010 else 0x2011) l (ladderAt m r) (ladderAt m n) b w
  let w := modLayer l (fun x => { x with decided := some (if up then .up else .down) }) w
  if paired w then
    if sideB w then sendTwin (.escReq l (BitVec.ofNat 4 (ladderAt m n)) (if up then 0 else 1)) w
    else if up || (layerOf w l).partnerDown then commitNow (addWaiting (l, n) w)
    else w
  else commitNow (addWaiting (l, n) w)

/-- A trigger restarts the quiet count, and a de-escalation that is still pending lapses (R152, R561). -/
def restartQuiet (l : LayerIx) (w : W9) : W9 :=
  let s := precStep w
  let lapse := decide ((layerOf w l).decided = some .down) && paired w
  let w := modLayer l (fun x => { x with quietStep := s, decided := if lapse then none else x.decided }) w
  if lapse && sideB w then sendTwin (.escReq l (BitVec.ofNat 4 (layerAct w l)) 2) w else w

/-- A layer's evaluation point (R150): the overflow count starts again; a trigger is answered (R151). -/
def evaluate (m : LayerMap) (mean : Option F32) (w : W9) : W9 :=
  let l := m.layer
  let s := precStep w
  let hot := match mean with | some e => f32Lt 0x3D000000 e | none => false
  let trig := hot || decide (m.ovfLimit < (layerOf w l).ovf)
  let w := modLayer l (fun x => { x with ovf := 0, evalStep := s }) w
  if trig then
    let w := restartQuiet l w
    if targetRung w l + 1 < m.ladder.length then (if escEn w then decideMove true m w else w)
    else raise0 0x2012 srcSteward (le 2 l.val ++ [0, 0] ++ le 4 (rd w (Reg.errMean l.val)).toNat) w
  else w

/-- The image runs: IMG_STATUS.STATE is RUNNING. -/
def imageRuns (w : W9) : Bool := rdF w Reg.imgStatus 2 0 == 3

/-- EVALUATION_POINT (R150): with Gander off, 4,096 steps after the layer's previous evaluation point. -/
def evaluationPoint (l : LayerIx) (w : W9) : W9 := match (policyLayers w).find? (fun m => m.layer == l) with
  | some m => if ganderN w = 0 ∧ imageRuns w ∧ (layerOf w l).evalStep + 4096 ≤ precStep w then evaluate m none w else w
  | none => w

/-- EVALUATION_POINT. -/
def execEvaluationPoint (layer : LayerIx) (s : State) : Host.Outcome State Fault Refusal := lift (evaluationPoint layer) s

/-- DEESCALATION_DECISION (R152): 65,536 steps without a trigger since the last change, above the base, escalation on. -/
def deescalationDecision (l : LayerIx) (w : W9) : W9 := match (policyLayers w).find? (fun m => m.layer == l) with
  | some m =>
    if imageRuns w ∧ escEn w ∧ 0 < targetRung w l ∧ (layerOf w l).quietStep + 65536 ≤ precStep w ∧ (layerOf w l).decided ≠ some .down then
      decideMove false m w
    else w
  | none => w

/-- DEESCALATION_DECISION. -/
def execDeescalationDecision (layer : LayerIx) (s : State) : Host.Outcome State Fault Refusal := lift (deescalationDecision layer) s

/-! ## Gander (R146 to R149, R582) -/

/-- The entry of a layer's Gander list that step `s` picks (R147). -/
def ganderPick (s l n : Nat) : Nat :=
  let x : BitVec 64 := BitVec.ofNat 64 (s * 0x9E3779B97F4A7C15 + (l + 1) * 0xC2B2AE3D27D4EB4F)
  let x := x ^^^ (x >>> 29)
  let x := x * 0xBF58476D1CE4E5B9
  let x := x ^^^ (x >>> 32)
  x.toNat % n

/-- The current member of the rotation set of a role (R343): ROT_MEMBER_n. -/
def roleMember (w : W9) (g : Rung) (role : Nat) : Option Nat :=
  ((g.rotation.zipIdx).find? (fun e => e.1.role == role)).bind (fun e => e.1.members[rdF w (Reg.rotMember e.2) 7 0]?)

/-- A layer's Gander duty tile (R582). -/
def dutyTile (w : W9) (g : Rung) (m : LayerMap) : Option Tile :=
  match (roleMember w g 3).orElse (fun _ => m.dutyBand) with
  | some b => bandRefTile g b m.dutyTile
  | none => none

/-- Each narrow band of the decode region takes one sample of a Gander slot (R146). -/
def takeSample (s entered : Nat) (g : Rung) (m : LayerMap) (w : W9) : W9 :=
  match m.gander[ganderPick s m.layer.val (max 1 m.gander.length)]? with
  | none => w
  | some e => match bandRefTile g m.band e.1, dutyTile w g m with
    | some t, some d =>
      { w with prec := { w.prec with samples := w.prec.samples.filter (fun x => !(x.layer == m.layer)) ++ [⟨m.layer, t, e.2, d, entered, none⟩] } }
    | _, _ => w

/-- GANDER_SLOT: a slot admitted with PREC_STEP mod GANDER_N = 0 (R146). -/
def ganderSlot (s : Nat) (w : W9) : W9 := match rungNow w with
  | some g =>
    if 0 < ganderN w ∧ s % ganderN w = 0 then forEach (policyLayers w) (takeSample s (rd64 w Reg.beatCount) g) w else w
  | none => w

/-- GANDER_SKIPPED: samples whose slot has left the layer's band before the rerun (R146). -/
def skipSamples (w : W9) : W9 := match rungNow w with
  | none => w
  | some g =>
    let gone (x : Sample) : Bool := x.yn.isNone && (match (layerMap w x.layer).bind (fun m => g.bands.find? (fun b => b.band == m.band)) with
      | some b => match bandStage g b with
        | some i => decide (x.entered + i + 1 ≤ rd64 w Reg.beatCount)
        | none => true
      | none => true)
    let n := (w.prec.samples.filter gone).length
    if n = 0 then w
    else inc Reg.ganderSkipped n { w with prec := { w.prec with samples := w.prec.samples.filter (fun x => !gone x) } }

/-- GANDER_RERUN (R146): the sampled tile has run the block again in an idle gap and sent y_n. -/
def ganderRerun (l : LayerIx) (yn : List F32) (w : W9) : W9 :=
  { w with prec := { w.prec with samples := w.prec.samples.map (fun x =>
    if x.layer = l ∧ x.yn.isNone then { x with yn := some yn } else x) } }

/-- GANDER_RERUN. -/
def execGanderRerun (layer : LayerIx) (yn : List F32) (s : State) : Host.Outcome State Fault Refusal := lift (ganderRerun layer yn) s

/-- A dot product on the vector unit, in ascending k (R146). -/
def vecDot : F32 → List (F32 × F32) → F32
  | s, [] => s
  | s, p :: r => vecDot (f32Add s (f32Mul p.1 p.2)) r

/-- A sum of squares. -/
def sumSq (l : List F32) : F32 := vecDot 0 (l.map (fun x => (x, x)))

/-- The negative of an FP32 value. -/
def f32Neg (x : F32) : F32 := x ^^^ 0x80000000

/-- A zero of either sign. -/
def f32Zero (x : F32) : Bool := x == 0 || x == 0x80000000

/-- The error of a sample (R148). -/
def ganderError (yn yw : List F32) : F32 :=
  let den := sumSq yw
  if f32Zero den then (if yn.all f32Zero then 0 else 0x3F800000)
  else f32Div (f32Sqrt (sumSq ((yn.zip yw).map (fun p => f32Add p.1 (f32Neg p.2))))) (f32Sqrt den)

/-- A window that holds 256 samples closes: ERR_MEAN, and an evaluation point (R148, R150). -/
def closeWindow (m : LayerMap) (errs : List F32) (w : W9) : W9 :=
  let mean := f32Div (errs.foldl f32Add 0) 0x43800000
  let w := modLayer m.layer (fun x => { x with errs := [] }) w
  evaluate m (some mean) (wr (Reg.errWindow m.layer.val) 0 (wr (Reg.errMean m.layer.val) mean w))

/-- A sample with e ≤ 2^-1 enters the window (R148). -/
def addSample (m : LayerMap) (e : F32) (w : W9) : W9 :=
  let errs := (layerOf w m.layer).errs ++ [e]
  let w := wr (Reg.errWindow m.layer.val) (BitVec.ofNat 32 errs.length) (modLayer m.layer (fun x => { x with errs := errs }) w)
  if 256 ≤ errs.length then closeWindow m errs w else w

/-- A gross sample (R149): counted, reported, and both units are tested. -/
def grossSample (x : Sample) (e : F32) (w : W9) : W9 :=
  let w := raise0 0x2020 srcSteward (le 2 x.layer.val ++ le 2 x.tile.val ++ le 2 x.duty.val ++ [0, 0] ++ le 4 e.toNat)
    (inc Reg.ganderGross 1 w)
  queueTest (.vector x.duty) 4 (queueTest (.array x.tile) 4 w)

/-- The duty tile computes y_w and e of a sample whose y_n it has (R146, R148). -/
def errorOf (x : Sample) (yn : List F32) (weights : List (List F32)) (acts : List F32) (w : W9) : W9 :=
  let yw := weights.map (fun r => vecDot 0 (r.zip acts))
  let e := ganderError yn yw
  let w := inc Reg.ganderSamples 1 { w with prec := { w.prec with samples := w.prec.samples.filter (fun y => !(y.layer == x.layer)) } }
  if f32Lt 0x3F000000 e then grossSample x e w
  else match (policyLayers w).find? (fun m => m.layer == x.layer) with
    | some m => if ganderN w = 0 then w else addSample m e w
    | none => w

/-- GANDER_ERROR_COMPUTE (R148). -/
def ganderErrorCompute (l : LayerIx) (weights : List (List F32)) (acts : List F32) (w : W9) : W9 :=
  match w.prec.samples.find? (fun x => x.layer == l) with
  | some x => match x.yn with
    | some yn => errorOf x yn weights acts w
    | none => w
  | none => w

/-- GANDER_ERROR_COMPUTE. -/
def execGanderErrorCompute (layer : LayerIx) (weights : List (List F32)) (acts : List F32) (s : State) :
    Host.Outcome State Fault Refusal := lift (ganderErrorCompute layer weights acts) s

end Sys2Proof.Machine
end

