-- ==== Sys2Proof/Machine/Shadow.lean ====
section
/-! DEFINITION. Delivering tokens (R267 to R272, R375), and class-0 streams that two W9s run at once: commits, the shadow backlog,
mismatches and hand-off (spec/11_edge_links_twin.md R408, R413, R414, R422). -/

namespace Sys2Proof.Machine

open Sys2Proof

/-! ## Deadlines and delivery -/

/-- The deadline of the next token: class 0 by R267, class 1 D_j; class 2 has none. -/
def nextDeadline (t : Stream) : Option Nat :=
  if t.cls = 0 then some (if t.generated = 0 then t.deadlineFirst else t.lastDelivery + t.deadlineStep)
  else if t.cls = 1 then some (t.deadlineFirst + t.generated * t.deadlineStep)
  else none

/-- A token ends its stream: 1 for the stop token, 0 for the last that MAX_NEW allows (R272). -/
def endOf (t : Stream) (tok : Word32) : Option (BitVec 8) :=
  if tok = t.stopId ∧ t.stopId ≠ 0xFFFFFFFF then some 1
  else if t.maxNew ≤ t.generated + 1 then some 0 else none

/-- A token is committed at position L + 1: the token log, L, GENERATED and LAST_DELIVERY (R228, R230). -/
def commitToken (s : StreamIx) (t : Nat) (tok : Word32) (w : W9) : W9 :=
  let w := writeLog s ((streamOf w s).length + 1) [tok] w
  modStream s (fun x => { x with length := x.length + 1, generated := x.generated + 1, lastDelivery := t }) w

/-- One token record goes to the host port (R256, R268); `late` carries the deadline it missed. -/
def deliverToken (s : StreamIx) (t : Nat) (late : Option Nat) (spec : Bool) (tok : Word32) (w : W9) : W9 :=
  let x := streamOf w s
  let pos := x.length + 1
  let c := x.cls.toNat
  let n := now w
  let w := pushToken s ⟨tok, spec, (endOf x tok).isSome, late.isSome, pos, n⟩ (winTokens t c 1 (commitToken s t tok w))
  match late with
  | some d => raiseS 0x5010 srcSteward s (le 8 pos ++ le 8 d) (winLate t c 1 (modStream s (fun y => { y with lateSeen := true }) w))
  | none => w

/-- Deliver the tokens of a step in position order at time `t` (R267 to R272). The answer is the status the stream ends with. -/
def deliverTokens (s : StreamIx) (t : Nat) (late : Option Nat) : List (Word32 × Bool) → W9 → Option (BitVec 8) × W9
  | [], w => (none, w)
  | (tok, spec) :: r, w =>
    let x := streamOf w s
    let d := x.deadlineFirst + x.generated * x.deadlineStep
    if x.cls = 1 ∧ d < t then
      (some 4, raiseS 0x5011 srcSteward s (le 8 (x.length + 1) ++ le 8 d) (winLate t 1 (r.length + 1) w))
    else
      let w := deliverToken s t late spec tok w
      match endOf x tok with
      | some e => (some e, if x.cls = 1 then winLate t 1 r.length w else w)
      | none => deliverTokens s t late r w

/-- The deadline that a class-0 step delivered at `t` misses (R267, R268). -/
def lateBy (x : Stream) (t : Nat) : Option Nat :=
  if x.cls = 0 then (nextDeadline x).filter (fun d => decide (d < t)) else none

/-- What follows a delivery: blocks read and filled, the next block, the record, or the end of the stream (R228, R232, R272). -/
def afterDelivery (s : StreamIx) (e : Option (BitVec 8)) (w : W9) : W9 :=
  let w := fillBlocks s (touchBlocks s w)
  match e with
  | some st => endStream s st w
  | none => syncRecord s (ensureBlocks s (streamOf w s).length 1 w).2

/-! ## COMMIT (R408, R414) -/

/-- Send COMMITs for tokens from position `pos`, at most four to a message, LAST on the last (Table 11.3). -/
def sendCommits (s : StreamIx) (byOwner : Bool) (lAfter : Nat) : Nat → Nat → List Word32 → W9 → W9
  | 0, _, _, w => w
  | k + 1, pos, toks, w =>
    let r := toks.drop 4
    let w := sendTwin (.commit ⟨s, r.isEmpty, byOwner, pos, lAfter, toks.take 4⟩) w
    if r.isEmpty then w else sendCommits s byOwner lAfter k (pos + 4) r w

/-- Forget the commits of a stream, and its tokens in the shadow backlog. -/
def dropCommits (s : StreamIx) (w : W9) : W9 :=
  { w with pair := { w.pair with
    own := w.pair.own.filter (fun c => !(c.stream == s)), theirs := w.pair.theirs.filter (fun c => !(c.stream == s)),
    backlog := w.pair.backlog.filter (fun c => !(c.stream == s)) } }

/-- The slots of a stream leave the pipeline and its hand-over is withdrawn. -/
def dropSlots (s : StreamIx) (w : W9) : W9 :=
  { w with serve := { w.serve with
    pipe := w.serve.pipe.map (fun x => match x with | some y => if y.stream = s then none else some y | none => none)
    handOvers := w.serve.handOvers.filter (fun h => !(h.slot.stream == s))
    tainted := w.serve.tainted.filter (fun e => !(e.1 == s)) } }

/-- This W9 frees the shadow it keeps; the phase stays held until the stream ends (R414). -/
def freeShadow (keepPhase : Bool) (s : StreamIx) (w : W9) : W9 :=
  let ph := if keepPhase then (streamOf w s).phase else none
  let w := releaseHoldings s (dropWork s (dropSlots s w))
  let w := { w with pair := { w.pair with
    shadows := w.pair.shadows.filter (fun x => decide (x ≠ s)), shadowPhases := smPut (fun _ => none) w.pair.shadowPhases s.val ph } }
  freeSlot s (dropCommits s w)

/-- A shadow ends: the twin frees it, and the owner goes on unshadowed (R414). -/
def shadowEnds (s : StreamIx) (w : W9) : W9 :=
  if w.pair.shadows.contains s then freeShadow true s w
  else
    let w := putStream s (fun t => { t with shadow := false }) (dropCommits s w)
    { w with pair := { w.pair with ownReady := w.pair.ownReady.filter (· ≠ s), twinReady := w.pair.twinReady.filter (· ≠ s) } }

/-- The tiles that run every slot: the layer bands and the sampler. -/
def slotTiles (w : W9) : List Tile := match rungNow w with
  | some g => (g.bands.filter (fun b => decide (b.role ≤ 1))).flatMap (fun b => bandTiles g b.band)
  | none => []

/-- A mismatch of shadowed stream `s` at a position (R414): `missing` where the partner's COMMIT has not come. Differing tokens have the
array of every tile that ran the slot tested (Table 15.3). -/
def mismatch (s : StreamIx) (pos : Nat) (missing : Bool) (w : W9) : W9 :=
  let w := raiseS 0x9021 srcSteward s (le 4 pos ++ [BitVec.ofNat 8 (b2n missing)]) (inc Reg.tokenMismatch 1 w)
  let w := if missing then w else forEach (slotTiles w) (fun t w => queueTest (.array t) 5 w) w
  shadowEnds s w

/-- The shadow this W9 keeps has handed over its last token and the owner has committed it: the slot is free. -/
def finishShadow (s : StreamIx) (w : W9) : W9 :=
  if w.pair.shadows.contains s && decide ((streamOf w s).state = .ending) && !w.pair.backlog.any (fun c => c.stream == s) then
    freeShadow false s w
  else w

/-- Each twin compares the two COMMITs of a step (R414). The owner's COMMIT takes its token out of the shadow backlog. -/
def compareCommits (s : StreamIx) (w : W9) : W9 := match w.pair.own.find? (fun c => c.stream == s) with
  | none => w
  | some a => match w.pair.theirs.find? (fun b => b.stream == s && b.position == a.position) with
    | none => w
    | some b =>
      if a.tokens = b.tokens then
        finishShadow s { w with pair := { w.pair with
          own := w.pair.own.erase a, theirs := w.pair.theirs.erase b
          backlog := w.pair.backlog.filter (fun c => !(c.stream == s && c.position == a.position)) } }
      else mismatch s a.position false w

/-- This W9's hand-over of a shadowed step is noted, sent and compared (R414). -/
def ownCommit (s : StreamIx) (pos t : Nat) (toks : List Word32) (byOwner : Bool) (w : W9) : W9 :=
  if !paired w then w
  else
    let w := { w with pair := { w.pair with own := w.pair.own ++ [⟨s, pos, toks, t, 0⟩] } }
    compareCommits s (sendCommits s byOwner (pos + toks.length - 1) toks.length pos toks w)

/-- A confirmed step of a shadow: its tokens wait in the shadow backlog (R414). -/
def shadowStep (s : StreamIx) (t : Nat) (toks : List Word32) (w : W9) : W9 :=
  let x := streamOf w s
  let pos := x.length + 1
  let due := (nextDeadline x).getD 0
  let w := forEach toks (fun k w => commitToken s t k w) w
  let w := { w with pair := { w.pair with backlog := w.pair.backlog ++ [⟨s, pos, toks, t, due⟩] } }
  let w := match toks.findSome? (endOf x) with
    | some e => modStream s (fun y => { y with state := .ending, endStatus := e, endTime := t }) w
    | none => w
  ownCommit s pos t toks false (syncRecord s w)

/-! ## The shadow backlog goes out (R419, R422) -/

/-- One token of the backlog is handed over now: L already counts it. Only the first of them can be late (R267). -/
def backlogToken (s : StreamIx) (pos : Nat) (late : Option Nat) (tok : Word32) (w : W9) : W9 :=
  let x := streamOf w s
  let t := now w
  let last := decide (x.state = .ending) && decide (pos = x.length)
  let w := pushToken s ⟨tok, false, last, late.isSome, pos, t⟩ (winTokens t x.cls.toNat 1 (modStream s (fun y => { y with lastDelivery := t }) w))
  match late with
  | some d => raiseS 0x5010 srcSteward s (le 8 pos ++ le 8 d) (winLate t x.cls.toNat 1 (modStream s (fun y => { y with lateSeen := true }) w))
  | none => w

/-- Hand over the backlog of a stream that is now this W9's own, past a position; a stream whose last token it held ends. -/
def deliverBacklog (s : StreamIx) (after : Nat) (w : W9) : W9 :=
  let cs := w.pair.backlog.filter (fun c => c.stream == s)
  let t := now w
  let toks := cs.flatMap (fun c => c.tokens.zipIdx.map (fun e => (c.position + e.2, e.1, c.due)))
  let go := toks.filter (fun e => decide (after < e.1))
  let w := { w with pair := { w.pair with backlog := w.pair.backlog.filter (fun c => !(c.stream == s)) } }
  let w := forEach go.zipIdx (fun e w =>
    backlogToken s e.1.1 (if e.2 = 0 ∧ 0 < e.1.2.2 ∧ e.1.2.2 < t then some e.1.2.2 else none) e.1.2.1 w) w
  let x := streamOf w s
  if !cs.isEmpty ∧ x.state = .ending then endStream s x.endStatus (modStream s (fun y => { y with state := .decode }) w) else w

/-! ## Hand-off (R422) -/

/-- The owner hands a shadowed stream to the twin after a hand-over: the slot stays in ENDING with its pages until ENDED comes. -/
def handOff (s : StreamIx) (w : W9) : W9 :=
  let l := (streamOf w s).length
  let w := putStream s (fun t => { t with handedOff := true, shadow := false, state := .ending }) (dropCommits s (dropSlots s w))
  sendTwin (.handoff s l) (raiseS 0x9015 srcSteward s (le 4 l ++ [0]) w)

/-- A class-0 stream of this W9 is handed off at its next hand-over: a class-0 release (R480) or a flip with MOVE0 that drains (R314). -/
def handOffDue (w : W9) (s : StreamIx) : Bool :=
  let t := streamOf w s
  paired w && t.shadow && isClass0 t && !w.pair.shadows.contains s && decide (t.state = .decode) &&
    (w.env.release.isSome || (match w.wt.flip with
      | some f => f.move0 && !f.committed && decide (rdF w Reg.flipStatus 2 0 = 2)
      | none => false))

/-! ## STEP_CONFIRM (R530 to R532) -/

/-- The chain after a step (R279): kept beyond the new L where every entry at a committed position is the token committed there, else
cut. -/
def cutChain (chain toks : List Word32) : List Word32 :=
  if (chain.zip toks).all (fun p => p.1 == p.2) then chain.drop toks.length else []

/-- FAULT_STATUS shows the suspects left, and RECOVERY is IDLE once none is (Table 15.11). -/
def syncSuspects (w : W9) : W9 :=
  let n := w.flt.suspects.length
  let w := wrF Reg.faultStatus 10 0 n w
  if n = 0 ∧ rdF w Reg.faultStatus 30 28 = 5 then wrF Reg.faultStatus 30 28 0 w else w

/-- A replayed suspect is cleared (R548, R549). -/
def clearSuspect (s : StreamIx) (w : W9) : W9 := match w.flt.replay with
  | some r =>
    if r.stream = s ∧ !r.chunk then
      let l := (streamOf w s).length
      let w := { w with flt := { w.flt with replay := none, suspects := w.flt.suspects.filter (fun x => decide (x ≠ s)) } }
      raiseS 0xD030 srcSteward s (le 4 l) (wrB Reg.hangInfo 27 false (syncSuspects w))
    else w
  | none => w

/-- A confirmed step of a stream this W9 owns: its tokens go to the host port and its COMMITs to the twin (R530, R408, R414). -/
def ownStep (s : StreamIx) (h : HandOver) (w : W9) : W9 :=
  let x := streamOf w s
  let toks := h.sampled.take h.accepted
  let w := setChain s (cutChain (chainOf w s) toks) w
  let r := deliverTokens s h.time (lateBy x h.time) (toks.zipIdx.map (fun e => (e.1, decide (0 < e.2)))) w
  let sent := toks.take ((streamOf r.2 s).length - x.length)
  let w := if sent.isEmpty then r.2
    else if x.shadow then ownCommit s (x.length + 1) h.time sent true r.2
    else if mirrors r.2 s then sendCommits s true (x.length + sent.length) sent.length (x.length + 1) sent r.2
    else r.2
  let w := clearSuspect s (afterDelivery s r.1 w)
  if handOffDue w s then handOff s w else w

/-- The repair of a tainted step's words (R531, Table 15.2), where the machine can tell them: a damaged token log ends the stream; a
damaged weight set is reported with its far address. The answer says whether the stream ended. -/
def repairWords (s : StreamIx) (w : W9) : Bool × W9 :=
  let set := match w.wt.active with
    | some h => w.mem.farUE.filter (fun q => (farQuarters w (rd64 w Reg.wsetActive) h.totalLen).contains q)
    | none => []
  let w := forEach set (fun q w => raise0 0xD023 (srcGw (farGateway q).val) (le 8 q) w) w
  let log := match farOf w with
    | some f => (farQuarters w (logBase f s) (4 * ((streamOf w s).length + 1))).any (fun q => w.mem.farUE.contains q)
    | none => false
  if log then (true, endStream s 0x25 w) else (false, w)

/-- A taint flag names the step before its confirmation (R530, R532): nothing is delivered, and the step runs again. Shadowed, the owner
hands the stream off; a shadow ends. Where both twins taint the step side A keeps the stream: a tainted shadow of side A waits for
the owner's word (log entry 24). -/
def withdrawStep (s : StreamIx) (kind : Bool) (w : W9) : W9 :=
  let t := streamOf w s
  let w := { w with serve := { w.serve with tainted := w.serve.tainted.filter (fun e => !(e.1 == s)) } }
  let w := raiseS 0xD022 srcSteward s (le 4 t.length ++ [BitVec.ofNat 8 (b2n kind)]) (inc Reg.stepsTainted 1 w)
  match repairWords s w with
  | (true, w) => w
  | (false, w) =>
    if paired w && w.pair.shadows.contains s then
      if sideB w then mismatch s (t.length + 1) true w
      else modStream s (fun x => { x with handedOff := true }) w
    else if paired w && t.shadow then handOff s w
    else w

/-- The taint that names stream `s`, if any. -/
def taintKind (w : W9) (s : StreamIx) : Option Bool := (w.serve.tainted.find? (fun e => e.1 == s)).map (·.2)

/-- A step that a CANCEL has overtaken: its tokens are discarded, and the stream ends (R271). -/
def discardStep (s : StreamIx) (h : HandOver) (w : W9) : W9 :=
  finishCancel s (if (streamOf w s).cls = 1 then winLate h.time 1 h.accepted w else w)

/-- STEP_CONFIRM (R530): 1.5 µs after its boundary a hand-over is confirmed, or withdrawn where a taint flag names it. -/
def stepConfirm (s : StreamIx) (w : W9) : W9 := match w.serve.handOvers.find? (fun h => h.slot.stream == s) with
  | none => w
  | some h =>
    if now w < h.time + 1500 then w
    else
      let w := { w with serve := { w.serve with handOvers := w.serve.handOvers.filter (fun x => !(x.slot.stream == s)) } }
      match taintKind w s with
      | some k => finishCancel s (withdrawStep s k w)
      | none =>
        if w.pair.shadows.contains s then shadowStep s h.time (h.sampled.take h.accepted) w
        else
          let w := deliverBacklog s 0 w
          if (streamOf w s).cancelAsked then discardStep s h w else ownStep s h w

/-- STEP_CONFIRM. -/
def execStepConfirm (st : StreamIx) (s : State) : Host.Outcome State Fault Refusal := lift (stepConfirm st) s

end Sys2Proof.Machine
end

