-- ==== Sys2Proof/Machine/Flip.lean ====
section
/-! DEFINITION. Replacing the model (spec/08_weights_tiers.md R312 to R321): starting, draining, parking, committing, aborting and
refilling. -/

namespace Sys2Proof.Machine

open Sys2Proof

/-- FLIP_STATUS.STATE: 0 IDLE, 1 BUILDING, 2 DRAINING, 3 REFILLING, 4 DONE, 5 FAILED, 6 ABORTED (Table 8.8). -/
def flipState (w : W9) : Nat := rdF w Reg.flipStatus 2 0
/-- Set it with a reason. -/
def setFlip (st reason : Nat) (w : W9) : W9 := wrF Reg.flipStatus 7 4 reason (wrF Reg.flipStatus 2 0 st w)
/-- A flip is in progress. -/
def flipping (w : W9) : Bool := decide (1 ≤ flipState w) && decide (flipState w ≤ 3)

/-- A command register of the host takes effect: the host port answers and the part is not in safe mode (R513). -/
def cmdOpen (w : W9) : Bool := hostAnswers w && !safeMode w

/-- Event 0x6023. -/
def flipStopped (b : Byte) (w : W9) : W9 := raise0 0x6023 srcSteward [b] w

/-- A FLIP_CMD is discarded (R314). -/
def flipReject (w : W9) : W9 := flipStopped 3 (wrB Reg.flipStatus 16 true w)

/-- The image allows a second copy (R312). -/
def secondCopy (w : W9) : Bool := match farOf w with
  | some f => f.secondCopy
  | none => false

/-- The header of the set at FLIP_SET, where it can be flipped to (R314). -/
def flipSetOk (w : W9) (set ver : Nat) : Option SetHeader := match w.wt.verified, w.img with
  | some (a, h), some im =>
    if a.toNat == set && rd64 w Reg.loadVerified == set && h.kind == 0 && h.mapId.toNat == im.mapId && h.modelVer.toNat == ver then some h
    else none
  | _, _ => none

/-- A flip begins (R314): BUILDING with a second copy, else DRAINING. -/
def flipBegin (move0 : Bool) (set : Nat) (h : SetHeader) (w : W9) : W9 :=
  let t := now w
  let cur := rd w Reg.modelVer
  let w := { w with wt := { w.wt with flip := some {
    started := t, move0 := move0, oldVer := cur, version := h.modelVer, set := BitVec.ofNat 64 set, header := h, drainPassed := false,
    committed := false, switchBeat := none, entry := 0, retried := false } } }
  let w := raise0 0x6020 srcSteward (le 4 cur.toNat ++ le 4 h.modelVer.toNat) w
  let w := wr Reg.flipProgress 0 (wrB Reg.flipStatus 9 (secondCopy w) (setFlip (if secondCopy w then 1 else 2) 0 w))
  if secondCopy w then queueItems set (!rdB w Reg.flipStatus 8) w else w

/-- START of a flip (R314): refused, FAILED with reason 1, or begun. -/
def flipStart (move0 : Bool) (w : W9) : W9 :=
  let ver := rd w Reg.flipVerArg
  let set := rd64 w Reg.flipSet
  if !cmdOpen w then w
  else if flipping w || !imageRuns w then flipReject w
  else if ver = 0 || ver == rd w Reg.modelVer then flipStopped 1 (setFlip 5 1 w)
  else match flipSetOk w set ver.toNat with
    | some h => flipBegin move0 set h w
    | none => flipStopped 1 (setFlip 5 1 w)

/-- START. -/
def execStart (move0 : Bool) (s : State) : Host.Outcome State Fault Refusal := lift (flipStart move0) s

/-! ## Parking and resuming (R315, R316) -/

/-- A recompute chunk for every RECOMPUTING block whose chunk left the queue. -/
def lostRecompute (w : W9) (s : StreamIx) : List Chunk :=
  ((streamBlocks w s).filter (fun e => decide (e.2.state = .recomputing) &&
    !w.serve.queue.any (fun c => c.stream == s && c.recompute == some e.1))).map (fun e => ⟨s, 256 * e.1, 256, some e.1⟩)

/-- A stream goes on where it was: its chunks are queued again from its first uncovered position, and it is in PREFILL or DECODE (R316). -/
def goOn (s : StreamIx) (w : W9) : W9 :=
  let t := streamOf w s
  let cs := prefillChunks w s t.length (t.promptLen - 1) ++ lostRecompute w s
  let w := { w with serve := { w.serve with queue := w.serve.queue ++ cs } }
  if cs.isEmpty then (ensureBlocks s t.length 1 (setState s .decode w)).2 else setState s .prefill w

/-- A parked stream resumes (R316). -/
def resumeParked (s : StreamIx) (w : W9) : W9 :=
  let l := (streamOf w s).length
  raiseS 0x6025 srcSteward s (le 4 l) (goOn s (modStream s (fun t => { t with parkAsked := false }) w))

/-- The streams that a committed version lets resume: PARKED, bound to MODEL_VER, and no flip in progress. -/
def resumable (w : W9) : List StreamIx :=
  if flipping w then []
  else (busyStreams w).filter (fun s => decide ((streamOf w s).state = .parked) && (streamOf w s).modelVer == rd w Reg.modelVer &&
    !(streamOf w s).cancelAsked)

/-- A stream to be parked has no work in flight (R315). -/
def parkReady (w : W9) (s : StreamIx) : Bool :=
  (streamOf w s).parkAsked && !inPipe w s && !chunkRuns w s && !awaiting w s &&
    ([.prefill, .decode, .held] : List StreamState).contains (streamOf w s).state

/-- STREAM_PARK (R315): the parking of a stream takes effect once it has no slot in the pipeline and no chunk running. -/
def streamPark (s : StreamIx) (w : W9) : W9 :=
  if parkReady w s then
    let t := streamOf w s
    let w := { w with
      serve := { w.serve with queue := w.serve.queue.filter (fun c => !(c.stream == s)) }
      kv := { w.kv with held := w.kv.held.filter (fun e => !(e.1 == s)) } }
    let w := putStream s (fun x => { x with state := .parked, parkAsked := false, parkedIn := if x.state = .prefill then .prefill else .decode }) w
    let w := wrF Reg.flipProgress 15 0 (rdF w Reg.flipProgress 15 0 + 1) w
    raiseS 0x6024 srcSteward s (le 4 t.length) w
  else w

/-- STREAM_PARK. -/
def execStreamPark (st : StreamIx) (s : State) : Host.Outcome State Fault Refusal := lift (streamPark st) s

/-! ## Ends of a flip (R314, R319, R320) -/

/-- Every request held at the barrier is refused with REFUSED_MODEL; it bound nothing. -/
def refuseHeld (w : W9) : W9 :=
  let qs := w.serve.held
  forEach qs (fun q w => refuse q 0x12 (freeSlot (slotOf q) w)) { w with serve := { w.serve with held := [] } }

/-- No stream is asked to park any more. -/
def dropParkAsks (w : W9) : W9 := forEach (busyStreams w) (fun s w => modStream s (fun t => { t with parkAsked := false }) w) w

/-- The flip is over: nothing waits for it. -/
def flipOver (st reason : Nat) (w : W9) : W9 :=
  let w := wrB Reg.flipStatus 10 false (wr64 Reg.wselAtBeat 0xFFFFFFFFFFFFFFFF (setFlip st reason w))
  dropItems (dropParkAsks { w with wt := { w.wt with flip := none } })

/-- A flip that has not committed is aborted (R319): `b` is byte 0 of event 0x6023. Parked streams resume at once. -/
def abortFlip (b : Byte) (w : W9) : W9 :=
  let w := refuseHeld (flipStopped b (flipOver 6 0 w))
  forEach (resumable w) resumeParked w

/-- The flip has reached its commit point (R319). -/
def flipCommitted (w : W9) : Bool := match w.wt.flip with
  | some f => f.committed
  | none => false

/-- ABORT (R319): discarded where no flip is in progress, or after the commit point. -/
def flipAbort (w : W9) : W9 :=
  if !cmdOpen w then w
  else if !flipping w || flipCommitted w then flipReject w
  else abortFlip 0 w

/-- ABORT. -/
def execFlipAbort (s : State) : Host.Outcome State Fault Refusal := lift flipAbort s

/-- Beat pulses are withheld from, or given back to, every field for a refill (R318). -/
def setRefill (b : Bool) (w : W9) : W9 :=
  forEach allFields (fun f w => modField f (fun x => { x with withheld := { x.withheld with refill := b } }) w) w

/-- UNLOAD, RELOAD or a reset stops a flip (R319): before the commit point it is ABORTED, from it on FAILED with REASON 3 and
MODEL_VER 0. -/
def stopFlip (w : W9) : W9 :=
  if !flipping w then w
  else if flipCommitted w then refuseHeld (flipStopped 4 (setRefill false (wr Reg.modelVer 0 (flipOver 5 3 w))))
  else abortFlip 4 w

/-- Adapters CURRENT for the outgoing version become RETIRING (R321). -/
def retireAdapters (w : W9) : W9 :=
  let w := forEach (List.finRange 64) (fun n w =>
    if adState w n = 2 then adSettle n (wrF (Reg.adapterId n.val) 1 0 3 w) else w) w
  writeAdapterTable w

/-- The shadows that this W9 keeps end at the commit point, without self-test (R314). -/
def endShadows (w : W9) : W9 := forEach w.pair.shadows (fun s w => shadowEnds s w) w

/-- The held requests are admitted in arrival order (R314). -/
def admitHeld (w : W9) : W9 :=
  let qs := w.serve.held
  forEach qs (fun q w => resumeRequest true q w) { w with serve := { w.serve with held := [] } }

/-- FLIP_COMMIT (R314, R317, R321): the incoming version and set are in force; what waited goes on. -/
def flipCommit (w : W9) : W9 := match w.wt.flip with
  | none => w
  | some f =>
    let w := retireAdapters (wr64 Reg.wsetActive f.set.toNat (wr Reg.modelVer f.version w))
    let w := { w with wt := { w.wt with active := some f.header } }
    let w := raise0 0x6022 srcSteward (le 4 f.oldVer.toNat ++ le 4 f.version.toNat ++ le 8 f.started) w
    admitHeld (writeHeader (flipOver 4 0 w))

/-- The refill has failed twice (R320): FAILED, MODEL_VER 0; pulses resume at the next beat start. -/
def refillFailed (w : W9) : W9 := refuseHeld (flipStopped 2 (writeHeader (wr Reg.modelVer 0 (flipOver 5 2 w))))

/-! ## The drain (R314) -/

/-- FLIP_BUILD_COMPLETE (R314): every Mule item is complete, so the spare copy holds the incoming set. -/
def flipBuilt (w : W9) : W9 := if flipState w = 1 ∧ itemsDone w = true then setFlip 2 0 w else w

/-- FLIP_BUILD_COMPLETE. -/
def execFlipBuildComplete (s : State) : Host.Outcome State Fault Refusal := lift flipBuilt s

/-- The streams of the current version that this W9 owns and that hold the drain: `c0` picks the class-0 ones. -/
def draining (w : W9) (c0 : Bool) : List StreamIx :=
  (busyStreams w).filter (fun s =>
    let t := streamOf w s
    ([.admitting, .prefill, .decode, .held] : List StreamState).contains t.state && t.modelVer == rd w Reg.modelVer &&
      !w.pair.shadows.contains s && !w.serve.held.any (fun q => slotOf q == s) && decide ((t.cls = 0) = c0))

/-- WAIT_CLASS0: draining waits only on class-0 streams (Table 8.8). -/
def waitClass0 (w : W9) : Bool := decide (flipState w = 2) && (draining w false).isEmpty && !(draining w true).isEmpty

/-- FLIP_DRAIN_EXPIRED (R314): FLIP_DRAIN has passed since START; the class-1 and class-2 streams left are parked. -/
def drainExpired (w : W9) : W9 := match w.wt.flip with
  | none => w
  | some f =>
    if flipState w = 2 ∧ !f.drainPassed ∧ f.started + (rd w Reg.flipDrain).toNat ≤ now w then
      let left := draining w false
      let w := { w with wt := { w.wt with flip := some { f with drainPassed := true } } }
      let w := forEach left (fun s w => modStream s (fun t => { t with parkAsked := true }) w) w
      raise0 0x6021 srcSteward (le 2 left.length) w
    else w

/-- FLIP_DRAIN_EXPIRED. -/
def execFlipDrainExpired (s : State) : Host.Outcome State Fault Refusal := lift drainExpired s

/-- A refill with nothing to refill commits at once. -/
def startRefill (f : Flip) (w : W9) : W9 :=
  let w := setRefill true (setFlip 3 0 { w with wt := { w.wt with flip := some { f with committed := true } } })
  let w := endShadows w
  let n := match farOf w with | some l => l.refill.length | none => 0
  if n = 0 then flipCommit (setRefill false w) else w

/-- A slot of the current version that this W9 owns is in the pipeline. -/
def ownSlots (w : W9) : Bool := w.serve.pipe.any (fun x => match x with
  | some y => !w.pair.shadows.contains y.stream
  | none => false)

/-- FLIP_DRAIN_COMPLETE (R314, R317, R318): no stream of the current version is left and its last slot has left the sampler. With a second
copy the switch boundary is named in WSEL_AT_BEAT; in place the refill starts, which is the commit point. -/
def drainComplete (w : W9) : W9 := match w.wt.flip with
  | none => w
  | some f =>
    if flipState w = 2 ∧ (draining w false).isEmpty ∧ (draining w true).isEmpty ∧ !ownSlots w ∧ f.switchBeat.isNone then
      if secondCopy w then
        let n := rd64 w Reg.beatCount + 1
        wr64 Reg.wselAtBeat n { w with wt := { w.wt with flip := some { f with switchBeat := some n } } }
      else startRefill f w
    else w

/-- FLIP_DRAIN_COMPLETE. -/
def execFlipDrainComplete (s : State) : Host.Outcome State Fault Refusal := lift drainComplete s

/-- REFILL_ENTRY_DONE (R318, R320): the tiles of the current entry have signalled. Damaged data refills the entry once more, then fails the
flip; the last entry commits it. -/
def refillEntryDone (damaged : Bool) (w : W9) : W9 := match w.wt.flip with
  | none => w
  | some f =>
    if flipState w ≠ 3 then w
    else if damaged then
      if f.retried then refillFailed w
      else { w with wt := { w.wt with flip := some { f with retried := true } } }
    else
      let n := match farOf w with | some l => l.refill.length | none => 0
      let k := f.entry + 1
      let w := wrF Reg.flipProgress 31 16 k { w with wt := { w.wt with flip := some { f with entry := k, retried := false } } }
      if n ≤ k then flipCommit (setRefill false w) else w

/-- REFILL_ENTRY_DONE. -/
def execRefillEntryDone (damaged : Bool) (s : State) : Host.Outcome State Fault Refusal := lift (refillEntryDone damaged) s

/-- The switch of a second copy (R317): every field toggles WSEL, and the flip commits. -/
def wselSwitch (w : W9) : W9 := match w.wt.flip with
  | none => w
  | some f =>
    if f.switchBeat = some (rd64 w Reg.beatCount) then
      let w := forEach allFields (fun x w => modField x (fun y => { y with wsel := !y.wsel }) w) w
      let w := wrB Reg.flipStatus 8 (!rdB w Reg.flipStatus 8) w
      flipCommit (endShadows { w with wt := { w.wt with flip := some { f with committed := true } } })
    else w

end Sys2Proof.Machine
end

