-- ==== Sys2Proof/Machine/Adapters.lean ====
section
/-! DEFINITION. Adapters (spec/07_serving.md R280 to R282). -/

namespace Sys2Proof.Machine

open Sys2Proof

/-- ADAPTER_STATUS.STATE: 0 IDLE, 1 LOADING, 2 BUSY, 3 DONE, 4 ERROR (Table 7.10). -/
def setAdapter (st : Nat) (w : W9) : W9 := wrF Reg.adapterStatus 2 0 st w

/-- A command is LOADING or BUSY. -/
def adapterBusy (w : W9) : Bool := decide (1 ≤ rdF w Reg.adapterStatus 2 0) && decide (rdF w Reg.adapterStatus 2 0 ≤ 2)

/-- A command is discarded: CMD_REJECT and event 0x5022 (R282). -/
def adapterReject (h : BitVec 16) (w : W9) : W9 :=
  raise0 0x5022 srcSteward (le 2 h.toNat ++ [0]) (wrB Reg.adapterStatus 16 true w)

/-- A command ends with ERROR (R281). -/
def adapterError (h : BitVec 16) (w : W9) : W9 := raise0 0x5022 srcSteward (le 2 h.toNat ++ [1]) (setAdapter 4 w)

/-- The lowest FREE adapter slot. -/
def adFree (w : W9) : Option (Fin 64) := (List.finRange 64).find? (fun n => adState w n == 0)

/-- The command takes a slot: LOADING (R281). -/
def takeAdapterSlot (i : Install) (n : Fin 64) (w : W9) : W9 :=
  let w := wr (Reg.adapterVer n.val) i.version (wr (Reg.adapterId n.val) (BitVec.ofNat 32 (i.handle.toNat * 0x10000 + 1)) w)
  let w := { w with wt := { w.wt with install := some { i with slot := some n }
                                      adapterAddr := smPut (fun _ => (0 : FAddr)) w.wt.adapterAddr n.val i.addr } }
  writeAdapterTable (setAdapter 1 (wrF Reg.adapterStatus 15 8 n.val w))

/-- The adapter image's header fits the command (R281). A version of 0 is none. -/
def installFits (w : W9) (h : BitVec 16) (ver : Word32) (hd : SetHeader) : Bool :=
  hd.kind == 1 && hd.modelVer == rd w Reg.modelVer && hd.adapterVer == ver && decide (ver ≠ 0) &&
  (match adCurrent w h with | some n => decide (adVer w n ≠ ver) | none => true)

/-- INSTALL (R281): a write of ADAPTER_CMD with OP INSTALL. -/
def install (h : BitVec 16) (w : W9) : W9 :=
  if !cmdOpen w then w
  else if adapterBusy w then adapterReject h w
  else
    let a := rd64 w Reg.adapterAddr
    let hd := farSet w a
    let w := farSetEffects a w
    let ver := rd w Reg.adapterVerArg
    if !installFits w h ver hd then adapterError h w
    else
      let i : Install := ⟨h, ver, BitVec.ofNat 64 a, none⟩
      match adFree w with
      | some n => takeAdapterSlot i n w
      | none =>
        let w := setAdapter 2 { w with wt := { w.wt with install := some i } }
        raise0 0x5021 srcSteward (le 2 h.toNat ++ [0, 0] ++ le 4 ver.toNat) w

/-- INSTALL. -/
def execInstall (handle : BitVec 16) (s : State) : Host.Outcome State Fault Refusal := lift (install handle) s

/-- ADAPTER_SLOT_TAKEN (R281): a waiting INSTALL takes the first slot that becomes FREE. -/
def adapterSlotTaken (w : W9) : W9 := match w.wt.install, adFree w with
  | some i, some n => if i.slot.isNone then takeAdapterSlot i n w else w
  | _, _ => w

/-- ADAPTER_SLOT_TAKEN. -/
def execAdapterSlotTaken (s : State) : Host.Outcome State Fault Refusal := lift adapterSlotTaken s

/-- The handle's CURRENT slot becomes RETIRING, and FREE once no stream is bound (R281, R282). -/
def retireCurrent (h : BitVec 16) (w : W9) : W9 := match adCurrent w h with
  | some n => adSettle n (wrF (Reg.adapterId n.val) 1 0 3 w)
  | none => w

/-- The load has ended. DESIGN CHOICE (log entry 28): its digests are those of the far memory at that moment. -/
def adapterLoaded (i : Install) (n : Fin 64) (w : W9) : W9 :=
  let ok := digestsOk w i.addr.toNat (farSet w i.addr.toNat)
  let w := { w with wt := { w.wt with install := none } }
  if ok then
    let w := wrF (Reg.adapterId n.val) 1 0 2 (retireCurrent i.handle w)
    raise0 0x5020 srcSteward (le 2 i.handle.toNat ++ [BitVec.ofNat 8 n.val, 0] ++ le 4 i.version.toNat)
      (writeAdapterTable (setAdapter 3 w))
  else
    adapterError i.handle (writeAdapterTable (wr (Reg.adapterVer n.val) 0 (wr (Reg.adapterId n.val) 0 w)))

/-- ADAPTER_LOAD_COMPLETE (R281). -/
def adapterLoadComplete (w : W9) : W9 := match w.wt.install with
  | some i => match i.slot with
    | some n => adapterLoaded i n w
    | none => w
  | none => w

/-- ADAPTER_LOAD_COMPLETE. -/
def execAdapterLoadComplete (s : State) : Host.Outcome State Fault Refusal := lift adapterLoadComplete s

/-- REMOVE (R282): a write of ADAPTER_CMD with OP REMOVE. -/
def remove (h : BitVec 16) (w : W9) : W9 :=
  if !cmdOpen w then w
  else if adapterBusy w then adapterReject h w
  else
    let w := match adCurrent w h with
      | some n => wrF Reg.adapterStatus 15 8 n.val w
      | none => w
    writeAdapterTable (setAdapter 3 (retireCurrent h w))

/-- REMOVE. -/
def execRemove (handle : BitVec 16) (s : State) : Host.Outcome State Fault Refusal := lift (remove handle) s

end Sys2Proof.Machine
end

