-- ==== Sys2Proof/Machine/Sampler.lean ====
section
/-! DEFINITION. The sampler (spec/07_serving.md R276 to R278): sorting, temperature, top-k, top-p, the counter-based draw, and how many
rows of a step are accepted. -/

namespace Sys2Proof.Machine

open Sys2Proof

/-- A token ID with its scaled logit. -/
abbrev TokVal := Nat × F32

/-- Descending value, equal values lower ID first (R276, R277). -/
def tokBefore (a b : TokVal) : Bool := f32Lt b.2 a.2 || (!f32Lt a.2 b.2 && decide (a.1 < b.1))

/-- Put a token in its place. -/
def tokInsert (a : TokVal) : List TokVal → List TokVal
  | [] => [a]
  | b :: r => if tokBefore a b then a :: b :: r else b :: tokInsert a r

/-- Token IDs by descending value. -/
def tokSort (l : List TokVal) : List TokVal := l.foldr tokInsert []

/-- The first of that order. -/
def tokBest : List TokVal → Option TokVal
  | [] => none
  | a :: r => match tokBest r with
    | some b => if tokBefore a b then some a else some b
    | none => some a

/-- LOG2E (R277). -/
abbrev log2e : F32 := 0x3FB8AA3B

/-- The running sums c and cum[v], in list order. -/
def cumulate : F32 → List (Nat × F32) → List (Nat × F32)
  | _, [] => []
  | c, x :: r => (x.1, f32Add c x.2) :: cumulate (f32Add c x.2) r

/-- The list up to and including the first entry that satisfies `p`; all of it where none does. -/
def takeThrough {α : Type} (p : α → Bool) : List α → List α
  | [] => []
  | x :: r => if p x then [x] else x :: takeThrough p r

/-- One round of the draw. -/
def drawRound (x : BitVec 64) : BitVec 64 :=
  let x := (x ^^^ (x >>> 32)) * 0xD6E8FEB86659FD93
  (x ^^^ (x >>> 29)) * 0x9FB21C651E98DF25

/-- draw(SEED, pos): the top 24 bits, as an exact FP32 in [0, 1) (R277). -/
def draw (seed : BitVec 64) (pos : Nat) : F32 :=
  let x := drawRound (drawRound (drawRound (seed ^^^ (BitVec.ofNat 64 pos * 0xD6E8FEB86659FD93))))
  let x := x ^^^ (x >>> 32)
  f32Of ((x >>> 40).toNat, -24)

/-- The procedure of R277 for a temperature other than 0. -/
def sampleWarm (g : List F32) (seed : BitVec 64) (temp topP : BitVec 16) (topK pos : Nat) : Nat :=
  let t : F32 := temp.setWidth 32 <<< 16
  let p : F32 := topP.setWidth 32 <<< 16
  let l := tokSort (g.zipIdx.map (fun e => (e.2, f32Div e.1 t)))
  let l := if 0 < topK then l.take topK else l
  match l with
  | [] => 0
  | a :: _ =>
    let m := a.2
    let cum := cumulate 0 (l.map (fun v => (v.1, f32Exp2 (f32Mul (f32Add v.2 (m ^^^ 0x80000000)) log2e))))
    let s := (cum.getLastD (0, 0)).2
    let cum := if f32Lt p 0x3F800000 then takeThrough (fun v => !f32Lt v.2 (f32Mul p s)) cum else cum
    let s := (cum.getLastD (0, 0)).2
    let t := f32Mul (draw seed pos) s
    (((cum.find? (fun v => f32Lt t v.2)).orElse (fun _ => cum.getLast?)).map (·.1)).getD 0

/-- TOKEN_SAMPLE (R276): the token of one row. TEMPERATURE 0 takes the highest logit. -/
def sampleRow (g : List F32) (seed : BitVec 64) (temp topP : BitVec 16) (topK pos : Nat) : Nat :=
  if temp = 0 ∨ temp = 0x8000 then ((tokBest (g.zipIdx.map (fun e => (e.2, e.1)))).map (·.1)).getD 0
  else sampleWarm g seed temp topP topK pos

/-- The leading rows i ≥ 1 whose chain entry equals the token sampled in row i − 1. -/
def leading : List Word32 → List Word32 → Nat
  | r :: rows, t :: toks => if r = t then leading rows toks + 1 else 0
  | _, _ => 0

/-- The accepted row count a of R278, from a step's rows and its sampled tokens. -/
def acceptedRows (rows sampled : List Word32) : Nat := 1 + leading (rows.drop 1) sampled

end Sys2Proof.Machine
end

