-- ==== Sys2Proof/Machine/Beat.lean ====
section
/-! DEFINITION. Beats (spec/07_serving.md R253 to R264; R43, R183, R225, R405, R431, R432, R436, R449, R472, R491, R541): the device beat
boundary, beat starts and plan words, prefill and recompute chunks, and what tiles report at a beat's end. -/

namespace Sys2Proof.Machine

open Sys2Proof

/-! ## Which fields take part (R254) -/

/-- A field takes part in a device boundary: it is open and withholds no pulses. -/
def taking (w : W9) (f : FieldIx) : Bool :=
  decide ((fieldState w f).withheld = Withheld.none) && parkState w f == 0 && fieldStateSeen w f f == 0

/-- Device beat boundaries fall while an image runs and some field takes part; a freeze that is due stops them (R254, R350). -/
def boundaryFalls (w : W9) : Bool := imageRuns w && !w.dbg.freezeDue && allFields.any (taking w)

/-! ## The slot that leaves the sampler (R256, R276 to R278) -/

/-- The tokens a slot's rows sample from their logits. -/
def sampleSlot (w : W9) (x : Slot) (logits : List (List F32)) : List Word32 :=
  let t := streamOf w x.stream
  (List.range x.rows.length).map (fun i =>
    BitVec.ofNat 32 (sampleRow (logits.getD i []) t.seed t.temperature t.topP t.topK (x.pos + i + 1)))

/-- SAMPLER_HANDOVER (R256): the slot that leaves stage N − 1 is sampled, and its hand-over awaits confirmation (R530). -/
def leaveSampler (logits : List (List F32)) (w : W9) : W9 := match (w.serve.pipe.getLast?).join with
  | none => w
  | some x =>
    let toks := sampleSlot w x logits
    let a := acceptedRows x.rows toks
    let t := now w
    let w := modStream x.stream (fun y => { y with
      steps := y.steps + 1, rowsRun := y.rowsRun + x.rows.length, rowsAccepted := y.rowsAccepted + a }) w
    { w with serve := { w.serve with handOvers := w.serve.handOvers ++ [⟨x, toks, a, t⟩] } }

/-- Every stage passes its slot or its empty entry on; stage 0 is empty (R254). -/
def shiftPipe (w : W9) : W9 := { w with serve := { w.serve with pipe := none :: w.serve.pipe.dropLast } }

/-! ## Rotation (R343, R491) and staging ownership (R225) -/

/-- ROT_EN. -/
def rotOn (w : W9) : Bool := rdB w Reg.envCtrl 31

/-- The field of a band. -/
def bandField (g : Rung) (b : Nat) : Option FieldIx :=
  (g.positions.find? (fun p => p.band == b)).map (fun p => Fin.ofNat 48 p.field)

/-- A band's field can hold a role: open, not parked, not ordered parked (R448, R491). -/
def roleField (w : W9) (g : Rung) (b : Nat) : Bool := match bandField g b with
  | some f => parkState w f == 0 && fieldStateSeen w f f == 0 && !(fieldState w f).parkOrder
  | none => false

/-- The current member of set `i`. -/
def setMember (w : W9) (i : Nat) : Nat := rdF w (Reg.rotMember i) 7 0

/-- The next member of a set whose field is not parked, after the current one (R491). -/
def nextMember (w : W9) (g : Rung) (r : RotationSet) (cur : Nat) : Option Nat :=
  ((List.range (r.members.length - 1)).map (fun k => (cur + 1 + k) % r.members.length)).find?
    (fun k => match r.members[k]? with | some b => roleField w g b | none => false)

/-- The role of set `i` moves to member `k`. A move of the draft band cuts every chain (R279, R491). -/
def moveRole (g : Rung) (i : Nat) (r : RotationSet) (k : Nat) (w : W9) : W9 :=
  let t := now w
  let w := wrF (Reg.rotMember i) 7 0 k { w with serve := { w.serve with rotMoved := w.serve.rotMoved.set i t } }
  if r.role = 4 then
    { w with serve := { w.serve with chains := [], draftField := (r.members[k]?).bind (bandField g) } }
  else w

/-- ROTATION_MOVE of one set (R448, R491): due ROT_INTERVAL after its last move, or at once where its member's field is ordered parked.
A prefill-job set moves at chunk starts only. -/
def rotateSet (g : Rung) (i : Nat) (r : RotationSet) (w : W9) : W9 :=
  let cur := setMember w i
  let late := decide (w.serve.rotMoved.getD i 0 + 1000 * (rd w Reg.rotInterval).toNat ≤ now w)
  let must := match r.members[cur]? with | some b => !roleField w g b | none => false
  if rotOn w && ((late && decide (r.role ≠ 5)) || must) then
    match nextMember w g r cur with
    | some k => moveRole g i r k w
    | none => w
  else w

/-- Every set in order. -/
def rotateRoles (g : Rung) (w : W9) : W9 := forEach g.rotation.zipIdx (fun e w => rotateSet g e.2 e.1 w) w

/-- A step boundary of a stream: no slot of it in the pipeline and no chunk running (R255). -/
def stepBoundary (w : W9) (s : StreamIx) : Bool := !inPipe w s && !chunkRuns w s

/-- The staging of a stream and layer may move: L at least 16 positions into its chunk, the other slot's last flush DONE (R225). -/
def stagingMovable (w : W9) (s : Staging) : Bool :=
  let l := (streamOf w s.stream).length
  stepBoundary w s.stream && decide (16 ≤ l % 64) && decide ((stageSlot s (l / 64 + 1)).flushPending = 0)

/-- STAGING_OWNERSHIP_MOVE (R225): the current chunk's positions are copied; the new owner's other slot holds no chunk. -/
def moveStaging (old new : Tile) (s : Staging) (w : W9) : W9 :=
  let c := (streamOf w s.stream).length / 64
  let kept := setStageSlot { s with slot0 := StageSlot.none, slot1 := StageSlot.none } c (stageSlot s c)
  let w := modTile old (fun t => { t with staging := t.staging.filter (fun x => !(x.stream == s.stream && x.layer == s.layer)) }) w
  setStaging new kept w

/-- The members of a set that do not hold the role, with the band that does. -/
def stagingBands (w : W9) (g : Rung) : List (Nat × Nat) :=
  g.rotation.zipIdx.flatMap (fun e =>
    if e.1.role = 2 then
      match e.1.members[setMember w e.2]? with
      | some b => (e.1.members.filter (fun x => decide (x ≠ b))).map (fun x => (x, b))
      | none => []
    else [])

/-- Every staging still in a band that has given its ownership away moves where R225 allows; the new owner is the tile with the same band
index. -/
def moveStagings (g : Rung) (w : W9) : W9 :=
  forEach (stagingBands w g) (fun p w =>
    forEach ((bandTiles g p.1).zip (bandTiles g p.2)) (fun q w =>
      forEach ((tileOf w q.1).staging.filter (stagingMovable w)) (moveStaging q.1 q.2) w) w) w

/-! ## Drains (R448, R449) -/

/-- A band of field `f` holds a chunk, a role, or staging of a role that has moved. -/
def fieldBusy (w : W9) (g : Rung) (f : FieldIx) : Bool :=
  w.serve.groups.any (fun q => q.field == f && q.running.isSome) ||
  g.rotation.zipIdx.any (fun e => decide ((e.1.members[setMember w e.2]?).bind (bandField g) = some f)) ||
  (stagingBands w g).any (fun p => decide (bandField g p.1 = some f) && (bandTiles g p.1).any (fun t => !(tileOf w t).staging.isEmpty))

/-- DRAIN_START (R449) of a field ordered parked that holds no chunk and no role. -/
def startDrain (f : FieldIx) (w : W9) : W9 :=
  let n := rd64 w Reg.beatCount
  let t := now w
  let w := modField f (fun s => { s with withheld := { s.withheld with drain := true }, drainStart := t, stateSince := t }) w
  raise0 0xA010 (srcField f) (List.replicate 8 0 ++ le 8 n) (wrF (Reg.parkStatus f.val) 2 0 1 w)

/-- Every drain that can start does. -/
def startDrains (g : Rung) (w : W9) : W9 :=
  forEach allFields (fun f w =>
    if (fieldState w f).parkOrder && parkState w f == 0 && !fieldBusy w g f && !(fieldState w f).withheld.drain then startDrain f w
    else w) w

/-! ## Streams at a boundary -/

/-- What a boundary lets go on: parked streams resume (R316), and cancels that hold put off take effect (R271, R483). -/
def streamsGoOn (w : W9) : W9 :=
  let w := forEach (resumable w) resumeParked w
  forEach ((busyStreams w).filter (fun s => (streamOf w s).cancelAsked)) (fun s w =>
    finishCancel s { w with serve := { w.serve with queue := w.serve.queue.filter (fun c => !(c.stream == s)) } }) w

/-- The W9 replays suspects: nothing but the replay runs (R548). -/
def replaying (w : W9) : Bool := (!w.flt.suspects.isEmpty && rdB w Reg.faultCtrl 30) || w.flt.replay.isSome

/-- A stream has no work of its own under way and none queued, and nothing stops it from stepping. -/
def stepFree (w : W9) (s : StreamIx) : Bool :=
  let t := streamOf w s
  decide (t.state = .decode) && !inPipe w s && !awaiting w s && !chunkRuns w s && !t.cancelAsked && !t.parkAsked && !t.handedOff &&
    !w.serve.queue.any (fun c => c.stream == s)

/-- No block of the stream is DROPPED or RECOMPUTING. -/
def blocksThere (w : W9) (s : StreamIx) : Bool :=
  (streamBlocks w s).all (fun e => decide (e.2.state ≠ .dropped) && decide (e.2.state ≠ .recomputing))

/-- N + 1 beats have passed since the stream's previous entry (R258). -/
def beatsPassed (w : W9) (s : StreamIx) : Bool := match (streamOf w s).entered with
  | some n => decide (n + stagesN w + 1 ≤ rd64 w Reg.beatCount)
  | none => true

/-- The extension that far-memory bytes `x` cause (R261). -/
def extensionOf (w : W9) (x : Nat) : Nat := cdiv (x - rd64 w Reg.kvBeatBytes) (rd w Reg.kvCycleBytes).toNat

/-- Σ_n: the ledger cost of the slots in stages 0 to N − 2 (R259). -/
def ledgerNow (w : W9) : Nat := ((bandSlots w).map (fun x => ledgerCost w x.pos)).sum

/-- The ledger test of a class-1 or class-2 slot (R260). -/
def ledgerTest (w : W9) (s : StreamIx) : Bool :=
  let c := ledgerCost w (streamOf w s).length
  if !(class0s w).isEmpty || !rdB w Reg.serveCtrl 29 then decide (ledgerOthers w + c + ledgerClass0 w ≤ rd64 w Reg.kvBeatBytes)
  else decide (extensionOf w (ledgerNow w + c) ≤ 1048575)

/-- EXPIRED_BEFORE_STEP of one stream (R269): its next deadline cannot be met. -/
def expire (s : StreamIx) (w : W9) : W9 :=
  let t := streamOf w s
  let d := t.deadlineFirst + t.generated * t.deadlineStep
  if t.cls = 1 ∧ d < now w + stagesN w * beatNs w then
    endStream s 3 (raiseS 0x5012 srcSteward s (le 8 (t.length + 1) ++ le 8 d) w)
  else w

/-- The streams the test of R269 meets at a free beat. -/
def expirable (w : W9) : List StreamIx :=
  (busyStreams w).filter (fun s =>
    let t := streamOf w s
    decide (t.cls = 1) && ([.decode, .held, .parked] : List StreamState).contains t.state && !inPipe w s && !awaiting w s)

/-- The least stream by a key. -/
def pickStream (key : StreamIx → List Nat) : List StreamIx → Option StreamIx
  | [] => none
  | s :: r => match pickStream key r with
    | some x => if lexLt (key x) (key s) then some x else some s
    | none => some s

/-- The order of R258 among ready streams. -/
def freeBeatKey (w : W9) (s : StreamIx) : List Nat :=
  let t := streamOf w s
  if t.cls = 1 then [1, t.deadlineFirst + t.generated * t.deadlineStep, s.val]
  else [2, (match t.entered with | some n => n + 1 | none => 0), s.val]

/-- A stream of class 1 or 2 is ready but for its DROPPED blocks (R258). -/
def nearlyReady (w : W9) (s : StreamIx) : Bool :=
  decide ((streamOf w s).cls ≠ 0) && stepFree w s && beatsPassed w s && ledgerTest w s

/-- Blocks of otherwise ready streams are restored before a step (R235). -/
def restoreReady (w : W9) : W9 :=
  forEach ((busyStreams w).filter (fun s => nearlyReady w s && !(droppedBlocks w s).isEmpty)) restoreStream w

/-- A class-0 stream may start: a shadowed one from the pair beat of its START on (R413). -/
def startedAt (w : W9) (s : StreamIx) : Bool :=
  if (streamOf w s).shadow then
    match smGet (fun _ => none) w.pair.starts s.val with
    | some b => decide (b ≤ pairBeat w)
    | none => false
  else true

/-- The phase of this beat, where a class-0 stream holds it (R257, R405). -/
def reservedPhase (w : W9) : Option Nat :=
  let k := pairBeat w % (stagesN w + 1)
  if (heldPhases w).contains k then some k else none

/-- The stream whose slot enters in a reserved beat, if it has a step ready (R257). -/
def reservedStream (w : W9) (k : Nat) : Option StreamIx :=
  (class0s w).find? (fun s => decide ((streamOf w s).phase = some k) && stepFree w s && startedAt w s && blocksThere w s)

/-- The stream of a free beat (R258). -/
def freeStream (w : W9) : Option StreamIx :=
  pickStream (freeBeatKey w) ((busyStreams w).filter (fun s => nearlyReady w s && blocksThere w s))

/-- The suspect under replay, if its step can enter now, whatever its phase (R548). -/
def replayStream (w : W9) : Option StreamIx := match w.flt.replay with
  | some r => if stepFree w r.stream && blocksThere w r.stream then some r.stream else none
  | none => none

/-- What a beat does before it chooses: the tests of R269 and the restoring of blocks. -/
def beforeChoice (w : W9) : W9 :=
  if replaying w then (match replayStream w with | some s => expire s w | none => w)
  else if (reservedPhase w).isSome then w
  else restoreReady (forEach (expirable w) expire w)

/-- The stream whose slot enters. -/
def chosen (w : W9) : Option StreamIx :=
  if replaying w then replayStream w
  else match reservedPhase w with
    | some k => reservedStream w k
    | none => freeStream w

/-- The rows of a step (R275). -/
def stepRows (w : W9) (s : StreamIx) : List Word32 :=
  let t := streamOf w s
  let c := chainOf w s
  let r := if speculates w s then min (rowsMax w) (min (1 + c.length) (t.maxNew - t.generated)) else 1
  logTokens w s t.length 1 ++ c.take (r - 1)

/-- A replayed step's watch limit (R548). -/
def watchStep (s : StreamIx) (w : W9) : W9 := match w.flt.replay with
  | some r =>
    let t := now w
    let lim := t + (stagesN w + 1) * (beatNs w + w.serve.stretchNow) + 1000000
    if r.stream = s then { w with flt := { w.flt with replay := some { r with started := t, limit := lim, chunk := false } } } else w
  | none => w

/-- SLOT_ADMIT (R142, R143, R146, R254): the slot of `s` enters stage 0. -/
def admitSlot (s : StreamIx) (w : W9) : W9 :=
  let w := epochFlip w
  let n := rd64 w Reg.beatCount
  let k := precStep w
  let x : Slot := ⟨s, (streamOf w s).length, stepRows w s, epochNow w, k, n, now w⟩
  let w := { w with serve := { w.serve with pipe := w.serve.pipe.set 0 (some x) } }
  let w := watchStep s (modStream s (fun t => { t with entered := some n }) w)
  ganderSlot k (wr64 Reg.precStep (k + 1) w)

/-- An empty beat (R254). -/
def emptyBeat (w : W9) : W9 := inc Reg.emptyBeats 1 w

/-- Bellwether's choice at a boundary; a slot enters only if the flight-log entry that names it was accepted (R541). -/
def chooseSlot (accepted : Bool) (w : W9) : W9 :=
  let w := beforeChoice w
  if !accepted then emptyBeat w
  else match chosen w with
    | some s => writeFlight (admitSlot s w)
    | none => writeFlight (emptyBeat w)

/-! ## Stretch and extension (R183, R253, R261, R405, R406, R473) -/

/-- The stretch a plan word carries for a pair beat: the settings' own, or, PAIRED, the larger of both sides' (R406). -/
def stretchFor (w : W9) (beat : Nat) : Nat :=
  let own := match w.pair.nextStretch with | some e => if e.2 ≤ beat then e.1 else w.env.stretch | none => w.env.stretch
  let other := match w.pair.partnerNext with | some e => if e.2 ≤ beat then e.1 else w.pair.partnerStretch | none => w.pair.partnerStretch
  if paired w then max own other else own

/-- Announced changes of stretch take effect at their pair beat (R406). -/
def applyStretch (w : W9) : W9 :=
  let b := pairBeat w
  let w := match w.pair.nextStretch with
    | some e => if e.2 ≤ b then { w with env := { w.env with stretch := e.1 }, pair := { w.pair with nextStretch := none } } else w
    | none => w
  match w.pair.partnerNext with
  | some e => if e.2 ≤ b then { w with pair := { w.pair with partnerStretch := e.1, partnerNext := none } } else w
  | none => w

/-- The most stretch a beat may have (R473). -/
def stretchLimit (w : W9) (e : Nat) : Nat :=
  if !(class0s w).isEmpty then sFloor w else (timingOf w).beatMax - beatNs w - e

/-- PAIR_ALIGNMENT_CYCLE (R405): the open cycles this boundary inserts: side B's alignment, or one where this side leads by more than
100 ns. -/
def alignCycles (w : W9) (lead : Int) : Nat :=
  if !paired w then 0
  else if w.pair.alignDue then (lead % (beatNs w : Int)).toNat
  else if 100 < lead then 1 else 0

/-- The skew and the pair beat at a boundary of a pair (R405). -/
def pairBoundary (b : BoundaryIn) (w : W9) : W9 :=
  if !paired w then w
  else
    let w := wr Reg.pairSkew (signedBits 32 b.lead) w
    if w.pair.alignDue then
      wr64 Reg.pairBeatOfs ((rd64 w Reg.beatCount + 2 ^ 64 - b.partnerBeat) % 2 ^ 64)
        { w with pair := { w.pair with alignDue := false } }
    else w

/-- PLAN_MISS (R432): a beat without a plan word. -/
def planMiss (w : W9) : W9 :=
  let n := rd64 w Reg.beatCount
  raise0 0xA004 srcSteward (List.replicate 8 0 ++ le 8 n) (wrB Reg.pwrErr 3 true (inc Reg.pipePlanMiss 1 w))

/-- The beat's extension and stretch come into force (R253, R261, R432). -/
def planBeat (align : Nat) (w : W9) : W9 :=
  let sum := ledgerNow w
  let w := wr64 Reg.ledgerNow sum w
  let e := match w.serve.plan with | some _ => extensionOf w sum | none => 0
  let st := match w.serve.plan with | some x => min (x + (if align = 1 then 1 else 0)) (stretchLimit w e) + (if 1 < align then align else 0) | none => 0
  let w := if w.serve.plan.isNone then planMiss w else w
  let w := wrB Reg.serveStatus 1 (decide (0 < e)) (wr Reg.extLast (BitVec.ofNat 32 e) (inc Reg.extBeats (b2n (decide (0 < e))) w))
  { w with serve := { w.serve with plan := w.serve.planNext, planNext := none, extNow := e, stretchNow := st } }

/-! ## Pulses (R65, R254, R472) -/

/-- A prefill group advances in beat `n` at the pace in force (R472). -/
def paceRuns (w : W9) (n : Nat) : Bool := decide (n * paceNow w / 8 < (n + 1) * paceNow w / 8)

/-- A tile that the pace holds back: a prefill group's (R472). -/
def paced (w : W9) (t : Tile) : Bool := match rungNow w with
  | some g => match tileBand g t with
    | some b => decide (b.role = 2)
    | none => false
  | none => false

/-- Whether a field withholds its pulses shows in FIELD_CLK.BEAT_HELD. -/
def showHeld (f : FieldIx) (w : W9) : W9 := wrB (Reg.fieldClk f.val) 29 (decide ((fieldState w f).withheld ≠ Withheld.none)) w

/-- One field's pulse: its running tiles get it, but for those the pace holds back (R65, R472). -/
def pulseField (n : Nat) (f : FieldIx) (w : W9) : W9 :=
  let all := runningTiles w f
  let ts := if paceRuns w n then all else all.filter (fun t => !paced w t)
  let t0 := now w
  let len := beatNs w + w.serve.stretchNow + w.serve.extNow
  let w := forEach ts pulseTile w
  let part := !ts.isEmpty || all.isEmpty
  modField f (fun s => { s with beatStart := t0, beatLen := len, owing := if part then s.owing ++ [(t0 + len, ts)] else s.owing }) w

/-- Every field that takes part pulses. -/
def pulseFields (w : W9) : W9 :=
  let n := rd64 w Reg.beatCount
  forEach allFields (fun f w => showHeld f (if taking w f then pulseField n f w else w)) w

/-! ## The boundary -/

/-- The structural changes of Table 1.10 but the format change, which falls with the slot that enters (R43). -/
def structural (w : W9) : W9 :=
  let w := wselSwitch w
  match rungNow w with
  | some g => moveStagings g (rotateRoles g (startDrains g w))
  | none => w

/-- BEAT_BOUNDARY (R43, R254): a device beat boundary. -/
def beatBoundary (b : BoundaryIn) (w : W9) : W9 :=
  if boundaryFalls w then
    let w := wr64 Reg.beatCount (rd64 w Reg.beatCount + 1) w
    let w := skipSamples (shiftPipe (leaveSampler b.logits w))
    let w := streamsGoOn (structural w)
    let align := alignCycles w b.lead
    let w := applyStretch (pairBoundary b w)
    pulseFields (planBeat align (chooseSlot b.logAccepted w))
  else w

/-- BEAT_BOUNDARY. -/
def execBeatBoundary (b : BoundaryIn) (s : State) : Host.Outcome State Fault Refusal := lift (beatBoundary b) s

/-- BEAT_PLAN_WORD (R432): a word that arrives at least 64 cycles ahead is for the beat that starts next, a later one for the beat after. -/
def beatPlanWord (lead : Nat) (w : W9) : W9 :=
  if 64 ≤ lead then
    let x := stretchFor w (pairBeat w + 1)
    { w with serve := { w.serve with plan := some x } }
  else
    let x := stretchFor w (pairBeat w + 2)
    { w with serve := { w.serve with planNext := some x } }

/-- BEAT_PLAN_WORD. -/
def execBeatPlanWord (lead : Nat) (s : State) : Host.Outcome State Fault Refusal := lift (beatPlanWord lead) s

/-- A field begins beat cycle 0 (R431): its table runs, and its running tiles and those that wait for a START get the pulse (R96). -/
def startField (f : FieldIx) (w : W9) : W9 :=
  let ts := runningTiles w f
  let waits := (w.tiles.filter (fun e => e.2.startWait)).map (fun e => (Fin.ofNat 32256 e.1 : Tile))
  let t0 := now w
  let len := beatNs w
  let w := forEach ts pulseTile w
  let w := forEach (waits.filter (fun t => tileField t == f)) (fun t w => modTile t (fun s => { s with pulses := s.pulses + 1 }) w) w
  modField f (fun s => { s with beatStart := t0, beatLen := len, owing := s.owing ++ [(t0 + len, ts)] }) (wrB (Reg.routeStatus f.val) 0 true w)

/-- BEAT_START (R431): every field that takes part begins beat cycle 0 at once. A refill that failed gives its pulses back here (R320). -/
def beatStart (w : W9) : W9 :=
  if imageRuns w then
    let w := if flipState w = 3 then w else setRefill false w
    let w := forEach allFields (fun f w => showHeld f (if taking w f then startField f w else w)) w
    wrB Reg.serveStatus 0 true w
  else w

/-- BEAT_START. -/
def execBeatStart (s : State) : Host.Outcome State Fault Refusal := lift beatStart s

/-! ## Device time (R436, R437) -/

/-- The bound of a domain's copy in ns (Table 12.3). Domains: 0 to 47 field control, 48 the steward and the I/O-ring units, 49 to 96 the
gateways of stack d − 49, 97 to 104 the edge ports, 105 the host port. -/
def copyBound (d : Nat) : Int := if d < 48 then 2 else if d ≤ 96 then 3 else 4

/-- Where the copy of a domain stands after 1,024 ns of correction: a copy behind catches up 1 ns per 8, one ahead waits (R436). -/
def corrected (x : Int) : Int := if x < 0 then min 0 (x + 128) else max 0 (x - 1024)

/-- One domain's correction; SAMPLED_COPY_OUT_OF_BOUND where it is outside its bound (R437). -/
def correctCopy (d : Nat) (x : Int) (w : W9) : W9 :=
  let w := { w with dev := { w.dev with copies := smPut (fun _ => 0) w.dev.copies d (corrected x) } }
  if x < -(copyBound d) ∨ copyBound d < x then
    let w := wrB Reg.pwrErr 2 true w
    let w := if d < 48 then wr (Reg.timeErr d) (signedBits 32 x) w else w
    raise0 0xA003 (if d < 48 then srcField (Fin.ofNat 48 d) else srcSteward) (le32s x) w
  else w

/-- TIME_BROADCAST (R436). `diffs` lists how far each domain's copy is ahead of the timebase. -/
def timeBroadcast (diffs : List (Nat × Int)) (w : W9) : W9 := forEach diffs (fun e w => correctCopy e.1 e.2 w) w

/-- TIME_BROADCAST. -/
def execTimeBroadcast (diffs : List (Nat × Int)) (s : State) : Host.Outcome State Fault Refusal := lift (timeBroadcast diffs) s

/-! ## Reports and freezes (R130, R350, R529) -/

/-- The counts of one layer reach the precision block (R130, R150). -/
def addLayerCounts (c : LayerCounts) (w : W9) : W9 :=
  let l := c.layer.val
  let w := inc (Reg.outlierOvf l) c.overflow (inc (Reg.saturated l) c.saturated (inc (Reg.flushed l) c.flushed w))
  modLayer c.layer (fun x => { x with ovf := x.ovf + c.overflow }) w

/-- A report's taint flag names its stream to Bellwether (R529, R530). -/
def noteTaint (r : BeatReport) (w : W9) : W9 := match r.taint, r.stream with
  | some k, some s =>
    if w.serve.tainted.any (fun e => e.1 == s) then w else { w with serve := { w.serve with tainted := w.serve.tainted ++ [(s, k)] } }
  | _, _ => w

/-- PRECISION_COUNT_REPORT (R130): the oldest report of a tile arrives. -/
def countReport (t : Tile) (w : W9) : W9 := match (tileOf w t).reports with
  | [] => w
  | r :: rest => noteTaint r (forEach r.counts addLayerCounts (modTile t (fun s => { s with reports := rest }) w))

/-- PRECISION_COUNT_REPORT. -/
def execPrecisionCountReport (t : Tile) (s : State) : Host.Outcome State Fault Refusal := lift (countReport t) s

/-- Every field withholds or gives back its pulses for a freeze. -/
def setFreeze (b : Bool) (w : W9) : W9 :=
  forEach allFields (fun f w => showHeld f (modField f (fun x => { x with withheld := { x.withheld with freeze := b } }) w)) w

/-- FREEZE_BEGIN (R350, R352): the freeze that is due takes effect; a trap of this W9's own tells the twin. -/
def freezeBegin (w : W9) : W9 :=
  if w.dbg.freezeDue ∧ !rdB w Reg.dbgStatus 30 then
    let twin := w.dbg.freezeTwin
    let w := setFreeze true { w with dbg := { w.dbg with freezeDue := false } }
    let w := wrB Reg.dbgStatus 29 twin (wrB Reg.dbgStatus 30 true w)
    let w := raise0 0x7042 srcSteward (le 8 (beatCountOf w)) w
    if paired w && !twin then sendTwins .freeze w else w
  else w

/-- FREEZE_BEGIN. -/
def execFreezeBegin (s : State) : Host.Outcome State Fault Refusal := lift freezeBegin s

/-! ## Chunks (R224, R235, R262 to R264) -/

/-- A chunk may start now: its stream runs chunks and none of it runs; while suspects are replayed only the replay's (R264, R548). -/
def chunkReady (w : W9) (c : Chunk) : Bool :=
  let t := streamOf w c.stream
  decide (t.state = .prefill) && !chunkRuns w c.stream && !inPipe w c.stream && !t.parkAsked && !t.cancelAsked &&
    (!replaying w || (match w.flt.replay with | some r => r.stream == c.stream | none => false))

/-- The group that takes the next chunk where several are free is the current member of the prefill-job set (R491). -/
def groupTurn (w : W9) (g : Group) : Bool :=
  let free := w.serve.groups.filter (fun q => q.running.isNone && groupOpen w q)
  match rungNow w with
  | some r => match roleMember w r 5 with
    | some b => decide (free.length ≤ 1) || g.band == b || !free.any (fun q => q.band == b)
    | none => true
  | none => false

/-- The prefill-job role advances at a chunk start (R491). -/
def rotateJob (w : W9) : W9 := match rungNow w with
  | none => w
  | some g => forEach g.rotation.zipIdx (fun e w =>
      if e.1.role = 5 && rotOn w then
        match nextMember w g e.1 (setMember w e.2) with
        | some k => moveRole g e.2 e.1 k w
        | none => w
      else w) w

/-- A recompute chunk of a RECOMPUTING block starts (R235); one that restores a stream's last chunks (R420, R543) is of no such block. -/
def noteRecompute (c : Chunk) (w : W9) : W9 := match c.recompute with
  | some b => match blockOf w c.stream b with
    | some d => if d.state = .recomputing then raiseS 0x4011 srcSteward c.stream (le 4 b) w else w
    | none => w
  | none => w

/-- The group runs the chunk. -/
def runChunk (i : Nat) (g : Group) (c : Chunk) (w : W9) : W9 :=
  let t := now w
  let ep := epochNow w
  let w := { w with serve := { w.serve with
    queue := w.serve.queue.erase c, groups := w.serve.groups.set i { g with running := some (c, t, ep) } } }
  let w := match w.flt.replay with
    | some r => if r.stream = c.stream then { w with flt := { w.flt with replay := some { r with started := t, chunk := true } } } else w
    | none => w
  writeFlight (rotateJob (noteRecompute c w))

/-- CHUNK_START (R262, R264, R541): a free group takes the first chunk of the queue that may start, once its pages are there and the
flight-log entry has been accepted. -/
def chunkStart (i : Nat) (accepted : Bool) (w : W9) : W9 := match w.serve.groups[i]? with
  | none => w
  | some g =>
    if imageRuns w && g.running.isNone && groupOpen w g && groupTurn w g && taking w g.field && accepted then
      match (ranked w w.serve.queue).find? (chunkReady w) with
      | none => w
      | some c => match ensureBlocks c.stream c.first c.count w with
        | (true, w) => runChunk i g c w
        | (false, w) => w
    else w

/-- CHUNK_START. -/
def execChunkStart (group : Nat) (logAccepted : Bool) (s : State) : Host.Outcome State Fault Refusal := lift (chunkStart group logAccepted) s

/-- The whole KV chunks of positions [a, e) are stored to the page frames (R224): their FLUSHED bits, and their mirror items (R409).
DEDUCED (log entry 27). -/
def storeChunks (s : StreamIx) (a e : Nat) (w : W9) : W9 := match w.img with
  | none => w
  | some im =>
    let ls := (im.body.layers.filter (fun l => l.kv)).map (fun l => l.layer)
    forEach ((List.range (e / 64 - a / 64)).map (fun i => a / 64 + i)) (fun c w =>
      forEach ls (fun l w => mirrorItem s l c (setFlushed s l c w)) w) w

/-- A tainted chunk runs again from its first position (R530). -/
def rerunChunk (c : Chunk) (kind : Bool) (w : W9) : W9 :=
  let l := (streamOf w c.stream).length
  let w := { w with serve := { w.serve with
    tainted := w.serve.tainted.filter (fun e => !(e.1 == c.stream)), queue := c :: w.serve.queue } }
  let w := raiseS 0xD022 srcSteward c.stream (le 4 l ++ [BitVec.ofNat 8 (b2n kind)]) (inc Reg.stepsTainted 1 w)
  (repairWords c.stream w).2

/-- The stream's last chunk has ended: it enters DECODE (R263, R264), after the test of R269. -/
def leavePrefill (s : StreamIx) (w : W9) : W9 :=
  let t := streamOf w s
  let w := if t.length < t.promptLen then enterDecode s w else (ensureBlocks s t.length 1 (setState s .decode w)).2
  if ([.decode, .held] : List StreamState).contains (streamOf w s).state then expire s w else w

/-- What a chunk leaves: L and full blocks, or a block recomputed (R228, R235). -/
def chunkResult (c : Chunk) (t0 : Nat) (w : W9) : W9 := match c.recompute with
  | none =>
    let w := putStream c.stream (fun t => { t with length := c.first + c.count }) w
    touchBlocks c.stream (fillBlocks c.stream (storeChunks c.stream c.first (c.first + c.count) w))
  | some b =>
    let w := storeChunks c.stream c.first (c.first + c.count) w
    match blockOf w c.stream b with
      | some d =>
        if d.state = .recomputing then
          raiseS 0x4012 srcSteward c.stream (le 8 b ++ le 8 t0)
            (inc Reg.kvRecomputes 1 (putBlock c.stream b (some { d with state := .full }) w))
        else w
      | none => w

/-- A chunk has ended. -/
def finishChunk (c : Chunk) (t0 : Nat) (w : W9) : W9 :=
  let s := c.stream
  let x := streamOf w s
  if x.state ≠ .prefill then w
  else if x.cancelAsked then finishCancel s w
  else match taintKind w s with
    | some k => rerunChunk c k w
    | none =>
      let w := chunkResult c t0 w
      let w := match w.flt.replay with
        | some r => if r.stream = s then { w with flt := { w.flt with replay := some { r with chunk := false } } } else w
        | none => w
      if w.serve.queue.any (fun q => q.stream == s) || (streamOf w s).parkAsked then w else leavePrefill s w

/-- CHUNK_END (R262): the group's chunk completes. -/
def chunkEnd (i : Nat) (w : W9) : W9 := match w.serve.groups[i]? with
  | none => w
  | some g => match g.running with
    | none => w
    | some r => finishChunk r.1 r.2.1 { w with serve := { w.serve with groups := w.serve.groups.set i { g with running := none } } }

/-- CHUNK_END. -/
def execChunkEnd (group : Nat) (s : State) : Host.Outcome State Fault Refusal := lift (chunkEnd group) s

end Sys2Proof.Machine
end

