-- ==== Sys2Proof/Machine/Weights.lean ====
section
/-! DEFINITION. Loading of weight sets (spec/08_weights_tiers.md R299 to R308): the load engine, Mule data and load items. -/

namespace Sys2Proof.Machine

open Sys2Proof

/-! ## The load engine (R300 to R302) -/

/-- LOAD_STATUS.STATE: 0 IDLE, 1 LOADING, 2 VERIFYING, 3 DONE, 4 FAILED (Table 8.8). -/
def loadState (w : W9) : Nat := rdF w Reg.loadStatus 2 0
/-- Set it with a reason. -/
def setLoad (st reason : Nat) (w : W9) : W9 := wrF Reg.loadStatus 15 8 reason (wrF Reg.loadStatus 2 0 st w)
/-- A LOAD or VERIFY runs. -/
def loadBusy (w : W9) : Bool := loadState w == 1 || loadState w == 2
/-- A LOAD_CMD is discarded (R300). -/
def loadReject (w : W9) : W9 := raise0 0x6012 srcSteward [0xFF] (wrB Reg.loadStatus 16 true w)
/-- MULE_CTRL.ROLE: 1 source, 2 receiver (Table 8.7). -/
def muleRole (w : W9) : Nat := rdF w Reg.muleCtrl 31 30
/-- The ports of MULE_CTRL.PORTS that are UP. -/
def mulePorts (w : W9) : List PortIx := allPorts.filter (fun p => rdB w Reg.muleCtrl p.val && portUp w p)
/-- DEVICE_ADDR. -/
def deviceAddr (w : W9) : BitVec 16 := BitVec.ofNat 16 (rdF w Reg.deviceAddr 15 0)

/-- A copy of far bytes goes out on a port as Mule data, at most 1 KiB to a TRANSFER (R303, R401, R402). -/
def sendMule (p : PortIx) (a n : Nat) (w : W9) : W9 :=
  forEach (List.range (cdiv n 1024)) (fun i w =>
    let k := min 1024 (n - 1024 * i)
    let m := Msg.transfer { op := 0, purpose := 1, signal := none, dest := 0xFFFF, src := deviceAddr w,
                            address := BitVec.ofNat 64 (a + 1024 * i), length := k, xferSeq := (portOf w p).xferSeq, stream := 0xFFFF,
                            tainted := false, data := farBytes w (a + 1024 * i) k }
    sendMsg p m (modPort p (fun s => { s with xferSeq := s.xferSeq + 1 }) w)) w

/-- Bytes of the set land in far memory; a source sends them on (R299, R301, R303). -/
def landSet (a : Nat) (bs : List Byte) (w : W9) : W9 :=
  let w := writeFar a bs (touchVerified a bs.length w)
  if muleRole w = 1 then forEach (mulePorts w) (fun p w => sendMule p a bs.length w) w else w

/-- LOAD_DONE_BYTES counts (Table 8.7). -/
def addDone (n : Nat) (w : W9) : W9 := wr64 Reg.loadDoneBytes (rd64 w Reg.loadDoneBytes + n) w

/-- The ranges a LOAD may not touch: the set in use, the regions that are no weight areas, the image copy and the recovery region. -/
def keptRanges (w : W9) : List (Nat × Nat) :=
  (match w.wt.active with | some h => [(rd64 w Reg.wsetActive, h.totalLen)] | none => []) ++
  (match farOf w with
   | some f => (f.regions.filter (fun r => decide (r.use ≠ 0))).map (fun r => (r.start.toNat, r.len))
   | none => []) ++
  (match w.img with | some im => [(im.addr.toNat, im.len), (recoveryAddr w, 0x20000)] | none => [])

/-- A LOAD may not write this range (R302). -/
def rangeBad (w : W9) (a n : Nat) : Bool :=
  !farAssigned w a n || (keptRanges w).any (fun r => rangesMeet (stripeStacks w) a n r.1 r.2)

/-- An operation begins. -/
def beginLoad (st : Nat) (h : SetHeader) (receive bad : Bool) (w : W9) : W9 :=
  let op : LoadOp := { header := h, dst := BitVec.ofNat 64 (rd64 w Reg.loadDst), next := 0, attempt := 0, receive := receive
                       source := none, result := if bad then some 1 else none }
  wr64 Reg.loadDoneBytes 0 (setLoad st 0 { w with wt := { w.wt with load := some op } })

/-- SET_LOAD (R300 to R302): `bytes` are the set's first bytes, its header and manifest at least; a LOAD of one's own writes them. A receiver
has them from its Mule source (R304). -/
def setLoadCmd (bytes : List Byte) (w : W9) : W9 :=
  if !cmdOpen w then w
  else if loadBusy w then loadReject w
  else
    let h := parseSet bytes
    let a := rd64 w Reg.loadDst
    let receive := muleRole w == 2
    let bad := headerBad w h || rangeBad w a h.totalLen
    let w := beginLoad 1 h receive bad w
    if bad then w
    else
      let bs := bytes.take h.totalLen
      addDone (min (headerLen h.entries) bs.length) (if receive then w else landSet a bs w)

/-- SET_LOAD. -/
def execSetLoad (header : List Byte) (s : State) : Host.Outcome State Fault Refusal := lift (setLoadCmd header) s

/-- VERIFY (R300): the header is read from far memory. -/
def verify (w : W9) : W9 :=
  if !cmdOpen w then w
  else if loadBusy w then loadReject w
  else
    let a := rd64 w Reg.loadDst
    let h := farSet w a
    let bad := headerBad w h
    let w := beginLoad 2 h false bad (farSetEffects a w)
    if bad then w else addDone (headerLen h.entries) w

/-- VERIFY. -/
def execVerify (s : State) : Host.Outcome State Fault Refusal := lift verify s

/-- MULE_FAIL goes to every receiver (R305). -/
def tellReceivers (w : W9) : W9 := forEach (mulePorts w) (fun p w => sendMsg p (.muleFail 0xFFFF (deviceAddr w)) w) w

/-- An operation fails (R301). A source whose own LOAD fails tells its receivers (R305). -/
def loadFails (reason : Nat) (w : W9) : W9 :=
  let own := loadState w == 1 && muleRole w == 1
  let w := raise0 0x6012 srcSteward [BitVec.ofNat 8 reason] (setLoad 4 reason { w with wt := { w.wt with load := none } })
  if own then tellReceivers w else w

/-- ABORT of a LOAD or VERIFY (R300). -/
def loadAbort (w : W9) : W9 :=
  if !cmdOpen w then w
  else if loadBusy w then loadFails 4 w
  else loadReject w

/-- ABORT. -/
def execAbort (s : State) : Host.Outcome State Fault Refusal := lift loadAbort s

/-- Change the running operation. -/
def putLoad (o : LoadOp) (w : W9) : W9 := { w with wt := { w.wt with load := some o } }

/-- A layer's digest does not match (R301, R305): an own operation fails; a receiver asks for the layer again, three times. -/
def digestBad (o : LoadOp) (e : ManifestEntry) (w : W9) : W9 :=
  if !o.receive then putLoad { o with result := some 2 } (raise0 0x6011 srcSteward (le 2 e.layer ++ [0]) w)
  else
    let n := o.attempt + 1
    let w := raise0 0x6011 srcSteward (le 2 e.layer ++ [BitVec.ofNat 8 n]) w
    if 4 ≤ n then putLoad { o with attempt := n, result := some 5 } w
    else
      let w := inc Reg.muleResends 1 (putLoad { o with attempt := n } w)
      match o.source with
      | some s => sendMsg s.1 (.muleResend n (Fin.ofNat 256 e.layer) s.2 (deviceAddr w)) w
      | none => w

/-- LAYER_DIGEST_CHECK (R301, R304): the last byte of the layer in turn has landed. `data` are the bytes a LOAD of one's own has read from the
host for it, and whatever the set holds between it and the next layer; a receiver and a VERIFY hash what far memory holds. -/
def layerDigest (data : List Byte) (w : W9) : W9 := match w.wt.load with
  | none => w
  | some o => match o.result, o.header.manifest[o.next]? with
    | none, some e =>
      let a := o.dst.toNat + e.offset
      let own := loadState w == 1 && !o.receive
      let bs := if own then data.take e.length else farRead w a e.length
      let w := if own then landSet a (data.take (o.header.totalLen - e.offset)) w
        else farReadEffects (farQuarters w a e.length) w
      if sha256 bs = e.digest then addDone e.length (putLoad { o with next := o.next + 1, attempt := 0 } w)
      else digestBad o e w
    | _, _ => w

/-- LAYER_DIGEST_CHECK. -/
def execLayerDigestCheck (data : List Byte) (s : State) : Host.Outcome State Fault Refusal := lift (layerDigest data) s

/-- LOAD_ENGINE_DONE (R301): the operation ends by the result it has, by a host read's error completion, or, every layer processed, in
success. -/
def loadDone (hostError : Bool) (w : W9) : W9 := match w.wt.load with
  | none => w
  | some o => match o.result with
    | some r => loadFails r.val w
    | none =>
      if hostError ∧ loadState w = 1 ∧ !o.receive then loadFails 3 w
      else if o.header.entries ≤ o.next then
        let w := { w with wt := { w.wt with load := none, verified := some (o.dst, o.header) } }
        raise0 0x6010 srcSteward (le 8 o.dst.toNat ++ le 4 o.header.modelVer.toNat)
          (wr64 Reg.loadVerified o.dst.toNat (setLoad 3 0 w))
      else w

/-- LOAD_ENGINE_DONE. -/
def execLoadEngineDone (hostError : Bool) (s : State) : Host.Outcome State Fault Refusal := lift (loadDone hostError) s

/-! ## Mule data (R304) -/

/-- The bytes lie in the receive range. -/
def inMuleRange (w : W9) (a n : Nat) : Bool :=
  decide (rd64 w Reg.muleRxBase ≤ a) && decide (a + n ≤ rd64 w Reg.muleRxBase + rd64 w Reg.muleRxLen)

/-- A transfer is dropped at a port (R400). -/
def dropTransfer (p : PortIx) (op : Nat) (src : Nat) (addr : Nat) (w : W9) : W9 :=
  raise0 0x9005 (srcPort p) ([BitVec.ofNat 8 op, 0] ++ le 2 src ++ [0, 0, 0, 0] ++ le 8 addr) (inc (Reg.rxDrops p.val) 1 w)

/-- Mule data of device `src` arrives at a port: written in the receive range, else dropped (R304, R400). -/
def muleReceive (p : PortIx) (src : BitVec 16) (a : Nat) (bs : List Byte) (w : W9) : W9 :=
  if inMuleRange w a bs.length then
    let w := writeFar a bs (touchVerified a bs.length w)
    match w.wt.load with
    | some o => if o.receive then putLoad { o with source := some (p, src) } w else w
    | none => w
  else
    dropTransfer p 0 src.toNat a (raise0 0x6013 srcSteward (le 8 a ++ [BitVec.ofNat 8 p.val]) (inc Reg.muleDrops 1 w))

/-- MULE_DATA_RECEIVE (R304), on a port that is UP; in hold far writes from the edge ports wait (R483). -/
def muleData (p : PortIx) (src : BitVec 16) (a : FAddr) (bs : List Byte) (w : W9) : W9 :=
  if portUp w p ∧ !inHold w then muleReceive p src a.toNat bs w else w

/-- MULE_DATA_RECEIVE. -/
def execMuleDataReceive (port : PortIx) (src : BitVec 16) (addr : FAddr) (data : List Byte) (s : State) :
    Host.Outcome State Fault Refusal := lift (muleData port src addr data) s

/-! ## Load items (R306, R307) -/

/-- The bytes of a load item (Table 8.5). -/
def itemBytes (x : LoadItem) : List Byte :=
  le 8 x.far.toNat ++ le 4 x.len ++ le 2 (x.target.toNat + 0x8000 * b2n x.mcast) ++ le 3 x.local'.toNat ++
  [match x.signal with | some c => BitVec.ofNat 8 (0x80 + c.val) | none => 0] ++ [0, 0] ++ le 4 x.seq.toNat ++ List.replicate 8 0

/-- The Mule tile sends an item's data (R306): by PUT, the final packet a PUT-SIGNAL where the item asks for one. -/
def sendItem (t : Tile) (x : LoadItem) (w : W9) : W9 :=
  let data := farRead w x.far.toNat x.len
  let w := farReadEffects (farQuarters w x.far.toNat x.len) w
  let d : Dest := if x.mcast then .group (x.target.setWidth 12) else .unit (x.target.setWidth 16)
  let op := if x.signal.isSome then opPutSignal else opPut
  let p : SendArgs := ⟨0, x.len, d, x.local', none, none, 0, x.signal, []⟩
  let q := (tileOf w t).opSeq
  let w := nextOp t w
  match routeOf w t d with
  | .inl st => nakNoted t (tileSrc t) st opReplyStatus q w
  | .inr yx => forEach (putPackets t op p q false yx data) (fun k w => routerTake t .request .loc k w) w

/-- LOAD_ITEM_POP (R306): the Mule loop of an attach tile pops the next load item from ring 15. The item is in the ring only for the pop
(DESIGN CHOICE, log entry 29): its bytes go through the region, and HEAD and TAIL both move on. -/
def loadItemPop (n : Fin 32) (w : W9) : W9 :=
  let t := tileAt (attachTile n.val).1 (attachTile n.val).2
  match smGet (fun _ => []) w.wt.muleRings n.val with
  | [] => w
  | x :: r =>
    if (running w t || rdF w Reg.imgStatus 2 0 == 2) && ringOn w t 15 && decide (32 ≤ ringFree w t 15) then
      let w := { w with wt := { w.wt with
        muleRings := smPut (fun _ => []) w.wt.muleRings n.val r
        outstanding := if x.signal.isSome then w.wt.outstanding ++ [x] else w.wt.outstanding } }
      sendItem t x (advanceHead t 15 32 (ringWrite t 15 (itemBytes x) w))
    else w

/-- LOAD_ITEM_POP. -/
def execLoadItemPop (point : Fin 32) (s : State) : Host.Outcome State Fault Refusal := lift (loadItemPop point) s

/-- The tiles an item goes to. -/
def itemTiles (w : W9) (x : LoadItem) : List Tile :=
  if x.mcast then (match rungNow w with | some g => groupMembers g (x.target.setWidth 12) | none => [])
  else (codeTile (x.target.setWidth 16)).toList

/-- LOAD_ITEM_COMPLETE (R307): the steward has seen the item's signal at its target. -/
def loadItemComplete (seq : BitVec 32) (w : W9) : W9 := match w.wt.outstanding.find? (fun x => x.seq == seq) with
  | some x =>
    let shown := match x.signal with
      | some c => (itemTiles w x).all (fun t => decide (prd w t (Pg.sigcnt c.val) ≠ 0))
      | none => true
    if shown then { w with wt := { w.wt with outstanding := w.wt.outstanding.erase x } } else w
  | none => w

/-- LOAD_ITEM_COMPLETE. -/
def execLoadItemComplete (seq : BitVec 32) (s : State) : Host.Outcome State Fault Refusal := lift (loadItemComplete seq) s

end Sys2Proof.Machine
end

