-- ==== Sys2Proof/Machine/Blocks.lean ====
section
/-! DEFINITION. Blocks that are reset, parked or loaded: what makes a field idle, closing and clearing it, writing it from the image
(spec/09_image_contract.md R339, spec/12_clocks_power.md R449 to R453), gateway and link-port resets (spec/14_reset_boot_attestation.md
R499 to R502, spec/11_edge_links_twin.md R398). -/

namespace Sys2Proof.Machine

open Sys2Proof

/-! ## Park state and clock of a field (Table 12.6, Table 12.10) -/

/-- PARK_STATUS.STATE of a field, and when it was entered. -/
def setPark (f : FieldIx) (st : Nat) (w : W9) : W9 :=
  let t := now w
  modField f (fun s => { s with stateSince := t }) (wrF (Reg.parkStatus f.val) 2 0 st w)

/-- Event 0xA013 with its reason, which PARK_STATUS shows (R448, R450). -/
def parkRejected (f : FieldIx) (reason : Nat) (w : W9) : W9 :=
  raise0 0xA013 (srcField f) [BitVec.ofNat 8 reason] (wrF (Reg.parkStatus f.val) 10 8 reason w)

/-- FIELD_CLK.CLK_RUN. -/
def clockRuns (w : W9) (f : FieldIx) : Bool := rdB w (Reg.fieldClk f.val) 30
/-- Stop or restart a field's clock at the root. -/
def setClock (f : FieldIx) (b : Bool) (w : W9) : W9 := wrB (Reg.fieldClk f.val) 30 b w

/-- The states of a field's VLOGIC and VARRAY zones: 0 off, 1 run, 2 retention, 3 isolated (Table 12.11). An isolated zone stays so. -/
def setZones (f : FieldIx) (v : Nat) (w : W9) : W9 :=
  let one (hi : Nat) (w : W9) : W9 := if rdF w (Reg.fieldPwr f.val) hi (hi - 1) = 3 then w else wrF (Reg.fieldPwr f.val) hi (hi - 1) v w
  one 29 (one 31 w)

/-- A field is lost. -/
def fieldLostNow (w : W9) (f : FieldIx) : Bool := fieldStateSeen w f f == 3

/-- Change the reasons for which a field withholds its pulses; FIELD_CLK.BEAT_HELD follows. -/
def setWithheld (f : FieldIx) (g : Withheld → Withheld) (w : W9) : W9 :=
  showHeld f (modField f (fun s => { s with withheld := g s.withheld }) w)

/-- A field that ends its drain, its reset or its parking pulses again. -/
def pulsesBack (f : FieldIx) (w : W9) : W9 := setWithheld f (fun x => { x with drain := false, reset := false }) w

/-! ## Idleness (R203, R449) -/

/-- A tile number lies in field `f`. -/
def inField (f : FieldIx) (k : Nat) : Bool := tileField (Fin.ofNat 32256 k) == f

/-- The neighbour of a field across a side: 0 N, 1 E, 2 S, 3 W; none at the wafer edge (R206). -/
def neighbour (f : FieldIx) (sd : Fin 4) : Option FieldIx :=
  let x := f.val % 8
  let y := f.val / 8
  match sd with
  | 0 => if y = 0 then none else some (Fin.ofNat 48 (f.val - 8))
  | 1 => if x = 7 then none else some (Fin.ofNat 48 (f.val + 1))
  | 2 => if y = 5 then none else some (Fin.ofNat 48 (f.val + 8))
  | 3 => if x = 0 then none else some (Fin.ofNat 48 (f.val - 1))

/-- The opposite side. -/
def acrossSide (sd : Fin 4) : Fin 4 := sd + 2

/-- The entries of the seam queues out of a field: each waits in the field it enters. -/
def seamsOut (w : W9) (f : FieldIx) : List (FieldIx × SeamEntry) :=
  (List.finRange 4).flatMap (fun sd => match neighbour f sd with
    | some g => ((fieldState w g).seams.filter (fun e => e.side == acrossSide sd)).map (fun e => (g, e))
    | none => [])

/-- ROUTE_STATUS.EMPTY: no packet in the field's routers, nor in the seam queues into or out of it (R203). -/
def routeEmpty (w : W9) (f : FieldIx) : Bool :=
  !w.routers.any (fun e => inField f e.1 && !e.2.isEmpty) && (fieldState w f).seams.isEmpty && (seamsOut w f).isEmpty

/-- A tile's own work is over: no product, ATTN or AMERGE in flight, no tag PENDING, no deferred write (R449). -/
def tileIdle (w : W9) (t : Tile) : Bool :=
  let s := tileOf w t
  s.products.isEmpty && s.attn.isEmpty && s.defer.isEmpty && prd64 w t Pg.fmqPending == 0

/-- A running tile waits at its BEAT bundle: every pulse given to it has been used (R65). -/
def atBeat (w : W9) (f : FieldIx) (t : Tile) : Bool :=
  (tileOf w t).pulses == 0 && !(fieldState w f).owing.any (fun e => e.2.contains t)

/-- The conditions under which a drain or a field's quiesce ends (R449). -/
def fieldIdle (w : W9) (f : FieldIx) : Bool :=
  (runningTiles w f).all (atBeat w f) && (fieldTiles f).all (tileIdle w) && routeEmpty w f

/-! ## Clearing a field (R494, R500, R501) -/

/-- RESET_DROPS and event 0xC006 for `n` packets dropped toward a block under reset (R500). -/
def countDrops (n ty inst : Nat) (w : W9) : W9 :=
  if n = 0 then w
  else raise0 0xC006 srcRst (le 4 n ++ [BitVec.ofNat 8 ty, BitVec.ofNat 8 inst]) (inc Reg.resetDrops n w)

/-- Packets in the field's seam queues go: those into it, and those out of it. -/
def clearSeams (f : FieldIx) (w : W9) : W9 :=
  let w := forEach (seamsOut w f) (fun e w => modField e.1 (fun s => { s with seams := s.seams.erase e.2 }) w) w
  modField f (fun s => { s with seams := [] }) w

/-- Everything a field reset clears: tiles with their stores, pages and bundles, routers, slot and multicast tables, seam-queue halves
(Table 14.1). The registers of Table 12.10, the gateways and the stack stay. Every tile zeroes its stores (R59). -/
def clearField (f : FieldIx) (w : W9) : W9 :=
  let m (k : Nat) : Bool := !inField f k
  let w := { w with
    page := w.page.filter (fun e => m (e.1 / 0x1000)), routers := w.routers.filter (fun e => m e.1)
    tiles := w.tiles.filter (fun e => m e.1)
    mem := { w.mem with
      store := w.mem.store.filter (fun e => m (e.1 / 2 ^ 24)), storeUE := w.mem.storeUE.filter (fun k => m (k / 2 ^ 24))
      storeCE := w.mem.storeCE.filter (fun k => m (k / 2 ^ 24)), bundles := w.mem.bundles.filter (fun e => m (e.1 / 4096)) } }
  let w := forEach (fieldTiles f) (fun t w => modTile t (fun s => { s with zeroing := true }) w) w
  wrB (Reg.routeStatus f.val) 0 false
    (modField f (fun s => { s with slots := [], mcast := [], mcastRoots := [], owing := [] }) (clearSeams f w))

/-- The tiles' zeroing is over (R59). -/
def zeroed (f : FieldIx) (w : W9) : W9 := forEach (fieldTiles f) (fun t w => modTile t (fun s => { s with zeroing := false }) w) w

/-! ## Writing a field from the image (R339, R453) -/

/-- A band's position in a field. -/
def bandsIn (g : Rung) (f : FieldIx) : List (Band × BandPos) :=
  g.bands.filterMap (fun b => (g.positions.find? (fun p => p.band == b.band && p.field == f.val)).map (fun p => (b, p)))

/-- The placed tiles of a field with their bands. -/
def placedTiles (g : Rung) (f : FieldIx) : List (Tile × Band) :=
  (bandsIn g f).flatMap (fun e => (List.range e.1.tiles).map (fun i => (bandTile e.1 e.2 i, e.1)))

/-- Write a program into a tile's bundle store. -/
def writeProgram (t : Tile) (p : Program) (w : W9) : W9 :=
  { w with mem := { w.mem with
    bundles := p.bundles.zipIdx.foldl (fun m e => smPut bundleEmpty m (t.val * 4096 + e.2) e.1) w.mem.bundles } }

/-- Write the ring registers of a band tile (R74, R195). -/
def writeRing (t : Tile) (r : RingMap) (w : W9) : W9 :=
  let n := r.ring.val
  let w := pwr t (Pg.ringProdB n) r.prodB (pwr t (Pg.ringProdA n) r.prodA (pwrB t (Pg.ringCredit n) 31 r.dynamic w))
  pwr t (Pg.ringCtrl n) (BitVec.ofNat 32 (0x80000000 + r.log2 % 32)) (pwr t (Pg.ringBase n) (r.base.setWidth 32) w)

/-- Write the window registers of a band tile (R78). -/
def writeWindow (t : Tile) (v : WindowMap) (w : W9) : W9 :=
  let n := v.win.val
  pwr t (Pg.winCtrl n) v.ctrl (pwr t (Pg.winSize n) v.size (pwr t (Pg.winBase n) v.base w))

/-- A context entry's words with the layer's format (Table 4.12). -/
def putCtx (m : LayerMap) (fmt : Nat) (b : Bool) (c : CtxMap) (t : Tile) (w : W9) : W9 :=
  let i := ctxIx b c.n
  let v := setField (setField c.ctx 27 24 fmt) 23 23 (b2n (m.burst && elemBits fmt == 4))
  pwr t (Pg.ctxOutl i) c.outl (pwr t (Pg.ctxScale i) c.scale (pwr t (Pg.ctx i) v w))

/-- Both banks of an entry: the formats in force, and in the bank not in force those of a change whose boundary is fixed (R143, R453). -/
def putBanks (layers : List LayerMap) (c : CtxMap) (t : Tile) (w : W9) : W9 := match layers.find? (fun m => m.layer == c.layer) with
  | none => w
  | some m =>
    let cur := layerAct w c.layer
    let nxt := match w.prec.change with
      | some ch => if ch.flipped then cur else match ch.layers.find? (fun e => e.1 == c.layer) with
        | some e => ladderAt m e.2
        | none => cur
      | none => cur
    putCtx m nxt (!epochNow w) c t (putCtx m cur (epochNow w) c t w)

/-- LAT_PAD for a native A1 or portable image on a B0 part; 0 otherwise (R333, Table 9.6). -/
def padsFor (st : Stepping) (profile : Nat) (compat : Bool) : Word32 :=
  if compat ∨ st = .a1 ∨ profile = 1 then 0 else 0x1224

/-- The direction from a tile to the next of a path: a hop of 1 or of 8. -/
def hopOut (a b : Tile) : Out :=
  if tileY a = tileY b then
    (if tileX a < tileX b then (if tileX a + 8 = tileX b then .ex else .e) else (if tileX b + 8 = tileX a then .wx else .w))
  else (if tileY a < tileY b then (if tileY a + 8 = tileY b then .sx else .s) else (if tileY b + 8 = tileY a then .nx else .n))

/-- The outputs of a branch: each tile's hop, and a landing at the member. -/
def branchOuts : List Tile → List (Tile × Out)
  | [] => []
  | [t] => [(t, .land)]
  | a :: b :: r => (a, hopOut a b) :: branchOuts (b :: r)

/-- The multicast entries of a group at one tile: the outputs of its branches there (R192). -/
def groupOuts (m : McastGroup) (t : Tile) : List Out :=
  (((m.branches.flatMap branchOuts).filter (fun e => e.1 == t)).map (fun e => e.2)).dedup

/-- The tiles of a group's tree. -/
def groupTiles (m : McastGroup) : List Tile := ((m.branches.flatMap branchOuts).map (fun e => e.1)).dedup

/-- The slot tables, SLOT_LEN and multicast tables of a field (R179, R192). -/
def writeTables (g : Rung) (f : FieldIx) (w : W9) : W9 :=
  let mc := g.mcast.flatMap (fun m => ((groupTiles m).filter (fun t => tileField t == f)).map (fun t => (m.net, t, m.group, groupOuts m t)))
  let roots := (g.mcast.filter (fun m => tileField m.root == f)).map (fun m => (m.net, m.group, m.root))
  modField f (fun s => { s with slots := g.slotTables.filter (fun e => tileField e.tile == f), mcast := mc, mcastRoots := roots })
    (wr (Reg.slotLen f.val) (BitVec.ofNat 32 g.timing.slotLen) w)

/-- The (band, index) entries that name a tile of field `f`. -/
def tileIn (g : Rung) (f : FieldIx) (band index : Nat) : Option Tile :=
  (bandRefTile g band index).filter (fun t => tileField t == f)

/-- The steward writes a field's tables, bundle stores, ring, window, weight-copy and context registers from the image (R339, R453). The
tables go with the rest: a field reset has cleared them (DEDUCED, log entry 30). -/
def writeField (f : FieldIx) (w : W9) : W9 := match w.img, rungNow w with
  | some im, some g =>
    let w := wr (Reg.latPad f.val) (padsFor w.dev.stepping im.profile im.compat) (writeTables g f w)
    let w := forEach (placedTiles g f) (fun e w => match g.programs.find? (fun p => p.index == e.2.program) with
      | some p => writeProgram e.1 p w
      | none => w) w
    let w := forEach im.body.rings (fun r w => match tileIn g f r.band r.index with | some t => writeRing t r w | none => w) w
    let w := forEach im.body.windows (fun v w => match tileIn g f v.band v.index with | some t => writeWindow t v w | none => w) w
    let w := forEach g.far.copyOffsets (fun c w => match tileIn g f c.band c.index with
      | some t => pwr t Pg.weightOfsOps (BitVec.ofNat 32 c.ops) (pwr t Pg.weightOfsBank (BitVec.ofNat 32 c.bank) w)
      | none => w) w
    forEach im.body.contexts (fun c w => match tileIn g f c.band c.index with | some t => putBanks im.body.layers c t w | none => w) w
  | _, _ => w

/-- Refill-list entries name tiles of the field, and a set is active: the restored tiles are refilled before they start (R318, R453). -/
def refillDue (w : W9) (f : FieldIx) : Bool :=
  decide (rd64 w Reg.wsetActive ≠ 0) && (match farOf w with
    | some l => l.refill.any (fun e => e.tiles.any (fun t => tileField t == f))
    | none => false)

/-- Every placed tile of a field waits for the first pulse of the next beat start (R339, R453). -/
def startTiles (f : FieldIx) (w : W9) : W9 := match rungNow w with
  | none => w
  | some g => forEach (placedTiles g f) (fun e w => modTile e.1 (fun s => { s with startWait := true }) w) w

/-- A field joins the beats at a beat start (R431). -/
def joinBeats (f : FieldIx) (w : W9) : W9 := showHeld f (if imageRuns w && taking w f then startField f w else w)

/-! ## Field resets (R499 to R501, Table 12.7) -/

/-- FIELDS_IN_RESET. -/
def markReset (f : FieldIx) (b : Bool) (w : W9) : W9 := wrB64 Reg.fieldsInReset f.val b w

/-- A drain is abandoned (R450): the field is OPEN again and pulses at the next beat boundary. -/
def abandonDrain (f : FieldIx) (reason : Nat) (w : W9) : W9 :=
  let w := modField f (fun s => { s with parkOrder := false, parkHeld := false }) (setPark f 0 w)
  parkRejected f reason (pulsesBack f w)

/-- Event 0xC002 of a field reset, and 0xC020 of the critical-state error it answered (R504, Table 14.13). -/
def fieldResetDone (f : FieldIx) (cause row : Nat) (timedOut : Bool) (ns : Nat) (w : W9) : W9 :=
  let w := raise0 0xC002 (srcField f) ([BitVec.ofNat 8 cause, BitVec.ofNat 8 (b2n timedOut), 0, 0] ++ le 4 ns) w
  if row = 0 then w else raise0 0xC020 srcRst [BitVec.ofNat 8 row, BitVec.ofNat 8 f.val, 0] w

/-- A field reset begins (R499, R501): 0 RST_CMD, 1 loader, 2 PLL, 3 critical state. One under way is merged with; a quiesce that a
critical-state error meets is over (Table 14.4). A STOPPED or GATED field takes it at once and stays as it is, a DRAINING one abandons its
drain (Table 12.7). A lost field stays lost: nothing is reset (DEDUCED, log entry 31). -/
def startFieldReset (f : FieldIx) (cause : Fin 4) (row : Nat) (w : W9) : W9 :=
  if fieldLostNow w f then w
  else if (fieldState w f).reset.isSome then
    if row = 0 then w else modField f (fun s => { s with reset := s.reset.map (fun r => { r with row := row }) }) w
  else if parkState w f = 2 ∨ parkState w f = 3 then fieldResetDone f cause.val row false 0 (zeroed f (clearField f w))
  else
    let w := if parkState w f = 1 then abandonDrain f 4 w else w
    let t := now w
    markReset f true (setWithheld f (fun x => { x with reset := true })
      (modField f (fun s => { s with reset := some ⟨cause, row, t, true, false⟩ }) w))

/-- The reset itself (R501): the field is under reset everywhere, what is queued toward it is dropped, its state is cleared. -/
def applyFieldReset (f : FieldIx) (timedOut : Bool) (drops : Nat) (w : W9) : W9 := match (fieldState w f).reset with
  | none => w
  | some r =>
    let n := drops + (fieldState w f).seams.length
    let w := setFieldState f 2 (modField f (fun s => { s with reset := some { r with quiescing := false, timedOut := timedOut } }) w)
    clearField f (countDrops n 1 f.val w)

/-- After the reset the seams open and the steward restores the field (R501, R453). A field that was waking is reloaded. -/
def openAfterReset (f : FieldIx) (w : W9) : W9 :=
  let w := writeField f (setFieldState f 0 (zeroed f w))
  if parkState w f = 4 ∨ parkState w f = 5 then setPark f 5 w else w

/-- The field reopens at a beat start (R501). -/
def reopenAfterReset (f : FieldIx) (r : FieldReset) (w : W9) : W9 :=
  let n := now w - r.started
  let w := markReset f false (modField f (fun s => { s with reset := none }) w)
  let w := fieldResetDone f r.cause.val r.row r.timedOut n w
  if parkState w f = 5 then w else joinBeats f (startTiles f (pulsesBack f w))

/-- FIELD_RESET_REOPEN (R501): once the reset has been applied the seams open and the field is restored; once its tiles have signalled their
refill, or where there is none to make, it reopens. A PLL that has not locked again holds it under reset (R433). -/
def fieldResetReopen (f : FieldIx) (w : W9) : W9 := match (fieldState w f).reset with
  | none => w
  | some r =>
    if r.quiescing ∨ fieldLostNow w f ∨ !rdB w (Reg.fieldClk f.val) 31 then w
    else
      if fieldStateSeen w f f = 2 then
        let w := openAfterReset f w
        if refillDue w f then w else reopenAfterReset f r w
      else reopenAfterReset f r w

/-- FIELD_RESET_REOPEN. -/
def execFieldResetReopen (f : FieldIx) (s : State) : Host.Outcome State Fault Refusal := lift (fieldResetReopen f) s

/-! ## Gateway resets (R499, R500, R502) -/

/-- A gateway reset begins; one under way is merged with. -/
def startGatewayReset (g : Gateway) (w : W9) : W9 :=
  if (gwOf w g).reset.isSome then w
  else
    let t := now w
    modGw g (fun s => { s with reset := some ⟨0, 0, t, true, false⟩ }) w

/-- A gateway's registers take their reset values (R502). -/
def clearGwRegs (g : Gateway) (w : W9) : W9 :=
  { w with bar0 := w.bar0.filter (fun e => decide (e.1 / 0x1000 ≠ (0x3000000 + 0x1000 * g.val) / 0x1000)) }

/-- A request still queued at the reset is answered NAK_RESET (R500): an accepted STORE leaves its tag DONE with FMQ_ERR. -/
def abandonReq (r : FarReq) (w : W9) : W9 := if r.load then farNak r w else pwrB64 r.tile Pg.fmqErr r.tag.val true w

/-- The gateway is reset and takes requests again: event 0xC003. -/
def applyGatewayReset (g : Gateway) (timedOut : Bool) (drops : Nat) (w : W9) : W9 :=
  if (gwOf w g).reset.isNone then w
  else
    let w := countDrops drops 2 g.val (forEach (gwOf w g).queue abandonReq w)
    let w := clearGwRegs g (modGw g (fun _ => GwS.init) w)
    raise0 0xC003 (srcGw g.val) [0, BitVec.ofNat 8 (b2n timedOut)] w

/-! ## Link-port resets (R388, R398, R499, R502) -/

/-- A port changes state: event 0x9001 (R388). -/
def setPort (p : PortIx) (st width : Nat) (w : W9) : W9 :=
  let old := rd w (Reg.portStatus p.val)
  let v := setField (setField old 31 30 st) 21 16 width
  if v = old then w
  else raise0 0x9001 (srcPort p) [BitVec.ofNat 8 st, BitVec.ofNat 8 width] (wr (Reg.portStatus p.val) v w)

/-- The VLINK zone of a port is isolated (Table 12.5). -/
def portIsolated (w : W9) (p : PortIx) : Bool := rdB64 w Reg.zonesIsolated (48 + p.val)

/-- The port can train: enabled, with a role, its zone not isolated (R388, R390, Table 12.5). -/
def canTrain (w : W9) (p : PortIx) : Bool :=
  portEnabled w p && (portRole w p == 1 || portRole w p == 2) && !portIsolated w p

/-- A link-port reset begins: 0 RST_CMD, 1 lane failure, 2 replay limit. One under way is merged with. -/
def startPortReset (p : PortIx) (cause : Fin 4) (w : W9) : W9 :=
  if (portOf w p).reset.isSome ∨ portIsolated w p then w
  else
    let t := now w
    setPort p 3 0 (modPort p (fun s => { s with reset := some ⟨cause, 0, t, true, false⟩ }) w)

/-- The other twin port. -/
def otherTwin (w : W9) (p : PortIx) : Option PortIx := (twinPorts w).find? (fun q => decide (q ≠ p))

/-- The port is reset (R398): a twin port's unacknowledged messages go out on the other twin port, the replay buffer and the credits are
dropped, and the port trains again. Lanes that failed stay out (R389). -/
def applyPortReset (p : PortIx) (timedOut : Bool) (drops : Nat) (w : W9) : W9 := match (portOf w p).reset with
  | none => w
  | some r =>
    let w := if isTwinPort w p then
        match otherTwin w p with
        | some q => forEach (portOf w p).replay (fun m w => sendMsgAt m.first q m.msg w) w
        | none => w
      else w
    let w := countDrops drops 4 p.val w
    let w := modPort p (fun s => { PortS.init with
      failed := s.failed, xferSeq := s.xferSeq, reset := some { r with quiescing := false, timedOut := timedOut } }) w
    setPort p (if canTrain w p then 1 else 0) 0 (wr64 (Reg.laneMap p.val) 0 (inc (Reg.retrains p.val) 1 w))

/-! ## QUIESCE_COMPLETE and QUIESCE_TIMEOUT (R499, Table 14.3a) -/

/-- The unit that (kind, index) names is quiescing, with its start: kinds 0 field, 1 gateway, 2 link port. -/
def quiescing (w : W9) (kind : Fin 3) (i : Nat) : Option Nat :=
  let st (r : Option FieldReset) : Option Nat := r.bind (fun x => if x.quiescing then some x.started else none)
  match kind with
  | 0 => if i < 48 then st (fieldState w (Fin.ofNat 48 i)).reset else none
  | 1 => if i < 192 then st (gwOf w (Fin.ofNat 192 i)).reset else none
  | 2 => if i < 8 then st (portOf w (Fin.ofNat 8 i)).reset else none

/-- The unit is idle (Table 14.3a). -/
def quiesced (w : W9) (kind : Fin 3) (i : Nat) : Bool := match kind with
  | 0 => fieldIdle w (Fin.ofNat 48 i)
  | 1 => (gwOf w (Fin.ofNat 192 i)).queue.isEmpty
  | 2 => (portOf w (Fin.ofNat 8 i)).replay.isEmpty

/-- The timeout of a quiesce, in ns. -/
def quiesceLimit (kind : Fin 3) : Nat := match kind with
  | 0 => 200000
  | 1 => 50000
  | 2 => 20000

/-- Reset the unit. -/
def applyReset (kind : Fin 3) (i : Nat) (timedOut : Bool) (drops : Nat) (w : W9) : W9 := match kind with
  | 0 => applyFieldReset (Fin.ofNat 48 i) timedOut drops w
  | 1 => applyGatewayReset (Fin.ofNat 192 i) timedOut drops w
  | 2 => applyPortReset (Fin.ofNat 8 i) timedOut drops w

/-- QUIESCE_COMPLETE (R499): a block under reset has become idle, and its reset is applied. `drops` counts the packets on links toward the
block, which State does not hold. -/
def quiesceComplete (kind : Fin 3) (i drops : Nat) (w : W9) : W9 :=
  if (quiescing w kind i).isSome && quiesced w kind i then applyReset kind i false drops w else w

/-- QUIESCE_COMPLETE. -/
def execQuiesceComplete (kind : Fin 3) (index drops : Nat) (s : State) : Host.Outcome State Fault Refusal :=
  lift (quiesceComplete kind index drops) s

/-- QUIESCE_TIMEOUT (R499): at the timeout the block is reset anyway: BLOCK_TIMEOUTS and event 0xC005. -/
def quiesceTimeout (kind : Fin 3) (i drops : Nat) (w : W9) : W9 := match quiescing w kind i with
  | none => w
  | some t0 =>
    if now w < t0 + quiesceLimit kind then w
    else
      let ty : Byte := match kind with | 0 => 1 | 1 => 2 | 2 => 4
      let w := raise0 0xC005 srcRst [ty, BitVec.ofNat 8 i] (inc Reg.blockTimeouts 1 w)
      applyReset kind i true drops w

/-- QUIESCE_TIMEOUT. -/
def execQuiesceTimeout (kind : Fin 3) (index drops : Nat) (s : State) : Host.Outcome State Fault Refusal :=
  lift (quiesceTimeout kind index drops) s

end Sys2Proof.Machine
end

