-- ==== Sys2Proof/Machine/Failover.lean ====
section
/-! DEFINITION. What becomes of streams when the machine under them goes: restoring them (spec/15_faults_recovery.md R543, Table 15.5; R420),
ending or releasing them all (R544, R551), and leaving a pair (spec/11_edge_links_twin.md R418, R423). -/

namespace Sys2Proof.Machine

open Sys2Proof

/-! ## Restoring a stream (Table 15.5, R420) -/

/-- Chunk `c` of a stream is flushed in every KV layer (Table 6.6). A block whose pages are gone or being recomputed is restored by R235, so
it does not count here (DEDUCED, log entry 32). -/
def chunkFlushed (w : W9) (s : StreamIx) (c : Nat) : Bool := match w.img, blockOf w s (c / 4) with
  | some im, some d =>
    decide (d.state = .dropped) || decide (d.state = .recomputing) ||
      (im.body.layers.filter (fun l => l.kv)).all (fun l => bitAt (smGet (fun _ => 0) d.flushed l.layer.val) (c % 4))
  | _, _ => false

/-- c0: the lowest chunk that is not flushed in every layer, or the first past L. -/
def firstUnflushed (w : W9) (s : StreamIx) : Nat :=
  let n := cdiv (streamOf w s).length 64
  ((List.range n).find? (fun c => !chunkFlushed w s c)).getD n

/-- Positions 64 × c0 to L − 1 are queued as recompute chunks (R420, R543), and the stream runs them before it returns to DECODE. -/
def recomputeTail (s : StreamIx) (w : W9) : W9 :=
  let l := (streamOf w s).length
  let cs := chunksOver s true (max 1 (timingOf w).chunkMax) l (64 * firstUnflushed w s) l
  let w := { w with serve := { w.serve with queue := w.serve.queue ++ cs } }
  setState s (if cs.isEmpty then .decode else .prefill) w

/-- The stream takes its place in the order of R264 at its restoration. -/
def newOrder (s : StreamIx) (w : W9) : W9 :=
  let k := w.serve.decisions
  modStream s (fun t => { t with order := k, entered := none, parkAsked := false }) { w with serve := { w.serve with decisions := k + 1 } }

/-- A stream slot after a recovery (Table 15.5). -/
def restoreSlot (s : StreamIx) (w : W9) : W9 :=
  let t := streamOf w s
  match t.state with
  | .admitting => endStream s 0x22 w
  | .prefill =>
    let w := newOrder s w
    if t.length + 1 < t.promptLen then
      putStream s (fun x => { x with length := t.prefixHit })
        { w with serve := { w.serve with queue := w.serve.queue ++ prefillChunks w s t.prefixHit (t.promptLen - 1) } }
    else recomputeTail s w
  | .decode => recomputeTail s (newOrder s w)
  | .held => recomputeTail s (newOrder s w)
  | _ => w

/-- A restored stream is not left as it was: it counts among the streams restored (event 0xD021). -/
def restorable (t : Stream) : Bool := ([.prefill, .decode, .held, .parked] : List StreamState).contains t.state

/-- Everything in flight is dropped: slots, hand-overs, chunks running and queued, chains and held allocations. -/
def dropFlights (w : W9) : W9 :=
  { w with
    serve := { w.serve with
      pipe := w.serve.pipe.map (fun _ => none), handOvers := [], queue := [], chains := [], tainted := []
      groups := w.serve.groups.map (fun g => { g with running := none }) }
    kv := { w.kv with held := [] } }

/-- Every slot is restored, in ascending order (R543, R551). -/
def restoreSlots (w : W9) : W9 := forEach (busyStreams w) restoreSlot (dropFlights w)

/-! ## Ending or releasing every stream -/

/-- The streams that a fault can still end. -/
def liveStreams (w : W9) : List StreamIx :=
  (busyStreams w).filter (fun s => decide ((streamOf w s).state ≠ .ending) && decide ((streamOf w s).state ≠ .quarantined))

/-- The shadows kept for the partner are dropped (R544). -/
def dropShadows (w : W9) : W9 := forEach w.pair.shadows (freeShadow false) w

/-- Every stream that this W9 owns ends with a status (R542, R547, R551). -/
def endStreams (status : BitVec 8) (w : W9) : W9 :=
  let w := dropShadows (dropFlights w)
  forEach (liveStreams w) (fun s w => endStream s status w) w

/-- The completion entry a stream holds is given back where no record will be written: DEDUCED (log entry 33). -/
def dropReservation (s : StreamIx) (w : W9) : W9 :=
  let t := streamOf w s
  match t.cplRing with
  | some n => if t.reserved then wrF (Reg.cplReserved n.val) 10 0 (rdF w (Reg.cplReserved n.val) 10 0 - 1) w else w
  | none => w

/-- A slot returns to FREE without a completion record (R544, R551). -/
def releaseSlot (s : StreamIx) (w : W9) : W9 :=
  if w.pair.shadows.contains s then freeShadow false s w
  else freeSlot s (dropReservation s (releaseHoldings s (releaseShared s (dropWork s w))))

/-- Every slot returns to FREE without a completion record: the twin has the streams. -/
def releaseSlots (w : W9) : W9 := forEach (busyStreams w) releaseSlot (dropFlights w)

/-! ## Leaving the pair (R418, R423) -/

/-- FAILING goes out on both twin ports (R418). -/
def tellFailing (cause : Fin 5) (w : W9) : W9 := if paired w then sendTwins (.failing cause) w else w

/-- A class-0 request that waits for the twin's answer is refused: the W9 is no longer PAIRED (R403). -/
def refuseSetups (w : W9) : W9 :=
  forEach (w.pair.setups.filterMap (fun e => e.2)) (fun x w => refuseSlot x.req 0x15 w) { w with pair := { w.pair with setups := [] } }

/-- The W9 is PAIRED no more: 1 SEEKING, 3 PARTNER_FAILED, 0 SOLO. Its own class-0 streams go on unshadowed, phases held for the twin are
free, mirroring stops; shadows and their backlog are dealt with by the caller. -/
def unpair (st : Nat) (w : W9) : W9 :=
  let w := refuseSetups w
  let w := forEach (busyStreams w) (fun s w =>
    if (streamOf w s).shadow && !w.pair.shadows.contains s then putStream s (fun t => { t with shadow := false }) w else w) w
  let p := w.pair
  let w := { w with pair := { p with
    sentAccept := false, rcvAccept := false, ownReady := [], twinReady := [], starts := [], own := [], theirs := [], mirrorQueue := []
    shadowPhases := [], escClear := true, partnerNext := none, partnerStretch := 0, nextStretch := none, alignDue := false } }
  writeHeader (wrF Reg.pairStatus 31 30 st w)

/-- A W9 that leaves service tells its twin and seeks again (R418, R404): DEDUCED (log entry 33). Its shadows are dropped. -/
def leavePair (cause : Fin 5) (w : W9) : W9 :=
  if paired w then unpair 1 (dropShadows (tellFailing cause w)) else w

end Sys2Proof.Machine
end

