-- ==== Sys2Proof/Machine/Boot.lean ====
section
/-! DEFINITION. Whole-device resets and boot (spec/14_reset_boot_attestation.md R494 to R516), the reset commands of RST_CMD, critical
state (R504), losses that reset the device (spec/12_clocks_power.md R434, R435, R441, R442) and hangs (spec/15_faults_recovery.md R538). -/

namespace Sys2Proof.Machine

open Sys2Proof

/-! ## The option store's bytes (R507, R508, R514) -/

/-- A byte of an option block as the part was made. DESIGN CHOICE (log entry 34): no repair, no spare in use, zero trims and keys. -/
def factoryBlock (o : Nat) : Byte :=
  if o < 4 then BitVec.ofNat 8 (0x314B4C42 / 256 ^ o)
  else if o = 4 then 1
  else if 0x3FFC ≤ o ∧ o < 0x4000 then BitVec.ofNat 8 (0x5AB22B16 / 256 ^ (o - 0x3FFC))
  else if 0x40 ≤ o ∧ o < 0x100 then (if o % 4 < 2 then 0xFF else 0)
  else if 0x100 ≤ o ∧ o < 0x900 then 0xFF
  else if 0x900 ≤ o ∧ o < 0x9C0 then (if o % 4 = 0 then 0xFF else 0)
  else if o < 0x4000 then 0
  else 0xFF

/-- A byte of the firmware package as the part was made: a header with one empty component (log entry 34). -/
def factoryFirmware (o : Nat) : Byte :=
  if o < 4 then BitVec.ofNat 8 (0x31574D46 / 256 ^ o)
  else if o = 4 then 1
  else if o = 8 ∨ o = 12 then 64
  else if 60 ≤ o ∧ o < 64 then BitVec.ofNat 8 (0xB5D77E15 / 256 ^ (o - 60))
  else if o < 64 then 0
  else 0xFF

/-- What an unlisted byte of the option store reads as (log entry 34): the copies of the option block, the firmware package, 0xFF elsewhere. -/
def flashEmpty (k : Nat) : Byte :=
  if k < 0x20000 then factoryBlock (k % 0x10000)
  else if 0x1000000 ≤ k ∧ k < 0x1800000 then factoryFirmware (k - 0x1000000)
  else 0xFF

/-- `n` bytes of the option store from `k`. -/
def flashRead (w : W9) (k n : Nat) : List Byte := (List.range n).map (fun i => smGet flashEmpty w.opt.flash (k + i))

/-- Write bytes of the option store from `k`. -/
def flashWrite : Nat → List Byte → List Host.Cell → List Host.Cell
  | _, [], m => m
  | k, b :: r, m => flashWrite (k + 1) r (smPut flashEmpty m k b)

/-- An operation under way is abandoned: the bytes it touched hold free values (R512). -/
def abandonOpt (w : W9) : W9 := match w.opt.op with
  | none => w
  | some (op, a, n) =>
    if op = 1 then { w with opt := { w.opt with op := none } }
    else
      let bs := (List.range n).map (fun i => Config.freeByte (w.dev.free + i))
      drawFree n { w with opt := { w.opt with op := none, flash := flashWrite a bs w.opt.flash } }

/-! ## Resets of the whole device (Table 14.1) -/

/-- What every whole-device reset leaves of the part: host memory is the world's, the option store keeps its bytes (R507), and the cause of
the last safe mode waits for the boot that reports it (R513; DEDUCED, log entry 35). -/
def resetFrom (w : W9) : W9 :=
  { W9.reset with
    dev := { Dev.init with stepping := w.dev.stepping, free := w.dev.free }
    host := { HostS.init with hostMem := w.host.hostMem }
    opt := { OptS.init with flash := w.opt.flash }
    rst := { RstS.init with lastSafe := w.rst.lastSafe } }

/-- RST_CAUSE: the cause, the row of Table 14.3 and the field. -/
def setCause (cause row field : Nat) (w : W9) : W9 := wr Reg.rstCause (BitVec.ofNat 32 (cause + 0x100 * row + 0x10000 * field)) w

/-- Power-good rises: every state is cleared and RST_CAUSE reads 1 (R441, Table 14.1). -/
def powerOn (w : W9) : W9 := resetFrom (abandonOpt w)

/-- POWER_ON. -/
def execPowerOn (s : State) : Host.Outcome State Fault Refusal := lift powerOn s

/-- A cold reset (Table 14.1): everything goes, far memory and device time included; RST_CAUSE stays and takes the cause. -/
def coldReset (cause : Nat) (w : W9) : W9 :=
  if w.dev.powered then setCause cause 0 0 (resetFrom (abandonOpt w)) else w

/-- COLD_RESET (R496): RESET_N has been low for 10 reference cycles. -/
def execColdReset (s : State) : Host.Outcome State Fault Refusal := lift (coldReset 2) s

/-- REFERENCE_LOSS (R435, R495): as a cold reset, with REFCLK_MISSING set. -/
def referenceLoss (w : W9) : W9 := if w.dev.powered then wrB Reg.rstStatus 31 true (coldReset 3 w) else w

/-- REFERENCE_LOSS. -/
def execReferenceLoss (s : State) : Host.Outcome State Fault Refusal := lift referenceLoss s

/-- INPUT_CUTOFF (R442): the converters stop and the module loses power. What the rails fed is gone; POWER_ON brings it back. -/
def inputCutoff (w : W9) : W9 :=
  if w.dev.powered then
    let w := resetFrom (abandonOpt w)
    { w with dev := { w.dev with powered := false } }
  else w

/-- INPUT_CUTOFF. -/
def execInputCutoff (s : State) : Host.Outcome State Fault Refusal := lift inputCutoff s

/-- The zone states that say ISOLATED, which only power-on and cold reset end (R446). -/
def keepIsolated (old w : W9) : W9 :=
  let w := wr64 Reg.zonesIsolated (rd64 old Reg.zonesIsolated) w
  forEach allFields (fun f w =>
    let one (hi : Nat) (w : W9) : W9 :=
      if rdF old (Reg.fieldPwr f.val) hi (hi - 1) = 3 then wrF (Reg.fieldPwr f.val) hi (hi - 1) 3 w else w
    one 27 (one 29 (one 31 w))) w

/-- The sensors that stay retired (R462). -/
def keepRetired (old w : W9) : W9 :=
  forEach (List.range 246) (fun i w =>
    if rdF old (Reg.pairCtl i) 17 16 = 0 then w else wrF (Reg.pairCtl i) 17 16 (rdF old (Reg.pairCtl i) 17 16) w) w

/-- Warm resets counted in the last 60 s (R505). -/
def countWarm (cause : Nat) (w : W9) : List Nat :=
  if cause = 4 ∨ cause = 8 then w.rst.countedWarm
  else now w :: w.rst.countedWarm.filter (fun t => decide (now w < t + 60000000000))

/-- What a warm reset does to a W9 that takes it (Table 14.1). The KV directories and the checked image copy lie in far memory and stay. -/
def applyWarm (cause row field : Nat) (crit : Option CritError) (w : W9) : W9 :=
  let w := abandonOpt (tellFailing 0 w)
  let counted := countWarm cause w
  let d := w.dev
  let r := resetFrom w
  let t := now w
  let v : W9 := { r with
    dev := { r.dev with time := d.time, seq := d.seq }
    bar0 := keepWarm w.bar0
    mem := { Mem.init with far := w.mem.far, farUE := w.mem.farUE, farCE := w.mem.farCE, farLasting := w.mem.farLasting }
    kv := { w.kv with held := [] }
    checked := w.checked
    rst := { r.rst with
      countedWarm := counted, pendingSafe := w.rst.pendingSafe || decide (8 ≤ counted.length)
      hangReport := w.rst.hangReport || decide (cause = 5), critReport := crit.orElse (fun _ => w.rst.critReport) }
    flt := { r.flt with detectTime := t, firstLost := w.flt.firstLost, recoveryDue := true } }
  let v := keepRetired w (keepIsolated w v)
  setCause cause row field (wr Reg.warmCount (rd v Reg.warmCount + 1) v)

/-- A warm reset falls due. It is covered by a wider reset in progress, by a warm reset in progress and by a trip that CLEAR_TRIP has not
ended (R506), and safe mode ends through RST_CMD alone (R513). -/
def warmReset (cause row field : Nat) (crit : Option CritError) (w : W9) : W9 :=
  if !w.dev.powered || w.rst.asserted then w
  else if envState w = 4 ∧ cause ≠ 8 then w
  else if safeMode w ∧ cause ≠ 4 then w
  else applyWarm cause row field crit w

/-- WARM: RST_CMD orders a warm reset. -/
def execWarm (s : State) : Host.Outcome State Fault Refusal :=
  lift (fun w => if hostAnswers w then warmReset 4 0 0xFF none w else w) s

/-- STEWARD_PLL_LOSS (R434). -/
def execStewardPllLoss (s : State) : Host.Outcome State Fault Refusal := lift (warmReset 7 0 0xFF none) s

/-- Rooster detects a hang (R538): the cause and the field go to HANG_INFO beside the replayed stream, and a warm reset follows. -/
def hangDetect (cause : Nat) (f : Option FieldIx) (w : W9) : W9 :=
  let v := match f with | some g => g.val | none => 0x3F
  let w := wr64 Reg.hangTime (now w) (wrF Reg.hangInfo 21 16 v (wrF Reg.hangInfo 31 28 cause w))
  warmReset 5 0 0xFF none w

/-! ## Boot (R509 to R516, Table 14.7) -/

/-- The far address of a copy. -/
def copyBase (c : Nat) : Nat := 0x10000 * c

/-- Every 4-byte entry of a map satisfies a condition. -/
def allEntries (b : List Byte) (p : List Byte → Bool) : Bool := (pieces 4 (b.length / 4) b).all p

/-- The ranges of the map entries (R508, R509). -/
def mapsInRange (b : List Byte) : Bool :=
  let at' (o n : Nat) : List Byte := (b.drop o).take n
  let v (e : List Byte) (i : Nat) : Nat := (e.getD i 0).toNat
  allEntries (at' 0x40 0xC0) (fun e => (decide (v e 0 ≤ 24) || v e 0 == 0xFF) && (decide (v e 1 ≤ 28) || v e 1 == 0xFF)) &&
    allEntries (at' 0x100 0x800) (fun e => ofLe e == 0xFFFFFFFF || (decide (v e 0 < 48) && decide (v e 1 < 4))) &&
    allEntries (at' 0x900 0xC0) (fun e => decide (v e 0 ≤ 15) || v e 0 == 0xFF)

/-- What is wrong with a copy: 0 MAGIC or VERSION, 1 CRC, 2 a map entry (event 0xC010). -/
def copyFault (b : List Byte) : Option Nat :=
  if ofLe (b.take 4) ≠ 0x314B4C42 ∨ ofLe ((b.drop 4).take 2) ≠ 1 then some 0
  else if ofLe ((b.drop 0x3FFC).take 4) ≠ crc32 (b.take 0x3FFC) then some 1
  else if !mapsInRange b then some 2
  else none

/-- Safe mode (R513): RST_STATUS shows it; the boot step reached stays. A count of eight has had its effect (log entry 35). -/
def enterSafe (cause : Fin 4) (boot : Nat) (w : W9) : W9 :=
  let w := { w with rst := { w.rst with lastSafe := some cause, pendingSafe := false, countedWarm := [] } }
  wrF Reg.rstStatus 3 0 boot (wrF Reg.rstStatus 29 28 cause.val (wrB Reg.rstStatus 30 true w))

/-- The components a firmware header names: none when the header fails (R514). DESIGN CHOICE (log entry 34): COUNT is byte 4, the entry
point bytes 5 to 7, TOTAL_LEN bytes 8 to 11, offsets and lengths bytes 12 to 59. -/
def firmwareParts (h : List Byte) : Option (List (Nat × Nat)) :=
  let at' (o n : Nat) : Nat := ofLe ((h.drop o).take n)
  let n := at' 4 1
  let total := at' 8 4
  let ps := (List.range n).map (fun k => (at' (12 + 8 * k) 4, at' (16 + 8 * k) 4))
  if at' 60 4 = crc32 (h.take 60) ∧ at' 0 4 = 0x31574D46 ∧ 1 ≤ n ∧ n ≤ 6 ∧ total ≤ 0x800000 ∧
      ps.all (fun p => decide (p.1 + p.2 ≤ total)) then some ps
  else none

/-- The eight dwords of MEAS m. -/
def measBytes (w : W9) (m : Nat) : List Byte := (List.range 8).flatMap (fun j => le 4 (rd w (Reg.meas (8 * m + j))).toNat)

/-- MEAS m becomes SHA-256(MEAS m ‖ d) (R517). -/
def extendMeas (m : Nat) (d : List Byte) (w : W9) : W9 :=
  let h := sha256 (measBytes w m ++ d)
  forEach (List.range 8) (fun j w => wr (Reg.meas (8 * m + j)) (BitVec.ofNat 32 (ofLe ((h.drop (4 * j)).take 4))) w) w

/-- Event 0xC030. -/
def noteExtend (m : Nat) (d : List Byte) (w : W9) : W9 :=
  raise0 0xC030 srcSteward ([BitVec.ofNat 8 m, 0, 0, 0, 0, 0, 0, 0] ++ d.take 8) w

/-- The length of the device certificate from its DER header; 0 where there is none (log entry 34). -/
def certLength (b : List Byte) : Nat :=
  let v (i : Nat) : Nat := (b.getD i 0).toNat
  let n := if v 0 ≠ 0x30 then 0
    else if v 1 < 0x80 then v 1 + 2
    else if v 1 = 0x81 then v 2 + 3
    else if v 1 = 0x82 then 256 * v 2 + v 3 + 4
    else 0
  if n ≤ 4096 then n else 0

/-- The option state machine applies maps and trims (R509). -/
def applyMaps (c : Nat) (b : List Byte) (w : W9) : W9 :=
  let at' (o n : Nat) : List Byte := (b.drop o).take n
  let trims := at' 0xA00 0x600
  let opts := at' 0x1000 0x100
  let t (i : Nat) : Nat := Config.trim trims i
  let w := { w with opt := { w.opt with copy := c, gen := ofLe (at' 8 4), maps := at' 0x40 0x980, pubKey := at' 0x1828 64, hash := sha256 b } }
  let w := wrF Reg.optStatus 15 0 (ofLe (at' 8 2)) (wrB Reg.optStatus 28 (c == 1) (wrB Reg.optStatus 29 (c == 1) (wrB Reg.optStatus 30 (c == 0) w)))
  let w := forEach (pieces 4 512 (at' 0x100 0x800)) (fun e w =>
    if ofLe e = 0xFFFFFFFF then w else wrB (Reg.seamSpare (e.getD 0 0).toNat) (e.getD 1 0).toNat true w) w
  let w := forEach allFields (fun f w => wrF (Reg.zoneSet f.val) 15 0 (t (16 + f.val)) w) w
  let nom : Word32 := BitVec.ofNat 32 (t 0 % 65536 + 65536 * (t 1 % 65536))
  let w := wrF Reg.deviceAddr 15 0 (Config.bootOption opts 1) (wrF Reg.inletMax 15 0 (t 2) (wr Reg.rth nom (wr Reg.rthNom nom w)))
  { w with env := { w.env with rJ := (16 * (t 0 % 65536 : Nat), 1000000), rM := (16 * (t 1 % 65536 : Nat), 1000000), pNom := (t 3, t 4, t 5) } }

/-- Key recovery (R511): whether the unwrap succeeds and whether the keys agree. -/
def recoverKey (b : List Byte) : Option Bool :=
  (Config.recoverKey ((b.drop 0x1800).take 40) ((b.drop 0x2000).take 0x1FFC)).map (fun k => k == (b.drop 0x1828).take 64)

/-- FAULT_LOST after a warm reset (R552): cleared by an option block of another GENERATION; a field with an isolated zone is lost again. -/
def lostAtBoot (gen : Nat) (w : W9) : W9 :=
  let keep := gen = (rd w Reg.faultGen).toNat
  let w := if !keep ∧ allFields.any (fun f => rdB64 w Reg.zonesIsolated f.val) then wr Reg.faultGen (BitVec.ofNat 32 gen) w else w
  forEach allFields (fun f w =>
    let iso := rdB64 w Reg.zonesIsolated f.val
    let lost := (rdB64 w Reg.faultLost f.val && decide keep) || iso
    let w := wrB64 Reg.faultLost f.val lost w
    if lost then
      wrB Reg.faultStatus 31 true (wrB (Reg.fieldFault f.val) 31 true (setFieldState f 3 (wrB64 Reg.imgLost f.val true w)))
    else w) w

/-- The clocks and rails of a booted W9 (R441, Table 12.9, Table 12.11). An isolated zone stays so. -/
def powerFields (w : W9) : W9 :=
  let w := wr64 Reg.mifPllLock 0xFFFFFFFFFFFF (wr64 Reg.fieldPllLock 0xFFFFFFFFFFFF (wr Reg.clkStatus 0xF0000000 w))
  forEach allFields (fun f w =>
    let w := wr (Reg.fieldClk f.val) 0xC0000000 w
    let w := if rdF w (Reg.fieldPwr f.val) 27 26 = 3 then w else wrF (Reg.fieldPwr f.val) 27 26 1 w
    setZones f 1 w) w

/-- Step 9 (R515, R516): RSTDONE rises, the enabled ports train (R388), and the events of the boot are raised. -/
def bootDone (bad : Option Nat) (key : Option Bool) (digests : List (List Byte)) (w : W9) : W9 :=
  let t := now w
  let w := { w with dev := { w.dev with rstDone := true }, rst := { w.rst with releasedAt := t }, serve := { w.serve with winStart := t } }
  let w := wrF Reg.rstStatus 3 0 9 w
  let w := forEach allPorts (fun p w => if canTrain w p then setPort p 1 0 w else w) w
  let w := raise0 0xC001 srcRst ([BitVec.ofNat 8 (rdF w Reg.rstCause 7 0), 0, 0, 0] ++ le 4 (rd w Reg.lastBootNs).toNat) w
  let w := match bad with
    | some b => raise0 0xC010 srcOpt [BitVec.ofNat 8 b] w
    | none => w
  let w := match w.rst.lastSafe with
    | some c => raise0 0xC011 srcSteward [BitVec.ofNat 8 c.val] { w with rst := { w.rst with lastSafe := none } }
    | none => w
  let w := if key = some true then w else raise0 0xC012 srcSteward [BitVec.ofNat 8 (b2n (key = some false))] w
  let w := forEach digests.zipIdx (fun e w => noteExtend e.2 e.1 w) w
  let w := match w.rst.critReport with
    | some e =>
      let fld := match e.field with | some f => f.val | none => 0xFF
      raise0 0xC020 srcRst [BitVec.ofNat 8 e.row.val, BitVec.ofNat 8 fld, 1] { w with rst := { w.rst with critReport := none } }
    | none => w
  if w.rst.hangReport then
    raise0 0xD020 srcRooster ([BitVec.ofNat 8 (rdF w Reg.hangInfo 31 28), BitVec.ofNat 8 (rdF w Reg.hangInfo 21 16), 0, 0, 0, 0, 0, 0] ++
      le 8 (rd64 w Reg.hangTime)) { w with rst := { w.rst with hangReport := false } }
  else w

/-- Steps 4 to 9 with a usable option block (Table 14.7). -/
def bootRom (bad : Option Nat) (b : List Byte) (bootNs : Nat) (w : W9) : W9 :=
  if w.rst.pendingSafe then enterSafe 3 4 w
  else match firmwareParts (flashRead w 0x1000000 64) with
  | none => enterSafe 2 4 w
  | some ps =>
    let key := recoverKey b
    let digests := ps.map (fun p => sha256 (flashRead w (0x1000000 + p.1) p.2))
    let w := forEach digests.zipIdx (fun e w => extendMeas e.2 e.1 w) w
    let ok := key == some true
    let w := wrB Reg.attStatus 29 ok (wrB Reg.optStatus 27 ok w)
    let cert := flashRead w 0x3F00000 4096
    let n := certLength cert
    let w := wr Reg.certLen (BitVec.ofNat 32 n) { w with att := { w.att with certificate := cert.take n } }
    let w := lostAtBoot (ofLe ((b.drop 8).take 4)) (powerFields w)
    let w := wr Reg.lastBootNs (BitVec.ofNat 32 bootNs) w
    bootDone bad key digests { w with dev := { w.dev with time := w.dev.time + bootNs } }

/-- RESET_RELEASE (R495, R509 to R516): reset is released and boot runs, `bootNs` from release to RSTDONE; or safe mode is entered. The
outcome of each check comes from the option store's bytes. -/
def resetRelease (bootNs : Nat) (w : W9) : W9 :=
  if !w.dev.powered || !w.rst.asserted then w
  else
    let w := { w with rst := { w.rst with asserted := false } }
    let b0 := flashRead w (copyBase 0) 0x4000
    match copyFault b0 with
    | none => bootRom none b0 bootNs (applyMaps 0 b0 w)
    | some e =>
      let b1 := flashRead w (copyBase 1) 0x4000
      match copyFault b1 with
      | none => bootRom (some e) b1 bootNs (applyMaps 1 b1 w)
      | some _ => enterSafe 1 3 w

/-- RESET_RELEASE. -/
def execResetRelease (bootNs : Nat) (s : State) : Host.Outcome State Fault Refusal := lift (resetRelease bootNs) s

/-! ## RST_CMD (R503, Table 14.10) -/

/-- RST_CMD is refused. -/
def rstReject (w : W9) : W9 := wrB Reg.rstStatus 27 true w

/-- A narrow reset is covered by a thermal trip (R506). -/
def tripped (w : W9) : Bool := envState w == 4

/-- RST_CMD FIELD, GATEWAY or LINK PORT: an index out of range is refused (R503), and in safe mode no such block is powered (DEDUCED). -/
def blockCommand (limit : Nat) (index : BitVec 16) (go : W9 → W9) (w : W9) : W9 :=
  if !hostAnswers w then w
  else if limit ≤ index.toNat ∨ safeMode w then rstReject w
  else if tripped w then w
  else go w

/-- FIELD (R501). -/
def execField (index : BitVec 16) (s : State) : Host.Outcome State Fault Refusal :=
  lift (blockCommand 48 index (startFieldReset (Fin.ofNat 48 index.toNat) 0 0)) s

/-- GATEWAY (R502). -/
def execGateway (index : BitVec 16) (s : State) : Host.Outcome State Fault Refusal :=
  lift (blockCommand 192 index (startGatewayReset (Fin.ofNat 192 index.toNat))) s

/-- LINK_PORT (R503): a twin port of a PAIRED W9 whose other twin port is not UP is refused, unless forced. -/
def linkPortReset (p : PortIx) (force : Bool) (w : W9) : W9 :=
  if isTwinPort w p && paired w && (otherTwin w p).isNone && !force then rstReject w else startPortReset p 0 w

/-- LINK_PORT. -/
def execLinkPort (index : BitVec 16) (force : Bool) (s : State) : Host.Outcome State Fault Refusal :=
  lift (blockCommand 8 index (linkPortReset (Fin.ofNat 8 index.toNat) force)) s

/-! ## Critical state (R504, Table 14.3) -/

/-- A reset that answers an error in one field's copy (rows 1 to 3). RST_CAUSE records the row and the field; a quiesce under way ends at
once (Table 14.4). -/
def critField (row : Nat) (f : FieldIx) (w : W9) : W9 :=
  let w := wrF Reg.rstCause 23 16 f.val (wrF Reg.rstCause 15 8 row w)
  let due := match (fieldState w f).reset with | some r => r.quiescing | none => false
  let w := startFieldReset f 3 row w
  if due then applyFieldReset f false 0 w else w

/-- CRITICAL_STATE_ERROR (R504): corrected errors of steward memory are counted; any other resets the field or the device. -/
def criticalStateError (e : CritError) (w : W9) : W9 :=
  if !w.dev.powered || w.rst.asserted then w
  else
    let w := inc Reg.critErrors 1 w
    let fld := match e.field with | some f => f.val | none => 0xFF
    if e.corrected ∧ e.row = 6 then raise0 0xC020 srcRst [6, BitVec.ofNat 8 fld, 2] w
    else match e.field with
      | some f => if 1 ≤ e.row.val ∧ e.row.val ≤ 3 then critField e.row.val f w
        else warmReset 6 e.row.val (if e.row = 4 then f.val else 0xFF) (some { e with field := if e.row = 4 then some f else none }) w
      | none => if 4 ≤ e.row.val then warmReset 6 e.row.val 0xFF (some e) w else w

/-- CRITICAL_STATE_ERROR. -/
def execCriticalStateError (e : CritError) (s : State) : Host.Outcome State Fault Refusal := lift (criticalStateError e) s

end Sys2Proof.Machine
end

