-- ==== Sys2Proof/Machine/Loader.lean ====
section
/-! DEFINITION. The loader's checks (spec/09_image_contract.md R326 to R337, Table 9.7) over the bytes of an image in far memory and its
decoded sections. -/

namespace Sys2Proof.Machine

open Sys2Proof

/-- A failed check: its code, the rung checked or 0xFF, the section type and the entry index (R336). -/
abbrev LoadErr := Nat × Nat × Nat × Nat

/-- The first element that fails `ok`, as a failure of the check `code`. -/
def badAt {α : Type} (code rung type : Nat) (l : List α) (ok : α → Bool) : Option LoadErr :=
  (l.findIdx? (fun x => !ok x)).map (fun i => (code, rung, type, i))

/-- A failure with no entry to name. -/
def badIf (code rung type : Nat) (bad : Bool) : Option LoadErr := if bad then some (code, rung, type, 0) else none

/-- The first failure of several. -/
def firstErr (l : List (Option LoadErr)) : Option LoadErr := l.findSome? id

/-- One check over every rung, in ascending order (R336). -/
def overRungs (b : ImageBody) (f : Nat → Rung → Option LoadErr) : Option LoadErr := b.rungs.zipIdx.findSome? (fun e => f e.2 e.1)

/-! ## Header and sections (checks 0x01 to 0x05) -/

/-- A little-endian field of the header (Table 9.1). -/
def hdField (h : List Byte) (o k : Nat) : Nat := ofLe ((h.drop o).take k)
/-- PROFILE. -/
def hdProfile (h : List Byte) : Nat := hdField h 9 1 % 4
/-- COMPAT. -/
def hdCompat (h : List Byte) : Bool := bitAt (hdField h 9 1) 4
/-- IMAGE_LEN. -/
def hdLen (h : List Byte) : Nat := hdField h 16 8

/-- Check 0x01 (Table 9.7). -/
def headerOk (h : List Byte) : Bool :=
  hdField h 252 4 == crc32 (h.take 252) && hdField h 0 4 == 0x31585455 && hdField h 4 2 == 1 &&
  !bitAt (hdField h 8 1) 0 && decide (hdField h 8 1 < 16) && hdField h 9 1 / 4 % 4 == 0 && decide (hdField h 9 1 < 32) &&
  decide (hdProfile h ≠ 3) && decide (1 ≤ hdField h 10 1) && decide (hdField h 10 1 ≤ 16) && hdField h 11 1 == 0 &&
  decide (1 ≤ hdField h 12 4) && decide (hdField h 12 4 ≤ 256) && hdLen h % 64 == 0 && hdField h 24 8 % 64 == 0 &&
  decide (256 ≤ hdField h 24 8) && decide (hdField h 24 8 + 32 * hdField h 12 4 ≤ hdLen h) &&
  hdField h 48 16 == 0 && hdField h 96 156 == 0

/-- A section-table entry: TYPE, RUNG, OFFSET, LENGTH and whether its reserved bytes are 0 (R327). -/
def parseSection (e : List Byte) : Nat × Nat × Nat × Nat × Bool :=
  (hdField e 0 1, hdField e 1 1, hdField e 8 8, hdField e 16 8, hdField e 2 6 == 0 && hdField e 24 8 == 0)

/-- The section table's entries. -/
def sectionsOf (table : List Byte) (n : Nat) : List (Nat × Nat × Nat × Nat × Bool) := (pieces 32 n table).map parseSection

/-- Two byte spans meet. -/
def spansMeet (a n b m : Nat) : Bool := decide (0 < n) && decide (0 < m) && decide (a < b + m) && decide (b < a + n)

/-- Entry `i` of the table keeps R327 and R328. -/
def sectionOk (h : List Byte) (ss : List (Nat × Nat × Nat × Nat × Bool)) (i : Nat) (s : Nat × Nat × Nat × Nat × Bool) : Bool :=
  let (ty, rg, off, len, res) := s
  let before := ss.take i
  decide (1 ≤ ty) && decide (ty ≤ 0x0D) && (rg == 0xFF || (decide (rg < hdField h 10 1) && !([6, 7, 8, 12].contains ty))) &&
  off % 64 == 0 && res && decide (off + len ≤ hdLen h) &&
  !spansMeet off len 0 256 && !spansMeet off len (hdField h 24 8) (32 * hdField h 12 4) &&
  before.all (fun p => decide (256 * p.1 + p.2.1 < 256 * ty + rg) && !spansMeet off len p.2.2.1 p.2.2.2.1)

/-- The entry that rung `k` takes for a type (R328). -/
def sectionFor (ss : List (Nat × Nat × Nat × Nat × Bool)) (ty k : Nat) : Option (Nat × Nat × Nat × Nat × Bool) :=
  (ss.find? (fun s => s.1 == ty && s.2.1 == k)).orElse (fun _ => ss.find? (fun s => s.1 == ty && s.2.1 == 0xFF))

/-- A required type resolves to bytes for a rung (R328). -/
def hasSection (ss : List (Nat × Nat × Nat × Nat × Bool)) (k ty : Nat) : Bool := match sectionFor ss ty k with
  | some s => decide (0 < s.2.2.2.1)
  | none => false

/-- The column of Table 9.4 for a PROFILE, row by row; the last row as its factor of r. -/
def profileLatency (profile : Nat) : List Nat := if profile = 1 then [40, 48, 6, 18, 1] else [44, 52, 8, 20, 2]

/-- Check 0x04 (Table 9.7). -/
def check04 (h : List Byte) (ss : List (Nat × Nat × Nat × Nat × Bool)) (b : ImageBody) : Option LoadErr :=
  let rungs := hdField h 10 1
  firstErr [
    (ss.zipIdx.find? (fun e => !sectionOk h ss e.2 e.1)).map (fun e => (4, 0xFF, e.1.1, e.2)),
    (List.range rungs).findSome? (fun k =>
      ([1, 2, 3, 4, 6, 8, 0x0C, 0x0D].find? (fun t => !hasSection ss k t)).map (fun t => (4, k, t, 0))),
    b.badSection.map (fun x => (4, 0xFF, x.1, x.2)),
    badIf 4 0xFF 0 (decide (b.rungs.length ≠ rungs)),
    overRungs b (fun k g => badIf 4 k 1 (decide (g.timing.latency.take 5 ≠ profileLatency (hdProfile h))))]

/-- Check 0x05 (R333): a native image of the B0 profile does not run on an A1 part. -/
def check05 (st : Stepping) (h : List Byte) : Option LoadErr :=
  badIf 5 0xFF 0 (decide (st = .a1) && !hdCompat h && hdProfile h == 1)

/-! ## Ladder, placement, programs (checks 0x06 to 0x08) -/

/-- The ladder's entry of rung `k`. -/
def ladderOf (b : ImageBody) (k : Nat) : LadderEntry := b.ladder.getD k ⟨0, 0, 0, 0, true⟩

/-- Field `f` lies in a rung's USED mask. -/
def usedBy (b : ImageBody) (k : Nat) (f : Nat) : Bool := (ladderOf b k).used.getLsbD f

/-- The stacks of a rung's stripe set, ascending. -/
def stripeOf (g : Rung) : List Nat := (List.range 48).filter (fun f => g.far.stripe.getLsbD f)

/-- Check 0x06 (R346). -/
def check06 (h : List Byte) (b : ImageBody) : Option LoadErr :=
  firstErr [
    badIf 6 0 0x0C (decide (b.ladder.length ≠ hdField h 10 1)),
    badIf 6 0 0x0C (!(List.range 48).all (usedBy b 0)),
    badIf 6 0 0x0C (decide ((ladderOf b 0).mapId.toNat ≠ hdField h 32 8)),
    overRungs b (fun k g =>
      let e := ladderOf b k
      let ok := e.rung == k && decide (e.drops.toNat < 16) && decide (e.used.toNat < 2 ^ 48) && e.reservedZero && (stripeOf g).all (usedBy b k)
      if ok then none else some (6, k, 0x0C, k))]

/-- A band is placed in the rung. -/
def placed (g : Rung) (n : Nat) : Bool := g.positions.any (fun p => p.band == n) && g.bands.any (fun x => x.band == n)

/-- The placed bands with their positions. -/
def placedBands (g : Rung) : List (Band × BandPos) :=
  g.bands.filterMap (fun b => (g.positions.find? (fun p => p.band == b.band)).map (fun p => (b, p)))

/-- The local tiles of a placed band in its field. -/
def bandCells (e : Band × BandPos) : List (Nat × Nat) :=
  (List.range e.1.tiles).map (fun i => (e.2.lx0 + i % e.1.cols, e.2.ly0 + i / e.1.cols))

/-- A band fits its field, matches its flavour and lies in the USED mask (R329, R330). -/
def bandOk (b : ImageBody) (k : Nat) (e : Band × BandPos) : Bool :=
  decide (1 ≤ e.1.cols) && decide (e.1.cols ≤ 24) && decide (1 ≤ e.1.tiles) && decide (e.1.tiles ≤ 672) && decide (e.1.band < 4096) &&
  decide (e.1.role ≤ 4) && decide (e.2.field < 48) && decide (e.2.lx0 + e.1.cols ≤ 24) &&
  decide (e.2.ly0 + cdiv e.1.tiles e.1.cols ≤ 28) && (fieldIsC (Fin.ofNat 48 e.2.field) == e.1.kindC) && usedBy b k e.2.field

/-- Check 0x07 (R330). -/
def check07 (b : ImageBody) (k : Nat) (g : Rung) : Option LoadErr :=
  let ps := placedBands g
  firstErr [
    badAt 7 k 2 ps (bandOk b k),
    (ps.zipIdx.find? (fun e => (ps.take e.2).any (fun p =>
      p.2.field == e.1.2.field && (bandCells p).any (fun c => (bandCells e.1).contains c)))).map (fun e => (7, k, 2, e.2)),
    badAt 7 k 2 g.refs (fun r => !placed g r.owner || placed g r.band)]

/-- A format code that R119 knows. -/
def knownFormat (c : BitVec 4) : Bool := decide (1 ≤ c.toNat) && decide (c.toNat ≤ 11)

/-- A local address that a tile of the flavour assigns (Table 2.2). -/
def addressAssigned (c : Bool) (a : LAddr) : Bool := dataAssigned c a.toNat 1 || inPage a.toNat 1

/-- A program names only what there is (check 0x08). -/
def programOk (g : Rung) (p : Program) : Bool :=
  let users := g.bands.filter (fun x => x.program == p.index)
  decide (p.bundles.length ≤ 4096) && p.formats.all knownFormat && p.contexts.all (fun c => decide (c < 16)) &&
  p.rings.all (fun r => decide (r < 16)) && p.tags.all (fun t => decide (t < 64)) && p.hasBeat &&
  p.addresses.all (fun a => if users.isEmpty then addressAssigned true a else users.all (fun u => addressAssigned u.kindC a))

/-- Check 0x08. -/
def check08 (k : Nat) (g : Rung) : Option LoadErr := badAt 8 k 3 g.programs (programOk g)

/-! ## Routes and groups (checks 0x09 and 0x0A) -/

/-- BEAT_CYCLES of a timing profile (R253). -/
def beatCyclesOf (t : TimingProfile) : Nat := t.beatBase + (t.rowsMax / 2 - 1) * t.rowPair

/-- The pairs of neighbours in a list. -/
def hopsOf {α : Type} (l : List α) : List (α × α) := l.zip (l.drop 1)

/-- The side of field `f` across which field `g` lies. -/
def sideTo (f g : FieldIx) : Option (Fin 4) := (List.finRange 4).find? (fun sd => neighbour f sd == some g)

/-- A hop crosses a seam that has failed (R178, R180). -/
def seamFailed (w : W9) (h : Tile × Tile) : Bool :=
  let f := tileField h.1
  let g := tileField h.2
  match sideTo f g with
  | some sd => (fieldState w f).lanesFailed.contains sd || (fieldState w g).lanesFailed.contains (acrossSide sd)
  | none => false

/-- A scheduled path keeps R180, R261 and, in compatibility mode, R335. -/
def pathOk (w : W9) (b : ImageBody) (compat : Bool) (k : Nat) (t : TimingProfile) (p : SchedPath) : Bool :=
  decide (p.tiles.getLast? = some p.target) && decide (p.startRow ≤ p.endRow) && decide (p.endRow < beatCyclesOf t) &&
  !(decide (p.startRow < t.extRow) && decide (t.extRow ≤ p.endRow)) &&
  p.tiles.all (fun x => usedBy b k (tileField x).val) && (hopsOf p.tiles).all (fun h => !seamFailed w h) && (!compat || p.injection)

/-- A slot-table entry: no output driven twice, no input in an open slot, no field outside the placement (R179, R180). -/
def slotOk (b : ImageBody) (k : Nat) (before : List SlotEntry) (e : SlotEntry) : Bool :=
  decide (e.row % 8 ≠ 7) && usedBy b k (tileField e.tile).val &&
  !before.any (fun x => x.tile == e.tile && x.net == e.net && x.row == e.row && x.out == e.out)

/-- Check 0x09: R180, R261, R335. -/
def check09 (w : W9) (compat : Bool) (b : ImageBody) (k : Nat) (g : Rung) : Option LoadErr :=
  firstErr [
    (g.slotTables.zipIdx.find? (fun e => !slotOk b k (g.slotTables.take e.2) e.1)).map (fun e => (9, k, 4, e.2)),
    badAt 9 k 4 g.paths (pathOk w b compat k g.timing),
    badAt 9 k 4 g.programs (fun p => compat || !p.rowless)]

/-- Which axis a hop of 1 or 8 runs along: false x, true y. -/
def hopAxis (h : Tile × Tile) : Option Bool :=
  let dx := max (tileX h.1) (tileX h.2) - min (tileX h.1) (tileX h.2)
  let dy := max (tileY h.1) (tileY h.2) - min (tileY h.1) (tileY h.2)
  if dy = 0 ∧ (dx = 1 ∨ dx = 8) then some false
  else if dx = 0 ∧ (dy = 1 ∨ dy = 8) then some true
  else none

/-- A branch is an X-then-Y path from the root (R192). -/
def branchOk (root : Tile) (l : List Tile) : Bool :=
  let axes := (hopsOf l).map hopAxis
  decide (l.head? = some root) && axes.all (fun a => a.isSome) &&
    (hopsOf axes).all (fun p => !(decide (p.1 = some true) && decide (p.2 = some false)))

/-- Check 0x0A (R192). -/
def check0A (b : ImageBody) (k : Nat) (g : Rung) : Option LoadErr :=
  firstErr [
    badAt 0x0A k 5 g.mcast (fun m => m.branches.all (branchOk m.root) &&
      m.branches.all (fun l => l.all (fun t => usedBy b k (tileField t).val))),
    (g.mcast.zipIdx.find? (fun e => (g.mcast.take e.2).any (fun m => m.group == e.1.group && m.net == e.1.net))).map
      (fun e => (0x0A, k, 5, e.2))]

/-! ## Rings, windows, formats (checks 0x0B to 0x0E) -/

/-- The tile is an attach tile (Table 1.6). -/
def isAttach (t : Tile) : Bool := (List.range 32).any (fun n => tileAt (attachTile n).1 (attachTile n).2 == t)

/-- A ring map of a placed band keeps R74, R195, R306 and R335. -/
def ringOk (compat : Bool) (g : Rung) (r : RingMap) : Bool := match bandRefTile g r.band r.index with
  | none => true
  | some t =>
    let size := 2 ^ r.log2
    decide (12 ≤ r.log2) && decide (r.log2 ≤ 22) && r.base.toNat % size == 0 && inOneStore (isC t) r.base.toNat size &&
    !(r.schedAppends && r.dynamic) && !(compat && r.tileAppends && !r.dynamic) && (decide (r.ring ≠ 15) || !isAttach t || r.muleLoop)

/-- A scheduled append names a static ring (R195). -/
def appendStatic (b : ImageBody) (g : Rung) (p : SchedPath) : Bool := match p.ring with
  | none => true
  | some n => !b.rings.any (fun r => r.ring == n && r.dynamic && bandRefTile g r.band r.index == some p.target)

/-- Check 0x0B. -/
def check0B (compat : Bool) (b : ImageBody) (k : Nat) (g : Rung) : Option LoadErr :=
  firstErr [badAt 0x0B k 6 b.rings (ringOk compat g), badAt 0x0B k 4 g.paths (appendStatic b g)]

/-- Check 0x0C (R78). -/
def check0C (b : ImageBody) (k : Nat) (g : Rung) : Option LoadErr :=
  badAt 0x0C k 7 b.windows (fun v => match bandRefTile g v.band v.index with
    | none => true
    | some t => v.base.toNat % 64 == 0 && decide (64 ≤ v.size.toNat) && v.size.toNat % 64 == 0 &&
        inOneStore (isC t) v.base.toNat v.size.toNat)

/-- A format that R139 allows a wide layer. -/
def wideFormat (c : BitVec 4) : Bool := c == 8 || c == 9

/-- The Gander duty band and tile of a narrow decode layer (R582). -/
def dutyOk (g : Rung) (m : LayerMap) : Bool := match m.dutyBand with
  | none => false
  | some n =>
    let bands := match g.rotation.find? (fun r => r.role == 3) with | some r => r.members | none => [n]
    placed g n && bands.all (fun x => match g.bands.find? (fun y => y.band == x) with
      | some y => decide (m.dutyTile < y.tiles)
      | none => false)

/-- A layer of the precision map keeps R138, R139, R147 and R582. -/
def layerOk (g : Rung) (m : LayerMap) : Bool :=
  let narrow := !m.wide && m.kind == 0
  let tiles := match g.bands.find? (fun y => y.band == m.band) with | some y => y.tiles | none => 0
  decide (m.slots ≤ 8) && m.ladder.all knownFormat && !m.ladder.isEmpty && decide (m.ladder.length ≤ 3) &&
  (hopsOf m.ladder).all (fun p => decide (elemBits p.1.toNat < elemBits p.2.toNat)) &&
  (narrow || (m.ladder.all wideFormat && m.slots == 0)) && (!m.burst || decide (m.widestBytes ≤ m.bufferBytes)) &&
  (!(narrow && m.decode) || (decide (1 ≤ m.gander.length) && decide (m.gander.length ≤ 4096) &&
    m.gander.all (fun e => decide (e.1 < tiles) && decide (e.2 < m.products)) && dutyOk g m))

/-- Check 0x0D. -/
def check0D (b : ImageBody) (k : Nat) (g : Rung) : Option LoadErr := badAt 0x0D k 8 b.layers (layerOk g)

/-- Check 0x0E (R217). -/
def check0E (b : ImageBody) : Option LoadErr := badAt 0x0E 0xFF 8 b.layers (fun m => !m.kv || decide (2 * m.heads * m.width ≤ 2048))

/-! ## Far memory (checks 0x0F and 0x10) -/

/-- A range is assigned under a stripe set, in one view and, in the local view, in one stack (R285). -/
def rangeAssigned (sts : List Nat) (a n : Nat) : Bool :=
  n == 0 || ((farDecodeIn sts a).isSome && (farDecodeIn sts (a + n - 1)).isSome && a / 2 ^ 42 == (a + n - 1) / 2 ^ 42 &&
    (decide (a / 2 ^ 42 ≠ 0) || a / 2 ^ 36 == (a + n - 1) / 2 ^ 36))

/-- The stacks that local-view ranges of the layout name (R297). -/
def localStacksOf (l : FarLayout) : List Nat :=
  l.localStacks ++ (l.regions.filter (fun r => decide (r.start.toNat / 2 ^ 42 = 0))).map (fun r => r.start.toNat / 2 ^ 36)

/-- A stream area is a region of its use at its address, aligned and long enough (R584). -/
def areaOk (l : FarLayout) (use base per : Nat) : Bool :=
  base % per == 0 && l.regions.any (fun r => r.use == use && r.start.toNat == base && decide (1024 * per ≤ r.len))

/-- RECOVERY_ADDR of an image: IMG_ADDR + IMAGE_LEN rounded up to 1 MiB (R540). -/
def recoveryOf (addr len : Nat) : Nat := cdiv (addr + len) 0x100000 * 0x100000

/-- Check 0x0F (Table 9.7): R285, R297, R286, R583, R584. -/
def check0F (w : W9) (addr len : Nat) (b : ImageBody) (k : Nat) (g : Rung) : Option LoadErr :=
  let sts := stripeOf g
  let l := g.far
  let rec' := recoveryOf addr len
  let parkableOk (f : Nat) : Bool := !g.parkable.getLsbD f || (!sts.contains f && !(localStacksOf l).contains f)
  firstErr [
    badAt 0x0F k 0x0D l.regions (fun r => rangeAssigned sts r.start.toNat r.len),
    badIf 0x0F k 0x0D (!(List.range 48).all parkableOk),
    (l.regions.zipIdx.find? (fun e => (l.regions.take e.2).any (fun r =>
      rangesMeet sts r.start.toNat r.len e.1.start.toNat e.1.len))).map (fun e => (0x0F, k, 0x0D, e.2)),
    badAt 0x0F k 0x0D l.regions (fun r => !rangesMeet sts addr len r.start.toNat r.len && !rangesMeet sts rec' 0x100000 r.start.toNat r.len),
    badIf 0x0F k 0x0D ((decide (addr / 2 ^ 42 ≠ 0) || decide (rec' / 2 ^ 42 ≠ 0)) && decide (sts ≠ stripeStacks w)),
    badIf 0x0F k 0x0D (!(areaOk l 2 l.streamTable.toNat 256 && areaOk l 3 l.directoryBase.toNat 0x40000 &&
      areaOk l 4 l.tokenLogBase.toNat 0x800000)),
    badIf 0x0F k 0x0D (sts.isEmpty || !sts.all (usedBy b k))]

/-- Check 0x10 (R309, R310). -/
def check10 (k : Nat) (g : Rung) : Option LoadErr :=
  let l := g.far
  let t := g.timing
  let n := (stripeOf g).length
  let sum := (l.streamed.map (fun s => s.share)).sum + l.prefillShare + t.kvCycleBytes
  firstErr [
    badIf 0x10 k 0x0D (decide (2160 * n < sum)),
    badAt 0x10 k 0x0D l.streamed (fun s => (decide (0 < s.share) || s.bytes == 0) &&
      decide (s.start + cdiv s.bytes s.share + 1000 ≤ s.stop) && decide (s.stop ≤ beatCyclesOf t)),
    badIf 0x10 k 0x0D ((l.prefillShare == 0 && decide (l.prefillBytes ≠ 0)) ||
      decide (t.pfBase < (if l.prefillBytes = 0 then 0 else cdiv l.prefillBytes l.prefillShare) + 1000))]

/-! ## Scrubbing, parking, rotation, ranges (checks 0x11 to 0x14) -/

/-- Check 0x11 (R337). -/
def check11 (k : Nat) (g : Rung) : Option LoadErr :=
  let t := g.timing
  firstErr [
    badAt 0x11 k 3 g.programs (fun p => !g.bands.any (fun x => x.program == p.index && placed g x.band) || decide (t.idleMin ≤ p.idleCycles)),
    badIf 0x11 k 1 (t.beatMax == 0 || decide (t.idleMin * (60000000000 / t.beatMax) < 8192))]

/-- A hop touches field `f` with neither end at a band tile of it: a through-route (R342). -/
def throughHop (bandTilesOf : List Tile) (f : FieldIx) (h : Tile × Tile) : Bool :=
  (tileField h.1 == f || tileField h.2 == f) && !bandTilesOf.contains h.1 && !bandTilesOf.contains h.2

/-- A field of the parkable set keeps R342. -/
def parkableOk (b : ImageBody) (k : Nat) (g : Rung) (f : FieldIx) : Bool :=
  let ts := (placedTiles g f).map (fun e => e.1)
  let hops := (g.paths.flatMap (fun p => hopsOf p.tiles)) ++ (g.mcast.flatMap (fun m => m.branches.flatMap hopsOf))
  usedBy b k f.val && !hops.any (throughHop ts f) && !(bandsIn g f).any (fun e => decide (e.1.role ≤ 1)) &&
    !(stripeOf g).contains f.val && !(localStacksOf g.far).contains f.val

/-- Check 0x12. -/
def check12 (b : ImageBody) (k : Nat) (g : Rung) : Option LoadErr :=
  badAt 0x12 k 0x0A allFields (fun f => !g.parkable.getLsbD f.val || parkableOk b k g f)

/-- What two members of a rotation set must share beside their shape: ring maps and window templates (R344). -/
def bandMaps (b : ImageBody) (n : Nat) : List RingMap × List WindowMap :=
  ((b.rings.filter (fun r => r.band == n)).map (fun r => { r with band := 0 }),
   (b.windows.filter (fun v => v.band == n)).map (fun v => { v with band := 0 }))

/-- A rotation set keeps R343 and R344. -/
def rotationOk (b : ImageBody) (g : Rung) (before : List RotationSet) (r : RotationSet) : Bool :=
  let shape (n : Nat) : Option (Bool × Nat × Nat × Nat) :=
    (g.bands.find? (fun x => x.band == n)).map (fun x => (x.kindC, x.tiles, x.cols, x.program))
  decide (r.role ≤ 5) && decide (2 ≤ r.members.length) && decide (r.members.length ≤ 16) && r.members.all (placed g) &&
  (hopsOf r.members).all (fun p => decide (shape p.1 = shape p.2) && decide (bandMaps b p.1 = bandMaps b p.2)) &&
  decide (r.members.dedup.length = r.members.length) && !before.any (fun q => q.members.any (fun n => r.members.contains n))

/-- Check 0x13. -/
def check13 (b : ImageBody) (k : Nat) (g : Rung) : Option LoadErr :=
  firstErr [
    (g.rotation.zipIdx.find? (fun e => !rotationOk b g (g.rotation.take e.2) e.1)).map (fun e => (0x13, k, 9, e.2)),
    badIf 0x13 k 9 (decide (16 < g.rotation.length) || (!g.rotation.isEmpty && !g.rotationPaths))]

/-- Check 0x14 (Table 9.3, R335). -/
def check14 (compat : Bool) (k : Nat) (g : Rung) : Option LoadErr :=
  let t := g.timing
  badIf 0x14 k 1 !(t.rowsMax % 2 == 0 && decide (2 ≤ t.rowsMax) && decide (t.rowsMax ≤ 16) && decide (beatCyclesOf t ≤ 1048575) &&
    decide (2 ≤ t.stages) && decide (t.stages ≤ 1024) && decide (t.class0Max ≤ t.stages + 1) && (!compat || t.class0Max == 0) &&
    decide (beatCyclesOf t + 1048575 + t.sFloor ≤ t.beatMax) && t.slotLen % 8 == 0 && decide (8 ≤ t.slotLen) && decide (t.slotLen ≤ 4096) &&
    decide (t.extRow < beatCyclesOf t) && decide (1 ≤ t.chunkMax) && decide (t.chunkMax ≤ 4096))

/-- Checks 0x06 to 0x14, check by check over every rung (R336). -/
def rungChecks (w : W9) (h : List Byte) (addr : Nat) (b : ImageBody) : Option LoadErr :=
  let c := hdCompat h
  firstErr [
    check06 h b, overRungs b (check07 b), overRungs b check08, overRungs b (check09 w c b), overRungs b (check0A b),
    overRungs b (check0B c b), overRungs b (check0C b), overRungs b (check0D b), check0E b,
    overRungs b (check0F w addr (hdLen h) b), overRungs b check10, overRungs b check11, overRungs b (check12 b),
    overRungs b (check13 b), overRungs b (check14 c)]

/-- Every check of a LOAD (Table 9.7) on the image at `addr`, whose header is `h`. -/
def loadChecks (w : W9) (h : List Byte) (addr : Nat) (b : ImageBody) : Option LoadErr :=
  let bytes (o n : Nat) : List Byte := farRead w (addr + o) n
  if !headerOk h then some (1, 0xFF, 0, 0)
  else if !bitAt (hdField h 8 1) 3 then some (2, 0xFF, 0, 0)
  else if sha256 (bytes 256 (hdLen h - 256)) ≠ (h.drop 64).take 32 then some (3, 0xFF, 0, 0)
  else
    let ss := sectionsOf (bytes (hdField h 24 8) (32 * hdField h 12 4)) (hdField h 12 4)
    firstErr [check04 h ss b, check05 w.dev.stepping h, rungChecks w h addr b]

/-- The lowest usable rung: none of its USED fields is lost (R347). -/
def usableRung (w : W9) (b : ImageBody) : Option Nat :=
  (List.range b.rungs.length).find? (fun k => (List.range 48).all (fun f => !(usedBy b k f && rdB64 w Reg.imgLost f)))

end Sys2Proof.Machine
end

