-- ==== Sys2Proof/Machine/Parking.lean ====
section
/-! DEFINITION. Parking a field (spec/12_clocks_power.md R448 to R455, Tables 12.6 and 12.7): orders, the end of a drain, gating, waking,
reloading and reopening. -/

namespace Sys2Proof.Machine

open Sys2Proof

/-- IMG_STATUS.STATE: 0 IDLE, 1 CHECKING, 2 INSTANTIATING, 3 RUNNING, 4 FAILED (Table 9.13). -/
def imgState (w : W9) : Nat := rdF w Reg.imgStatus 2 0

/-! ## Orders (R448, R452, Table 12.7) -/

/-- A park order takes effect on an OPEN, parkable field that is neither lost nor under reset (R448). -/
def canPark (w : W9) (f : FieldIx) : Bool :=
  rdB64 w Reg.imgParkable f.val && parkState w f == 0 && !fieldLostNow w f && (fieldState w f).reset.isNone

/-- A park order. While a field wakes or reloads it is held until OPEN; any other order that cannot be carried out is discarded with
reason 1. -/
def parkOrder (f : FieldIx) (w : W9) : W9 :=
  if canPark w f then modField f (fun s => { s with parkOrder := true }) w
  else if (parkState w f = 4 ∨ parkState w f = 5) ∧ !fieldLostNow w f then modField f (fun s => { s with parkHeld := true }) w
  else parkRejected f 1 w

/-- How many fields ramp before this one (R452). -/
def rampPlaceOf (w : W9) : Nat := (allFields.filter (fun f => parkState w f == 4)).length

/-- A gated field begins to wake: event 0xA014 with its place in the ramp order. -/
def startWake (f : FieldIx) (w : W9) : W9 :=
  let n := rampPlaceOf w
  let w := setPark f 4 (modField f (fun s => { s with rampPlace := n, parkHeld := false }) w)
  raise0 0xA014 (srcField f) [BitVec.ofNat 8 n] w

/-- An unpark order (Table 12.7). One for a STOPPED field restarts its clock: it reopens at the next boundary, contents kept. An order of
the field that has not begun to drain is withdrawn (DEDUCED, log entry 36). The loader's unused fields stay (R341). -/
def unparkOrder (f : FieldIx) (w : W9) : W9 :=
  if rdB64 w Reg.imgUnused f.val ∨ fieldLostNow w f then w
  else match parkState w f with
  | 0 => modField f (fun s => { s with parkOrder := false }) w
  | 1 => abandonDrain f 3 w
  | 2 => setClock f true w
  | 3 => startWake f w
  | _ => w

/-! ## The end of a drain (R449 to R451) -/

/-- A STOPPED field is gated: its zones turn off and everything in it is lost (R451, R58). -/
def gateField (f : FieldIx) (w : W9) : W9 :=
  raise0 0xA012 (srcField f) [] (setPark f 3 (setZones f 0 (zeroed f (clearField f w))))

/-- The field is closed and its clock stops at the root. -/
def stopField (f : FieldIx) (w : W9) : W9 := setPark f 2 (setClock f false (setFieldState f 1 w))

/-- DRAIN_END (R449, R451): event 0xA011; in hold the field is gated at once (Table 12.7). -/
def drainEnd (f : FieldIx) (w : W9) : W9 :=
  if parkState w f = 1 ∧ !fieldLostNow w f ∧ fieldIdle w f = true then
    let n := now w - (fieldState w f).drainStart
    let w := modField f (fun s => { s with parkOrder := false }) (stopField f w)
    let w := raise0 0xA011 (srcField f) (le 4 n) (inc (Reg.parkCount f.val) 1 w)
    if inHold w then gateField f w else w
  else w

/-- DRAIN_END. -/
def execDrainEnd (f : FieldIx) (s : State) : Host.Outcome State Fault Refusal := lift (drainEnd f) s

/-- A tile of the field is held by the issue rule (TILE_STATUS.STALLED, R537). -/
def stalledIn (w : W9) (f : FieldIx) : Bool := (fieldTiles f).any (fun t => prdB w t Pg.tileStatus 1)

/-- DRAIN_ABANDON (R450): 200 µs after it started the drain is given up, and a stalled tile makes it a hang (R537). -/
def drainAbandon (f : FieldIx) (w : W9) : W9 :=
  if parkState w f = 1 ∧ !fieldLostNow w f ∧ (fieldState w f).drainStart + 200000 ≤ now w then
    let hang := stalledIn w f
    let w := joinBeats f (abandonDrain f 2 w)
    if hang then hangDetect 3 (some f) w else w
  else w

/-- DRAIN_ABANDON. -/
def execDrainAbandon (f : FieldIx) (s : State) : Host.Outcome State Fault Refusal := lift (drainAbandon f) s

/-- FIELD_GATE (R451): 100 µs in STOPPED have passed and no unpark order has restarted the clock. -/
def fieldGate (f : FieldIx) (w : W9) : W9 :=
  if parkState w f = 2 ∧ !fieldLostNow w f ∧ !clockRuns w f ∧ (fieldState w f).stateSince + 100000 ≤ now w then gateField f w else w

/-- FIELD_GATE. -/
def execFieldGate (f : FieldIx) (s : State) : Host.Outcome State Fault Refusal := lift (fieldGate f) s

/-! ## Waking and reloading (R452, R453, R455) -/

/-- The zones run, the clock runs and the stores are zeroed. -/
def rampField (f : FieldIx) (w : W9) : W9 := setClock f true (setZones f 1 (zeroed f (clearField f w)))

/-- WAKE_COMPLETE (R452): the seams open and the field reloads; where the loader brings it back, the loader writes it (R455). -/
def wakeComplete (f : FieldIx) (w : W9) : W9 :=
  if parkState w f = 4 ∧ !fieldLostNow w f ∧ (fieldState w f).reset.isNone then
    let w := writeField f (setFieldState f 0 (rampField f w))
    if imgState w = 2 then setPark f 0 (pulsesBack f w) else setPark f 5 w
  else w

/-- WAKE_COMPLETE. -/
def execWakeComplete (f : FieldIx) (s : State) : Host.Outcome State Fault Refusal := lift (wakeComplete f) s

/-- The field is OPEN again: event 0xA015 with the duration of RELOADING, and a park order that waited is carried out (Table 12.7). -/
def reopened (f : FieldIx) (ns : Nat) (w : W9) : W9 :=
  let held := (fieldState w f).parkHeld
  let w := modField f (fun s => { s with parkHeld := false, parkOrder := false }) (setPark f 0 w)
  let w := joinBeats f (pulsesBack f (raise0 0xA015 (srcField f) (le 4 ns) w))
  if held then parkOrder f w else w

/-- FIELD_REOPEN (R453, Table 12.7): the last tile has signalled and every tile starts at the beat start; or a STOPPED field whose clock runs
again reopens with its contents. -/
def fieldReopen (f : FieldIx) (w : W9) : W9 :=
  if fieldLostNow w f then w
  else if parkState w f = 5 ∧ (fieldState w f).reset.isNone then
    let n := now w - (fieldState w f).stateSince
    reopened f n (startTiles f (wr (Reg.unparkLast f.val) (BitVec.ofNat 32 n) w))
  else if parkState w f = 2 ∧ clockRuns w f = true then reopened f 0 (setFieldState f 0 w)
  else w

/-- FIELD_REOPEN. -/
def execFieldReopen (f : FieldIx) (s : State) : Host.Outcome State Fault Refusal := lift (fieldReopen f) s

end Sys2Proof.Machine
end

