-- ==== Sys2Proof/Machine/Image.lean ====
section
/-! DEFINITION. Loading, unloading and re-instantiating an image (spec/09_image_contract.md R338 to R348) and the debug block's commands
(R349 to R352, R354). -/

namespace Sys2Proof.Machine

open Sys2Proof

/-- Set IMG_STATUS.STATE. -/
def setImgState (st : Nat) (w : W9) : W9 := wrF Reg.imgStatus 2 0 st w

/-- An IMG_CMD is discarded: CMD_REJECT and event 0x7002 (R338). -/
def imgReject (op : Nat) (w : W9) : W9 :=
  raise0 0x7002 srcSteward [BitVec.ofNat 8 op, BitVec.ofNat 8 (imgState w)] (wrB Reg.imgStatus 15 true w)

/-- A refusal (R336, R347): ERROR, RUNG, IMG_ERR_DETAIL, FAILED and event 0x7001. -/
def refuseImage (e : LoadErr) (w : W9) : W9 :=
  let (code, rung, type, index) := e
  let w := wr Reg.imgErrDetail (BitVec.ofNat 32 (type * 0x1000000 + index)) w
  let w := setImgState 4 (wrF Reg.imgStatus 23 16 rung (wrF Reg.imgStatus 31 24 code { w with img := none }))
  raise0 0x7001 srcSteward ([BitVec.ofNat 8 code, BitVec.ofNat 8 type, BitVec.ofNat 8 rung, 0] ++ le 4 index) w

/-! ## Stopping what runs (R338, R347, Table 12.7) -/

/-- A tile stops; its stores stay. -/
def stopTile (t : Tile) (w : W9) : W9 :=
  modTile t (fun s => { s with startWait := false, stopWait := false, pulses := 0 }) (pwrF t Pg.tileStatus 4 0 0 w)

/-- What parking has begun meets the loader: a drain is abandoned with reason 5, a reload stops (Table 12.7). -/
def loaderMeets (f : FieldIx) (w : W9) : W9 := match parkState w f with
  | 1 => abandonDrain f 5 w
  | 5 => setPark f 0 w
  | _ => modField f (fun s => { s with parkOrder := false, parkHeld := false }) w

/-- Every sequencer stops and beats end; a flip in progress is stopped (R319) and load items are given up. -/
def stopImage (w : W9) : W9 :=
  let w := dropItems (stopFlip w)
  let w := forEach allFields (fun f w =>
    modField f (fun s => { s with owing := [] }) (loaderMeets f (forEach (runningTiles w f) stopTile w))) w
  let w := forEach (w.tiles.filterMap (fun e => if e.2.startWait then some (Fin.ofNat 32256 e.1 : Tile) else none)) stopTile w
  let w := { w with prec := { w.prec with samples := [] }, serve := { w.serve with plan := none, planNext := none } }
  wrB Reg.serveStatus 1 false (wrB Reg.serveStatus 0 false (dropFlights w))

/-! ## Registers that an image sets (Tables 4.11, 6.11, 7.8, 8.7, 9.12) -/

/-- LAYER_FMT at the base of a layer's ladder (Table 4.11). -/
def baseFmt (m : LayerMap) : Word32 :=
  let base := ladderAt m 0
  BitVec.ofNat 32 (b2n (m.wide || decide (m.kind ≠ 0)) * 2 ^ 31 + base * 2 ^ 24 + base * 2 ^ 20 + ladderAt m (m.ladder.length - 1) * 2 ^ 16 +
    m.ceiling.toNat * 2 ^ 8 + m.slots % 16 * 2 ^ 4 + b2n m.burst * 2 ^ 3 + b2n (m.burst && elemBits base == 4) * 2 ^ 2)

/-- Format control starts at the base of every ladder (R143, R155). -/
def setupPrec (layers : List LayerMap) (w : W9) : W9 :=
  let w := { w with prec := Prec.init }
  let w := forEach (List.range 256) (fun i w => wr (Reg.errWindow i) 0 (wr (Reg.errMean i) 0 (wr (Reg.layerFmt i) 0 w))) w
  let w := forEach layers (fun m w => wr (Reg.layerFmt m.layer.val) (baseFmt m) w) w
  wr64 Reg.precStep 0 (wr Reg.precStatus 0 w)

/-- The serving registers, the groups and the draft band of a rung (R331, R262, R274). -/
def setupServe (g : Rung) (w : W9) : W9 :=
  let t := g.timing
  let b := beatCyclesOf t
  let groups := (g.bands.filter (fun x => x.role == 2)).filterMap (fun x =>
    (g.positions.find? (fun p => p.band == x.band)).map (fun p => (⟨x.band, Fin.ofNat 48 p.field, none⟩ : Group)))
  let w := { w with serve := { w.serve with
    pipe := List.replicate t.stages none, groups := groups, draftField := g.draft.bind (bandField g), handOvers := [], chains := [] } }
  let w := wr Reg.beatCycles (BitVec.ofNat 32 b) (wr Reg.pipeShape (BitVec.ofNat 32 (t.rowsMax * 0x10000 + t.stages)) w)
  let w := wr Reg.class0Max (BitVec.ofNat 32 t.class0Max) (wr Reg.sFloor (BitVec.ofNat 32 t.sFloor) w)
  let w := wr Reg.tbt0Bound (BitVec.ofNat 32 (bTbt w)) w
  let w := wr Reg.kvPosBytes (BitVec.ofNat 32 t.kvPosBytes) (wr Reg.kvCycleBytes (BitVec.ofNat 32 t.kvCycleBytes) (wr64 Reg.kvBeatBytes t.kvBeatBytes w))
  wr64 Reg.streamTable g.far.streamTable.toNat w

/-- The KV and prefix registers; in a pair only the own half counts (R403). -/
def setupKv (g : Rung) (w : W9) : W9 :=
  let n := if pairEn w then g.far.kvPages / 2 else g.far.kvPages
  let w := wrB Reg.kvCtrl 0 g.timing.kv8 (setKvFree n (wr Reg.kvPagesTotal (BitVec.ofNat 32 n) w))
  let w := wrF Reg.prefixCtrl 4 0 g.far.log2Buckets w
  wr64 Reg.prefixRoots g.far.prefixRoots.toNat (wr64 Reg.prefixTable g.far.prefixTable.toNat w)

/-- ROT_MEMBER of every set: member 0 holds the role (R343). -/
def setupRotation (g : Rung) (w : W9) : W9 :=
  let t := now w
  let w := forEach (List.range 16) (fun i w => match g.rotation[i]? with
    | some r => wr (Reg.rotMember i) (BitVec.ofNat 32 (r.role * 0x1000000 + r.members.length * 0x100)) w
    | none => wr (Reg.rotMember i) 0 w) w
  { w with serve := { w.serve with rotMoved := g.rotation.map (fun _ => t) } }

/-- The image registers of the rung in force (Table 9.12). -/
def setupImage (im : ImageS) (k : Nat) (g : Rung) (w : W9) : W9 :=
  let used := (ladderOf im.body k).used.toNat
  let w := wr64 Reg.imgBuildId im.buildId.toNat (wr64 Reg.imgMapId im.mapId.toNat (wr64 Reg.imgLen im.len w))
  let w := wr64 Reg.imgParkable g.parkable.toNat (wr64 Reg.imgUnused ((2 ^ 48 - 1) - used % 2 ^ 48) w)
  let w := forEach (List.range 8) (fun i w => wr (Reg.imgDigest i) (BitVec.ofNat 32 (ofLe ((im.digest.drop (4 * i)).take 4))) w) w
  let w := wrF Reg.imgStatus 4 3 im.profile (wrB Reg.imgStatus 5 im.compat (wrF Reg.imgStatus 23 16 k w))
  wr64 Reg.recoveryAddr (recoveryOf im.addr.toNat im.len) (wr64 Reg.stripeSet g.far.stripe.toNat w)

/-- Every adapter slot is FREE: the image that held the adapters is gone (DEDUCED, log entry 37). -/
def clearAdapters (w : W9) : W9 :=
  let w := { w with wt := { w.wt with adapterAddr := [], install := none } }
  forEach (List.range 64) (fun n w => wr (Reg.adapterRef n) 0 (wr (Reg.adapterVer n) 0 (wr (Reg.adapterId n) 0 w))) w

/-! ## Writing the fields (R339, R341, R348, R455) -/

/-- The loader's field reset of a USED field (R339, R501): its quiesce has nothing to wait for, since no sequencer runs. -/
def loaderReset (f : FieldIx) (w : W9) : W9 :=
  let w := markReset f false (modField f (fun s => { s with reset := none }) (clearField f w))
  let w := fieldResetDone f 1 0 false 0 (setPark f 0 (zeroed f (setFieldState f 0 w)))
  pulsesBack f (writeField f w)

/-- A USED field is brought to the image: a kept field takes the new tables, a parked one wakes, any other is reset and written. A field
whose PLL has lost lock comes back through its own reset (R433). -/
def takeField (keep : List FieldIx) (g : Rung) (f : FieldIx) (w : W9) : W9 :=
  if fieldLostNow w f ∨ !rdB w (Reg.fieldClk f.val) 31 then w
  else if keep.contains f then writeTables g f w
  else match parkState w f with
    | 2 => startWake f w
    | 3 => startWake f w
    | 4 => w
    | _ => loaderReset f w

/-- An unused field is closed and gated without a drain (R341, R455). -/
def closeField (f : FieldIx) (w : W9) : W9 :=
  if fieldLostNow w f ∨ parkState w f = 3 then w
  else
    let w := markReset f false (modField f (fun s => { s with reset := none }) w)
    gateField f (setClock f false (setFieldState f 1 w))

/-- The band tiles of a field with what keeps a field: band, index, program and weight addresses (R348). -/
def fieldHolds (g : Rung) (f : FieldIx) : List (Tile × Nat × Nat × List (BitVec 256) × List (Nat × Nat × LAddr) × List (Nat × Nat)) :=
  (bandsIn g f).flatMap (fun e => (List.range e.1.tiles).map (fun i =>
    (bandTile e.1 e.2 i, e.1.band, i, ((g.programs.find? (fun p => p.index == e.1.program)).map (fun p => p.bundles)).getD [],
     (g.far.weights.filter (fun x => x.group.isNone && x.band == e.1.band && x.index == i)).map (fun x => (x.offset, x.len, x.target)),
     (g.far.copyOffsets.filter (fun c => c.band == e.1.band && c.index == i)).map (fun c => (c.bank, c.ops)))))

/-- A RELOAD keeps the field (R348): every logical tile holds the same in both rungs. A parked field's stores are gone (R451). -/
def keptField (b : ImageBody) (k0 k1 : Nat) (g0 g1 : Rung) (w : W9) (f : FieldIx) : Bool :=
  usedBy b k0 f.val && usedBy b k1 f.val && parkState w f == 0 && (fieldState w f).reset.isNone && !fieldLostNow w f &&
    (fieldHolds g0 f).all (fun x => (fieldHolds g1 f).contains x) && (fieldHolds g1 f).all (fun x => (fieldHolds g0 f).contains x)

/-- The load items that fill resident weights from a set, for tiles of fields that are not kept (R339, R348). -/
def queueWeights (keep : List FieldIx) (g : Rung) (set : Nat) (w : W9) : W9 :=
  forEach (g.far.weights.filter (fun x => match x.group with
    | some _ => true
    | none => match bandRefTile g x.band x.index with
      | some t => !keep.contains (tileField t)
      | none => false)) (queueItem g set false) w

/-- Instantiate rung `k` (R339, R348): fields kept in `keep` hold their stores; `set` is the weight set to load, 0 for none. -/
def instantiate (im : ImageS) (k : Nat) (g : Rung) (keep : List FieldIx) (set : Nat) (w : W9) : W9 :=
  let im := { im with mapId := (ladderOf im.body k).mapId }
  let w := setImgState 2 { w with img := some im }
  let w := setupRotation g (setupServe g (setupImage im k g w))
  let w := forEach allFields (fun f w => if usedBy im.body k f.val then takeField keep g f w else closeField f w) w
  if set = 0 then w else queueWeights keep g set w

/-! ## LOAD (R339, R340) -/

/-- The image that passed, from its header. -/
def imageOf (w : W9) (h : List Byte) (addr : Nat) (b : ImageBody) : ImageS :=
  { body := b, profile := hdProfile h, compat := hdCompat h, len := hdLen h, mapId := BitVec.ofNat 64 (hdField h 32 8)
    buildId := BitVec.ofNat 64 (hdField h 40 8), bodyDigest := (h.drop 64).take 32, digest := sha256 (farRead w addr (hdLen h))
    addr := BitVec.ofNat 64 addr, oldRung := none }

/-- The set of IMG_WSET passes check 0x15 against a rung (Table 9.7). -/
def wsetOk (w : W9) (b : ImageBody) (k set : Nat) : Option SetHeader := match w.wt.verified with
  | some (a, h) => if a.toNat = set ∧ rd64 w Reg.loadVerified = set ∧ h.kind = 0 ∧ h.mapId = (ladderOf b k).mapId then some h else none
  | none => none

/-- What a LOAD starts from: no stream, no page, no adapter, no set in use; every stream record says FREE (DEDUCED, log entry 37). -/
def freshImage (im : ImageS) (g : Rung) (w : W9) : W9 :=
  let w := clearAdapters { w with kv := KvS.init, wt := { w.wt with active := none } }
  let w := setupKv g (setupPrec im.body.layers w)
  wr64 Reg.wsetActive 0 (wr Reg.modelVer 0 (wr64 Reg.beatCount 0 w))

/-- The records of slots that hold no stream say FREE; a slot that is ENDING stays until its completion record is written (R272). -/
def freeRecords (w : W9) : W9 := forEach allStreams (fun s w => putStream s (fun t => if t.state = .free then Stream.init else t) w) w

/-- The checks have passed and rung `k` is chosen. -/
def loadGo (im : ImageS) (k set : Nat) (active : Option SetHeader) (g : Rung) (w : W9) : W9 :=
  let w := freshImage im g { w with checked := some im }
  let w := { w with wt := { w.wt with active := active } }
  let w := if set = 0 then w else wr64 Reg.wsetActive set w
  freeRecords (instantiate im k g [] set w)

/-- LOAD from an image whose checks passed: the rung choice and check 0x15 (R339). -/
def loadPassed (im : ImageS) (w : W9) : W9 := match usableRung w im.body with
  | none => refuseImage (6, 0xFF, 0x0C, 0) { w with checked := some im }
  | some k => match im.body.rungs[k]? with
    | none => w
    | some g =>
      let set := rd64 w Reg.imgWset
      if set = 0 then loadGo im k 0 none g w
      else match wsetOk w im.body k set with
        | some h => loadGo im k set (some h) g w
        | none => refuseImage (0x15, k, 0, 0) w

/-- IMAGE_LOAD: IMG_CMD with OP LOAD (R338, R339). The image is read from far memory at IMG_ADDR; `body` is what its sections spell. -/
def imageLoad (debug : Bool) (body : ImageBody) (w : W9) : W9 :=
  if !hostAnswers w then w
  else if safeMode w ∨ (imgState w ≠ 0 ∧ imgState w ≠ 4) then imgReject 1 w
  else
    let addr := rd64 w Reg.imgAddr
    let h := farRead w addr 256
    let w := farReadEffects (farQuarters w addr (max 256 (if headerOk h then hdLen h else 256))) w
    let w := setImgState 1 (wrB Reg.imgStatus 6 debug { w with img := none, checked := none })
    match loadChecks w h addr body with
    | some e => refuseImage e w
    | none => loadPassed (imageOf w h addr body) w

/-- IMAGE_LOAD. -/
def execImageLoad (debug : Bool) (body : ImageBody) (s : State) : Host.Outcome State Fault Refusal := lift (imageLoad debug body) s

/-- The instantiation is done: the resident weights are there and no field is still waking (R339). -/
def instantiated (w : W9) : Bool :=
  imgState w == 2 && itemsDone w && !allFields.any (fun f => parkState w f == 4 && !rdB64 w Reg.imgUnused f.val && !fieldLostNow w f)

/-- The image starts (R339): every placed band's sequencer starts at the first pulse of the beat start; RUNNING. -/
def imageStarts (w : W9) : W9 :=
  let t := now w
  let w := { w with env := { w.env with imageSince := t, pFix := 0, pDec := 0, pPf := 0 } }
  let w := forEach allFields (fun f w => if taking w f then startTiles f w else w) w
  setImgState 3 w

/-- A LOAD ends: MODEL_VER is the set's version, event 0x7010 (R339). -/
def loadEnds (k : Nat) (im : ImageS) (w : W9) : W9 :=
  let ver := match w.wt.active with | some h => h.modelVer | none => 0
  let w := wrF Reg.imgStatus 31 24 0 (wr Reg.modelVer ver (imageStarts w))
  let w := raise0 0x7010 srcSteward ([BitVec.ofNat 8 k, BitVec.ofNat 8 (b2n (debugOn w) + 2 * b2n (compatOn w)), 0, 0, 0, 0, 0, 0] ++
    le 8 im.buildId.toNat) w
  writeHeader w

/-- A RELOAD ends: event 0x7012, and streams are restored where their far-memory contents carry across (R347, R348, R551). -/
def reloadEnds (k old : Nat) (w : W9) : W9 :=
  let w := imageStarts w
  let w := raise0 0x7012 srcSteward ([BitVec.ofNat 8 old, BitVec.ofNat 8 k, 0, 0, 0, 0, 0, 0] ++ le 8 (rd64 w Reg.imgLost)) w
  writeHeader (restoreSlots w)

/-! ## UNLOAD and RELOAD (R338, R347, R348) -/

/-- No image is loaded: what it set in registers is gone (DEDUCED, log entry 37). -/
def clearImage (w : W9) : W9 :=
  let w := { w with img := none, kv := KvS.init, prec := Prec.init, wt := { w.wt with active := none }
                    serve := { w.serve with pipe := [], groups := [], draftField := none, rotMoved := [] } }
  let w := forEach (List.range 16) (fun i w => wr (Reg.rotMember i) 0 w) (clearAdapters w)
  let w := forEach (List.range 256) (fun i w => wr (Reg.layerFmt i) 0 w) w
  let w := wr Reg.pipeShape 0 (wr Reg.kvPagesTotal 0 (wr Reg.kvPagesFree 0 w))
  let w := wr64 Reg.imgParkable 0 (wr64 Reg.imgUnused 0 (wr64 Reg.imgMapId 0 (wr64 Reg.imgLen 0 w)))
  wr64 Reg.wsetActive 0 (wr Reg.modelVer 0 w)

/-- UNLOAD: IMG_CMD with OP UNLOAD: every sequencer stops and every slot table is cleared (Table 9.8). A paired W9 leaves (R418). -/
def unload (w : W9) : W9 :=
  if !hostAnswers w then w
  else if safeMode w ∨ imgState w ≠ 3 ∨ !(busyStreams w).isEmpty then imgReject 2 w
  else
    let w := clearImage (stopImage (leavePair 4 w))
    let w := forEach allFields (fun f w => modField f (fun s => { s with slots := [], mcast := [], mcastRoots := [] }) (wr (Reg.slotLen f.val) 0 w)) w
    raise0 0x7011 srcSteward [] (setImgState 0 (wr64 Reg.recoveryAddr 0 { w with checked := none }))

/-- UNLOAD. -/
def execUnload (s : State) : Host.Outcome State Fault Refusal := lift unload s

/-- The far-memory contents of the rung that ran carry across to another (R348). -/
def carries (im : ImageS) (g0 g1 : Rung) (k1 : Nat) (w : W9) : Bool :=
  decide (stripeOf g0 = stripeOf g1) && decide (im.mapId = (ladderOf im.body k1).mapId) && decide (rd w Reg.modelVer ≠ 0)

/-- Re-instantiate at rung `k` from the rung that ran, if any (R348). Where nothing carries across every stream ends with ENDED_FIELD_LOST
(R551) and the image starts as after a LOAD with IMG_WSET 0. -/
def reloadTo (im : ImageS) (k : Nat) (g : Rung) (w : W9) : W9 := match w.img, rungNow w with
  | some cur, some g0 =>
    let k0 := rdF w Reg.imgStatus 23 16
    let keep := allFields.filter (keptField im.body k0 k g0 g w)
    let im := { im with oldRung := some k0, mapId := cur.mapId }
    if carries im g0 g k w then instantiate im k g keep (rd64 w Reg.wsetActive) w
    else freeRecords (instantiate im k g keep 0 (freshImage im g (endStreams 0x23 w)))
  | _, _ => freeRecords (instantiate { im with oldRung := some k } k g [] 0 (freshImage im g w))

/-- The steward's or the host's RELOAD (R347). With no usable rung the W9 has no image and every stream ends. -/
def reloadImage (w : W9) : W9 := match w.checked with
  | none => w
  | some im =>
    let w := stopImage w
    match usableRung w im.body with
    | none => refuseImage (6, 0xFF, 0x0C, 0) (clearImage (endStreams 0x23 w))
    | some k => match im.body.rungs[k]? with
      | some g => reloadTo im k g w
      | none => w

/-- RELOAD: IMG_CMD with OP RELOAD (Table 9.8). A paired W9 leaves (R418). -/
def reload (w : W9) : W9 :=
  if !hostAnswers w then w
  else if safeMode w ∨ !(imgState w = 3 ∨ (imgState w = 4 ∧ w.checked.isSome)) then imgReject 3 w
  else reloadImage (leavePair 3 w)

/-- RELOAD. -/
def execReload (s : State) : Host.Outcome State Fault Refusal := lift reload s

/-! ## The debug block's commands (R351, R352, R354) -/

/-- Debug commands reach the W9: the host port answers, the part is not in safe mode and debug mode is on (R354). -/
def dbgOpen (w : W9) : Bool := cmdOpen w && debugOn w

/-- The freeze is over on this W9 (R351, R352): event 0x7043 names the first resumed pulse. -/
def endFreeze (w : W9) : W9 := match w.dbg.resumeAt with
  | none => w
  | some t =>
    let w := setFreeze false { w with dbg := { w.dbg with resumeAt := none, freezeDue := false, freezeTwin := false } }
    let w := wrB Reg.dbgStatus 29 false (wrB Reg.dbgStatus 30 false w)
    beatStart (raise0 0x7043 srcSteward (List.replicate 8 0 ++ le 8 t) w)

/-- RESUME (R351, R352): the steward picks a time 10 µs ahead, 30 µs in a pair, and tells the twin. DESIGN CHOICE (log entry 38): the
least time allowed. -/
def resume (w : W9) : W9 :=
  if !dbgOpen w ∨ !rdB w Reg.dbgStatus 30 ∨ w.dbg.resumeAt.isSome then w
  else
    let t := now w + (if paired w then 30000 else 10000)
    let w := { w with dbg := { w.dbg with resumeAt := some t } }
    if paired w then sendTwins (.resume t) w else w

/-- RESUME. -/
def execResume (s : State) : Host.Outcome State Fault Refusal := lift resume s

/-- RESUME_TIME_REACHED (R351): every field issues its next pulse at the time picked. -/
def resumeTimeReached (w : W9) : W9 := match w.dbg.resumeAt with
  | some t => if t ≤ now w then endFreeze w else w
  | none => w

/-- RESUME_TIME_REACHED. -/
def execResumeTimeReached (s : State) : Host.Outcome State Fault Refusal := lift resumeTimeReached s

/-- POP: the oldest trap record is discarded (Table 9.14). -/
def pop (w : W9) : W9 := if dbgOpen w then { w with dbg := { w.dbg with fifo := w.dbg.fifo.drop 1 } } else w

/-! ## The debug block's tile page (R354, Table 9.14) -/

/-- The tile that DBG_TILE_SEL names, where its field is open (R201). -/
def dbgTile (w : W9) : Option Tile :=
  let n := rdF w Reg.dbgTileSel 14 0
  if h : n < 32256 then
    let t : Tile := ⟨n, h⟩
    if fieldStateSeen w (tileField t) (tileField t) = 0 then some t else none
  else none

/-- What a read of the tile page returns: the dword, 0xFFFF_FFFF after a NAK, 0 outside debug mode. -/
def dbgPageRead (off : Nat) (w : W9) : Word32 :=
  if !dbgOpen w then 0
  else match dbgTile w with
    | none => 0xFFFFFFFF
    | some t => pageView w t off

/-- An access of the tile page: the steward performs it over the mesh, and a NAK sets DBG_STATUS.TILE_NAK. -/
def dbgPageAccess (write : Bool) (off : Nat) (v : Word32) (w : W9) : W9 :=
  if !dbgOpen w then w
  else match dbgTile w with
    | none => wrB Reg.dbgStatus 28 true w
    | some t => if write then pagePut t off (le 4 v.toNat) w else pageGetClears t off 4 w

/-- DBG_TILE_PAGE_ACCESS: `off` lies in the page, 0x000 to 0xFFF. A read's completion is the host's read data. -/
def execDbgTilePageAccess (write : Bool) (off : Nat) (value : Word32) (s : State) : Host.Outcome State Fault Refusal :=
  lift (fun w =>
    let v := dbgPageRead off w
    let w := dbgPageAccess write off value w
    if write ∨ !hostAnswers w then w else complete (le 4 v.toNat) false w) s

/-- POP. -/
def execPop (s : State) : Host.Outcome State Fault Refusal := lift pop s

end Sys2Proof.Machine
end

