-- ==== Sys2Proof/Machine/Loss.lean ====
section
/-! DEFINITION. The loss of a field (spec/15_faults_recovery.md R550 to R552) and what the clocks and rails report or lose
(spec/12_clocks_power.md R433, R434, R442 to R447). -/

namespace Sys2Proof.Machine

open Sys2Proof

/-- The W9 has booted: its clocks, rails and fields are up (R441, R515). -/
def booted (w : W9) : Bool := w.dev.powered && w.dev.rstDone

/-! ## The loss of a field (R551) -/

/-- FAULT_LOST gains the field: FAULT_GEN, DEGRADED, and events 0xD040 and, the first time since power-on or cold reset, 0xD041. -/
def noteLoss (f : FieldIx) (cause : Nat) (w : W9) : W9 :=
  let w := wr Reg.faultGen (BitVec.ofNat 32 w.opt.gen) (wrB64 Reg.faultLost f.val true (wrB64 Reg.imgLost f.val true w))
  let w := wrF (Reg.fieldFault f.val) 30 27 cause (wrB (Reg.fieldFault f.val) 31 true (wrB Reg.faultStatus 31 true w))
  let w := raise0 0xD040 (srcField f) [BitVec.ofNat 8 cause, BitVec.ofNat 8 f.val] w
  if w.flt.firstLost then w
  else raise0 0xD041 srcSteward (le 8 (rd64 w Reg.faultLost)) { w with flt := { w.flt with firstLost := true } }

/-- What was under way in the field ends: a reset, an order, a drain. -/
def dropFieldWork (f : FieldIx) (w : W9) : W9 :=
  markReset f false (modField f (fun s => { s with reset := none, parkOrder := false, parkHeld := false, pllLostAt := none }) w)

/-- Every slot returns to FREE for the twin, which has claimed the streams: RELEASED_TO_TWIN and event 0xD025 with the slots released
(R544, R551). -/
def releaseToTwin (w : W9) : W9 :=
  let n := (busyStreams w).length
  raise0 0xD025 srcSteward (le 2 n) (wrB Reg.faultStatus 27 true (releaseSlots w))

/-- What a RUNNING image does about a lost field (R551): a paired W9 fails over and releases its slots, and either issues RELOAD. A
loading image meets the loss when its instantiation ends (R546). -/
def afterLoss (w : W9) : W9 :=
  if imgState w = 3 then
    reloadImage (if paired w then unpair 1 (releaseToTwin (tellFailing 2 w)) else w)
  else w

/-- A field is lost (R550, R551): the lost state reaches every FIELD_STATE register first. -/
def loseField (f : FieldIx) (cause : Nat) (w : W9) : W9 :=
  if fieldLostNow w f then w
  else afterLoss (noteLoss f cause (dropFieldWork f (setFieldState f 3 w)))

/-- FIELD_LOSS: a case of Table 15.8. -/
def execFieldLoss (f : FieldIx) (cause : Fin 8) (s : State) : Host.Outcome State Fault Refusal :=
  lift (fun w => if booted w && decide (cause ≠ 0) then loseField f cause.val w else w) s

/-! ## Loss of lock (R433, R434) -/

/-- The lock of a field PLL, in FIELD_CLK and FIELD_PLL_LOCK. -/
def setFieldLock (f : FieldIx) (b : Bool) (w : W9) : W9 := wrB64 Reg.fieldPllLock f.val b (wrB (Reg.fieldClk f.val) 31 b w)

/-- FIELD_PLL_LOSS (R433): the field's clock stops at the root, and the field is reset. Event 0xA001 follows once its byte 0, whether the
PLL locked again, is known (DEDUCED, log entry 39). -/
def fieldPllLoss (f : FieldIx) (w : W9) : W9 :=
  if booted w && rdB w (Reg.fieldClk f.val) 31 && !fieldLostNow w f then
    let t := now w
    let w := modField f (fun s => { s with pllLostAt := some t }) (setClock f false (setFieldLock f false w))
    startFieldReset f 2 0 w
  else w

/-- FIELD_PLL_LOSS. -/
def execFieldPllLoss (f : FieldIx) (s : State) : Host.Outcome State Fault Refusal := lift (fieldPllLoss f) s

/-- FIELD_PLL_RELOCK (R433): locked again within 100 µs; the field's clock runs again unless parking keeps it stopped. -/
def fieldPllRelock (f : FieldIx) (w : W9) : W9 := match (fieldState w f).pllLostAt with
  | none => w
  | some t =>
    if now w ≤ t + 100000 then
      let w := setFieldLock f true (modField f (fun s => { s with pllLostAt := none }) w)
      let w := if parkState w f = 2 ∨ parkState w f = 3 then w else setClock f true w
      raise0 0xA001 (srcField f) [1] w
    else w

/-- FIELD_PLL_RELOCK. -/
def execFieldPllRelock (f : FieldIx) (s : State) : Host.Outcome State Fault Refusal := lift (fieldPllRelock f) s

/-- FIELD_PLL_RELOCK_TIMEOUT (R433): the field is lost with cause 4. -/
def fieldPllTimeout (f : FieldIx) (w : W9) : W9 := match (fieldState w f).pllLostAt with
  | none => w
  | some t => if t + 100000 ≤ now w then loseField f 4 (raise0 0xA001 (srcField f) [0] w) else w

/-- FIELD_PLL_RELOCK_TIMEOUT. -/
def execFieldPllRelockTimeout (f : FieldIx) (s : State) : Host.Outcome State Fault Refusal := lift (fieldPllTimeout f) s

/-- A stack fails and its field is lost with cause 3 (R296, R434). -/
def failStack (f : FieldIx) (w : W9) : W9 := loseField f 3 (modField f (fun s => { s with stackFailed := true }) w)

/-- MIF_PLL_LOSS (R434). -/
def mifPllLoss (f : FieldIx) (w : W9) : W9 :=
  if booted w && rdB64 w Reg.mifPllLock f.val then failStack f (wrB64 Reg.mifPllLock f.val false w) else w

/-- MIF_PLL_LOSS. -/
def execMifPllLoss (f : FieldIx) (s : State) : Host.Outcome State Fault Refusal := lift (mifPllLoss f) s

/-- TIMEBASE_PLL_LOSS (R434): device time counts in steps of 10 ns, which TIMEBASE_COARSE shows. -/
def timebaseLoss (w : W9) : W9 :=
  if booted w then wrB Reg.clkStatus 27 true (wrB Reg.clkStatus 30 false w) else w

/-- TIMEBASE_PLL_LOSS. -/
def execTimebasePllLoss (s : State) : Host.Outcome State Fault Refusal := lift timebaseLoss s

/-- TIMEBASE_PLL_RELOCK (R434). -/
def timebaseRelock (w : W9) : W9 :=
  if booted w then wrB Reg.clkStatus 27 false (wrB Reg.clkStatus 30 true w) else w

/-- TIMEBASE_PLL_RELOCK. -/
def execTimebasePllRelock (s : State) : Host.Outcome State Fault Refusal := lift timebaseRelock s

/-! ## Input and zones (R442, R443) -/

/-- INPUT_OUT_OF_RANGE (R442): the input has been outside 40 V to 60 V for more than 100 µs; the W9 runs on. -/
def inputOutOfRange (v : BitVec 16) (w : W9) : W9 :=
  if booted w && (decide (v.toNat < 4000) || decide (6000 < v.toNat)) then
    raise0 0xA030 srcEnv (le 4 v.toNat) (wrB Reg.pwrErr 0 true (wrF Reg.inputV 15 0 v.toNat w))
  else w

/-- INPUT_OUT_OF_RANGE. -/
def execInputOutOfRange (volts10mV : BitVec 16) (s : State) : Host.Outcome State Fault Refusal := lift (inputOutOfRange volts10mV) s

/-- A ZONE register: voltage in mV above current in A. -/
def zoneWord (mv a : BitVec 16) : Word32 := mv ++ a

/-- A VLOGIC zone that no longer delivers its rating holds it no longer. -/
def easeZone (f : FieldIx) (amps : Nat) (w : W9) : W9 := if amps < 900 then wrB (Reg.fieldPwr f.val) 24 false w else w

/-- ZONE_TELEMETRY (R443): the zones of a field report voltage and current. -/
def zoneTelemetry (f : FieldIx) (z : ZoneReading) (w : W9) : W9 :=
  if booted w then
    let w := wr (Reg.zoneArray f.val) (zoneWord z.arrayMv z.arrayA) (wr (Reg.zoneLogic f.val) (zoneWord z.logicMv z.logicA) w)
    easeZone f z.logicA.toNat (wr (Reg.zoneMif f.val) (zoneWord z.mifMv z.mifA) w)
  else w

/-- ZONE_TELEMETRY. -/
def execZoneTelemetry (f : FieldIx) (z : ZoneReading) (s : State) : Host.Outcome State Fault Refusal := lift (zoneTelemetry f z) s

/-- A field's VLOGIC zone runs. -/
def logicRuns (w : W9) (f : FieldIx) : Bool := rdF w (Reg.fieldPwr f.val) 31 30 == 1

/-- ZONE_CURRENT_LIMIT (R443): a VLOGIC zone holds its rating, 900 A. -/
def zoneLimit (f : FieldIx) (w : W9) : W9 :=
  if booted w && logicRuns w f then
    raise0 0xA023 (srcField f) (le 4 900) (wrB (Reg.fieldPwr f.val) 24 true (wrF (Reg.zoneLogic f.val) 15 0 900 w))
  else w

/-- ZONE_CURRENT_LIMIT. -/
def execZoneCurrentLimit (f : FieldIx) (s : State) : Host.Outcome State Fault Refusal := lift (zoneLimit f) s

/-! ## Droop monitors (R444, R445) -/

/-- The longest run of windows a patch has had, as DROOP_STATUS shows it. -/
def longestRun (m : SMap Nat) : Nat := min 0xFFFF ((m.map (fun e => e.2)).foldl max 0)

/-- The run of every patch after a window: one more where four or more of its tiles were high, else 0. -/
def nextRuns (high : List (Nat × Nat)) (m : SMap Nat) : SMap Nat :=
  (List.range 42).foldl (fun r p =>
    if high.any (fun e => e.1 == p && decide (4 ≤ e.2)) then smPut (fun _ => 0) r p (smGet (fun _ => 0) m p + 1) else r) []

/-- DROOP_WINDOW (R444): a window of 1 µs has ended. `high` lists patches with their number of high tiles, `mean` the field's mean excess in µV,
`fast` the cycles more than 80 mV below the model. In a parked field or in retention the monitors are off and the counts start again
(R445). -/
def droopWindow (f : FieldIx) (high : List (Nat × Nat)) (mean fast : Nat) (w : W9) : W9 :=
  if !booted w then w
  else if parkState w f = 2 ∨ parkState w f = 3 ∨ parkState w f = 4 ∨ !logicRuns w f then
    wrF (Reg.droopStatus f.val) 15 0 0 (modField f (fun s => { s with patchRuns := [] }) w)
  else
    let m := nextRuns high (fieldState w f).patchRuns
    let w := modField f (fun s => { s with patchRuns := m, droopMean := mean }) w
    wrF (Reg.droopStatus f.val) 15 0 (max (rdF w (Reg.droopStatus f.val) 15 0) (longestRun m)) (inc (Reg.droopFast f.val) fast w)

/-- DROOP_WINDOW. -/
def execDroopWindow (f : FieldIx) (high : List (Nat × Nat)) (meanUv fast : Nat) (s : State) : Host.Outcome State Fault Refusal :=
  lift (droopWindow f high meanUv fast) s

/-- The 675 A limit on a field's VLOGIC zone (R445). -/
def setSoftLimit (f : FieldIx) (b : Bool) (w : W9) : W9 := wrB64 Reg.fieldsIlim f.val b (wrB (Reg.fieldPwr f.val) 25 b w)

/-- SUSPECTED_CRACK (R445): a patch has had four high tiles in every window for 10 ms. -/
def suspectedCrack (f : FieldIx) (p : Fin 42) (w : W9) : W9 :=
  let m := fieldState w f
  if booted w && decide (10000 ≤ smGet (fun _ => 0) m.patchRuns p.val) && !(rdB w (Reg.droopStatus f.val) 31) then
    let w := wrF (Reg.droopStatus f.val) 29 24 p.val (wrB (Reg.droopStatus f.val) 31 true w)
    let w := raise0 0xA021 (srcField f) ([BitVec.ofNat 8 p.val, 0, 0, 0] ++ le 4 m.droopMean) w
    queueTest (.supply f p) 8 (setSoftLimit f true w)
  else w

/-- SUSPECTED_CRACK. -/
def execSuspectedCrack (f : FieldIx) (patch : Fin 42) (s : State) : Host.Outcome State Fault Refusal := lift (suspectedCrack f patch) s

/-! ## Shorted zones (R446, R447, Table 12.5) -/

/-- The zone's bits in FIELD_PWR: VLOGIC, VARRAY or VMIF. -/
def zoneBit : Rail → Nat
  | .vlogic => 31
  | .varray => 29
  | _ => 27

/-- ZONES_ISOLATED, PWR_ERR.ISOLATED and event 0xA022. -/
def noteIsolated (rail zone bit amps : Nat) (w : W9) : W9 :=
  let w := wrB Reg.pwrErr 1 true (wrB64 Reg.zonesIsolated bit true w)
  raise0 0xA022 srcEnv ([BitVec.ofNat 8 rail, BitVec.ofNat 8 zone, 0, 0] ++ le 4 amps) w

/-- A zone of a field is shorted while it is enabled: it is isolated, and the field is lost. One that is off is found on its ramp. -/
def fieldZoneShort (r : Rail) (code : Nat) (f : FieldIx) (amps : Nat) (w : W9) : W9 :=
  let b := zoneBit r
  let st := rdF w (Reg.fieldPwr f.val) b (b - 1)
  if st = 1 ∨ st = 2 then
    let w := noteIsolated code f.val f.val amps (wrF (Reg.fieldPwr f.val) b (b - 1) 3 w)
    let w := if code = 3 then modField f (fun s => { s with stackFailed := true }) w else w
    loseField f 5 w
  else w

/-- The VLINK zone of a port is shorted: the port goes DOWN and stays there. -/
def portZoneShort (p : PortIx) (amps : Nat) (w : W9) : W9 :=
  if portIsolated w p then w
  else
    let w := noteIsolated 2 p.val (48 + p.val) amps w
    wr64 (Reg.laneMap p.val) 0 (setPort p 0 0 (modPort p (fun s => { PortS.init with failed := s.failed, xferSeq := s.xferSeq }) w))

/-- ZONE_SHORT (R446, Table 12.5): a short of VAUX takes the module's power. -/
def zoneShort (r : Rail) (zone amps : Nat) (w : W9) : W9 :=
  if !booted w then w
  else match r with
  | .vlogic => if zone < 48 then fieldZoneShort .vlogic 0 (Fin.ofNat 48 zone) amps w else w
  | .varray => if zone < 48 then fieldZoneShort .varray 1 (Fin.ofNat 48 zone) amps w else w
  | .vlink => if zone < 8 then portZoneShort (Fin.ofNat 8 zone) amps w else w
  | .vmif => if zone < 48 then fieldZoneShort .vmif 3 (Fin.ofNat 48 zone) amps w else w
  | .vaux => inputCutoff w

/-- ZONE_SHORT. -/
def execZoneShort (r : Rail) (zone amps : Nat) (s : State) : Host.Outcome State Fault Refusal := lift (zoneShort r zone amps) s

end Sys2Proof.Machine
end

