-- ==== Sys2Proof/Machine/Envelope.lean ====
section
/-! DEFINITION. The power envelope (spec/13_thermal_envelope.md R468 to R485): caps and their precedence, the class-0 release, actuators,
floors and hold. -/

namespace Sys2Proof.Machine

open Sys2Proof

/-! ## Caps (R468 to R471) -/

/-- C_th: THERMAL_CAP. -/
def capTh (w : W9) : Nat := rdF w Reg.thermalCap 15 0
/-- Set C_th. -/
def setCapTh (c : Nat) (w : W9) : W9 := wrF Reg.thermalCap 15 0 c w
/-- CLASS0_FLOOR. -/
def floor0 (w : W9) : Nat := rdF w Reg.class0Floor 15 0
/-- RUN_FLOOR. -/
def runFloor (w : W9) : Nat := rdF w Reg.runFloor 15 0
/-- C: CAP_IN_FORCE. -/
def capNow (w : W9) : Nat := rdF w Reg.capInForce 15 0
/-- The host cap H, 0 when none. -/
def hostCap (w : W9) : Nat := rdF w Reg.hostCap 15 0
/-- An emergency is latched (R486). -/
def emergency (w : W9) : Bool := rdB w Reg.envStatus 15
/-- Set ENV_STATUS.STATE. -/
def setEnv (st : Nat) (w : W9) : W9 := wrF Reg.envStatus 31 29 st w

/-- The class-0 streams that are work of this W9: those it owns or shadows (R469); one it has handed off is the twin's. -/
def class0Work (w : W9) : List StreamIx :=
  (class0s w).filter (fun s => !((streamOf w s).handedOff && decide ((streamOf w s).state = .ending)))

/-- The W9 carries class-0 work (R469). -/
def carries0 (w : W9) : Bool := !(class0Work w).isEmpty

/-- A forced host cap below CLASS0_FLOOR meets class-0 work: it waits for the class-0 release (R470). -/
def forcePending (w : W9) : Bool :=
  carries0 w && rdB w Reg.hostCap 31 && decide (0 < hostCap w) && decide (hostCap w < floor0 w)

/-- The request is clamped to CLASS0_FLOOR (R469). -/
def clamped (w : W9) : Bool := carries0 w && decide (capExt w < floor0 w) && !forcePending w

/-- C_ext with what binds it: 0 maximum, 1 facility, 2 host, 4 class-0 floor (R469, R470). -/
def capExtBind (w : W9) : Nat × Nat :=
  if clamped w || forcePending w then (floor0 w, 4)
  else
    let x := capExt w
    (x, if x = 34000 then 0 else if x = rdF w Reg.facilityCap 15 0 then 1 else 2)

/-- The cap in force with what binds it: 3 thermal, 5 emergency clamp (R469). -/
def capBind (w : W9) : Nat × Nat :=
  let a := capExtBind w
  let a := if capTh w < a.1 then (capTh w, 3) else a
  if emergency w && decide (8500 < a.1) then (8500, 5) else a

/-! ## The class-0 release (R480) -/

/-- The class-0 streams this W9 owns. -/
def own0 (w : W9) : List StreamIx := (class0Work w).filter (fun s => !w.pair.shadows.contains s)

/-- Class-0 streams end with the thermal ending: ENDED_THERMAL. -/
def endThermal (l : List StreamIx) (w : W9) : W9 := forEach l (fun s w => endStream s 0x21 w) w

/-- What a release does at once: each shadow for the partner ends as for a mismatch without self-test, and a solo W9 with cause 1 or 2
ends its own streams. A paired W9 hands its own off at their next hand-over. -/
def releaseNow (cause : Fin 3) (w : W9) : W9 :=
  let w := forEach w.pair.shadows (fun s w => mismatch s ((streamOf w s).length + 1) true w) w
  if !paired w ∧ cause ≠ 0 then endThermal (own0 w) w else w

/-- A class-0 release starts (R480): RELEASING and event 0xB004. One that waits for the host's CANCELs gives way to a thermal cause
(DEDUCED, log entry 40). -/
def startRelease (cause : Fin 3) (w : W9) : W9 :=
  let go := match w.env.release with
    | none => true
    | some r => decide (r.cause = 0) && decide (cause ≠ 0)
  if go then
    let t := now w
    let n := (class0Work w).length
    let w := wrB Reg.envStatus 14 true { w with env := { w.env with release := some ⟨cause, t, n⟩ } }
    releaseNow cause (raise0 0xB004 srcEnv ([BitVec.ofNat 8 cause.val, 0, 0, 0] ++ le 4 n) w)
  else w

/-- CLASS0_RELEASE_HANDOFF_TIMEOUT (R480): in a pair, 2 ms after a release with cause 1 or 2 began, a stream not handed off ends. -/
def releaseTimeout (s : StreamIx) (w : W9) : W9 := match w.env.release with
  | none => w
  | some r =>
    if r.cause ≠ 0 ∧ r.started + 2000000 ≤ now w ∧ paired w ∧ (own0 w).contains s ∧ (streamOf w s).state ≠ .ending then endStream s 0x21 w
    else w

/-- CLASS0_RELEASE_HANDOFF_TIMEOUT. -/
def execClass0ReleaseHandoffTimeout (st : StreamIx) (s : State) : Host.Outcome State Fault Refusal := lift (releaseTimeout st) s

/-- CLAMPED_CLASS0 and FORCE_PENDING as they stand, with CLAMP_COUNT and event 0xB002 for a request newly clamped (R469, R470). -/
def showClamp (w : W9) : W9 :=
  let c := clamped w
  let req := capExt w
  let fl := floor0 w
  let fresh := c && decide (w.env.clampReq ≠ some req)
  let w := wrB Reg.envStatus 12 (forcePending w) (wrB Reg.envStatus 13 c w)
  let w := { w with env := { w.env with clampReq := if c then some req else none } }
  if fresh then raise0 0xB002 srcEnv (le 4 req ++ le 4 fl) (inc Reg.clampCount 1 w) else w

/-- The cap in force and BINDING, with event 0xB001 where C changes (R469). -/
def showCap (w : W9) : W9 :=
  let (c, b) := capBind w
  let old := capNow w
  let w := wrF Reg.envStatus 3 0 b (wrF Reg.capInForce 15 0 c w)
  if c = old then w else raise0 0xB001 srcEnv (le 4 c ++ [BitVec.ofNat 8 b]) w

/-- C is formed (R469), and the releases that it calls for start: a forced cap, or C_th below the floor. -/
def formCaps (w : W9) : W9 :=
  let w := if forcePending w then startRelease 0 w else w
  let w := if carries0 w && decide (capTh w < floor0 w) then startRelease 2 w else w
  showCap (showClamp w)

/-- CLASS0_RELEASE_COMPLETE (R480): no class-0 work remains: event 0xB005, and a forced cap that waited applies (R470). -/
def releaseComplete (w : W9) : W9 := match w.env.release with
  | none => w
  | some r =>
    if carries0 w then w
    else
      let w := wrB Reg.envStatus 14 false { w with env := { w.env with release := none } }
      formCaps (raise0 0xB005 srcEnv ([0, 0, 0, 0] ++ le 4 r.count) w)

/-- CLASS0_RELEASE_COMPLETE. -/
def execClass0ReleaseComplete (s : State) : Host.Outcome State Fault Refusal := lift releaseComplete s

/-- HOST_CAP_WRITE (R470). -/
def hostCapWrite (v : Word32) (w : W9) : W9 :=
  let c := fieldOf v 15 0
  if !hostAnswers w || safeMode w then w
  else if c = 0 ∨ (5000 ≤ c ∧ c ≤ 34000) then wr Reg.hostCap (v &&& 0x8000FFFF) w
  else raise0 0xB003 srcEnv (le 4 v.toNat) (wrB Reg.envErr 2 true w)

/-- HOST_CAP_WRITE. -/
def execHostCapWrite (value : Word32) (s : State) : Host.Outcome State Fault Refusal := lift (hostCapWrite value) s

/-! ## Floors (R478) -/

/-- The power-model terms in force: the option block's until the image has run 100 ms, then the largest measured. -/
def modelTerms (w : W9) : Nat × Nat × Nat :=
  if imageRuns w && decide (w.env.imageSince + 100000000 ≤ now w) then (w.env.pFix, w.env.pDec, w.env.pPf) else w.env.pNom

/-- CLASS0_FLOOR of the terms. -/
def class0Floor (m : Nat × Nat × Nat) (tb sf : Nat) : Nat :=
  min 34000 (cdiv (105 * (2 * m.1 * (tb + sf) + (2 * m.2.1 + m.2.2) * tb)) (200 * (tb + sf)))

/-- Both floors (R478). With no image running RUN_FLOOR is 0 and CLASS0_FLOOR 34,000. -/
def setFloors (w : W9) : W9 :=
  if imageRuns w then
    let m := modelTerms w
    wr Reg.runFloor (BitVec.ofNat 32 (min 34000 (cdiv (105 * m.1) 100)))
      (wr Reg.class0Floor (BitVec.ofNat 32 (class0Floor m (beatNs w) (sFloor w))) w)
  else wr Reg.runFloor 0 (wr Reg.class0Floor 34000 w)

/-! ## Actuators (R472 to R477, Table 13.4) -/

/-- The ranges of Table 13.4 are the class-0 ones: while the W9 carries class-0 work, and while a release runs (R480). -/
def ranges0 (w : W9) : Bool := carries0 w || w.env.release.isSome

/-- The lowest pace of step 1. -/
def paceEnd (w : W9) : Nat := if ranges0 w then 4 else 1

/-- The end of the stretch's range (R473), extension aside, which each beat takes off its own. -/
def stretchEnd (w : W9) : Nat := if ranges0 w then sFloor w else (timingOf w).beatMax - beatNs w

/-- A step of the stretch: 1/64 of its range. DESIGN CHOICE (log entry 41): rounded down, at least 1 cycle. -/
def stretchStep (w : W9) : Nat := max 1 (stretchEnd w / 64)

/-- The power that the model gives for a pace and a stretch exceeds 99% of C (R476, R478). -/
def modelOver (w : W9) (p s : Nat) : Bool :=
  let (fix, dec, pf) := modelTerms w
  let tb := beatNs w
  decide (99 * capNow w * 8 * (tb + s) < 100 * (8 * fix * (tb + s) + (8 * dec + pf * p) * tb))

/-- The settings for C, in the order of Table 13.4: the highest pace, then the least stretch, that the model fits under 99% of C (R477). -/
def settingsFor (w : W9) : Nat × Nat :=
  let lo := paceEnd w
  let hi := stretchEnd w
  match ((List.range (9 - lo)).map (fun i => 8 - i)).find? (fun p => !modelOver w p 0) with
  | some p => (p, 0)
  | none => match ((List.range 64).map (fun k => min hi ((k + 1) * stretchStep w))).find? (fun s => !modelOver w lo s) with
    | some s => (lo, s)
    | none => (lo, hi)

/-- The stretch the manager has set last: a change announced to the twin and not yet in force, or the one in force. -/
def stretchSet (w : W9) : Nat := match w.pair.nextStretch with
  | some e => e.1
  | none => w.env.stretch

/-- Set the pace: it applies from the next beat. -/
def setPace (p : Nat) (w : W9) : W9 := { w with env := { w.env with pace := p } }

/-- Set the stretch (R406, R477): PAIRED, it is announced with a first pair beat T_lead ahead, never above S_FLOOR. -/
def setStretch (v : Nat) (w : W9) : W9 :=
  if v = stretchSet w then w
  else if paired w then
    let b := pairBeat w + tLead w
    sendTwins (.stretch (min v (sFloor w)) b) { w with pair := { w.pair with nextStretch := some (v, b) } }
  else { w with env := { w.env with stretch := v } }

/-- The highest control value among a field's hot spots (R461); none while no sensor has a value. -/
def fieldHot (w : W9) (f : FieldIx) : Option Int :=
  ((List.range 4).map (fun q => BitVec.ofNat 16 (rdF w (Reg.pairCtl (4 * f.val + q)) 15 0))).foldl
    (fun (m : Option Int) (b : BitVec 16) => if b = 0x8000 then m else match m with
      | none => some b.toInt
      | some x => some (max x b.toInt)) none

/-- A parkable field that can be ordered parked now and has not been. -/
def openParkable (w : W9) : List FieldIx := allFields.filter (fun f => canPark w f && !(fieldState w f).parkOrder)

/-- The field that comes first by hot spot; the lowest of equals. -/
def pickField (w : W9) (hotter : Bool) : List FieldIx → Option FieldIx
  | [] => none
  | f :: r => match pickField w hotter r with
    | none => some f
    | some g =>
      let a := (fieldHot w f).getD (-0x8000)
      let b := (fieldHot w g).getD (-0x8000)
      some (if (if hotter then a < b else b < a) then g else f)

/-- When step 2 reached the end of its range, and when it was last seen below it. -/
def noteStretchEnd (w : W9) : W9 :=
  let t := now w
  { w with env := { w.env with stretchEndSince := if stretchSet w < stretchEnd w then none else some (w.env.stretchEndSince.getD t) } }

/-- An order of step 3. -/
def parkHottest (w : W9) : W9 := match pickField w true (openParkable w) with
  | some f =>
    let t := now w
    parkOrder f { w with env := { w.env with lastPark := t } }
  | none => w

/-- One step further down Table 13.4 (R475, R476). -/
def stepDown (w : W9) : W9 :=
  let t := now w
  let long : Bool := match w.env.stretchEndSince with | some x => decide (x + 100000000 ≤ t) | none => false
  if paceEnd w < w.env.pace then setPace (w.env.pace - 1) w
  else if stretchSet w < stretchEnd w then
    if w.pair.nextStretch.isSome then w else setStretch (min (stretchEnd w) (stretchSet w + stretchStep w)) w
  else if !(openParkable w).isEmpty then
    if long = true ∧ w.env.lastPark + 10000000 ≤ t then parkHottest w else w
  else if !ranges0 w ∧ 0 < w.env.pace then setPace (w.env.pace - 1) w
  else w

/-- The fields that parking has stopped or gated and an unpark order can bring back. -/
def parkedFields (w : W9) : List FieldIx := allFields.filter (fun f =>
  rdB64 w Reg.imgParkable f.val && !rdB64 w Reg.imgUnused f.val && !fieldLostNow w f &&
    (parkState w f == 3 || (parkState w f == 2 && !clockRuns w f)))

/-- The coolest parked field with every hot spot at 90 °C or below, after 100 ms of room (R475). -/
def unparkCoolest (w : W9) : W9 :=
  let t := now w
  let room : Bool := match w.env.roomSince with | some x => decide (x + 100000000 ≤ t) | none => false
  let cool := (parkedFields w).filter (fun f => decide ((fieldHot w f).getD 0 ≤ 1440))
  if room = true ∧ w.env.lastPark + 10000000 ≤ t then
    match pickField w false cool with
    | some f => unparkOrder f { w with env := { w.env with lastPark := t } }
    | none => w
  else w

/-- One step back up Table 13.4 (R475, R476). -/
def stepUp (w : W9) : W9 :=
  if !ranges0 w ∧ w.env.pace = 0 then setPace 1 w
  else if !(parkedFields w).isEmpty then unparkCoolest w
  else if 0 < stretchSet w then if w.pair.nextStretch.isSome then w else setStretch (stretchSet w - stretchStep w) w
  else if w.env.pace < 8 then setPace (w.env.pace + 1) w
  else w

/-- Settings outside the ranges in force come back into them (R473, R479). -/
def clampSettings (w : W9) : W9 :=
  let w := setPace (max w.env.pace (if ranges0 w then 4 else 0)) w
  if stretchEnd w < stretchSet w then setStretch (stretchEnd w) w else w

/-- Power is below 95% of C, and the model leaves room, since when (R475, R476). -/
def noteLow (power : Nat) (room : Bool) (w : W9) : W9 :=
  let t := now w
  let low := decide (100 * power < 95 * capNow w)
  { w with env := { w.env with
    lowSince := if low then some (w.env.lowSince.getD t) else none
    roomSince := if room then some (w.env.roomSince.getD t) else none } }

/-- A parkable field with a junction above 100 °C for 10 ms is parked, whatever the step (R475). -/
def parkHot (w : W9) : W9 :=
  let t := now w
  forEach ((openParkable w).filter (fun f => match (fieldState w f).hotSince with
    | some x => decide (x + 10000000 ≤ t)
    | none => false)) parkOrder w

/-- One decision of the actuators (R476): after a change of C the settings for it (R477), else one step. -/
def moveActuators (changed : Bool) (power : Nat) (room : Bool) (w : W9) : W9 :=
  let w := noteStretchEnd (clampSettings (noteLow power room (parkHot w)))
  if changed then
    let p := settingsFor w
    setStretch p.2 (setPace p.1 w)
  else if 99 * capNow w < 100 * power then stepDown w
  else if room && (match w.env.lowSince with | some x => decide (x + 10000000 ≤ now w) | none => false) then stepUp w
  else w

/-! ## Hold (R481 to R485) -/

/-- The fields that hold stops: neither parked nor lost nor unused. -/
def holding (w : W9) : List FieldIx := allFields.filter (fun f => parkState w f == 0 && fieldStateSeen w f f == 0)

/-- Every field withholds its pulses for hold, or gives them back. -/
def holdPulses (b : Bool) (w : W9) : W9 := forEach allFields (fun f w => setWithheld f (fun x => { x with hold := b }) w) w

/-- HOLD_ENTRY (R482 step 1). A STOPPED field is gated at once (Table 12.7). -/
def enterHold (w : W9) : W9 :=
  let t := now w
  let w := { w with env := { w.env with holdStart := t, savedPace := w.env.pace, savedStretch := w.env.stretch } }
  let w := forEach (allFields.filter (fun f => parkState w f == 2 && !clockRuns w f && !fieldLostNow w f)) gateField w
  holdPulses true (setEnv 1 w)

/-- HOLD_QUIESCED (R482 steps 3 and 4): every field and every gateway queue is idle and no field is draining, waking or reloading: the stacks
enter SELF, the clocks stop, the zones go to retention, and the W9 holds. -/
def holdQuiesced (w : W9) : W9 :=
  if envState w = 1 ∧ (holding w).all (fieldIdle w) ∧ w.gws.all (fun e => e.2.queue.isEmpty) ∧
      !allFields.any (fun f => ([1, 4, 5].contains (parkState w f)) && !fieldLostNow w f) then
    let n := now w - w.env.holdStart
    let fs := holding w
    let w := forEach allFields (fun f w => modField f (fun s => { s with stackSelf := true }) w) { w with env := { w.env with selfStacks := true } }
    let w := forEach fs (fun f w => setZones f 2 (setClock f false w)) w
    raise0 0xB050 srcEnv (le 4 n) (inc Reg.holdCount 1 (setEnv 2 w))
  else w

/-- HOLD_QUIESCED. -/
def execHoldQuiesced (s : State) : Host.Outcome State Fault Refusal := lift holdQuiesced s

/-- HOLD_ABANDON (R482): 200 µs after step 1 a field has not quiesced: hold is given up, the settings come back, and the field is hung
(R537). -/
def holdAbandon (f : FieldIx) (w : W9) : W9 :=
  if envState w = 1 ∧ w.env.holdStart + 200000 ≤ now w ∧ (holding w).contains f ∧ !fieldIdle w f then
    let e := w.env
    let w := raise0 0xB052 srcEnv [BitVec.ofNat 8 f.val] (setEnv 0 (holdPulses false w))
    let w := beatStart { w with env := { w.env with pace := e.savedPace, stretch := e.savedStretch } }
    hangDetect 4 (some f) w
  else w

/-- HOLD_ABANDON. -/
def execHoldAbandon (f : FieldIx) (s : State) : Host.Outcome State Fault Refusal := lift (holdAbandon f) s

/-- HOLD_EXIT (R484): the decision d; the stacks are ordered out of SELF. The settings for C wait to be reached. -/
def exitHold (w : W9) : W9 :=
  let t := now w
  let p := settingsFor w
  setEnv 3 { w with env := { w.env with
    holdDecision := t, holdStep := 0, savedPace := p.1, savedStretch := p.2, selfStacks := false } }

/-- The mark of an exit that stops at the end of step 3. -/
def exitStops : Nat := 100

/-- A field's place among the held fields. -/
def holdRank (w : W9) (f : FieldIx) : Nat := ((holding w).filter (fun g => decide (g.val < f.val))).length

/-- When the field's zones begin to ramp. -/
def rampDue (w : W9) (f : FieldIx) : Nat := w.env.holdDecision + 10000 + 20000 * holdRank w f

/-- When the field's clock restarts: 250 µs apart, from 300 µs after the last ramp began. -/
def clockDue (w : W9) (f : FieldIx) : Nat :=
  w.env.holdDecision + 10000 + 20000 * ((holding w).length - 1) + 300000 + 250000 * holdRank w f

/-- When the beat start of step 4 falls. -/
def startDue (w : W9) : Nat :=
  w.env.holdDecision + 10000 + 20000 * ((holding w).length - 1) + 300000 + 250000 * ((holding w).length - 1) + 50000

/-- Step 1: every stack leaves SELF, and what waited for it is served. -/
def leaveSelf (w : W9) : W9 := forEach allFields stackLeaveSelf w

/-- Step 2. -/
def rampZone (f : FieldIx) (w : W9) : W9 :=
  if (holding w).contains f ∧ rampDue w f ≤ now w ∧ !allFields.any (fun g => (fieldState w g).stackSelf) then setZones f 1 w else w

/-- Step 3. -/
def restartClock (f : FieldIx) (w : W9) : W9 :=
  if (holding w).contains f ∧ clockDue w f ≤ now w ∧ logicRuns w f then setClock f true w else w

/-- The settings of the k-th half millisecond after the beat start: pace 1 + k and duty (1 + k)/8, no further than those for C. -/
def exitSettings (k : Nat) (w : W9) : W9 :=
  let e := w.env
  { w with env := { e with pace := min (1 + k) e.savedPace, stretch := max (beatNs w * (7 - k) / (1 + k)) e.savedStretch, holdStep := k + 1 } }

/-- Both settings have reached those for C. -/
def exitReached (w : W9) : Bool := w.env.pace == w.env.savedPace && w.env.stretch == w.env.savedStretch

/-- Hold is left: event 0xB051. -/
def holdLeft (w : W9) : W9 :=
  let n := now w - w.env.holdDecision
  raise0 0xB051 srcEnv (le 4 n) (setEnv 0 (wr Reg.holdExitLast (BitVec.ofNat 32 n) w))

/-- Step 4: the beat start, at pace 1 and duty 1/8; an emergency since the decision takes the W9 back into hold here (Table 13.5). -/
def exitStart (w : W9) : W9 :=
  let k := w.env.holdStep
  if (k = 0 ∨ k = exitStops) ∧ startDue w ≤ now w ∧ (holding w).all (clockRuns w) then
    if k = exitStops then enterHold w else beatStart (holdPulses false (exitSettings 0 w))
  else w

/-- Step 5: the pace and the duty rise every 0.5 ms. -/
def raiseDuty (w : W9) : W9 :=
  let k := w.env.holdStep
  if 1 ≤ k ∧ k ≠ exitStops ∧ startDue w + 500000 * k ≤ now w then
    let w := exitSettings (min k 7) w
    if exitReached w ∨ 7 ≤ k then holdLeft w else w
  else w

/-- HOLD_EXIT_STEP (R484). -/
def holdExitStep (k : HoldStep) (w : W9) : W9 :=
  if envState w = 3 then match k with
    | .leaveSelf => leaveSelf w
    | .rampZone f => rampZone f w
    | .restartClock f => restartClock f w
    | .beatStart => exitStart w
    | .raiseDuty => raiseDuty w
  else w

/-- HOLD_EXIT_STEP. -/
def execHoldExitStep (k : HoldStep) (s : State) : Host.Outcome State Fault Refusal := lift (holdExitStep k) s

/-! ## ENVELOPE_DECISION (R476, R477, R481) -/

/-- The W9 is frozen: no order, and pace and stretch stay (R563). -/
def frozen (w : W9) : Bool := rdB w Reg.dbgStatus 30

/-- What a decision does with hold and the actuators, in the state that C found. -/
def decideSteps (changed : Bool) (power : Nat) (room : Bool) (w : W9) : W9 :=
  if envState w = 2 then if 11 * runFloor w ≤ 10 * capNow w then exitHold w else w
  else if envState w ≠ 0 ∨ frozen w then w
  else if capNow w < runFloor w ∧ !carries0 w then enterHold w
  else moveActuators changed power room w

/-- ENVELOPE_DECISION (every 100 µs): POWER_5MS, the cap in force, and one step of the actuators. A solo W9 under a thermal release ends
class-0 streams that have come since. -/
def envelopeDecision (power : Nat) (room : Bool) (w : W9) : W9 :=
  if !booted w || envState w == 4 then w
  else
    let w := wrF Reg.power5ms 15 0 power w
    let c := capNow w
    let w := formCaps w
    let w := match w.env.release with
      | some r => if r.cause ≠ 0 ∧ !paired w then endThermal ((own0 w).filter (fun s => decide ((streamOf w s).state ≠ .ending))) w else w
      | none => w
    decideSteps (decide (capNow w ≠ c)) power room w

/-- ENVELOPE_DECISION. -/
def execEnvelopeDecision (power5ms : Nat) (modelRoom : Bool) (s : State) : Host.Outcome State Fault Refusal :=
  lift (envelopeDecision power5ms modelRoom) s

end Sys2Proof.Machine
end

