-- ==== Sys2Proof/Machine/Thermal.lean ====
section
/-! DEFINITION. Sensors, thermal resistance, emergency and trip (spec/13_thermal_envelope.md R459 to R467, R486 to R490;
spec/15_faults_recovery.md R547). Temperatures are in 1/16 degree. -/

namespace Sys2Proof.Machine

open Sys2Proof

/-! ## Control values (R460 to R463) -/

/-- A temperature; none for 0x8000. -/
def tempOf (b : BitVec 16) : Option Int := if b = 0x8000 then none else some b.toInt
/-- As registers and records carry it. -/
def tempWord (t : Option Int) : BitVec 16 := match t with | some x => BitVec.ofInt 16 x | none => 0x8000

/-- The sample of sensor a or b of pair `i`, 0x8000 before the first. -/
def rawOf (w : W9) (i : Nat) (b : Bool) : Option Int :=
  tempOf (BitVec.ofNat 16 (if b then rdF w (Reg.pairRaw i) 15 0 else rdF w (Reg.pairRaw i) 31 16))

/-- A sensor is retired. -/
def retired (w : W9) (i : Nat) (b : Bool) : Bool := rdB w (Reg.pairCtl i) (if b then 17 else 16)

/-- A sample that counts. -/
def sampleOf (w : W9) (i : Nat) (b : Bool) : Option Int := if retired w i b then none else rawOf w i b

/-- The control value that a pair's own sensors give: the mean within 4.0 °C, rounded down (DEDUCED, log entry 42), else the higher; a lone
survivor's with the guard band of 2.0 °C. -/
def ownControl (w : W9) (i : Nat) : Option Int :=
  let g : Int := if retired w i false || retired w i true then 32 else 0
  match sampleOf w i false, sampleOf w i true with
  | some x, some y => some (if (x - y).natAbs ≤ 64 then (x + y).fdiv 2 else max x y)
  | some x, none => some (x + g)
  | none, some y => some (y + g)
  | none, none => none

/-- Both sensors of a pair are retired. -/
def sensorless (w : W9) (i : Nat) : Bool := retired w i false && retired w i true

/-- The highest of some values. -/
def maxTemp (l : List (Option Int)) : Option Int := l.foldl (fun m x => match m, x with
  | some a, some b => some (max a b)
  | none, x => x
  | m, none => m) none

/-- A value plus 5.0 °C. -/
def plusFive (t : Option Int) : Option Int := t.map (fun x => x + 80)

/-- The control value of a field hot spot (Table 13.2). -/
def spotControl (w : W9) (i : Nat) : Option Int :=
  if sensorless w i then
    plusFive (maxTemp (((List.range 4).filter (fun q => decide (q ≠ i % 4))).map (fun q => ownControl w (i / 4 * 4 + q))))
  else ownControl w i

/-- The control value of pair `i` (R461, Table 13.2). -/
def controlOf (w : W9) (i : Nat) : Option Int :=
  if i < 192 then spotControl w i
  else if !sensorless w i then ownControl w i
  else if i < 196 then plusFive (maxTemp ((List.range 192).map (spotControl w)))
  else if i < 244 then plusFive (maxTemp (((List.range 48).filter (fun f => decide (196 + f ≠ i))).map (fun f => ownControl w (196 + f))))
  else if i = 244 then tempOf (BitVec.ofNat 16 (rdF w Reg.inletMax 15 0))
  else none

/-- The control value that PAIR_i_CTL shows. -/
def shownControl (w : W9) (i : Nat) : Option Int := tempOf (BitVec.ofNat 16 (rdF w (Reg.pairCtl i) 15 0))

/-- The hottest of `n` pairs from `a`: the pair and its value; the lowest of equals. -/
def hottestOf (w : W9) (a : Nat) : Nat → Option (Nat × Int)
  | 0 => none
  | n + 1 => match hottestOf w a n, shownControl w (a + n) with
    | some x, some v => some (if x.2 < v then (a + n, v) else x)
    | none, some v => some (a + n, v)
    | m, none => m

/-- The hottest junction (R461). -/
def hotJunction (w : W9) : Option (Nat × Int) := hottestOf w 0 196
/-- The hottest stack. -/
def hotStack (w : W9) : Option (Nat × Int) := hottestOf w 196 48

/-- A value exceeds a threshold. -/
def above (x : Option (Nat × Int)) (t : Int) : Bool := match x with | some v => decide (t < v.2) | none => false

/-- PAIR_i_RAW of each pair read. -/
def storeRaw (rs : List (Nat × BitVec 16 × BitVec 16)) (w : W9) : W9 :=
  forEach (rs.filter (fun r => decide (r.1 < 246))) (fun r w => wr (Reg.pairRaw r.1) (r.2.1 ++ r.2.2) w) w

/-- Every control value, and the registers that show the hottest and the coolant. -/
def showControls (w : W9) : W9 :=
  let w := forEach (List.range 246) (fun i w => wrF (Reg.pairCtl i) 15 0 (tempWord (controlOf w i)).toNat w) w
  let put (off : Nat) (x : Option (Nat × Int)) (base : Nat) (w : W9) : W9 := match x with
    | some v => wr off (BitVec.ofNat 32 ((v.1 - base) * 0x10000 + (tempWord (some v.2)).toNat)) w
    | none => wr off 0x8000 w
  let w := put Reg.stackHottest (hotStack w) 196 (put Reg.hottest (hotJunction w) 0 w)
  wr Reg.coolantT (tempWord (shownControl w 245) ++ tempWord (shownControl w 244)) w

/-! ## Pairs that disagree (R462) -/

/-- A pair is flagged: SENSOR_FLAGS, ENV_ERR, event 0xB060 and its check (Table 15.3). -/
def flagPair (i : Nat) (w : W9) : W9 :=
  let w := inc Reg.sensorFlags 1 (wrB Reg.envErr 0 true (wrB (Reg.pairCtl i) 18 true w))
  let w := raise0 0xB060 srcHub (le 2 i ++ le 2 (rdF w (Reg.pairRaw i) 31 16) ++ le 2 (rdF w (Reg.pairRaw i) 15 0)) w
  queueTest (.sensorPair (Fin.ofNat 246 i)) 7 w

/-- One sample of a pair: the samples in a row with a difference above 4.0 °C. A pair that has passed its check is flagged again only
after it has agreed for 1 s. -/
def judgePair (i : Nat) (w : W9) : W9 := match sampleOf w i false, sampleOf w i true with
  | some x, some y =>
    let t := now w
    let d := w.env
    if (x - y).natAbs ≤ 64 then
      let since := if d.checked.contains i && smGet (fun _ => 0) d.agreeSince i == 0 then smPut (fun _ => 0) d.agreeSince i (t + 1) else d.agreeSince
      { w with env := { d with disagree := smPut (fun _ => 0) d.disagree i 0, agreeSince := since } }
    else
      let a := smGet (fun _ => 0) d.agreeSince i
      let freed := decide (0 < a) && decide (a + 1000000000 ≤ t + 1)
      let n := smGet (fun _ => 0) d.disagree i + 1
      let w := { w with env := { d with
        disagree := smPut (fun _ => 0) d.disagree i n, agreeSince := smPut (fun _ => 0) d.agreeSince i 0
        checked := if freed then d.checked.filter (fun k => decide (k ≠ i)) else d.checked } }
      if 10 ≤ n ∧ !w.env.checked.contains i ∧ !rdB w (Reg.pairCtl i) 18 then flagPair i w else w
  | _, _ => w

/-- A sensor is retired: ENV_ERR and event 0xB061. -/
def retireSensor (i : Nat) (b : Bool) (w : W9) : W9 :=
  if retired w i b then w
  else raise0 0xB061 srcHub (le 2 i ++ [BitVec.ofNat 8 (b2n b)]) (wrB Reg.envErr 1 true (wrB (Reg.pairCtl i) (if b then 17 else 16) true w))

/-- A pair left without a sensor: event 0xB062; a field with no hot spot left that has one is lost with cause 6 (R463). -/
def noteSensorless (i : Nat) (w : W9) : W9 :=
  let w := raise0 0xB062 srcHub (le 2 i) w
  if i < 192 ∧ (List.range 4).all (fun q => sensorless w (i / 4 * 4 + q)) then loseField (Fin.ofNat 48 (i / 4)) 6 w else w

/-- Sensors of a pair that fail their check are retired; a pair that passes keeps both (R462, R463). -/
def checkPair (i : Nat) (passA passB : Bool) (w : W9) : W9 :=
  let had := sensorless w i
  let w := wrB (Reg.pairCtl i) 18 false w
  let w := if passA && passB then
      { w with env := { w.env with
        checked := if w.env.checked.contains i then w.env.checked else i :: w.env.checked
        disagree := smPut (fun _ => 0) w.env.disagree i 0, agreeSince := smPut (fun _ => 0) w.env.agreeSince i 0 } }
    else
      let w := if passA then w else retireSensor i false w
      if passB then w else retireSensor i true w
  if !had ∧ sensorless w i = true then noteSensorless i w else w

/-- SENSOR_REFERENCE_CHECK (R462): a flagged pair against the on-die reference. -/
def referenceCheck (i : Fin 246) (passA passB : Bool) (w : W9) : W9 :=
  if booted w && rdB w (Reg.pairCtl i.val) 18 then checkPair i.val passA passB w else w

/-- SENSOR_REFERENCE_CHECK. -/
def execSensorReferenceCheck (i : Fin 246) (passA passB : Bool) (s : State) : Host.Outcome State Fault Refusal :=
  lift (referenceCheck i passA passB) s

/-! ## Emergency and limit response (R486, R487) -/

/-- An emergency latches (R486): C is clamped, and class-0 work released. -/
def latchEmergency (kind n : Nat) (w : W9) : W9 :=
  if emergency w then w
  else
    let w := raise0 0xB030 srcEnv ([BitVec.ofNat 8 kind, 0] ++ le 2 n) (wrB Reg.envStatus 15 true w)
    let w := if envState w = 3 ∧ w.env.holdStep = 0 then { w with env := { w.env with holdStep := exitStops } } else w
    formCaps (if carries0 w then startRelease 1 w else w)

/-- The limit response (R487): C_th falls to three quarters of POWER_5MS. -/
def limitResponse (w : W9) : W9 := match hotJunction w with
  | some x =>
    raise0 0xB020 srcEnv (le 2 x.1 ++ le16s x.2) (setCapTh (min (capTh w) (3 * rdF w Reg.power5ms 15 0 / 4)) w)
  | none => w

/-! ## Thermal trip (R489, R547) -/

/-- What a trip makes of far memory: kept in self-refresh where every stack is at 95 °C or below, else lost with the VMIF zones. -/
def tripStacks (keep : Bool) (w : W9) : W9 :=
  if keep then
    wrB Reg.envStatus 10 true
      (forEach allFields (fun f w => modField f (fun s => { s with stackSelf := true }) w) { w with env := { w.env with selfStacks := true } })
  else
    let w := forEach allFields (fun f w => if rdF w (Reg.fieldPwr f.val) 27 26 = 3 then w else wrF (Reg.fieldPwr f.val) 27 26 0 w) w
    { w with mem := { w.mem with far := [], farUE := [], farCE := [], farLasting := [] } }

/-- The fields lose clock and power, and with it everything in them. -/
def tripFields (w : W9) : W9 :=
  forEach allFields (fun f w => zeroed f (clearField f (setZones f 0 (setClock f false w)))) (holdPulses true w)

/-- The steward settles the streams (R547): class-0 streams end, and with far memory lost every other. -/
def settleStreams (keep : Bool) (w : W9) : W9 :=
  let w := endThermal ((own0 w).filter (fun s => decide ((streamOf w s).state ≠ .ending))) (dropShadows (dropFlights w))
  if keep then w else forEach (liveStreams w) (fun s w => endStream s 0x24 w) w

/-- THERMAL_TRIP (R489): kind 0 junction, 1 stack. A warm reset in progress is abandoned (R506; DEDUCED, log entry 43). -/
def thermalTrip (kind pair : Nat) (v : Int) (w : W9) : W9 :=
  if envState w = 4 then w
  else
    let keep := !above (hotStack w) 1520
    let w := tellFailing 1 w
    let w := { w with rst := { w.rst with asserted := false }, dev := { w.dev with rstDone := true }, env := { w.env with release := none } }
    let w := settleStreams keep w
    let w := if paired w then unpair 1 w else w
    let w := setEnv 4 (tripStacks keep (tripFields w))
    raise0 0xB040 srcEnv ([BitVec.ofNat 8 kind, BitVec.ofNat 8 (b2n keep)] ++ le 2 pair ++ le16s v) w

/-! ## SENSOR_SAMPLE (R460, R464, Table 13.3) -/

/-- The samples of the sensors that count, keyed 2 × pair + sensor. -/
def samples (w : W9) : List (Nat × Int) :=
  (List.range 246).flatMap (fun i =>
    ((sampleOf w i false).toList.map (fun v => (2 * i, v))) ++ ((sampleOf w i true).toList.map (fun v => (2 * i + 1, v))))

/-- Rates of rise: each sample less its sample of 1 ms earlier, where there is one (R460). -/
def rates (w : W9) : List (Nat × Int) := match w.env.prevSamples[9]? with
  | none => []
  | some old => (samples w).filterMap (fun e => (old.find? (fun o => o.1 == e.1)).map (fun o => (e.1, e.2 - o.2)))

/-- A sudden stop of coolant: above 2 °C per ms on at least 4 sensors in at least 2 pairs, junction or stack. -/
def suddenStop (w : W9) : Option Nat :=
  let up := (rates w).filter (fun e => decide (e.1 < 488) && decide (32 < e.2))
  let pairs := (up.map (fun e => e.1 / 2)).dedup
  if 4 ≤ up.length ∧ 2 ≤ pairs.length then some up.length else none

/-- Since when a condition holds. -/
def since (t : Nat) (c : Bool) (o : Option Nat) : Option Nat := if c then some (o.getD t) else none

/-- The timers of Table 13.3, and the samples for the rates to come. -/
def noteTimers (w : W9) : W9 :=
  let t := now w
  let rise := (rates w).any (fun e => decide (8 < e.2))
  let e := w.env
  let w := { w with env := { e with
    overSince := since t (above (hotJunction w) 1680) e.overSince
    stackSince := since t (above (hotStack w) 1520) e.stackSince
    risingSince := if rise then t else e.risingSince
    prevSamples := (samples w :: e.prevSamples).take 10 } }
  forEach allFields (fun f w =>
    let hot := match fieldHot w f with | some v => decide (1600 < v) | none => false
    modField f (fun s => { s with hotSince := since t hot s.hotSince }) w) w

/-- A timer has run for 1 ms. -/
def forMs (w : W9) (o : Option Nat) : Bool := match o with | some t => decide (t + 1000000 ≤ now w) | none => false

/-- The limit response starts 1 ms after the junction has crossed 105 °C, and stops when it falls back. -/
def limitStarts (w : W9) : W9 :=
  let on := forMs w w.env.overSince
  let fresh := on && !w.env.limitOn
  let w := { w with env := { w.env with limitOn := on } }
  if fresh then limitResponse w else w

/-- Event 0xB012 when the inlet rises above INLET_MAX. -/
def inletEvent (before : Option Int) (w : W9) : W9 :=
  let lim := (BitVec.ofNat 16 (rdF w Reg.inletMax 15 0)).toInt
  match shownControl w 244 with
  | some v => if lim < v ∧ (match before with | some b => decide (b ≤ lim) | none => true) = true then raise0 0xB012 srcEnv (le16s v) w else w
  | none => w

/-- The decisions on a sample, the most severe first (R464). -/
def thresholds (before : Option Int) (w : W9) : W9 :=
  let j := hotJunction w
  let m := hotStack w
  if above j 1839 then thermalTrip 0 (j.getD (0, 0)).1 (j.getD (0, 0)).2 w
  else if above m 1599 then thermalTrip 1 (m.getD (0, 0)).1 (m.getD (0, 0)).2 w
  else
    let stop := suddenStop w
    let w := noteTimers w
    let w := match stop with | some n => latchEmergency 0 n w | none => w
    let w := if forMs w w.env.stackSince then latchEmergency 1 (m.getD (0, 0)).1 w else w
    inletEvent before (limitStarts w)

/-- The sensor hub runs: the W9 has booted, or a warm reset is under way (R506). -/
def hubRuns (w : W9) : Bool := booted w || (w.dev.powered && w.rst.asserted && decide (4 ≤ rdF w Reg.rstCause 7 0) && decide (rdF w Reg.rstCause 7 0 ≤ 8))

/-- SENSOR_SAMPLE (every 100 µs): `rs` lists pairs with their two samples; a pair not listed reads as before. -/
def sensorSample (rs : List (Nat × BitVec 16 × BitVec 16)) (w : W9) : W9 :=
  if !hubRuns w then w
  else
    let before := shownControl w 244
    let w := storeRaw rs w
    let w := forEach (rs.filter (fun r => decide (r.1 < 246))) (fun r w => judgePair r.1 w) w
    thresholds before (showControls w)

/-- SENSOR_SAMPLE. -/
def execSensorSample (readings : List (Nat × BitVec 16 × BitVec 16)) (s : State) : Host.Outcome State Fault Refusal :=
  lift (sensorSample readings) s

/-! ## THERMAL_EVALUATION (R465 to R467, R478, R490) -/

/-- A thermal resistance in units of 0.001 K/kW, rounded down (DEDUCED, log entry 42). -/
def rthUnits (r : Int × Nat) : Int := (r.1 * 1000000).fdiv (16 * r.2)

/-- A temperature difference over a thermal resistance, in W, rounded down; what a resistance of zero gives is open. -/
def wattsOver (d : Int) (r : Int × Nat) : Int := if r.1 = 0 then Config.openCap d else (d * r.2).fdiv r.1

/-- R_j and R_m from the means of the last 100 ms, while P is at least 8,000 W (R465). -/
def measureRth (p : Nat) (tj tm tin : Int) (w : W9) : W9 :=
  if 8000 ≤ p then
    let j : Int × Nat := (tj - tin, p)
    let m : Int × Nat := (tm - tin, p)
    wr Reg.rth (signedBits 16 (rthUnits m) ++ signedBits 16 (rthUnits j)) { w with env := { w.env with rJ := j, rM := m } }
  else w

/-- C_th (R466). -/
def evaluateCap (tin : Int) (w : W9) : W9 :=
  let prev := capTh w
  let c := min (min (wattsOver (1600 - tin) w.env.rJ) (wattsOver (1440 - tin) w.env.rM)) (min 34000 (prev + 50))
  let c := if above (hotJunction w) 1600 then min c (98 * prev / 100 : Nat) else c
  setCapTh c.toNat w

/-- RTH_HIGH (R467): set above 1.25 × RTH_J_NOM, cleared below 1.15 ×. -/
def rthHigh (w : W9) : W9 :=
  let r := w.env.rJ
  let nom := rdF w Reg.rthNom 15 0
  let x : Int := 100 * r.1 * 1000000
  let y (k : Nat) : Int := k * nom * 16 * r.2
  let on := rdB w Reg.envStatus 11
  if !on ∧ y 125 < x then raise0 0xB010 srcEnv (le16s (rthUnits r) ++ le 2 nom) (wrB Reg.envStatus 11 true w)
  else if on = true ∧ x < y 115 then raise0 0xB011 srcEnv (le16s (rthUnits r)) (wrB Reg.envStatus 11 false w)
  else w

/-- The refresh mode of every stack (R490, Table 13.2). -/
def setRefresh (w : W9) : W9 :=
  forEach allFields (fun f w =>
    let hot := match shownControl w (196 + f.val) with | some v => decide (1360 < v) | none => false
    modField f (fun s => { s with stackDouble := hot || sensorless w (196 + f.val) }) w) w

/-- The power-model terms keep the largest value measured since the image started (R478). -/
def noteTerms (fix dec pf : Nat) (w : W9) : W9 :=
  if imageRuns w then
    { w with env := { w.env with pFix := max w.env.pFix fix, pDec := max w.env.pDec dec, pPf := max w.env.pPf pf } }
  else w

/-- THERMAL_EVALUATION (every 1 ms): `means` are those of P, T_j, T_m and T_in over the last 100 ms, none while there is no sample. -/
def thermalEvaluation (means : Option (Nat × Int × Int × Int)) (fix dec pf : Nat) (w : W9) : W9 :=
  if !booted w || envState w == 4 then w
  else
    let w := match means with
      | some (p, tj, tm, tin) => rthHigh (evaluateCap tin (measureRth p tj tm tin w))
      | none => w
    let w := if w.env.limitOn then limitResponse w else w
    setRefresh (setFloors (noteTerms fix dec pf w))

/-- THERMAL_EVALUATION. -/
def execThermalEvaluation (means : Option (Nat × Int × Int × Int)) (pFix pDec pPf : Nat) (s : State) : Host.Outcome State Fault Refusal :=
  lift (thermalEvaluation means pFix pDec pPf) s

/-! ## ENV_CMD (R488, R489) -/

/-- A CLEAR command is discarded. -/
def clearRefused (w : W9) : W9 := wrB Reg.envErr 3 true w

/-- Every value of a kind is at or below a threshold. -/
def atMost (x : Option (Nat × Int)) (t : Int) : Bool := !above x t

/-- CLEAR_EMERG (R488): C_th restarts from 8,500 W. -/
def clearEmerg (w : W9) : W9 :=
  if !hostAnswers w || safeMode w then w
  else if w.env.risingSince + 100000000 ≤ now w ∧ atMost (hotJunction w) 1440 ∧ atMost (hotStack w) 1360 then
    if emergency w then formCaps (raise0 0xB031 srcEnv [] (setCapTh 8500 (wrB Reg.envStatus 15 false w))) else w
  else clearRefused w

/-- CLEAR_EMERG. -/
def execClearEmerg (s : State) : Host.Outcome State Fault Refusal := lift clearEmerg s

/-- CLEAR_TRIP (R489): a warm reset with FAR_KEPT, else the sequence of a cold reset. -/
def clearTrip (w : W9) : W9 :=
  if !hostAnswers w || safeMode w then w
  else if atMost (hotJunction w) 960 ∧ atMost (hotStack w) 960 then
    if envState w = 4 then if rdB w Reg.envStatus 10 then warmReset 8 0 0xFF none w else coldReset 9 w else w
  else clearRefused w

/-- CLEAR_TRIP. -/
def execClearTrip (s : State) : Host.Outcome State Fault Refusal := lift clearTrip s

end Sys2Proof.Machine
end

