-- ==== Sys2Proof/Machine/Attest.lean ====
section
/-! DEFINITION. The option-store commands and attestation (spec/14_reset_boot_attestation.md R507, R512, R517 to R525). -/

namespace Sys2Proof.Machine

open Sys2Proof

/-! ## The option store (R512, Tables 14.5 and 14.11) -/

/-- The first byte past the option store. -/
def flashEnd : Nat := 0x4000000

/-- A range lies where the host may erase and program (Table 14.5). -/
def optWritable (a n : Nat) : Bool := decide (a + n ≤ 0x20000) || (decide (0x1000000 ≤ a) && decide (a + n ≤ 0x1800000))

/-- A length that READ and PROGRAM take. -/
def optLenOk (n : Nat) : Bool := decide (4 ≤ n) && decide (n ≤ 4096) && decide (n % 4 = 0)

/-- OPT_ADDR and OPT_LEN. -/
def optAddr (w : W9) : Nat := rdF w Reg.optAddr 25 0
/-- OPT_LEN. -/
def optLen (w : W9) : Nat := rdF w Reg.optLen 12 0

/-- The bytes an operation concerns: a sector for ERASE (OP 2). -/
def optRange (op : BitVec 2) (w : W9) : Nat × Nat := (optAddr w, if op = 2 then 0x10000 else optLen w)

/-- Nothing of R512 refuses the operation. -/
def optOk (op : BitVec 2) (w : W9) : Bool :=
  let (a, n) := optRange op w
  w.opt.op.isNone &&
    (if op = 2 then decide (a % 0x10000 = 0) && optWritable a n
     else optLenOk n && (decide (op = 1) || optWritable a n))

/-- READ, ERASE or PROGRAM is ordered, in any state of the W9: BUSY, or CMD_REJECT (R512). -/
def optCommand (op : BitVec 2) (w : W9) : W9 :=
  if !hostAnswers w then w
  else if optOk op w then
    let (a, n) := optRange op w
    wrB Reg.optStatus 31 true { w with opt := { w.opt with op := some (op, a, n) } }
  else wrB Reg.optStatus 26 true w

/-- READ. -/
def execRead (s : State) : Host.Outcome State Fault Refusal := lift (optCommand 1) s
/-- ERASE. -/
def execErase (s : State) : Host.Outcome State Fault Refusal := lift (optCommand 2) s
/-- PROGRAM. -/
def execProgram (s : State) : Host.Outcome State Fault Refusal := lift (optCommand 3) s

/-- The bytes of OPT_BUF. -/
def optBufBytes (w : W9) (n : Nat) : List Byte := (List.range (n / 4)).flatMap (fun i => le 4 (rd w (Reg.optBuf i)).toNat)

/-- Fill OPT_BUF. -/
def fillOptBuf (bs : List Byte) (w : W9) : W9 :=
  forEach (List.range (bs.length / 4)) (fun i w => wr (Reg.optBuf i) (BitVec.ofNat 32 (ofLe ((bs.drop (4 * i)).take 4))) w) w

/-- The effect of an operation that succeeds. PROGRAM writes OPT_BUF as it stands at the end (DESIGN CHOICE, log entry 44); a READ past the
end of the option store wraps in its 26 bits. -/
def optDone (op : BitVec 2) (a n : Nat) (w : W9) : W9 :=
  if op = 1 then fillOptBuf ((List.range n).map (fun i => smGet flashEmpty w.opt.flash ((a + i) % flashEnd))) w
  else
    let bs := if op = 2 then List.replicate n 0xFF else optBufBytes w n
    { w with opt := { w.opt with flash := flashWrite a bs w.opt.flash } }

/-- OPTION_OPERATION_END (R512): the operation ends, done or failed, with event 0xC040. Bytes that a failed erase or program touched hold free
values (log entry 44). -/
def optEnd (failed : Bool) (w : W9) : W9 := match w.opt.op with
  | none => w
  | some (op, a, n) =>
    let w := if failed then wrB Reg.optStatus 25 true (abandonOpt w)
      else
        let v := optDone op a n w
        { v with opt := { v.opt with op := none } }
    raise0 0xC040 srcOpt ([BitVec.ofNat 8 op.toNat, BitVec.ofNat 8 (b2n failed), 0, 0] ++ le 4 a) (wrB Reg.optStatus 31 false w)

/-- OPTION_OPERATION_END. -/
def execOptionOperationEnd (failed : Bool) (s : State) : Host.Outcome State Fault Refusal := lift (optEnd failed) s

/-! ## Reports (R518 to R520, Table 14.9) -/

/-- DEVICE_ID (Table 0.1): part 0xE39, member 3, stepping. -/
def deviceId (w : W9) : Word32 := match w.dev.stepping with
  | .a1 => 0x0E393110
  | .b0 => 0x0E393200

/-- The number of a requester. -/
def reqCode : Requester → Byte
  | .host => 0
  | .twin => 1
  | .sideband => 2

/-- KEY_OK of the attestation mailbox. -/
def keyOk (w : W9) : Bool := rdB w Reg.attStatus 29

/-- Byte 7 of a report. -/
def reportFlags (w : W9) : Nat :=
  b2n w.img.isSome + 2 * b2n (debugOn w) + 4 * b2n (compatOn w) + 8 * b2n (w.opt.copy == 1) + 16 * b2n (!keyOk w)

/-- Bytes cut or filled with zeros to a length. -/
def fitBytes (n : Nat) (bs : List Byte) : List Byte := (bs ++ List.replicate n 0).take n

/-- IMG_DIGEST as bytes. -/
def imageHash (w : W9) : List Byte :=
  if w.img.isSome then (List.range 8).flatMap (fun i => le 4 (rd w (Reg.imgDigest i)).toNat) else List.replicate 32 0

/-- Bytes 0 to 511 of a report (Table 14.9). -/
def reportBody (r : Requester) (nonce : List Byte) (w : W9) : List Byte :=
  le 4 0x54525441 ++ [1, 0, reqCode r, BitVec.ofNat 8 (reportFlags w)] ++ le 4 (deviceId w).toNat ++
    le 4 (rd w Reg.warmCount).toNat ++ le 8 (now w) ++ List.replicate 8 0 ++ fitBytes 32 nonce ++
    (List.range 8).flatMap (measBytes w) ++ fitBytes 32 w.opt.hash ++ imageHash w ++ fitBytes 64 w.opt.pubKey ++ List.replicate 64 0

/-- A report: the signature is zero while KEY_OK is 0 (R520). -/
def reportBytes (r : Requester) (nonce : List Byte) (w : W9) : List Byte :=
  let b := reportBody r nonce w
  b ++ (if keyOk w then fitBytes 64 (Config.sign w.opt.pubKey b) else List.replicate 64 0)

/-- The steward starts on the oldest request when none is being built; the report records the state of this moment (R518). -/
def buildNext (w : W9) : W9 :=
  match w.att.building, w.att.queue with
  | none, (r, n) :: q => { w with att := { w.att with queue := q, building := some (r, reportBytes r n w) } }
  | _, _ => w

/-- ATT_STATUS.STATE: 0 IDLE, 1 BUSY, 2 READY, 3 ERROR. -/
def attState (w : W9) : Nat := rdF w Reg.attStatus 31 30
/-- Set it. -/
def setAttState (st : Nat) (w : W9) : W9 := wrF Reg.attStatus 31 30 st w

/-- A request is refused with event 0xC032: 0 busy, 1 safe mode, 2 malformed, 3 twin unreachable or no report. -/
def attRefused (who why : Byte) (w : W9) : W9 := raise0 0xC032 srcSteward [who, why] w

/-- A requester's new report is asked for; the previous one is replaced (R518). -/
def askReport (r : Requester) (nonce : List Byte) (w : W9) : W9 :=
  let a := w.att
  let w := match r with
    | .host => setAttState 1 { w with att := { a with hostReport := [] } }
    | .twin => { w with att := { a with twinState := 1, pageReport := [] } }
    | .sideband => { w with att := { a with sideBusy := true, sideReport := [] } }
  buildNext { w with att := { w.att with queue := w.att.queue ++ [(r, fitBytes 32 nonce)] } }

/-- The nonce or digest in ATT_ARG0 to ATT_ARG7. -/
def attArg (w : W9) : List Byte := (List.range 8).flatMap (fun i => le 4 (rd w (Reg.attArg i)).toNat)

/-- A mailbox command is discarded with CMD_REJECT (R525). -/
def attReject (w : W9) : W9 := wrB Reg.attStatus 28 true w

/-- REPORT (R518, R525). -/
def report (w : W9) : W9 :=
  if !hostAnswers w then w
  else if safeMode w then attRefused 0 1 w
  else if attState w = 1 then attRefused 0 0 (attReject w)
  else askReport .host (attArg w) w

/-- REPORT. -/
def execReport (s : State) : Host.Outcome State Fault Refusal := lift report s

/-- EXTEND (R517, R525): MEAS6 and MEAS7 alone; BAR0 discards the write in safe mode (R513). -/
def extend (m : Fin 8) (w : W9) : W9 :=
  if !cmdOpen w then w
  else if attState w = 1 ∨ m.val < 6 then attReject w
  else
    let d := attArg w
    noteExtend m.val d (extendMeas m.val d w)

/-- EXTEND. -/
def execExtend (m : Fin 8) (s : State) : Host.Outcome State Fault Refusal := lift (extend m) s

/-- ATTEST_REPORT_READY (R518): the report under way is ready in its requester's buffer, with event 0xC031, and the next one starts. -/
def reportReady (w : W9) : W9 := match w.att.building with
  | none => w
  | some (r, b) =>
    let a := { w.att with building := none }
    let w := match r with
      | .host => setAttState 2 { w with att := { a with hostReport := b } }
      | .twin => { w with att := { a with twinState := 2, pageReport := b } }
      | .sideband => { w with att := { a with sideBusy := false, sideReport := b } }
    buildNext (raise0 0xC031 srcSteward ([reqCode r, 0, 0, 0, 0, 0, 0, 0] ++ (b.drop 32).take 8) w)

/-- ATTEST_REPORT_READY. -/
def execAttestReportReady (s : State) : Host.Outcome State Fault Refusal := lift reportReady s

/-! ## The twin's report (R521, R522) -/

/-- ADDRESS of the attestation page at a local address (Table 11.4). -/
def attPage (a : Nat) : FAddr := BitVec.ofNat 64 (0x7FFF + a * 2 ^ 24)

/-- Send a TRANSFER to the twin's attestation page; it takes the port's next XFER_SEQ. -/
def sendPage (p : PortIx) (op : BitVec 8) (a n : Nat) (data : List Byte) (w : W9) : W9 :=
  let m := Msg.transfer { op := op, purpose := 0, signal := none, dest := 0xFFFF, src := deviceAddr w, address := attPage a,
                          length := n, xferSeq := (portOf w p).xferSeq, stream := 0xFFFF, tainted := false, data := data }
  sendMsg p m (modPort p (fun s => { s with xferSeq := s.xferSeq + 1 }) w)

/-- The request to the twin fails: ERROR and event 0xC032. -/
def fetchFailed (w : W9) : W9 := attRefused 3 3 (setAttState 3 { w with att := { w.att with fetch := none } })

/-- TWIN (R522): the nonce goes to the first UP twin port. -/
def twinFetch (w : W9) : W9 :=
  if !hostAnswers w then w
  else if safeMode w then attRefused 3 1 w
  else if attState w = 1 then attRefused 3 0 (attReject w)
  else match twinPorts w with
    | [] => fetchFailed w
    | p :: _ =>
      let n := attArg w
      let t := now w
      setAttState 1 (sendPage p 1 0 32 n { w with att := { w.att with fetch := some ⟨p, t, (portOf w p).xferSeq, false, n⟩ } })

/-- TWIN. -/
def execTwin (s : State) : Host.Outcome State Fault Refusal := lift twinFetch s

/-- A window read of the page goes out and its REPLY is awaited. -/
def fetchRead (f : Fetch) (a n : Nat) (isReport : Bool) (w : W9) : W9 :=
  let q := (portOf w f.port).xferSeq
  sendPage f.port 3 a n [] { w with att := { w.att with fetch := some { f with seq := q, report := isReport } } }

/-- TWIN_STATE_POLL (R522 step 2): every 100 µs the state word is read; with no report READY 10 ms after the write the request fails. -/
def twinPoll (w : W9) : W9 := match w.att.fetch with
  | none => w
  | some f =>
    if f.report then w
    else if f.started + 10000000 ≤ now w then fetchFailed w
    else fetchRead f 0x40 8 false w

/-- TWIN_STATE_POLL. -/
def execTwinStatePoll (s : State) : Host.Outcome State Fault Refusal := lift twinPoll s

/-- A REPLY to the request to the twin (R522). -/
def fetchReply (status : BitVec 4) (data : List Byte) (f : Fetch) (w : W9) : W9 :=
  if status ≠ 0 then fetchFailed w
  else if f.report then
    raise0 0xC031 srcSteward ([3, 0, 0, 0, 0, 0, 0, 0] ++ f.nonce.take 8)
      (setAttState 2 { w with att := { w.att with fetch := none, twinReport := fitBytes 576 data } })
  else match (data.headD 0).toNat with
    | 2 => fetchRead f 0x1000 576 true w
    | 3 => fetchFailed w
    | _ => w

end Sys2Proof.Machine
end

