-- ==== Sys2Proof/Machine/Sideband.lean ====
section
/-! DEFINITION. The management sideband (spec/10_host_interface.md R382 to R384). A command leaves its response, as the payload of one
message, in `side.response`. -/

namespace Sys2Proof.Machine

open Sys2Proof

/-- The sideband answers: the steward firmware runs (R382). -/
def sideAnswers (w : W9) : Bool := w.dev.powered && w.dev.rstDone

/-- A response goes out. -/
def respond (bs : List Byte) (w : W9) : W9 := { w with side := { w.side with response := bs } }

/-- An MCTP control command is answered. PRESUMED (log entry 7): the layouts of the MCTP base specification, completion code first. -/
def mctp (f : W9 → W9) (w : W9) : W9 := if sideAnswers w then f w else w

/-- SET_ENDPOINT_ID: the values 0 and 0xFF are no endpoint IDs. -/
def setEid (eid : Byte) (w : W9) : W9 :=
  if eid = 0 ∨ eid = 0xFF then respond [2] w
  else respond [0, 0, eid, 0] { w with side := { w.side with eid := eid } }

/-- SET_ENDPOINT_ID. -/
def execSetEndpointId (eid : Byte) (s : State) : Host.Outcome State Fault Refusal := lift (mctp (setEid eid)) s

/-- GET_ENDPOINT_ID. -/
def execGetEndpointId (s : State) : Host.Outcome State Fault Refusal := lift (mctp (fun w => respond [0, w.side.eid, 0, 0] w)) s

/-- GET_ENDPOINT_UUID. -/
def execGetEndpointUuid (s : State) : Host.Outcome State Fault Refusal := lift (mctp (respond (0 :: fitBytes 16 Config.endpointUuid))) s

/-- GET_MCTP_VERSION_SUPPORT. -/
def execGetMctpVersionSupport (s : State) : Host.Outcome State Fault Refusal := lift (mctp (respond (0 :: Config.mctpVersions))) s

/-- GET_MESSAGE_TYPE_SUPPORT: 0x7E alone (R382, R383). -/
def execGetMessageTypeSupport (s : State) : Host.Outcome State Fault Refusal := lift (mctp (respond [0, 1, 0x7E])) s

/-- A vendor command completes: status OK and its data (R383). -/
def vendorOk (cmd : Byte) (data : List Byte) (w : W9) : W9 := respond ([cmd, 0] ++ data) w

/-- A vendor command is refused with event 0x8041: 1 UNKNOWN, 2 INVALID, 3 BUSY, 4 NOT_READY. -/
def vendorRefused (cmd status : Byte) (w : W9) : W9 := raise0 0x8041 srcHost [cmd, status] (respond [cmd, status] w)

/-- A vendor command other than GET_STATE: safe mode answers none (R382). -/
def vendor (f : W9 → W9) (w : W9) : W9 := if sideAnswers w then f w else w

/-- GET_STATE (Table 10.7): four words, in any mode in which the steward runs. -/
def getState (w : W9) : W9 :=
  if hostAnswers w then
    vendorOk 0x01 (le 4 (deviceId w).toNat ++ le 4 (rd w Reg.imgStatus).toNat ++ le 4 (envState w) ++ le 4 (capNow w)) w
  else w

/-- GET_STATE. -/
def execGetState (s : State) : Host.Outcome State Fault Refusal := lift getState s

/-- SET_FACILITY_CAP (R384). -/
def facilityCap (cap : Word32) (w : W9) : W9 :=
  if cap = 0 ∨ (5000 ≤ cap.toNat ∧ cap.toNat ≤ 34000) then
    raise0 0x8040 srcHost (le 4 cap.toNat) (vendorOk 0x02 [] (wr Reg.facilityCap cap w))
  else vendorRefused 0x02 2 w

/-- SET_FACILITY_CAP. -/
def execSetFacilityCap (cap : Word32) (s : State) : Host.Outcome State Fault Refusal := lift (vendor (facilityCap cap)) s

/-- GET_POWER (Table 10.7): the measured power is POWER_5MS (DEDUCED, log entry 45). -/
def getPower (w : W9) : W9 :=
  let v (r : Nat) : List Byte := le 4 (rdF w r 15 0)
  vendorOk 0x03 (v Reg.facilityCap ++ v Reg.hostCap ++ v Reg.thermalCap ++ v Reg.capInForce ++ le 4 (rd w Reg.power5ms).toNat) w

/-- GET_POWER. -/
def execGetPower (s : State) : Host.Outcome State Fault Refusal := lift (vendor getPower) s

/-- ATTEST_START (R518, Table 10.7): 32 bytes of nonce; BUSY while a report for the sideband is being built. -/
def attestStart (nonce : List Byte) (w : W9) : W9 :=
  if nonce.length ≠ 32 then attRefused 2 2 (vendorRefused 0x10 2 w)
  else if w.att.sideBusy then attRefused 2 0 (vendorRefused 0x10 3 w)
  else askReport .sideband nonce (vendorOk 0x10 [] w)

/-- ATTEST_START. -/
def execAttestStart (nonce : List Byte) (s : State) : Host.Outcome State Fault Refusal := lift (vendor (attestStart nonce)) s

/-- ATTEST_READ (R383, R518): up to 512 bytes of the report, or of the device certificate from offset 0x1000. -/
def attestRead (offset : Nat) (w : W9) : W9 :=
  if 0x1000 ≤ offset then vendorOk 0x11 ((w.att.certificate.drop (offset - 0x1000)).take 512) w
  else if w.att.sideReport.isEmpty then vendorRefused 0x11 4 w
  else vendorOk 0x11 ((w.att.sideReport.drop offset).take 512) w

/-- ATTEST_READ. -/
def execAttestRead (offset : BitVec 16) (s : State) : Host.Outcome State Fault Refusal := lift (vendor (attestRead offset.toNat)) s

/-- SIDEBAND_UNKNOWN_COMMAND: a code that Table 10.7 does not list is answered UNKNOWN (R383). -/
def unknownCommand (c : Byte) (w : W9) : W9 :=
  if c = 0x01 ∨ c = 0x02 ∨ c = 0x03 ∨ c = 0x10 ∨ c = 0x11 then w else vendorRefused c 1 w

/-- SIDEBAND_UNKNOWN_COMMAND. -/
def execSidebandUnknownCommand (command : Byte) (s : State) : Host.Outcome State Fault Refusal := lift (vendor (unknownCommand command)) s

end Sys2Proof.Machine
end

