-- ==== Sys2Proof/Machine/Links.lean ====
section
/-! DEFINITION. Edge links (spec/11_edge_links_twin.md R387 to R402): training and lanes, flits with their replay and credit, and the
transfers that arrive. -/

namespace Sys2Proof.Machine

open Sys2Proof

/-! ## Training and lanes (R388, R389, R502) -/

/-- The lanes of a set in ascending order. -/
def lanesOf (b : BitVec 34) : List Nat := (List.range 34).filter (fun i => b.getLsbD i)

/-- The width that a number of good lanes gives, 0 for none (R388). -/
def widthFor (n : Nat) : Nat := if 32 ≤ n then 32 else if 16 ≤ n then 16 else if 8 ≤ n then 8 else 0

/-- The link-port reset that ends with this training is over: event 0xC004 (R502). -/
def portResetOver (p : PortIx) (w : W9) : W9 := match (portOf w p).reset with
  | none => w
  | some r =>
    raise0 0xC004 (srcPort p) [BitVec.ofNat 8 r.cause.val, BitVec.ofNat 8 (b2n r.timedOut)] (modPort p (fun s => { s with reset := none }) w)

/-- The port is UP on its lowest good lanes; SPARES counts good lanes beyond 32 (R388). -/
def portComesUp (p : PortIx) (good : List Nat) (w : W9) : W9 :=
  let n := widthFor good.length
  let w := modPort p (fun s => { s with good := BitVec.ofNat 34 ((good.map (fun i => 2 ^ i)).sum), nextTrain := 0 }) w
  let w := wr64 (Reg.laneMap p.val) (((good.take n).map (fun i => 2 ^ i)).sum) w
  setPort p 2 n (wrF (Reg.portStatus p.val) 1 0 (if n = 32 then good.length - 32 else 0) w)

/-- Fewer than 8 lanes are good: TRAIN_FAIL, DOWN, and the next try in 100 ms. -/
def portTrainFails (p : PortIx) (w : W9) : W9 :=
  let t := now w
  setPort p 0 0 (wrB (Reg.portErr p.val) 1 true (modPort p (fun s => { s with nextTrain := t + 100000000 }) w))

/-- PORT_TRAIN (R388): the training of a port ends; `goodLanes` passed the test. Lanes that failed since the device was reset stay out (R389). -/
def portTrain (p : PortIx) (goodLanes : BitVec 34) (w : W9) : W9 :=
  if portState w p = 1 ∧ canTrain w p = true then
    let good := lanesOf (goodLanes &&& ~~~(portOf w p).failed)
    portResetOver p (if widthFor good.length = 0 then portTrainFails p w else portComesUp p good w)
  else w

/-- PORT_TRAIN. -/
def execPortTrain (p : PortIx) (goodLanes : BitVec 34) (s : State) : Host.Outcome State Fault Refusal := lift (portTrain p goodLanes) s

/-- PORT_TRAIN_RETRY (R388). -/
def portTrainRetry (p : PortIx) (w : W9) : W9 :=
  let n := (portOf w p).nextTrain
  if portState w p = 0 ∧ 0 < n ∧ n ≤ now w ∧ canTrain w p = true then setPort p 1 0 (modPort p (fun s => { s with nextTrain := 0 }) w) else w

/-- PORT_TRAIN_RETRY. -/
def execPortTrainRetry (p : PortIx) (s : State) : Host.Outcome State Fault Refusal := lift (portTrainRetry p) s

/-- LANE_FAIL (R389): an active lane of an UP port fails, and the port goes through a link-port reset. -/
def laneFail (p : PortIx) (lane : Fin 34) (w : W9) : W9 :=
  if portUp w p && rdB64 w (Reg.laneMap p.val) lane.val then
    let w := modPort p (fun s => { s with failed := s.failed ||| BitVec.ofNat 34 (2 ^ lane.val) }) w
    startPortReset p 1 (raise0 0x9002 (srcPort p) [BitVec.ofNat 8 lane.val] (wrB (Reg.portErr p.val) 2 true w))
  else w

/-- LANE_FAIL. -/
def execLaneFail (p : PortIx) (lane : Fin 34) (s : State) : Host.Outcome State Fault Refusal := lift (laneFail p lane) s

/-! ## Flits (R391 to R397) -/

/-- The sender drops what an ACK covers: the entry of that SEQ and every older one. -/
def ackReplay (a : BitVec 16) (l : List SentMsg) : List SentMsg :=
  if l.any (fun m => m.seq == a) then (l.dropWhile (fun m => m.seq != a)).drop 1 else l

/-- The unacknowledged flits go out again in order; a flit that has been replayed 4 times takes the port into a link-port reset instead
(R396). -/
def replayPort (p : PortIx) (w : W9) : W9 := match (portOf w p).replay with
  | [] => w
  | m :: r =>
    if 4 ≤ m.replays then
      startPortReset p 2 (raise0 0x9004 (srcPort p) (le 2 m.seq.toNat) (wrB (Reg.portErr p.val) 3 true w))
    else
      let t := now w
      let again (x : SentMsg) : SentMsg := { x with replays := x.replays + 1, sentAt := t }
      inc (Reg.replays p.val) 1 (modPort p (fun s => { s with replay := again m :: r.map again }) w)

/-- REPLAY_TIMEOUT (R396): the oldest flit has waited 2 µs without ACK. -/
def replayTimeout (p : PortIx) (w : W9) : W9 := match (portOf w p).replay with
  | m :: _ => if portUp w p && decide (m.sentAt + 2000 ≤ now w) then replayPort p w else w
  | [] => w

/-- REPLAY_TIMEOUT. -/
def execReplayTimeout (p : PortIx) (s : State) : Host.Outcome State Fault Refusal := lift (replayTimeout p) s

/-- The receiver is out of step: it discards until it finds its place, and asks for a replay (R396). -/
def loseStep (p : PortIx) (w : W9) : W9 := modPort p (fun s => { s with resync := true, nakOut := true, dataDue := 0 }) w

/-- A control flit in its place: its acknowledgement and credit, its NAK, and its own number (R392, R396, R397). -/
def takeFlit (p : PortIx) (f : ControlFlit) (w : W9) : W9 :=
  let w := modPort p (fun s => { s with
    resync := false, nakOut := false, replay := ackReplay f.ack s.replay, freedTx := f.freed
    dataDue := if f.sequenced then f.dataCount else 0 }) w
  let w := if f.sequenced then
      modPort p (fun s => { s with seqRx := s.seqRx + 1, ackOut := f.seq, tainted := false, overrun := false }) w
    else w
  if f.nak then replayPort p w else w

/-- CONTROL_FLIT_RECEIVE (R396). -/
def controlFlit (p : PortIx) (f : ControlFlit) (w : W9) : W9 :=
  if !portUp w p then w
  else if crc32 f.body ≠ f.crc.toNat then
    loseStep p (wrB (Reg.portErr p.val) 4 true (inc (Reg.crcErrors p.val) 1 w))
  else if f.sequenced ∧ f.seq ≠ (portOf w p).seqRx then loseStep p w
  else takeFlit p f w

/-- CONTROL_FLIT_RECEIVE. -/
def execControlFlitReceive (p : PortIx) (flit : ControlFlit) (s : State) : Host.Outcome State Fault Refusal := lift (controlFlit p flit) s

/-- An uncorrectable codeword (R395). -/
def badCodeword (p : PortIx) (w : W9) : W9 :=
  let w := wrB (Reg.portErr p.val) 5 true (inc (Reg.fecUcw p.val) 1 w)
  raise0 0x9003 (srcPort p) (le 4 (rd w (Reg.fecUcw p.val)).toNat) w

/-- DATA_FLIT_RECEIVE (R394, R395, R397): a data flit that the last control flit announced goes to the buffer; any other is discarded. -/
def dataFlit (p : PortIx) (bad : Bool) (w : W9) : W9 :=
  if !portUp w p then w
  else
    let w := if bad then badCodeword p w else w
    let s := portOf w p
    if s.dataDue = 0 then w
    else
      let w := inc (Reg.rxDataFlits p.val) 1 w
      if 2048 ≤ s.rxHeld then
        let w := if s.overrun then w else inc (Reg.rxDrops p.val) 1 w
        wrB (Reg.portErr p.val) 0 true (modPort p (fun x => { x with dataDue := x.dataDue - 1, overrun := true }) w)
      else modPort p (fun x => { x with dataDue := x.dataDue - 1, rxHeld := x.rxHeld + 1, tainted := x.tainted || bad }) w

/-- DATA_FLIT_RECEIVE. -/
def execDataFlitReceive (p : PortIx) (uncorrectable : Bool) (s : State) : Host.Outcome State Fault Refusal :=
  lift (dataFlit p uncorrectable) s

/-! ## Messages and transfers that arrive (R393, R398 to R402) -/

/-- The data flits of a message have been consumed: they are free (R392, R397). -/
def freeFlits (p : PortIx) (n : Nat) (w : W9) : W9 :=
  modPort p (fun s =>
    let k := min n s.rxHeld
    { s with rxHeld := s.rxHeld - k, freedRx := s.freedRx + BitVec.ofNat 16 k, tainted := false, overrun := false }) w

/-- The W9 has tripped: every transfer and message that arrives is dropped (R489). -/
def tripDrops (w : W9) : Bool := envState w == 4

/-- A pair message: it counts on a twin port alone (R393), and in TRIPPED it is dropped (R489). -/
def onTwin (p : PortIx) (f : W9 → W9) (w : W9) : W9 :=
  if !portUp w p || !isTwinPort w p then w
  else if tripDrops w then dropTransfer p 0 0 0 w
  else f w

/-- A message of the Mule, from either kind of port. -/
def onPort (p : PortIx) (f : W9 → W9) (w : W9) : W9 :=
  if !portUp w p then w
  else if tripDrops w then dropTransfer p 0 0 0 w
  else f w

/-- A transfer that arrives on a twin port from the paired partner is the twin's (R400). -/
def fromTwin (w : W9) (p : PortIx) : Bool := isTwinPort w p && paired w

/-- The client type of a transfer: 2 twin, 3 peer. -/
def clientOf (w : W9) (p : PortIx) : BitVec 2 := if fromTwin w p then 2 else 3

/-- DEST names this W9 (R402). -/
def destOk (w : W9) (d : BitVec 16) : Bool := d == 0xFFFF || d == deviceAddr w

/-- LENGTH is one that Table 11.4 allows. -/
def lengthOk (n : Nat) : Bool := decide (8 ≤ n) && decide (n ≤ 1024) && decide (n % 8 = 0)

/-- Drop a transfer (R400). -/
def dropX (p : PortIx) (x : Transfer) (w : W9) : W9 := dropTransfer p x.op.toNat x.src.toNat x.address.toNat w

/-- A transfer of operation `op` arrives with its data: dropped for DEST, LENGTH or a trip, gone where its data found no buffer (R397), else acted
on; its data flits are then free. -/
def onTransfer (p : PortIx) (op : BitVec 8) (x : Transfer) (f : Transfer → W9 → W9) (w : W9) : W9 :=
  if !portUp w p then w
  else
    let n := cdiv x.data.length 256
    let s := portOf w p
    if s.overrun then freeFlits p n w
    else
      let y := { x with tainted := x.tainted || s.tainted }
      let ok := destOk w x.dest && lengthOk x.length && (op == 3 || x.data.length == x.length) && x.op == op
      freeFlits p n (if tripDrops w || !ok then dropX p x w else f y w)

/-- `take` bytes of the regions of the KV page space, after the first `skip` (Table 11.6). The page space is the far-memory regions of USE 1 in
their order. -/
def kvHalf (regions : List (Nat × Nat)) (skip take : Nat) : List (Nat × Nat) := match regions with
  | [] => []
  | (a, n) :: r =>
    let s := min skip n
    let k := min take (n - s)
    (if k = 0 then [] else [(a + s, k)]) ++ kvHalf r (skip - s) (take - k)

/-- The partner's half of the KV page space (R403). -/
def partnerPages (w : W9) : List (Nat × Nat) := match farOf w with
  | none => []
  | some f =>
    let rs := (f.regions.filter (fun r => decide (r.use = 1))).map (fun r => (r.start.toNat, r.len))
    let total := (rs.map (·.2)).sum
    if sideB w then kvHalf rs 0 (total / 2) else kvHalf rs (total / 2) total

/-- The first slot of the partner's half. -/
def partnerFirst (w : W9) : Nat := if sideB w then 0 else 512

/-- The slots of the partner's half. -/
def partnerSlots (w : W9) : List StreamIx := allStreams.filter (fun s => !ownSlot w s)

/-- The mirror ranges (R403). -/
def mirrorRanges (w : W9) : List (Nat × Nat) := match farOf w with
  | none => []
  | some f =>
    let k := partnerFirst w
    partnerPages w ++
      [(f.streamTable.toNat + 256 * k, 256 * 512), (f.directoryBase.toNat + 0x40000 * k, 0x40000 * 512),
       (f.tokenLogBase.toNat + 0x800000 * k, 0x800000 * 512)]

/-- A range lies in one of these. -/
def within (rs : List (Nat × Nat)) (a n : Nat) : Bool := rs.any (fun r => decide (r.1 ≤ a) && decide (a + n ≤ r.1 + r.2))

/-- Damaged mirror or setup data is noted against its stream (R409, R411). -/
def noteTainted (x : Transfer) (w : W9) : W9 :=
  if x.tainted ∧ x.stream.toNat < 1024 ∧ (x.purpose = 3 ∨ (x.purpose = 2 ∧ within (partnerPages w) x.address.toNat x.length)) then
    { w with pair := { w.pair with tainted := (Fin.ofNat 1024 x.stream.toNat, x.purpose) :: w.pair.tainted } }
  else w

/-- OP 0 (Table 11.5): from the twin into the mirror ranges, from a peer into the Mule receive range. -/
def farWriteDo (p : PortIx) (x : Transfer) (w : W9) : W9 :=
  let a := x.address.toNat
  if fromTwin w p then
    if within (mirrorRanges w) a x.length then noteTainted x (writeFar a x.data (touchVerified a x.length w))
    else dropX p x w
  else muleReceive p x.src a x.data w

/-- FAR_WRITE. In hold, far writes wait (R483). -/
def farWrite (p : PortIx) (x : Transfer) (w : W9) : W9 := if inHold w then w else onTransfer p 0 x (farWriteDo p) w

/-- FAR_WRITE. -/
def execFarWrite (p : PortIx) (x : Transfer) (s : State) : Host.Outcome State Fault Refusal := lift (farWrite p x) s

/-- The tile code and the local address that ADDRESS holds (Table 11.4). -/
def windowTile (x : Transfer) : BitVec 16 := BitVec.ofNat 16 (x.address.toNat % 2 ^ 15)
/-- The local address. -/
def windowAddr (x : Transfer) : Nat := x.address.toNat / 2 ^ 24 % 2 ^ 24

/-- A write to the attestation page (R521). -/
def pageWriteTwin (p : PortIx) (x : Transfer) (w : W9) : W9 :=
  if isTwinPort w p && decide (windowAddr x = 0) && decide (x.length = 32) then
    if w.att.twinState = 1 then attRefused 1 0 w else askReport .twin x.data w
  else dropX p x w

/-- OP 1 and OP 2: PUT packets of client type twin or peer, the last of them a PUT-SIGNAL for OP 2 (Table 11.5). -/
def windowWriteDo (op : BitVec 4) (p : PortIx) (x : Transfer) (w : W9) : W9 :=
  if windowTile x = 0x7FFF then pageWriteTwin p x w
  else match codeTile (windowTile x) with
    | none => dropX p x w
    | some t =>
      let a := windowAddr x
      let c := clientOf w p
      let sps := farSpans a x.length
      forEach sps.zipIdx (fun e w =>
        (ringSend t { Packet.blank with
          op := op, target := tileSrc t, source := srcPort p, client := c, last := decide (op = opPutSignal) && decide (e.2 + 1 = sps.length)
          signal := if op = opPutSignal then x.signal else none
          address := BitVec.ofNat 24 e.1.1, length := BitVec.ofNat 16 e.1.2, opSeq := x.xferSeq
          payload := (x.data.drop (e.1.1 - a)).take e.1.2 } w).2) w

/-- WINDOW_WRITE. -/
def execWindowWrite (p : PortIx) (x : Transfer) (s : State) : Host.Outcome State Fault Refusal :=
  lift (onTransfer p 1 x (windowWriteDo opPut p)) s

/-- WINDOW_WRITE_WITH_SIGNAL. -/
def execWindowWriteWithSignal (p : PortIx) (x : Transfer) (s : State) : Host.Outcome State Fault Refusal :=
  lift (onTransfer p 2 x (windowWriteDo opPutSignal p)) s

/-- A REPLY goes back on the port where its request arrived (R400, R402). -/
def sendReplyOn (p : PortIx) (x : Transfer) (st : BitVec 4) (data : List Byte) (w : W9) : W9 :=
  sendMsg p (.reply st x.src (deviceAddr w) x.xferSeq (if st = 0 then data else [])) w

/-- A read of the attestation page (R521). -/
def pageReadTwin (p : PortIx) (x : Transfer) (w : W9) : W9 :=
  let a := windowAddr x
  if !isTwinPort w p then dropX p x w
  else if a = 0x40 ∧ x.length = 8 then sendReplyOn p x 0 (le 8 w.att.twinState.val) w
  else if 0x1000 ≤ a ∧ a - 0x1000 + x.length ≤ 576 then
    sendReplyOn p x 0 ((fitBytes 576 w.att.pageReport).drop (a - 0x1000) |>.take x.length) w
  else dropX p x w

/-- OP 3: a GET of the target tile, answered by REPLY. DESIGN CHOICE (log entry 46): the GET runs in one command. -/
def windowReadDo (p : PortIx) (x : Transfer) (w : W9) : W9 :=
  if windowTile x = 0x7FFF then pageReadTwin p x w
  else match codeTile (windowTile x) with
    | none => dropX p x w
    | some t =>
      let a := windowAddr x
      let pkt : Packet := { Packet.blank with op := opGet, target := tileSrc t, source := srcPort p, client := clientOf w p
                                              address := BitVec.ofNat 24 a, length := BitVec.ofNat 16 x.length, opSeq := x.xferSeq }
      match if inHold w then some 2 else ringStatus w t with
      | some st => sendReplyOn p x st [] w
      | none =>
        if admits w t pkt .read x.length then sendReplyOn p x 0 (readStore w t a x.length) (readEffects0 t a x.length w)
        else sendReplyOn p x 1 [] (rejectRequest t pkt w)

/-- WINDOW_READ. -/
def execWindowRead (p : PortIx) (x : Transfer) (s : State) : Host.Outcome State Fault Refusal :=
  lift (onTransfer p 3 x (windowReadDo p)) s

/-- REPLY (R393, R522): the W9's own window reads are those of a request to its twin. -/
def replyDo (p : PortIx) (status : BitVec 4) (seq : BitVec 32) (data : List Byte) (w : W9) : W9 :=
  if (portOf w p).overrun then freeFlits p (cdiv data.length 256) w
  else
    let w := freeFlits p (cdiv data.length 256) w
    match w.att.fetch with
    | some f => if f.port = p ∧ f.seq = seq then fetchReply status data f w else w
    | none => w

/-- REPLY. -/
def execReply (p : PortIx) (status : BitVec 4) (xferSeq : BitVec 32) (data : List Byte) (s : State) :
    Host.Outcome State Fault Refusal := lift (onPort p (replyDo p status xferSeq data)) s

end Sys2Proof.Machine
end

