-- ==== Sys2Proof/Machine/Pair.lean ====
section
/-! DEFINITION. The twin (spec/11_edge_links_twin.md R403 to R423): forming and leaving a pair, heartbeats and failover, mirroring, shadowed
class-0 streams as their messages arrive, and format changes, stretch, freeze and Mule messages from other devices. -/

namespace Sys2Proof.Machine

open Sys2Proof

/-! ## The half of the KV space (R403, Table 11.6) -/

/-- The image's KV pages. -/
def pagesAll (w : W9) : Nat := match farOf w with | some f => f.kvPages | none => 0

/-- The W9 keeps to its own half: the pages of the other half leave its counts. -/
def halveKv (w : W9) : W9 :=
  let n := pagesAll w
  let h := n / 2
  if (rd w Reg.kvPagesTotal).toNat = n ∧ h < n then
    setKvFree (kvFree w - (n - h)) (wr Reg.kvPagesTotal (BitVec.ofNat 32 h) w)
  else w

/-- The KV space is whole: the partner's half is free but for the pages that `used` counts. -/
def wholeKv (used : Nat) (w : W9) : W9 :=
  let n := pagesAll w
  let t := (rd w Reg.kvPagesTotal).toNat
  if t < n then setKvFree (kvFree w + (n - t) - used) (wr Reg.kvPagesTotal (BitVec.ofNat 32 n) w) else w

/-- A stream that was handed off to a partner that is gone: its slot is free without a record (DESIGN CHOICE, log entry 33). -/
def freeHanded (w : W9) : W9 :=
  forEach ((busyStreams w).filter (fun s => (streamOf w s).handedOff && decide ((streamOf w s).state = .ending))) releaseSlot w

/-- Blocks with pages. -/
def pagedBlocks (l : List (Nat × BlockDesc)) : Nat := (l.filter (fun e => decide (e.2.state ≠ .dropped))).length

/-- The pages of the partner's half that streams handed to this W9 hold. -/
def handedPages (w : W9) : Nat := ((w.pair.handedTo.map (fun s => pagedBlocks (streamBlocks w s))).sum) * kvLayers w

/-- PAIR_CTRL_WRITE (R403, R425): accepted while EN is 0 or is written 0. Enabling the pair starts to seek a partner; disabling it makes the
W9 solo with its KV space whole (R423). -/
def pairCtrlWrite (v : Word32) (w : W9) : W9 :=
  if !cmdOpen w then w
  else
    let old := pairEn w
    let on := v.getLsbD 31
    if old && on then w
    else
      let w := wr Reg.pairCtrl (v &&& 0xC000000F) w
      if on then wrF Reg.pairStatus 31 30 1 (halveKv w)
      else if old then
        let w := if pairState w = 2 then freeHanded (unpair 0 (dropShadows w)) else wrF Reg.pairStatus 31 30 0 w
        wholeKv (handedPages w) { w with pair := { w.pair with handedTo := [] } }
      else w

/-- PAIR_CTRL_WRITE. -/
def execPairCtrlWrite (value : Word32) (s : State) : Host.Outcome State Fault Refusal := lift (pairCtrlWrite value) s

/-! ## Forming a pair (R404, R405, Table 11.7) -/

/-- Every stream slot in use, and every page in use, lies in this W9's own half. -/
def layoutOk (w : W9) : Bool :=
  (busyStreams w).all (ownSlot w) &&
    decide ((rd w Reg.kvPagesTotal).toNat - kvFree w ≤ pagesAll w / 2)

/-- What this W9 says of itself in a PAIR_HELLO. -/
def ownHello (w : W9) : Hello :=
  { side := sideB w, member := 3, rung := BitVec.ofNat 8 (rdF w Reg.imgStatus 23 16), compat := compatOn w, debug := debugOn w
    class0 := !(class0s w).isEmpty, layoutOk := layoutOk w, deviceId := deviceId w
    digest := (List.range 8).flatMap (fun i => le 4 (rd w (Reg.imgDigest i)).toNat) }

/-- A recovery waits to hear whether the partner lives (R544). -/
def waitsForTwin (w : W9) : Bool := rdF w Reg.faultStatus 30 28 == 1

/-- The W9 seeks a partner: EN is 1 and it is not PAIRED. -/
def seeking (w : W9) : Bool := booted w && pairEn w && !paired w && !tripDrops w && !waitsForTwin w

/-- PAIR_HELLO_SEND (R404). -/
def helloSend (w : W9) : W9 := if seeking w then sendTwins (.hello (ownHello w)) w else w

/-- PAIR_HELLO_SEND. -/
def execPairHelloSend (s : State) : Host.Outcome State Fault Refusal := lift helloSend s

/-- The first condition of Table 11.7 that two W9s do not meet, 0 for none. -/
def helloReason (a b : Hello) : Nat :=
  if a.side = b.side then 1
  else if a.member ≠ b.member then 2
  else if a.digest ≠ b.digest ∨ a.rung ≠ b.rung then 3
  else if a.compat ≠ b.compat ∨ a.debug ≠ b.debug then 4
  else if a.class0 ∨ b.class0 then 5
  else if !a.layoutOk ∨ !b.layoutOk then 6
  else 0

/-- The pair is refused: REASON and event 0x9011. -/
def pairRefused (reason : Nat) (byPartner : Bool) (w : W9) : W9 :=
  raise0 0x9011 srcSteward [BitVec.ofNat 8 reason, BitVec.ofNat 8 (b2n byPartner)] (wrF Reg.pairStatus 7 0 reason w)

/-- The pair is formed once each W9 has sent and received PAIR_ACCEPT (R404): PAIRED, with side B's alignment due (R405). -/
def formPair (w : W9) : W9 :=
  if w.pair.sentAccept && w.pair.rcvAccept then
    let t := now w
    let p := w.pair
    let w := halveKv { w with pair := { p with
      sentAccept := false, rcvAccept := false, lastHb := t, hbP6 := 0, hbP7 := 0, lastEcho := (0, 0), partnerStretch := 0, partnerNext := none
      escClear := true, claimed := false, failedAt := 0, alignDue := sideB w, tainted := [] } }
    let w := if sideB w then w else wr64 Reg.pairBeatOfs 0 w
    let w := writeHeader (wrF Reg.pairStatus 31 30 2 w)
    raise0 0x9010 srcSteward ([BitVec.ofNat 8 (b2n (sideB w)), 0, 0, 0, 0, 0, 0, 0] ++ le 4 (rd w Reg.pairPartner).toNat) w
  else w

/-- PAIR_HELLO (R404): a W9 with EN 0, or PAIRED, does not answer (DEDUCED, log entry 47). -/
def hello (p : PortIx) (h : Hello) (w : W9) : W9 :=
  if booted w && waitsForTwin w then { w with flt := { w.flt with helloSeen := true } }
  else if !seeking w then w
  else
    let r := helloReason (ownHello w) h
    if r = 0 then
      formPair (wr Reg.pairPartner h.deviceId { (sendMsg p .pairAccept w) with pair := { w.pair with sentAccept := true } })
    else sendMsg p (.pairRefuse (BitVec.ofNat 8 r)) (pairRefused r false w)

/-- PAIR_HELLO. -/
def execPairHello (p : PortIx) (h : Hello) (s : State) : Host.Outcome State Fault Refusal := lift (onTwin p (hello p h)) s

/-- PAIR_ACCEPT. -/
def pairAccepted (w : W9) : W9 :=
  if seeking w then formPair { w with pair := { w.pair with rcvAccept := true } } else w

/-- PAIR_ACCEPT. -/
def execPairAccept (p : PortIx) (s : State) : Host.Outcome State Fault Refusal := lift (onTwin p pairAccepted) s

/-- PAIR_REFUSE. -/
def pairRefuse (reason : BitVec 8) (w : W9) : W9 :=
  if seeking w then pairRefused reason.toNat true { w with pair := { w.pair with rcvAccept := false } } else w

/-- PAIR_REFUSE. -/
def execPairRefuse (p : PortIx) (reason : BitVec 8) (s : State) : Host.Outcome State Fault Refusal := lift (onTwin p (pairRefuse reason)) s

/-! ## Heartbeats (R405, R417) -/

/-- HEARTBEAT_SEND (R417): every 5 µs on each UP twin port; an interval in which none has come is counted. -/
def heartbeatSend (w : W9) : W9 :=
  if booted w && paired w && !tripDrops w then
    let t := now w
    let e := w.pair.lastEcho
    let late := decide (w.pair.lastHb + 5000 ≤ t)
    sendTwins (.heartbeat ⟨true, BitVec.ofNat 32 (pairBeat w), t, e.1, e.2⟩) (onlyIf late (inc Reg.hbLate 1) w)
  else w

/-- HEARTBEAT_SEND. -/
def execHeartbeatSend (s : State) : Host.Outcome State Fault Refusal := lift heartbeatSend s

/-- HEARTBEAT (R405, R417): its arrival, what the next one echoes, and PAIR_OFFSET; a half is rounded down (DEDUCED, log entry 42). -/
def heartbeat (p : PortIx) (h : Heartbeat) (w : W9) : W9 :=
  if paired w then
    let t := now w
    let q := w.pair
    let w := { w with pair := { q with
      lastHb := t, lastEcho := (h.txTime, t), hbP6 := if p = 6 then t else q.hbP6, hbP7 := if p = 7 then t else q.hbP7 } }
    let x : Int := ((h.echoRx : Int) - h.echoTime + (h.txTime - t)).fdiv 2
    wr64 Reg.pairOffset (signedBits 64 x).toNat w
  else w

/-- HEARTBEAT. -/
def execHeartbeat (p : PortIx) (h : Heartbeat) (s : State) : Host.Outcome State Fault Refusal := lift (onTwin p (heartbeat p h)) s

/-! ## What the mirror holds (R408, R420) -/

/-- PAIR_OFFSET: the partner's device time minus this W9's own. -/
def pairOffset (w : W9) : Int := (BitVec.ofNat 64 (rd64 w Reg.pairOffset)).toInt

/-- A device time of the partner in this W9's own (R405). -/
def ownTime (w : W9) (t : Nat) : Nat := ((t : Int) - pairOffset w).toNat

/-- A stream of the partner as this W9 runs it: its times in own device time, and the slot of this W9 that holds its adapter version (DEDUCED,
log entry 48). -/
def fromPartner (t : Stream) (w : W9) : Stream :=
  let a := if t.adapterHandle = 0 then none
    else (List.finRange 64).find? (fun n => adState w n ≠ 0 && adHandle w n == t.adapterHandle.toNat && adVer w n == t.adapterVer)
  let d := if t.deadlineFirst = 0xFFFFFFFFFFFFFFFF then t.deadlineFirst else ownTime w t.deadlineFirst
  { t with arrival := ownTime w t.arrival, deadlineFirst := d, lastDelivery := ownTime w t.lastDelivery, adapterSlot := a
           cplRing := none, reserved := false }

/-- The block descriptor that the directory of slot `s` holds in far memory, with the FLUSHED masks of its layer vector: a private block
(R226, R227, R420). -/
def mirrorBlockOf (w : W9) (s : StreamIx) (b : Nat) : Option BlockDesc := match farOf w, w.img with
  | some f, some im =>
    let d := farBytes w (dirBase f s + 32 * b) 32
    let st := (d.getD 20 0).toNat
    let ls := ofLe (d.take 8)
    let kv := im.body.layers.filter (fun l => l.kv)
    let masks : SMap Nat := if ls = 0 then [] else
      kv.zipIdx.foldl (fun m e => smPut (fun _ => 0) m e.1.layer.val (((farBytes w (ls + 16 * e.2) 1).headD 0).toNat % 16)) []
    let mk (x : BlockState) : Option BlockDesc := some
      { state := x, layers := BitVec.ofNat 64 ls, lastUse := now w, node := none, flushed := masks }
    match st with
    | 1 => mk .active
    | 2 => mk .full
    | 3 => mk .full
    | 4 => mk .dropped
    | 5 => mk .dropped
    | _ => none
  | _, _ => none

/-- The mirrored blocks of a slot, as far as its sequence can reach. -/
def mirrorBlocks (w : W9) (s : StreamIx) : List (Nat × BlockDesc) :=
  let t := recordStream w s
  (List.range (min 8192 (cdiv (t.promptLen + t.maxNew) 256))).filterMap (fun b => (mirrorBlockOf w s b).map (fun d => (b, d)))

/-- Take the mirrored blocks of a slot as its own; a block being recomputed starts again as a dropped one. -/
def takeBlocks (s : StreamIx) (w : W9) : W9 :=
  forEach (mirrorBlocks w s) (fun e w => setBlock s e.1 (some e.2) w) w

/-- A mirrored stream that the survivor adopts (R420). -/
def adoptable (w : W9) (s : StreamIx) : Bool :=
  let t := recordStream w s
  (t.cls == 1 || t.cls == 2) && ([.prefill, .decode, .held, .parked] : List StreamState).contains t.state

/-- The pages of the partner's half that streams this W9 takes over hold. -/
def takenPages (w : W9) : Nat :=
  let mine := w.pair.shadows ++ w.pair.handedTo
  let sh := ((mine.map (fun s => pagedBlocks (streamBlocks w s))).sum)
  let ad := (((partnerSlots w).filter (fun s => adoptable w s && decide ((streamOf w s).state = .free))).map
    (fun s => pagedBlocks (mirrorBlocks w s))).sum
  (sh + ad) * kvLayers w

/-! ## Failover (R418 to R421) -/

/-- An entry of completion ring CPL_RING is held for a stream taken over (R371, R419). -/
def takeCpl (s : StreamIx) (w : W9) : W9 :=
  let n : RingIx := Fin.ofNat 16 (rdF w Reg.pairCtrl 3 0)
  let w := wrF (Reg.cplReserved n.val) 10 0 (rdF w (Reg.cplReserved n.val) 10 0 + 1) w
  modStream s (fun t => { t with cplRing := some n, reserved := true }) w

/-- A shadow becomes this W9's own stream, unshadowed. -/
def ownShadow (s : StreamIx) (w : W9) : W9 :=
  let w := inc Reg.adopted 1 (takeCpl s w)
  let w := { w with pair := { w.pair with shadows := w.pair.shadows.filter (fun x => decide (x ≠ s)) } }
  putStream s (fun t => { t with shadow := false, handedOff := false }) w

/-- STREAM_CLAIM (R419): CLAIM goes out, the partner's half joins this W9's KV space, and every shadow is its own stream. -/
def claimStreams (w : W9) : W9 :=
  let sh := w.pair.shadows
  let w := freeHanded (sendTwins .claim w)
  let w := wholeKv (takenPages w) w
  let w := forEach sh ownShadow { w with pair := { w.pair with claimed := true, handedTo := [] } }
  raise0 0x9013 srcSteward (le 2 sh.length) w

/-- The partner is declared failed (R418): 0 silence, 1 FAILING, 2 a message not acknowledged; and the survivor claims (R419). -/
def declareFailed (kind cause : Nat) (w : W9) : W9 :=
  let t := now w
  let th := w.pair.lastHb
  let w := unpair 3 w
  let w := { w with pair := { w.pair with failedAt := t } }
  claimStreams (raise0 0x9012 srcSteward ([BitVec.ofNat 8 kind, BitVec.ofNat 8 cause, 0, 0, 0, 0, 0, 0] ++ le 8 th) w)

/-- A message on a twin port has waited 25 µs since its first send (R407). -/
def unacknowledged (w : W9) : Bool :=
  allPorts.any (fun p => isTwinPort w p && (portOf w p).replay.any (fun m => decide (m.first + 25000 ≤ now w)))

/-- PARTNER_SILENCE (R418): 15 µs without a HEARTBEAT, or 25 µs without an acknowledgement. -/
def partnerSilence (unack : Bool) (w : W9) : W9 :=
  if !paired w then w
  else if unack then (if unacknowledged w then declareFailed 2 0 w else w)
  else if w.pair.lastHb + 15000 ≤ now w then declareFailed 0 0 w else w

/-- PARTNER_SILENCE. -/
def execPartnerSilence (unack : Bool) (s : State) : Host.Outcome State Fault Refusal := lift (partnerSilence unack) s

/-- FAILING (R418). -/
def execFailing (p : PortIx) (cause : Fin 5) (s : State) : Host.Outcome State Fault Refusal :=
  lift (onTwin p (fun w => if paired w then declareFailed 1 cause.val w else w)) s

/-- CLAIM (R419): the partner has claimed, so a PAIRED W9 is in a pair no more. It seeks again and goes on with its own streams (R421); its
shadows are the partner's own (DESIGN CHOICE, log entry 49). -/
def claim (w : W9) : W9 := if paired w then freeHanded (unpair 1 (dropShadows w)) else w

/-- CLAIM. -/
def execClaim (p : PortIx) (s : State) : Host.Outcome State Fault Refusal := lift (onTwin p claim) s

/-- SHADOW_BACKLOG_HANDOVER (R419): within 25 µs of the claim every token in the shadow backlogs is handed over. -/
def backlogHandover (w : W9) : W9 :=
  if w.pair.claimed then forEach (allStreams.filter (fun s => w.pair.backlog.any (fun c => c.stream == s))) (deliverBacklog · 0) w else w

/-- SHADOW_BACKLOG_HANDOVER. -/
def execShadowBacklogHandover (s : State) : Host.Outcome State Fault Refusal := lift backlogHandover s

/-- A stream bound to an adapter slot counts there. -/
def bindAdapter (s : StreamIx) (w : W9) : W9 := match (streamOf w s).adapterSlot with | some n => adBind n w | none => w

/-- An adopted stream runs on (R420): in PREFILL from the lowest chunk that is not flushed, in DECODE or HELD once its last chunks are recomputed; a PARKED one stays
so. -/
def adoptedRuns (s : StreamIx) (c0 : Nat) (w : W9) : W9 :=
  restoreSlot s (modStream s (fun t => { t with prefixHit := min t.length (64 * c0) }) w)

/-- MIRROR_ADOPT (R420): a mirrored stream of the failed partner is adopted in the state its record shows; for one in ENDING the end is completed. -/
def mirrorAdopt (s : StreamIx) (w : W9) : W9 :=
  let t := recordStream w s
  if pairState w ≠ 3 ∨ !w.pair.claimed ∨ !(partnerSlots w).contains s ∨ (streamOf w s).state ≠ .free then w
  else if adoptable w s then
    let t := fromPartner t w
    let w := takeBlocks s (bindAdapter s (takeCpl s (modStream s (fun _ => t) w)))
    let c0 := firstUnflushed w s
    let w := adoptedRuns s c0 w
    raiseS 0x9014 srcSteward s (le 4 t.length ++ le 4 c0) (inc Reg.adopted 1 w)
  else if (t.cls = 1 ∨ t.cls = 2) ∧ t.state = .ending then
    takeCpl s (modStream s (fun _ => { fromPartner t w with adapterSlot := none, phase := none }) w)
  else w

/-- MIRROR_ADOPT. -/
def execMirrorAdopt (st : StreamIx) (s : State) : Host.Outcome State Fault Refusal := lift (mirrorAdopt st) s

/-! ## Hand-off (R422) -/

/-- HANDOFF (R422, R532): the shadow goes on as this W9's stream and delivers every token after the position named. Where the shadow has
ended because both twins tainted the step, side B hands the stream back, and side A takes it (log entry 24). -/
def handoffIn (s : StreamIx) (pos : Nat) (w : W9) : W9 :=
  if !paired w then w
  else if w.pair.shadows.contains s then
    let w := ownShadow s w
    let w := { w with pair := { w.pair with handedTo := w.pair.handedTo ++ [s] } }
    deliverBacklog s pos (raiseS 0x9015 srcSteward s (le 4 pos ++ [1]) w)
  else if (streamOf w s).handedOff ∧ ownSlot w s = true then
    raiseS 0x9015 srcSteward s (le 4 pos ++ [1]) (putStream s (fun t => { t with handedOff := false, state := .decode }) w)
  else if sideB w ∧ ownSlot w s = false then sendTwin (.handoff s pos) w
  else w

/-- HANDOFF. -/
def execHandoff (p : PortIx) (st : StreamIx) (position : Nat) (s : State) : Host.Outcome State Fault Refusal :=
  lift (onTwin p (handoffIn st position)) s

/-- ENDED (R422, R414): a slot handed off is free with its pages, a shadow kept for the owner is free, a phase held for an ended shadow is
free. -/
def endedIn (s : StreamIx) (w : W9) : W9 :=
  if !paired w then w
  else
    let w := { w with pair := { w.pair with shadowPhases := smErase s.val w.pair.shadowPhases } }
    if w.pair.shadows.contains s then freeShadow false s w
    else if (streamOf w s).handedOff then releaseSlot s w
    else w

/-- ENDED. -/
def execEnded (p : PortIx) (st : StreamIx) (s : State) : Host.Outcome State Fault Refusal := lift (onTwin p (endedIn st)) s

/-! ## COMMIT (R408, R414) -/

/-- The mirror of a delivery: the tokens go to the mirrored token log and L to the mirrored record (R408). -/
def mirrorCommit (c : CommitMsg) (w : W9) : W9 := match farOf w with
  | some f =>
    writeFar (recordBase f c.stream + 28) (le 4 c.lAfter)
      (putFars (logBase f c.stream + 4 * c.position) (c.tokens.flatMap (fun x => le 4 x.toNat)) w)
  | none => w

/-- COMMIT: of a shadowed stream it is compared with this W9's own; of any other of the partner's streams it is the mirror's. -/
def commitIn (c : CommitMsg) (w : W9) : W9 :=
  let s := c.stream
  let t := now w
  if !paired w then w
  else if w.pair.shadows.contains s then
    if (streamOf w s).handedOff then mismatch s c.position true w
    else compareCommits s { w with pair := { w.pair with theirs := w.pair.theirs ++ [⟨s, c.position, c.tokens, t, 0⟩] } }
  else if ownSlot w s then
    if (streamOf w s).shadow then
      compareCommits s { w with pair := { w.pair with theirs := w.pair.theirs ++ [⟨s, c.position, c.tokens, t, 0⟩] } }
    else w
  else mirrorCommit c w

/-- COMMIT. -/
def execCommit (p : PortIx) (c : CommitMsg) (s : State) : Host.Outcome State Fault Refusal := lift (onTwin p (commitIn c)) s

/-- COMMIT_TIMEOUT (R414): the partner's COMMIT has not come B_tbt after this W9's own hand-over. -/
def commitTimeout (s : StreamIx) (w : W9) : W9 := match w.pair.own.find? (fun c => c.stream == s) with
  | some c => if paired w && decide (c.time + bTbt w ≤ now w) then mismatch s c.position true w else w
  | none => w

/-- COMMIT_TIMEOUT. -/
def execCommitTimeout (st : StreamIx) (s : State) : Host.Outcome State Fault Refusal := lift (commitTimeout st) s

/-! ## Shadow setup (R411 to R413, Table 11.8) -/

/-- Phases that the twin sees taken: side B passes over its own request for the same phase, which side A's wins. -/
def phasesTaken (w : W9) : List Nat :=
  let waits := w.pair.setups.filterMap (fun e => e.2.map (fun _ => e.1))
  (busyStreams w).filterMap (fun s => if sideB w && waits.contains s.val then none else (streamOf w s).phase) ++
    w.pair.shadowPhases.filterMap (fun e => e.2)

/-- The request that a shadow's record describes, for the bound of R266. -/
def shadowRequest (s : StreamIx) (t : Stream) : Request :=
  { ring := 0, kind := 0, cls := 0, flags := 0, stream := s.val, tag := t.reqTag, modelVer := t.modelVer, adapter := t.adapterHandle
    topK := t.topK, promptAddr := 0, promptLen := t.promptLen, maxNew := t.maxNew, limitFirst := 0, limitStep := 0, stopId := t.stopId
    seed := t.seed, temperature := t.temperature, topP := t.topP, arrival := t.arrival }

/-- The first reason of Table 11.8 that applies, 0 for none. -/
def shadowReason (s : StreamIx) (phase : Nat) (t : Stream) (w : W9) : Nat :=
  if (phasesTaken w).contains phase ∨ rdF w Reg.class0Max 15 0 ≤ (phasesTaken w).length ∨ (streamOf w s).state ≠ .free then 1
  else if !shareFits w t.promptLen t.maxNew then 2
  else if t.adapterHandle ≠ 0 ∧ ((adCurrent w t.adapterHandle).map (adVer w)) ≠ some t.adapterVer then 3
  else if rd w Reg.modelVer ≠ t.modelVer then 4
  else if belowFloor w then 5
  else if w.pair.tainted.contains (s, 3) then 6
  else 0

/-- The shadow is set up in PREFILL on the frames that the owner allocated (R411, R412). -/
def startShadow (s : StreamIx) (phase ownerTtft ttft : Nat) (t : Stream) (w : W9) : W9 :=
  let a := if t.adapterHandle = 0 then none else adCurrent w t.adapterHandle
  let k := w.serve.decisions
  let first := (class0s w).isEmpty && w.pair.shadows.isEmpty
  let t := { t with
    state := .prefill, shadow := true, spec := false, lookup := false, phase := some phase, order := k, adapterSlot := a, length := 0
    prefixHit := 0, deadlineFirst := t.arrival + max ownerTtft ttft, deadlineStep := bTbt w, cplRing := none, reserved := false }
  let chunks := prefillChunks w s 0 (t.promptLen - 1)
  let w := { w with
    serve := { w.serve with decisions := k + 1, queue := w.serve.queue ++ chunks }
    pair := { w.pair with shadows := w.pair.shadows ++ [s], alignDue := w.pair.alignDue || (sideB w && first) } }
  let w := syncClass0 (takeBlocks s (bindAdapter s (modStream s (fun _ => t) w)))
  if chunks.isEmpty then enterDecode s w else w

/-- SHADOW_REQ (R411): the phase and the ledger share are reserved, and SHADOW_ACK carries this W9's own B_ttft; or SHADOW_NAK. -/
def shadowReqIn (s : StreamIx) (phase bTtft : Nat) (w : W9) : W9 :=
  if !paired w ∨ ownSlot w s = true then w
  else
    let t := fromPartner (recordStream w s) w
    let r := shadowReason s phase t w
    let w := { w with pair := { w.pair with tainted := w.pair.tainted.filter (fun e => !(e == (s, 3))) } }
    if r = 0 then
      let b := (ttftOf w (shadowRequest s t) 0).getD 0
      sendTwin (.shadowAck s b) (startShadow s phase bTtft b t w)
    else sendTwin (.shadowNak (BitVec.ofNat 8 r) s) w

/-- SHADOW_REQ. -/
def execShadowReq (p : PortIx) (st : StreamIx) (phase bTtft : Nat) (s : State) : Host.Outcome State Fault Refusal :=
  lift (onTwin p (shadowReqIn st phase bTtft)) s

/-- The setup that waits for an answer about a slot. -/
def setupOf (w : W9) (s : StreamIx) : Option ShadowSetup := smGet (fun _ => none) w.pair.setups s.val

/-- SHADOW_ACK (R411): the stream is admitted with the larger B_ttft, unless that is past LIMIT_FIRST. -/
def shadowAckIn (s : StreamIx) (b : Nat) (w : W9) : W9 := match setupOf w s with
  | none => w
  | some x =>
    let t := max x.bTtft b
    if !paired w then w
    else if x.req.limitFirst < t then refuseSlot x.req 0x16 (sendTwin (.ended s) w)
    else
      admitReq x.req 0 (some x.phase) t (bTbt w) true { w with pair := { w.pair with setups := smErase s.val w.pair.setups } }

/-- SHADOW_ACK. -/
def execShadowAck (p : PortIx) (st : StreamIx) (bTtft : Nat) (s : State) : Host.Outcome State Fault Refusal :=
  lift (onTwin p (shadowAckIn st bTtft)) s

/-- The owner's refusal for a reason of Table 11.8. -/
def nakStatus (reason : Nat) : BitVec 8 := match reason with
  | 3 => 0x13
  | 4 => 0x12
  | 5 => 0x14
  | _ => 0x15

/-- SHADOW_NAK (R411): side B retries a taken phase once with the lowest still free; any other is refused with event 0x9020. -/
def shadowNakIn (reason : BitVec 8) (s : StreamIx) (w : W9) : W9 := match setupOf w s with
  | none => w
  | some x =>
    let clear (w : W9) : W9 := putStream s (fun t => { t with phase := none }) { w with pair := { w.pair with setups := smErase s.val w.pair.setups } }
    let no (w : W9) : W9 := refuseSlot x.req (nakStatus reason.toNat) (raiseS 0x9020 srcSteward s [reason] w)
    if !paired w then w
    else if reason = 1 ∧ sideB w ∧ !x.retried then
      match freePhase (clear w) with
      | some k => shadowSetup x.req k x.bTtft true (clear w)
      | none => no w
    else no w

/-- SHADOW_NAK. -/
def execShadowNak (p : PortIx) (reason : BitVec 8) (st : StreamIx) (s : State) : Host.Outcome State Fault Refusal :=
  lift (onTwin p (shadowNakIn reason st)) s

/-- READY (R413). -/
def readyIn (s : StreamIx) (w : W9) : W9 :=
  if paired w ∧ (streamOf w s).shadow ∧ !w.pair.twinReady.contains s then
    tryStart s { w with pair := { w.pair with twinReady := w.pair.twinReady ++ [s] } }
  else w

/-- READY. -/
def execReady (p : PortIx) (st : StreamIx) (s : State) : Host.Outcome State Fault Refusal := lift (onTwin p (readyIn st)) s

/-- SHADOW_STEP_START (R413): START fixes the pair beat of step 0. -/
def startIn (s : StreamIx) (beat : Nat) (w : W9) : W9 :=
  if paired w ∧ w.pair.shadows.contains s then
    { w with pair := { w.pair with starts := smPut (fun _ => none) w.pair.starts s.val (some beat) } }
  else w

/-- SHADOW_STEP_START. -/
def execShadowStepStart (p : PortIx) (st : StreamIx) (pairBeat : Nat) (s : State) : Host.Outcome State Fault Refusal :=
  lift (onTwin p (startIn st pairBeat)) s

/-! ## Mirroring (R408, R409) -/

/-- BLOCK (R408): the mirrored descriptor takes LAYERS and STATE. -/
def blockIn (s : StreamIx) (b : Nat) (layers : FAddr) (st : Byte) (w : W9) : W9 := match farOf w with
  | some f =>
    if paired w ∧ ownSlot w s = false ∧ b < 8192 then
      let d := le 8 layers.toNat ++ le 8 (now w) ++ [0xFF, 0xFF, 0xFF, 0xFF, st, BitVec.ofNat 8 (2 * b2n (kv8On w))] ++ List.replicate 10 0
      writeFar (dirBase f s + 32 * b) d w
    else w
  | none => w

/-- BLOCK. -/
def execBlock (p : PortIx) (st : StreamIx) (index : Nat) (layers : FAddr) (state : Byte) (s : State) :
    Host.Outcome State Fault Refusal := lift (onTwin p (blockIn st index layers state)) s

/-- The place of a layer among the KV layers (R227). -/
def kvIndex (w : W9) (l : Nat) : Option Nat := match w.img with
  | some im => ((im.body.layers.filter (fun m => m.kv)).map (fun m => m.layer.val)).findIdx? (· == l)
  | none => none

/-- Set the FLUSHED bit of a chunk in the mirrored layer vector. -/
def mirrorFlushed (vec c l : Nat) (w : W9) : W9 := match kvIndex w l with
  | some i =>
    let a := vec + 16 * i
    writeFar a [((farBytes w a 1).headD 0) ||| BitVec.ofNat 8 (2 ^ (c % 4))] w
  | none => w

/-- CHUNK_DONE (R409): the chunk is flushed in the mirror, unless one of its data flits was damaged. -/
def chunkDoneIn (s : StreamIx) (c first last : Nat) (w : W9) : W9 := match farOf w with
  | some f =>
    if paired w ∧ ownSlot w s = false ∧ c < 32768 then
      if w.pair.tainted.contains (s, 2) then
        mirrorLost s c 1 { w with pair := { w.pair with tainted := w.pair.tainted.filter (fun e => !(e == (s, 2))) } }
      else
        let vec := ofLe (farBytes w (dirBase f s + 32 * (c / 4)) 8)
        if vec = 0 then w
        else forEach (List.range (min 256 (last + 1 - first))) (fun i w => mirrorFlushed vec c (first + i) w) w
    else w
  | none => w

/-- CHUNK_DONE. -/
def execChunkDone (p : PortIx) (st : StreamIx) (chunk first last : Nat) (s : State) : Host.Outcome State Fault Refusal :=
  lift (onTwin p (chunkDoneIn st chunk first last)) s

/-- The far ranges of a chunk's elements and scales in one layer (Table 6.3, Table 6.6): none while the layer vector names no frame. -/
def chunkRanges (w : W9) (s : StreamIx) (l : LayerIx) (c : Nat) : List (Nat × Nat) := match blockOf w s (c / 4), layerMap w l, kvIndex w l.val with
  | some d, some m, some i =>
    let e := farBytes w (d.layers.toNat + 16 * i) 16
    let elem := ofLe (e.take 8) / 2 ^ 18 % 2 ^ 30 * 2 ^ 18
    let scale := ofLe (e.drop 8) / 2 ^ 14 % 2 ^ 34 * 2 ^ 14
    let row := if kv8On w then m.width else m.width / 2
    let k := m.width / 32
    if d.layers = 0 ∨ elem = 0 ∨ scale = 0 then []
    else (List.range (2 * m.heads)).flatMap (fun g =>
      [(elem + (g * 256 + c % 4 * 64) * row, 64 * row), (scale + (g * 256 + c % 4 * 64) * k, 64 * k)])
  | _, _, _ => []

/-- MIRROR_SEND (R409): the mirror engine sends the oldest item's elements and scales, and CHUNK_DONE. -/
def mirrorSend (w : W9) : W9 := match w.pair.mirrorQueue with
  | [] => w
  | (s, l, c) :: r =>
    if !paired w then w
    else
      let w := { w with pair := { w.pair with mirrorQueue := r } }
      let w := forEach (chunkRanges w s l c) (fun x w => sendFar 2 s.val x.1 x.2 w) w
      sendTwin (.chunkDone s c l.val l.val) (inc Reg.mirrorChunks 1 w)

/-- MIRROR_SEND. -/
def execMirrorSend (s : State) : Host.Outcome State Fault Refusal := lift mirrorSend s

/-! ## Format changes, stretch, freeze (R153, R352, R406, R415, R416, R561) -/

/-- The rung of a layer's ladder that has a format. -/
def rungOf (m : LayerMap) (f : BitVec 4) : Option Nat := m.ladder.findIdx? (· == f)

/-- ESC_REQ (R415, R561), on side A: an escalation is committed; a de-escalation once this W9 has decided it too; a withdrawal is forgotten. -/
def escReqIn (l : LayerIx) (fmt : BitVec 4) (kind : Fin 3) (w : W9) : W9 :=
  if !paired w || sideB w then w
  else match (policyLayers w).find? (fun m => m.layer == l) with
  | none => w
  | some m =>
    if kind = 2 then modLayer l (fun x => { x with partnerDown := false }) w
    else match rungOf m fmt with
      | none => w
      | some n =>
        if kind = 0 then commitNow (addWaiting (l, n) w)
        else
          let w := modLayer l (fun x => { x with partnerDown := true }) w
          if (layerOf w l).decided = some .down then commitNow (addWaiting (l, n) w) else w

/-- ESC_REQ. -/
def execEscReq (p : PortIx) (layer : LayerIx) (fmt : BitVec 4) (kind : Fin 3) (s : State) : Host.Outcome State Fault Refusal :=
  lift (onTwin p (escReqIn layer fmt kind)) s

/-- Every shadowed stream is a mismatch (R415). -/
def allMismatch (w : W9) : W9 :=
  forEach ((busyStreams w).filter (fun s => (streamOf w s).shadow)) (fun s w => mismatch s ((streamOf w s).length + 1) true w) w

/-- ESC_COMMIT (R415), on side B: the change flips at its boundary with those that share it; one that comes late is reported. -/
def escCommitIn (l : LayerIx) (fmt : BitVec 4) (b : Nat) (w : W9) : W9 :=
  if !paired w || !sideB w then w
  else
    let w := if b ≤ pairBeat w then
        allMismatch (raise0 0x9022 srcSteward (le 2 l.val ++ [0, 0, 0, 0, 0, 0] ++ le 8 b) w)
      else w
    match (policyLayers w).find? (fun m => m.layer == l) with
    | none => w
    | some m => match rungOf m fmt with
      | none => w
      | some n => match w.prec.change with
        | some c => if c.boundary = b ∧ !c.flipped then startChange b true (c.layers ++ [(l, n)]) w else startChange b true [(l, n)] w
        | none => startChange b true [(l, n)] w

/-- ESC_COMMIT. -/
def execEscCommit (p : PortIx) (layer : LayerIx) (fmt : BitVec 4) (boundary : Nat) (s : State) : Host.Outcome State Fault Refusal :=
  lift (onTwin p (escCommitIn layer fmt boundary)) s

/-- ESC_CLEAR (R415), on side A: side B has no change pending, and what waits can be committed. -/
def escClearIn (w : W9) : W9 :=
  if !paired w || sideB w then w else commitNow { w with pair := { w.pair with escClear := true } }

/-- ESC_CLEAR. -/
def execEscClear (p : PortIx) (_pairBeat : Nat) (s : State) : Host.Outcome State Fault Refusal := lift (onTwin p escClearIn) s

/-- STRETCH (R406). -/
def stretchIn (cycles first : Nat) (w : W9) : W9 :=
  if paired w then
    let w := applyStretch w
    { w with pair := { w.pair with partnerNext := some (cycles, first) } }
  else w

/-- STRETCH. -/
def execStretch (p : PortIx) (cycles firstBeat : Nat) (s : State) : Host.Outcome State Fault Refusal :=
  lift (onTwin p (stretchIn cycles firstBeat)) s

/-- FREEZE (R352): the W9 freezes at its next beat boundary. -/
def freezeIn (w : W9) : W9 :=
  if paired w && !rdB w Reg.dbgStatus 30 then
    let own := w.dbg.freezeDue
    { w with dbg := { w.dbg with freezeDue := true, freezeTwin := !own } }
  else w

/-- FREEZE. -/
def execFreeze (p : PortIx) (s : State) : Host.Outcome State Fault Refusal := lift (onTwin p freezeIn) s

/-- RESUME from the twin (R352, R416): the next pulse falls at T − PAIR_OFFSET, or at once where that has passed. -/
def resumeIn (t : Nat) (w : W9) : W9 :=
  if paired w && rdB w Reg.dbgStatus 30 then
    let own := ownTime w t
    let n := now w
    let w := { w with dbg := { w.dbg with resumeAt := some (max own n) } }
    if own ≤ n then endFreeze w else w
  else w

/-- RESUME_MESSAGE. -/
def execResumeMessage (p : PortIx) (t : Nat) (s : State) : Host.Outcome State Fault Refusal := lift (onTwin p (resumeIn t)) s

/-! ## Mule messages (R305) -/

/-- MULE_RESEND: the source sends the layer again from its own far copy, on the port where the request came. -/
def muleResendIn (p : PortIx) (l : LayerIx) (dest : BitVec 16) (w : W9) : W9 :=
  if muleRole w ≠ 1 ∨ destOk w dest = false then w
  else
    let h := match w.wt.load with | some o => o.header | none => farSet w (rd64 w Reg.loadDst)
    match h.manifest.find? (fun e => e.layer == l.val) with
    | some e => sendMule p (rd64 w Reg.loadDst + e.offset) e.length w
    | none => w

/-- MULE_RESEND. -/
def execMuleResend (p : PortIx) (_attempt : Nat) (layer : LayerIx) (dest _src : BitVec 16) (s : State) :
    Host.Outcome State Fault Refusal := lift (onPort p (muleResendIn p layer dest)) s

/-- MULE_FAIL: a receiver's load fails with reason 6. -/
def muleFailIn (dest : BitVec 16) (w : W9) : W9 := match w.wt.load with
  | some o => if o.receive ∧ destOk w dest = true ∧ loadState w = 1 then loadFails 6 w else w
  | none => w

/-- MULE_FAIL. -/
def execMuleFail (p : PortIx) (dest _src : BitVec 16) (s : State) : Host.Outcome State Fault Refusal := lift (onPort p (muleFailIn dest)) s

end Sys2Proof.Machine
end

