-- ==== Sys2Proof/Machine/Faults.lean ====
section
/-! DEFINITION. Self-tests and their endings, Rooster's watches, and the release of a quarantined slot (spec/15_faults_recovery.md R533 to R539,
R549, Tables 15.3 and 15.8). -/

namespace Sys2Proof.Machine

open Sys2Proof

/-! ## Rooster (R537, R538) -/

/-- ROOSTER_BEAT (R537, Table 15.10): the firmware's write is its heartbeat; a host's is discarded. -/
def roosterBeat (byHost : Bool) (w : W9) : W9 :=
  if booted w && !byHost then { w with flt := { w.flt with beatSeen := true } } else w

/-- ROOSTER_BEAT. -/
def execRoosterBeat (byHost : Bool) (s : State) : Host.Outcome State Fault Refusal := lift (roosterBeat byHost) s

/-- The end of the window that runs. The watch starts 1 ms after boot; step 6 is not timed apart from step 9 (DEDUCED, log entry 50). -/
def windowEnds (w : W9) : Nat := max w.flt.windowEnd (w.rst.releasedAt + 1000000) + 100000

/-- ROOSTER_WINDOW (R537): a window of 100 µs ends; one without a heartbeat is counted, and the third in a row is a hang with cause 1. -/
def roosterWindow (w : W9) : W9 :=
  let e := windowEnds w
  if booted w && decide (e ≤ now w) then
    if w.flt.beatSeen then { w with flt := { w.flt with beatSeen := false, misses := 0, windowEnd := e } }
    else
      let n := w.flt.misses + 1
      let w := inc Reg.roosterMisses 1 { w with flt := { w.flt with misses := n, windowEnd := e } }
      if 3 ≤ n then hangDetect 1 none w else w
  else w

/-- ROOSTER_WINDOW. -/
def execRoosterWindow (s : State) : Host.Outcome State Fault Refusal := lift roosterWindow s

/-- The planned end of the beat that field `f`'s counter is in, where the field is watched: an image is RUNNING and the field gives its
tiles their pulses (R537). -/
def plannedEnd (w : W9) (f : FieldIx) : Option Nat :=
  if booted w && imgState w == 3 && taking w f then ((fieldState w f).owing.head?).map (fun e => e.1) else none

/-- BEAT_WATCH (R537): a beat counter that has not advanced 1 ms after the planned end of its beat is a hang with cause 2. -/
def beatWatch (f : FieldIx) (w : W9) : W9 := match plannedEnd w f with
  | some t => if t + 1000000 < now w then hangDetect 2 (some f) w else w
  | none => w

/-- BEAT_WATCH. -/
def execBeatWatch (f : FieldIx) (s : State) : Host.Outcome State Fault Refusal := lift (beatWatch f) s

/-- The latest moment at which a replayed chunk may complete: its bound at the pace in force and 1 ms, and none at pace 0 (R548). -/
def chunkLimit (w : W9) (r : Replay) : Option Nat := match w.serve.groups.find? (fun g => match g.running with
    | some x => x.1.stream == r.stream
    | none => false) with
  | some g => match g.running with
    | some x => (chunkBound w (paceNow w) x.1.count).map (fun n => x.2.1 + n + 1000000)
    | none => none
  | none => none

/-- The watch limit of the replay under way: of its running chunk, or of its step in the pipeline (R548). -/
def watchLimit (w : W9) : Option Nat := match w.flt.replay with
  | some r =>
    if r.chunk then chunkLimit w r
    else if inPipe w r.stream || awaiting w r.stream then some r.limit
    else none
  | none => none

/-- REPLAY_WATCH (R537, R549): a replay that passes its watch limit is a hang with cause 5; the field is not known. -/
def replayWatch (w : W9) : W9 := match watchLimit w with
  | some t => if booted w && decide (t < now w) then hangDetect 5 none w else w
  | none => w

/-- REPLAY_WATCH. -/
def execReplayWatch (s : State) : Host.Outcome State Fault Refusal := lift replayWatch s

/-! ## Self-tests (R533 to R535) -/

/-- The field a tested unit lies in. -/
def unitField : TestUnit → Option FieldIx
  | .bankBank t _ => some (tileField t)
  | .opsBank t _ => some (tileField t)
  | .gwChannel g _ => some (gwField g)
  | .routerInput t => some (tileField t)
  | .seam f _ => some f
  | .array t => some (tileField t)
  | .vector t => some (tileField t)
  | .lanes _ => none
  | .sensorPair _ => none
  | .supply f _ => some f

/-- Why the unit's field keeps a test from going on: 1 it parks, 2 it is reset, 3 it is lost (event 0xD012); 0 for none. -/
def fieldStops (w : W9) (u : TestUnit) : Nat := match unitField u with
  | none => 0
  | some f =>
    if fieldLostNow w f then 3
    else if (fieldState w f).reset.isSome then 2
    else if 1 ≤ parkState w f then 1
    else 0

/-- The tile whose idle gap a march, an array scan, a vector scan or a router loopback waits for. -/
def unitTile : TestUnit → Option Tile
  | .bankBank t _ => some t
  | .opsBank t _ => some t
  | .routerInput t => some t
  | .array t => some t
  | .vector t => some t
  | _ => none

/-- A tile is in a declared idle gap with 120 cycles left, and its array has nothing in flight (R66, R533). The gap's length is its time
left (DEDUCED, log entry 51). -/
def testGap (w : W9) (u : TestUnit) : Bool := match unitTile u with
  | none => true
  | some t => idling w t && (match u with
    | .routerInput _ => true
    | _ => decide (now w + 120 ≤ (tileOf w t).idleUntil) && (tileOf w t).products.isEmpty)

/-- Tests go on: the W9 has booted and is not in hold (R534). -/
def testsRun (w : W9) : Bool := booted w && !inHold w

/-- SELF_TEST_RUN (R533): a queued test starts. What it reads it restores, so that nothing else changes. -/
def selfTestRun (u : TestUnit) (w : W9) : W9 :=
  if testsRun w && fieldStops w u == 0 && testGap w u then
    let n := now w
    { w with flt := { w.flt with tests := w.flt.tests.map (fun x => if x.unit = u ∧ x.started = none then { x with started := some n } else x) } }
  else w

/-- SELF_TEST_RUN. -/
def execSelfTestRun (u : TestUnit) (s : State) : Host.Outcome State Fault Refusal := lift (selfTestRun u) s

/-- The test leaves the queue. -/
def dropTest (u : TestUnit) (w : W9) : W9 := { w with flt := { w.flt with tests := w.flt.tests.filter (fun x => decide (x.unit ≠ u)) } }

/-- The counts of a test that ended, of the device and of the unit's field (R535, R555). -/
def countTest (u : TestUnit) (all : Nat) (own : Nat → Nat) (w : W9) : W9 :=
  let w := inc all 1 (inc Reg.testsRun 1 w)
  match unitField u with
  | some f => inc (own f.val) 1 w
  | none => w

/-- What Table 15.3 does for a lasting fault, as event 0xD011 names it: 0 kept under SECDED, 1 field lost, 2 spare or lane, 3 sensor
retired, 4 limit kept. -/
def testAction (u : TestUnit) (r : TestResult) : Nat := match u with
  | .bankBank _ _ => if r = .stuckBit then 0 else 1
  | .opsBank _ _ => if r = .stuckBit then 0 else 1
  | .lanes _ => 2
  | .sensorPair _ => 3
  | .supply _ _ => 4
  | _ => 1

/-- BAD_COL and BAD_ROW of a field as boot applied them (R32, R508). -/
def repairMap (w : W9) (f : FieldIx) : Option Nat × Option Nat :=
  let at' (i : Nat) : Option Nat :=
    let v := (w.opt.maps.getD (4 * f.val + i) 0xFF).toNat
    if v = 0xFF then none else some v
  (at' 0, at' 1)

/-- The repair map that would cover a failed tile: its physical column where the column axis is free, else its row; none where both axes are
in use (R536). -/
def proposedMap (m : Option Nat × Option Nat) (t : Tile) : Option (Option Nat × Option Nat) :=
  let p := physicalTile m.1 m.2 (tileX t % 24) (tileY t % 28)
  match m with
  | (none, row) => some (some p.1, row)
  | (some c, none) => some (some c, some p.2)
  | (some _, some _) => none

/-- PROPOSED_REPAIR_MAP (R536). -/
def proposeMap (t : Tile) (w : W9) : W9 :=
  let f := tileField t
  let r := Reg.fieldFault f.val
  match proposedMap (repairMap w f) t with
  | some m => wrF r 4 0 (m.2.getD 0x1F) (wrF r 12 8 (m.1.getD 0x1F) (wrB r 25 true w))
  | none => wrB r 24 true w

/-- A lasting tile fault loses its field (R35). -/
def tileFault (t : Tile) (w : W9) : W9 := proposeMap t (loseField (tileField t) 1 w)

/-- The channels of a stack that a gateway serves: `ch` is one of its four (R290). -/
def stackChannel (g : Gateway) (ch : Fin 4) : Nat := 4 * (g.val % 4) + ch.val

/-- A channel fails (R296): event 0x6004, GW_ERR.CHANNEL_FAIL, and its stack. -/
def channelFault (g : Gateway) (ch : Fin 4) (w : W9) : W9 :=
  failStack (gwField g) (raise0 0x6004 (srcGw g.val) [BitVec.ofNat 8 (stackChannel g ch)] (wrB (Reg.gwErr g.val) 3 true w))

/-- A lasting seam fault: the seam is failed, and the field that owns its queue is lost (R178, Table 15.8). -/
def seamFault (f : FieldIx) (sd : Fin 4) (w : W9) : W9 :=
  loseField f 2 (modField f (fun s => { s with lanesFailed := if s.lanesFailed.contains sd then s.lanesFailed else s.lanesFailed ++ [sd] }) w)

/-- The sensors of a pair that a failed test names: lane 0 is a, lane 1 is b, none is both. -/
def sensorFault (i : Fin 246) (lane : Option (Fin 34)) (w : W9) : W9 := match lane with
  | some k => checkPair i.val (decide (k ≠ 0)) (decide (k = 0)) w
  | none => checkPair i.val false false w

/-- The action of Table 15.3 for a lasting fault. -/
def takeAction (u : TestUnit) (r : TestResult) (w : W9) : W9 :=
  let lane := match r with | .fail l => l | _ => none
  match u with
  | .bankBank t _ => if r = .stuckBit then w else loseField (tileField t) 7 w
  | .opsBank t _ => if r = .stuckBit then w else loseField (tileField t) 7 w
  | .gwChannel g ch => channelFault g ch w
  | .routerInput t => tileFault t w
  | .seam f sd => seamFault f sd w
  | .array t => tileFault t w
  | .vector t => tileFault t w
  | .lanes p => match lane with | some k => laneFail p k w | none => w
  | .sensorPair i => sensorFault i lane w
  | .supply f _ => wrB (Reg.fieldFault f.val) 26 true w

/-- What a test that passes undoes: a supply test lifts the limit it was queued with (R445), a sensor check clears the flag (R462). -/
def passAction (u : TestUnit) (w : W9) : W9 := match u with
  | .supply f _ => setSoftLimit f false (wrB (Reg.droopStatus f.val) 31 false w)
  | .sensorPair i => referenceCheck i true true w
  | _ => w

/-- A running test passes: the error was transient (R535). -/
def testPassed (x : SelfTest) (w : W9) : W9 :=
  let w := countTest x.unit Reg.transients Reg.fieldTransients w
  passAction x.unit (raise0 0xD010 (unitCode x.unit) ([BitVec.ofNat 8 x.row, 0, 0, 0, 0, 0, 0, 0] ++ le 8 x.trigger) w)

/-- A running test fails: the fault is lasting (R535). -/
def testFailed (x : SelfTest) (r : TestResult) (w : W9) : W9 :=
  let w := countTest x.unit Reg.lasting Reg.fieldLasting w
  let d := [BitVec.ofNat 8 x.row, BitVec.ofNat 8 (testAction x.unit r), 0, 0, 0, 0, 0, 0] ++ le 8 x.trigger
  takeAction x.unit r (raise0 0xD011 (unitCode x.unit) d w)

/-- SELF_TEST_END (R535): the running test of a unit ends. -/
def selfTestEnd (u : TestUnit) (r : TestResult) (w : W9) : W9 :=
  match w.flt.tests.find? (fun x => x.unit == u && x.started.isSome) with
  | none => w
  | some x =>
    if testsRun w && fieldStops w u == 0 then
      if r = .pass then testPassed x (dropTest u w) else testFailed x r (dropTest u w)
    else w

/-- SELF_TEST_END. -/
def execSelfTestEnd (u : TestUnit) (r : TestResult) (s : State) : Host.Outcome State Fault Refusal := lift (selfTestEnd u r) s

/-- A reason to abandon a test holds (R534): 10 s since its start, or its field parks, is reset or is lost. -/
def abandonHolds (x : SelfTest) (why : AbandonWhy) (w : W9) : Bool := match why with
  | .timeLimit => (match x.started with | some t => decide (t + 10000000000 ≤ now w) | none => false)
  | .park => fieldStops w x.unit == 1
  | .reset => fieldStops w x.unit == 2
  | .lost => fieldStops w x.unit == 3

/-- Byte 1 of event 0xD012. -/
def whyCode : AbandonWhy → Byte
  | .timeLimit => 0
  | .park => 1
  | .reset => 2
  | .lost => 3

/-- SELF_TEST_ABANDON (R534). -/
def selfTestAbandon (u : TestUnit) (why : AbandonWhy) (w : W9) : W9 := match w.flt.tests.find? (fun x => x.unit == u) with
  | none => w
  | some x =>
    if booted w && abandonHolds x why w then
      raise0 0xD012 srcSteward [BitVec.ofNat 8 x.row, whyCode why] (inc Reg.testsAbandoned 1 (dropTest u w))
    else w

/-- SELF_TEST_ABANDON. -/
def execSelfTestAbandon (u : TestUnit) (why : AbandonWhy) (s : State) : Host.Outcome State Fault Refusal := lift (selfTestAbandon u why) s

/-! ## RELEASE (R549) -/

/-- RELEASE: FAULT_CMD returns a QUARANTINED slot to FREE; one that names another slot is discarded. -/
def release (s : StreamIx) (w : W9) : W9 :=
  if !cmdOpen w then w
  else if (streamOf w s).state = .quarantined then freeSlot s w
  else wrB Reg.faultStatus 26 true w

/-- RELEASE. -/
def execRelease (st : StreamIx) (s : State) : Host.Outcome State Fault Refusal := lift (release st) s

end Sys2Proof.Machine
end

