-- ==== Sys2Proof/Machine/Recovery.lean ====
section
/-! DEFINITION. Recovery after a warm reset, the replay of suspects, and the end of an instantiation (spec/15_faults_recovery.md R542 to
R549, Table 15.5; spec/09_image_contract.md R339, R347). -/

namespace Sys2Proof.Machine

open Sys2Proof

/-- FAULT_STATUS.RECOVERY: 0 IDLE, 1 WAIT_TWIN, 2 INSTANTIATING, 3 REFILLING, 4 RESTORING, 5 REPLAYING, 6 FAILED. -/
def setRecovery (n : Nat) (w : W9) : W9 := wrF Reg.faultStatus 30 28 n w

/-! ## What the records say (R540, R543) -/

/-- The leading SHARED blocks of a stream: the prefix it bound. -/
def sharedBlocks (w : W9) (s : StreamIx) : Nat := ((streamBlocks w s).takeWhile (fun e => decide (e.2.state = .shared))).length

/-- The stream that a slot's record describes, as recovery takes it up: its completion record goes to ring CPL_RING, and no twin shadows
it. -/
def revived (w : W9) (s : StreamIx) : Stream :=
  { recordStream w s with
    cplRing := some (Fin.ofNat 16 (rdF w Reg.faultCtrl 3 0)), reserved := false, shadow := false, prefixHit := 256 * sharedBlocks w s }

/-- Pages still to be reserved for a stream: its record's whole need less what its blocks hold (R543). -/
def reserveNeed (w : W9) (s : StreamIx) : Nat :=
  let t := streamOf w s
  if t.cls = 0 ∧ t.phase.isSome then (cdiv (t.promptLen + t.maxNew) 256 - (streamBlocks w s).length) * kvLayers w else 0

/-- A slot that this W9 restores is taken up as its record says. -/
def reviveSlot (s : StreamIx) (w : W9) : W9 :=
  let t := revived w s
  if t.state = .free then w
  else
    let w := modStream s (fun _ => t) w
    setReserve s (reserveNeed w s) w

/-- KV_PAGES_FREE follows from the blocks and the nodes. -/
def recountPages (w : W9) : W9 :=
  let own := (w.kv.blocks.filter (fun e => match e.2 with
    | some d => decide (d.state ≠ .dropped) && decide (d.state ≠ .shared)
    | none => false)).length
  setKvFree ((rd w Reg.kvPagesTotal).toNat - (own + w.kv.nodes.length) * kvLayers w) w

/-- Blocks of slots that are not this W9's to restore are none of its own. -/
def ownBlocks (own : StreamIx → Bool) (w : W9) : W9 :=
  { w with kv := { w.kv with reserve := [], blocks := w.kv.blocks.filter (fun e => own (Fin.ofNat 1024 (e.1 / 8192))) } }

/-- The streams that the record leaves to this W9: all of them, or its own half where the record shows PAIRED (R544). -/
def recordOwns (w : W9) (s : StreamIx) : Bool := match bestHeader w with
  | some h => !h.paired || (decide (512 ≤ s.val) == h.side)
  | none => true

/-- Those streams are taken up from their records in far memory, in the layout of the rung in force. -/
def reviveStreams (w : W9) : W9 :=
  let own := recordOwns w
  syncClass0 (forEach (allStreams.filter own) reviveSlot (recountPages (ownBlocks own w)))

/-- The image in force is `im` at rung `k`, so that far memory is read in its layout. -/
def adoptImage (im : ImageS) (k : Nat) (w : W9) : W9 := wrF Reg.imgStatus 23 16 k { w with img := some im }

/-! ## Failing (R542, Table 15.9) -/

/-- Recovery fails: event 0xD024, the image state is IDLE, every stream ends with ENDED_RECOVERY. -/
def recoveryFails (code : Byte) (w : W9) : W9 :=
  let w := raise0 0xD024 srcSteward [code] (setRecovery 6 (endStreams 0x22 w))
  let w := { w with img := none, flt := { w.flt with recovering := false, suspects := [], replay := none } }
  setImgState 0 (wrB Reg.hangInfo 27 false (syncSuspects w))

/-- The streams whose records lie in the layout of rung `k` of the checked image, where there is one. -/
def failFrom (code : Byte) (k : Nat) (w : W9) : W9 := match w.checked with
  | some im => recoveryFails code (reviveStreams (adoptImage im k w))
  | none => recoveryFails code w

/-! ## Instantiating (R542, R546, R347) -/

/-- The adapters that the adapter table says are CURRENT are there again (R542). -/
def reinstallAdapter (n : Fin 64) (w : W9) : W9 :=
  let b := farRead w (recoveryAddr w + 0x2000 + 32 * n.val) 32
  let at' (o k : Nat) : Nat := ofLe ((b.drop o).take k)
  if at' 0 2 = 2 then
    let w := wr (Reg.adapterVer n.val) (BitVec.ofNat 32 (at' 4 4)) (wr (Reg.adapterId n.val) (BitVec.ofNat 32 (at' 2 2 * 0x10000 + 2)) w)
    { w with wt := { w.wt with adapterAddr := smPut (fun _ => (0 : FAddr)) w.wt.adapterAddr n.val (BitVec.ofNat 64 (at' 8 8)) } }
  else w

/-- A stream's adapter counts it again; one whose slot is not CURRENT has none (DEDUCED, log entry 52). -/
def rebind (s : StreamIx) (w : W9) : W9 := match (streamOf w s).adapterSlot with
  | some n => if adState w n = 2 then adBind n w else modStream s (fun t => { t with adapterSlot := none }) w
  | none => w

/-- The record's rung is instantiated again, and far memory carries across (R542): the resident layers are refilled from WSET_ACTIVE,
MODEL_VER is the record's, and CURRENT adapters are reinstalled. -/
def recoverSame (im : ImageS) (h : RecHeader) (g : Rung) (w : W9) : W9 :=
  let w := if h.wset = 0 then w
    else
      let sh := farSet w h.wset
      wr64 Reg.wsetActive h.wset { (farSetEffects h.wset w) with wt := { w.wt with active := some sh } }
  let w := setupPrec im.body.layers w
  let w := instantiate im h.rung g [] h.wset w
  let w := forEach (busyStreams w) rebind (forEach (List.finRange 64) reinstallAdapter (wr Reg.modelVer h.modelVer w))
  if h.wset = 0 then w else setRecovery 3 w

/-- Another rung is instantiated: MODEL_VER is 0, and every stream ends with ENDED_FIELD_LOST (R542). -/
def recoverOther (im : ImageS) (k : Nat) (g : Rung) (w : W9) : W9 :=
  freeRecords (instantiate im k g [] 0 (freshImage im g (endStreams 0x23 w)))

/-- A rung is usable (R347). -/
def rungUsable (w : W9) (b : ImageBody) (k : Nat) : Bool :=
  decide (k < b.rungs.length) && (List.range 48).all (fun f => !(usedBy b k f && rdB64 w Reg.imgLost f))

/-- The rung that recovery takes: the record's, else the lowest usable. -/
def recoveryRung (w : W9) (b : ImageBody) (k : Nat) : Option Nat := if rungUsable w b k then some k else usableRung w b

/-- Recovery instantiates a rung, or fails where none is usable. -/
def recoverRung (im : ImageS) (h : RecHeader) (w : W9) : W9 :=
  let w := setRecovery 2 w
  match recoveryRung w im.body h.rung with
  | none => recoveryFails 3 w
  | some k => match im.body.rungs[k]? with
    | none => recoveryFails 3 w
    | some g => if k = h.rung then recoverSame im h g w else recoverOther im k g w

/-! ## RECOVERY_START (R542, R544) -/

/-- The suspects: the streams that the flight log names (R541). A reset that no hang caused has them too; after a trip there are none
(R547). -/
def findSuspects (g : Rung) (w : W9) : W9 :=
  let l := if rdF w Reg.rstCause 7 0 = 8 then [] else flightStreams w g.timing.stages
  { w with flt := { w.flt with suspects := l } }

/-- The record is good: the streams are taken up from their records, and a W9 that was PAIRED listens for its twin first (R544). -/
def recoverFrom (im : ImageS) (h : RecHeader) (g : Rung) (w : W9) : W9 :=
  let t := now w
  let w := { w with flt := { w.flt with recovering := true, waitSince := t, helloSeen := false } }
  let w := if h.paired then
      wrF Reg.pairStatus 31 30 1 (wr Reg.pairCtrl (BitVec.ofNat 32 (0x80000000 + 0x40000000 * b2n h.side)) w)
    else w
  let w := reviveStreams (setupKv g (adoptImage im h.rung (findSuspects g w)))
  if h.paired then setRecovery 1 w else recoverRung im h w

/-- The image in far memory is the record's: HDR_CRC and BODY_DIGEST agree (R542). -/
def imageAgrees (w : W9) (h : RecHeader) : Bool :=
  let b := farRead w (rd64 w Reg.imgAddr) 256
  headerOk b && (b.drop 64).take 32 == h.digest

/-- The header copy recovery uses; a W9 with no recovery region has none. -/
def recoveryHeader (w : W9) : Option RecHeader := if recoveryAddr w = 0 then none else bestHeader w

/-- RECOVERY_START (R542), once after a warm reset. -/
def recoveryStart (w : W9) : W9 :=
  if booted w && w.flt.recoveryDue then
    let w := { w with flt := { w.flt with recoveryDue := false } }
    match recoveryHeader w with
    | none => failFrom 0 0 w
    | some h =>
      if !rdB w Reg.faultCtrl 31 then failFrom 1 h.rung w
      else match w.checked with
        | none => recoveryFails 2 w
        | some im =>
          if !imageAgrees w h then failFrom 2 h.rung w
          else match im.body.rungs[h.rung]? with
            | none => failFrom 2 0 w
            | some g => recoverFrom im h g w
  else w

/-- RECOVERY_START. -/
def execRecoveryStart (s : State) : Host.Outcome State Fault Refusal := lift recoveryStart s

/-- The wait for the twin is over (R544): its ports have trained or 10 ms have passed, and 3 ms of listening. -/
def listenOver (w : W9) : Bool :=
  let t := w.flt.waitSince
  let up := allPorts.all (fun p => !isTwinPort w p || portUp w p)
  decide (t + 3000000 ≤ now w) && (up || decide (t + 13000000 ≤ now w))

/-- RECOVERY_TWIN_LISTEN_END (R544): a partner that lives has the streams, and every slot is free; else the own half is restored. -/
def twinListenEnd (w : W9) : W9 :=
  if booted w && waitsForTwin w && listenOver w then
    let w := if w.flt.helloSeen then
        releaseToTwin { w with flt := { w.flt with suspects := [] } }
      else w
    match w.img, recoveryHeader w with
    | some im, some h => recoverRung im h w
    | _, _ => recoveryFails 0 w
  else w

/-- RECOVERY_TWIN_LISTEN_END. -/
def execRecoveryTwinListenEnd (s : State) : Host.Outcome State Fault Refusal := lift twinListenEnd s

/-! ## Quarantine (R549) -/

/-- QUARANTINE: the stream's blocks and bindings go, its record and token log stay, and its completion record waits for its ring. -/
def quarantineStream (s : StreamIx) (w : W9) : W9 :=
  let t := now w
  let x := streamOf w s
  let w := putStream s (fun y => { y with endStatus := 0x20, state := .quarantined, endTime := t }) (winEnded x.cls.toNat w)
  let w := releaseShared s (releaseHoldings s (dropWork s w))
  let w := match x.cplRing with
    | some n => pushCpl n (cplOf w s) w
    | none => w
  raiseS 0xD031 srcSteward s (le 4 x.length) (raiseS 0xD032 srcSteward s [0x20] w)

/-- The stream whose replay hung, from HANG_INFO. -/
def hungReplay (w : W9) : Option StreamIx :=
  if rdF w Reg.hangInfo 31 28 = 5 ∧ rdB w Reg.hangInfo 27 = true ∧ rdF w Reg.rstCause 7 0 = 5 then
    some (Fin.ofNat 1024 (rdF w Reg.hangInfo 9 0))
  else none

/-- The first step of a recovery that follows a hung replay. -/
def quarantineHung (w : W9) : W9 :=
  let w := match hungReplay w with
    | some s => if (liveStreams w).contains s then quarantineStream s w else w
    | none => w
  wrB Reg.hangInfo 27 false w

/-! ## The end of an instantiation (R339, R348, R542, R548) -/

/-- The suspects that are still to be replayed: streams that run, where REPLAY_EN is 1 (R548). -/
def keepSuspects (w : W9) : W9 :=
  let ok (s : StreamIx) : Bool := ([.prefill, .decode, .held] : List StreamState).contains (streamOf w s).state
  let l := if rdB w Reg.faultCtrl 30 then w.flt.suspects.filter ok else []
  syncSuspects { w with flt := { w.flt with suspects := l } }

/-- Recovery ends (R542, R543): streams are restored, RECOVERIES and LAST_RECOVERY_NS count it, event 0xD021; suspects are replayed next. -/
def recoveryEnds (w : W9) : W9 :=
  let w := quarantineHung (setRecovery 4 (imageStarts w))
  let n := ((busyStreams w).filter (fun s => restorable (streamOf w s))).length
  let w := keepSuspects (restoreSlots w)
  let k := w.flt.suspects.length
  let ns := now w - w.flt.detectTime
  let w := wr Reg.lastRecoveryNs (BitVec.ofNat 32 ns) (inc Reg.recoveries 1 { w with flt := { w.flt with recovering := false } })
  let w := setRecovery (if k = 0 then 0 else 5) w
  raise0 0xD021 srcSteward (le 4 (rd w Reg.lastRecoveryNs).toNat ++ [BitVec.ofNat 8 (rdF w Reg.imgStatus 23 16), 0, 0, 0] ++ le 2 n ++ le 2 k) w

/-- A USED field of the rung being instantiated is lost. -/
def rungLost (w : W9) (im : ImageS) : Bool := !rungUsable w im.body (rdF w Reg.imgStatus 23 16)

/-- LOAD_FIELD_LOST (check 0x16): no other rung is usable. -/
def refuseLost (w : W9) : W9 := refuseImage (0x16, rdF w Reg.imgStatus 23 16, 0x0C, 0) (clearImage (endStreams 0x23 w))

/-- The image keeps the rung that ran before the first RELOAD. -/
def keepOldRung (o : Option Nat) (w : W9) : W9 := { w with img := w.img.map (fun im => { im with oldRung := o }) }

/-- Instantiation starts again at the lowest usable rung (R347, R546). -/
def startAgain (im : ImageS) (w : W9) : W9 :=
  let w := dropItems w
  if w.flt.recovering then
    match recoveryHeader w with
    | some h => recoverRung im h w
    | none => recoveryFails 0 w
  else match usableRung w im.body with
    | none => refuseLost w
    | some k => match im.oldRung, im.body.rungs[k]? with
      | some o, some g => keepOldRung (some o) (reloadTo im k g w)
      | _, _ => loadPassed im w

/-- IMAGE_INSTANTIATED (R339): the resident weights are there, and the image runs. A field lost meanwhile starts it again. -/
def imageInstantiated (w : W9) : W9 :=
  if !booted w then w
  else match w.img with
  | none => w
  | some im =>
    if imgState w = 2 ∧ rungLost w im = true then startAgain im w
    else if !instantiated w then w
    else if w.flt.recovering then recoveryEnds w
    else match im.oldRung with
      | some old => reloadEnds (rdF w Reg.imgStatus 23 16) old w
      | none => loadEnds (rdF w Reg.imgStatus 23 16) im w

/-- IMAGE_INSTANTIATED. -/
def execImageInstantiated (s : State) : Host.Outcome State Fault Refusal := lift imageInstantiated s

/-! ## Replay (R548, R549) -/

/-- A suspect that cannot be replayed any more is none: its stream has ended, or is parked. -/
def replayable (w : W9) (s : StreamIx) : Bool := ([.prefill, .decode, .held] : List StreamState).contains (streamOf w s).state

/-- The suspects in the order of replay: class 0 first, then 1, then 2, each by stream number (R548). -/
def nextSuspect (w : W9) : Option StreamIx :=
  (List.range 3).findSome? (fun c => w.flt.suspects.find? (fun s => (streamOf w s).cls.toNat == c))

/-- Suspects and a replay whose stream is gone are dropped. -/
def pruneSuspects (w : W9) : W9 :=
  let gone := match w.flt.replay with | some r => !replayable w r.stream | none => false
  let w := { w with flt := { w.flt with
    suspects := w.flt.suspects.filter (replayable w), replay := if gone then none else w.flt.replay } }
  let w := if gone then wrB Reg.hangInfo 27 false w else w
  syncSuspects w

/-- SUSPECT_REPLAY (R548, R549): the next suspect's replay begins: its number goes to HANG_INFO, with REPLAY_VALID. Its chunks start by
CHUNK_START and its step enters at the first boundary after. -/
def suspectReplay (w : W9) : W9 :=
  if booted w && imageRuns w && rdB w Reg.faultCtrl 30 then
    let w := pruneSuspects w
    if w.flt.replay.isSome then w
    else match nextSuspect w with
      | none => w
      | some s =>
        let t := now w
        let w := { w with flt := { w.flt with replay := some ⟨s, t, 0, false⟩ } }
        wrB Reg.hangInfo 27 true (wrF Reg.hangInfo 9 0 s.val w)
  else w

/-- SUSPECT_REPLAY. -/
def execSuspectReplay (s : State) : Host.Outcome State Fault Refusal := lift suspectReplay s

end Sys2Proof.Machine
end

