-- ==== Sys2Proof/Machine/Registers.lean ====
section
/-! DEFINITION. Software's accesses of registers (R14, R17 to R22): what BAR0 decodes, the registers computed when they are read, RC reads,
writes by access code, and the command registers. -/

namespace Sys2Proof.Machine

open Sys2Proof

/-! ## What BAR0 decodes (R18, R354, R513) -/

/-- The offsets that safe mode decodes (R513). -/
def safeDecodes (off : Nat) : Bool :=
  decide (off < 0x10000) || (decide (0x300000 ≤ off) && decide (off < 0x301000)) || (decide (0x302000 ≤ off) && decide (off < 0x304000))

/-- An offset of the debug block. -/
def inDbgBlock (off : Nat) : Bool := decide (0x4000000 ≤ off) && decide (off < 0x4010000)

/-- An offset of DBG_TILE_PAGE. -/
def inDbgPage (off : Nat) : Bool := decide (0x4002000 ≤ off) && decide (off < 0x4003000)

/-- A read of this offset shows a register (R354, R513). -/
def readDecodes (w : W9) (off : Nat) : Bool :=
  (!safeMode w || safeDecodes off) && (!inDbgBlock off || debugOn w || decide (off = Reg.dbgStatus))

/-- A write of this offset reaches a register. -/
def writeDecodes (w : W9) (off : Nat) : Bool := (!safeMode w || safeDecodes off) && (!inDbgBlock off || debugOn w)

/-- The index of an offset among `count` registers `stride` apart. -/
def indexIn (base stride count off : Nat) : Option Nat :=
  if base ≤ off ∧ (off - base) % stride = 0 ∧ (off - base) / stride < count then some ((off - base) / stride) else none

/-! ## Registers computed when they are read -/

/-- SETTINGS (Table 13.7): the pace in eighths and the stretch in ns. -/
def settingsView (w : W9) : Word32 := BitVec.ofNat 32 (w.env.pace * 2 ^ 28 + min w.env.stretch 0xFFFFFF)

/-- SEAM_STATE of field `f` (R206): N, E, S, W from high to low. -/
def seamStateView (w : W9) (f : FieldIx) : Word32 :=
  let side (s : Fin 4) : Nat := match neighbour f s with
    | none => 2 ^ (11 - s.val) + 3 * 2 ^ (6 - 2 * s.val)
    | some g => fieldStateSeen w f g * 2 ^ (6 - 2 * s.val)
  BitVec.ofNat 32 (side 0 + side 1 + side 2 + side 3)

/-- GW_STATUS (Table 8.9). -/
def gwStatusView (w : W9) (g : Gateway) : Word32 :=
  let f := gwField g
  let ch := (w.opt.maps.getD (0x8C0 + 4 * f.val) 0xFF).toNat
  let spare := decide (ch < 16) && decide (ch / 4 = g.val % 4)
  let up := booted w && !(fieldState w f).stackFailed && (gwOf w g).reset.isNone
  BitVec.ofNat 32 ((if spare then (ch % 4) * 256 + 128 else 0) + refreshMode w f * 32 + b2n (decide (64 ≤ (gwOf w g).queue.length)) * 16 +
    (if up then 15 else 0))

/-- The bytes of a trap record (Table 9.11). -/
def trapBytes (r : Trap) : List Byte :=
  [BitVec.ofNat 8 r.check.val, 0] ++ le 2 r.tile.toNat ++ le 4 r.beatCycle ++ le 8 r.beat ++ le 8 r.time ++ le 3 r.address.toNat ++
    [r.unit] ++ le 2 r.other.toNat ++ [0, 0]

/-- DBG_STATUS (Table 9.14). -/
def dbgStatusView (w : W9) : Word32 :=
  setField (setField (rd w Reg.dbgStatus) 31 31 (b2n (debugOn w))) 6 0 w.dbg.fifo.length

/-- DBG_FIFO_i: a dword of the oldest record, 0 when there is none. -/
def dbgFifoView (w : W9) (i : Nat) : Word32 := match w.dbg.fifo with
  | r :: _ => BitVec.ofNat 32 (ofLe (((trapBytes r).drop (4 * i)).take 4))
  | [] => 0

/-- STREAM_COUNTS (Table 7.8). -/
def streamCountsView (w : W9) : Word32 := BitVec.ofNat 32 ((class0s w).length * 0x10000 + (busyStreams w).length)

/-- STREAM_STATE_s (Table 7.8). -/
def streamStateView (w : W9) (s : StreamIx) : Word32 :=
  let t := streamOf w s
  if t.state = .free then 0xC000 else BitVec.ofNat 32 (t.reqTag.toNat * 0x10000 + t.cls.toNat * 0x4000 + stateCode t.state)

/-- Parked fields (Table 12.9): STOPPED, GATED or waking. -/
def fieldsParked (w : W9) : Nat :=
  (allFields.map (fun f => if 2 ≤ parkState w f ∧ parkState w f ≤ 4 then 2 ^ f.val else 0)).sum

/-- A HEARTBEAT arrived on the port within 15 µs (Table 11.13). -/
def hbRecent (w : W9) (t : Nat) : Bool := decide (t ≠ 0) && decide (now w ≤ t + 15000)

/-- PAIR_STATUS with P7_HB and P6_HB. -/
def pairStatusView (w : W9) : Word32 :=
  setField (setField (rd w Reg.pairStatus) 9 9 (b2n (hbRecent w w.pair.hbP7))) 8 8 (b2n (hbRecent w w.pair.hbP6))

/-- PAIR_SHADOWS: shadows kept for the partner, and own streams that are shadowed. -/
def pairShadowsView (w : W9) : Word32 :=
  let own := (busyStreams w).filter (fun s => (streamOf w s).shadow && !w.pair.shadows.contains s)
  BitVec.ofNat 32 (w.pair.shadows.length * 0x10000 + own.length)

/-- The dword `i` of a list of bytes; 0 past its end. -/
def dwordOf (bs : List Byte) (i : Nat) : Word32 := BitVec.ofNat 32 (ofLe ((bs.drop (4 * i)).take 4))

/-- The quarantined slots. -/
def quarantinedCount (w : W9) : Nat := ((busyStreams w).filter (fun s => decide ((streamOf w s).state = .quarantined))).length

/-- QUIET_STEPS of layer `l`: steps since its error last exceeded its limit. -/
def quietStepsView (w : W9) (l : LayerIx) : Word32 := BitVec.ofNat 32 (min (precStep w - (layerOf w l).quietStep) 0xFFFFFFFF)

/-- The registers of the identity, host-interface, envelope and fault blocks that are computed; none where the dword is stored. -/
def viewLow (w : W9) (off : Nat) : Option Word32 :=
  if off = Reg.deviceId then some (deviceId w)
  else if off = Reg.deviceTime then some (BitVec.ofNat 32 (now w))
  else if off = Reg.deviceTime + 4 then some w.dev.timeLatch
  else if off = Reg.settings then some (settingsView w)
  else if off = Reg.fieldsParked then some (BitVec.ofNat 32 (fieldsParked w))
  else if off = Reg.fieldsParked + 4 then some (BitVec.ofNat 32 (fieldsParked w / 2 ^ 32))
  else if off = Reg.testsQueued then some (BitVec.ofNat 32 w.flt.tests.length)
  else if off = Reg.quarantinedSlots then some (BitVec.ofNat 32 (quarantinedCount w))
  else match indexIn 0x104014 0x20 1024 off with
    | some s => some (BitVec.ofNat 32 (backlogCount w (Fin.ofNat 1024 s)))
    | none => match indexIn 0x401000 4 144 off with
      | some i => some (dwordOf w.att.hostReport i)
      | none => match indexIn 0x401400 4 144 off with
        | some i => some (dwordOf w.att.twinReport i)
        | none => (indexIn 0x402000 4 1024 off).map (dwordOf w.att.certificate)

/-- Those of the serving, KV, model and precision blocks. -/
def viewMid (w : W9) (off : Nat) : Option Word32 :=
  if off = Reg.streamCounts then some (streamCountsView w)
  else if off = Reg.kvPagesClass0 then some (BitVec.ofNat 32 (kvReserved w))
  else if off = Reg.prefixNodes then some (BitVec.ofNat 32 w.kv.nodes.length)
  else if off = Reg.flipStatus then some (setField (rd w off) 10 10 (b2n (waitClass0 w)))
  else if off = Reg.flipHeld then some (BitVec.ofNat 32 w.serve.held.length)
  else if off = Reg.precStatus then some (setField (rd w off) 0 0 (b2n (decide (0 < ganderN w) && imageRuns w)))
  else match indexIn 0x501000 4 1024 off with
    | some s => some (streamStateView w (Fin.ofNat 1024 s))
    | none => (indexIn 0x601018 0x20 256 off).map (fun l => quietStepsView w (Fin.ofNat 256 l))

/-- Those of the field, port, pair, gateway and debug blocks. -/
def viewHigh (w : W9) (off : Nat) : Option Word32 :=
  if off = Reg.pairStatus then some (pairStatusView w)
  else if off = Reg.pairShadows then some (pairShadowsView w)
  else if off = Reg.mirrorPending then some (BitVec.ofNat 32 w.pair.mirrorQueue.length)
  else if off = Reg.dbgStatus then some (dbgStatusView w)
  else match indexIn 0x1008004 0x10000 48 off with
    | some f => some (setField (rd w off) 2 2 (b2n (routeEmpty w (Fin.ofNat 48 f))))
    | none => match indexIn 0x1008020 0x10000 48 off with
      | some f => some (seamStateView w (Fin.ofNat 48 f))
      | none => match indexIn 0x3000000 0x1000 192 off with
        | some g => some (gwStatusView w (Fin.ofNat 192 g))
        | none => (indexIn 0x4000040 4 8 off).map (dbgFifoView w)

/-- A dword of BAR0 as a read shows it (R18, R19). -/
def bar0View (w : W9) (off : Nat) : Word32 :=
  if !readDecodes w off then 0
  else if inDbgPage off then dbgPageRead (off - 0x4002000) w
  else if off < 0x500000 then (viewLow w off).getD (rd w off)
  else if off < 0x1000000 then (viewMid w off).getD (rd w off)
  else (viewHigh w off).getD (rd w off)

/-! ## Reads (R14, R19, R20) -/

/-- The bits of a BAR0 dword that a read clears. -/
def bar0Rc (off : Nat) : Word32 := match findRow bar0Rows off with | some r => r.rc | none => 0

/-- What an RC field holds after a read in the cycle of an update of `bump` (R20). -/
def rcAfter (rc old : Word32) (bump : Nat) : Word32 := (old &&& ~~~rc) ||| (satAdd32 0 bump &&& rc)

/-- A read of a BAR0 dword clears its RC bits; one of DBG_TILE_PAGE reads the tile. -/
def bar0ReadClear (off bump : Nat) (w : W9) : W9 :=
  if !readDecodes w off then w
  else if inDbgPage off then dbgPageAccess false (off - 0x4002000) 0 w
  else if bar0Rc off = 0 then w
  else wr off (rcAfter (bar0Rc off) (rd w off) bump) w

/-- The steward reaches a tile's control page: its cores run and the tile's field is open (R49, R201). -/
def pageOpen (w : W9) (t : Tile) : Bool := booted w && decide (fieldStateSeen w (tileField t) (tileField t) = 0)

/-- A steward's read of a page dword in the cycle of an update. -/
def pageRcRead (t : Tile) (off bump : Nat) (w : W9) : W9 :=
  if pageRc off = 0 then w else pwr t off (rcAfter (pageRc off) (prd w t off) bump) w

/-- An access has the size and alignment BAR0 allows (R17). -/
def aligned (off : Nat) (wide : Bool) : Bool := if wide then off % 8 == 0 else off % 4 == 0

/-- BAR0_MISALIGNED_ACCESS (R17): event 0x8001; a read returns 0xFF in every byte. -/
def misaligned (write : Bool) (off size : Nat) (w : W9) : W9 :=
  if !hostAnswers w then w
  else
    let w := raise0 0x8001 srcHost (le 4 off ++ [BitVec.ofNat 8 (b2n write)]) (hostErr 0 w)
    if write then w else completeOnes size w

/-- BAR0_MISALIGNED_ACCESS. -/
def execBar0MisalignedAccess (write : Bool) (off size : Nat) (s : State) : Host.Outcome State Fault Refusal :=
  lift (misaligned write off size) s

/-- The value a 64-bit read shows: both dwords of DEVICE_TIME are of one instant (R14). -/
def bar0Wide (w : W9) (off : Nat) : Nat :=
  if off = Reg.deviceTime then now w % 2 ^ 64 else (bar0View w off).toNat + 2 ^ 32 * (bar0View w (off + 4)).toNat

/-- DEVICE_TIME_LOW_READ (R14): a 32-bit read of the low dword loads the high dword of the same instant into the latch. -/
def timeLowRead (w : W9) : W9 :=
  if !hostAnswers w then w
  else
    let t := now w
    let w := { w with dev := { w.dev with timeLatch := BitVec.ofNat 32 (t / 2 ^ 32) } }
    complete (le 4 t) false w

/-- DEVICE_TIME_LOW_READ. -/
def execDeviceTimeLowRead (s : State) : Host.Outcome State Fault Refusal := lift timeLowRead s

/-- A read of BAR0: the value, then the clears in ascending order. A 32-bit read of DEVICE_TIME's low dword loads the latch. -/
def bar0Read (off : Nat) (wide : Bool) (bump : Nat) (w : W9) : W9 :=
  if !hostAnswers w then w
  else if !aligned off wide then misaligned false off (if wide then 8 else 4) w
  else if !wide && decide (off = Reg.deviceTime) then timeLowRead w
  else if wide then
    let v := bar0Wide w off
    complete (le 8 v) false (bar0ReadClear (off + 4) 0 (bar0ReadClear off bump w))
  else
    let v := bar0View w off
    complete (le 4 v.toNat) false (bar0ReadClear off bump w)

/-- RC_READ (R19, R20). -/
def rcRead (a : RegAddr) (wide : Bool) (bump : Nat) (w : W9) : W9 := match a with
  | .bar0 off => bar0Read off wide bump w
  | .page t off =>
    if !pageOpen w t then w else if wide then pageRcRead t (off + 4) 0 (pageRcRead t off bump w) else pageRcRead t off bump w

/-- RC_READ. -/
def execRcRead (a : RegAddr) (wide : Bool) (bump : Nat) (s : State) : Host.Outcome State Fault Refusal := lift (rcRead a wide bump) s

/-! ## Command registers (R22) -/

/-- The offset of a command register. -/
def cmdOffset : CmdReg → Nat
  | .img => Reg.imgCmd
  | .adapter => Reg.adapterCmd
  | .flip => Reg.flipCmd
  | .load => Reg.loadCmd
  | .rst => Reg.rstCmd
  | .opt => Reg.optCmd
  | .att => Reg.attCmd
  | .fault => Reg.faultCmd

/-- The status register of its block with the place of CMD_REJECT. -/
def cmdStatus : CmdReg → Nat × Nat
  | .img => (Reg.imgStatus, 15)
  | .adapter => (Reg.adapterStatus, 16)
  | .flip => (Reg.flipStatus, 16)
  | .load => (Reg.loadStatus, 16)
  | .rst => (Reg.rstStatus, 27)
  | .opt => (Reg.optStatus, 26)
  | .att => (Reg.attStatus, 28)
  | .fault => (Reg.faultStatus, 26)

/-- The OP that a write names. -/
def cmdOp (r : CmdReg) (v : Word32) : Nat := match r with
  | .rst => fieldOf v 31 28
  | _ => fieldOf v 31 30

/-- The greatest OP that the register's map lists; OPs are listed from 1. -/
def cmdLast : CmdReg → Nat
  | .img => 3
  | .adapter => 2
  | .flip => 2
  | .load => 3
  | .rst => 4
  | .opt => 3
  | .att => 3
  | .fault => 1

/-- The map lists the OP. -/
def opListed (r : CmdReg) (v : Word32) : Bool := decide (1 ≤ cmdOp r v) && decide (cmdOp r v ≤ cmdLast r)

/-- A write of a command register that names an OP its map does not list: CMD_REJECT and event 0x8006. In safe mode every IMG_CMD write is
discarded as R338 says. -/
def unlistedOp (r : CmdReg) (v : Word32) (w : W9) : W9 :=
  if !hostAnswers w || opListed r v || !writeDecodes w (cmdOffset r) then w
  else if decide (r = .img) && safeMode w then imgReject (cmdOp r v) w
  else raise0 0x8006 srcHost (le 4 (cmdOffset r) ++ le 4 v.toNat) (wrB (cmdStatus r).1 (cmdStatus r).2 true w)

/-- COMMAND_UNLISTED_OP. -/
def execCommandUnlistedOp (reg : CmdReg) (value : Word32) (s : State) : Host.Outcome State Fault Refusal := lift (unlistedOp reg value) s

/-- A listed command of RST_CMD (Table 14.10). -/
def rstWrite (v : Word32) (w : W9) : W9 :=
  let ix := v.setWidth 16
  let op := cmdOp .rst v
  if op = 1 then warmReset 4 0 0xFF none w
  else if op = 2 then blockCommand 48 ix (startFieldReset (Fin.ofNat 48 ix.toNat) 0 0) w
  else if op = 3 then blockCommand 192 ix (startGatewayReset (Fin.ofNat 192 ix.toNat)) w
  else blockCommand 8 ix (linkPortReset (Fin.ofNat 8 ix.toNat) (v.getLsbD 27)) w

/-- A listed command by register. IMG_CMD LOAD and LOAD_CMD LOAD take what they read as operands of their own rows; a plain write leaves
them to those rows. -/
def cmdWrite (r : CmdReg) (v : Word32) (w : W9) : W9 :=
  let op := cmdOp r v
  match r with
  | .img => if safeMode w then imgReject op w else if op = 2 then unload w else if op = 3 then reload w else w
  | .adapter => if op = 1 then install (v.setWidth 16) w else remove (v.setWidth 16) w
  | .flip => if op = 1 then flipStart (v.getLsbD 29) w else flipAbort w
  | .load => if op = 2 then verify w else if op = 3 then loadAbort w else w
  | .rst => rstWrite v w
  | .opt => optCommand (BitVec.ofNat 2 op) w
  | .att => if op = 1 then report w else if op = 2 then extend (Fin.ofNat 8 v.toNat) w else twinFetch w
  | .fault => release (Fin.ofNat 1024 v.toNat) w

/-- The command register at an offset. -/
def cmdAt (off : Nat) : Option CmdReg :=
  [CmdReg.img, .adapter, .flip, .load, .rst, .opt, .att, .fault].find? (fun r => cmdOffset r == off)

/-! ## Writes (R18, R19) -/

/-- A write by access code (Table 0.5); an unassigned offset discards it (R18). -/
def plainWrite (off : Nat) (v : Word32) (w : W9) : W9 := match findRow bar0Rows off with
  | some r => wr off (afterWrite r (rd w off) v) w
  | none => w

/-- A write of ROUTE_CTRL (R203, R204): UPDATE is refused while a tile of the field runs; when it returns to 0 held packets go on. -/
def routeCtrlWrite (f : FieldIx) (v : Word32) (w : W9) : W9 :=
  let on := v.getLsbD 31
  if on && !rdB w (Reg.routeCtrl f.val) 31 && !(runningTiles w f).isEmpty then
    raise0 0x3030 (srcField f) [0] (inc (Reg.tableRejects f.val) 1 w)
  else
    let was := rdB w (Reg.routeStatus f.val) 1
    let w := wrB (Reg.routeStatus f.val) 1 on (plainWrite (Reg.routeCtrl f.val) v w)
    if was && !on then forEach (fieldTiles f) releaseStrays w else w

/-- A port stops (R388): its link goes DOWN; a twin port's unacknowledged messages go out on the other (R398). -/
def stopPort (p : PortIx) (w : W9) : W9 :=
  let w := if isTwinPort w p then
      match otherTwin w p with
      | some q => forEach (portOf w p).replay (fun m w => sendMsgAt m.first q m.msg w) w
      | none => w
    else w
  wr64 (Reg.laneMap p.val) 0 (setPort p 0 0 (modPort p (fun s => { PortS.init with failed := s.failed, xferSeq := s.xferSeq }) w))

/-- A write of PORT_CTRL (R388, R390): one that changes ROLE while ENABLE is 1 is discarded; enabling trains the port, disabling takes it
down. -/
def portCtrlWrite (p : PortIx) (v : Word32) (w : W9) : W9 :=
  let old := rd w (Reg.portCtrl p.val)
  if old.getLsbD 31 && decide (fieldOf v 30 29 ≠ fieldOf old 30 29) then w
  else
    let w1 := plainWrite (Reg.portCtrl p.val) v w
    if old.getLsbD 31 && !v.getLsbD 31 then plainWrite (Reg.portCtrl p.val) v (stopPort p w)
    else if !old.getLsbD 31 && canTrain w1 p && (portOf w1 p).reset.isNone then setPort p 1 0 w1
    else w1

/-- A write of SERVE_CTRL: clearing SPEC_EN discards the drafts (R274, R277). -/
def serveCtrlWrite (v : Word32) (w : W9) : W9 :=
  let w := plainWrite Reg.serveCtrl v w
  if v.getLsbD 30 then w else { w with serve := { w.serve with chains := [] } }

/-- A write of an enabled ring's base is discarded (R368, R373). -/
def baseWrite (ctrl off : Nat) (v : Word32) (w : W9) : W9 := if rdB w ctrl 31 then w else plainWrite off v w

/-- A write of the control register of a ring in host memory: ENABLE 1 enables; ENABLE 0 disables, the size being kept while ENABLE is still
1 (R373). -/
def hostRingCtrlWrite (r : HostRing) (v : Word32) (w : W9) : W9 :=
  let off := (ringRegs r).2.1
  if v.getLsbD 31 then hostRingEnable r v w
  else if rdB w off 31 then plainWrite off (setField v 4 0 (rdF w off 4 0)) w
  else plainWrite off v w

/-- The intake and completion registers of ring `n`, `x` bytes into their block of 64. -/
def intakeBlockWrite (n : RingIx) (x off : Nat) (v : Word32) (w : W9) : W9 :=
  if x = 0 ∨ x = 4 then baseWrite (Reg.intakeCtrl n.val) off v w
  else if x = 8 then if v.getLsbD 31 then intakeEnable n v w else intakeDisable n v w
  else if x = 0x20 ∨ x = 0x24 then baseWrite (Reg.cplCtrl n.val) off v w
  else if x = 0x28 then hostRingCtrlWrite (.completion n) v w
  else plainWrite off v w

/-- The registers of token ring `s`. -/
def outBlockWrite (s : StreamIx) (x off : Nat) (v : Word32) (w : W9) : W9 :=
  if x = 0 ∨ x = 4 then baseWrite (Reg.outCtrl s.val) off v w
  else if x = 8 then hostRingCtrlWrite (.token s) v w
  else plainWrite off v w

/-- DBG_CMD (Table 9.14). -/
def dbgCmdWrite (v : Word32) (w : W9) : W9 := onlyIf (v.getLsbD 0) resume (onlyIf (v.getLsbD 1) pop w)

/-- ENV_CMD (Table 13.8). -/
def envCmdWrite (v : Word32) (w : W9) : W9 := onlyIf (v.getLsbD 1) clearTrip (onlyIf (v.getLsbD 0) clearEmerg w)

/-- A host's write of one dword of BAR0 whose effect is more than its access code, none where the code says it all. -/
def specialWrite (off : Nat) (v : Word32) : Option (W9 → W9) :=
  if off = Reg.envCmd then some (envCmdWrite v)
  else if off = Reg.hostCap then some (hostCapWrite v)
  else if off = Reg.serveCtrl then some (serveCtrlWrite v)
  else if off = Reg.winLen then some (fun w => if v = 0 then w else plainWrite off v w)
  else if off = Reg.pairCtrl then some (pairCtrlWrite v)
  else if off = Reg.roosterBeat then some (fun w => w)
  else if off = Reg.dbgCmd then some (dbgCmdWrite v)
  else if off = Reg.evtBase ∨ off = Reg.evtBase + 4 then some (baseWrite Reg.evtCtrl off v)
  else if off = Reg.evtCtrl then some (hostRingCtrlWrite .event v)
  else if 0x101000 ≤ off ∧ off < 0x101400 then some (intakeBlockWrite (Fin.ofNat 16 ((off - 0x101000) / 0x40)) (off % 0x40) off v)
  else if 0x104000 ≤ off ∧ off < 0x10C000 then some (outBlockWrite (Fin.ofNat 1024 ((off - 0x104000) / 0x20)) (off % 0x20) off v)
  else match indexIn 0x1008000 0x10000 48 off with
    | some f => some (routeCtrlWrite (Fin.ofNat 48 f) v)
    | none => (indexIn 0x2000000 0x10000 8 off).map (fun p => portCtrlWrite (Fin.ofNat 8 p) v)

/-- A host's write of one dword of BAR0. -/
def bar0Write (off : Nat) (v : Word32) (w : W9) : W9 :=
  if !writeDecodes w off then w
  else if inDbgPage off then dbgPageAccess true (off - 0x4002000) v w
  else match cmdAt off with
    | some r => if opListed r v then cmdWrite r v w else unlistedOp r v w
    | none => match specialWrite off v with
      | some g => g w
      | none => plainWrite off v w

/-- REGISTER_WRITE (R17 to R19): 64 bits are two dwords, the low one first. A page register is written by the steward (R49). -/
def registerWrite (a : RegAddr) (wide : Bool) (v : Word64) (w : W9) : W9 :=
  let lo : Word32 := v.setWidth 32
  let hi : Word32 := (v >>> 32).setWidth 32
  match a with
  | .bar0 off =>
    if !hostAnswers w then w
    else if !aligned off wide then misaligned true off (if wide then 8 else 4) w
    else if wide then bar0Write (off + 4) hi (bar0Write off lo w)
    else bar0Write off lo w
  | .page t off =>
    if !pageOpen w t then w
    else if wide then pageWrite t (off + 4) hi (pageWrite t off lo w)
    else pageWrite t off lo w

/-- REGISTER_WRITE. -/
def execRegisterWrite (a : RegAddr) (wide : Bool) (value : Word64) (s : State) : Host.Outcome State Fault Refusal :=
  lift (registerWrite a wide value) s

end Sys2Proof.Machine
end

