-- ==== Sys2Proof/Machine/Dispatch.lean ====
section
/-! DEFINITION. One arm per command: the meaning it calls. Sys2Proof.Machine.exec says what a command does to everything but the
queue of waiting commands. -/

namespace Sys2Proof.Machine

open Sys2Proof

/-- The effect of a command. -/
def exec (i : Instr) (s : State) : Host.Outcome State Fault Refusal :=
  match i with
  | .registerWrite a wide value => Sys2Proof.Machine.execRegisterWrite a wide value s
  | .rcRead a wide bump => Sys2Proof.Machine.execRcRead a wide bump s
  | .deviceTimeLowRead => Sys2Proof.Machine.execDeviceTimeLowRead s
  | .bar0MisalignedAccess write off size => Sys2Proof.Machine.execBar0MisalignedAccess write off size s
  | .commandUnlistedOp reg value => Sys2Proof.Machine.execCommandUnlistedOp reg value s
  | .beatBoundary w => Sys2Proof.Machine.execBeatBoundary w s
  | .beatPlanWord lead => Sys2Proof.Machine.execBeatPlanWord lead s
  | .beatStart => Sys2Proof.Machine.execBeatStart s
  | .timeBroadcast diffs => Sys2Proof.Machine.execTimeBroadcast diffs s
  | .beatBundle t => Sys2Proof.Machine.execBeatBundle t s
  | .precisionCountReport t => Sys2Proof.Machine.execPrecisionCountReport t s
  | .fieldBeatCounterAdvance f => Sys2Proof.Machine.execFieldBeatCounterAdvance f s
  | .idleBundle t n => Sys2Proof.Machine.execIdleBundle t n s
  | .localLoad t a len conds => Sys2Proof.Machine.execLocalLoad t a len conds s
  | .localStore t a data conds => Sys2Proof.Machine.execLocalStore t a data conds s
  | .freezeBegin => Sys2Proof.Machine.execFreezeBegin s
  | .ringPop t r k conds => Sys2Proof.Machine.execRingPop t r k conds s
  | .localAppend t r data conds => Sys2Proof.Machine.execLocalAppend t r data conds s
  | .put t p => Sys2Proof.Machine.execPut t p s
  | .putSignal t p => Sys2Proof.Machine.execPutSignal t p s
  | .get t p => Sys2Proof.Machine.execGet t p s
  | .atomicAdd t p addend => Sys2Proof.Machine.execAtomicAdd t p addend s
  | .atomicCas t p cmp swap => Sys2Proof.Machine.execAtomicCas t p cmp swap s
  | .packetArrive t net inp pkt row => Sys2Proof.Machine.execPacketArrive t net inp pkt row s
  | .openSlotGrant t net out pointer room => Sys2Proof.Machine.execOpenSlotGrant t net out pointer room s
  | .seamRelease f side net express => Sys2Proof.Machine.execSeamRelease f side net express s
  | .seamLate f side net express => Sys2Proof.Machine.execSeamLate f side net express s
  | .remoteWriteLand t port pkt schedWrites => Sys2Proof.Machine.execRemoteWriteLand t port pkt schedWrites s
  | .deferredWriteLand t schedWrites => Sys2Proof.Machine.execDeferredWriteLand t schedWrites s
  | .remoteGetServe t pkt schedReads => Sys2Proof.Machine.execRemoteGetServe t pkt schedReads s
  | .atomicExecute t pkt schedWrites => Sys2Proof.Machine.execAtomicExecute t pkt schedWrites s
  | .ringAppendLand t pkt => Sys2Proof.Machine.execRingAppendLand t pkt s
  | .replyLand t pkt => Sys2Proof.Machine.execReplyLand t pkt s
  | .creditReq t r producer bytes => Sys2Proof.Machine.execCreditReq t r producer bytes s
  | .creditGrant t r => Sys2Proof.Machine.execCreditGrant t r s
  | .creditGrantReceive producer target r bytes status => Sys2Proof.Machine.execCreditGrantReceive producer target r bytes status s
  | .ringEnable t r value => Sys2Proof.Machine.execRingEnable t r value s
  | .windowEnable t n value => Sys2Proof.Machine.execWindowEnable t n value s
  | .sigcntWrite t c value increments => Sys2Proof.Machine.execSigcntWrite t c value increments s
  | .bundlePortWrite t off data => Sys2Proof.Machine.execBundlePortWrite t off data s
  | .seqStart t => Sys2Proof.Machine.execSeqStart t s
  | .seqStop t => Sys2Proof.Machine.execSeqStop t s
  | .sequencerRunBegin t => Sys2Proof.Machine.execSequencerRunBegin t s
  | .fmqLoad t tag far a len conds => Sys2Proof.Machine.execFmqLoad t tag far a len conds s
  | .fmqStore t tag far a len conds => Sys2Proof.Machine.execFmqStore t tag far a len conds s
  | .fmqTagDone t tag => Sys2Proof.Machine.execFmqTagDone t tag s
  | .wait t tag => Sys2Proof.Machine.execWait t tag s
  | .fmqWatchExpired t tag => Sys2Proof.Machine.execFmqWatchExpired t tag s
  | .scrubRead t busy => Sys2Proof.Machine.execScrubRead t busy s
  | .scrubWriteBack t written => Sys2Proof.Machine.execScrubWriteBack t written s
  | .scrubLate t => Sys2Proof.Machine.execScrubLate t s
  | .storeZeroingComplete t => Sys2Proof.Machine.execStoreZeroingComplete t s
  | .matmul t m => Sys2Proof.Machine.execMatmul t m s
  | .wload t w => Sys2Proof.Machine.execWload t w s
  | .productDrainComplete t => Sys2Proof.Machine.execProductDrainComplete t s
  | .convert t c => Sys2Proof.Machine.execConvert t c s
  | .ganderRerun layer yn => Sys2Proof.Machine.execGanderRerun layer yn s
  | .ganderErrorCompute layer weights acts => Sys2Proof.Machine.execGanderErrorCompute layer weights acts s
  | .evaluationPoint layer => Sys2Proof.Machine.execEvaluationPoint layer s
  | .deescalationDecision layer => Sys2Proof.Machine.execDeescalationDecision layer s
  | .changeComplete => Sys2Proof.Machine.execChangeComplete s
  | .attn t a => Sys2Proof.Machine.execAttn t a s
  | .amerge t a => Sys2Proof.Machine.execAmerge t a s
  | .attnComplete t => Sys2Proof.Machine.execAttnComplete t s
  | .stagingAppend t st layer pos kv => Sys2Proof.Machine.execStagingAppend t st layer pos kv s
  | .flushedMaskSet t st layer chunk => Sys2Proof.Machine.execFlushedMaskSet t st layer chunk s
  | .allocationResume st => Sys2Proof.Machine.execAllocationResume st s
  | .prefixLookup st => Sys2Proof.Machine.execPrefixLookup st s
  | .prefixInsert st block => Sys2Proof.Machine.execPrefixInsert st block s
  | .prefixRelease st => Sys2Proof.Machine.execPrefixRelease st s
  | .intakeScan => Sys2Proof.Machine.execIntakeScan s
  | .admissionDecision => Sys2Proof.Machine.execAdmissionDecision s
  | .cancel st tag => Sys2Proof.Machine.execCancel st tag s
  | .stepConfirm st => Sys2Proof.Machine.execStepConfirm st s
  | .draftExtend st token => Sys2Proof.Machine.execDraftExtend st token s
  | .chunkStart group logAccepted => Sys2Proof.Machine.execChunkStart group logAccepted s
  | .chunkEnd group => Sys2Proof.Machine.execChunkEnd group s
  | .windowPublish => Sys2Proof.Machine.execWindowPublish s
  | .install handle => Sys2Proof.Machine.execInstall handle s
  | .adapterSlotTaken => Sys2Proof.Machine.execAdapterSlotTaken s
  | .adapterLoadComplete => Sys2Proof.Machine.execAdapterLoadComplete s
  | .remove handle => Sys2Proof.Machine.execRemove handle s
  | .setLoad header => Sys2Proof.Machine.execSetLoad header s
  | .verify => Sys2Proof.Machine.execVerify s
  | .abort => Sys2Proof.Machine.execAbort s
  | .layerDigestCheck data => Sys2Proof.Machine.execLayerDigestCheck data s
  | .loadEngineDone hostError => Sys2Proof.Machine.execLoadEngineDone hostError s
  | .muleDataReceive port src addr data => Sys2Proof.Machine.execMuleDataReceive port src addr data s
  | .loadItemPop point => Sys2Proof.Machine.execLoadItemPop point s
  | .loadItemComplete seq => Sys2Proof.Machine.execLoadItemComplete seq s
  | .gatewayRequestAccept g r => Sys2Proof.Machine.execGatewayRequestAccept g r s
  | .gatewayServe g channel latency => Sys2Proof.Machine.execGatewayServe g channel latency s
  | .refreshInterval f channel => Sys2Proof.Machine.execRefreshInterval f channel s
  | .stackLeaveSelf f => Sys2Proof.Machine.execStackLeaveSelf f s
  | .start move0 => Sys2Proof.Machine.execStart move0 s
  | .flipAbort => Sys2Proof.Machine.execFlipAbort s
  | .flipBuildComplete => Sys2Proof.Machine.execFlipBuildComplete s
  | .flipDrainExpired => Sys2Proof.Machine.execFlipDrainExpired s
  | .streamPark st => Sys2Proof.Machine.execStreamPark st s
  | .flipDrainComplete => Sys2Proof.Machine.execFlipDrainComplete s
  | .refillEntryDone damaged => Sys2Proof.Machine.execRefillEntryDone damaged s
  | .imageLoad debug body => Sys2Proof.Machine.execImageLoad debug body s
  | .imageInstantiated => Sys2Proof.Machine.execImageInstantiated s
  | .unload => Sys2Proof.Machine.execUnload s
  | .reload => Sys2Proof.Machine.execReload s
  | .resume => Sys2Proof.Machine.execResume s
  | .resumeTimeReached => Sys2Proof.Machine.execResumeTimeReached s
  | .pop => Sys2Proof.Machine.execPop s
  | .dbgTilePageAccess write off value => Sys2Proof.Machine.execDbgTilePageAccess write off value s
  | .bar2Read off len => Sys2Proof.Machine.execBar2Read off len s
  | .bar2Write off bytes => Sys2Proof.Machine.execBar2Write off bytes s
  | .bar2ReadTimeout bar4 off => Sys2Proof.Machine.execBar2ReadTimeout bar4 off s
  | .bar4Write off bytes => Sys2Proof.Machine.execBar4Write off bytes s
  | .bar4Read off len => Sys2Proof.Machine.execBar4Read off len s
  | .bar4ReadComplete status data => Sys2Proof.Machine.execBar4ReadComplete status data s
  | .intakeEnable n value => Sys2Proof.Machine.execIntakeEnable n value s
  | .intakeStampsCleared n => Sys2Proof.Machine.execIntakeStampsCleared n s
  | .intakeDisable n value => Sys2Proof.Machine.execIntakeDisable n value s
  | .hostRingEnable r value => Sys2Proof.Machine.execHostRingEnable r value s
  | .ringBatchWrite r => Sys2Proof.Machine.execRingBatchWrite r s
  | .msixSend vector => Sys2Proof.Machine.execMsixSend vector s
  | .completionPost st => Sys2Proof.Machine.execCompletionPost st s
  | .linkTrained rate width => Sys2Proof.Machine.execLinkTrained rate width s
  | .linkDown => Sys2Proof.Machine.execLinkDown s
  | .functionLevelReset => Sys2Proof.Machine.execFunctionLevelReset s
  | .d3hotEntry => Sys2Proof.Machine.execD3hotEntry s
  | .setEndpointId eid => Sys2Proof.Machine.execSetEndpointId eid s
  | .getEndpointId => Sys2Proof.Machine.execGetEndpointId s
  | .getEndpointUuid => Sys2Proof.Machine.execGetEndpointUuid s
  | .getMctpVersionSupport => Sys2Proof.Machine.execGetMctpVersionSupport s
  | .getMessageTypeSupport => Sys2Proof.Machine.execGetMessageTypeSupport s
  | .getState => Sys2Proof.Machine.execGetState s
  | .setFacilityCap cap => Sys2Proof.Machine.execSetFacilityCap cap s
  | .getPower => Sys2Proof.Machine.execGetPower s
  | .attestStart nonce => Sys2Proof.Machine.execAttestStart nonce s
  | .attestRead offset => Sys2Proof.Machine.execAttestRead offset s
  | .portTrain p goodLanes => Sys2Proof.Machine.execPortTrain p goodLanes s
  | .portTrainRetry p => Sys2Proof.Machine.execPortTrainRetry p s
  | .laneFail p lane => Sys2Proof.Machine.execLaneFail p lane s
  | .controlFlitReceive p flit => Sys2Proof.Machine.execControlFlitReceive p flit s
  | .dataFlitReceive p uncorrectable => Sys2Proof.Machine.execDataFlitReceive p uncorrectable s
  | .replayTimeout p => Sys2Proof.Machine.execReplayTimeout p s
  | .farWrite p x => Sys2Proof.Machine.execFarWrite p x s
  | .windowWrite p x => Sys2Proof.Machine.execWindowWrite p x s
  | .windowWriteWithSignal p x => Sys2Proof.Machine.execWindowWriteWithSignal p x s
  | .windowRead p x => Sys2Proof.Machine.execWindowRead p x s
  | .reply p status xferSeq data => Sys2Proof.Machine.execReply p status xferSeq data s
  | .pairHelloSend => Sys2Proof.Machine.execPairHelloSend s
  | .pairHello p h => Sys2Proof.Machine.execPairHello p h s
  | .pairAccept p => Sys2Proof.Machine.execPairAccept p s
  | .pairRefuse p reason => Sys2Proof.Machine.execPairRefuse p reason s
  | .heartbeatSend => Sys2Proof.Machine.execHeartbeatSend s
  | .heartbeat p h => Sys2Proof.Machine.execHeartbeat p h s
  | .partnerSilence unacknowledged => Sys2Proof.Machine.execPartnerSilence unacknowledged s
  | .shadowBacklogHandover => Sys2Proof.Machine.execShadowBacklogHandover s
  | .mirrorAdopt st => Sys2Proof.Machine.execMirrorAdopt st s
  | .failing p cause => Sys2Proof.Machine.execFailing p cause s
  | .claim p => Sys2Proof.Machine.execClaim p s
  | .handoff p st position => Sys2Proof.Machine.execHandoff p st position s
  | .ended p st => Sys2Proof.Machine.execEnded p st s
  | .commit p c => Sys2Proof.Machine.execCommit p c s
  | .commitTimeout st => Sys2Proof.Machine.execCommitTimeout st s
  | .shadowReq p st phase bTtft => Sys2Proof.Machine.execShadowReq p st phase bTtft s
  | .shadowAck p st bTtft => Sys2Proof.Machine.execShadowAck p st bTtft s
  | .shadowNak p reason st => Sys2Proof.Machine.execShadowNak p reason st s
  | .ready p st => Sys2Proof.Machine.execReady p st s
  | .shadowStepStart p st pairBeat => Sys2Proof.Machine.execShadowStepStart p st pairBeat s
  | .block p st index layers state => Sys2Proof.Machine.execBlock p st index layers state s
  | .chunkDone p st chunk first last => Sys2Proof.Machine.execChunkDone p st chunk first last s
  | .mirrorSend => Sys2Proof.Machine.execMirrorSend s
  | .escReq p layer fmt kind => Sys2Proof.Machine.execEscReq p layer fmt kind s
  | .escCommit p layer fmt boundary => Sys2Proof.Machine.execEscCommit p layer fmt boundary s
  | .escClear p pairBeat => Sys2Proof.Machine.execEscClear p pairBeat s
  | .stretch p cycles firstBeat => Sys2Proof.Machine.execStretch p cycles firstBeat s
  | .freeze p => Sys2Proof.Machine.execFreeze p s
  | .resumeMessage p t => Sys2Proof.Machine.execResumeMessage p t s
  | .muleResend p attempt layer dest src => Sys2Proof.Machine.execMuleResend p attempt layer dest src s
  | .muleFail p dest src => Sys2Proof.Machine.execMuleFail p dest src s
  | .pairCtrlWrite value => Sys2Proof.Machine.execPairCtrlWrite value s
  | .fieldPllLoss f => Sys2Proof.Machine.execFieldPllLoss f s
  | .fieldPllRelockTimeout f => Sys2Proof.Machine.execFieldPllRelockTimeout f s
  | .mifPllLoss f => Sys2Proof.Machine.execMifPllLoss f s
  | .stewardPllLoss => Sys2Proof.Machine.execStewardPllLoss s
  | .timebasePllLoss => Sys2Proof.Machine.execTimebasePllLoss s
  | .referenceLoss => Sys2Proof.Machine.execReferenceLoss s
  | .inputOutOfRange volts10mV => Sys2Proof.Machine.execInputOutOfRange volts10mV s
  | .inputCutoff => Sys2Proof.Machine.execInputCutoff s
  | .zoneTelemetry f z => Sys2Proof.Machine.execZoneTelemetry f z s
  | .zoneCurrentLimit f => Sys2Proof.Machine.execZoneCurrentLimit f s
  | .droopWindow f high meanUv fast => Sys2Proof.Machine.execDroopWindow f high meanUv fast s
  | .suspectedCrack f patch => Sys2Proof.Machine.execSuspectedCrack f patch s
  | .zoneShort r zone amps => Sys2Proof.Machine.execZoneShort r zone amps s
  | .drainEnd f => Sys2Proof.Machine.execDrainEnd f s
  | .drainAbandon f => Sys2Proof.Machine.execDrainAbandon f s
  | .fieldGate f => Sys2Proof.Machine.execFieldGate f s
  | .wakeComplete f => Sys2Proof.Machine.execWakeComplete f s
  | .fieldReopen f => Sys2Proof.Machine.execFieldReopen f s
  | .sensorSample readings => Sys2Proof.Machine.execSensorSample readings s
  | .sensorReferenceCheck pair passA passB => Sys2Proof.Machine.execSensorReferenceCheck pair passA passB s
  | .thermalEvaluation means pFix pDec pPf => Sys2Proof.Machine.execThermalEvaluation means pFix pDec pPf s
  | .envelopeDecision power5ms modelRoom => Sys2Proof.Machine.execEnvelopeDecision power5ms modelRoom s
  | .class0ReleaseHandoffTimeout st => Sys2Proof.Machine.execClass0ReleaseHandoffTimeout st s
  | .class0ReleaseComplete => Sys2Proof.Machine.execClass0ReleaseComplete s
  | .hostCapWrite value => Sys2Proof.Machine.execHostCapWrite value s
  | .holdQuiesced => Sys2Proof.Machine.execHoldQuiesced s
  | .holdAbandon f => Sys2Proof.Machine.execHoldAbandon f s
  | .holdExitStep k => Sys2Proof.Machine.execHoldExitStep k s
  | .clearEmerg => Sys2Proof.Machine.execClearEmerg s
  | .clearTrip => Sys2Proof.Machine.execClearTrip s
  | .powerOn => Sys2Proof.Machine.execPowerOn s
  | .coldReset => Sys2Proof.Machine.execColdReset s
  | .resetRelease bootNs => Sys2Proof.Machine.execResetRelease bootNs s
  | .warm => Sys2Proof.Machine.execWarm s
  | .field index => Sys2Proof.Machine.execField index s
  | .gateway index => Sys2Proof.Machine.execGateway index s
  | .linkPort index force => Sys2Proof.Machine.execLinkPort index force s
  | .quiesceComplete kind index drops => Sys2Proof.Machine.execQuiesceComplete kind index drops s
  | .quiesceTimeout kind index drops => Sys2Proof.Machine.execQuiesceTimeout kind index drops s
  | .fieldResetReopen f => Sys2Proof.Machine.execFieldResetReopen f s
  | .criticalStateError e => Sys2Proof.Machine.execCriticalStateError e s
  | .read => Sys2Proof.Machine.execRead s
  | .erase => Sys2Proof.Machine.execErase s
  | .program => Sys2Proof.Machine.execProgram s
  | .optionOperationEnd failed => Sys2Proof.Machine.execOptionOperationEnd failed s
  | .report => Sys2Proof.Machine.execReport s
  | .extend m => Sys2Proof.Machine.execExtend m s
  | .twin => Sys2Proof.Machine.execTwin s
  | .twinStatePoll => Sys2Proof.Machine.execTwinStatePoll s
  | .attestReportReady => Sys2Proof.Machine.execAttestReportReady s
  | .roosterBeat byHost => Sys2Proof.Machine.execRoosterBeat byHost s
  | .roosterWindow => Sys2Proof.Machine.execRoosterWindow s
  | .beatWatch f => Sys2Proof.Machine.execBeatWatch f s
  | .replayWatch => Sys2Proof.Machine.execReplayWatch s
  | .recoveryStart => Sys2Proof.Machine.execRecoveryStart s
  | .recoveryTwinListenEnd => Sys2Proof.Machine.execRecoveryTwinListenEnd s
  | .suspectReplay => Sys2Proof.Machine.execSuspectReplay s
  | .release st => Sys2Proof.Machine.execRelease st s
  | .selfTestRun u => Sys2Proof.Machine.execSelfTestRun u s
  | .selfTestEnd u r => Sys2Proof.Machine.execSelfTestEnd u r s
  | .selfTestAbandon u why => Sys2Proof.Machine.execSelfTestAbandon u why s
  | .fieldLoss f cause => Sys2Proof.Machine.execFieldLoss f cause s
  | .fieldPllRelock f => Sys2Proof.Machine.execFieldPllRelock f s
  | .timebasePllRelock => Sys2Proof.Machine.execTimebasePllRelock s
  | .aerErrorLogged uncorrectable correctable => Sys2Proof.Machine.execAerErrorLogged uncorrectable correctable s
  | .sidebandUnknownCommand command => Sys2Proof.Machine.execSidebandUnknownCommand command s

end Sys2Proof.Machine
end

