-- ==== Sys2Proof/Machine/Time.lean ====
section
/-! DEFINITION. Device time (spec/00_scope.md, spec/12_clocks_power.md): the tick. -/

namespace Sys2Proof.Machine

open Sys2Proof

/-- The least step of device time: 1 ns, or 10 ns while the timebase PLL has lost lock (R13, R434). -/
def tickNs (w : W9) : Nat := if rdB w Reg.clkStatus 27 then 10 else 1

/-- Device time passes by one step while the part has power (R13). -/
def tick (w : W9) : W9 :=
  if w.dev.powered then { w with dev := { w.dev with time := w.dev.time + tickNs w } } else w

end Sys2Proof.Machine
end

