-- ==== Sys2Proof/Safety.lean ====
section
/-! DEFINITION. What counts as a well-kept machine, and the terms that statements about commands use. -/

namespace Sys2Proof.Machine

open Sys2Proof

/-! ## Canonical forms -/

/-- Every memory of the W9 is in its canonical form: keys strictly rising, no byte listed that reads so unlisted. -/
def MemOk (w : W9) : Prop :=
  Memory.wf farEmpty w.mem.far = true ∧ Memory.wf 0 w.mem.store = true ∧ Memory.wf 0 w.host.hostMem = true ∧
    smWf flashEmpty w.opt.flash = true

/-- Every register map of the W9 is in its canonical form. -/
def RegsOk (w : W9) : Prop := smWf regReset w.bar0 = true ∧ smWf pageReset w.page = true

/-! ## What a command does -/

/-- Command `c` completes at `s`: it answers a next state that has the same queue, and whose W9 has `P`. -/
def Yields (c : Instr) (s : State) (P : W9 → Prop) : Prop := ∃ w', exec c s = .next { s with w := w' } ∧ P w'

/-- `w'` differs from `w` in nothing but what raising events changes: SEQ and the limits of R92, the event queue, the vectors due, EVT_LOST,
HOSTIF_ERR, and the queue of self-tests. -/
structure OnlyEvents (w w' : W9) : Prop where
  page : w'.page = w.page
  mem : w'.mem = w.mem
  tiles : w'.tiles = w.tiles
  routers : w'.routers = w.routers
  fields : w'.fields = w.fields
  gws : w'.gws = w.gws
  prec : w'.prec = w.prec
  serve : w'.serve = w.serve
  kv : w'.kv = w.kv
  wt : w'.wt = w.wt
  img : w'.img = w.img
  checked : w'.checked = w.checked
  dbg : w'.dbg = w.dbg
  side : w'.side = w.side
  ports : w'.ports = w.ports
  pair : w'.pair = w.pair
  env : w'.env = w.env
  rst : w'.rst = w.rst
  opt : w'.opt = w.opt
  att : w'.att = w.att
  dev_stepping : w'.dev.stepping = w.dev.stepping
  dev_powered : w'.dev.powered = w.dev.powered
  dev_rstDone : w'.dev.rstDone = w.dev.rstDone
  dev_time : w'.dev.time = w.dev.time
  dev_timeLatch : w'.dev.timeLatch = w.dev.timeLatch
  dev_copies : w'.dev.copies = w.dev.copies
  dev_free : w'.dev.free = w.dev.free
  host_readData : w'.host.readData = w.host.readData
  host_poisoned : w'.host.poisoned = w.host.poisoned
  host_hostMem : w'.host.hostMem = w.host.hostMem
  host_linkUp : w'.host.linkUp = w.host.linkUp
  host_d3hot : w'.host.d3hot = w.host.d3hot
  host_msixOn : w'.host.msixOn = w.host.msixOn
  host_backlog : w'.host.backlog = w.host.backlog
  host_cplWait : w'.host.cplWait = w.host.cplWait
  host_stamping : w'.host.stamping = w.host.stamping
  host_vectorLast : w'.host.vectorLast = w.host.vectorLast
  host_msixSent : w'.host.msixSent = w.host.msixSent
  host_bar2Waiting : w'.host.bar2Waiting = w.host.bar2Waiting
  host_bar4 : w'.host.bar4 = w.host.bar4
  host_opSeq : w'.host.opSeq = w.host.opSeq
  flt_beatSeen : w'.flt.beatSeen = w.flt.beatSeen
  flt_misses : w'.flt.misses = w.flt.misses
  flt_windowEnd : w'.flt.windowEnd = w.flt.windowEnd
  flt_suspects : w'.flt.suspects = w.flt.suspects
  flt_replay : w'.flt.replay = w.flt.replay
  flt_detectTime : w'.flt.detectTime = w.flt.detectTime
  flt_recovering : w'.flt.recovering = w.flt.recovering
  flt_firstLost : w'.flt.firstLost = w.flt.firstLost
  flt_recoveryDue : w'.flt.recoveryDue = w.flt.recoveryDue
  flt_waitSince : w'.flt.waitSince = w.flt.waitSince
  flt_helloSeen : w'.flt.helloSeen = w.flt.helloSeen
  regs : ∀ off, off ≠ Reg.evtLost → off ≠ Reg.hostifErr → rd w' off = rd w off

end Sys2Proof.Machine
end

