-- ==== Sys2Proof/Certificates/Slice0/Obligations.lean ====
section
/-! DEFINITION. The statements for the provers: what commands do and leave alone, by the rules of spec/. -/

open Sys2Proof Sys2Proof.Machine

/-- R18, R19, Table 0.5: what a write does to each bit of a dword of BAR0, and of the tile control page, by its access code. -/
def Obligations.RegisterWriteFollowsAccessCodes : Prop :=
  (∀ (s : State) (off : Nat) (v : Word64), hostAnswers s.w = true → off % 4 = 0 → writeDecodes s.w off = true → inDbgPage off = false →
    cmdAt off = none → (specialWrite off (v.setWidth 32)).isNone →
    (∀ r, findRow bar0Rows off = some r →
      Yields (.registerWrite (.bar0 off) false v) s (fun w' =>
        (∀ i < 32, (rd w' off).getLsbD i = if r.rw.getLsbD i then v.getLsbD i
          else if r.w1c.getLsbD i && v.getLsbD i then false else (rd s.w off).getLsbD i) ∧
        (∀ o, o ≠ off → rd w' o = rd s.w o) ∧ w' = { s.w with bar0 := w'.bar0 })) ∧
    (findRow bar0Rows off = none → exec (.registerWrite (.bar0 off) false v) s = .next s)) ∧
  (∀ (s : State) (t : Tile) (off : Nat) (v : Word64) (r : RegRow), pageOpen s.w t = true → 0x400 ≤ off → off ≠ Pg.seqCtrl →
    findRow pageRows off = some r →
    Yields (.registerWrite (.page t off) false v) s (fun w' =>
      (∀ i < 32, (prd w' t off).getLsbD i = if r.rw.getLsbD i then v.getLsbD i
        else if r.w1c.getLsbD i && v.getLsbD i then false else (prd s.w t off).getLsbD i) ∧
      w' = { s.w with page := w'.page }))

/-- R19, R20: what an RC read shows and leaves. -/
def Obligations.ReadClearsWhatItHasShown : Prop :=
  (∀ (s : State) (off bump : Nat), hostAnswers s.w = true → off % 4 = 0 → off ≠ Reg.deviceTime → readDecodes s.w off = true →
    inDbgPage off = false →
    Yields (.rcRead (.bar0 off) false bump) s (fun w' =>
      w'.host.readData = le 4 (bar0View s.w off).toNat ∧ w'.host.poisoned = false ∧
      (∀ i < 32, (rd w' off).getLsbD i = if (bar0Rc off).getLsbD i then (min bump 0xFFFFFFFF).testBit i else (rd s.w off).getLsbD i) ∧
      (∀ o, o ≠ off → rd w' o = rd s.w o) ∧
      w' = { s.w with bar0 := w'.bar0, host := { s.w.host with readData := w'.host.readData, poisoned := false } })) ∧
  (∀ (s : State) (t : Tile) (off bump : Nat), pageOpen s.w t = true →
    Yields (.rcRead (.page t off) false bump) s (fun w' =>
      (∀ i < 32, (prd w' t off).getLsbD i = if (pageRc off).getLsbD i then (min bump 0xFFFFFFFF).testBit i else (prd s.w t off).getLsbD i) ∧
      w' = { s.w with page := w'.page }))

/-- R14: DEVICE_TIME and its high-dword latch. -/
def Obligations.DeviceTimeReadsOneInstant : Prop :=
  (∀ s : State, hostAnswers s.w = true →
    exec .deviceTimeLowRead s = .next { s with w := { s.w with
      dev := { s.w.dev with timeLatch := BitVec.ofNat 32 (s.w.dev.time / 2 ^ 32) }
      host := { s.w.host with readData := le 4 s.w.dev.time, poisoned := false } } } ∧
    (∀ k, exec (.rcRead (.bar0 0x10) false k) s = exec .deviceTimeLowRead s) ∧
    Yields (.rcRead (.bar0 0x14) false 0) s (fun w' => w'.host.readData = le 4 s.w.dev.timeLatch.toNat ∧ w'.dev = s.w.dev) ∧
    Yields (.rcRead (.bar0 0x10) true 0) s (fun w' => w'.host.readData = le 8 (s.w.dev.time % 2 ^ 64) ∧ w'.dev = s.w.dev) ∧
    (∀ off k, off ≠ 0x10 → inDbgPage off = false →
      Yields (.rcRead (.bar0 off) false k) s (fun w' => w'.dev.timeLatch = s.w.dev.timeLatch))) ∧
  W9.reset.dev.timeLatch = 0

/-- R17, R22: accesses that have no effect but their flag and event. -/
def Obligations.BadAccessesHaveNoOtherEffect : Prop :=
  (∀ (s : State) (write : Bool) (off size : Nat), hostAnswers s.w = true →
    Yields (.bar0MisalignedAccess write off size) s (fun w' =>
      w'.host.readData = (if write then s.w.host.readData else List.replicate size 0xFF) ∧
      OnlyEvents { s.w with host := { s.w.host with readData := w'.host.readData, poisoned := w'.host.poisoned } } w' ∧
      rdB w' Reg.hostifErr 0 = true)) ∧
  (∀ (s : State) (reg : CmdReg) (v : Word32), hostAnswers s.w = true → safeMode s.w = false → opListed reg v = false →
    Yields (.commandUnlistedOp reg v) s (fun w' =>
      rdB w' (cmdStatus reg).1 (cmdStatus reg).2 = true ∧
      (∀ i, i ≠ (cmdStatus reg).2 → rdB w' (cmdStatus reg).1 i = rdB s.w (cmdStatus reg).1 i) ∧
      OnlyEvents { s.w with bar0 := smPut regReset s.w.bar0 (cmdStatus reg).1 (rd w' (cmdStatus reg).1) } w'))

/-- The step of this block: first in, first out; time passes on an empty queue (DESIGN CHOICE, log entry 1). -/
def Obligations.StepRunsTheFrontCommand : Prop :=
  (∀ (c : Instr) (s : State), step { s with pending := c :: s.pending } = exec c s) ∧
  (∀ s : State, s.pending = [] → s.w.dev.powered = true →
    step s = .next { s with w := { s.w with dev := { s.w.dev with time := s.w.dev.time + (if rdB s.w Reg.clkStatus 27 then 10 else 1) } } }) ∧
  (∀ s : State, s.pending = [] → s.w.dev.powered = false → step s = .next s)

/-- The machine never stops, and its queue only delivers: there is an effect of each command on the W9 alone, and a run applies the effects
of the waiting commands in order. -/
def Obligations.QueueRunsInOrderWithoutInterference : Prop :=
  ∃ effect : Instr → W9 → W9,
    (∀ (c : Instr) (w : W9) (rest : List Instr), exec c ⟨w, rest⟩ = .next ⟨effect c w, rest⟩) ∧
    (∀ (l : List Instr) (w : W9) (rest : List Instr),
      Host.Core.run Sys2Proof.core l.length ⟨w, l ++ rest⟩ = .next ⟨l.foldl (fun w c => effect c w) w, rest⟩)

/-- What reset leaves (R13, R14, R21, R26, Table 14.1). -/
def Obligations.ResetIsPowerOnState : Prop :=
  State.reset.pending = [] ∧ State.reset.w.dev.time = 0 ∧ State.reset.w.dev.timeLatch = 0 ∧ State.reset.w.dev.seq = 0 ∧
  State.reset.w.dev.rstDone = false ∧ State.reset.w.rst.asserted = true ∧
  (∀ off r, findRow bar0Rows off = some r → rd State.reset.w off = r.reset) ∧
  (∀ (t : Tile) off r, off < 0x1000 → findRow pageRows off = some r → prd State.reset.w t off = r.reset) ∧
  (∀ s, (streamOf State.reset.w s).state = .free) ∧ State.reset.w.img = none ∧ State.reset.w.pair.shadows = [] ∧
  State.reset.w.mem = Mem.init ∧ MemOk State.reset.w ∧ RegsOk State.reset.w

/-- R47, R48, R61, R63, R66, R86: the memory slot and the presence conditions. -/
def Obligations.MemorySlotActsOnlyWhenItIssues : Prop :=
  ∀ (s : State) (t : Tile) (cs : List Cond), canTry s.w t = true →
  (cs.all (condHolds s.w t) = true →
    (∀ (a : LAddr) (d : List Byte), dataAssigned (isC t) a.toNat d.length = true →
      Yields (.localStore t a d cs) s (fun w' =>
        (∀ i, i < d.length → smGet (fun _ => 0) w'.mem.store (storeKey t a.toNat + i) = d.getD i 0) ∧
        (∀ k, k < storeKey t a.toNat ∨ storeKey t a.toNat + d.length ≤ k →
          smGet (fun _ => 0) w'.mem.store k = smGet (fun _ => 0) s.w.mem.store k) ∧
        prdF w' t Pg.tileStatus 2 1 = 0 ∧
        w' = { s.w with page := w'.page, tiles := w'.tiles, mem := { s.w.mem with
          store := w'.mem.store, storeUE := w'.mem.storeUE, storeCE := w'.mem.storeCE } })) ∧
    (∀ (a : LAddr) (d : List Byte), dataAssigned (isC t) a.toNat d.length = false →
      Yields (.localStore t a d cs) s (fun w' => w'.mem = s.w.mem ∧ w'.tiles = s.w.tiles ∧ prdB w' t Pg.tileErr 5 = true)) ∧
    (∀ (a : LAddr) (n : Nat), readReady s.w t a.toNat n = true → Yields (.localLoad t a n cs) s (fun w' =>
      w'.mem = s.w.mem ∧ w'.serve = s.w.serve ∧ w'.fields = s.w.fields ∧ w'.routers = s.w.routers ∧
      (dataAssigned (isC t) a.toNat n = false → prdB w' t Pg.tileErr 5 = true))) ∧
    (∀ n, cs = [] → Yields (.idleBundle t n) s (fun w' =>
      (tileOf w' t).idleUntil = s.w.dev.time + n ∧ prdB w' t Pg.tileStatus 2 = true ∧
      w' = { s.w with page := w'.page, tiles := w'.tiles })) ∧
    (∀ g : Tag, cs = [.tagDone g] → Yields (.wait t g) s (fun w' =>
      tagFree w' t g = true ∧ (∀ h, h ≠ g → tagFree w' t h = tagFree s.w t h) ∧ w' = { s.w with page := w'.page }))) ∧
  (cs.all (condHolds s.w t) = false → ∀ (a : LAddr) (d : List Byte),
    Yields (.localStore t a d cs) s (fun w' =>
      w'.mem = s.w.mem ∧ w'.tiles = s.w.tiles ∧ prd w' t Pg.stallCycles = satAdd32 (prd s.w t Pg.stallCycles) 1 ∧
      prdF w' t Pg.tileStatus 2 1 = 1))

/-- R64, R74 to R77: ring regions of a tile. -/
def Obligations.RingsAppendAtTailAndPopAtHead : Prop :=
  (∀ (s : State) (t : Tile) (r : RingIx) (cs : List Cond), canTry s.w t = true → cs.all (condHolds s.w t) = true →
    (∀ k, k ≤ ringOcc s.w t r → Yields (.ringPop t r k cs) s (fun w' =>
      prd w' t (Pg.ringHead r.val) = BitVec.ofNat 32 ((ringHeadOf s.w t r + k) % (2 * ringSize s.w t r)) ∧
      prd w' t (Pg.ringTail r.val) = prd s.w t (Pg.ringTail r.val) ∧ w'.mem = s.w.mem ∧ w'.routers = s.w.routers)) ∧
    (∀ d : List Byte, d.length ≤ ringFree s.w t r → ringOn s.w t r = true →
      Yields (.localAppend t r d cs) s (fun w' =>
        (∀ i, i < d.length → smGet (fun _ => 0) w'.mem.store (storeKey t (ringAddr s.w t r (ringTailOf s.w t r + i))) = d.getD i 0) ∧
        (∀ k, (∀ i, i < d.length → k ≠ storeKey t (ringAddr s.w t r (ringTailOf s.w t r + i))) →
          smGet (fun _ => 0) w'.mem.store k = smGet (fun _ => 0) s.w.mem.store k) ∧
        prd w' t (Pg.ringTail r.val) = BitVec.ofNat 32 ((ringTailOf s.w t r + d.length) % (2 * ringSize s.w t r)) ∧
        prd w' t (Pg.ringHead r.val) = prd s.w t (Pg.ringHead r.val) ∧ w'.mem.far = s.w.mem.far)) ∧
    (∀ d : List Byte, d.length ≤ ringFree s.w t r → ringOn s.w t r = false →
      Yields (.localAppend t r d cs) s (fun w' => w'.mem = s.w.mem ∧ prdB w' t Pg.tileErr 6 = true ∧
        prd w' t Pg.ringOvfCount = satAdd32 (prd s.w t Pg.ringOvfCount) 1))) ∧
  (∀ (s : State) (t : Tile) (r : RingIx) (v : Word32), ringOn s.w t r = false →
    Yields (.ringEnable t r v) s (fun w' =>
      w' = { s.w with page := w'.page } ∧ prdF w' t (Pg.ringCtrl r.val) 4 0 = fieldOf v 4 0 ∧
      (ringValid (isC t) (ringBaseOf s.w t r) (fieldOf v 4 0) = true →
        ringOn w' t r = true ∧ ringHeadOf w' t r = 0 ∧ ringTailOf w' t r = 0) ∧
      (ringValid (isC t) (ringBaseOf s.w t r) (fieldOf v 4 0) = false → ringOn w' t r = false ∧ prdB w' t Pg.tileErr 14 = true)))

/-- R83, R94: WINDOW_ENABLE and SIGCNT_WRITE; and a consume and the increments of one cycle. -/
def Obligations.WindowsAndCountersTakeTheWrittenValue : Prop :=
  (∀ (s : State) (t : Tile) (n : RingIx) (v : Word32),
    Yields (.windowEnable t n v) s (fun w' =>
      w' = { s.w with page := w'.page } ∧
      (∀ off, off ≠ Pg.winCtrl n.val → off ≠ Pg.tileErr → prd w' t off = prd s.w t off) ∧
      (windowValid (isC t) (prd s.w t (Pg.winBase n.val)).toNat (prd s.w t (Pg.winSize n.val)).toNat = true →
        prd w' t (Pg.winCtrl n.val) = (v ||| 0x80000000) &&& 0x80000077 ∧ prd w' t Pg.tileErr = prd s.w t Pg.tileErr) ∧
      (windowValid (isC t) (prd s.w t (Pg.winBase n.val)).toNat (prd s.w t (Pg.winSize n.val)).toNat = false →
        prdB w' t (Pg.winCtrl n.val) 31 = false ∧ prdB w' t Pg.tileErr 14 = true))) ∧
  (∀ (s : State) (t : Tile) (c : CounterIx) (v : Word32) (k : Nat),
    Yields (.sigcntWrite t c v k) s (fun w' =>
      prd w' t (Pg.sigcnt c.val) = BitVec.ofNat 32 (min (v.toNat + k) 0xFFFFFFFF) ∧
      (∀ d, d ≠ c → prd w' t (Pg.sigcnt d.val) = prd s.w t (Pg.sigcnt d.val)) ∧
      (v.toNat + k ≤ 0xFFFFFFFF → w' = { s.w with page := w'.page }) ∧
      (0xFFFFFFFF < v.toNat + k → prdB w' t Pg.tileErr 11 = true ∧ OnlyEvents { s.w with page := w'.page } w'))) ∧
  (∀ (w : W9) (t : Tile) (c : CounterIx) (n : Word32) (k : Nat), condHolds w t (.signal c n true) = true →
    (prd w t (Pg.sigcnt c.val)).toNat - n.toNat + k ≤ 0xFFFFFFFF →
    prd (addSignal t c k (consume t [.signal c n true] w)) t (Pg.sigcnt c.val) =
      BitVec.ofNat 32 ((prd w t (Pg.sigcnt c.val)).toNat - n.toNat + k))

/-- R59, R96: the sequencer's start and stop, the bundle port, and zeroing. -/
def Obligations.SequencerStartsAndStopsAtItsBeat : Prop :=
  ∀ (s : State) (t : Tile),
    Yields (.seqStart t) s (fun w' => running w' t = running s.w t ∧ (tileOf w' t).startWait = (!running s.w t || (tileOf s.w t).startWait) ∧
      (running s.w t = true → w' = s.w) ∧ w' = { s.w with tiles := w'.tiles }) ∧
    Yields (.seqStop t) s (fun w' => running w' t = running s.w t ∧ (tileOf w' t).stopWait = (running s.w t || (tileOf s.w t).stopWait) ∧
      (running s.w t = false → (tileOf w' t).startWait = false) ∧ w' = { s.w with tiles := w'.tiles }) ∧
    ((tileOf s.w t).startWait = true → (tileOf s.w t).zeroing = false → 0 < (tileOf s.w t).pulses →
      Yields (.sequencerRunBegin t) s (fun w' => running w' t = true ∧ (tileOf w' t).startWait = false ∧
        (tileOf w' t).pulses = (tileOf s.w t).pulses - 1 ∧ w' = { s.w with tiles := w'.tiles, page := w'.page })) ∧
    ((tileOf s.w t).startWait = false ∨ (tileOf s.w t).zeroing = true ∨ (tileOf s.w t).pulses = 0 → exec (.sequencerRunBegin t) s = .next s) ∧
    (∀ off d, bundlePortOk s.w t off d.length = true → Yields (.bundlePortWrite t off d) s (fun w' =>
      (∀ j, j < d.length / 32 → smGet bundleEmpty w'.mem.bundles (t.val * 4096 + (prdF s.w t Pg.bundleBase 11 0 + (off - 0xE00) / 32) + j) =
        BitVec.ofNat 256 (ofLe ((d.drop (32 * j)).take 32))) ∧
      (∀ k, k < t.val * 4096 + (prdF s.w t Pg.bundleBase 11 0 + (off - 0xE00) / 32) ∨
          t.val * 4096 + (prdF s.w t Pg.bundleBase 11 0 + (off - 0xE00) / 32) + d.length / 32 ≤ k →
        smGet bundleEmpty w'.mem.bundles k = smGet bundleEmpty s.w.mem.bundles k) ∧
      w' = { s.w with mem := { s.w.mem with bundles := w'.mem.bundles } })) ∧
    (∀ off d, bundlePortOk s.w t off d.length = false → Yields (.bundlePortWrite t off d) s (fun w' =>
      prdB w' t Pg.tileErr 14 = true ∧ w' = { s.w with page := w'.page })) ∧
    ((tileOf s.w t).zeroing = true → Yields (.storeZeroingComplete t) s (fun w' =>
      (tileOf w' t).zeroing = false ∧
      (∀ a, a < 2 ^ 24 → smGet (fun _ => 0) w'.mem.store (storeKey t a) = 0 ∧ w'.mem.storeCE.contains (storeKey t a) = false ∧
        w'.mem.storeUE.contains (storeKey t a) = false) ∧
      (∀ u a, u ≠ t → a < 2 ^ 24 →
        smGet (fun _ => 0) w'.mem.store (storeKey u a) = smGet (fun _ => 0) s.w.mem.store (storeKey u a)) ∧
      w' = { s.w with tiles := w'.tiles, mem := { s.w.mem with store := w'.mem.store, storeUE := w'.mem.storeUE, storeCE := w'.mem.storeCE } }))

/-- R65, R96, R130, R529: BEAT bundles, the field's beat counter, and the reports of a beat. -/
def Obligations.BeatBundleUsesOnePulse : Prop :=
  (∀ (s : State) (t : Tile), running s.w t = true → idling s.w t = false →
    ((tileOf s.w t).pulses = 0 → Yields (.beatBundle t) s (fun w' =>
      prdB w' t Pg.tileStatus 3 = true ∧ prdB w' t Pg.tileStatus 4 = false ∧
      (∀ i, i ≠ 3 → i ≠ 4 → prdB w' t Pg.tileStatus i = prdB s.w t Pg.tileStatus i) ∧ w' = { s.w with page := w'.page })) ∧
    (0 < (tileOf s.w t).pulses → Yields (.beatBundle t) s (fun w' =>
      (tileOf w' t).pulses = (tileOf s.w t).pulses - 1 ∧
      (tileOf w' t).reports = (tileOf s.w t).reports ++ [⟨(tileOf s.w t).counts, (tileOf s.w t).taint, (tileOf s.w t).taintOf⟩] ∧
      (tileOf w' t).counts = [] ∧ (tileOf w' t).taint = none ∧ (tileOf w' t).stopWait = false ∧
      prdF w' t Pg.tileStatus 3 1 = 0 ∧ running w' t = !(tileOf s.w t).stopWait ∧
      (fieldState w' (tileField t)).owing = dropOwing t (fieldState s.w (tileField t)).owing ∧
      w' = { s.w with page := w'.page, tiles := w'.tiles, fields := w'.fields }))) ∧
  (∀ (s : State) (f : FieldIx),
    (∀ x rest, (fieldState s.w f).owing = (x, []) :: rest → Yields (.fieldBeatCounterAdvance f) s (fun w' =>
      (fieldState w' f).beatCount = (fieldState s.w f).beatCount + 1 ∧ (fieldState w' f).owing = rest ∧
      rd64 w' (Reg.beatAdvance f.val) = s.w.dev.time % 2 ^ 64 ∧
      (∀ g, g ≠ f → fieldState w' g = fieldState s.w g) ∧ w' = { s.w with bar0 := w'.bar0, fields := w'.fields })) ∧
    ((∀ x rest, (fieldState s.w f).owing ≠ (x, []) :: rest) → exec (.fieldBeatCounterAdvance f) s = .next s)) ∧
  (∀ (s : State) (t : Tile) (c : LayerCounts) (rest : List BeatReport) (k : Option Bool) (o : Option StreamIx),
    (tileOf s.w t).reports = ⟨[c], k, o⟩ :: rest → Yields (.precisionCountReport t) s (fun w' =>
      (tileOf w' t).reports = rest ∧
      rd w' (Reg.flushed c.layer.val) = satAdd32 (rd s.w (Reg.flushed c.layer.val)) c.flushed ∧
      rd w' (Reg.saturated c.layer.val) = satAdd32 (rd s.w (Reg.saturated c.layer.val)) c.saturated ∧
      (layerOf w' c.layer).ovf = (layerOf s.w c.layer).ovf + c.overflow ∧
      (∀ x ∈ w'.serve.tainted, x ∈ s.w.serve.tainted ∨ (k = some x.2 ∧ o = some x.1)) ∧
      w'.page = s.w.page ∧ w'.mem = s.w.mem ∧ w'.fields = s.w.fields))

/-- R350, R432, R436, R437: time broadcasts, plan words and the start of a freeze. -/
def Obligations.TimeAndPlanWordsReachTheFields : Prop :=
  (∀ (s : State) (d : Nat) (x : Int),
    (-(copyBound d) ≤ x → x ≤ copyBound d → Yields (.timeBroadcast [(d, x)]) s (fun w' =>
      smGet (fun _ => 0) w'.dev.copies d = (if x < 0 then min 0 (x + 128) else max 0 (x - 1024)) ∧
      (∀ e, e ≠ d → smGet (fun _ => 0) w'.dev.copies e = smGet (fun _ => 0) s.w.dev.copies e) ∧
      w' = { s.w with dev := { s.w.dev with copies := w'.dev.copies } })) ∧
    (x < -(copyBound d) ∨ copyBound d < x → Yields (.timeBroadcast [(d, x)]) s (fun w' =>
      smGet (fun _ => 0) w'.dev.copies d = (if x < 0 then min 0 (x + 128) else max 0 (x - 1024)) ∧
      rdB w' Reg.pwrErr 2 = true ∧ (d < 48 → rd w' (Reg.timeErr d) = BitVec.ofInt 32 x) ∧
      w'.dev.time = s.w.dev.time ∧ w'.page = s.w.page ∧ w'.mem = s.w.mem ∧ w'.tiles = s.w.tiles ∧ w'.serve = s.w.serve))) ∧
  (∀ (s : State) (lead : Nat),
    (64 ≤ lead → Yields (.beatPlanWord lead) s (fun w' => w'.serve.plan = some (stretchFor s.w (pairBeat s.w + 1)) ∧
      w' = { s.w with serve := { s.w.serve with plan := w'.serve.plan } })) ∧
    (lead < 64 → Yields (.beatPlanWord lead) s (fun w' => w'.serve.planNext = some (stretchFor s.w (pairBeat s.w + 2)) ∧
      w' = { s.w with serve := { s.w.serve with planNext := w'.serve.planNext } }))) ∧
  (∀ s : State,
    (s.w.dbg.freezeDue = true → rdB s.w Reg.dbgStatus 30 = false → paired s.w = false → Yields .freezeBegin s (fun w' =>
      rdB w' Reg.dbgStatus 30 = true ∧ rdB w' Reg.dbgStatus 29 = s.w.dbg.freezeTwin ∧ w'.dbg.freezeDue = false ∧
      (∀ f, (fieldState w' f).withheld.freeze = true) ∧ w'.tiles = s.w.tiles ∧ w'.page = s.w.page ∧ w'.mem = s.w.mem ∧
      w'.routers = s.w.routers ∧ w'.serve = s.w.serve)) ∧
    (s.w.dbg.freezeDue = false → exec .freezeBegin s = .next s))

/-- R84, R85, R89, R90, R287: the far-memory queue of a tile. -/
def Obligations.FmqTagsTrackTransfers : Prop :=
  (∀ (s : State) (t : Tile) (g : Tag) (far : FAddr) (a : LAddr) (len : Nat) (cs : List Cond), canTry s.w t = true →
    cs.all (condHolds s.w t) = true → tagFree s.w t g = true →
    (farAssigned s.w far.toNat len = true → farStatus s.w t far.toNat len = none →
      Yields (.fmqLoad t g far a len cs) s (fun w' =>
        tagPending w' t g = true ∧ tagDone w' t g = false ∧ (∀ h, h ≠ g → tagFree w' t h = tagFree s.w t h) ∧
        fmqOf w' t g = some ⟨true, far, a, len, s.w.dev.time, (farSpans far.toNat len).length, false, false⟩ ∧
        w' = { s.w with page := w'.page, tiles := w'.tiles }) ∧
      (readReady s.w t a.toNat len = true → owed s.w t a.toNat len = false →
        (∀ q ∈ quarters a.toNat len, s.w.mem.storeUE.contains (storeKey t q) = false ∧ s.w.mem.storeCE.contains (storeKey t q) = false) →
        Yields (.fmqStore t g far a len cs) s (fun w' =>
          tagPending w' t g = true ∧ tagDone w' t g = false ∧ (∀ h, h ≠ g → tagFree w' t h = tagFree s.w t h) ∧
          fmqOf w' t g = some ⟨false, far, a, len, s.w.dev.time, (farSpans far.toNat len).length, false, false⟩ ∧
          w' = { s.w with page := w'.page, tiles := w'.tiles }))) ∧
    (farAssigned s.w far.toNat len = false →
      Yields (.fmqLoad t g far a len cs) s (fun w' =>
        tagDone w' t g = true ∧ tagPending w' t g = false ∧ prdB w' t (Pg.fmqErr + 4 * (g.val / 32)) (g.val % 32) = true ∧
        (∀ i, i < len → smGet (fun _ => 0) w'.mem.store (storeKey t (a.toNat + i)) = 0) ∧
        (∀ k, k < storeKey t a.toNat ∨ storeKey t a.toNat + len ≤ k → smGet (fun _ => 0) w'.mem.store k = smGet (fun _ => 0) s.w.mem.store k)) ∧
      (readReady s.w t a.toNat len = true → owed s.w t a.toNat len = false →
        (∀ q ∈ quarters a.toNat len, s.w.mem.storeUE.contains (storeKey t q) = false ∧ s.w.mem.storeCE.contains (storeKey t q) = false) →
        Yields (.fmqStore t g far a len cs) s (fun w' =>
          tagDone w' t g = true ∧ tagPending w' t g = false ∧ prdB w' t (Pg.fmqErr + 4 * (g.val / 32)) (g.val % 32) = true ∧
          w'.mem = s.w.mem)))) ∧
  (∀ (s : State) (t : Tile) (g : Tag) (x : FmqXfer), fmqOf s.w t g = some x →
    (x.left = 0 → x.damaged = false → Yields (.fmqTagDone t g) s (fun w' =>
      tagDone w' t g = true ∧ tagPending w' t g = false ∧ (∀ h, h ≠ g → tagFree w' t h = tagFree s.w t h) ∧
      w' = { s.w with page := w'.page, tiles := w'.tiles })) ∧
    (x.left = 0 → x.damaged = true → Yields (.fmqTagDone t g) s (fun w' =>
      tagDone w' t g = true ∧ prdB w' t (Pg.fmqErr + 4 * (g.val / 32)) (g.val % 32) = true ∧ prdB w' t Pg.tileErr 9 = true ∧ w'.mem = s.w.mem)) ∧
    (0 < x.left → exec (.fmqTagDone t g) s = .next s) ∧
    (x.watched = false → 0 < (prd s.w t Pg.fmqWatch).toNat → (prd s.w t Pg.fmqWatch).toNat < s.w.dev.time - x.since →
      Yields (.fmqWatchExpired t g) s (fun w' => prdB w' t Pg.tileErr 10 = true ∧ tagPending w' t g = tagPending s.w t g ∧
        fmqOf w' t g = some { x with watched := true } ∧ w'.mem = s.w.mem)) ∧
    (x.watched = true ∨ s.w.dev.time - x.since ≤ (prd s.w t Pg.fmqWatch).toNat → exec (.fmqWatchExpired t g) s = .next s))

/-- R55 to R57: the scrub engine of a tile. -/
def Obligations.ScrubbingWalksRowsAndRepairs : Prop :=
  ∀ (s : State) (t : Tile),
    (∀ busy, prdB s.w t Pg.tileStatus 2 = true →
      (∃ b, b < 48 ∧ scrubRow s.w t b + b2n (!busy.contains b) < bankRows b) →
      Yields (.scrubRead t busy) s (fun w' =>
        (∀ b, b < 48 → scrubRow w' t b =
          if busy.contains b = false ∧ scrubRow s.w t b < bankRows b then scrubRow s.w t b + 1 else scrubRow s.w t b) ∧
        w'.mem = s.w.mem ∧ prdB w' t Pg.tileStatus 5 = true)) ∧
    (∀ busy, prdB s.w t Pg.tileStatus 2 = true → (∀ b, b < 48 → bankRows b ≤ scrubRow s.w t b + b2n (!busy.contains b)) →
      Yields (.scrubRead t busy) s (fun w' => (tileOf w' t).scrub.rows = [] ∧ (tileOf w' t).scrub.passStart = s.w.dev.time ∧
        (tileOf w' t).scrub.lateRaised = false ∧ prdB w' t Pg.tileStatus 5 = false ∧ w'.mem = s.w.mem)) ∧
    (∀ busy, Yields (.scrubRead t busy) s (fun w' => w'.mem = s.w.mem ∧ (prdB s.w t Pg.tileStatus 2 = false → w' = s.w))) ∧
    (∀ written, Yields (.scrubWriteBack t written) s (fun w' =>
      (tileOf w' t).scrub.waiting = [] ∧ w'.mem.store = s.w.mem.store ∧ w'.mem.storeUE = s.w.mem.storeUE ∧
      (∀ k, k ∈ w'.mem.storeCE ↔ k ∈ s.w.mem.storeCE ∧ ∀ a ∈ (tileOf s.w t).scrub.waiting,
        a.toNat ∉ written.map (fun x => wordOf (isC t) x.toNat) →
          k ∉ (quarters a.toNat (if isC t && decide (0x800000 ≤ a.toNat) then 128 else 64)).map (storeKey t)) ∧
      w' = { s.w with tiles := w'.tiles, mem := { s.w.mem with storeCE := w'.mem.storeCE } })) ∧
    ((tileOf s.w t).scrub.lateRaised = false → 60000000000 < s.w.dev.time - (tileOf s.w t).scrub.passStart →
      Yields (.scrubLate t) s (fun w' => prdB w' t Pg.tileErr 4 = true ∧ (tileOf w' t).scrub = { (tileOf s.w t).scrub with lateRaised := true } ∧
        w'.mem = s.w.mem)) ∧
    ((tileOf s.w t).scrub.lateRaised = true ∨ s.w.dev.time - (tileOf s.w t).scrub.passStart ≤ 60000000000 → exec (.scrubLate t) s = .next s)

/-- R161, R163, R164, R168, R188: the sends of a tile. -/
def Obligations.SendsLeaveInTheTilesRouter : Prop :=
  (∀ (s : State) (t : Tile) (p : SendArgs) (yx : Bool), canTry s.w t = true → p.conds.all (condHolds s.w t) = true → p.row = none →
    routeOf s.w t p.dest = .inr yx → isGroup p.dest = false → updating s.w t = false →
    (∀ (c : Instr) (op : BitVec 4) (len : Nat) (pay : List Byte),
      (c = .get t p ∧ op = opGet ∧ len = p.len ∧ pay = []) ∨
      (∃ v : Word64, c = .atomicAdd t p v ∧ op = opAdd ∧ len = 8 ∧ pay = le 8 v.toNat) ∨
      (∃ v x : Word64, c = .atomicCas t p v x ∧ op = opCas ∧ len = 16 ∧ pay = le 8 v.toNat ++ le 8 x.toNat) →
      Yields c s (fun w' => ∃ e, routerOf w' t = routerOf s.w t ++ [e] ∧ e.inp = .loc ∧ e.net = .request ∧ hcrcOk e.pkt = true ∧
        e.pkt.op = op ∧ e.pkt.target = destCode p.dest ∧ e.pkt.source = tileSrc t ∧ e.pkt.address = p.address ∧ e.pkt.replyAddr = p.src ∧
        e.pkt.signal = p.signal ∧ e.pkt.length = BitVec.ofNat 16 len ∧ e.pkt.payload = pay ∧ e.pkt.opSeq = (tileOf s.w t).opSeq ∧ e.pkt.yx = yx ∧
        (tileOf w' t).opSeq = (tileOf s.w t).opSeq + 1 ∧ w' = { s.w with page := w'.page, tiles := w'.tiles, routers := w'.routers })) ∧
    (readReady s.w t p.src.toNat p.len = true → creditCovers s.w t p = true → dataAssigned (isC t) p.src.toNat p.len = true →
      owed s.w t p.src.toNat p.len = false →
      (∀ q ∈ quarters p.src.toNat p.len, s.w.mem.storeUE.contains (storeKey t q) = false ∧ s.w.mem.storeCE.contains (storeKey t q) = false) →
      ∀ (c : Instr) (op : BitVec 4), (c = .put t p ∧ op = opPut) ∨ (c = .putSignal t p ∧ op = opPutSignal) →
        Yields c s (fun w' => (routerOf w' t).map (·.pkt) = (routerOf s.w t).map (·.pkt) ++
            putPackets t op p (tileOf s.w t).opSeq false yx (readStore s.w t p.src.toNat p.len) ∧
          (tileOf w' t).opSeq = (tileOf s.w t).opSeq + 1 ∧ w' = { s.w with page := w'.page, tiles := w'.tiles, routers := w'.routers }))) ∧
  (∀ (s : State) (t : Tile) (p : SendArgs) (st : BitVec 4), canTry s.w t = true → p.conds.all (condHolds s.w t) = true → p.row = none →
    routeOf s.w t p.dest = .inl st → dataAssigned (isC t) p.src.toNat p.len = false → p.signal = none →
    Yields (.get t p) s (fun w' => routerOf w' t = routerOf s.w t ∧ w'.mem = s.w.mem ∧
      prd w' t Pg.nakReceived = satAdd32 (prd s.w t Pg.nakReceived) 1 ∧ prdB w' t Pg.meshErr (if st = 1 then 3 else 4) = true))

/-- R68, R70, R75, R76, R79, R163, R164, R202: what lands in a tile. -/
def Obligations.AdmittedWritesLandWhole : Prop :=
  (∀ (s : State) (t : Tile) (port : Port) (p : Packet) (sched : List LAddr), p.ring = none →
    (admits s.w t p .write p.payload.length = true → inPage p.address.toNat p.payload.length = false →
      (∀ x ∈ wordsOf p.address.toNat p.payload, (busyBanks s.w t sched).contains (bankRow (isC t) x.1).1 = false) →
      Yields (.remoteWriteLand t port p sched) s (fun w' =>
        (∀ i, i < p.payload.length → smGet (fun _ => 0) w'.mem.store (storeKey t (p.address.toNat + i)) = p.payload.getD i 0) ∧
        (∀ k, k < storeKey t p.address.toNat ∨ storeKey t p.address.toNat + p.payload.length ≤ k →
          smGet (fun _ => 0) w'.mem.store k = smGet (fun _ => 0) s.w.mem.store k) ∧
        (∀ c, p.last = true → p.signal = some c → prd w' t (Pg.sigcnt c.val) = satAdd32 (prd s.w t (Pg.sigcnt c.val)) 1) ∧
        ((p.last = false ∨ p.signal = none) → w'.page = s.w.page) ∧ w'.mem.far = s.w.mem.far)) ∧
    (admits s.w t p .write p.payload.length = false →
      Yields (.remoteWriteLand t port p sched) s (fun w' => w'.mem = s.w.mem ∧ w'.tiles = s.w.tiles ∧
        prd w' t Pg.rejectCount = satAdd32 (prd s.w t Pg.rejectCount) 1 ∧ prdB w' t Pg.tileErr 7 = true))) ∧
  (∀ (s : State) (t : Tile) (sched : List LAddr),
    (∀ d, deferReady s.w t sched = some d → d.signal = none → Yields (.deferredWriteLand t sched) s (fun w' =>
      (∀ i, i < d.data.length → smGet (fun _ => 0) w'.mem.store (storeKey t d.addr.toNat + i) = d.data.getD i 0) ∧
      (∀ k, k < storeKey t d.addr.toNat ∨ storeKey t d.addr.toNat + d.data.length ≤ k →
        smGet (fun _ => 0) w'.mem.store k = smGet (fun _ => 0) s.w.mem.store k) ∧
      (tileOf w' t).defer = (tileOf s.w t).defer.erase d ∧ w'.page = s.w.page ∧ w'.routers = s.w.routers)) ∧
    (deferReady s.w t sched = none → exec (.deferredWriteLand t sched) s = .next s)) ∧
  (∀ (s : State) (t : Tile) (p : Packet) (r : RingIx), p.ring = some r → p.last = false →
    (appendLands s.w t r p.payload.length = true → Yields (.ringAppendLand t p) s (fun w' =>
      prd w' t (Pg.ringTail r.val) = BitVec.ofNat 32 ((ringTailOf s.w t r + p.payload.length) % (2 * ringSize s.w t r)) ∧
      prd w' t (Pg.ringHead r.val) = prd s.w t (Pg.ringHead r.val))) ∧
    (appendLands s.w t r p.payload.length = false → Yields (.ringAppendLand t p) s (fun w' =>
      w'.mem = s.w.mem ∧ prd w' t (Pg.ringTail r.val) = prd s.w t (Pg.ringTail r.val) ∧ prdB w' t Pg.tileErr 6 = true ∧
      prd w' t Pg.ringOvfCount = satAdd32 (prd s.w t Pg.ringOvfCount) 1))) ∧
  (∀ (s : State) (t : Tile) (p : Packet), p.signal = none →
    (p.status = 0 → 0 < p.payload.length → dataAssigned (isC t) p.address.toNat p.payload.length = true → Yields (.replyLand t p) s (fun w' =>
      (∀ i, i < p.payload.length → smGet (fun _ => 0) w'.mem.store (storeKey t p.address.toNat + i) = p.payload.getD i 0) ∧
      (∀ k, k < storeKey t p.address.toNat ∨ storeKey t p.address.toNat + p.payload.length ≤ k →
        smGet (fun _ => 0) w'.mem.store k = smGet (fun _ => 0) s.w.mem.store k) ∧ w'.page = s.w.page)) ∧
    (p.status ≠ 0 → 0 < p.length.toNat → dataAssigned (isC t) p.address.toNat p.length.toNat = true → Yields (.replyLand t p) s (fun w' =>
      (∀ i, i < p.length.toNat → smGet (fun _ => 0) w'.mem.store (storeKey t p.address.toNat + i) = 0) ∧
      (∀ k, k < storeKey t p.address.toNat ∨ storeKey t p.address.toNat + p.length.toNat ≤ k →
        smGet (fun _ => 0) w'.mem.store k = smGet (fun _ => 0) s.w.mem.store k) ∧
      prd w' t Pg.nakReceived = satAdd32 (prd s.w t Pg.nakReceived) 1)))

/-- R168, R173, R175 to R177, R186, R188: routers and seams. -/
def Obligations.RoutersDropHoldAndForward : Prop :=
  (∀ (s : State) (t : Tile) (net : Net) (p : Packet) (row : Nat),
    (hcrcOk p = false → Yields (.packetArrive t net .loc p row) s (fun w' => w'.routers = s.w.routers ∧ w'.mem = s.w.mem ∧
      prd w' t Pg.hdrDrops = satAdd32 (prd s.w t Pg.hdrDrops) 1 ∧ prdB w' t Pg.meshErr 2 = true)) ∧
    (hcrcOk p = true → p.mcast = false → updating s.w t = false → Yields (.packetArrive t net .loc p row) s (fun w' =>
      (∃ l, routerOf w' t = routerOf s.w t ++ [⟨net, .loc, p, [nextOut p.yx (tileX t) (tileY t) (destXY (tileX t) (tileY t) p.target).1
        (destXY (tileX t) (tileY t) p.target).2], none, l, 0⟩]) ∧
      (∀ u, u ≠ t → routerOf w' u = routerOf s.w u) ∧ w' = { s.w with routers := w'.routers }))) ∧
  (∀ (s : State) (t : Tile) (net : Net) (p : Packet) (ptr : Fin 8), p.payload.length ≤ 32 → p.sched = false →
    routerOf s.w t = [⟨net, .loc, p, [.land], none, 1, 0⟩] →
    Yields (.openSlotGrant t net .land ptr true) s (fun w' => routerOf w' t = [] ∧
      prd w' t Pg.openPackets = satAdd32 (prd s.w t Pg.openPackets) 1 ∧ (∀ u, u ≠ t → routerOf w' u = routerOf s.w u) ∧
      w'.mem = s.w.mem ∧ w'.tiles = s.w.tiles ∧ w'.fields = s.w.fields) ∧
    Yields (.openSlotGrant t net .land ptr false) s (fun w' => (routerOf w' t).map (·.pkt) = [p] ∧ w'.mem = s.w.mem ∧ w'.fields = s.w.fields)) ∧
  (∀ (s : State) (f : FieldIx) (sd : Fin 4) (net : Net) (ex : Bool) (e : SeamEntry), seamHead s.w f sd net ex = some e →
    (beatCycleOf s.w f = e.entered + 6 → Yields (.seamRelease f sd net ex) s (fun w' =>
      (fieldState w' f).seams = (fieldState s.w f).seams.erase e ∧ (∀ g, g ≠ f → fieldState w' g = fieldState s.w g) ∧
      w' = { s.w with fields := w'.fields })) ∧
    (beatCycleOf s.w f ≠ e.entered + 6 → exec (.seamRelease f sd net ex) s = .next s) ∧
    Yields (.seamLate f sd net ex) s (fun w' =>
      (∃ q, (fieldState w' f).seams = (fieldState s.w f).seams.erase e ++ [{ e with pkt := q }] ∧ q.sched = false ∧ q.yx = false ∧
        hcrcOk q = true ∧ q.payload = e.pkt.payload ∧ q.target = e.pkt.target) ∧
      rd w' (Reg.seamLateCount f.val) = satAdd32 (rd s.w (Reg.seamLateCount f.val)) 1 ∧ w'.mem = s.w.mem ∧ w'.routers = s.w.routers))

/-- R68, R72, R79, R160, R164: atomics and remote reads in a tile. -/
def Obligations.AtomicsAndReadsServeControlWords : Prop :=
  (∀ (s : State) (t : Tile) (p : Packet) (sched : List LAddr),
    (inControlWords p.address.toNat 8 = true → p.address.toNat % 8 = 0 → p.client = 0 →
      (∀ x ∈ sched, wordOf (isC t) x.toNat ≠ wordOf (isC t) p.address.toNat) →
      (∀ d ∈ (tileOf s.w t).defer, (bankRow (isC t) d.addr.toNat).1 ≠ (bankRow (isC t) p.address.toNat).1) →
      Yields (.atomicExecute t p sched) s (fun w' =>
        (∀ i, i < 8 → smGet (fun _ => 0) w'.mem.store (storeKey t p.address.toNat + i) =
          (le 8 (if p.op = opAdd then (ofLe (readStore s.w t p.address.toNat 8) + ofLe (p.payload.take 8)) % 2 ^ 64
            else if ofLe (readStore s.w t p.address.toNat 8) = ofLe (p.payload.take 8) then ofLe ((p.payload.drop 8).take 8)
            else ofLe (readStore s.w t p.address.toNat 8))).getD i 0) ∧
        (∀ k, k < storeKey t p.address.toNat ∨ storeKey t p.address.toNat + 8 ≤ k →
          smGet (fun _ => 0) w'.mem.store k = smGet (fun _ => 0) s.w.mem.store k) ∧ w'.mem.far = s.w.mem.far)) ∧
    (inControlWords p.address.toNat 8 = false ∨ p.address.toNat % 8 ≠ 0 → Yields (.atomicExecute t p sched) s (fun w' =>
      w'.mem = s.w.mem ∧ prd w' t Pg.rejectCount = satAdd32 (prd s.w t Pg.rejectCount) 1 ∧ prdB w' t Pg.tileErr 8 = true))) ∧
  (∀ (s : State) (t : Tile) (p : Packet) (sched : List LAddr),
    (admits s.w t p .read p.length.toNat = true → inPage p.address.toNat p.length.toNat = false →
      (∀ q ∈ quarters p.address.toNat p.length.toNat, (sched.map (fun x => (bankRow (isC t) x.toNat).1)).contains (bankRow (isC t) q).1 = false) →
      Yields (.remoteGetServe t p sched) s (fun w' => w'.mem = s.w.mem ∧
        ((∀ q ∈ quarters p.address.toNat p.length.toNat, s.w.mem.storeUE.contains (storeKey t q) = false ∧ s.w.mem.storeCE.contains (storeKey t q) = false) →
          updating s.w t = false → ∀ yx, routeOf s.w t (.unit p.source) = .inr yx →
          ∃ e, e ∈ routerOf w' t ∧ e.net = .reply ∧ e.pkt.op = opReplyData ∧ e.pkt.target = p.source ∧ e.pkt.opSeq = p.opSeq ∧
            e.pkt.payload = readStore s.w t p.address.toNat p.length.toNat ∧ hcrcOk e.pkt = true))) ∧
    (admits s.w t p .read p.length.toNat = false → Yields (.remoteGetServe t p sched) s (fun w' =>
      w'.mem = s.w.mem ∧ prd w' t Pg.rejectCount = satAdd32 (prd s.w t Pg.rejectCount) 1 ∧ prdB w' t Pg.tileErr 7 = true)))

/-- R196 to R199: ring credits. -/
def Obligations.CreditsAreGrantedWithinTheRing : Prop :=
  (∀ (s : State) (t : Tile) (r : RingIx) (producer : BitVec 16) (k : Nat),
    (∀ j, producerIx s.w t r producer = some j → j < 4 → k ≤ ringSize s.w t r → Yields (.creditReq t r producer k) s (fun w' =>
      wantOf w' t r j = k ∧ prdB w' t (Pg.ringCredit r.val) (23 + j) = decide (0 < k) ∧
      w' = { s.w with page := w'.page, tiles := w'.tiles })) ∧
    (producerIx s.w t r producer = none ∨ ringSize s.w t r < k → Yields (.creditReq t r producer k) s (fun w' =>
      prd w' t Pg.creditReject = satAdd32 (prd s.w t Pg.creditReject) 1 ∧ prdB w' t Pg.meshErr 5 = true ∧ w'.mem = s.w.mem))) ∧
  (∀ (s : State) (t : Tile) (r : RingIx),
    (nextWant s.w t r = none → exec (.creditGrant t r) s = .next s) ∧
    (∀ j, nextWant s.w t r = some j → j < 4 →
      (ringFree s.w t r < wantOf s.w t r j + prdF s.w t (Pg.ringCredit r.val) 22 0 → exec (.creditGrant t r) s = .next s) ∧
      (wantOf s.w t r j + prdF s.w t (Pg.ringCredit r.val) 22 0 ≤ ringFree s.w t r → Yields (.creditGrant t r) s (fun w' =>
        wantOf w' t r j = 0 ∧ prdB w' t (Pg.ringCredit r.val) (23 + j) = false ∧
        prdF w' t (Pg.ringCredit r.val) 22 0 = (prdF s.w t (Pg.ringCredit r.val) 22 0 + wantOf s.w t r j) % 2 ^ 23 ∧ w'.mem = s.w.mem)))) ∧
  (∀ (s : State) (producer target : Tile) (r : RingIx) (k : Nat) (st : BitVec 4),
    (st = 0 → Yields (.creditGrantReceive producer target r k st) s (fun w' =>
      creditOf w' producer (.unit (tileSrc target)) r = creditOf s.w producer (.unit (tileSrc target)) r + k ∧
      (∀ d q, creditKey d q ≠ creditKey (.unit (tileSrc target)) r → creditOf w' producer d q = creditOf s.w producer d q) ∧
      w' = { s.w with tiles := w'.tiles })) ∧
    (st ≠ 0 → Yields (.creditGrantReceive producer target r k st) s (fun w' =>
      prd w' producer Pg.nakReceived = satAdd32 (prd s.w producer Pg.nakReceived) 1 ∧ w'.tiles = s.w.tiles ∧ w'.mem = s.w.mem)))

/-- R99, R100, R107, R111, R112, R128: the matrix arrays and CONVERT. -/
def Obligations.ProductsHoldTheOrderedSums : Prop :=
  (∀ (s : State) (t : Tile) (m : MatmulArgs), isC t = false → canTry s.w t = true → (withoutArray m.conds).all (condHolds s.w t) = true →
    matmulReady s.w t = true →
    actHeld s.w t m.act (m.rows * rowBytes (fmtOf s.w t m.epoch m.actScale m.afmt) m.n) = true →
    Yields (.matmul t m) s (fun w' => ∃ p, (tileOf w' t).products = (tileOf s.w t).products ++ [p] ∧ p.dst = m.dst ∧ p.add = m.add ∧
      p.issued = s.w.dev.time ∧ w'.mem = s.w.mem ∧
      (∀ c, m.afmt = .code c → (fieldState s.w (tileField t)).wsel = false → ∀ a, m.act = .addr a →
        p.sums = (actRows s.w t ⟨true, c.toNat, false, 0, 0, 0, m.actScale.toNat, 0xFE, 0⟩ m.act m.rows m.n).flatMap (fun r =>
          (List.range 64).map (fun i => (sumOut ((List.range m.n).map (fun b => (readBlock s.w t 64 m.wfmt.toNat
            (m.weights.toNat + b * (blockRows false m.wfmt.toNat * 2048)) (m.scale.toNat + b * scaleBytes 64 m.wfmt.toNat) m.transpose).rows))
            (r.map (·.vals)) i).1))))) ∧
  (∀ (s : State) (t : Tile) (a : WloadArgs), isC t = true → canTry s.w t = true → (withoutArray a.conds).all (condHolds s.w t) = true →
    (tileOf s.w t).shadow = none → (fieldState s.w (tileField t)).wsel = false →
    Yields (.wload t a) s (fun w' => ∃ b, (tileOf w' t).shadow = some b ∧
      b.rows = (readBlock s.w t 128 a.wfmt.toNat a.addr.toNat a.scale.toNat a.transpose).rows ∧
      b.ready = s.w.dev.time + blockRows true a.wfmt.toNat ∧ w'.mem = s.w.mem)) ∧
  (∀ (s : State) (t : Tile),
    (∀ p rest, (tileOf s.w t).products = p :: rest → p.add = false → p.sat = false → Yields (.productDrainComplete t) s (fun w' =>
      (tileOf w' t).products = rest ∧
      (∀ i, i < 4 * p.sums.length → smGet (fun _ => 0) w'.mem.store (storeKey t p.dst.toNat + i) = (f32Bytes p.sums).getD i 0) ∧
      (∀ k, k < storeKey t p.dst.toNat ∨ storeKey t p.dst.toNat + 4 * p.sums.length ≤ k →
        smGet (fun _ => 0) w'.mem.store k = smGet (fun _ => 0) s.w.mem.store k) ∧ w'.page = s.w.page)) ∧
    ((tileOf s.w t).products = [] → exec (.productDrainComplete t) s = .next s)) ∧
  (∀ (s : State) (t : Tile) (a : ConvertArgs) (c : BitVec 4), canTry s.w t = true → a.conds.all (condHolds s.w t) = true →
    readReady s.w t a.src.toNat (4 * a.n) = true → a.fmt = .code c → elemBits c.toNat = 16 →
    (∀ x ∈ readF32s s.w t a.src.toNat a.n, f32Special x = false) →
    Yields (.convert t a) s (fun w' =>
      (∀ i, i < (packBytes 16 ((readF32s s.w t a.src.toNat a.n).map (fun x => elemCode c.toNat (f32Val x)))).length →
        smGet (fun _ => 0) w'.mem.store (storeKey t a.dst.toNat + i) =
          (packBytes 16 ((readF32s s.w t a.src.toNat a.n).map (fun x => elemCode c.toNat (f32Val x)))).getD i 0) ∧
      (∀ k, k < storeKey t a.dst.toNat ∨ storeKey t a.dst.toNat +
          (packBytes 16 ((readF32s s.w t a.src.toNat a.n).map (fun x => elemCode c.toNat (f32Val x)))).length ≤ k →
        smGet (fun _ => 0) w'.mem.store k = smGet (fun _ => 0) s.w.mem.store k)))

/-- R143, R144, R146, R148 to R150, R152: Gander and the format policy. -/
def Obligations.FormatsFollowTheSamplesAndSteps : Prop :=
  (∀ (s : State) (l : LayerIx) (yn : List F32), Yields (.ganderRerun l yn) s (fun w' =>
    w'.prec.samples = s.w.prec.samples.map (fun x => if x.layer = l ∧ x.yn = none then { x with yn := some yn } else x) ∧
    w' = { s.w with prec := { s.w.prec with samples := w'.prec.samples } })) ∧
  (∀ (s : State) (l : LayerIx) (ws : List (List F32)) (acts : List F32) (x : Sample) (yn : List F32),
    s.w.prec.samples.find? (fun x => x.layer == l) = some x → x.yn = some yn →
    (f32Lt 0x3F000000 (ganderError yn (ws.map (fun r => vecDot 0 (r.zip acts)))) = true → Yields (.ganderErrorCompute l ws acts) s (fun w' =>
      rd w' Reg.ganderGross = satAdd32 (rd s.w Reg.ganderGross) 1 ∧ rd w' Reg.ganderSamples = satAdd32 (rd s.w Reg.ganderSamples) 1 ∧
      (∀ y ∈ w'.prec.samples, y.layer ≠ x.layer) ∧ w'.prec.layers = s.w.prec.layers ∧ w'.prec.change = s.w.prec.change ∧ w'.page = s.w.page)) ∧
    (∀ m, f32Lt 0x3F000000 (ganderError yn (ws.map (fun r => vecDot 0 (r.zip acts)))) = false →
      (policyLayers s.w).find? (fun m => m.layer == x.layer) = some m → ganderN s.w ≠ 0 → (layerOf s.w m.layer).errs.length < 255 →
      Yields (.ganderErrorCompute l ws acts) s (fun w' =>
        (layerOf w' m.layer).errs = (layerOf s.w m.layer).errs ++ [ganderError yn (ws.map (fun r => vecDot 0 (r.zip acts)))] ∧
        rd w' (Reg.errWindow m.layer.val) = BitVec.ofNat 32 ((layerOf s.w m.layer).errs.length + 1) ∧
        w' = { s.w with bar0 := w'.bar0, prec := { s.w.prec with samples := w'.prec.samples, layers := w'.prec.layers } }))) ∧
  (∀ (s : State) (l : LayerIx) (m : LayerMap), (policyLayers s.w).find? (fun m => m.layer == l) = some m → m.layer = l →
    (ganderN s.w = 0 → imageRuns s.w = true → (layerOf s.w l).evalStep + 4096 ≤ precStep s.w → (layerOf s.w l).ovf ≤ m.ovfLimit →
      Yields (.evaluationPoint l) s (fun w' => (layerOf w' l).ovf = 0 ∧ (layerOf w' l).evalStep = precStep s.w ∧
        (layerOf w' l).quietStep = (layerOf s.w l).quietStep ∧ w' = { s.w with prec := { s.w.prec with layers := w'.prec.layers } })) ∧
    (precStep s.w < (layerOf s.w l).evalStep + 4096 → exec (.evaluationPoint l) s = .next s) ∧
    (imageRuns s.w = true → escEn s.w = true → 0 < targetRung s.w l → (layerOf s.w l).quietStep + 65536 ≤ precStep s.w →
      (layerOf s.w l).decided ≠ some .down → paired s.w = false → changePending s.w = false → s.w.prec.waiting = [] →
      Yields (.deescalationDecision l) s (fun w' =>
        w'.prec.change = some ⟨precStep s.w + 4, false, [(l, targetRung s.w l - 1)], false⟩ ∧ changePending w' = true ∧
        w'.prec.waiting = [] ∧ w'.mem = s.w.mem ∧ w'.serve = s.w.serve)) ∧
    (precStep s.w < (layerOf s.w l).quietStep + 65536 → exec (.deescalationDecision l) s = .next s)) ∧
  (∀ (s : State) (c : FmtChange), s.w.prec.change = some c →
    (c.flipped = true → oldEpochLeft s.w = false → paired s.w = false → s.w.prec.waiting = [] → Yields .changeComplete s (fun w' =>
      w'.prec.change = none ∧ changePending w' = false ∧ w' = { s.w with bar0 := w'.bar0, prec := w'.prec })) ∧
    (c.flipped = false → exec .changeComplete s = .next s))

/-- R209, R210, R212, R214, R215: the attention unit. -/
def Obligations.AttentionFoldsVisibleKeys : Prop :=
  (∀ (s : State) (t : Tile) (a : AttnArgs), canTry s.w t = true → a.conds.all (condHolds s.w t) = true →
    readReady s.w t a.query.toNat (a.rows * 4 * a.d) = true → (a.cont = true → readReady s.w t a.state.toNat (a.rows * (64 + 4 * a.d)) = true) →
    Yields (.attn t a) s (fun w' =>
      (∃ op, (tileOf w' t).attn = (tileOf s.w t).attn ++ [op] ∧ op.cycles = attnCycles s.w t a ∧
        op.writes = ((List.range a.rows).map (fun i => (attRowRun s.w t a i).1)).zipIdx.flatMap (fun r =>
          if a.final then attOutWords (a.output.toNat + r.2 * 4 * a.d) r.1 else attStateWords (a.state.toNat + r.2 * (64 + 4 * a.d)) r.1)) ∧
      w'.mem = s.w.mem ∧ (∀ u, u ≠ t → tileOf w' u = tileOf s.w u) ∧ w'.serve = s.w.serve ∧ w'.kv = s.w.kv) ∧
    (∀ i, a.cont = false → attLimit s.w t a + i / a.g < a.pos0 →
      (attRowRun s.w t a i).1 = AttRow.start a.d ∧ ∀ x ∈ attOut (attRowRun s.w t a i).1, x = 0)) ∧
  (∀ (s : State) (t : Tile) (a : AmergeArgs), canTry s.w t = true → a.conds.all (condHolds s.w t) = true →
    readReady s.w t a.x.toNat (a.rows * (64 + 4 * a.d)) = true → readReady s.w t a.y.toNat (a.rows * (64 + 4 * a.d)) = true →
    Yields (.amerge t a) s (fun w' =>
      (∃ op, (tileOf w' t).attn = (tileOf s.w t).attn ++ [op] ∧ op.cycles = amergeCycles s.w t a ∧
        op.writes = ((List.range a.rows).map (fun i => mergeRow (attLoad s.w t (a.x.toNat + i * (64 + 4 * a.d)) a.d)
            (attLoad s.w t (a.y.toNat + i * (64 + 4 * a.d)) a.d))).zipIdx.flatMap (fun r =>
          attStateWords (a.y.toNat + r.2 * (64 + 4 * a.d)) r.1 ++ (if a.final then attOutWords (a.output.toNat + r.2 * 4 * a.d) r.1 else []))) ∧
      w'.mem = s.w.mem ∧ (∀ u, u ≠ t → tileOf w' u = tileOf s.w u) ∧ w'.serve = s.w.serve ∧ w'.kv = s.w.kv)) ∧
  (∀ x y : AttRow, (x.m = none → mergeRow x y = y) ∧ (y.m = none → x.m ≠ none → mergeRow x y = x)) ∧
  (∀ (s : State) (t : Tile) (op : AttnOp) (rest : List AttnOp), (tileOf s.w t).attn = op :: rest →
    Yields (.attnComplete t) s (fun w' =>
      (tileOf w' t).attn = rest ∧
      (∀ (i : Nat) (x : LAddr × F32), op.writes[i]? = some x →
        (∀ (j : Nat) (y : LAddr × F32), i < j → op.writes[j]? = some y → y.1.toNat + 4 ≤ x.1.toNat ∨ x.1.toNat + 4 ≤ y.1.toNat) → 
          ∀ k, k < 4 → smGet (fun _ => 0) w'.mem.store (storeKey t x.1.toNat + k) = (le 4 x.2.toNat).getD k 0) ∧
      (∀ k, (∀ x ∈ op.writes, k < storeKey t x.1.toNat ∨ storeKey t x.1.toNat + 4 ≤ k) →
        smGet (fun _ => 0) w'.mem.store k = smGet (fun _ => 0) s.w.mem.store k) ∧
      w' = { s.w with tiles := w'.tiles, mem := { s.w.mem with store := w'.mem.store, storeUE := w'.mem.storeUE, storeCE := w'.mem.storeCE } }))

/-- R219, R220, R221: staging and its flush. -/
def Obligations.StagingAppendsAndFlushes : Prop :=
  (∀ (s : State) (t : Tile) (x : StreamIx) (l : LayerIx) (pos : Nat) (kv : List Byte), canTry s.w t = true →
    (stageFree (stageSlot (stagingOf s.w t x l) (pos / 64)) (pos / 64) = true →
      Yields (.stagingAppend t x l pos kv) s (fun w' =>
        (stageSlot (stagingOf w' t x l) (pos / 64)).chunk = some (pos / 64) ∧
        smGet (fun _ => []) (stageSlot (stagingOf w' t x l) (pos / 64)).data (pos % 64) = kv ∧
        (∀ q, q ≠ pos % 64 → smGet (fun _ => []) (stageSlot (stagingOf w' t x l) (pos / 64)).data q =
          if (stageSlot (stagingOf s.w t x l) (pos / 64)).chunk = some (pos / 64)
          then smGet (fun _ => []) (stageSlot (stagingOf s.w t x l) (pos / 64)).data q else []) ∧
        (stageSlot (stagingOf w' t x l) (pos / 64)).flushPending =
          (if (stageSlot (stagingOf s.w t x l) (pos / 64)).chunk = some (pos / 64) then (stageSlot (stagingOf s.w t x l) (pos / 64)).flushPending else 0) +
          (if pos % 64 = 63 then 1 else 0) ∧
        stageSlot (stagingOf w' t x l) (pos / 64 + 1) = stageSlot (stagingOf s.w t x l) (pos / 64 + 1) ∧
        (∀ y m, ¬(y = x ∧ m = l) → stagingOf w' t y m = stagingOf s.w t y m) ∧ (∀ u, u ≠ t → tileOf w' u = tileOf s.w u) ∧
        w' = { s.w with page := w'.page, tiles := w'.tiles })) ∧
    (stageFree (stageSlot (stagingOf s.w t x l) (pos / 64)) (pos / 64) = false →
      Yields (.stagingAppend t x l pos kv) s (fun w' =>
        prd w' t Pg.stageWaits = satAdd32 (prd s.w t Pg.stageWaits) 1 ∧ (tileOf w' t).staging = (tileOf s.w t).staging ∧
        w' = { s.w with page := w'.page, tiles := w'.tiles }))) ∧
  (∀ (s : State) (t : Tile) (x : StreamIx) (l : LayerIx) (c : Nat) (d : BlockDesc),
    (stageSlot (stagingOf s.w t x l) c).chunk = some c → 0 < (stageSlot (stagingOf s.w t x l) c).flushPending → blockOf s.w x (c / 4) = some d →
    Yields (.flushedMaskSet t x l c) s (fun w' =>
      (stageSlot (stagingOf w' t x l) c).flushPending = (stageSlot (stagingOf s.w t x l) c).flushPending - 1 ∧
      (stageSlot (stagingOf w' t x l) c).flushed = true ∧
      (∃ d', blockOf w' x (c / 4) = some d' ∧ smGet (fun _ => 0) d'.flushed l.val = smGet (fun _ => 0) d.flushed l.val ||| 2 ^ (c % 4) ∧
        (∀ m, m ≠ l.val → smGet (fun _ => 0) d'.flushed m = smGet (fun _ => 0) d.flushed m) ∧ d'.state = d.state ∧ d'.layers = d.layers ∧ d'.node = d.node) ∧
      (∀ k, k ≠ blockKey x (c / 4) → smGet (fun _ => none) w'.kv.blocks k = smGet (fun _ => none) s.w.kv.blocks k) ∧
      (mirrors s.w x = false → w'.pair = s.w.pair) ∧ (mirrors s.w x = true → w'.pair.mirrorQueue.getLast? = some (x, l, c)) ∧ w'.mem = s.w.mem)) ∧
  (∀ (s : State) (t : Tile) (x : StreamIx) (l : LayerIx) (c : Nat),
    (stageSlot (stagingOf s.w t x l) c).chunk ≠ some c ∨ (stageSlot (stagingOf s.w t x l) c).flushPending = 0 → exec (.flushedMaskSet t x l c) s = .next s)

/-- R226, R233, R238, R240 to R243: held allocations and the prefix walker. -/
def Obligations.BlocksAreHeldSharedAndReleased : Prop :=
  (∀ (s : State) (x : StreamIx),
    (s.w.kv.held.find? (fun e => e.1 == x) = none → exec (.allocationResume x) s = .next s) ∧
    (∀ e, s.w.kv.held.find? (fun e => e.1 == x) = some e →
      (kvAvailable s.w x < e.2 → exec (.allocationResume x) s = .next s) ∧
      (e.2 ≤ kvAvailable s.w x →
        (missingBlocks s.w x (heldRange s.w x).1 (heldRange s.w x).2).length * kvLayers s.w ≤ kvAvailable s.w x →
        Yields (.allocationResume x) s (fun w' =>
          (∀ b ∈ missingBlocks s.w x (heldRange s.w x).1 (heldRange s.w x).2, ∃ d, blockOf w' x b = some d ∧ d.state = .active ∧ d.node = none ∧
            d.layers &&& 63 = 0) ∧
          (∀ b, b ∉ missingBlocks s.w x (heldRange s.w x).1 (heldRange s.w x).2 → blockOf w' x b = blockOf s.w x b) ∧
          (∀ y b, y ≠ x → b < 8192 → (∀ c ∈ missingBlocks s.w x (heldRange s.w x).1 (heldRange s.w x).2, c < 8192) → blockOf w' y b = blockOf s.w y b) ∧
          kvFree w' = kvFree s.w - (missingBlocks s.w x (heldRange s.w x).1 (heldRange s.w x).2).length * kvLayers s.w ∧
          (∀ h ∈ w'.kv.held, h.1 ≠ x) ∧ (streamOf w' x).state = heldReturn s.w x ∧ (∀ y, y ≠ x → streamOf w' y = streamOf s.w y))))) ∧
  (∀ (s : State) (x : StreamIx),
    ((streamOf s.w x).state = .admitting ∧ (streamOf s.w x).lookup = true ∧ prefixOn s.w = true ∧ (streamBlocks s.w x).isEmpty = true →
      Yields (.prefixLookup x) s (fun w' =>
        (∃ n, n ≤ ((streamOf s.w x).promptLen - 1) / 256 ∧ (streamOf w' x).prefixHit = 256 * n ∧
          (∀ b, b < n → ∃ d, blockOf w' x b = some d ∧ d.state = .shared ∧ d.node.isSome = true) ∧
          (findRoot s.w (rootKey s.w x) = none → n = 0 ∧ w'.kv = s.w.kv ∧ rd w' Reg.prefixLookups = satAdd32 (rd s.w Reg.prefixLookups) 1) ∧
          (∀ y b, blockOf w' y b ≠ blockOf s.w y b → blockKey y b < blockKey x n ∧ blockKey x 0 ≤ blockKey y b)) ∧
        { streamOf w' x with prefixHit := (streamOf s.w x).prefixHit } = streamOf s.w x ∧ (∀ y, y ≠ x → streamOf w' y = streamOf s.w y))) ∧
    (¬((streamOf s.w x).state = .admitting ∧ (streamOf s.w x).lookup = true ∧ prefixOn s.w = true ∧ (streamBlocks s.w x).isEmpty = true) →
      exec (.prefixLookup x) s = .next s)) ∧
  (∀ (s : State) (x : StreamIx) (b : Nat),
    (∀ d, 256 * (b + 1) ≤ (streamOf s.w x).length → (streamOf s.w x).insert = true → prefixOn s.w = true → s.w.pair.shadows.contains x = false →
      (b = 0 ∨ stateOf (blockOf s.w x (b - 1)) = .shared) → blockOf s.w x b = some d → d.state = .full →
      (rootFor s.w (rootKey s.w x) = none → Yields (.prefixInsert x b) s (fun w' => rd w' Reg.prefixSkips = satAdd32 (rd s.w Reg.prefixSkips) 1 ∧
        w' = { s.w with bar0 := w'.bar0 })) ∧
      (∀ r, rootFor s.w (rootKey s.w x) = some r →
        let p := parentOf s.w x b r
        let toks := logTokens s.w x (256 * b) 256
        let m := matchBlock s.w r.index p.1 (blockHash p.2 toks) toks
        (m.1 = none → Yields (.prefixInsert x b) s (fun w' =>
          (∃ n, w'.kv.nodes = n :: s.w.kv.nodes ∧ n.index = s.w.kv.nextNode ∧ n.refcount = 1 ∧ n.tokens = toks ∧ n.parent = p.1 ∧
            n.hash = BitVec.ofNat 64 (blockHash p.2 toks) ∧ n.root = r.index ∧ n.layers = d.layers) ∧
          w'.kv.nextNode = s.w.kv.nextNode + 1 ∧ blockOf w' x b = some { d with state := .shared, node := some s.w.kv.nextNode } ∧
          (∀ y c, blockKey y c ≠ blockKey x b → blockOf w' y c = blockOf s.w y c) ∧
          rd w' Reg.prefixInserts = satAdd32 (rd s.w Reg.prefixInserts) 1)) ∧
        (m.1 ≠ none → Yields (.prefixInsert x b) s (fun w' => rd w' Reg.prefixSkips = satAdd32 (rd s.w Reg.prefixSkips) 1 ∧
          rd w' Reg.prefixInserts = rd s.w Reg.prefixInserts ∧ w'.kv = s.w.kv)))) ∧
    ((streamOf s.w x).length < 256 * (b + 1) ∨ (streamOf s.w x).insert = false ∨ prefixOn s.w = false ∨ s.w.pair.shadows.contains x = true ∨
      stateOf (blockOf s.w x b) ≠ .full ∨ (0 < b ∧ stateOf (blockOf s.w x (b - 1)) ≠ .shared) → exec (.prefixInsert x b) s = .next s)) ∧
  (∀ (s : State) (x : StreamIx),
    ((streamOf s.w x).state = .ending → Yields (.prefixRelease x) s (fun w' =>
      (∀ e ∈ streamBlocks s.w x, e.2.state = .shared → blockOf w' x e.1 = none) ∧
      (∀ y b, (∀ e ∈ streamBlocks s.w x, e.2.state = .shared → blockKey y b ≠ blockKey x e.1) → blockOf w' y b = blockOf s.w y b) ∧
      (∀ i, nodeOf w' i = (nodeOf s.w i).map (fun n => { n with refcount := n.refcount -
        ((streamBlocks s.w x).filter (fun e => decide (e.2.state = .shared) && e.2.node == some i)).length })) ∧
      w'.serve = s.w.serve)) ∧
    ((streamOf s.w x).state ≠ .ending → exec (.prefixRelease x) s = .next s))

/-- R251, R271, R274, R370, R371: intake, cancelling and the draft band. -/
def Obligations.IntakeTakesDueRecords : Prop :=
  (∀ (s : State), (hostAnswers s.w = false ∨ rdB s.w Reg.hostifCtrl 31 = false ∨ s.w.host.d3hot = true → exec .intakeScan s = .next s) ∧
    (∀ n : RingIx, hostAnswers s.w = true → rdB s.w Reg.hostifCtrl 31 = true → s.w.host.d3hot = false →
      (∀ m, m ≠ n → (rdB s.w (Reg.intakeCtrl m.val) 31 && rdB s.w (Reg.intakeCtrl m.val) 30) = false) →
      let taken := rd64 s.w (Reg.intakeTaken n.val)
      let b := farRead s.w (rd64 s.w (Reg.intakeBase n.val) + 64 * (taken % 2 ^ rdF s.w (Reg.intakeCtrl n.val) 3 0)) 64
      (ofLe (b.drop 60) ≠ taken % 0xFFFFFFFF + 1 → exec .intakeScan s = .next s) ∧
      (rdB s.w (Reg.intakeCtrl n.val) 31 = true → rdB s.w (Reg.intakeCtrl n.val) 30 = true → ofLe (b.drop 60) = taken % 0xFFFFFFFF + 1 →
        (b.getD 0 0 ≠ 1 → cplFree s.w n = false → Yields .intakeScan s (fun w' => rdB w' (Reg.intakeCtrl n.val) 28 = true ∧
          (∀ off, off ≠ Reg.intakeCtrl n.val → rd w' off = rd s.w off) ∧ w' = { s.w with bar0 := w'.bar0 })) ∧
        (b.getD 0 0 = 1 ∨ cplFree s.w n = true → Yields .intakeScan s (fun w' =>
          (∃ l, w'.serve.admitQ = s.w.serve.admitQ ++ parseRequest n b s.w.dev.time :: l ∧ l.length < 8 ∧
            rd64 w' (Reg.intakeTaken n.val) = (taken + 1 + l.length) % 2 ^ 64 ∧
            rd w' Reg.intakeFound = satAdd32 (rd s.w Reg.intakeFound) (1 + l.length)) ∧
          w'.serve.streams = s.w.serve.streams ∧ w'.kv = s.w.kv)))) ) ∧
  (∀ (s : State) (x : StreamIx) (tag : BitVec 16),
    ((streamOf s.w x).state = .free ∨ (streamOf s.w x).reqTag ≠ tag ∨ (streamOf s.w x).state = .ending ∨ (streamOf s.w x).state = .quarantined →
      Yields (.cancel x tag) s (fun w' => w'.serve.streams = s.w.serve.streams ∧ w'.serve.queue = s.w.serve.queue ∧
        w' = { s.w with serve := { s.w.serve with wins := w'.serve.wins, closed := w'.serve.closed } })) ∧
    ((streamOf s.w x).state ≠ .free → (streamOf s.w x).reqTag = tag → (streamOf s.w x).state ≠ .ending → (streamOf s.w x).state ≠ .quarantined →
      (inHold s.w = true → Yields (.cancel x tag) s (fun w' => streamOf w' x = { streamOf s.w x with cancelAsked := true } ∧
        w'.serve.queue = s.w.serve.queue ∧ (∀ y, y ≠ x → streamOf w' y = streamOf s.w y))) ∧
      (inHold s.w = false → Yields (.cancel x tag) s (fun w' =>
        w'.serve.queue = s.w.serve.queue.filter (fun c => !(c.stream == x)) ∧ (∀ y, y ≠ x → streamOf w' y = streamOf s.w y) ∧
        (streamOf w' x).cancelAsked = true ∧ (streamOf w' x).reqTag = tag ∧
        (inPipe s.w x = false → chunkRuns s.w x = false → awaiting s.w x = false → (streamOf s.w x).state ≠ .admitting →
          (streamOf w' x).state = .ending ∧ (streamOf w' x).endStatus = 2 ∧ (streamOf w' x).phase = none ∧ chainOf w' x = []) ∧
        (inPipe s.w x = true ∨ chunkRuns s.w x = true ∨ awaiting s.w x = true → streamOf w' x = { streamOf s.w x with cancelAsked := true }))))) ∧
  (∀ (s : State) (x : StreamIx) (token : Word32),
    (speculates s.w x = true → draftOpen s.w = true → (streamOf s.w x).state = .decode → (chainOf s.w x).length + 1 < rowsMax s.w →
      Yields (.draftExtend x token) s (fun w' => chainOf w' x = chainOf s.w x ++ [token] ∧ (∀ y, y ≠ x → chainOf w' y = chainOf s.w y) ∧
        w' = { s.w with serve := { s.w.serve with chains := w'.serve.chains } })) ∧
    (speculates s.w x = false ∨ draftOpen s.w = false ∨ (streamOf s.w x).state ≠ .decode ∨ rowsMax s.w ≤ (chainOf s.w x).length + 1 →
      exec (.draftExtend x token) s = .next s))

/-- R263, R265, R314, R403, R471, R565: the admission decision. -/
def Obligations.RequestsAreDecidedByTheirTests : Prop :=
  (∀ s : State, s.w.serve.admitQ = [] → exec .admissionDecision s = .next s) ∧
  (∀ (s : State) (q : Request) (r : List Request), s.w.serve.admitQ = q :: r →
    let refused (st : BitVec 8) (w' : W9) : Prop :=
      w'.serve.admitQ = r ∧ (∃ x, smGet (fun _ => []) w'.host.cplWait q.ring.val = smGet (fun _ => []) s.w.host.cplWait q.ring.val ++ [x] ∧
        x.status = st ∧ x.tag = q.tag ∧ x.stream = q.stream ∧ x.outEnd = 0xFFFFFFFF) ∧ w'.serve.pipe = s.w.serve.pipe
    let popped : State := { s with w := { s.w with serve := { s.w.serve with admitQ := r } } }
    (q.kind = 1 → q.stream < 1024 → exec .admissionDecision s = exec (.cancel (slotOf q) q.tag) popped) ∧
    (q.kind ≠ 1 →
      (∀ st, firstTests s.w q = some st → Yields .admissionDecision s (fun w' => refused st w' ∧ w'.serve.streams = s.w.serve.streams ∧ w'.serve.queue = s.w.serve.queue ∧ w'.kv = s.w.kv)) ∧
      (firstTests s.w q = none →
        (∀ f, s.w.wt.flip = some f →
          (q.modelVer = f.version → Yields .admissionDecision s (fun w' => streamOf w' (slotOf q) = streamFor s.w q ∧
            w'.serve.held = s.w.serve.held ++ [q] ∧ w'.serve.admitQ = r ∧ (∀ y, y ≠ slotOf q → streamOf w' y = streamOf s.w y))) ∧
          (q.modelVer ≠ f.version → Yields .admissionDecision s (fun w' => refused 0x12 w' ∧ w'.serve.streams = s.w.serve.streams ∧ w'.serve.queue = s.w.serve.queue ∧ w'.kv = s.w.kv))) ∧
        (s.w.wt.flip = none →
          (∀ st, modelTests s.w q = some st →
            Yields .admissionDecision s (fun w' => refused st w' ∧ w'.serve.streams = s.w.serve.streams ∧ w'.serve.queue = s.w.serve.queue ∧ w'.kv = s.w.kv)) ∧
          (modelTests s.w q = none →
            (inHold s.w = true →
              (q.cls = 0 → Yields .admissionDecision s (fun w' => refused 0x14 w' ∧ w'.serve.streams = s.w.serve.streams ∧ w'.serve.queue = s.w.serve.queue ∧ w'.kv = s.w.kv)) ∧
              (q.cls ≠ 0 → Yields .admissionDecision s (fun w' => streamOf w' (slotOf q) = streamFor s.w q ∧
                w'.serve.holdWait = s.w.serve.holdWait ++ [q] ∧ w'.serve.admitQ = r ∧ (∀ y, y ≠ slotOf q → streamOf w' y = streamOf s.w y)))) ∧
            (inHold s.w = false →
              (q.cls = 0 → belowFloor s.w = true → Yields .admissionDecision s (fun w' => refused 0x14 w' ∧ (streamOf w' (slotOf q)).state = .free ∧
                w'.serve.queue = s.w.serve.queue.filter (fun c => !(c.stream == slotOf q)) ∧
                (∀ y, y ≠ slotOf q → streamOf w' y = streamOf s.w y))) ∧
              (q.cls = 0 → belowFloor s.w = false → pairEn s.w = true → paired s.w = false → Yields .admissionDecision s (fun w' =>
                refused 0x15 w' ∧ (streamOf w' (slotOf q)).state = .free ∧
                w'.serve.queue = s.w.serve.queue.filter (fun c => !(c.stream == slotOf q)) ∧ (∀ y, y ≠ slotOf q → streamOf w' y = streamOf s.w y))) ∧
              (q.cls = 1 → q.limitFirst < q.arrival → Yields .admissionDecision s (fun w' =>
                refused 0x17 w' ∧ (streamOf w' (slotOf q)).state = .free ∧
                w'.serve.queue = s.w.serve.queue.filter (fun c => !(c.stream == slotOf q)) ∧ (∀ y, y ≠ slotOf q → streamOf w' y = streamOf s.w y))) ∧
              (q.cls = 2 → Yields .admissionDecision s (fun w' =>
                let x := streamOf w' (slotOf q)
                let chunks := prefillChunks s.w (slotOf q) x.prefixHit (q.promptLen - 1)
                x.cls = 2 ∧ x.reqTag = q.tag ∧ x.promptLen = q.promptLen ∧ x.maxNew = q.maxNew ∧ x.phase = none ∧ x.shadow = false ∧
                x.order = s.w.serve.decisions ∧ w'.serve.decisions = s.w.serve.decisions + 1 ∧
                w'.serve.queue = s.w.serve.queue ++ chunks ∧ w'.serve.admitQ = r ∧
                (chunks ≠ [] → x.state = .prefill ∧ x.length = x.prefixHit) ∧
                (chunks = [] → (x.state = .decode ∨ x.state = .held) ∧ x.length = q.promptLen - 1) ∧
                (∀ y, y ≠ slotOf q → streamOf w' y = streamOf s.w y)))))))))

/-- R368: enabling and disabling an intake ring. -/
def Obligations.IntakeRingsEnableClearAndDisable : Prop :=
  ∀ (s : State) (n : RingIx) (v : Word32),
    (hostAnswers s.w = false → exec (.intakeEnable n v) s = .next s ∧ exec (.intakeDisable n v) s = .next s) ∧
    (hostAnswers s.w = true →
      let log2 := if rdB s.w (Reg.intakeCtrl n.val) 31 then rdF s.w (Reg.intakeCtrl n.val) 3 0 else fieldOf v 3 0
      let err := rdB s.w (Reg.intakeCtrl n.val) 29 && !v.getLsbD 29
      (intakeValid s.w (rd64 s.w (Reg.intakeBase n.val)) log2 = true → Yields (.intakeEnable n v) s (fun w' =>
        rd w' (Reg.intakeCtrl n.val) = BitVec.ofNat 32 (2 ^ 31 + b2n err * 2 ^ 29 + log2) ∧ rd64 w' (Reg.intakeTaken n.val) = 0 ∧
        w'.host.stamping.contains n = true ∧
        (∀ off, off ≠ Reg.intakeCtrl n.val → off ≠ Reg.intakeTaken n.val → off ≠ Reg.intakeTaken n.val + 4 → rd w' off = rd s.w off) ∧
        w' = { s.w with bar0 := w'.bar0, host := { s.w.host with stamping := w'.host.stamping } })) ∧
      (intakeValid s.w (rd64 s.w (Reg.intakeBase n.val)) log2 = false → Yields (.intakeEnable n v) s (fun w' =>
        rd w' (Reg.intakeCtrl n.val) = BitVec.ofNat 32 (2 ^ 29 + log2) ∧ w'.host.stamping = s.w.host.stamping ∧ w'.mem = s.w.mem ∧
        (∀ off, off ≠ Reg.intakeCtrl n.val → off ≠ Reg.evtLost → off ≠ Reg.hostifErr → rd w' off = rd s.w off))) ∧
      Yields (.intakeDisable n v) s (fun w' => rd w' (Reg.intakeCtrl n.val) = BitVec.ofNat 32 (b2n err * 2 ^ 29 + log2) ∧
        w'.host.stamping.contains n = false ∧ (∀ off, off ≠ Reg.intakeCtrl n.val → rd w' off = rd s.w off) ∧
        w' = { s.w with bar0 := w'.bar0, host := { s.w.host with stamping := w'.host.stamping } })) ∧
    (s.w.host.stamping.contains n = true → Yields (.intakeStampsCleared n) s (fun w' =>
      let base := rd64 s.w (Reg.intakeBase n.val)
      let stamp (k : Nat) : Prop := ∃ i j, i < 2 ^ rdF s.w (Reg.intakeCtrl n.val) 3 0 ∧ j < 4 ∧ farDecode s.w (base + 64 * i + 60 + j) = some k
      rdB w' (Reg.intakeCtrl n.val) 30 = true ∧ w'.host.stamping.contains n = false ∧
      (∀ k, stamp k → smGet (fun _ => farEmpty) w'.mem.far k = 0) ∧
      (∀ k, ¬stamp k → smGet (fun _ => farEmpty) w'.mem.far k = smGet (fun _ => farEmpty) s.w.mem.far k) ∧
      (∀ off, off ≠ Reg.intakeCtrl n.val → rd w' off = rd s.w off))) ∧
    (s.w.host.stamping.contains n = false → exec (.intakeStampsCleared n) s = .next s)

/-- R272, R373, R376, R378, R379: rings in host memory, vectors and completions. -/
def Obligations.HostRingsWriteBatchesAndVectors : Prop :=
  (∀ (s : State) (r : HostRing) (v : Word32), v.getLsbD 31 = true →
    (hostAnswers s.w = false → exec (.hostRingEnable r v) s = .next s) ∧
    (hostAnswers s.w = true →
      ((hrCtrl s.w r).getLsbD 31 = true → Yields (.hostRingEnable r v) s (fun w' => (hrCtrl w' r).getLsbD 31 = true ∧ hrEntries w' r = hrEntries s.w r ∧
        (∀ off, off ≠ (ringRegs r).2.1 → rd w' off = rd s.w off) ∧ w' = { s.w with bar0 := w'.bar0 })) ∧
      ((hrCtrl s.w r).getLsbD 31 = false →
        (hrValid s.w r (fieldOf v 4 0) = true → Yields (.hostRingEnable r v) s (fun w' => (hrCtrl w' r).getLsbD 31 = true ∧
          hrEntries w' r = 2 ^ fieldOf v 4 0 ∧ hrWritten w' r = 0 ∧ rd w' (ringRegs r).2.2.1 = 0 ∧ w' = { s.w with bar0 := w'.bar0 })) ∧
        (hrValid s.w r (fieldOf v 4 0) = false → Yields (.hostRingEnable r v) s (fun w' => (hrCtrl w' r).getLsbD 31 = false ∧
          (r ≠ .event → (hrCtrl w' r).getLsbD 30 = true) ∧ hrWritten w' r = hrWritten s.w r ∧ w'.mem = s.w.mem))))) ∧
  (∀ (s : State) (r : HostRing),
    (batchDue s.w r = false ∨ canWrite s.w = false ∨ hrRoom s.w r = 0 → exec (.ringBatchWrite r) s = .next s) ∧
    (batchDue s.w r = true → canWrite s.w = true → 0 < hrRoom s.w r → Yields (.ringBatchWrite r) s (fun w' =>
      let k := min (hrWaiting s.w r).length (hrRoom s.w r)
      hrWritten w' r = hrWritten s.w r + BitVec.ofNat 32 k ∧ hrWaiting w' r = (hrWaiting s.w r).drop k ∧
      (r ≠ .event → hrEntries s.w r ≤ 2 ^ 16 → ∀ i e, i < k → (hrWaiting s.w r)[i]? = some e → ∀ j, j < (ringRegs r).2.2.2.2 →
        smGet (fun _ => 0) w'.host.hostMem (hrBase s.w r + ((hrWritten s.w r).toNat + i) % hrEntries s.w r * (ringRegs r).2.2.2.2 + j) =
          (e (((hrWritten s.w r).toNat + i) / hrEntries s.w r % 2 == 0)).getD j 0) ∧
      w'.mem = s.w.mem ∧ w'.serve = s.w.serve))) ∧
  (∀ (s : State) (v : Fin 256),
    (s.w.host.vectorDue.contains v = false ∨ canWrite s.w = false ∨ s.w.host.msixOn = false → exec (.msixSend v) s = .next s) ∧
    (s.w.host.vectorDue.contains v = true → canWrite s.w = true → s.w.host.msixOn = true →
      (rdB s.w (Reg.msixCtl v.val) 0 = true → Yields (.msixSend v) s (fun w' => rdB w' (Reg.msixPba (v.val / 32)) (v.val % 32) = true ∧
        w'.host = { s.w.host with vectorDue := s.w.host.vectorDue.filter (fun x => decide (x ≠ v)) })) ∧
      (rdB s.w (Reg.msixCtl v.val) 0 = false →
        (vectorReady s.w v = true → Yields (.msixSend v) s (fun w' => w'.host.vectorDue.contains v = false ∧
          (∀ j, j < 4 → smGet (fun _ => 0) w'.host.hostMem
            ((rd s.w (Reg.msixAddrLo v.val)).toNat + 2 ^ 32 * (rd s.w (Reg.msixAddrHi v.val)).toNat + j) = (le 4 (rd s.w (Reg.msixData v.val)).toNat).getD j 0) ∧
          smGet (fun _ => 0) w'.host.msixSent v.val = smGet (fun _ => 0) s.w.host.msixSent v.val + 1 ∧ w'.bar0 = s.w.bar0)) ∧
        (vectorReady s.w v = false → exec (.msixSend v) s = .next s)))) ∧
  (∀ (s : State) (x : StreamIx),
    ((streamOf s.w x).state ≠ .ending ∨ (streamOf s.w x).handedOff = true ∨ s.w.pair.shadows.contains x = true →
      exec (.completionPost x) s = .next s) ∧
    ((streamOf s.w x).state = .ending → (streamOf s.w x).handedOff = false → s.w.pair.shadows.contains x = false →
      (∀ e ∈ streamBlocks s.w x, e.2.state ≠ .shared) →
      ((streamOf s.w x).cplRing = none → Yields (.completionPost x) s (fun w' => streamOf w' x = Stream.init ∧
        (∀ y, y ≠ x → streamOf w' y = streamOf s.w y))) ∧
      (∀ n, (streamOf s.w x).cplRing = some n →
        (tokensDone s.w x = false → exec (.completionPost x) s = .next s) ∧
        (tokensDone s.w x = true → canWrite s.w = true → (smGet (fun _ => []) s.w.host.cplWait n.val) = [] → 0 < hrRoom s.w (.completion n) →
          Yields (.completionPost x) s (fun w' => streamOf w' x = Stream.init ∧ hrWritten w' (.completion n) = hrWritten s.w (.completion n) + 1 ∧
            smGet (fun _ => []) w'.host.cplWait n.val = [] ∧ (∀ y, y ≠ x → streamOf w' y = streamOf s.w y))) ∧
        (tokensDone s.w x = true → hrRoom s.w (.completion n) = 0 → Yields (.completionPost x) s (fun w' =>
          streamOf w' x = streamOf s.w x ∧ cplWaits w' x n = true)))))

/-- R360, R361, R363: the far-memory window. -/
def Obligations.BarReadsAndWritesReachFarMemory : Prop :=
  ∀ (s : State) (off : Nat),
    (hostAnswers s.w = false → (∀ n, exec (.bar2Read off n) s = .next s) ∧ ∀ bs, exec (.bar2Write off bs) s = .next s) ∧
    (hostAnswers s.w = true →
      (∀ n, bar2Assigned s.w off n = true →
        (bar2Waits s.w off n = false → Yields (.bar2Read off n) s (fun w' => w'.host.readData = farRead s.w (bar2Addr s.w off) n ∧
          w'.host.poisoned = (farQuarters s.w (bar2Addr s.w off) n).any (fun q => s.w.mem.farUE.contains q) ∧
          w'.mem.far = s.w.mem.far ∧ w'.mem.store = s.w.mem.store ∧ w'.host.bar2Waiting = s.w.host.bar2Waiting)) ∧
        (bar2Waits s.w off n = true → Yields (.bar2Read off n) s (fun w' => w'.host.bar2Waiting = s.w.host.bar2Waiting ++ [(off, n, s.w.dev.time)] ∧
          w' = { s.w with host := { s.w.host with bar2Waiting := w'.host.bar2Waiting } }))) ∧
      (∀ n, bar2Assigned s.w off n = false →
        Yields (.bar2Read off n) s (fun w' => w'.host.readData = List.replicate n 0xFF ∧ w'.host.poisoned = false ∧
          rd w' Reg.barRejects = satAdd32 (rd s.w Reg.barRejects) 1 ∧ w'.mem = s.w.mem)) ∧
      (∀ bs : List (Option Byte), bar2Assigned s.w off bs.length = false →
        Yields (.bar2Write off bs) s (fun w' => rd w' Reg.barRejects = satAdd32 (rd s.w Reg.barRejects) 1 ∧ w'.mem = s.w.mem)) ∧
      (∀ bs : List (Option Byte), bar2Assigned s.w off bs.length = true →
        (∀ q ∈ farQuarters s.w (bar2Addr s.w off) bs.length, s.w.mem.farUE.contains q = false) →
        Yields (.bar2Write off bs) s (fun w' =>
          (∀ i b k, bs[i]? = some (some b) → farDecode s.w (bar2Addr s.w off + i) = some k →
            (∀ j, j ≠ i → j < bs.length → farDecode s.w (bar2Addr s.w off + j) ≠ some k) → smGet (fun _ => farEmpty) w'.mem.far k = b) ∧
          (∀ k, (∀ i b, bs[i]? = some (some b) → farDecode s.w (bar2Addr s.w off + i) ≠ some k) →
            smGet (fun _ => farEmpty) w'.mem.far k = smGet (fun _ => farEmpty) s.w.mem.far k) ∧
          w'.bar0 = s.w.bar0 ∧ w'.mem.store = s.w.mem.store))) ∧
    (∀ p, s.w.host.bar2Waiting.find? (fun p => p.1 == off && decide (p.2.2 + 1000000 ≤ now s.w)) = some p →
      Yields (.bar2ReadTimeout false off) s (fun w' => w'.host.readData = List.replicate p.2.1 0xFF ∧ w'.host.bar2Waiting = s.w.host.bar2Waiting.erase p ∧
        rd w' Reg.barRejects = satAdd32 (rd s.w Reg.barRejects) 1 ∧ w'.mem = s.w.mem)) ∧
    (∀ p, s.w.host.bar4.find? (fun p => p.off == off && decide (p.issued + 1000000 ≤ now s.w)) = some p →
      Yields (.bar2ReadTimeout true off) s (fun w' => w'.host.readData = List.replicate p.len 0xFF ∧ w'.host.bar4 = s.w.host.bar4.erase p ∧
        rd w' Reg.barRejects = satAdd32 (rd s.w Reg.barRejects) 1 ∧ w'.mem = s.w.mem)) ∧
    (s.w.host.bar2Waiting.find? (fun p => p.1 == off && decide (p.2.2 + 1000000 ≤ now s.w)) = none → exec (.bar2ReadTimeout false off) s = .next s) ∧
    (s.w.host.bar4.find? (fun p => p.off == off && decide (p.issued + 1000000 ≤ now s.w)) = none → exec (.bar2ReadTimeout true off) s = .next s)

/-- R354, R358, R365, R366, R380, R381: apertures, the debug block, and the link. -/
def Obligations.ApertureAndLinkFollowTheirRules : Prop :=
  (∀ (s : State) (off : Nat) (bs : List Byte) (n : Nat), hostAnswers s.w = true → safeMode s.w = false →
    (off % 8 ≠ 0 ∨ bs.length % 8 ≠ 0 ∨ codeTile (BitVec.ofNat 16 (apTile s.w off)) = none →
      Yields (.bar4Write off (bs.map some)) s (fun w' => rd w' Reg.barRejects = satAdd32 (rd s.w Reg.barRejects) 1 ∧
        w'.routers = s.w.routers ∧ w'.mem = s.w.mem ∧ w'.host.opSeq = s.w.host.opSeq)) ∧
    (codeTile (BitVec.ofNat 16 (apTile s.w off)) = none →
      Yields (.bar4Read off n) s (fun w' => w'.host.readData = List.replicate n 0xFF ∧ rd w' Reg.barRejects = satAdd32 (rd s.w Reg.barRejects) 1 ∧
        w'.routers = s.w.routers ∧ w'.host.bar4 = s.w.host.bar4)) ∧
    (∀ t, codeTile (BitVec.ofNat 16 (apTile s.w off)) = some t →
      (off % 8 = 0 → bs.length % 8 = 0 → inHold s.w = true → Yields (.bar4Write off (bs.map some)) s (fun w' => w'.routers = s.w.routers ∧ w'.mem = s.w.mem)) ∧
      (inHold s.w = true → 0 < n → Yields (.bar4Read off n) s (fun w' => w'.host.readData = List.replicate n 0xFF ∧
        rd w' Reg.barRejects = satAdd32 (rd s.w Reg.barRejects) 1 ∧ w'.routers = s.w.routers ∧ w'.host.bar4 = s.w.host.bar4)) ∧
      (∀ r, inHold s.w = false → ringStatus s.w t = none → ringRoute s.w t = some r →
        let u := tileAt (attachTile r.1).1 (attachTile r.1).2
        updating s.w u = false →
        (off % 8 = 0 → bs.length % 8 = 0 → 0 < bs.length → off % 1024 + bs.length ≤ 1024 → Yields (.bar4Write off (bs.map some)) s (fun w' =>
          (∃ e, routerOf w' u = routerOf s.w u ++ [e] ∧ e.pkt.op = opPut ∧ e.pkt.target = tileSrc t ∧ e.pkt.payload = bs ∧
            e.pkt.address.toNat = off % 2 ^ 24 ∧ e.pkt.opSeq = s.w.host.opSeq ∧ hcrcOk e.pkt = true) ∧
          (∀ v, v ≠ u → routerOf w' v = routerOf s.w v) ∧ w'.host.opSeq = s.w.host.opSeq + 1 ∧ w'.mem = s.w.mem)) ∧
        (off % 8 = 0 → n % 8 = 0 → 0 < n → off % 1024 + n ≤ 1024 → Yields (.bar4Read off n) s (fun w' =>
          (∃ e, routerOf w' u = routerOf s.w u ++ [e] ∧ e.pkt.op = opGet ∧ e.pkt.target = tileSrc t ∧ e.pkt.address.toNat = off % 2 ^ 24) ∧
          (∀ v, v ≠ u → routerOf w' v = routerOf s.w v) ∧ w'.host.bar4 = s.w.host.bar4 ++ [⟨off, n, t.val, s.w.dev.time⟩] ∧ w'.mem = s.w.mem))))) ∧
  (∀ (s : State) (st : BitVec 4) (data : List Byte),
    (s.w.host.bar4 = [] → exec (.bar4ReadComplete st data) s = .next s) ∧
    (∀ p r, s.w.host.bar4 = p :: r → Yields (.bar4ReadComplete st data) s (fun w' =>
      w'.host.readData = (if st = 0 then data.take p.len else List.replicate p.len 0xFF) ∧ w'.host.bar4 = r ∧
      rd w' Reg.barRejects = (if st = 0 then rd s.w Reg.barRejects else satAdd32 (rd s.w Reg.barRejects) 1)))) ∧
  (∀ s : State, (dbgOpen s.w = true → exec .pop s = .next { s with w := { s.w with dbg := { s.w.dbg with fifo := s.w.dbg.fifo.drop 1 } } }) ∧
    (dbgOpen s.w = false → exec .pop s = .next s) ∧
    (∀ wr off v, dbgOpen s.w = true → dbgTile s.w = none → Yields (.dbgTilePageAccess wr off v) s (fun w' => rdB w' Reg.dbgStatus 28 = true ∧
      w'.page = s.w.page ∧ w'.mem = s.w.mem ∧ (wr = false → hostAnswers s.w = true → w'.host.readData = le 4 0xFFFFFFFF)))) ∧
  (∀ (s : State) (rate : Fin 8) (width : Fin 17),
    (hostAnswers s.w = false → exec (.linkTrained rate width) s = .next s ∧ exec .functionLevelReset s = .next s ∧ exec .d3hotEntry s = .next s) ∧
    (hostAnswers s.w = true → Yields (.linkTrained rate width) s (fun w' => rd w' Reg.linkStatus = linkWord rate.val width.val ∧
      w'.host.linkUp = decide (rate.val ≠ 0) ∧ w'.host.msixOn = decide (rate.val ≠ 0) ∧
      (∀ off, off ≠ Reg.linkStatus → off ≠ Reg.evtLost → off ≠ Reg.hostifErr → rd w' off = rd s.w off) ∧ w'.mem = s.w.mem)) ∧
    Yields .linkDown s (fun w' => rd w' Reg.linkStatus = 0 ∧ w'.host.linkUp = false ∧ w'.host.msixOn = false ∧ w'.host.d3hot = false ∧
      w'.host.bar2Waiting = [] ∧ w'.host.bar4 = [] ∧ w'.host.hostMem = s.w.host.hostMem ∧
      (∀ off, off ≠ Reg.linkStatus → off ≠ Reg.evtLost → off ≠ Reg.hostifErr → rd w' off = rd s.w off) ∧ w'.mem = s.w.mem) ∧
    (hostAnswers s.w = true → Yields .functionLevelReset s (fun w' =>
      (∀ off, rd w' off = if flrResets off then regReset off else rd s.w off) ∧
      (∀ n : RingIx, rd w' (Reg.cplReserved n.val) = rd s.w (Reg.cplReserved n.val)) ∧ rd w' Reg.linkStatus = rd s.w Reg.linkStatus ∧
      w'.host.backlog = [] ∧ w'.host.evtWait = [] ∧ w'.host.vectorDue = [] ∧ w'.host.msixOn = false ∧ w'.host.d3hot = false ∧
      w'.host.hostMem = s.w.host.hostMem ∧ w' = { s.w with bar0 := w'.bar0, host := w'.host })) ∧
    (hostAnswers s.w = true → exec .d3hotEntry s = .next { s with w := { s.w with host := { s.w.host with d3hot := true } } }))

/-- R388, R389, R396, R502: the state of an edge port. -/
def Obligations.PortsTrainAndFail : Prop :=
  ∀ (s : State) (p : PortIx),
    (∀ good, portState s.w p = 1 → canTrain s.w p = true →
      let l := lanesOf (good &&& ~~~(portOf s.w p).failed)
      (8 ≤ l.length → Yields (.portTrain p good) s (fun w' =>
        portState w' p = 2 ∧ rdF w' (Reg.portStatus p.val) 21 16 = widthFor l.length ∧ (widthFor l.length = 8 ∨ widthFor l.length = 16 ∨ widthFor l.length = 32) ∧
        widthFor l.length ≤ l.length ∧ (∀ i, i < 34 → (rdB64 w' (Reg.laneMap p.val) i = true ↔ i ∈ l.take (widthFor l.length))) ∧
        rdF w' (Reg.portStatus p.val) 1 0 = l.length - 32 ∧ (portOf w' p).reset = none ∧ (portOf w' p).failed = (portOf s.w p).failed ∧
        (∀ q, q ≠ p → portOf w' q = portOf s.w q) ∧ w'.mem = s.w.mem)) ∧
      (l.length < 8 → Yields (.portTrain p good) s (fun w' =>
        portState w' p = 0 ∧ rdB w' (Reg.portErr p.val) 1 = true ∧ (portOf w' p).nextTrain = s.w.dev.time + 100000000 ∧
        (portOf w' p).reset = none ∧ (∀ q, q ≠ p → portOf w' q = portOf s.w q) ∧ w'.mem = s.w.mem))) ∧
    (∀ good, portState s.w p ≠ 1 ∨ canTrain s.w p = false → exec (.portTrain p good) s = .next s) ∧
    (portState s.w p = 0 → 0 < (portOf s.w p).nextTrain → (portOf s.w p).nextTrain ≤ s.w.dev.time → canTrain s.w p = true →
      Yields (.portTrainRetry p) s (fun w' => portState w' p = 1 ∧ (portOf w' p).nextTrain = 0 ∧ w'.mem = s.w.mem)) ∧
    (portState s.w p ≠ 0 ∨ (portOf s.w p).nextTrain = 0 ∨ s.w.dev.time < (portOf s.w p).nextTrain ∨ canTrain s.w p = false →
      exec (.portTrainRetry p) s = .next s) ∧
    (∀ lane : Fin 34, portUp s.w p = true → rdB64 s.w (Reg.laneMap p.val) lane.val = true → (portOf s.w p).reset = none → portIsolated s.w p = false →
      Yields (.laneFail p lane) s (fun w' => portState w' p = 3 ∧ (portOf w' p).failed.getLsbD lane.val = true ∧ rdB w' (Reg.portErr p.val) 2 = true ∧
        (∃ r, (portOf w' p).reset = some r ∧ r.cause = 1 ∧ r.started = s.w.dev.time) ∧ (portOf w' p).replay = (portOf s.w p).replay ∧ w'.mem = s.w.mem)) ∧
    (∀ lane : Fin 34, portUp s.w p = false ∨ rdB64 s.w (Reg.laneMap p.val) lane.val = false → exec (.laneFail p lane) s = .next s) ∧
    (∀ m r, (portOf s.w p).replay = m :: r → portUp s.w p = true → m.sentAt + 2000 ≤ s.w.dev.time →
      (m.replays < 4 → Yields (.replayTimeout p) s (fun w' =>
        (portOf w' p).replay = (m :: r).map (fun x => { x with replays := x.replays + 1, sentAt := s.w.dev.time }) ∧
        rd w' (Reg.replays p.val) = satAdd32 (rd s.w (Reg.replays p.val)) 1 ∧ (∀ q, q ≠ p → portOf w' q = portOf s.w q) ∧ w'.mem = s.w.mem)) ∧
      (4 ≤ m.replays → (portOf s.w p).reset = none → portIsolated s.w p = false → Yields (.replayTimeout p) s (fun w' =>
        portState w' p = 3 ∧ rdB w' (Reg.portErr p.val) 3 = true ∧ (∃ r, (portOf w' p).reset = some r ∧ r.cause = 2) ∧
        (portOf w' p).replay = (portOf s.w p).replay ∧ w'.mem = s.w.mem))) ∧
    ((portOf s.w p).replay = [] ∨ portUp s.w p = false ∨ (∀ m ∈ (portOf s.w p).replay.head?, s.w.dev.time < m.sentAt + 2000) →
      exec (.replayTimeout p) s = .next s)

/-- R392, R394 to R397: flits that arrive. -/
def Obligations.FlitsAreTakenInOrder : Prop :=
  ∀ (s : State) (p : PortIx),
    (portUp s.w p = false → (∀ f, exec (.controlFlitReceive p f) s = .next s) ∧ ∀ b, exec (.dataFlitReceive p b) s = .next s) ∧
    (portUp s.w p = true →
      (∀ f : ControlFlit,
        (crc32 f.body ≠ f.crc.toNat → Yields (.controlFlitReceive p f) s (fun w' =>
          rd w' (Reg.crcErrors p.val) = satAdd32 (rd s.w (Reg.crcErrors p.val)) 1 ∧ rdB w' (Reg.portErr p.val) 4 = true ∧
          portOf w' p = { portOf s.w p with resync := true, nakOut := true, dataDue := 0 } ∧ w' = { s.w with bar0 := w'.bar0, ports := w'.ports })) ∧
        (crc32 f.body = f.crc.toNat → f.sequenced = true → f.seq ≠ (portOf s.w p).seqRx → Yields (.controlFlitReceive p f) s (fun w' =>
          portOf w' p = { portOf s.w p with resync := true, nakOut := true, dataDue := 0 } ∧ w' = { s.w with ports := w'.ports })) ∧
        (crc32 f.body = f.crc.toNat → (f.sequenced = true → f.seq = (portOf s.w p).seqRx) → f.nak = false → Yields (.controlFlitReceive p f) s (fun w' =>
          (portOf w' p).replay = ackReplay f.ack (portOf s.w p).replay ∧ (portOf w' p).freedTx = f.freed ∧ (portOf w' p).resync = false ∧
          (f.sequenced = true → (portOf w' p).seqRx = (portOf s.w p).seqRx + 1 ∧ (portOf w' p).ackOut = f.seq ∧ (portOf w' p).dataDue = f.dataCount) ∧
          (f.sequenced = false → (portOf w' p).seqRx = (portOf s.w p).seqRx ∧ (portOf w' p).dataDue = 0) ∧ w' = { s.w with ports := w'.ports })) ∧
        (crc32 f.body = f.crc.toNat → (f.sequenced = true → f.seq = (portOf s.w p).seqRx) → f.nak = true →
          (∀ m ∈ (ackReplay f.ack (portOf s.w p).replay).head?, m.replays < 4) → Yields (.controlFlitReceive p f) s (fun w' =>
          (portOf w' p).replay = (ackReplay f.ack (portOf s.w p).replay).map (fun x => { x with replays := x.replays + 1, sentAt := s.w.dev.time })))) ∧
      (∀ b : Bool,
        ((portOf s.w p).dataDue = 0 → Yields (.dataFlitReceive p b) s (fun w' => w'.ports = s.w.ports ∧ w'.mem = s.w.mem ∧
          rd w' (Reg.rxDataFlits p.val) = rd s.w (Reg.rxDataFlits p.val) ∧
          rd w' (Reg.fecUcw p.val) = if b then satAdd32 (rd s.w (Reg.fecUcw p.val)) 1 else rd s.w (Reg.fecUcw p.val))) ∧
        (0 < (portOf s.w p).dataDue → (portOf s.w p).rxHeld < 2048 → Yields (.dataFlitReceive p b) s (fun w' =>
          (portOf w' p).dataDue = (portOf s.w p).dataDue - 1 ∧ (portOf w' p).rxHeld = (portOf s.w p).rxHeld + 1 ∧
          (portOf w' p).tainted = ((portOf s.w p).tainted || b) ∧ rd w' (Reg.rxDataFlits p.val) = satAdd32 (rd s.w (Reg.rxDataFlits p.val)) 1 ∧
          rd w' (Reg.rxDrops p.val) = rd s.w (Reg.rxDrops p.val) ∧ (b = true → rdB w' (Reg.portErr p.val) 5 = true) ∧ w'.mem = s.w.mem)) ∧
        (0 < (portOf s.w p).dataDue → 2048 ≤ (portOf s.w p).rxHeld → Yields (.dataFlitReceive p b) s (fun w' =>
          (portOf w' p).dataDue = (portOf s.w p).dataDue - 1 ∧ (portOf w' p).rxHeld = (portOf s.w p).rxHeld ∧ (portOf w' p).overrun = true ∧
          rdB w' (Reg.portErr p.val) 0 = true ∧
          rd w' (Reg.rxDrops p.val) = (if (portOf s.w p).overrun then rd s.w (Reg.rxDrops p.val) else satAdd32 (rd s.w (Reg.rxDrops p.val)) 1) ∧
          w'.mem = s.w.mem))))

/-- R397, R400, R402, R403, R483, R489: transfers that arrive. -/
def Obligations.TransfersActOrAreDropped : Prop :=
  (∀ (s : State) (p : PortIx) (x : Transfer) (st : BitVec 4) (q : BitVec 32) (d : List Byte), portUp s.w p = false →
    exec (.farWrite p x) s = .next s ∧ exec (.windowWrite p x) s = .next s ∧ exec (.windowWriteWithSignal p x) s = .next s ∧
    exec (.windowRead p x) s = .next s ∧ exec (.reply p st q d) s = .next s) ∧
  (∀ (s : State) (p : PortIx) (x : Transfer), inHold s.w = true → exec (.farWrite p x) s = .next s) ∧
  (∀ (s : State) (p : PortIx) (x : Transfer), portUp s.w p = true → inHold s.w = false → (portOf s.w p).overrun = false →
    let freed (w' : W9) : Prop := (portOf w' p).rxHeld = (portOf s.w p).rxHeld - cdiv x.data.length 256 ∧
      (portOf w' p).freedRx = (portOf s.w p).freedRx + BitVec.ofNat 16 (min (cdiv x.data.length 256) (portOf s.w p).rxHeld)
    let gone (w' : W9) : Prop := rd w' (Reg.rxDrops p.val) = satAdd32 (rd s.w (Reg.rxDrops p.val)) 1 ∧ w'.mem = s.w.mem ∧ w'.routers = s.w.routers ∧
      (portOf w' p).replay = (portOf s.w p).replay ∧ freed w'
    (destOk s.w x.dest = false ∨ lengthOk x.length = false ∨ tripDrops s.w = true →
      Yields (.farWrite p x) s gone ∧ Yields (.windowWrite p x) s gone ∧ Yields (.windowWriteWithSignal p x) s gone ∧ Yields (.windowRead p x) s gone) ∧
    (destOk s.w x.dest = true → lengthOk x.length = true → tripDrops s.w = false → x.data.length = x.length →
      (x.op = 0 → fromTwin s.w p = true →
        (within (mirrorRanges s.w) x.address.toNat x.length = true → Yields (.farWrite p x) s (fun w' =>
          w'.mem = (writeFar x.address.toNat x.data s.w).mem ∧ w'.routers = s.w.routers ∧ freed w')) ∧
        (within (mirrorRanges s.w) x.address.toNat x.length = false → Yields (.farWrite p x) s gone)) ∧
      (∀ t r, codeTile (windowTile x) = some t → windowTile x ≠ 0x7FFF → ringStatus s.w t = none → ringRoute s.w t = some r →
        let u := tileAt (attachTile r.1).1 (attachTile r.1).2
        updating s.w u = false → windowAddr x % 1024 + x.length ≤ 1024 →
        let put (op : BitVec 4) (sig : Option CounterIx) (w' : W9) : Prop :=
          (∃ e, routerOf w' u = routerOf s.w u ++ [e] ∧ e.pkt.op = op ∧ e.pkt.target = tileSrc t ∧ e.pkt.payload = x.data ∧ e.pkt.signal = sig ∧
            e.pkt.address.toNat = windowAddr x ∧ e.pkt.client = clientOf s.w p ∧ hcrcOk e.pkt = true) ∧
          (∀ v, v ≠ u → routerOf w' v = routerOf s.w v) ∧ w'.mem = s.w.mem ∧ freed w'
        (x.op = 1 → Yields (.windowWrite p x) s (put opPut none)) ∧ (x.op = 2 → Yields (.windowWriteWithSignal p x) s (put opPutSignal x.signal)))) ∧
    (destOk s.w x.dest = true → lengthOk x.length = true → tripDrops s.w = false → x.op = 3 → windowTile x ≠ 0x7FFF →
      ∀ t, codeTile (windowTile x) = some t →
      let pkt : Packet := { Packet.blank with
        op := opGet, target := tileSrc t, source := srcPort p, client := clientOf s.w p
        address := BitVec.ofNat 24 (windowAddr x), length := BitVec.ofNat 16 x.length, opSeq := x.xferSeq }
      let answered (st : BitVec 4) (data : List Byte) (w' : W9) : Prop :=
        (∃ m, (portOf w' p).replay = (portOf s.w p).replay ++ [m] ∧ m.msg = .reply st x.src (deviceAddr s.w) x.xferSeq data) ∧ w'.mem = s.w.mem ∧
        w'.routers = s.w.routers
      (∀ st, ringStatus s.w t = some st → Yields (.windowRead p x) s (answered st [])) ∧
      (ringStatus s.w t = none → admits s.w t pkt .read x.length = true →
        Yields (.windowRead p x) s (answered 0 (readStore s.w t (windowAddr x) x.length))) ∧
      (ringStatus s.w t = none → admits s.w t pkt .read x.length = false →
        Yields (.windowRead p x) s (fun w' => answered 1 [] w' ∧ prd w' t Pg.rejectCount = satAdd32 (prd s.w t Pg.rejectCount) 1)))) ∧
  (∀ (s : State) (p : PortIx) (st : BitVec 4) (q : BitVec 32) (d : List Byte), portUp s.w p = true → tripDrops s.w = false → s.w.att.fetch = none →
    Yields (.reply p st q d) s (fun w' => (portOf w' p).rxHeld = (portOf s.w p).rxHeld - cdiv d.length 256 ∧ (portOf w' p).overrun = false ∧
      w' = { s.w with ports := w'.ports }))

/-- R403, R404, R405, R417: forming a pair, and heartbeats. -/
def Obligations.PairsFormByHelloAndAccept : Prop :=
  (∀ (s : State) (v : Word32),
    (cmdOpen s.w = false ∨ (pairEn s.w = true ∧ v.getLsbD 31 = true) → exec (.pairCtrlWrite v) s = .next s) ∧
    (cmdOpen s.w = true → pairEn s.w = false → v.getLsbD 31 = true → Yields (.pairCtrlWrite v) s (fun w' =>
      rd w' Reg.pairCtrl = v &&& 0xC000000F ∧ pairState w' = 1 ∧ w'.serve = s.w.serve ∧ w'.kv = s.w.kv ∧
      ((rd s.w Reg.kvPagesTotal).toNat = pagesAll s.w → (rd w' Reg.kvPagesTotal).toNat = pagesAll s.w / 2 ∧
        kvFree w' = kvFree s.w - (pagesAll s.w - pagesAll s.w / 2)))) ∧
    (cmdOpen s.w = true → pairEn s.w = true → v.getLsbD 31 = false → Yields (.pairCtrlWrite v) s (fun w' =>
      rd w' Reg.pairCtrl = v &&& 0xC000000F ∧ pairState w' = 0 ∧ w'.pair.handedTo = []))) ∧
  (∀ s : State,
    (seeking s.w = true → Yields .pairHelloSend s (fun w' => ∀ p : PortIx,
      (p ∈ twinPorts s.w → ∃ m, (portOf w' p).replay = (portOf s.w p).replay ++ [m] ∧ m.msg = .hello (ownHello s.w) ∧ m.first = s.w.dev.time) ∧
      (p ∉ twinPorts s.w → portOf w' p = portOf s.w p))) ∧
    (seeking s.w = false → exec .pairHelloSend s = .next s)) ∧
  (∀ (s : State) (p : PortIx), portUp s.w p = true → isTwinPort s.w p = true → tripDrops s.w = false →
    (seeking s.w = true →
      (∀ h, 0 < helloReason (ownHello s.w) h → Yields (.pairHello p h) s (fun w' =>
        rdF w' Reg.pairStatus 7 0 = helloReason (ownHello s.w) h ∧ pairState w' = pairState s.w ∧ w'.pair = s.w.pair ∧
        ∃ m, (portOf w' p).replay = (portOf s.w p).replay ++ [m] ∧ m.msg = .pairRefuse (BitVec.ofNat 8 (helloReason (ownHello s.w) h)))) ∧
      (∀ h, helloReason (ownHello s.w) h = 0 → Yields (.pairHello p h) s (fun w' =>
        rd w' Reg.pairPartner = h.deviceId ∧ (∃ m, (portOf w' p).replay = (portOf s.w p).replay ++ [m] ∧ m.msg = .pairAccept) ∧
        (s.w.pair.rcvAccept = true → paired w' = true ∧ w'.pair.sentAccept = false ∧ w'.pair.rcvAccept = false ∧ w'.pair.lastHb = s.w.dev.time) ∧
        (s.w.pair.rcvAccept = false → pairState w' = pairState s.w ∧ w'.pair.sentAccept = true))) ∧
      Yields (.pairAccept p) s (fun w' => (s.w.pair.sentAccept = true → paired w' = true ∧ w'.pair.alignDue = sideB s.w) ∧
        (s.w.pair.sentAccept = false → w'.pair.rcvAccept = true ∧ pairState w' = pairState s.w ∧ w'.bar0 = s.w.bar0)) ∧
      (∀ reason, Yields (.pairRefuse p reason) s (fun w' => rdF w' Reg.pairStatus 7 0 = reason.toNat ∧ w'.pair.rcvAccept = false ∧
        pairState w' = pairState s.w))) ∧
    (seeking s.w = false → exec (.pairAccept p) s = .next s ∧ (∀ reason, exec (.pairRefuse p reason) s = .next s) ∧
      ((booted s.w && waitsForTwin s.w) = false → ∀ h, exec (.pairHello p h) s = .next s)) ∧
    (∀ h : Heartbeat,
      (paired s.w = true → Yields (.heartbeat p h) s (fun w' => w'.pair.lastHb = s.w.dev.time ∧ w'.pair.lastEcho = (h.txTime, s.w.dev.time) ∧
        rd64 w' Reg.pairOffset = (signedBits 64 ((((h.echoRx : Int) - h.echoTime) + ((h.txTime : Int) - s.w.dev.time)).fdiv 2)).toNat ∧
        w'.ports = s.w.ports ∧ w'.serve = s.w.serve)) ∧
      (paired s.w = false → exec (.heartbeat p h) s = .next s))) ∧
  (∀ (s : State) (p : PortIx) (h : Hello) (b : Heartbeat) (reason : BitVec 8), portUp s.w p = false ∨ isTwinPort s.w p = false →
    exec (.pairHello p h) s = .next s ∧ exec (.pairAccept p) s = .next s ∧ exec (.pairRefuse p reason) s = .next s ∧ exec (.heartbeat p b) s = .next s) ∧
  (∀ s : State,
    (booted s.w = true → paired s.w = true → tripDrops s.w = false → Yields .heartbeatSend s (fun w' =>
      (∀ p : PortIx, (p ∈ twinPorts s.w → ∃ m, (portOf w' p).replay = (portOf s.w p).replay ++ [m] ∧
          m.msg = .heartbeat ⟨true, BitVec.ofNat 32 (pairBeat s.w), s.w.dev.time, s.w.pair.lastEcho.1, s.w.pair.lastEcho.2⟩) ∧
        (p ∉ twinPorts s.w → portOf w' p = portOf s.w p)) ∧
      rd w' Reg.hbLate = if s.w.pair.lastHb + 5000 ≤ s.w.dev.time then satAdd32 (rd s.w Reg.hbLate) 1 else rd s.w Reg.hbLate)) ∧
    (booted s.w = false ∨ paired s.w = false ∨ tripDrops s.w = true → exec .heartbeatSend s = .next s))

/-- R407, R418 to R421: failover. What a PAIRED W9 does at CLAIM is the model's choice (log entry 49). -/
def Obligations.SurvivorsClaimAndAdopt : Prop :=
  (∀ (s : State) (p : PortIx) (cause : Fin 5),
    let taken (w' : W9) : Prop := pairState w' = 3 ∧ w'.pair.claimed = true ∧ w'.pair.failedAt = s.w.dev.time ∧ w'.pair.shadows = [] ∧
      w'.pair.handedTo = [] ∧ rd w' Reg.adopted = satAdd32 (rd s.w Reg.adopted) s.w.pair.shadows.length ∧
      (∀ q ∈ twinPorts s.w, ∃ m ∈ (portOf w' q).replay, m.msg = .claim) ∧
      (∀ x ∈ s.w.pair.shadows, ¬((streamOf s.w x).handedOff = true ∧ (streamOf s.w x).state = .ending) →
        (∀ e ∈ s.w.pair.setups, ∀ q, e.2 = some q → slotOf q.req ≠ x) →
        (streamOf w' x).shadow = false ∧ (streamOf w' x).state = (streamOf s.w x).state ∧ (streamOf w' x).reserved = true ∧
        (streamOf w' x).cplRing = some (Fin.ofNat 16 (rdF s.w Reg.pairCtrl 3 0)))
    (paired s.w = true → s.w.pair.lastHb + 15000 ≤ s.w.dev.time → Yields (.partnerSilence false) s taken) ∧
    (paired s.w = true → unacknowledged s.w = true → Yields (.partnerSilence true) s taken) ∧
    (paired s.w = false ∨ s.w.dev.time < s.w.pair.lastHb + 15000 → exec (.partnerSilence false) s = .next s) ∧
    (paired s.w = false ∨ unacknowledged s.w = false → exec (.partnerSilence true) s = .next s) ∧
    (portUp s.w p = true → isTwinPort s.w p = true → tripDrops s.w = false →
      (paired s.w = true → Yields (.failing p cause) s taken ∧
        Yields (.claim p) s (fun w' => pairState w' = 1 ∧ w'.pair.shadows = [])) ∧
      (paired s.w = false → exec (.failing p cause) s = .next s ∧ exec (.claim p) s = .next s)) ∧
    (portUp s.w p = false ∨ isTwinPort s.w p = false → exec (.failing p cause) s = .next s ∧ exec (.claim p) s = .next s)) ∧
  (∀ s : State, (s.w.pair.claimed = true → Yields .shadowBacklogHandover s (fun w' => w'.pair.backlog = [])) ∧
    (s.w.pair.claimed = false → exec .shadowBacklogHandover s = .next s)) ∧
  (∀ (s : State) (x : StreamIx),
    (pairState s.w = 3 → s.w.pair.claimed = true → x ∈ partnerSlots s.w → (streamOf s.w x).state = .free →
      (adoptable s.w x = true → Yields (.mirrorAdopt x) s (fun w' =>
        rd w' Reg.adopted = satAdd32 (rd s.w Reg.adopted) 1 ∧
        ((streamOf w' x).state = .prefill ∨ (streamOf w' x).state = .decode ∨ (streamOf w' x).state = .parked) ∧
        (streamOf w' x).cls = (recordStream s.w x).cls ∧ (streamOf w' x).reqTag = (recordStream s.w x).reqTag ∧
        (streamOf w' x).generated = (recordStream s.w x).generated ∧ (streamOf w' x).reserved = true ∧
        (∀ y, y ≠ x → streamOf w' y = streamOf s.w y))) ∧
      (adoptable s.w x = false → (recordStream s.w x).state = .ending → ((recordStream s.w x).cls = 1 ∨ (recordStream s.w x).cls = 2) →
        Yields (.mirrorAdopt x) s (fun w' => (streamOf w' x).state = .ending ∧ (streamOf w' x).endStatus = (recordStream s.w x).endStatus ∧
          (streamOf w' x).reserved = true ∧ (∀ y, y ≠ x → streamOf w' y = streamOf s.w y))) ∧
      (adoptable s.w x = false → (recordStream s.w x).state ≠ .ending → exec (.mirrorAdopt x) s = .next s)) ∧
    (pairState s.w ≠ 3 ∨ s.w.pair.claimed = false ∨ x ∉ partnerSlots s.w ∨ (streamOf s.w x).state ≠ .free → exec (.mirrorAdopt x) s = .next s))

/-- R408, R414, R422: COMMIT, HANDOFF and ENDED. -/
def Obligations.CommitsAreComparedAndHandedOver : Prop :=
  (∀ (s : State) (p : PortIx) (x : StreamIx) (pos : Nat) (c : CommitMsg), portUp s.w p = true → isTwinPort s.w p = true → tripDrops s.w = false →
    (paired s.w = false → exec (.commit p c) s = .next s ∧ exec (.handoff p x pos) s = .next s ∧ exec (.ended p x) s = .next s) ∧
    (paired s.w = true →
      (s.w.pair.shadows.contains c.stream = false → ownSlot s.w c.stream = true → (streamOf s.w c.stream).shadow = false →
        exec (.commit p c) s = .next s) ∧
      (s.w.pair.shadows.contains c.stream = false → ownSlot s.w c.stream = false → Yields (.commit p c) s (fun w' =>
        w'.pair = s.w.pair ∧ w'.serve = s.w.serve ∧ w'.bar0 = s.w.bar0 ∧ w'.mem.store = s.w.mem.store)) ∧
      (s.w.pair.shadows.contains c.stream = true → (streamOf s.w c.stream).handedOff = false →
        (s.w.pair.own.find? (fun a => a.stream == c.stream) = none → Yields (.commit p c) s (fun w' =>
          w'.pair.theirs = s.w.pair.theirs ++ [⟨c.stream, c.position, c.tokens, s.w.dev.time, 0⟩] ∧
          w' = { s.w with pair := { s.w.pair with theirs := w'.pair.theirs } })) ∧
        (∀ a, s.w.pair.own.find? (fun a => a.stream == c.stream) = some a → a.position = c.position →
          s.w.pair.theirs.find? (fun b => b.stream == c.stream && b.position == a.position) = none →
          (a.tokens = c.tokens → Yields (.commit p c) s (fun w' =>
            rd w' Reg.tokenMismatch = rd s.w Reg.tokenMismatch ∧
            (w'.pair.backlog.any (fun b => b.stream == c.stream && b.position == c.position)) = false ∧
            ((streamOf s.w c.stream).state ≠ .ending → w'.pair.own = s.w.pair.own.erase a ∧ w'.serve = s.w.serve ∧ w'.pair.shadows = s.w.pair.shadows))) ∧
          (a.tokens ≠ c.tokens → Yields (.commit p c) s (fun w' =>
            rd w' Reg.tokenMismatch = satAdd32 (rd s.w Reg.tokenMismatch) 1 ∧ streamOf w' c.stream = Stream.init ∧
            w'.pair.shadows.contains c.stream = false ∧ smGet (fun _ => none) w'.pair.shadowPhases c.stream.val = (streamOf s.w c.stream).phase)))) ∧
      (s.w.pair.shadows.contains x = true → Yields (.handoff p x pos) s (fun w' =>
        w'.pair.shadows.contains x = false ∧ ((streamOf s.w x).state ≠ .ending → w'.pair.handedTo = s.w.pair.handedTo ++ [x]) ∧
        (w'.pair.backlog.any (fun b => b.stream == x)) = false ∧ (streamOf w' x).shadow = false ∧ (streamOf w' x).handedOff = false)) ∧
      (s.w.pair.shadows.contains x = false → (streamOf s.w x).handedOff = true → ownSlot s.w x = true → Yields (.handoff p x pos) s (fun w' =>
        (streamOf w' x).handedOff = false ∧ (streamOf w' x).state = .decode ∧ (∀ y, y ≠ x → streamOf w' y = streamOf s.w y))) ∧
      Yields (.ended p x) s (fun w' => smGet (fun _ => none) w'.pair.shadowPhases x.val = none ∧ w'.pair.shadows.contains x = false ∧
        (s.w.pair.shadows.contains x = true ∨ (streamOf s.w x).handedOff = true → streamOf w' x = Stream.init) ∧
        (s.w.pair.shadows.contains x = false → (streamOf s.w x).handedOff = false → w'.serve = s.w.serve ∧ w'.kv = s.w.kv) ∧
        (∀ y, y ≠ x → streamOf w' y = streamOf s.w y)))) ∧
  (∀ (s : State) (x : StreamIx),
    (s.w.pair.own.find? (fun c => c.stream == x) = none ∨ paired s.w = false → exec (.commitTimeout x) s = .next s) ∧
    (∀ c, s.w.pair.own.find? (fun c => c.stream == x) = some c → paired s.w = true →
      (c.time + bTbt s.w ≤ s.w.dev.time → Yields (.commitTimeout x) s (fun w' => rd w' Reg.tokenMismatch = satAdd32 (rd s.w Reg.tokenMismatch) 1 ∧
        (s.w.pair.shadows.contains x = true → streamOf w' x = Stream.init) ∧
        (s.w.pair.shadows.contains x = false → streamOf w' x = { streamOf s.w x with shadow := false }) ∧
        (w'.pair.own.any (fun c => c.stream == x)) = false)) ∧
      (s.w.dev.time < c.time + bTbt s.w → exec (.commitTimeout x) s = .next s)))

/-- R407, R411 to R413: setting a shadow up. -/
def Obligations.ShadowsAreSetUpByRequestAndAnswer : Prop :=
  ∀ (s : State) (p : PortIx) (x : StreamIx), portUp s.w p = true → isTwinPort s.w p = true → tripDrops s.w = false →
    (paired s.w = false → (∀ k b, exec (.shadowReq p x k b) s = .next s) ∧ (∀ b, exec (.shadowAck p x b) s = .next s) ∧
      (∀ r, exec (.shadowNak p r x) s = .next s) ∧ exec (.ready p x) s = .next s ∧ ∀ b, exec (.shadowStepStart p x b) s = .next s) ∧
    (paired s.w = true →
      (∀ phase b, ownSlot s.w x = true → exec (.shadowReq p x phase b) s = .next s) ∧
      (∀ phase b, ownSlot s.w x = false →
        let t := fromPartner (recordStream s.w x) s.w
        (0 < shadowReason x phase t s.w → Yields (.shadowReq p x phase b) s (fun w' => w'.serve = s.w.serve ∧ w'.kv = s.w.kv ∧
          w'.pair.shadows = s.w.pair.shadows ∧ ∀ q ∈ (twinPorts s.w).head?, ∃ m, (portOf w' q).replay = (portOf s.w q).replay ++ [m] ∧
            m.msg = .shadowNak (BitVec.ofNat 8 (shadowReason x phase t s.w)) x)) ∧
        (shadowReason x phase t s.w = 0 → Yields (.shadowReq p x phase b) s (fun w' => w'.pair.shadows = s.w.pair.shadows ++ [x] ∧
          (streamOf w' x).shadow = true ∧ (streamOf w' x).phase = some phase ∧ (streamOf w' x).spec = false ∧ (streamOf w' x).lookup = false ∧
          (streamOf w' x).reqTag = (recordStream s.w x).reqTag ∧ (streamOf w' x).promptLen = (recordStream s.w x).promptLen ∧
          w'.serve.queue = s.w.serve.queue ++ prefillChunks s.w x 0 ((recordStream s.w x).promptLen - 1) ∧
          (∀ q ∈ (twinPorts s.w).head?, ∃ m ∈ (portOf w' q).replay, ∃ k, m.msg = .shadowAck x k) ∧ (∀ y, y ≠ x → streamOf w' y = streamOf s.w y)))) ∧
      (setupOf s.w x = none → (∀ b, exec (.shadowAck p x b) s = .next s) ∧ ∀ r, exec (.shadowNak p r x) s = .next s) ∧
      (∀ u, setupOf s.w x = some u → slotOf u.req = x → u.req.cls = 0 →
        (∀ b, u.req.limitFirst < max u.bTtft b → Yields (.shadowAck p x b) s (fun w' => (streamOf w' x).state = .free ∧ setupOf w' x = none ∧
          ∃ c, smGet (fun _ => []) w'.host.cplWait u.req.ring.val = smGet (fun _ => []) s.w.host.cplWait u.req.ring.val ++ [c] ∧ c.status = 0x16 ∧
            c.tag = u.req.tag)) ∧
        (∀ b, max u.bTtft b ≤ u.req.limitFirst → (streamOf s.w x).cancelAsked = false → Yields (.shadowAck p x b) s (fun w' =>
          (streamOf w' x).shadow = true ∧ (streamOf w' x).phase = some u.phase ∧ setupOf w' x = none ∧
          (streamOf w' x).deadlineFirst = u.req.arrival + max u.bTtft b ∧ (streamOf w' x).deadlineStep = bTbt s.w ∧
          w'.serve.queue = s.w.serve.queue ++ prefillChunks s.w x 0 (u.req.promptLen - 1))) ∧
        (∀ r, ¬(r = 1 ∧ sideB s.w = true ∧ u.retried = false) → Yields (.shadowNak p r x) s (fun w' => (streamOf w' x).state = .free ∧ setupOf w' x = none ∧
          ∃ c, smGet (fun _ => []) w'.host.cplWait u.req.ring.val = smGet (fun _ => []) s.w.host.cplWait u.req.ring.val ++ [c] ∧
            c.status = nakStatus r.toNat))) ∧
      ((streamOf s.w x).shadow = false ∨ s.w.pair.twinReady.contains x = true → exec (.ready p x) s = .next s) ∧
      ((streamOf s.w x).shadow = true → s.w.pair.twinReady.contains x = false → Yields (.ready p x) s (fun w' =>
        w'.pair.twinReady = s.w.pair.twinReady ++ [x] ∧ w'.serve = s.w.serve ∧
        (s.w.pair.ownReady.contains x = false → w'.pair.starts = s.w.pair.starts) ∧
        (∀ k, s.w.pair.ownReady.contains x = true → s.w.pair.shadows.contains x = false → (streamOf s.w x).phase = some k → k ≤ stagesN s.w →
          smGet (fun _ => none) s.w.pair.starts x.val = none →
          ∃ b, smGet (fun _ => none) w'.pair.starts x.val = some b ∧ pairBeat s.w + tLead s.w ≤ b ∧
            b < pairBeat s.w + tLead s.w + (stagesN s.w + 1) ∧ b % (stagesN s.w + 1) = k))) ∧
      (∀ b, (s.w.pair.shadows.contains x = true → Yields (.shadowStepStart p x b) s (fun w' => smGet (fun _ => none) w'.pair.starts x.val = some b ∧
          w' = { s.w with pair := { s.w.pair with starts := w'.pair.starts } })) ∧
        (s.w.pair.shadows.contains x = false → exec (.shadowStepStart p x b) s = .next s)))

/-- R305, R408, R409: mirroring and the Mule's messages. -/
def Obligations.MirrorsFollowBlocksAndChunks : Prop :=
  (∀ (s : State) (p : PortIx) (x : StreamIx) (f : FarLayout), portUp s.w p = true → isTwinPort s.w p = true → tripDrops s.w = false → farOf s.w = some f →
    (paired s.w = false ∨ ownSlot s.w x = true → (∀ b ls st, exec (.block p x b ls st) s = .next s) ∧ ∀ c a z, exec (.chunkDone p x c a z) s = .next s) ∧
    (paired s.w = true → ownSlot s.w x = false →
      (∀ b ls st, b < 8192 → Yields (.block p x b ls st) s (fun w' => w' = { s.w with
        mem := (writeFar (dirBase f x + 32 * b) (le 8 ls.toNat ++ le 8 s.w.dev.time ++ [0xFF, 0xFF, 0xFF, 0xFF, st, if kv8On s.w then 2 else 0] ++
          List.replicate 10 0) s.w).mem })) ∧
      (∀ c l, c < 32768 → s.w.pair.tainted.contains (x, (2 : BitVec 8)) = true → Yields (.chunkDone p x c l l) s (fun w' =>
        rd w' Reg.mirrorLost = satAdd32 (rd s.w Reg.mirrorLost) 1 ∧ w'.mem = s.w.mem ∧ w'.pair.tainted.contains (x, (2 : BitVec 8)) = false)) ∧
      (∀ c l, c < 32768 → s.w.pair.tainted.contains (x, (2 : BitVec 8)) = false →
        let vec := ofLe (farBytes s.w (dirBase f x + 32 * (c / 4)) 8)
        (vec = 0 ∨ kvIndex s.w l = none → exec (.chunkDone p x c l l) s = .next s) ∧
        (∀ i, 0 < vec → kvIndex s.w l = some i → Yields (.chunkDone p x c l l) s (fun w' => w' = { s.w with
          mem := (writeFar (vec + 16 * i) [((farBytes s.w (vec + 16 * i) 1).headD 0) ||| BitVec.ofNat 8 (2 ^ (c % 4))] s.w).mem }))))) ∧
  (∀ s : State, (s.w.pair.mirrorQueue = [] ∨ paired s.w = false → exec .mirrorSend s = .next s) ∧
    (∀ x l c r, s.w.pair.mirrorQueue = (x, l, c) :: r → paired s.w = true → Yields .mirrorSend s (fun w' => w'.pair.mirrorQueue = r ∧
      rd w' Reg.mirrorChunks = satAdd32 (rd s.w Reg.mirrorChunks) 1 ∧ w'.mem = s.w.mem ∧ w'.serve = s.w.serve ∧ w'.kv = s.w.kv ∧
      ∀ q ∈ (twinPorts s.w).head?, ∃ k m, (portOf w' q).replay = (portOf s.w q).replay ++ k ++ [m] ∧ m.msg = .chunkDone x c l.val l.val))) ∧
  (∀ (s : State) (p : PortIx) (n : Nat) (l : LayerIx) (dest src : BitVec 16), portUp s.w p = true → tripDrops s.w = false →
    (muleRole s.w ≠ 1 ∨ destOk s.w dest = false → exec (.muleResend p n l dest src) s = .next s) ∧
    (∀ o e, muleRole s.w = 1 → destOk s.w dest = true → s.w.wt.load = some o → o.header.manifest.find? (fun e => e.layer == l.val) = some e →
      Yields (.muleResend p n l dest src) s (fun w' => (portOf w' p).replay.length = (portOf s.w p).replay.length + cdiv e.length 1024 ∧
        w'.mem = s.w.mem ∧ w'.wt = s.w.wt ∧ (∀ q, q ≠ p → portOf w' q = portOf s.w q))) ∧
    (∀ o, s.w.wt.load = some o → o.receive = true → destOk s.w dest = true → loadState s.w = 1 → muleRole s.w ≠ 1 → Yields (.muleFail p dest src) s (fun w' =>
      loadState w' = 4 ∧ rdF w' Reg.loadStatus 15 8 = 6 ∧ w'.wt.load = none ∧ w'.mem = s.w.mem)) ∧
    (s.w.wt.load = none ∨ (∀ o ∈ s.w.wt.load, o.receive = false) ∨ destOk s.w dest = false ∨ loadState s.w ≠ 1 →
      exec (.muleFail p dest src) s = .next s))

/-- R143, R352, R406, R415, R416, R561: format changes, stretches and freezes of a pair. -/
def Obligations.FormatChangesAndPacesAreAgreedByThePair : Prop :=
  ∀ (s : State) (p : PortIx), portUp s.w p = true → isTwinPort s.w p = true → tripDrops s.w = false →
    (paired s.w = false → (∀ l f k, exec (.escReq p l f k) s = .next s) ∧ (∀ l f b, exec (.escCommit p l f b) s = .next s) ∧
      (∀ b, exec (.escClear p b) s = .next s) ∧ (∀ c b, exec (.stretch p c b) s = .next s) ∧ exec (.freeze p) s = .next s ∧
      ∀ t, exec (.resumeMessage p t) s = .next s) ∧
    (paired s.w = true →
      (∀ l f k, sideB s.w = true ∨ (policyLayers s.w).find? (fun m => m.layer == l) = none → exec (.escReq p l f k) s = .next s) ∧
      (∀ l f m, sideB s.w = false → (policyLayers s.w).find? (fun m => m.layer == l) = some m →
        let new := fun n => s.w.prec.waiting.filter (fun x => !(x.1 == l)) ++ [(l, n)]
        Yields (.escReq p l f 2) s (fun w' => w' = { s.w with prec := w'.prec } ∧
          layerOf w' l = { layerOf s.w l with partnerDown := false } ∧ w'.prec.waiting = s.w.prec.waiting ∧ w'.prec.change = s.w.prec.change) ∧
        (∀ k, k ≠ 2 → rungOf m f = none → exec (.escReq p l f k) s = .next s) ∧
        (∀ n, rungOf m f = some n → changePending s.w = true ∨ s.w.pair.escClear = false →
          exec (.escReq p l f 0) s = .next { s with w := { s.w with prec := { s.w.prec with waiting := new n } } }) ∧
        (∀ n, rungOf m f = some n → changePending s.w = false → s.w.pair.escClear = true → Yields (.escReq p l f 0) s (fun w' =>
          w'.prec.change = some ⟨pairBeat s.w + tLead s.w, true, new n, false⟩ ∧ w'.prec.waiting = [] ∧ w'.pair.escClear = false ∧
          rdB w' Reg.precStatus 2 = true ∧ w'.prec.layers = s.w.prec.layers ∧ w'.serve = s.w.serve)) ∧
        (∀ n, rungOf m f = some n → (layerOf s.w l).decided ≠ some .down → Yields (.escReq p l f 1) s (fun w' => w' = { s.w with prec := w'.prec } ∧
          layerOf w' l = { layerOf s.w l with partnerDown := true } ∧ w'.prec.waiting = s.w.prec.waiting ∧ w'.prec.change = s.w.prec.change))) ∧
      (∀ l f b, sideB s.w = false → exec (.escCommit p l f b) s = .next s) ∧
      (∀ l f b m n, sideB s.w = true → pairBeat s.w < b → (policyLayers s.w).find? (fun m => m.layer == l) = some m → rungOf m f = some n →
        Yields (.escCommit p l f b) s (fun w' => rdB w' Reg.precStatus 2 = true ∧ w'.serve = s.w.serve ∧ w'.prec.waiting = s.w.prec.waiting ∧
          w'.prec.change = some ⟨b, true, (match s.w.prec.change with
            | some c => if c.boundary = b ∧ c.flipped = false then c.layers ++ [(l, n)] else [(l, n)]
            | none => [(l, n)]), false⟩)) ∧
      (∀ b, sideB s.w = true → exec (.escClear p b) s = .next s) ∧
      (∀ b, sideB s.w = false → s.w.prec.waiting = [] →
        exec (.escClear p b) s = .next { s with w := { s.w with pair := { s.w.pair with escClear := true } } }) ∧
      (∀ c b, Yields (.stretch p c b) s (fun w' => w' = { s.w with env := { s.w.env with stretch := w'.env.stretch }, pair := w'.pair } ∧
        w'.pair.partnerNext = some (c, b) ∧
        (∀ e, s.w.pair.partnerNext = some e → e.2 ≤ pairBeat s.w → w'.pair.partnerStretch = e.1))) ∧
      (rdB s.w Reg.dbgStatus 30 = true → exec (.freeze p) s = .next s) ∧
      (rdB s.w Reg.dbgStatus 30 = false → exec (.freeze p) s =
        .next { s with w := { s.w with dbg := { s.w.dbg with freezeDue := true, freezeTwin := !s.w.dbg.freezeDue } } }) ∧
      (∀ t, rdB s.w Reg.dbgStatus 30 = false → exec (.resumeMessage p t) s = .next s) ∧
      (∀ t, rdB s.w Reg.dbgStatus 30 = true → s.w.dev.time < ownTime s.w t →
        exec (.resumeMessage p t) s = .next { s with w := { s.w with dbg := { s.w.dbg with resumeAt := some (ownTime s.w t) } } }))

/-- R254, R273, R431, R432: beats of an idle W9, and windows. -/
def Obligations.IdleBeatsAndWindowsPass : Prop :=
  (∀ (s : State) (b : BoundaryIn),
    (boundaryFalls s.w = false → exec (.beatBoundary b) s = .next s) ∧
    (boundaryFalls s.w = true → s.w.serve.streams = [] → (∀ x ∈ s.w.serve.pipe, x = none) → s.w.prec.samples = [] → s.w.wt.flip = none →
      paired s.w = false → (∀ g, rungNow s.w = some g → g.rotation = []) → (∀ f, (fieldState s.w f).parkOrder = false) → replaying s.w = false →
      (∀ f, runningTiles s.w f = []) → Yields (.beatBoundary b) s (fun w' =>
        rd64 w' Reg.beatCount = (rd64 s.w Reg.beatCount + 1) % 2 ^ 64 ∧ rd w' Reg.emptyBeats = satAdd32 (rd s.w Reg.emptyBeats) 1 ∧
        w'.serve.pipe = none :: s.w.serve.pipe.dropLast ∧ w'.serve.plan = s.w.serve.planNext ∧ w'.serve.planNext = none ∧
        w'.serve.streams = [] ∧ w'.tiles = s.w.tiles ∧ w'.page = s.w.page ∧
        (s.w.serve.plan = none → w'.serve.extNow = 0 ∧ w'.serve.stretchNow = 0 ∧ rd w' Reg.pipePlanMiss = satAdd32 (rd s.w Reg.pipePlanMiss) 1 ∧
          rdB w' Reg.pwrErr 3 = true) ∧
        (s.w.serve.plan ≠ none → rd w' Reg.pipePlanMiss = rd s.w Reg.pipePlanMiss) ∧
        ∀ f, fieldState w' f = if taking s.w f then { fieldState s.w f with
          beatStart := s.w.dev.time
          beatLen := beatNs s.w + w'.serve.stretchNow + w'.serve.extNow
          owing := (fieldState s.w f).owing ++ [(s.w.dev.time + (beatNs s.w + w'.serve.stretchNow + w'.serve.extNow), [])] }
        else fieldState s.w f))) ∧
  (∀ s : State,
    (imageRuns s.w = false → exec .beatStart s = .next s) ∧
    (imageRuns s.w = true → (∀ f, runningTiles s.w f = []) → (∀ e ∈ s.w.tiles, e.2.startWait = false) →
      (∀ f, (fieldState s.w f).withheld.refill = false) → Yields .beatStart s (fun w' =>
        rdB w' Reg.serveStatus 0 = true ∧ w'.serve = s.w.serve ∧ w'.tiles = s.w.tiles ∧ w'.page = s.w.page ∧
        ∀ f, (taking s.w f = true → rdB w' (Reg.routeStatus f.val) 0 = true ∧ (fieldState w' f).beatStart = s.w.dev.time ∧
            (fieldState w' f).beatLen = beatNs s.w ∧ (fieldState w' f).owing = (fieldState s.w f).owing ++ [(s.w.dev.time + beatNs s.w, [])]) ∧
          (taking s.w f = false → rd w' (Reg.routeStatus f.val) = rd s.w (Reg.routeStatus f.val) ∧
            (fieldState w' f).owing = (fieldState s.w f).owing))) ∧
    let v := s.w.serve
    (s.w.dev.time < v.winStart + v.winLenNow + 10000 → exec .windowPublish s = .next s) ∧
    (v.winStart + v.winLenNow + 10000 ≤ s.w.dev.time → Yields .windowPublish s (fun w' =>
      (∀ c, c < 3 → let x := v.wins.getD c WinCount.zero
        rd w' (Reg.winTokens c) = BitVec.ofNat 32 x.tokens ∧ rd w' (Reg.winLate c) = BitVec.ofNat 32 x.late ∧
        rd w' (Reg.winRefused c) = BitVec.ofNat 32 x.refused ∧ rd w' (Reg.winEnded c) = BitVec.ofNat 32 x.ended) ∧
      rd64 w' Reg.winStart = v.winStart % 2 ^ 64 ∧ w'.mem = s.w.mem ∧
      w'.serve = { v with
        wins := v.closed
        closed := [WinCount.zero, WinCount.zero, WinCount.zero]
        winStart := v.winStart + v.winLenNow
        winLenNow := (rd s.w Reg.winLen).toNat })))

/-- R262 to R264, R530, R541: chunks and the confirmation of steps. -/
def Obligations.ChunksRunAndStepsAreConfirmed : Prop :=
  (∀ (s : State) (i : Nat) (ok : Bool),
    (s.w.serve.groups[i]? = none → exec (.chunkStart i ok) s = .next s) ∧
    ∀ g, s.w.serve.groups[i]? = some g →
      let may := imageRuns s.w = true ∧ g.running = none ∧ groupOpen s.w g = true ∧ groupTurn s.w g = true ∧ taking s.w g.field = true ∧ ok = true
      (¬may → exec (.chunkStart i ok) s = .next s) ∧
      (may → (ranked s.w s.w.serve.queue).find? (chunkReady s.w) = none → exec (.chunkStart i ok) s = .next s) ∧
      (∀ c, may → (ranked s.w s.w.serve.queue).find? (chunkReady s.w) = some c →
        (missingBlocks s.w c.stream c.first c.count = [] → Yields (.chunkStart i ok) s (fun w' =>
          w'.serve.groups = s.w.serve.groups.set i { g with running := some (c, s.w.dev.time, epochNow s.w) } ∧
          w'.serve.queue = s.w.serve.queue.erase c ∧ w'.serve.pipe = s.w.serve.pipe ∧ w'.kv = s.w.kv ∧ w'.tiles = s.w.tiles ∧
          w'.serve.streams = s.w.serve.streams)) ∧
        ((ensureBlocks c.stream c.first c.count s.w).1 = false →
          exec (.chunkStart i ok) s = .next { s with w := (ensureBlocks c.stream c.first c.count s.w).2 }))) ∧
  (∀ (s : State) (i : Nat), (s.w.serve.groups[i]? = none → exec (.chunkEnd i) s = .next s) ∧
    ∀ g, s.w.serve.groups[i]? = some g →
      let freed := s.w.serve.groups.set i { g with running := none }
      (g.running = none → exec (.chunkEnd i) s = .next s) ∧
      ∀ c t e, g.running = some (c, t, e) →
        ((streamOf s.w c.stream).state ≠ .prefill →
          exec (.chunkEnd i) s = .next { s with w := { s.w with serve := { s.w.serve with groups := freed } } }) ∧
        ((streamOf s.w c.stream).state = .prefill → (streamOf s.w c.stream).cancelAsked = false →
          (taintKind s.w c.stream = none → c.recompute = none → (s.w.serve.queue.any (fun q => q.stream == c.stream)) = true →
            Yields (.chunkEnd i) s (fun w' => w'.serve.groups = freed ∧ w'.serve.queue = s.w.serve.queue ∧
              (streamOf w' c.stream).length = c.first + c.count ∧ (streamOf w' c.stream).state = .prefill ∧ w'.tiles = s.w.tiles ∧
              (∀ y, y ≠ c.stream → streamOf w' y = streamOf s.w y))) ∧
          (∀ k, taintKind s.w c.stream = some k → s.w.mem.farUE = [] → Yields (.chunkEnd i) s (fun w' => w'.serve.groups = freed ∧
            w'.serve.queue = c :: s.w.serve.queue ∧ w'.serve.streams = s.w.serve.streams ∧ taintKind w' c.stream = none ∧
            rd w' Reg.stepsTainted = satAdd32 (rd s.w Reg.stepsTainted) 1 ∧ w'.kv = s.w.kv)))) ∧
  (∀ (s : State) (x : StreamIx),
    (s.w.serve.handOvers.find? (fun h => h.slot.stream == x) = none → exec (.stepConfirm x) s = .next s) ∧
    ∀ h, s.w.serve.handOvers.find? (fun h => h.slot.stream == x) = some h →
      (s.w.dev.time < h.time + 1500 → exec (.stepConfirm x) s = .next s) ∧
      (h.time + 1500 ≤ s.w.dev.time → paired s.w = false → (streamOf s.w x).cancelAsked = false → (streamOf s.w x).shadow = false →
        s.w.pair.shadows.contains x = false → s.w.pair.backlog = [] →
        let left := s.w.serve.handOvers.filter (fun y => !(y.slot.stream == x))
        (∀ k, taintKind s.w x = some k → s.w.mem.farUE = [] → Yields (.stepConfirm x) s (fun w' => w'.serve.handOvers = left ∧
          w'.serve.streams = s.w.serve.streams ∧ rd w' Reg.stepsTainted = satAdd32 (rd s.w Reg.stepsTainted) 1 ∧
          w'.host.backlog = s.w.host.backlog ∧ w'.mem = s.w.mem ∧ taintKind w' x = none)) ∧
        (∀ tok, taintKind s.w x = none → s.w.flt.replay = none → h.sampled.take h.accepted = [tok] → (streamOf s.w x).cls = 2 →
          endOf (streamOf s.w x) tok = none → (smGet (fun _ => []) s.w.host.backlog x.val).length < hrRoom s.w (.token x) + 64 →
          Yields (.stepConfirm x) s (fun w' => w'.serve.handOvers = left ∧ (streamOf w' x).length = (streamOf s.w x).length + 1 ∧
            (streamOf w' x).generated = (streamOf s.w x).generated + 1 ∧ (streamOf w' x).lastDelivery = h.time ∧
            smGet (fun _ => []) w'.host.backlog x.val = smGet (fun _ => []) s.w.host.backlog x.val ++
              [⟨tok, false, false, false, (streamOf s.w x).length + 1, s.w.dev.time⟩]))))

/-- R281, R282: adapters. -/
def Obligations.AdaptersAreInstalledAndRemoved : Prop :=
  (∀ (s : State) (h : BitVec 16),
    let idsStand := fun w' => ∀ n : Fin 64, rd w' (Reg.adapterId n.val) = rd s.w (Reg.adapterId n.val) ∧ rd w' (Reg.adapterVer n.val) = rd s.w (Reg.adapterVer n.val)
    (cmdOpen s.w = false → exec (.install h) s = .next s ∧ exec (.remove h) s = .next s) ∧
    (cmdOpen s.w = true → adapterBusy s.w = true →
      Yields (.install h) s (fun w' => rdB w' Reg.adapterStatus 16 = true ∧ w'.wt = s.w.wt ∧ idsStand w' ∧ w'.mem = s.w.mem) ∧
      Yields (.remove h) s (fun w' => rdB w' Reg.adapterStatus 16 = true ∧ w'.wt = s.w.wt ∧ idsStand w' ∧ w'.mem = s.w.mem)) ∧
    (cmdOpen s.w = true → adapterBusy s.w = false →
      (s.w.mem.farUE = [] → (∀ q, farHasCE s.w q = false) →
        let v := rd s.w Reg.adapterVerArg
        let a := rd64 s.w Reg.adapterAddr
        (installFits s.w h v (farSet s.w a) = false → Yields (.install h) s (fun w' => rdF w' Reg.adapterStatus 2 0 = 4 ∧ w'.wt = s.w.wt ∧ idsStand w')) ∧
        (∀ n, installFits s.w h v (farSet s.w a) = true → adFree s.w = some n → Yields (.install h) s (fun w' =>
          w'.wt.install = some ⟨h, v, BitVec.ofNat 64 a, some n⟩ ∧ rd w' (Reg.adapterId n.val) = BitVec.ofNat 32 (h.toNat * 0x10000 + 1) ∧
          rd w' (Reg.adapterVer n.val) = v ∧ rdF w' Reg.adapterStatus 2 0 = 1 ∧ rdF w' Reg.adapterStatus 15 8 = n.val ∧
          ∀ m : Fin 64, m ≠ n → rd w' (Reg.adapterId m.val) = rd s.w (Reg.adapterId m.val))) ∧
        (installFits s.w h v (farSet s.w a) = true → adFree s.w = none → Yields (.install h) s (fun w' =>
          w'.wt.install = some ⟨h, v, BitVec.ofNat 64 a, none⟩ ∧ rdF w' Reg.adapterStatus 2 0 = 2 ∧ idsStand w'))) ∧
      (adCurrent s.w h = none → Yields (.remove h) s (fun w' => rdF w' Reg.adapterStatus 2 0 = 3 ∧ idsStand w' ∧ w'.wt = s.w.wt)) ∧
      (∀ n, adCurrent s.w h = some n → Yields (.remove h) s (fun w' => rdF w' Reg.adapterStatus 2 0 = 3 ∧ rdF w' Reg.adapterStatus 15 8 = n.val ∧
        adState w' n = (if adRef s.w n = 0 then 0 else 3) ∧ w'.wt = s.w.wt ∧
        ∀ m : Fin 64, m ≠ n → rd w' (Reg.adapterId m.val) = rd s.w (Reg.adapterId m.val))))) ∧
  (∀ s : State,
    (s.w.wt.install = none ∨ adFree s.w = none ∨ (∃ i, s.w.wt.install = some i ∧ i.slot.isSome = true) → exec .adapterSlotTaken s = .next s) ∧
    (∀ i n, s.w.wt.install = some i → i.slot = none → adFree s.w = some n → Yields .adapterSlotTaken s (fun w' =>
      w'.wt.install = some { i with slot := some n } ∧ rd w' (Reg.adapterId n.val) = BitVec.ofNat 32 (i.handle.toNat * 0x10000 + 1) ∧
      rd w' (Reg.adapterVer n.val) = i.version ∧ rdF w' Reg.adapterStatus 2 0 = 1 ∧
      ∀ m : Fin 64, m ≠ n → rd w' (Reg.adapterId m.val) = rd s.w (Reg.adapterId m.val))) ∧
    (s.w.wt.install = none ∨ (∃ i, s.w.wt.install = some i ∧ i.slot = none) → exec .adapterLoadComplete s = .next s) ∧
    (∀ i n, s.w.wt.install = some i → i.slot = some n → let ok := digestsOk s.w i.addr.toNat (farSet s.w i.addr.toNat)
      (ok = false → Yields .adapterLoadComplete s (fun w' => w'.wt.install = none ∧ rdF w' Reg.adapterStatus 2 0 = 4 ∧
        rd w' (Reg.adapterId n.val) = 0 ∧ rd w' (Reg.adapterVer n.val) = 0 ∧
        ∀ m : Fin 64, m ≠ n → rd w' (Reg.adapterId m.val) = rd s.w (Reg.adapterId m.val))) ∧
      (ok = true → Yields .adapterLoadComplete s (fun w' => w'.wt.install = none ∧ rdF w' Reg.adapterStatus 2 0 = 3 ∧
        (∀ m, adCurrent s.w i.handle = some m → m ≠ n → adState w' m = if adRef s.w m = 0 then 0 else 3) ∧
        (adCurrent s.w i.handle ≠ some n → adState w' n = 2 ∧ adHandle w' n = adHandle s.w n) ∧
        ∀ m : Fin 64, m ≠ n → adCurrent s.w i.handle ≠ some m → rd w' (Reg.adapterId m.val) = rd s.w (Reg.adapterId m.val)))))

/-- R300 to R305: loads, verifications and Mule data. -/
def Obligations.LoadsFollowTheirSetAndEnd : Prop :=
  (∀ (s : State) (bs : List Byte),
    (cmdOpen s.w = false → exec (.setLoad bs) s = .next s ∧ exec .verify s = .next s ∧ exec .abort s = .next s) ∧
    (cmdOpen s.w = true → loadBusy s.w = true →
      (let rejected := fun w' => rdB w' Reg.loadStatus 16 = true ∧ w'.wt = s.w.wt ∧ w'.mem = s.w.mem ∧ loadState w' = loadState s.w
       Yields (.setLoad bs) s rejected ∧ Yields .verify s rejected) ∧
      (muleRole s.w ≠ 1 → Yields .abort s (fun w' => loadState w' = 4 ∧ rdF w' Reg.loadStatus 15 8 = 4 ∧ w'.wt.load = none ∧ w'.mem = s.w.mem))) ∧
    (cmdOpen s.w = true → loadBusy s.w = false →
      Yields .abort s (fun w' => rdB w' Reg.loadStatus 16 = true ∧ w'.wt = s.w.wt ∧ loadState w' = loadState s.w) ∧
      (let h := parseSet bs
       let a := rd64 s.w Reg.loadDst
       let op : LoadOp := ⟨h, BitVec.ofNat 64 a, 0, 0, decide (muleRole s.w = 2), none, none⟩
       ((headerBad s.w h || rangeBad s.w a h.totalLen) = true → Yields (.setLoad bs) s (fun w' => loadState w' = 1 ∧
         w'.wt.load = some { op with result := some 1 } ∧ rd64 w' Reg.loadDoneBytes = 0 ∧ w'.mem = s.w.mem)) ∧
       ((headerBad s.w h || rangeBad s.w a h.totalLen) = false → Yields (.setLoad bs) s (fun w' => loadState w' = 1 ∧
         w'.wt.load = some op ∧ rd64 w' Reg.loadDoneBytes = min (headerLen h.entries) (min h.totalLen bs.length) ∧
         (muleRole s.w = 2 → w'.mem = s.w.mem) ∧
         (muleRole s.w ≠ 1 → muleRole s.w ≠ 2 → w'.mem = (writeFar a (bs.take h.totalLen) s.w).mem ∧ w'.ports = s.w.ports)))) ∧
      (s.w.mem.farUE = [] → (∀ q, farHasCE s.w q = false) →
        let h := farSet s.w (rd64 s.w Reg.loadDst)
        Yields .verify s (fun w' => loadState w' = 2 ∧ w'.mem = s.w.mem ∧ ∃ o, w'.wt.load = some o ∧ o.header = h ∧ o.next = 0 ∧ o.receive = false ∧
          o.result = (if headerBad s.w h then some 1 else none) ∧
          rd64 w' Reg.loadDoneBytes = if headerBad s.w h then 0 else headerLen h.entries)))) ∧
  (∀ (s : State) (data : List Byte),
    (s.w.wt.load = none → exec (.layerDigestCheck data) s = .next s ∧ ∀ e, exec (.loadEngineDone e) s = .next s) ∧
    ∀ o, s.w.wt.load = some o →
      (o.result.isSome = true ∨ o.header.manifest[o.next]? = none → exec (.layerDigestCheck data) s = .next s) ∧
      (∀ e, o.result = none → o.header.manifest[o.next]? = some e → s.w.mem.farUE = [] → (∀ q, farHasCE s.w q = false) → muleRole s.w ≠ 1 →
        let own : Bool := loadState s.w == 1 && !o.receive
        let match' := sha256 (if own then data.take e.length else farRead s.w (o.dst.toNat + e.offset) e.length) = e.digest
        (match' → Yields (.layerDigestCheck data) s (fun w' => w'.wt.load = some { o with next := o.next + 1, attempt := 0 } ∧
          rd64 w' Reg.loadDoneBytes = (rd64 s.w Reg.loadDoneBytes + e.length) % 2 ^ 64)) ∧
        (¬match' → o.receive = false → Yields (.layerDigestCheck data) s (fun w' => w'.wt.load = some { o with result := some 2 } ∧
          rd64 w' Reg.loadDoneBytes = rd64 s.w Reg.loadDoneBytes)) ∧
        (¬match' → o.receive = true → o.attempt < 3 → Yields (.layerDigestCheck data) s (fun w' => w'.wt.load = some { o with attempt := o.attempt + 1 } ∧
          rd w' Reg.muleResends = satAdd32 (rd s.w Reg.muleResends) 1 ∧ w'.mem = s.w.mem ∧
          ∀ p d, o.source = some (p, d) → ∃ m, (portOf w' p).replay = (portOf s.w p).replay ++ [m] ∧
            m.msg = .muleResend (o.attempt + 1) (Fin.ofNat 256 e.layer) d (deviceAddr s.w))) ∧
        (¬match' → o.receive = true → 3 ≤ o.attempt → Yields (.layerDigestCheck data) s (fun w' =>
          w'.wt.load = some { o with attempt := o.attempt + 1, result := some 5 } ∧ w'.ports = s.w.ports))) ∧
      (muleRole s.w ≠ 1 → ∀ e, let failed := fun (r : Nat) w' => w'.wt.load = none ∧ loadState w' = 4 ∧ rdF w' Reg.loadStatus 15 8 = r ∧ w'.mem = s.w.mem
        (∀ r, o.result = some r → Yields (.loadEngineDone e) s (failed r.val)) ∧
        (o.result = none → e = true → loadState s.w = 1 → o.receive = false → Yields (.loadEngineDone e) s (failed 3)) ∧
        (o.result = none → ¬(e = true ∧ loadState s.w = 1 ∧ o.receive = false) →
          (o.next < o.header.entries → exec (.loadEngineDone e) s = .next s) ∧
          (o.header.entries ≤ o.next → Yields (.loadEngineDone e) s (fun w' => w'.wt.load = none ∧ w'.wt.verified = some (o.dst, o.header) ∧
            loadState w' = 3 ∧ rd64 w' Reg.loadVerified = o.dst.toNat ∧ w'.mem = s.w.mem))))) ∧
  (∀ (s : State) (p : PortIx) (src : BitVec 16) (a : FAddr) (bs : List Byte),
    (portUp s.w p = false ∨ inHold s.w = true → exec (.muleDataReceive p src a bs) s = .next s) ∧
    (portUp s.w p = true → inHold s.w = false →
      (inMuleRange s.w a.toNat bs.length = true → Yields (.muleDataReceive p src a bs) s (fun w' => w'.mem = (writeFar a.toNat bs s.w).mem ∧
        ∀ o, s.w.wt.load = some o → w'.wt.load = some (if o.receive then { o with source := some (p, src) } else o))) ∧
      (inMuleRange s.w a.toNat bs.length = false → Yields (.muleDataReceive p src a bs) s (fun w' => w'.mem = s.w.mem ∧ w'.wt = s.w.wt ∧
        rd w' Reg.muleDrops = satAdd32 (rd s.w Reg.muleDrops) 1 ∧ rd w' (Reg.rxDrops p.val) = satAdd32 (rd s.w (Reg.rxDrops p.val)) 1))))

/-- R288 to R293, R306, R307, R499: far requests at the gateways, and load items. -/
def Obligations.FarRequestsQueueAndAreServed : Prop :=
  (∀ (s : State) (g : Gateway) (r : FarReq), let q := (gwOf s.w g).queue
    ((gwOf s.w g).reset = none →
      (stackBytes < r.offset + r.len → Yields (.gatewayRequestAccept g r) s (fun w' => rdB w' (Reg.gwErr g.val) 2 = true ∧
        w' = { s.w with bar0 := w'.bar0 } ∧ ∀ off, off ≠ Reg.gwErr g.val → rd w' off = rd s.w off)) ∧
      (r.offset + r.len ≤ stackBytes → 64 ≤ q.length → exec (.gatewayRequestAccept g r) s = .next s) ∧
      (r.offset + r.len ≤ stackBytes → q.length < 64 → Yields (.gatewayRequestAccept g r) s (fun w' =>
        (gwOf w' g).queue = q ++ [r] ∧ (∀ k, k ≠ g → gwOf w' k = gwOf s.w k) ∧ w'.mem = s.w.mem ∧
        rd w' (Reg.gwQueuePeak g.val) = BitVec.ofNat 32 (max (rd s.w (Reg.gwQueuePeak g.val)).toNat (q.length + 1)) ∧
        (r.load = true → w'.tiles = s.w.tiles ∧ rd w' (Reg.gwWrites g.val) = rd s.w (Reg.gwWrites g.val)) ∧
        (r.load = false → rd w' (Reg.gwWrites g.val) = satAdd32 (rd s.w (Reg.gwWrites g.val)) 1 ∧
          (∀ x, fmqOf s.w r.tile r.tag = some x → fmqOf w' r.tile r.tag = some { x with left := x.left - 1 }) ∧
          ∀ t, t ≠ r.tile → tileOf w' t = tileOf s.w t)))) ∧
    ((gwOf s.w g).reset.isSome = true →
      (fmqOf s.w r.tile r.tag = none → exec (.gatewayRequestAccept g r) s = .next s) ∧
      (∀ x, fmqOf s.w r.tile r.tag = some x → r.load = false → Yields (.gatewayRequestAccept g r) s (fun w' =>
        prdB w' r.tile (Pg.fmqErr + 4 * (r.tag.val / 32)) (r.tag.val % 32) = true ∧ w'.gws = s.w.gws ∧ w'.mem = s.w.mem ∧
        fmqOf w' r.tile r.tag = some { x with left := x.left - 1 })))) ∧
  (∀ (s : State) (g : Gateway) (ch : Fin 4) (lat : Nat),
    (refreshMode s.w (gwField g) = 2 ∨ nextReq (gwOf s.w g).queue ch.val = none → exec (.gatewayServe g ch lat) s = .next s) ∧
    (∀ r, refreshMode s.w (gwField g) ≠ 2 → nextReq (gwOf s.w g).queue ch.val = some r →
      (r.load = false → Yields (.gatewayServe g ch lat) s (fun w' => (gwOf w' g).queue = (gwOf s.w g).queue.erase r ∧
        rd w' (Reg.gwLatMax g.val) = BitVec.ofNat 32 (max (rd s.w (Reg.gwLatMax g.val)).toNat lat) ∧
        w'.mem = (writeFar (reqAddr g r) r.data s.w).mem ∧ w'.tiles = s.w.tiles)) ∧
      (r.load = true → s.w.mem.farUE = [] → (∀ q, farHasCE s.w q = false) → Yields (.gatewayServe g ch lat) s (fun w' =>
        (gwOf w' g).queue = (gwOf s.w g).queue.erase r ∧ rd w' (Reg.gwLatMax g.val) = BitVec.ofNat 32 (max (rd s.w (Reg.gwLatMax g.val)).toNat lat) ∧
        rd w' (Reg.gwReads g.val) = satAdd32 (rd s.w (Reg.gwReads g.val)) 1 ∧
        (∀ x, fmqOf s.w r.tile r.tag = some x → w'.mem = (writeStore r.tile r.landing.toNat (farRead s.w (reqAddr g r) r.len) s.w).mem ∧
          fmqOf w' r.tile r.tag = some { x with left := x.left - 1 }) ∧
        (fmqOf s.w r.tile r.tag = none → w'.mem = s.w.mem ∧ w'.tiles = s.w.tiles ∧ rd w' Reg.resetDrops = satAdd32 (rd s.w Reg.resetDrops) 1))))) ∧
  (∀ (s : State) (f : FieldIx) (ch : Fin 16), let g : Gateway := Fin.ofNat 192 (f.val * 4 + ch.val / 4)
    let waits := refreshMode s.w f ≠ 2 ∧ (nextReq (gwOf s.w g).queue (ch.val % 4)).isSome = true
    (¬waits → exec (.refreshInterval f ch) s = .next s) ∧
    (waits → Yields (.refreshInterval f ch) s (fun w' => rd w' (Reg.gwRefreshWaits g.val) = satAdd32 (rd s.w (Reg.gwRefreshWaits g.val)) 1 ∧
      w'.gws = s.w.gws ∧ w'.mem = s.w.mem)) ∧
    (s.w.env.selfStacks = true → exec (.stackLeaveSelf f) s = .next s) ∧
    (s.w.env.selfStacks = false → s.w.host.bar2Waiting = [] → Yields (.stackLeaveSelf f) s (fun w' =>
      fieldState w' f = { fieldState s.w f with stackSelf := false } ∧ (∀ k, k ≠ f → fieldState w' k = fieldState s.w k) ∧
      w'.host = s.w.host ∧ w'.mem = s.w.mem))) ∧
  (∀ (s : State) (n : Fin 32), let t := tileAt (attachTile n.val).1 (attachTile n.val).2
    let may := (running s.w t = true ∨ rdF s.w Reg.imgStatus 2 0 = 2) ∧ ringOn s.w t 15 = true ∧ 32 ≤ ringFree s.w t 15
    (smGet (fun _ => []) s.w.wt.muleRings n.val = [] ∨ ¬may → exec (.loadItemPop n) s = .next s) ∧
    (∀ x r, may → smGet (fun _ => []) s.w.wt.muleRings n.val = x :: r → s.w.mem.farUE = [] → (∀ q, farHasCE s.w q = false) →
      Yields (.loadItemPop n) s (fun w' => smGet (fun _ => []) w'.wt.muleRings n.val = r ∧ (tileOf w' t).opSeq = (tileOf s.w t).opSeq + 1 ∧
        w'.wt.outstanding = (if x.signal.isSome then s.w.wt.outstanding ++ [x] else s.w.wt.outstanding)))) ∧
  (∀ (s : State) (k : BitVec 32), (s.w.wt.outstanding.find? (fun x => x.seq == k) = none → exec (.loadItemComplete k) s = .next s) ∧
    ∀ x, s.w.wt.outstanding.find? (fun x => x.seq == k) = some x →
      let shown := ∀ c, x.signal = some c → ∀ t ∈ itemTiles s.w x, prd s.w t (Pg.sigcnt c.val) ≠ 0
      (shown → exec (.loadItemComplete k) s = .next { s with w := { s.w with wt := { s.w.wt with outstanding := s.w.wt.outstanding.erase x } } }) ∧
      (¬shown → exec (.loadItemComplete k) s = .next s))

/-- R314 to R321: flips. -/
def Obligations.FlipsDrainAndCommit : Prop :=
  (∀ (s : State) (m0 : Bool),
    let ver := rd s.w Reg.flipVerArg
    let set := rd64 s.w Reg.flipSet
    let rejected := fun w' => rdB w' Reg.flipStatus 16 = true ∧ w'.wt = s.w.wt ∧ w'.serve = s.w.serve ∧ flipState w' = flipState s.w
    (cmdOpen s.w = false → exec (.start m0) s = .next s ∧ exec .flipAbort s = .next s) ∧
    (cmdOpen s.w = true → flipping s.w = true ∨ imageRuns s.w = false → Yields (.start m0) s rejected) ∧
    (cmdOpen s.w = true → flipping s.w = false ∨ flipCommitted s.w = true → Yields .flipAbort s rejected) ∧
    (cmdOpen s.w = true → flipping s.w = false → imageRuns s.w = true →
      (ver = 0 ∨ ver = rd s.w Reg.modelVer ∨ flipSetOk s.w set ver.toNat = none → Yields (.start m0) s (fun w' => flipState w' = 5 ∧
        rdF w' Reg.flipStatus 7 4 = 1 ∧ w'.wt = s.w.wt ∧ w'.serve = s.w.serve)) ∧
      (∀ h, ver ≠ 0 → ver ≠ rd s.w Reg.modelVer → flipSetOk s.w set ver.toNat = some h → Yields (.start m0) s (fun w' =>
        flipState w' = (if secondCopy s.w then 1 else 2) ∧ rd w' Reg.flipProgress = 0 ∧ rdB w' Reg.flipStatus 9 = secondCopy s.w ∧
        w'.wt.flip = some ⟨s.w.dev.time, m0, rd s.w Reg.modelVer, h.modelVer, BitVec.ofNat 64 set, h, false, false, none, 0, false⟩ ∧
        w'.serve = s.w.serve ∧ rd w' Reg.modelVer = rd s.w Reg.modelVer))) ∧
    (cmdOpen s.w = true → flipping s.w = true → flipCommitted s.w = false → s.w.serve.held = [] → s.w.serve.streams = [] → Yields .flipAbort s (fun w' =>
      flipState w' = 6 ∧ w'.wt.flip = none ∧ w'.wt.muleRings = [] ∧ w'.wt.outstanding = [] ∧ rd w' Reg.modelVer = rd s.w Reg.modelVer ∧
      rd64 w' Reg.wselAtBeat = 0xFFFFFFFFFFFFFFFF))) ∧
  (∀ s : State,
    (flipState s.w ≠ 1 ∨ itemsDone s.w = false → exec .flipBuildComplete s = .next s) ∧
    (flipState s.w = 1 → itemsDone s.w = true → Yields .flipBuildComplete s (fun w' => flipState w' = 2 ∧ w' = { s.w with bar0 := w'.bar0 } ∧
      ∀ off, off ≠ Reg.flipStatus → rd w' off = rd s.w off)) ∧
    (s.w.wt.flip = none → exec .flipDrainExpired s = .next s ∧ exec .flipDrainComplete s = .next s ∧ ∀ d, exec (.refillEntryDone d) s = .next s) ∧
    ∀ f, s.w.wt.flip = some f →
      (let due := flipState s.w = 2 ∧ f.drainPassed = false ∧ f.started + (rd s.w Reg.flipDrain).toNat ≤ s.w.dev.time
       (¬due → exec .flipDrainExpired s = .next s) ∧
       (due → Yields .flipDrainExpired s (fun w' => w'.wt.flip = some { f with drainPassed := true } ∧ w'.serve.queue = s.w.serve.queue ∧
         ∀ x, streamOf w' x = if x ∈ draining s.w false then { streamOf s.w x with parkAsked := true } else streamOf s.w x))) ∧
      (let done := flipState s.w = 2 ∧ draining s.w false = [] ∧ draining s.w true = [] ∧ ownSlots s.w = false ∧ f.switchBeat = none
       (¬done → exec .flipDrainComplete s = .next s) ∧
       (done → secondCopy s.w = true → Yields .flipDrainComplete s (fun w' =>
         w'.wt.flip = some { f with switchBeat := some (rd64 s.w Reg.beatCount + 1) } ∧
         rd64 w' Reg.wselAtBeat = (rd64 s.w Reg.beatCount + 1) % 2 ^ 64 ∧ flipState w' = 2 ∧ w'.serve = s.w.serve)) ∧
       (∀ g, done → secondCopy s.w = false → s.w.pair.shadows = [] → farOf s.w = some g → g.refill ≠ [] → Yields .flipDrainComplete s (fun w' =>
         w'.wt.flip = some { f with committed := true } ∧ flipState w' = 3 ∧ w'.serve = s.w.serve ∧
         ∀ i, fieldState w' i = { fieldState s.w i with withheld := { (fieldState s.w i).withheld with refill := true } }))) ∧
      (flipState s.w ≠ 3 → ∀ d, exec (.refillEntryDone d) s = .next s) ∧
      (flipState s.w = 3 → f.retried = false →
        exec (.refillEntryDone true) s = .next { s with w := { s.w with wt := { s.w.wt with flip := some { f with retried := true } } } }) ∧
      (flipState s.w = 3 → f.retried = true → s.w.serve.held = [] → Yields (.refillEntryDone true) s (fun w' => flipState w' = 5 ∧
        rdF w' Reg.flipStatus 7 4 = 2 ∧ rd w' Reg.modelVer = 0 ∧ w'.wt.flip = none)) ∧
      (∀ g, flipState s.w = 3 → farOf s.w = some g → f.entry + 1 < g.refill.length → f.entry + 1 < 65536 → Yields (.refillEntryDone false) s (fun w' =>
        w'.wt.flip = some { f with entry := f.entry + 1, retried := false } ∧ rdF w' Reg.flipProgress 31 16 = f.entry + 1 ∧ flipState w' = 3 ∧
        w'.serve = s.w.serve ∧ w'.fields = s.w.fields)) ∧
      (∀ g, flipState s.w = 3 → farOf s.w = some g → g.refill.length ≤ f.entry + 1 → s.w.serve.held = [] → Yields (.refillEntryDone false) s (fun w' =>
        rd w' Reg.modelVer = f.version ∧ rd64 w' Reg.wsetActive = f.set.toNat ∧ w'.wt.active = some f.header ∧ w'.wt.flip = none ∧ flipState w' = 4 ∧
        (∀ i, (fieldState w' i).withheld.refill = false) ∧ ∀ n, adState w' n ≠ 2))) ∧
  (∀ (s : State) (x : StreamIx),
    (parkReady s.w x = false → exec (.streamPark x) s = .next s) ∧
    (parkReady s.w x = true → Yields (.streamPark x) s (fun w' => streamOf w' x = { streamOf s.w x with
        state := .parked
        parkAsked := false
        parkedIn := if (streamOf s.w x).state = .prefill then .prefill else .decode } ∧
      w'.serve.queue = s.w.serve.queue.filter (fun c => !(c.stream == x)) ∧ (∀ y, y ≠ x → streamOf w' y = streamOf s.w y) ∧
      rdF w' Reg.flipProgress 15 0 = (rdF s.w Reg.flipProgress 15 0 + 1) % 2 ^ 16)))

/-- R338, R339, R347, R348, R351, R352: images, and the end of a freeze. -/
def Obligations.ImagesLoadStartAndStop : Prop :=
  (∀ (s : State) (d : Bool) (body : ImageBody),
    let rejected := fun w' => rdB w' Reg.imgStatus 15 = true ∧ imgState w' = imgState s.w ∧ w'.img = s.w.img ∧ w'.serve = s.w.serve ∧ w'.kv = s.w.kv
    (hostAnswers s.w = false → exec (.imageLoad d body) s = .next s ∧ exec .unload s = .next s ∧ exec .reload s = .next s) ∧
    (hostAnswers s.w = true →
      (safeMode s.w = true ∨ (imgState s.w ≠ 0 ∧ imgState s.w ≠ 4) → Yields (.imageLoad d body) s rejected) ∧
      (safeMode s.w = true ∨ imgState s.w ≠ 3 ∨ busyStreams s.w ≠ [] → Yields .unload s rejected) ∧
      (safeMode s.w = true ∨ ¬(imgState s.w = 3 ∨ (imgState s.w = 4 ∧ s.w.checked.isSome = true)) → Yields .reload s rejected)) ∧
    (∀ k g, hostAnswers s.w = true → safeMode s.w = false → imgState s.w = 0 ∨ imgState s.w = 4 → s.w.mem.farUE = [] → (∀ q, farHasCE s.w q = false) →
      let addr := rd64 s.w Reg.imgAddr
      let h := farRead s.w addr 256
      let im := imageOf s.w h addr body
      loadChecks s.w h addr body = none → usableRung s.w body = some k → body.rungs[k]? = some g → rd64 s.w Reg.imgWset = 0 →
      Yields (.imageLoad d body) s (fun w' => imgState w' = 2 ∧ rdF w' Reg.imgStatus 23 16 = k ∧ rdB w' Reg.imgStatus 6 = d ∧
        w'.img = some { im with mapId := (ladderOf body k).mapId } ∧ w'.checked = some im ∧ w'.kv = KvS.init ∧
        w'.serve.pipe = List.replicate g.timing.stages none ∧ rd64 w' Reg.beatCount = 0 ∧ rd w' Reg.modelVer = 0 ∧
        rd64 w' Reg.stripeSet = g.far.stripe.toNat)) ∧
    (hostAnswers s.w = true → safeMode s.w = false → imgState s.w = 3 → busyStreams s.w = [] → paired s.w = false → Yields .unload s (fun w' =>
      imgState w' = 0 ∧ w'.img = none ∧ w'.checked = none ∧ w'.kv = KvS.init ∧ w'.serve.pipe = [] ∧ rd w' Reg.modelVer = 0 ∧
      rd64 w' Reg.recoveryAddr = 0 ∧ ∀ f, (fieldState w' f).slots = [] ∧ (fieldState w' f).mcast = [] ∧ rd w' (Reg.slotLen f.val) = 0)) ∧
    (∀ im k g, hostAnswers s.w = true → safeMode s.w = false → imgState s.w = 3 → s.w.serve.streams = [] → paired s.w = false → s.w.checked = some im →
      usableRung s.w im.body = some k → im.body.rungs[k]? = some g → Yields .reload s (fun w' => imgState w' = 2 ∧
        rdF w' Reg.imgStatus 23 16 = k % 256 ∧ rdB w' Reg.serveStatus 0 = false ∧ w'.checked = some im ∧
        w'.serve.pipe = List.replicate g.timing.stages none ∧ ∃ i, w'.img = some i ∧ i.body = im.body))) ∧
  (∀ s : State,
    (booted s.w = false ∨ s.w.img = none ∨ (instantiated s.w = false ∧ imgState s.w ≠ 2) → exec .imageInstantiated s = .next s) ∧
    (∀ im, s.w.img = some im → rungLost s.w im = false → instantiated s.w = false → exec .imageInstantiated s = .next s) ∧
    (∀ im, booted s.w = true → s.w.img = some im → rungLost s.w im = false → instantiated s.w = true → s.w.flt.recovering = false → im.oldRung = none →
      Yields .imageInstantiated s (fun w' => imgState w' = 3 ∧ rdF w' Reg.imgStatus 31 24 = 0 ∧ w'.env.imageSince = s.w.dev.time ∧
        rd w' Reg.modelVer = (match s.w.wt.active with | some h => h.modelVer | none => 0) ∧ w'.serve = s.w.serve ∧ w'.img = s.w.img)) ∧
    (dbgOpen s.w = false ∨ rdB s.w Reg.dbgStatus 30 = false ∨ s.w.dbg.resumeAt.isSome = true → exec .resume s = .next s) ∧
    (dbgOpen s.w = true → rdB s.w Reg.dbgStatus 30 = true → s.w.dbg.resumeAt = none →
      (paired s.w = false → exec .resume s = .next { s with w := { s.w with dbg := { s.w.dbg with resumeAt := some (s.w.dev.time + 10000) } } }) ∧
      (paired s.w = true → Yields .resume s (fun w' => w'.dbg = { s.w.dbg with resumeAt := some (s.w.dev.time + 30000) } ∧
        ∀ p ∈ twinPorts s.w, ∃ m ∈ (portOf w' p).replay, m.msg = .resume (s.w.dev.time + 30000)))) ∧
    (s.w.dbg.resumeAt = none → exec .resumeTimeReached s = .next s) ∧
    (∀ t, s.w.dbg.resumeAt = some t →
      (s.w.dev.time < t → exec .resumeTimeReached s = .next s) ∧
      (t ≤ s.w.dev.time → Yields .resumeTimeReached s (fun w' => w'.dbg.resumeAt = none ∧ rdB w' Reg.dbgStatus 30 = false ∧
        rdB w' Reg.dbgStatus 29 = false ∧ ∀ f, (fieldState w' f).withheld.freeze = false))))

/-- R382 to R384, R518: the sideband. The layouts of the MCTP control responses are the model's choice (log entry 7), and what GET_POWER measures too (log
entry 45). -/
def Obligations.SidebandCommandsAreAnswered : Prop :=
  ∀ (s : State) (eid : Byte) (cap : Word32) (nonce : List Byte) (off : BitVec 16) (code : Byte),
    let answers := fun (c : Instr) (bs : List Byte) => exec c s = .next { s with w := { s.w with side := { s.w.side with response := bs } } }
    let refuses := fun (c : Instr) (bs : List Byte) => Yields c s (fun w' => w'.side.response = bs ∧ w'.side.eid = s.w.side.eid ∧ w'.att = s.w.att ∧
      ∀ o, o ≠ Reg.evtLost → o ≠ Reg.hostifErr → rd w' o = rd s.w o)
    let word := fun (r : Nat) => le 4 (rdF s.w r 15 0)
    (sideAnswers s.w = false → exec (.setEndpointId eid) s = .next s ∧ exec .getEndpointId s = .next s ∧ exec .getEndpointUuid s = .next s ∧
      exec .getMctpVersionSupport s = .next s ∧ exec .getMessageTypeSupport s = .next s ∧ exec (.setFacilityCap cap) s = .next s ∧
      exec .getPower s = .next s ∧ exec (.attestStart nonce) s = .next s ∧ exec (.attestRead off) s = .next s ∧
      exec (.sidebandUnknownCommand code) s = .next s) ∧
    (hostAnswers s.w = false → exec .getState s = .next s) ∧
    (hostAnswers s.w = true → answers .getState
      ([1, 0] ++ (le 4 (deviceId s.w).toNat ++ le 4 (rd s.w Reg.imgStatus).toNat ++ le 4 (rdF s.w Reg.envStatus 31 29) ++ le 4 (capNow s.w)))) ∧
    (sideAnswers s.w = true →
      (eid = 0 ∨ eid = 0xFF → answers (.setEndpointId eid) [2]) ∧
      (eid ≠ 0 → eid ≠ 0xFF → exec (.setEndpointId eid) s =
        .next { s with w := { s.w with side := { s.w.side with eid := eid, response := [0, 0, eid, 0] } } }) ∧
      answers .getEndpointId [0, s.w.side.eid, 0, 0] ∧
      answers .getEndpointUuid (0 :: fitBytes 16 Config.endpointUuid) ∧
      answers .getMctpVersionSupport (0 :: Config.mctpVersions) ∧
      answers .getMessageTypeSupport [0, 1, 0x7E] ∧
      (cap = 0 ∨ (5000 ≤ cap.toNat ∧ cap.toNat ≤ 34000) → Yields (.setFacilityCap cap) s (fun w' => rd w' Reg.facilityCap = cap ∧
        w'.side.response = [2, 0] ∧ w'.env = s.w.env ∧ w'.att = s.w.att)) ∧
      (¬(cap = 0 ∨ (5000 ≤ cap.toNat ∧ cap.toNat ≤ 34000)) → refuses (.setFacilityCap cap) [2, 2]) ∧
      answers .getPower ([3, 0] ++ (word Reg.facilityCap ++ word Reg.hostCap ++ word Reg.thermalCap ++ word Reg.capInForce ++ le 4 (rd s.w Reg.power5ms).toNat)) ∧
      (nonce.length ≠ 32 → refuses (.attestStart nonce) [0x10, 2]) ∧
      (nonce.length = 32 → s.w.att.sideBusy = true → refuses (.attestStart nonce) [0x10, 3]) ∧
      (nonce.length = 32 → s.w.att.sideBusy = false → Yields (.attestStart nonce) s (fun w' => w'.side.response = [0x10, 0] ∧ w'.att.sideBusy = true ∧
        w'.att.sideReport = [] ∧ w'.att.hostReport = s.w.att.hostReport ∧
        (s.w.att.building.isSome = true → w'.att.building = s.w.att.building ∧ w'.att.queue = s.w.att.queue ++ [(.sideband, nonce)]) ∧
        (s.w.att.building = none → s.w.att.queue = [] → w'.att.building = some (.sideband, reportBytes .sideband nonce s.w) ∧ w'.att.queue = []))) ∧
      (0x1000 ≤ off.toNat → answers (.attestRead off) ([0x11, 0] ++ (s.w.att.certificate.drop (off.toNat - 0x1000)).take 512)) ∧
      (off.toNat < 0x1000 → s.w.att.sideReport = [] → refuses (.attestRead off) [0x11, 4]) ∧
      (off.toNat < 0x1000 → s.w.att.sideReport ≠ [] → answers (.attestRead off) ([0x11, 0] ++ (s.w.att.sideReport.drop off.toNat).take 512)) ∧
      ((code = 1 ∨ code = 2 ∨ code = 3 ∨ code = 0x10 ∨ code = 0x11) → exec (.sidebandUnknownCommand code) s = .next s) ∧
      (¬(code = 1 ∨ code = 2 ∨ code = 3 ∨ code = 0x10 ∨ code = 0x11) → refuses (.sidebandUnknownCommand code) [code, 1]))

/-- R512, R517 to R525: reports, measurements and the option store. -/
def Obligations.ReportsMeasurementsAndOptionsAnswer : Prop :=
  (∀ (s : State) (m : Fin 8),
    (hostAnswers s.w = false → exec .report s = .next s ∧ exec .twin s = .next s ∧ exec (.extend m) s = .next s ∧ exec .read s = .next s ∧
      exec .erase s = .next s ∧ exec .program s = .next s) ∧
    (safeMode s.w = true → exec (.extend m) s = .next s) ∧
    (hostAnswers s.w = true → safeMode s.w = true → Yields .report s (fun w' => w'.att = s.w.att ∧ attState w' = attState s.w) ∧
      Yields .twin s (fun w' => w'.att = s.w.att ∧ w'.ports = s.w.ports)) ∧
    (hostAnswers s.w = true → safeMode s.w = false →
      (attState s.w = 1 → Yields .report s (fun w' => rdB w' Reg.attStatus 28 = true ∧ w'.att = s.w.att) ∧
        Yields .twin s (fun w' => rdB w' Reg.attStatus 28 = true ∧ w'.att = s.w.att ∧ w'.ports = s.w.ports)) ∧
      (attState s.w = 1 ∨ m.val < 6 → Yields (.extend m) s (fun w' => rdB w' Reg.attStatus 28 = true ∧ ∀ k, measBytes w' k = measBytes s.w k)) ∧
      (attState s.w ≠ 1 → Yields .report s (fun w' => attState w' = 1 ∧ w'.att.hostReport = [] ∧
        (s.w.att.building.isSome = true → w'.att.building = s.w.att.building ∧ w'.att.queue = s.w.att.queue ++ [(.host, attArg s.w)]) ∧
        (s.w.att.building = none → s.w.att.queue = [] → w'.att.queue = [] ∧ ∃ b, w'.att.building = some (.host, b) ∧
          b.take 4 = le 4 0x54525441 ∧ b.length = 576))) ∧
      (attState s.w ≠ 1 → 6 ≤ m.val → Yields (.extend m) s (fun w' => measBytes w' m.val = sha256 (measBytes s.w m.val ++ attArg s.w) ∧
        (∀ k, k < 8 → k ≠ m.val → measBytes w' k = measBytes s.w k) ∧ attState w' = attState s.w)) ∧
      (attState s.w ≠ 1 → twinPorts s.w = [] → Yields .twin s (fun w' => attState w' = 3 ∧ w'.att.fetch = none)) ∧
      (∀ p r, attState s.w ≠ 1 → twinPorts s.w = p :: r → Yields .twin s (fun w' => attState w' = 1 ∧
        w'.att.fetch = some ⟨p, s.w.dev.time, (portOf s.w p).xferSeq, false, attArg s.w⟩ ∧
        (∃ x, (portOf w' p).replay = (portOf s.w p).replay ++ [x] ∧ ∃ t, x.msg = .transfer t ∧ t.op = 1 ∧ t.address = attPage 0 ∧ t.data = attArg s.w) ∧
        ∀ q, q ≠ p → portOf w' q = portOf s.w q)))) ∧
  (∀ s : State,
    (s.w.att.fetch = none ∨ (∃ f, s.w.att.fetch = some f ∧ f.report = true) → exec .twinStatePoll s = .next s) ∧
    (∀ f, s.w.att.fetch = some f → f.report = false →
      (f.started + 10000000 ≤ s.w.dev.time → Yields .twinStatePoll s (fun w' => attState w' = 3 ∧ w'.att.fetch = none)) ∧
      (s.w.dev.time < f.started + 10000000 → Yields .twinStatePoll s (fun w' => w'.att.fetch = some { f with seq := (portOf s.w f.port).xferSeq } ∧
        ∃ x, (portOf w' f.port).replay = (portOf s.w f.port).replay ++ [x] ∧ ∃ t, x.msg = .transfer t ∧ t.op = 3 ∧ t.address = attPage 0x40 ∧ t.length = 8))) ∧
    (s.w.att.building = none → exec .attestReportReady s = .next s) ∧
    (∀ b, s.w.att.queue = [] →
      (s.w.att.building = some (.host, b) → Yields .attestReportReady s (fun w' => w'.att = { s.w.att with building := none, hostReport := b } ∧ attState w' = 2)) ∧
      (s.w.att.building = some (.twin, b) → Yields .attestReportReady s (fun w' =>
        w'.att = { s.w.att with building := none, twinState := 2, pageReport := b } ∧ attState w' = attState s.w)) ∧
      (s.w.att.building = some (.sideband, b) → Yields .attestReportReady s (fun w' =>
        w'.att = { s.w.att with building := none, sideBusy := false, sideReport := b } ∧ attState w' = attState s.w))) ∧
    (hostAnswers s.w = true → ∀ c op, (c = .read ∧ op = 1) ∨ (c = .erase ∧ op = 2) ∨ (c = .program ∧ op = 3) →
      (optOk op s.w = false → Yields c s (fun w' => rdB w' Reg.optStatus 26 = true ∧ w'.opt = s.w.opt)) ∧
      (optOk op s.w = true → Yields c s (fun w' => rdB w' Reg.optStatus 31 = true ∧
        w'.opt = { s.w.opt with op := some (op, (optRange op s.w).1, (optRange op s.w).2) }))) ∧
    (s.w.opt.op = none → ∀ e, exec (.optionOperationEnd e) s = .next s) ∧
    (∀ op a n, s.w.opt.op = some (op, a, n) →
      Yields (.optionOperationEnd true) s (fun w' => rdB w' Reg.optStatus 25 = true ∧ rdB w' Reg.optStatus 31 = false ∧ w'.opt.op = none) ∧
      Yields (.optionOperationEnd false) s (fun w' => rdB w' Reg.optStatus 31 = false ∧ w'.opt.op = none ∧
        (op = 1 → w'.opt.flash = s.w.opt.flash ∧ ∀ i, i < n / 4 → i < 1024 → rd w' (Reg.optBuf i) =
          BitVec.ofNat 32 (ofLe ((List.range 4).map (fun j => smGet flashEmpty s.w.opt.flash ((a + 4 * i + j) % flashEnd))))) ∧
        (op = 2 → w'.opt.flash = flashWrite a (List.replicate n 0xFF) s.w.opt.flash) ∧
        (op = 3 → w'.opt.flash = flashWrite a (optBufBytes s.w n) s.w.opt.flash))))

/-- R433, R434, R446, R550, R551: the loss of a field, with no image running. -/
def Obligations.FieldsLoseLockPowerAndAreLost : Prop :=
  ∀ (s : State) (f : FieldIx),
    let gone := fun (cause : Nat) w' => (∀ g, fieldStateSeen w' g f = 3) ∧ rdB64 w' Reg.faultLost f.val = true ∧ rdB64 w' Reg.imgLost f.val = true ∧
      rdB w' (Reg.fieldFault f.val) 31 = true ∧ rdF w' (Reg.fieldFault f.val) 30 27 = cause ∧ rdB w' Reg.faultStatus 31 = true ∧
      rd w' Reg.faultGen = BitVec.ofNat 32 s.w.opt.gen ∧
      (fieldState w' f).reset = none ∧ (fieldState w' f).parkOrder = false ∧ (fieldState w' f).pllLostAt = none ∧ w'.serve = s.w.serve ∧ w'.img = s.w.img
    let others := fun w' => (∀ g h, h ≠ f → fieldStateSeen w' g h = fieldStateSeen s.w g h) ∧ ∀ h, h ≠ f → fieldState w' h = fieldState s.w h
    (∀ c, booted s.w = false ∨ c = 0 ∨ fieldLostNow s.w f = true → exec (.fieldLoss f c) s = .next s) ∧
    (∀ c, booted s.w = true → c ≠ 0 → fieldLostNow s.w f = false → imgState s.w ≠ 3 → Yields (.fieldLoss f c) s (fun w' => gone c.val w' ∧ others w')) ∧
    (booted s.w = false ∨ rdB s.w (Reg.fieldClk f.val) 31 = false ∨ fieldLostNow s.w f = true → exec (.fieldPllLoss f) s = .next s) ∧
    (booted s.w = true → rdB s.w (Reg.fieldClk f.val) 31 = true → fieldLostNow s.w f = false → (fieldState s.w f).reset = none → parkState s.w f = 0 →
      Yields (.fieldPllLoss f) s (fun w' => rdB w' (Reg.fieldClk f.val) 31 = false ∧ rdB w' (Reg.fieldClk f.val) 30 = false ∧
        rdB64 w' Reg.fieldPllLock f.val = false ∧ rdB64 w' Reg.fieldsInReset f.val = true ∧
        fieldState w' f = { fieldState s.w f with
          pllLostAt := some s.w.dev.time
          reset := some ⟨2, 0, s.w.dev.time, true, false⟩
          withheld := { (fieldState s.w f).withheld with reset := true } } ∧ others w')) ∧
    ((fieldState s.w f).pllLostAt = none → exec (.fieldPllRelock f) s = .next s ∧ exec (.fieldPllRelockTimeout f) s = .next s) ∧
    (∀ t, (fieldState s.w f).pllLostAt = some t →
      (t + 100000 < s.w.dev.time → exec (.fieldPllRelock f) s = .next s) ∧
      (s.w.dev.time ≤ t + 100000 → Yields (.fieldPllRelock f) s (fun w' => rdB w' (Reg.fieldClk f.val) 31 = true ∧
        rdB64 w' Reg.fieldPllLock f.val = true ∧ fieldState w' f = { fieldState s.w f with pllLostAt := none } ∧
        rdB w' (Reg.fieldClk f.val) 30 = (if parkState s.w f = 2 ∨ parkState s.w f = 3 then rdB s.w (Reg.fieldClk f.val) 30 else true) ∧ others w')) ∧
      (s.w.dev.time < t + 100000 → exec (.fieldPllRelockTimeout f) s = .next s) ∧
      (t + 100000 ≤ s.w.dev.time → fieldLostNow s.w f = false → imgState s.w ≠ 3 →
        Yields (.fieldPllRelockTimeout f) s (fun w' => gone 4 w' ∧ others w'))) ∧
    (booted s.w = false ∨ rdB64 s.w Reg.mifPllLock f.val = false → exec (.mifPllLoss f) s = .next s) ∧
    (booted s.w = true → rdB64 s.w Reg.mifPllLock f.val = true → fieldLostNow s.w f = false → imgState s.w ≠ 3 → Yields (.mifPllLoss f) s (fun w' =>
      gone 3 w' ∧ others w' ∧ rdB64 w' Reg.mifPllLock f.val = false ∧ (fieldState w' f).stackFailed = true)) ∧
    (∀ r a, booted s.w = false → exec (.zoneShort r f.val a) s = .next s) ∧
    (∀ r a, r = .vlogic ∨ r = .varray ∨ r = .vmif → booted s.w = true →
      let z := rdF s.w (Reg.fieldPwr f.val) (zoneBit r) (zoneBit r - 1)
      (z = 0 ∨ z = 3 → exec (.zoneShort r f.val a) s = .next s) ∧
      (z = 1 ∨ z = 2 → fieldLostNow s.w f = false → imgState s.w ≠ 3 → Yields (.zoneShort r f.val a) s (fun w' => gone 5 w' ∧ others w' ∧
        rdF w' (Reg.fieldPwr f.val) (zoneBit r) (zoneBit r - 1) = 3 ∧ rdB64 w' Reg.zonesIsolated f.val = true ∧ rdB w' Reg.pwrErr 1 = true))) ∧
    (∀ (p : PortIx) a, booted s.w = true →
      (portIsolated s.w p = true → exec (.zoneShort .vlink p.val a) s = .next s) ∧
      (portIsolated s.w p = false → Yields (.zoneShort .vlink p.val a) s (fun w' => portIsolated w' p = true ∧ portUp w' p = false ∧
        portState w' p = 0 ∧ rd64 w' (Reg.laneMap p.val) = 0 ∧ (portOf w' p).replay = [] ∧ ∀ q, q ≠ p → portOf w' q = portOf s.w q))) ∧
    (∀ a, booted s.w = true → Yields (.zoneShort .vaux 0 a) s (fun w' => w'.dev.powered = false ∧ w'.img = none ∧ w'.serve = Serve.init))

/-- R434, R442 to R445: reports of the clocks, the rails and the droop monitors. -/
def Obligations.RailsAndMonitorsReport : Prop :=
  ∀ (s : State) (f : FieldIx) (v : BitVec 16) (z : ZoneReading) (high : List (Nat × Nat)) (mean fast : Nat) (p : Fin 42),
    let only := fun (rs : List Nat) w' => (∀ o, o ∉ rs → o ≠ Reg.evtLost → o ≠ Reg.hostifErr → rd w' o = rd s.w o) ∧ w'.serve = s.w.serve ∧
      w'.mem = s.w.mem ∧ w'.tiles = s.w.tiles ∧ w'.env = s.w.env
    (booted s.w = false → exec (.inputOutOfRange v) s = .next s ∧ exec (.zoneTelemetry f z) s = .next s ∧ exec (.zoneCurrentLimit f) s = .next s ∧
      exec (.droopWindow f high mean fast) s = .next s ∧ exec (.suspectedCrack f p) s = .next s ∧ exec .timebasePllLoss s = .next s ∧
      exec .timebasePllRelock s = .next s) ∧
    (4000 ≤ v.toNat ∧ v.toNat ≤ 6000 → exec (.inputOutOfRange v) s = .next s) ∧
    (logicRuns s.w f = false → exec (.zoneCurrentLimit f) s = .next s) ∧
    (booted s.w = true →
      (v.toNat < 4000 ∨ 6000 < v.toNat → Yields (.inputOutOfRange v) s (fun w' => rdB w' Reg.pwrErr 0 = true ∧ rdF w' Reg.inputV 15 0 = v.toNat ∧
        only [Reg.pwrErr, Reg.inputV] w' ∧ w'.fields = s.w.fields)) ∧
      Yields (.zoneTelemetry f z) s (fun w' => rd w' (Reg.zoneLogic f.val) = z.logicMv ++ z.logicA ∧ rd w' (Reg.zoneArray f.val) = z.arrayMv ++ z.arrayA ∧
        rd w' (Reg.zoneMif f.val) = z.mifMv ++ z.mifA ∧ rdB w' (Reg.fieldPwr f.val) 24 = (rdB s.w (Reg.fieldPwr f.val) 24 && decide (900 ≤ z.logicA.toNat)) ∧
        only [Reg.zoneLogic f.val, Reg.zoneArray f.val, Reg.zoneMif f.val, Reg.fieldPwr f.val] w' ∧ w'.fields = s.w.fields) ∧
      (logicRuns s.w f = true → Yields (.zoneCurrentLimit f) s (fun w' => rdB w' (Reg.fieldPwr f.val) 24 = true ∧ rdF w' (Reg.zoneLogic f.val) 15 0 = 900 ∧
        only [Reg.zoneLogic f.val, Reg.fieldPwr f.val] w' ∧ w'.fields = s.w.fields)) ∧
      (let off := parkState s.w f = 2 ∨ parkState s.w f = 3 ∨ parkState s.w f = 4 ∨ logicRuns s.w f = false
       let runs := fun w' (q : Nat) => smGet (fun _ => 0) (fieldState w' f).patchRuns q
       (off → Yields (.droopWindow f high mean fast) s (fun w' => fieldState w' f = { fieldState s.w f with patchRuns := [] } ∧
         rdF w' (Reg.droopStatus f.val) 15 0 = 0 ∧ only [Reg.droopStatus f.val] w' ∧ ∀ g, g ≠ f → fieldState w' g = fieldState s.w g)) ∧
       (¬off → Yields (.droopWindow f high mean fast) s (fun w' => (fieldState w' f).droopMean = mean ∧
         (∀ q, q < 42 → runs w' q = if high.any (fun e => e.1 == q && decide (4 ≤ e.2)) then runs s.w q + 1 else 0) ∧
         rd w' (Reg.droopFast f.val) = satAdd32 (rd s.w (Reg.droopFast f.val)) fast ∧
         (∀ q, q < 42 → min 0xFFFF (runs w' q) ≤ rdF w' (Reg.droopStatus f.val) 15 0) ∧
         rdF s.w (Reg.droopStatus f.val) 15 0 ≤ rdF w' (Reg.droopStatus f.val) 15 0 ∧
         only [Reg.droopStatus f.val, Reg.droopFast f.val] w' ∧ ∀ g, g ≠ f → fieldState w' g = fieldState s.w g)) ∧
       (runs s.w p.val < 10000 ∨ rdB s.w (Reg.droopStatus f.val) 31 = true → exec (.suspectedCrack f p) s = .next s) ∧
       (10000 ≤ runs s.w p.val → rdB s.w (Reg.droopStatus f.val) 31 = false → Yields (.suspectedCrack f p) s (fun w' =>
         rdB w' (Reg.droopStatus f.val) 31 = true ∧ rdF w' (Reg.droopStatus f.val) 29 24 = p.val ∧ rdB w' (Reg.fieldPwr f.val) 25 = true ∧
         rdB64 w' Reg.fieldsIlim f.val = true ∧ w'.fields = s.w.fields ∧
         ((s.w.flt.tests.filter (fun x => x.started.isNone)).length < 255 → ∃ t ∈ w'.flt.tests, t.unit = .supply f p)))) ∧
      Yields .timebasePllLoss s (fun w' => rdB w' Reg.clkStatus 27 = true ∧ rdB w' Reg.clkStatus 30 = false ∧ only [Reg.clkStatus] w' ∧ w'.dev = s.w.dev) ∧
      Yields .timebasePllRelock s (fun w' => rdB w' Reg.clkStatus 27 = false ∧ rdB w' Reg.clkStatus 30 = true ∧ only [Reg.clkStatus] w' ∧ w'.dev = s.w.dev))

/-- R441, R442, R495, R496, R504, R505, R509, R513, R515: whole-device resets and boot (Table 14.1). -/
def Obligations.WholeDeviceResetsAndBoot : Prop :=
  ∀ s : State,
    let cleared := fun (c : Word32) w' => w' = { W9.reset with dev := w'.dev, bar0 := w'.bar0, host := w'.host, rst := w'.rst, opt := w'.opt } ∧
      w'.dev.rstDone = false ∧ w'.dev.time = 0 ∧ w'.rst.asserted = true ∧ w'.host = { HostS.init with hostMem := s.w.host.hostMem } ∧
      (s.w.opt.op = none → w'.opt = { OptS.init with flash := s.w.opt.flash }) ∧ w'.rst.countedWarm = [] ∧ rd w' Reg.rstCause = c ∧
      ∀ o, o ≠ Reg.rstCause → o ≠ Reg.rstStatus → rd w' o = rd W9.reset o
    let warmed := fun (cause row field : Nat) w' => w'.rst.asserted = true ∧ w'.dev.rstDone = false ∧ w'.dev.powered = true ∧ w'.dev.time = s.w.dev.time ∧
      w'.serve = Serve.init ∧ w'.img = none ∧ w'.checked = s.w.checked ∧ w'.tiles = [] ∧ w'.page = [] ∧ w'.mem.store = [] ∧ w'.mem.far = s.w.mem.far ∧
      w'.kv = { s.w.kv with held := [] } ∧ rd w' Reg.rstCause = BitVec.ofNat 32 (cause + 0x100 * row + 0x10000 * field) ∧
      rd w' Reg.warmCount = rd s.w Reg.warmCount + 1 ∧ w'.host = { HostS.init with hostMem := s.w.host.hostMem } ∧
      rd64 w' Reg.zonesIsolated = rd64 s.w Reg.zonesIsolated ∧ w'.flt.recoveryDue = true
    let takes := s.w.dev.powered = true ∧ s.w.rst.asserted = false ∧ envState s.w ≠ 4
    Yields .powerOn s (fun w' => cleared (rd W9.reset Reg.rstCause) w' ∧ w'.dev.powered = true) ∧
    (s.w.dev.powered = false → exec .coldReset s = .next s ∧ exec .referenceLoss s = .next s ∧ exec .inputCutoff s = .next s ∧ exec .warm s = .next s ∧
      exec .stewardPllLoss s = .next s ∧ (∀ n, exec (.resetRelease n) s = .next s) ∧ ∀ e, exec (.criticalStateError e) s = .next s) ∧
    (s.w.dev.powered = true →
      Yields .coldReset s (fun w' => cleared 2 w' ∧ w'.dev.powered = true) ∧
      Yields .referenceLoss s (fun w' => cleared 3 w' ∧ w'.dev.powered = true ∧ rdB w' Reg.rstStatus 31 = true) ∧
      Yields .inputCutoff s (fun w' => cleared (rd W9.reset Reg.rstCause) w' ∧ w'.dev.powered = false)) ∧
    (¬takes ∨ hostAnswers s.w = false → exec .warm s = .next s) ∧
    (takes → hostAnswers s.w = true → Yields .warm s (fun w' => warmed 4 0 0xFF w' ∧ w'.rst.countedWarm = s.w.rst.countedWarm)) ∧
    (¬takes ∨ safeMode s.w = true → exec .stewardPllLoss s = .next s) ∧
    (takes → safeMode s.w = false → Yields .stewardPllLoss s (fun w' => warmed 7 0 0xFF w' ∧
      w'.rst.countedWarm = s.w.dev.time :: s.w.rst.countedWarm.filter (fun t => decide (s.w.dev.time < t + 60000000000)))) ∧
    (∀ e : CritError, (s.w.rst.asserted = true → exec (.criticalStateError e) s = .next s) ∧
      (s.w.dev.powered = true → s.w.rst.asserted = false →
        (e.corrected = true → e.row = 6 → Yields (.criticalStateError e) s (fun w' => rd w' Reg.critErrors = satAdd32 (rd s.w Reg.critErrors) 1 ∧
          w'.dev.time = s.w.dev.time ∧ w'.serve = s.w.serve ∧ w'.rst = s.w.rst)) ∧
        (¬(e.corrected = true ∧ e.row = 6) → 4 ≤ e.row.val → envState s.w ≠ 4 → safeMode s.w = false → Yields (.criticalStateError e) s (fun w' =>
          warmed 6 e.row.val (match e.field with | some f => if e.row = 4 then f.val else 0xFF | none => 0xFF) w')) ∧
        (∀ f, e.field = some f → 1 ≤ e.row.val → e.row.val ≤ 3 → (fieldState s.w f).reset = none → parkState s.w f = 0 → fieldLostNow s.w f = false →
          Yields (.criticalStateError e) s (fun w' => rd w' Reg.critErrors = satAdd32 (rd s.w Reg.critErrors) 1 ∧
            (fieldState w' f).reset = some ⟨3, e.row.val, s.w.dev.time, true, false⟩ ∧ rdF w' Reg.rstCause 15 8 = e.row.val ∧
            rdF w' Reg.rstCause 23 16 = f.val ∧ w'.rst = s.w.rst ∧ ∀ g, g ≠ f → fieldState w' g = fieldState s.w g)))) ∧
    (∀ n : Nat, (s.w.rst.asserted = false → exec (.resetRelease n) s = .next s) ∧
      (s.w.dev.powered = true → s.w.rst.asserted = true →
        let bad := fun c => (copyFault (flashRead s.w (copyBase c) 0x4000)).isSome = true
        let safe := fun (cause boot : Nat) w' => safeMode w' = true ∧ rdF w' Reg.rstStatus 29 28 = cause ∧ rdF w' Reg.rstStatus 3 0 = boot ∧
          w'.rst.asserted = false ∧ w'.dev.rstDone = s.w.dev.rstDone ∧ w'.dev.time = s.w.dev.time
        (bad 0 → bad 1 → Yields (.resetRelease n) s (safe 1 3)) ∧
        (¬(bad 0 ∧ bad 1) → s.w.rst.pendingSafe = true → Yields (.resetRelease n) s (safe 3 4)) ∧
        (¬(bad 0 ∧ bad 1) → s.w.rst.pendingSafe = false → firmwareParts (flashRead s.w 0x1000000 64) = none → Yields (.resetRelease n) s (safe 2 4)) ∧
        (¬(bad 0 ∧ bad 1) → s.w.rst.pendingSafe = false → firmwareParts (flashRead s.w 0x1000000 64) ≠ none → Yields (.resetRelease n) s (fun w' =>
          w'.dev.rstDone = true ∧ w'.rst.asserted = false ∧ w'.dev.time = s.w.dev.time + n ∧ rdF w' Reg.rstStatus 3 0 = 9 ∧
          rd w' Reg.lastBootNs = BitVec.ofNat 32 n ∧ rd w' Reg.clkStatus = 0xF0000000 ∧ rd64 w' Reg.fieldPllLock = 0xFFFFFFFFFFFF ∧
          (∀ f : FieldIx, rd w' (Reg.fieldClk f.val) = 0xC0000000) ∧ w'.opt.copy = (if (copyFault (flashRead s.w (copyBase 0) 0x4000)).isSome then 1 else 0) ∧
          w'.serve = { s.w.serve with winStart := s.w.dev.time + n }))))

/-- R398, R499 to R503: resets of fields, gateways and link ports. -/
def Obligations.BlocksQuiesceResetAndReopen : Prop :=
  (∀ (s : State) (i : BitVec 16) (force : Bool),
    let cmds := fun (P : Instr → Nat → Prop) => P (.field i) 48 ∧ P (.gateway i) 192 ∧ P (.linkPort i force) 8
    (hostAnswers s.w = false ∨ (tripped s.w = true ∧ safeMode s.w = false ∧ i.toNat < 8) →
      cmds (fun c _ => exec c s = .next s)) ∧
    (hostAnswers s.w = true → cmds (fun c n => safeMode s.w = true ∨ n ≤ i.toNat →
      Yields c s (fun w' => rdB w' Reg.rstStatus 27 = true ∧ w' = { s.w with bar0 := w'.bar0 } ∧ ∀ o, o ≠ Reg.rstStatus → rd w' o = rd s.w o))) ∧
    (hostAnswers s.w = true → safeMode s.w = false → tripped s.w = false →
      (∀ f : FieldIx, f.val = i.toNat →
        (fieldLostNow s.w f = true ∨ (fieldState s.w f).reset.isSome = true → exec (.field i) s = .next s) ∧
        (fieldLostNow s.w f = false → (fieldState s.w f).reset = none → parkState s.w f = 0 → Yields (.field i) s (fun w' =>
          fieldState w' f = { fieldState s.w f with
            reset := some ⟨0, 0, s.w.dev.time, true, false⟩
            withheld := { (fieldState s.w f).withheld with reset := true } } ∧
          rdB64 w' Reg.fieldsInReset f.val = true ∧ w'.page = s.w.page ∧ ∀ g, g ≠ f → fieldState w' g = fieldState s.w g))) ∧
      (∀ g : Gateway, g.val = i.toNat →
        ((gwOf s.w g).reset.isSome = true → exec (.gateway i) s = .next s) ∧
        ((gwOf s.w g).reset = none → Yields (.gateway i) s (fun w' => gwOf w' g = { gwOf s.w g with reset := some ⟨0, 0, s.w.dev.time, true, false⟩ } ∧
          w' = { s.w with gws := w'.gws } ∧ ∀ k, k ≠ g → gwOf w' k = gwOf s.w k))) ∧
      (∀ p : PortIx, p.val = i.toNat → let alone := isTwinPort s.w p = true ∧ paired s.w = true ∧ otherTwin s.w p = none ∧ force = false
        (alone → Yields (.linkPort i force) s (fun w' => rdB w' Reg.rstStatus 27 = true ∧ w'.ports = s.w.ports ∧ portState w' p = portState s.w p)) ∧
        (¬alone → (portOf s.w p).reset.isSome = true ∨ portIsolated s.w p = true → exec (.linkPort i force) s = .next s) ∧
        (¬alone → (portOf s.w p).reset = none → portIsolated s.w p = false → Yields (.linkPort i force) s (fun w' => portState w' p = 3 ∧
          portOf w' p = { portOf s.w p with reset := some ⟨0, 0, s.w.dev.time, true, false⟩ } ∧ ∀ q, q ≠ p → portOf w' q = portOf s.w q))))) ∧
  (∀ (s : State) (k : Fin 3) (i n : Nat),
    let applied := fun (late : Bool) w' =>
      (∀ f : FieldIx, k = 0 → f.val = i → (∀ g, fieldStateSeen w' g f = 2) ∧
        (fieldState w' f).reset = (fieldState s.w f).reset.map (fun r => { r with quiescing := false, timedOut := late }) ∧
        ∀ t off, off < 0x1000 → prd w' t off = if tileField t = f then prd W9.reset t off else prd s.w t off) ∧
      (∀ g : Gateway, k = 1 → g.val = i → gwOf w' g = GwS.init ∧ ∀ h, h ≠ g → gwOf w' h = gwOf s.w h) ∧
      (∀ p : PortIx, k = 2 → p.val = i → (portOf w' p).replay = [] ∧ portState w' p = (if canTrain s.w p then 1 else 0) ∧
        (portOf w' p).reset = (portOf s.w p).reset.map (fun r => { r with quiescing := false, timedOut := late }) ∧
        rd w' (Reg.retrains p.val) = satAdd32 (rd s.w (Reg.retrains p.val)) 1)
    (quiescing s.w k i = none ∨ quiesced s.w k i = false → exec (.quiesceComplete k i n) s = .next s) ∧
    (quiescing s.w k i ≠ none → quiesced s.w k i = true → Yields (.quiesceComplete k i n) s (applied false)) ∧
    (quiescing s.w k i = none → exec (.quiesceTimeout k i n) s = .next s) ∧
    (∀ t, quiescing s.w k i = some t →
      (s.w.dev.time < t + quiesceLimit k → exec (.quiesceTimeout k i n) s = .next s) ∧
      (t + quiesceLimit k ≤ s.w.dev.time → Yields (.quiesceTimeout k i n) s (fun w' => applied true w' ∧
        rd w' Reg.blockTimeouts = satAdd32 (rd s.w Reg.blockTimeouts) 1)))) ∧
  (∀ (s : State) (f : FieldIx),
    ((fieldState s.w f).reset = none ∨ fieldLostNow s.w f = true ∨ rdB s.w (Reg.fieldClk f.val) 31 = false → exec (.fieldResetReopen f) s = .next s) ∧
    (∀ r, (fieldState s.w f).reset = some r →
      (r.quiescing = true → exec (.fieldResetReopen f) s = .next s) ∧
      (r.quiescing = false → fieldStateSeen s.w f f = 2 → rdB s.w (Reg.fieldClk f.val) 31 = true → refillDue s.w f = false → rungNow s.w = none →
        imageRuns s.w = false → parkState s.w f = 0 → Yields (.fieldResetReopen f) s (fun w' => (∀ g, fieldStateSeen w' g f = 0) ∧
          fieldState w' f = { fieldState s.w f with
            reset := none
            withheld := { (fieldState s.w f).withheld with drain := false, reset := false } } ∧
          rdB64 w' Reg.fieldsInReset f.val = false ∧ w'.page = s.w.page))))

/-- R448 to R453: the end of a drain, gating, waking and reopening of a field (Tables 12.6 and 12.7). -/
def Obligations.FieldsDrainGateWakeAndReopen : Prop :=
  ∀ (s : State) (f : FieldIx),
    let p := parkState s.w f
    let lost := fieldLostNow s.w f
    let fs := fieldState s.w f
    let seen := fun (v : Nat) w' => ∀ g, fieldStateSeen w' g f = v
    let others := fun w' => ∀ g, g ≠ f → fieldState w' g = fieldState s.w g ∧ parkState w' g = parkState s.w g
    let zones := fun (v : Nat) w' =>
      let z := fun x => if x = 3 then 3 else v
      rdF w' (Reg.fieldPwr f.val) 31 30 = z (rdF s.w (Reg.fieldPwr f.val) 31 30) ∧
        rdF w' (Reg.fieldPwr f.val) 29 28 = z (rdF s.w (Reg.fieldPwr f.val) 29 28)
    let emptied := fun w' => (∀ t off, off < 0x1000 → prd w' t off = if tileField t = f then prd W9.reset t off else prd s.w t off) ∧
      (fieldState w' f).slots = [] ∧ (fieldState w' f).seams = []
    let stopped := fun w' => seen 1 w' ∧ rdB w' (Reg.fieldClk f.val) 30 = false ∧ (fieldState w' f).parkOrder = false ∧
      rd w' (Reg.parkCount f.val) = satAdd32 (rd s.w (Reg.parkCount f.val)) 1
    let late := fs.drainStart + 200000 ≤ s.w.dev.time
    let gated := fs.stateSince + 100000 ≤ s.w.dev.time
    (p ≠ 1 ∨ lost = true ∨ fieldIdle s.w f = false → exec (.drainEnd f) s = .next s) ∧
    (p = 1 → lost = false → fieldIdle s.w f = true → inHold s.w = false → Yields (.drainEnd f) s (fun w' => stopped w' ∧ parkState w' f = 2 ∧
      fieldState w' f = { fs with parkOrder := false, stateSince := s.w.dev.time } ∧ w'.page = s.w.page ∧ w'.tiles = s.w.tiles ∧ others w')) ∧
    (p = 1 → lost = false → fieldIdle s.w f = true → inHold s.w = true → Yields (.drainEnd f) s (fun w' => stopped w' ∧ parkState w' f = 3 ∧
      zones 0 w' ∧ emptied w')) ∧
    (p ≠ 1 ∨ lost = true ∨ ¬late → exec (.drainAbandon f) s = .next s) ∧
    (p = 1 → lost = false → late → stalledIn s.w f = false → Yields (.drainAbandon f) s (fun w' => parkState w' f = 0 ∧
      rdF w' (Reg.parkStatus f.val) 10 8 = 2 ∧ (fieldState w' f).parkOrder = false ∧ (fieldState w' f).withheld.drain = false ∧
      (fieldState w' f).stateSince = s.w.dev.time ∧ others w')) ∧
    (p = 1 → lost = false → late → stalledIn s.w f = true → s.w.dev.powered = true → s.w.rst.asserted = false → envState s.w ≠ 4 →
      safeMode s.w = false → Yields (.drainAbandon f) s (fun w' => w'.rst.asserted = true ∧ rdF w' Reg.rstCause 7 0 = 5 ∧
        rdF w' Reg.hangInfo 31 28 = 3 ∧ rdF w' Reg.hangInfo 21 16 = f.val ∧ rd64 w' Reg.hangTime = s.w.dev.time % 2 ^ 64 ∧ w'.img = none)) ∧
    (p ≠ 2 ∨ lost = true ∨ clockRuns s.w f = true ∨ ¬gated → exec (.fieldGate f) s = .next s) ∧
    (p = 2 → lost = false → clockRuns s.w f = false → gated → Yields (.fieldGate f) s (fun w' => parkState w' f = 3 ∧ zones 0 w' ∧ emptied w' ∧
      (∀ g h, fieldStateSeen w' g h = fieldStateSeen s.w g h) ∧ rdB w' (Reg.fieldClk f.val) 30 = false)) ∧
    (p ≠ 4 ∨ lost = true ∨ fs.reset.isSome = true → exec (.wakeComplete f) s = .next s) ∧
    (p = 4 → lost = false → fs.reset = none → Yields (.wakeComplete f) s (fun w' => parkState w' f = (if imgState s.w = 2 then 0 else 5) ∧
      seen 0 w' ∧ rdB w' (Reg.fieldClk f.val) 30 = true ∧ zones 1 w' ∧ (fieldState w' f).stateSince = s.w.dev.time ∧ (rungNow s.w = none → emptied w'))) ∧
    (lost = true ∨ (p ≠ 2 ∧ p ≠ 5) ∨ (p = 2 ∧ clockRuns s.w f = false) ∨ (p = 5 ∧ fs.reset.isSome = true) → exec (.fieldReopen f) s = .next s) ∧
    (lost = false → p = 5 → fs.reset = none → Yields (.fieldReopen f) s (fun w' => parkState w' f = 0 ∧
      rd w' (Reg.unparkLast f.val) = BitVec.ofNat 32 (s.w.dev.time - fs.stateSince) ∧ (fieldState w' f).parkHeld = false ∧
      (fs.parkHeld = false → (fieldState w' f).parkOrder = false) ∧
      (fs.parkHeld = true → if rdB64 s.w Reg.imgParkable f.val then (fieldState w' f).parkOrder = true else
        (fieldState w' f).parkOrder = false ∧ rdF w' (Reg.parkStatus f.val) 10 8 = 1) ∧ others w')) ∧
    (lost = false → p = 2 → clockRuns s.w f = true → Yields (.fieldReopen f) s (fun w' => parkState w' f = 0 ∧ seen 0 w' ∧
      (fieldState w' f).parkHeld = false ∧ rd w' (Reg.unparkLast f.val) = rd s.w (Reg.unparkLast f.val) ∧ others w'))

/-- R460 to R467, R478, R487 to R490: sensors, the thermal cap and the CLEAR commands. -/
def Obligations.SensorsThermalCapAndClears : Prop :=
  ∀ s : State,
    (∀ rs, hubRuns s.w = false → exec (.sensorSample rs) s = .next s) ∧
    (∀ rs, hubRuns s.w = true → (rs.map (fun r => r.1)).Nodup → Yields (.sensorSample rs) s (fun w' =>
      (∀ r ∈ rs, r.1 < 246 → rd w' (Reg.pairRaw r.1) = r.2.1 ++ r.2.2) ∧
      (∀ i, i < 246 → (∀ r ∈ rs, r.1 ≠ i) → rd w' (Reg.pairRaw i) = rd s.w (Reg.pairRaw i)) ∧
      (∀ i, i < 246 → rdF w' (Reg.pairCtl i) 15 0 = (tempWord (controlOf w' i)).toNat ∧ rdF w' (Reg.pairCtl i) 17 16 = rdF s.w (Reg.pairCtl i) 17 16) ∧
      rd w' Reg.hottest = (match hotJunction w' with | some v => BitVec.ofNat 32 (v.1 * 0x10000 + (tempWord (some v.2)).toNat) | none => 0x8000) ∧
      rd w' Reg.stackHottest = (match hotStack w' with
        | some v => BitVec.ofNat 32 ((v.1 - 196) * 0x10000 + (tempWord (some v.2)).toNat)
        | none => 0x8000) ∧
      envState w' = if above (hotJunction w') 1839 ∨ above (hotStack w') 1599 then 4 else envState s.w)) ∧
    (∀ (i : Fin 246) a b,
      (booted s.w = false ∨ rdB s.w (Reg.pairCtl i.val) 18 = false → exec (.sensorReferenceCheck i a b) s = .next s) ∧
      (booted s.w = true → rdB s.w (Reg.pairCtl i.val) 18 = true → Yields (.sensorReferenceCheck i a b) s (fun w' =>
        rdB w' (Reg.pairCtl i.val) 18 = false ∧ retired w' i.val false = (retired s.w i.val false || !a) ∧
        retired w' i.val true = (retired s.w i.val true || !b) ∧ (a = true → b = true → i.val ∈ w'.env.checked) ∧
        (retired w' i.val false = true → retired s.w i.val false = false → rdB w' Reg.envErr 1 = true) ∧
        (∀ j, j < 246 → j ≠ i.val → rd w' (Reg.pairCtl j) = rd s.w (Reg.pairCtl j)) ∧
        (imgState s.w ≠ 3 → i.val < 192 → sensorless s.w i.val = false → (∀ q, q < 4 → sensorless w' (i.val / 4 * 4 + q) = true) →
          fieldLostNow w' (Fin.ofNat 48 (i.val / 4)) = true)))) ∧
    (∀ means fix dec pf,
      (booted s.w = false ∨ envState s.w = 4 → exec (.thermalEvaluation means fix dec pf) s = .next s) ∧
      (booted s.w = true → envState s.w ≠ 4 → Yields (.thermalEvaluation means fix dec pf) s (fun w' =>
        (imgState s.w ≠ 3 → runFloor w' = 0 ∧ floor0 w' = 34000) ∧
        (imgState s.w = 3 → runFloor w' = (let m := if s.w.env.imageSince + 100000000 ≤ s.w.dev.time then max s.w.env.pFix fix else s.w.env.pNom.1
          min 34000 (cdiv (105 * m) 100))) ∧
        (∀ f, (fieldState w' f).stackDouble = ((match shownControl s.w (196 + f.val) with | some v => decide (1360 < v) | none => false) ||
          sensorless s.w (196 + f.val))) ∧
        (means = none → w'.env.rJ = s.w.env.rJ ∧ w'.env.rM = s.w.env.rM ∧
          (s.w.env.limitOn = false ∨ hotJunction s.w = none → capTh w' = capTh s.w) ∧
          (s.w.env.limitOn = true → hotJunction s.w ≠ none → capTh w' = min (capTh s.w) (3 * rdF s.w Reg.power5ms 15 0 / 4))) ∧
        (∀ p tj tm tin, means = some (p, tj, tm, tin) →
          let rJ := if 8000 ≤ p then (tj - tin, p) else s.w.env.rJ
          let rM := if 8000 ≤ p then (tm - tin, p) else s.w.env.rM
          let prev := capTh s.w
          let c := min (min (wattsOver (1600 - tin) rJ) (wattsOver (1440 - tin) rM)) (min 34000 (prev + 50))
          let x : Int := 100 * rJ.1 * 1000000
          let y := fun k : Int => k * rdF s.w Reg.rthNom 15 0 * 16 * rJ.2
          w'.env.rJ = rJ ∧ w'.env.rM = rM ∧
          (s.w.env.limitOn = false → capTh w' = (if above (hotJunction s.w) 1600 then min c (98 * prev / 100 : Nat) else c).toNat) ∧
          rdB w' Reg.envStatus 11 = (if rdB s.w Reg.envStatus 11 then decide (¬ x < y 115) else decide (y 125 < x)))))) ∧
    (
      let cool := s.w.env.risingSince + 100000000 ≤ s.w.dev.time ∧ above (hotJunction s.w) 1440 = false ∧ above (hotStack s.w) 1360 = false
      let open_ := hostAnswers s.w = true ∧ safeMode s.w = false
      let refused := fun w' => rdB w' Reg.envErr 3 = true ∧ w' = { s.w with bar0 := w'.bar0 } ∧ ∀ o, o ≠ Reg.envErr → rd w' o = rd s.w o
      (¬open_ → exec .clearEmerg s = .next s ∧ exec .clearTrip s = .next s) ∧
      (open_ → cool → emergency s.w = false → exec .clearEmerg s = .next s) ∧
      (open_ → cool → emergency s.w = true → Yields .clearEmerg s (fun w' => emergency w' = false ∧ capTh w' = 8500 ∧ envState w' = envState s.w ∧
        (class0Work s.w = [] → capNow w' = min 8500 (capExt s.w)))) ∧
      (open_ → ¬cool → Yields .clearEmerg s refused) ∧
      (
        let cold := above (hotJunction s.w) 960 = false ∧ above (hotStack s.w) 960 = false
        (open_ → ¬cold → Yields .clearTrip s refused) ∧
        (open_ → cold → envState s.w ≠ 4 → exec .clearTrip s = .next s) ∧
        (open_ → cold → envState s.w = 4 → s.w.rst.asserted = false →
          (rdB s.w Reg.envStatus 10 = true → Yields .clearTrip s (fun w' => w'.rst.asserted = true ∧ rdF w' Reg.rstCause 7 0 = 8 ∧
            envState w' = 0 ∧ w'.mem.far = s.w.mem.far ∧ w'.serve = Serve.init)) ∧
          (rdB s.w Reg.envStatus 10 = false → Yields .clearTrip s (fun w' => w'.rst.asserted = true ∧ rdF w' Reg.rstCause 7 0 = 9 ∧
            envState w' = 0 ∧ w'.mem = Mem.init ∧ w'.serve = Serve.init)))))

/-- R469, R470, R476, R480 to R484: caps, the class-0 release and hold. -/
def Obligations.CapsReleasesAndHold : Prop :=
  ∀ s : State,
    let c := min (min (capTh s.w) (capExt s.w)) (if emergency s.w then 8500 else 34000)
    let zones := fun (f : FieldIx) (v : Nat) w' =>
      let z := fun x => if x = 3 then 3 else v
      rdF w' (Reg.fieldPwr f.val) 31 30 = z (rdF s.w (Reg.fieldPwr f.val) 31 30) ∧
        rdF w' (Reg.fieldPwr f.val) 29 28 = z (rdF s.w (Reg.fieldPwr f.val) 29 28)
    let decides := booted s.w = true ∧ envState s.w ≠ 4
    (∀ v : Word32,
      (hostAnswers s.w = false ∨ safeMode s.w = true → exec (.hostCapWrite v) s = .next s) ∧
      (hostAnswers s.w = true → safeMode s.w = false →
        let h := v.toNat % 0x10000
        (h = 0 ∨ (5000 ≤ h ∧ h ≤ 34000) → Yields (.hostCapWrite v) s (fun w' => rd w' Reg.hostCap = v &&& 0x8000FFFF ∧
          w' = { s.w with bar0 := w'.bar0 } ∧ ∀ o, o ≠ Reg.hostCap → rd w' o = rd s.w o)) ∧
        (h ≠ 0 → h < 5000 ∨ 34000 < h → Yields (.hostCapWrite v) s (fun w' => rdB w' Reg.envErr 2 = true ∧ rd w' Reg.hostCap = rd s.w Reg.hostCap)))) ∧
    (∀ n room, ¬decides → exec (.envelopeDecision n room) s = .next s) ∧
    (∀ n room, decides → Yields (.envelopeDecision n room) s (fun w' => rdF w' Reg.power5ms 15 0 = n % 0x10000 ∧
      (class0Work s.w = [] → capNow w' = c ∧
        (envState s.w = 2 → envState w' = if 11 * runFloor s.w ≤ 10 * c then 3 else 2) ∧
        (envState s.w ≠ 0 → envState s.w ≠ 2 → envState w' = envState s.w) ∧
        (envState s.w = 0 → envState w' = if c < runFloor s.w ∧ frozen s.w = false then 1 else 0) ∧
        (envState s.w = 0 → c < runFloor s.w → frozen s.w = false → w'.env.holdStart = s.w.dev.time ∧ w'.env.savedPace = s.w.env.pace ∧
          ∀ f, (fieldState w' f).withheld.hold = true)) ∧
      (class0Work s.w ≠ [] → s.w.env.release = none → rdB s.w Reg.hostCap 31 = false → emergency s.w = false →
        (capExt s.w < floor0 s.w → floor0 s.w ≤ capTh s.w → capNow w' = floor0 s.w ∧ rdF w' Reg.envStatus 3 0 = 4 ∧ rdB w' Reg.envStatus 13 = true) ∧
        (capTh s.w < floor0 s.w → rdB w' Reg.envStatus 14 = true ∧ ∃ k, k = (class0Work s.w).length ∧ w'.env.release = some ⟨2, s.w.dev.time, k⟩)))) ∧
    (s.w.env.release = none → exec .class0ReleaseComplete s = .next s ∧ ∀ x, exec (.class0ReleaseHandoffTimeout x) s = .next s) ∧
    (∀ r, s.w.env.release = some r →
      (∀ x, let due := r.cause ≠ 0 ∧ r.started + 2000000 ≤ s.w.dev.time ∧ paired s.w = true ∧ x ∈ own0 s.w ∧ (streamOf s.w x).state ≠ .ending
        (¬due → exec (.class0ReleaseHandoffTimeout x) s = .next s) ∧
        (due → Yields (.class0ReleaseHandoffTimeout x) s (fun w' => (streamOf w' x).state = .ending ∧ (streamOf w' x).endStatus = 0x21 ∧
          (streamOf w' x).endTime = s.w.dev.time ∧ chainOf w' x = [] ∧ w'.env.release = some r))) ∧
      (class0Work s.w ≠ [] → exec .class0ReleaseComplete s = .next s) ∧
      (class0Work s.w = [] → Yields .class0ReleaseComplete s (fun w' => w'.env.release = none ∧ rdB w' Reg.envStatus 14 = false ∧ capNow w' = c))) ∧
    (let quiet := envState s.w = 1 ∧ (holding s.w).all (fieldIdle s.w) = true ∧ s.w.gws.all (fun e => e.2.queue.isEmpty) = true ∧
        ∀ f, fieldLostNow s.w f = false → parkState s.w f ∉ [1, 4, 5]
     (¬quiet → exec .holdQuiesced s = .next s) ∧
     (quiet → Yields .holdQuiesced s (fun w' => envState w' = 2 ∧ rd w' Reg.holdCount = satAdd32 (rd s.w Reg.holdCount) 1 ∧
       (∀ f, (fieldState w' f).stackSelf = true) ∧ w'.env.selfStacks = true ∧ w'.page = s.w.page ∧ w'.tiles = s.w.tiles ∧ w'.serve = s.w.serve ∧
       (∀ f ∈ holding s.w, rdB w' (Reg.fieldClk f.val) 30 = false ∧ zones f 2 w') ∧
       ∀ f, f ∉ holding s.w → rd w' (Reg.fieldPwr f.val) = rd s.w (Reg.fieldPwr f.val) ∧ rd w' (Reg.fieldClk f.val) = rd s.w (Reg.fieldClk f.val)))) ∧
    (∀ f : FieldIx,
      let late := envState s.w = 1 ∧ s.w.env.holdStart + 200000 ≤ s.w.dev.time ∧ f ∈ holding s.w ∧ fieldIdle s.w f = false
      (¬late → exec (.holdAbandon f) s = .next s) ∧
      (late → s.w.dev.powered = true → s.w.rst.asserted = false → safeMode s.w = false → Yields (.holdAbandon f) s (fun w' =>
        w'.rst.asserted = true ∧ rdF w' Reg.rstCause 7 0 = 5 ∧ rdF w' Reg.hangInfo 31 28 = 4 ∧ rdF w' Reg.hangInfo 21 16 = f.val ∧ envState w' = 0))) ∧
    (∀ k, envState s.w ≠ 3 → exec (.holdExitStep k) s = .next s) ∧
    (envState s.w = 3 →
      (s.w.env.selfStacks = true → exec (.holdExitStep .leaveSelf) s = .next s) ∧
      (s.w.env.selfStacks = false → Yields (.holdExitStep .leaveSelf) s (fun w' => (∀ f, (fieldState w' f).stackSelf = false) ∧ w'.tiles = s.w.tiles)) ∧
      (∀ f, let ramps := f ∈ holding s.w ∧ rampDue s.w f ≤ s.w.dev.time ∧ ∀ g, (fieldState s.w g).stackSelf = false
        let clocks := f ∈ holding s.w ∧ clockDue s.w f ≤ s.w.dev.time ∧ logicRuns s.w f = true
        let only := fun off w' => w' = { s.w with bar0 := w'.bar0 } ∧ ∀ o, o ≠ off → rd w' o = rd s.w o
        (¬ramps → exec (.holdExitStep (.rampZone f)) s = .next s) ∧
        (ramps → Yields (.holdExitStep (.rampZone f)) s (fun w' => zones f 1 w' ∧ only (Reg.fieldPwr f.val) w')) ∧
        (¬clocks → exec (.holdExitStep (.restartClock f)) s = .next s) ∧
        (clocks → Yields (.holdExitStep (.restartClock f)) s (fun w' => rdB w' (Reg.fieldClk f.val) 30 = true ∧ only (Reg.fieldClk f.val) w'))) ∧
      (let k := s.w.env.holdStep
       let due := startDue s.w ≤ s.w.dev.time ∧ (holding s.w).all (clockRuns s.w) = true
       let reached := fun w' => w'.env.pace = w'.env.savedPace ∧ w'.env.stretch = w'.env.savedStretch
       let set := fun (n : Nat) w' => w'.env.pace = min (1 + n) s.w.env.savedPace ∧ w'.env.holdStep = n + 1 ∧
         w'.env.stretch = max (beatNs s.w * (7 - n) / (1 + n)) s.w.env.savedStretch
       (¬due ∨ (k ≠ 0 ∧ k ≠ exitStops) → exec (.holdExitStep .beatStart) s = .next s) ∧
       (due → k = 0 → Yields (.holdExitStep .beatStart) s (fun w' => set 0 w' ∧ envState w' = 3 ∧ ∀ f, (fieldState w' f).withheld.hold = false)) ∧
       (due → k = exitStops → Yields (.holdExitStep .beatStart) s (fun w' => envState w' = 1 ∧ w'.env.holdStart = s.w.dev.time ∧
         ∀ f, (fieldState w' f).withheld.hold = true)) ∧
       (k = 0 ∨ k = exitStops ∨ s.w.dev.time < startDue s.w + 500000 * k → exec (.holdExitStep .raiseDuty) s = .next s) ∧
       (1 ≤ k → k ≠ exitStops → startDue s.w + 500000 * k ≤ s.w.dev.time → Yields (.holdExitStep .raiseDuty) s (fun w' => set (min k 7) w' ∧
         (reached w' ∨ 7 ≤ k → envState w' = 0 ∧ rd w' Reg.holdExitLast = BitVec.ofNat 32 (s.w.dev.time - s.w.env.holdDecision)) ∧
         (¬reached w' → k < 7 → envState w' = 3 ∧ rd w' Reg.holdExitLast = rd s.w Reg.holdExitLast)))))

/-- R537, R538, R542, R544, R548, R549: hangs, recovery, replays and RELEASE. -/
def Obligations.HangsAreDetectedAndRecoveryRuns : Prop :=
  ∀ s : State,
    let takes := s.w.rst.asserted = false ∧ envState s.w ≠ 4 ∧ safeMode s.w = false
    let hung := fun (cause field : Nat) w' => w'.rst.asserted = true ∧ rdF w' Reg.rstCause 7 0 = 5 ∧ rdF w' Reg.hangInfo 31 28 = cause ∧
      rdF w' Reg.hangInfo 21 16 = field ∧ rdF w' Reg.hangInfo 9 0 = rdF s.w Reg.hangInfo 9 0 ∧ rdB w' Reg.hangInfo 27 = rdB s.w Reg.hangInfo 27 ∧
      rd64 w' Reg.hangTime = s.w.dev.time % 2 ^ 64 ∧ w'.img = none ∧ w'.mem.far = s.w.mem.far
    let state := fun w' => rdF w' Reg.faultStatus 30 28
    let failed := fun w' => state w' = 6 ∧ w'.img = none ∧ imgState w' = 0 ∧ w'.flt.suspects = [] ∧ w'.flt.replay = none ∧ w'.flt.recovering = false
    let goes := fun (im : ImageS) (h : RecHeader) w' =>
      (recoveryRung s.w im.body h.rung = none → failed w') ∧
      (∀ k g, recoveryRung s.w im.body h.rung = some k → im.body.rungs[k]? = some g → w'.img.isSome = true ∧ imgState w' = 2 ∧
        rdF w' Reg.imgStatus 23 16 = k % 256 ∧ state w' = (if k = h.rung ∧ h.wset ≠ 0 then 3 else 2) ∧
        rd w' Reg.modelVer = (if k = h.rung then h.modelVer else 0))
    (∀ b, booted s.w = false ∨ b = true → exec (.roosterBeat b) s = .next s) ∧
    (booted s.w = true → exec (.roosterBeat false) s = .next { s with w := { s.w with flt := { s.w.flt with beatSeen := true } } }) ∧
    (let e := windowEnds s.w
     (booted s.w = false ∨ s.w.dev.time < e → exec .roosterWindow s = .next s) ∧
     (booted s.w = true → e ≤ s.w.dev.time →
       (s.w.flt.beatSeen = true →
         exec .roosterWindow s = .next { s with w := { s.w with flt := { s.w.flt with beatSeen := false, misses := 0, windowEnd := e } } }) ∧
       (s.w.flt.beatSeen = false → s.w.flt.misses < 2 → Yields .roosterWindow s (fun w' => w'.flt = { s.w.flt with misses := s.w.flt.misses + 1, windowEnd := e } ∧
         rd w' Reg.roosterMisses = satAdd32 (rd s.w Reg.roosterMisses) 1 ∧ w' = { s.w with flt := w'.flt, bar0 := w'.bar0 })) ∧
       (s.w.flt.beatSeen = false → 2 ≤ s.w.flt.misses → takes → Yields .roosterWindow s (hung 1 0x3F)))) ∧
    (∀ f, (plannedEnd s.w f = none → exec (.beatWatch f) s = .next s) ∧
      (∀ t, plannedEnd s.w f = some t → (s.w.dev.time ≤ t + 1000000 → exec (.beatWatch f) s = .next s) ∧
        (t + 1000000 < s.w.dev.time → takes → Yields (.beatWatch f) s (hung 2 f.val)))) ∧
    (booted s.w = false ∨ watchLimit s.w = none → exec .replayWatch s = .next s) ∧
    (∀ t, booted s.w = true → watchLimit s.w = some t → (s.w.dev.time ≤ t → exec .replayWatch s = .next s) ∧
      (t < s.w.dev.time → takes → Yields .replayWatch s (hung 5 0x3F))) ∧
    (booted s.w = false ∨ s.w.flt.recoveryDue = false → exec .recoveryStart s = .next s) ∧
    (booted s.w = true → s.w.flt.recoveryDue = true →
      let good := fun im h g => recoveryHeader s.w = some h ∧ rdB s.w Reg.faultCtrl 31 = true ∧ s.w.checked = some im ∧ imageAgrees s.w h = true ∧
        im.body.rungs[h.rung]? = some g
      ((∀ im h g, ¬good im h g) → Yields .recoveryStart s (fun w' => failed w' ∧ w'.flt.recoveryDue = false)) ∧
      (∀ im h g, good im h g → Yields .recoveryStart s (fun w' => w'.flt.recoveryDue = false ∧
        (h.paired = true → state w' = 1 ∧ w'.flt.recovering = true ∧ w'.flt.waitSince = s.w.dev.time ∧ w'.flt.helloSeen = false ∧ w'.img = some im ∧
          rdF w' Reg.pairStatus 31 30 = 1 ∧ rdB w' Reg.pairCtrl 31 = true ∧ rdB w' Reg.pairCtrl 30 = h.side) ∧
        (h.paired = false → goes im h w')))) ∧
    (booted s.w = false ∨ state s.w ≠ 1 ∨ listenOver s.w = false → exec .recoveryTwinListenEnd s = .next s) ∧
    (booted s.w = true → state s.w = 1 → listenOver s.w = true →
      (s.w.flt.helloSeen = false → s.w.img = none ∨ recoveryHeader s.w = none → Yields .recoveryTwinListenEnd s failed) ∧
      (∀ im h, s.w.flt.helloSeen = false → s.w.img = some im → recoveryHeader s.w = some h → Yields .recoveryTwinListenEnd s (goes im h)) ∧
      (s.w.flt.helloSeen = true → Yields .recoveryTwinListenEnd s (fun w' => rdB w' Reg.faultStatus 27 = true ∧ busyStreams w' = [] ∧
        state w' ≠ 1 ∧ w'.flt.suspects = []))) ∧
    (booted s.w = false ∨ imageRuns s.w = false ∨ rdB s.w Reg.faultCtrl 30 = false → exec .suspectReplay s = .next s) ∧
    (booted s.w = true → imageRuns s.w = true → rdB s.w Reg.faultCtrl 30 = true →
      let l := s.w.flt.suspects.filter (replayable s.w)
      let free := ∀ r, s.w.flt.replay = some r → replayable s.w r.stream = false
      let kept := fun w' => w'.flt.suspects = l ∧ rdF w' Reg.faultStatus 10 0 = l.length % 0x800 ∧ w'.serve = s.w.serve
      (¬free → Yields .suspectReplay s (fun w' => kept w' ∧ w'.flt.replay = s.w.flt.replay)) ∧
      (free → (∀ x ∈ l, (streamOf s.w x).cls.toNat = 3) → Yields .suspectReplay s (fun w' => kept w' ∧ w'.flt.replay = none)) ∧
      (free → (∃ x ∈ l, (streamOf s.w x).cls.toNat ≠ 3) → Yields .suspectReplay s (fun w' => kept w' ∧ rdB w' Reg.hangInfo 27 = true ∧
        ∃ x ∈ l, (∀ y ∈ l, (streamOf s.w x).cls.toNat ≤ (streamOf s.w y).cls.toNat) ∧
          w'.flt.replay = some ⟨x, s.w.dev.time, 0, false⟩ ∧ rdF w' Reg.hangInfo 9 0 = x.val))) ∧
    (∀ x, (cmdOpen s.w = false → exec (.release x) s = .next s) ∧
      (cmdOpen s.w = true → (streamOf s.w x).state = .quarantined → Yields (.release x) s (fun w' => streamOf w' x = Stream.init ∧
        ∀ y, y ≠ x → streamOf w' y = streamOf s.w y)) ∧
      (cmdOpen s.w = true → (streamOf s.w x).state ≠ .quarantined → Yields (.release x) s (fun w' => rdB w' Reg.faultStatus 26 = true ∧
        w' = { s.w with bar0 := w'.bar0 } ∧ ∀ o, o ≠ Reg.faultStatus → rd w' o = rd s.w o)))

/-- R533 to R536: self-tests; R23, R26, R92, R377, R386: an event and its record. -/
def Obligations.SelfTestsEndAndEventsAreRecorded : Prop :=
  ∀ s : State,
    (∀ u : TestUnit,
      let runs := testsRun s.w = true ∧ fieldStops s.w u = 0
      let left := s.w.flt.tests.filter (fun x => decide (x.unit ≠ u))
      (¬runs ∨ testGap s.w u = false → exec (.selfTestRun u) s = .next s) ∧
      (runs → testGap s.w u = true → Yields (.selfTestRun u) s (fun w' => w' = { s.w with flt := { s.w.flt with tests := w'.flt.tests } } ∧
        (∀ i : Nat, w'.flt.tests[i]? = (s.w.flt.tests[i]?).map (fun x => if x.unit = u ∧ x.started = none then { x with started := some s.w.dev.time } else x)))) ∧
      (∀ r : TestResult,
        ((∀ x ∈ s.w.flt.tests, x.unit = u → x.started = none) → exec (.selfTestEnd u r) s = .next s) ∧
        (¬runs → exec (.selfTestEnd u r) s = .next s) ∧
        (runs → (∃ x ∈ s.w.flt.tests, x.unit = u ∧ x.started ≠ none) → Yields (.selfTestEnd u r) s (fun w' =>
          let counted := fun (all : Nat) (own : Nat → Nat) => rd w' Reg.testsRun = satAdd32 (rd s.w Reg.testsRun) 1 ∧
            rd w' all = satAdd32 (rd s.w all) 1 ∧ ∀ f, unitField u = some f → rd w' (own f.val) = satAdd32 (rd s.w (own f.val)) 1
          let lost := fun (f : FieldIx) (cause : Nat) => imgState s.w ≠ 3 → (∀ g, fieldStateSeen w' g f = 3) ∧ rdF w' (Reg.fieldFault f.val) 30 27 = cause
          let tile := fun (t : Tile) => lost (tileField t) 1 ∧
            (rdB w' (Reg.fieldFault (tileField t).val) 25 = true ∨ rdB w' (Reg.fieldFault (tileField t).val) 24 = true)
          (r = .pass → counted Reg.transients Reg.fieldTransients ∧ w'.flt.tests = left ∧ w'.serve = s.w.serve ∧
            (∀ f, fieldState w' f = fieldState s.w f) ∧
            ∀ f p, u = .supply f p → rdB64 w' Reg.fieldsIlim f.val = false ∧ rdB w' (Reg.droopStatus f.val) 31 = false) ∧
          (r ≠ .pass → counted Reg.lasting Reg.fieldLasting) ∧
          (r ≠ .pass → match u with
            | .bankBank t _ => (r = .stuckBit → w'.flt.tests = left ∧ ∀ f, fieldState w' f = fieldState s.w f) ∧ (r ≠ .stuckBit → lost (tileField t) 7)
            | .opsBank t _ => (r = .stuckBit → w'.flt.tests = left ∧ ∀ f, fieldState w' f = fieldState s.w f) ∧ (r ≠ .stuckBit → lost (tileField t) 7)
            | .gwChannel g _ => lost (gwField g) 3 ∧ rdB w' (Reg.gwErr g.val) 3 = true
            | .routerInput t => tile t
            | .array t => tile t
            | .vector t => tile t
            | .seam f _ => lost f 2
            | .supply f _ => rdB w' (Reg.fieldFault f.val) 26 = true ∧ ∀ g, fieldState w' g = fieldState s.w g
            | .lanes p => (∀ k, r = .fail (some k) → portUp s.w p = true → rdB64 s.w (Reg.laneMap p.val) k.val = true →
                rdB w' (Reg.portErr p.val) 2 = true ∧ (portOf w' p).failed.getLsbD k.val = true) ∧ ∀ g, fieldState w' g = fieldState s.w g
            | .sensorPair i => (∀ k, r = .fail (some k) → retired w' i.val (decide (k ≠ 0)) = true) ∧
                (r = .fail none → sensorless w' i.val = true))))) ∧
      (∀ why : AbandonWhy, (∀ x ∈ s.w.flt.tests, x.unit ≠ u) → exec (.selfTestAbandon u why) s = .next s) ∧
      (∀ why x, s.w.flt.tests.find? (fun x => x.unit == u) = some x →
        let holds := booted s.w = true ∧ (match why with
          | .timeLimit => ∃ t, x.started = some t ∧ t + 10000000000 ≤ s.w.dev.time
          | .park => fieldStops s.w u = 1
          | .reset => fieldStops s.w u = 2
          | .lost => fieldStops s.w u = 3)
        (¬holds → exec (.selfTestAbandon u why) s = .next s) ∧
        (holds → Yields (.selfTestAbandon u why) s (fun w' => rd w' Reg.testsAbandoned = satAdd32 (rd s.w Reg.testsAbandoned) 1 ∧
          w'.flt = { s.w.flt with tests := left } ∧ w'.mem = s.w.mem ∧ w'.page = s.w.page ∧ w'.serve = s.w.serve)))) ∧
    (∀ u c : Word32,
      let opened := windowStart s.w.dev.limits (srcHost, 0x8031)
      let room := rdB s.w Reg.evtCtrl 31 = true ∧ s.w.host.d3hot = false ∧ evtUsed s.w < evtEntries s.w
      (∀ t, opened = some t → s.w.dev.time < t + 1000000 → exec (.aerErrorLogged u c) s = .next s) ∧
      ((∀ t, opened = some t → t + 1000000 ≤ s.w.dev.time) → Yields (.aerErrorLogged u c) s (fun w' =>
        w'.dev.seq = s.w.dev.seq + 1 ∧ windowStart w'.dev.limits (srcHost, 0x8031) = some s.w.dev.time ∧ OnlyEvents s.w w' ∧
        (room → rd w' Reg.evtLost = rd s.w Reg.evtLost ∧ w'.host.evtWait = s.w.host.evtWait ++
          [⟨0x8031, srcHost, 0x0C00, s.w.dev.seq, s.w.dev.time, le 4 u.toNat ++ le 4 c.toNat ++ List.replicate 8 0⟩]) ∧
        (¬room → w'.host.evtWait = s.w.host.evtWait ∧ rd w' Reg.evtLost = satAdd32 (rd s.w Reg.evtLost) 1 ∧ rdB w' Reg.hostifErr 5 = true))))

/-- R77: a ring's ENABLE, and its registers while it is enabled. -/
def Obligations.RingsAreEnabledWithinTheirRules : Prop :=
  ∀ (s : State) (t : Tile) (r : RingIx) (v : Word32),
    let on := ringOn s.w t r
    let base := ringBaseOf s.w t r
    let l := if on then prdF s.w t (Pg.ringCtrl r.val) 4 0 else v.toNat % 32
    let fits := 12 ≤ l ∧ l ≤ 22 ∧ base % 2 ^ l = 0 ∧ inOneStore (isC t) base (2 ^ l) = true
    let kept := fun w' => w' = { s.w with page := w'.page } ∧ prd w' t (Pg.ringBase r.val) = prd s.w t (Pg.ringBase r.val) ∧
      ∀ u off, u ≠ t → off < 0x1000 → prd w' u off = prd s.w u off
    let enabled := fun w' => kept w' ∧ prdF w' t (Pg.ringCtrl r.val) 4 0 = l ∧
      (fits → ringOn w' t r = true ∧ prd w' t (Pg.ringHead r.val) = 0 ∧ prd w' t (Pg.ringTail r.val) = 0 ∧ prd w' t Pg.tileErr = prd s.w t Pg.tileErr) ∧
      (¬fits → ringOn w' t r = false ∧ prdB w' t Pg.tileErr 14 = true ∧ prd w' t (Pg.ringHead r.val) = prd s.w t (Pg.ringHead r.val))
    Yields (.ringEnable t r v) s enabled ∧
    (v.getLsbD 31 = true → enabled (pageWrite t (Pg.ringCtrl r.val) v s.w)) ∧
    (on = true → pageWrite t (Pg.ringBase r.val) v s.w = s.w ∧
      kept (pageWrite t (Pg.ringCtrl r.val) v s.w) ∧
      prdF (pageWrite t (Pg.ringCtrl r.val) v s.w) t (Pg.ringCtrl r.val) 4 0 = prdF s.w t (Pg.ringCtrl r.val) 4 0) ∧
    (dbgOpen s.w = true → dbgTile s.w = some t →
      (on = true → exec (.dbgTilePageAccess true (Pg.ringBase r.val) v) s = .next s) ∧
      (v.getLsbD 31 = true → Yields (.dbgTilePageAccess true (Pg.ringCtrl r.val) v) s enabled))

/-- The canonical form of the memories and register maps is an invariant of every step (log entry 5 names what unlisted bytes read as). -/
def Obligations.EveryStepKeepsTheCanonicalForms : Prop :=
  (∀ s s' : State, MemOk s.w → RegsOk s.w → step s = .next s' → MemOk s'.w ∧ RegsOk s'.w) ∧
  (∀ (w w' : W9), RegsOk w → RegsOk w' → (∀ off, rd w' off = rd w off) → w'.bar0 = w.bar0)
end

