-- ==== Sys2Proof/Laws/Maps.lean ====
section
/-! SUPPORT. Sparse maps: a read after a write, and the canonical form that every write keeps. -/

namespace Sys2Proof.Machine

open Sys2Proof

variable {α : Type}

theorem smGet_smErase_same (d : Nat → α) (m : SMap α) (k : Nat) : smGet d (smErase k m) k = d k := by
  induction m with
  | nil => rfl
  | cons e r ih =>
    simp only [smErase]
    split
    · exact ih
    · rename_i h; simp [smGet, h, ih]

theorem smGet_smErase_ne (d : Nat → α) (m : SMap α) {k j : Nat} (h : j ≠ k) : smGet d (smErase k m) j = smGet d m j := by
  induction m with
  | nil => rfl
  | cons e r ih =>
    simp only [smErase]
    split
    · rename_i hk; simp only [smGet]; rw [if_neg (by omega), ih]
    · simp [smGet, ih]

theorem smGet_smInsert_same (d : Nat → α) (m : SMap α) (k : Nat) (v : α) (h : ∀ e ∈ m, e.1 ≠ k) :
    smGet d (smInsert k v m) k = v := by
  induction m with
  | nil => simp [smInsert, smGet]
  | cons e r ih =>
    simp only [smInsert]
    split
    · simp [smGet]
    · have : e.1 ≠ k := h e (by simp)
      simp [smGet, this, ih (fun x hx => h x (by simp [hx]))]

theorem smGet_smInsert_ne (d : Nat → α) (m : SMap α) {k j : Nat} (v : α) (h : j ≠ k) :
    smGet d (smInsert k v m) j = smGet d m j := by
  induction m with
  | nil => simp [smInsert, smGet, h.symm]
  | cons e r ih =>
    simp only [smInsert]
    split
    · simp [smGet, h.symm]
    · simp [smGet, ih]

theorem smErase_no_key (m : SMap α) (k : Nat) : ∀ e ∈ smErase k m, e.1 ≠ k := by
  induction m with
  | nil => simp [smErase]
  | cons e r ih =>
    simp only [smErase]
    split
    · exact ih
    · rename_i h
      intro x hx
      rcases List.mem_cons.mp hx with rfl | hx
      · exact h
      · exact ih x hx

/-- A read at the key just written gives the value written. -/
@[simp] theorem smGet_smPut_same [DecidableEq α] (d : Nat → α) (m : SMap α) (k : Nat) (v : α) :
    smGet d (smPut d m k v) k = v := by
  unfold smPut
  split
  · rename_i h; rw [smGet_smErase_same, h]
  · exact smGet_smInsert_same d _ k v (smErase_no_key m k)

/-- A write leaves every other key alone. -/
theorem smGet_smPut_ne [DecidableEq α] (d : Nat → α) (m : SMap α) {k j : Nat} (v : α) (h : j ≠ k) :
    smGet d (smPut d m k v) j = smGet d m j := by
  unfold smPut
  split
  · exact smGet_smErase_ne d m h
  · rw [smGet_smInsert_ne d _ v h, smGet_smErase_ne d m h]

theorem smGet_smPut [DecidableEq α] (d : Nat → α) (m : SMap α) (k j : Nat) (v : α) :
    smGet d (smPut d m k v) j = if j = k then v else smGet d m j := by
  split
  · rename_i h; subst h; exact smGet_smPut_same d m j v
  · rename_i h; exact smGet_smPut_ne d m v h

/-! ## The canonical form -/

/-- A lower bound below a canonical map. -/
def smBelow (lo : Option Nat) (k : Nat) : Prop := ∀ l, lo = some l → l < k

theorem smWfFrom_cons [DecidableEq α] (d : Nat → α) (lo : Option Nat) (e : Nat × α) (r : SMap α) :
    smWfFrom d lo (e :: r) = true ↔ smBelow lo e.1 ∧ e.2 ≠ d e.1 ∧ smWfFrom d (some e.1) r = true := by
  cases lo with
  | none => simp [smWfFrom, smBelow]
  | some l => simp [smWfFrom, smBelow, and_assoc]

theorem smWfFrom_mono [DecidableEq α] (d : Nat → α) {a b : Option Nat} (m : SMap α)
    (h : ∀ k, smBelow b k → smBelow a k) (hw : smWfFrom d b m = true) : smWfFrom d a m = true := by
  cases m with
  | nil => rfl
  | cons e r =>
    rw [smWfFrom_cons] at hw ⊢
    exact ⟨h _ hw.1, hw.2⟩

theorem smWfFrom_some_trans [DecidableEq α] (d : Nat → α) {lo : Option Nat} {k : Nat} (m : SMap α) (hk : smBelow lo k)
    (hw : smWfFrom d (some k) m = true) : smWfFrom d lo m = true :=
  smWfFrom_mono d m (fun j hj l hl => lt_trans (hk l hl) (hj k rfl)) hw

theorem smErase_wf [DecidableEq α] (d : Nat → α) (k : Nat) (m : SMap α) :
    ∀ lo, smWfFrom d lo m = true → smWfFrom d lo (smErase k m) = true := by
  induction m with
  | nil => intro lo h; exact h
  | cons e r ih =>
    intro lo h
    have h' := (smWfFrom_cons d lo e r).mp h
    simp only [smErase]
    split
    · exact smWfFrom_some_trans d _ h'.1 (ih _ h'.2.2)
    · exact (smWfFrom_cons d lo e _).mpr ⟨h'.1, h'.2.1, ih _ h'.2.2⟩

theorem smInsert_wf [DecidableEq α] (d : Nat → α) (k : Nat) (v : α) (hv : v ≠ d k) (m : SMap α) :
    ∀ lo, smBelow lo k → (∀ e ∈ m, e.1 ≠ k) → smWfFrom d lo m = true → smWfFrom d lo (smInsert k v m) = true := by
  induction m with
  | nil => intro lo hk _ _; exact (smWfFrom_cons d lo _ _).mpr ⟨hk, hv, rfl⟩
  | cons e r ih =>
    intro lo hk hne h
    have h' := (smWfFrom_cons d lo e r).mp h
    have hek : e.1 ≠ k := hne e (by simp)
    simp only [smInsert]
    split
    · rename_i hlt
      refine (smWfFrom_cons d lo _ _).mpr ⟨hk, hv, (smWfFrom_cons d _ e r).mpr ⟨?_, h'.2⟩⟩
      intro l hl; cases hl; exact hlt
    · rename_i hge
      refine (smWfFrom_cons d lo e _).mpr ⟨h'.1, h'.2.1, ih _ ?_ (fun x hx => hne x (by simp [hx])) h'.2.2⟩
      intro l hl; cases hl; omega

/-- Every write keeps the canonical form. -/
theorem smPut_wf [DecidableEq α] (d : Nat → α) (m : SMap α) (k : Nat) (v : α) (h : smWf d m = true) :
    smWf d (smPut d m k v) = true := by
  unfold smPut
  split
  · exact smErase_wf d k m none h
  · rename_i hv
    exact smInsert_wf d k v hv _ none (by intro l hl; cases hl) (smErase_no_key m k) (smErase_wf d k m none h)

/-- Dropping entries keeps the canonical form. -/
theorem smFilter_wf [DecidableEq α] (d : Nat → α) (p : Nat × α → Bool) (m : SMap α) :
    ∀ lo, smWfFrom d lo m = true → smWfFrom d lo (m.filter p) = true := by
  induction m with
  | nil => intro lo h; exact h
  | cons e r ih =>
    intro lo h
    have h' := (smWfFrom_cons d lo e r).mp h
    by_cases hp : p e = true
    · rw [List.filter_cons_of_pos hp]
      exact (smWfFrom_cons d lo e _).mpr ⟨h'.1, h'.2.1, ih _ h'.2.2⟩
    · rw [List.filter_cons_of_neg hp]
      exact smWfFrom_some_trans d _ h'.1 (ih _ h'.2.2)

/-- Writing bytes in a row keeps a memory's canonical form. -/
theorem putBytes_wf (b : Byte) (l : List Byte) : ∀ (m : List Host.Cell) (k : Nat),
    Memory.wf b m = true → Memory.wf b (putBytes b m k l) = true := by
  induction l with
  | nil => intro m k h; exact h
  | cons x r ih => intro m k h; exact ih _ _ (smPut_wf _ m k x h)

/-- Bytes written in a row leave every other byte alone. -/
theorem smGet_putBytes_out (b : Byte) (l : List Byte) : ∀ (m : List Host.Cell) (k j : Nat), (j < k ∨ k + l.length ≤ j) →
    smGet (fun _ => b) (putBytes b m k l) j = smGet (fun _ => b) m j := by
  induction l with
  | nil => intro m k j _; rfl
  | cons x r ih =>
    intro m k j h
    simp only [List.length_cons] at h
    rw [putBytes, ih _ (k + 1) j (by omega), smGet_smPut_ne _ m x (by omega)]

/-- Bytes written in a row read back. -/
theorem smGet_putBytes_in (b : Byte) (l : List Byte) : ∀ (m : List Host.Cell) (k i : Nat), i < l.length →
    smGet (fun _ => b) (putBytes b m k l) (k + i) = l.getD i b := by
  induction l with
  | nil => intro m k i h; simp at h
  | cons x r ih =>
    intro m k i h
    rw [putBytes]
    cases i with
    | zero => rw [smGet_putBytes_out b r _ (k + 1) (k + 0) (by omega)]; simp
    | succ n =>
      have := ih (smPut (fun _ => b) m k x) (k + 1) n (by simpa using h)
      rw [show k + (n + 1) = k + 1 + n by omega, this]; simp

end Sys2Proof.Machine
end

