-- ==== Sys2Proof/Laws/State.lean ====
section
/-! SUPPORT. One lemma per part of the W9 per update, so that no proof unfolds a record update: what a write of a register, a page register
or an indexed part leaves alone, field by field and as the indexed parts are read. -/

namespace Sys2Proof.Machine

open Sys2Proof

/-! ## wr -/

@[simp] theorem wr_dev (off : Nat) (v : Word32) (w : W9) : (wr off v w).dev = w.dev := rfl
@[simp] theorem wr_page (off : Nat) (v : Word32) (w : W9) : (wr off v w).page = w.page := rfl
@[simp] theorem wr_mem (off : Nat) (v : Word32) (w : W9) : (wr off v w).mem = w.mem := rfl
@[simp] theorem wr_tiles (off : Nat) (v : Word32) (w : W9) : (wr off v w).tiles = w.tiles := rfl
@[simp] theorem wr_routers (off : Nat) (v : Word32) (w : W9) : (wr off v w).routers = w.routers := rfl
@[simp] theorem wr_fields (off : Nat) (v : Word32) (w : W9) : (wr off v w).fields = w.fields := rfl
@[simp] theorem wr_gws (off : Nat) (v : Word32) (w : W9) : (wr off v w).gws = w.gws := rfl
@[simp] theorem wr_prec (off : Nat) (v : Word32) (w : W9) : (wr off v w).prec = w.prec := rfl
@[simp] theorem wr_serve (off : Nat) (v : Word32) (w : W9) : (wr off v w).serve = w.serve := rfl
@[simp] theorem wr_kv (off : Nat) (v : Word32) (w : W9) : (wr off v w).kv = w.kv := rfl
@[simp] theorem wr_wt (off : Nat) (v : Word32) (w : W9) : (wr off v w).wt = w.wt := rfl
@[simp] theorem wr_img (off : Nat) (v : Word32) (w : W9) : (wr off v w).img = w.img := rfl
@[simp] theorem wr_checked (off : Nat) (v : Word32) (w : W9) : (wr off v w).checked = w.checked := rfl
@[simp] theorem wr_dbg (off : Nat) (v : Word32) (w : W9) : (wr off v w).dbg = w.dbg := rfl
@[simp] theorem wr_host (off : Nat) (v : Word32) (w : W9) : (wr off v w).host = w.host := rfl
@[simp] theorem wr_side (off : Nat) (v : Word32) (w : W9) : (wr off v w).side = w.side := rfl
@[simp] theorem wr_ports (off : Nat) (v : Word32) (w : W9) : (wr off v w).ports = w.ports := rfl
@[simp] theorem wr_pair (off : Nat) (v : Word32) (w : W9) : (wr off v w).pair = w.pair := rfl
@[simp] theorem wr_env (off : Nat) (v : Word32) (w : W9) : (wr off v w).env = w.env := rfl
@[simp] theorem wr_rst (off : Nat) (v : Word32) (w : W9) : (wr off v w).rst = w.rst := rfl
@[simp] theorem wr_opt (off : Nat) (v : Word32) (w : W9) : (wr off v w).opt = w.opt := rfl
@[simp] theorem wr_att (off : Nat) (v : Word32) (w : W9) : (wr off v w).att = w.att := rfl
@[simp] theorem wr_flt (off : Nat) (v : Word32) (w : W9) : (wr off v w).flt = w.flt := rfl
@[simp] theorem prd_wr (off : Nat) (v : Word32) (u : Tile) (o : Nat) (w : W9) : prd (wr off v w) u o = prd w u o := rfl
@[simp] theorem tileOf_wr (off : Nat) (v : Word32) (u : Tile) (w : W9) : tileOf (wr off v w) u = tileOf w u := rfl
@[simp] theorem routerOf_wr (off : Nat) (v : Word32) (u : Tile) (w : W9) : routerOf (wr off v w) u = routerOf w u := rfl
@[simp] theorem fieldState_wr (off : Nat) (v : Word32) (j : FieldIx) (w : W9) : fieldState (wr off v w) j = fieldState w j := rfl
@[simp] theorem gwOf_wr (off : Nat) (v : Word32) (j : Gateway) (w : W9) : gwOf (wr off v w) j = gwOf w j := rfl
@[simp] theorem portOf_wr (off : Nat) (v : Word32) (j : PortIx) (w : W9) : portOf (wr off v w) j = portOf w j := rfl
@[simp] theorem streamOf_wr (off : Nat) (v : Word32) (j : StreamIx) (w : W9) : streamOf (wr off v w) j = streamOf w j := rfl
@[simp] theorem layerOf_wr (off : Nat) (v : Word32) (j : LayerIx) (w : W9) : layerOf (wr off v w) j = layerOf w j := rfl

/-! ## wrF -/

@[simp] theorem wrF_dev (off hi lo x : Nat) (w : W9) : (wrF off hi lo x w).dev = w.dev := rfl
@[simp] theorem wrF_page (off hi lo x : Nat) (w : W9) : (wrF off hi lo x w).page = w.page := rfl
@[simp] theorem wrF_mem (off hi lo x : Nat) (w : W9) : (wrF off hi lo x w).mem = w.mem := rfl
@[simp] theorem wrF_tiles (off hi lo x : Nat) (w : W9) : (wrF off hi lo x w).tiles = w.tiles := rfl
@[simp] theorem wrF_routers (off hi lo x : Nat) (w : W9) : (wrF off hi lo x w).routers = w.routers := rfl
@[simp] theorem wrF_fields (off hi lo x : Nat) (w : W9) : (wrF off hi lo x w).fields = w.fields := rfl
@[simp] theorem wrF_gws (off hi lo x : Nat) (w : W9) : (wrF off hi lo x w).gws = w.gws := rfl
@[simp] theorem wrF_prec (off hi lo x : Nat) (w : W9) : (wrF off hi lo x w).prec = w.prec := rfl
@[simp] theorem wrF_serve (off hi lo x : Nat) (w : W9) : (wrF off hi lo x w).serve = w.serve := rfl
@[simp] theorem wrF_kv (off hi lo x : Nat) (w : W9) : (wrF off hi lo x w).kv = w.kv := rfl
@[simp] theorem wrF_wt (off hi lo x : Nat) (w : W9) : (wrF off hi lo x w).wt = w.wt := rfl
@[simp] theorem wrF_img (off hi lo x : Nat) (w : W9) : (wrF off hi lo x w).img = w.img := rfl
@[simp] theorem wrF_checked (off hi lo x : Nat) (w : W9) : (wrF off hi lo x w).checked = w.checked := rfl
@[simp] theorem wrF_dbg (off hi lo x : Nat) (w : W9) : (wrF off hi lo x w).dbg = w.dbg := rfl
@[simp] theorem wrF_host (off hi lo x : Nat) (w : W9) : (wrF off hi lo x w).host = w.host := rfl
@[simp] theorem wrF_side (off hi lo x : Nat) (w : W9) : (wrF off hi lo x w).side = w.side := rfl
@[simp] theorem wrF_ports (off hi lo x : Nat) (w : W9) : (wrF off hi lo x w).ports = w.ports := rfl
@[simp] theorem wrF_pair (off hi lo x : Nat) (w : W9) : (wrF off hi lo x w).pair = w.pair := rfl
@[simp] theorem wrF_env (off hi lo x : Nat) (w : W9) : (wrF off hi lo x w).env = w.env := rfl
@[simp] theorem wrF_rst (off hi lo x : Nat) (w : W9) : (wrF off hi lo x w).rst = w.rst := rfl
@[simp] theorem wrF_opt (off hi lo x : Nat) (w : W9) : (wrF off hi lo x w).opt = w.opt := rfl
@[simp] theorem wrF_att (off hi lo x : Nat) (w : W9) : (wrF off hi lo x w).att = w.att := rfl
@[simp] theorem wrF_flt (off hi lo x : Nat) (w : W9) : (wrF off hi lo x w).flt = w.flt := rfl
@[simp] theorem prd_wrF (off hi lo x : Nat) (u : Tile) (o : Nat) (w : W9) : prd (wrF off hi lo x w) u o = prd w u o := rfl
@[simp] theorem tileOf_wrF (off hi lo x : Nat) (u : Tile) (w : W9) : tileOf (wrF off hi lo x w) u = tileOf w u := rfl
@[simp] theorem routerOf_wrF (off hi lo x : Nat) (u : Tile) (w : W9) : routerOf (wrF off hi lo x w) u = routerOf w u := rfl
@[simp] theorem fieldState_wrF (off hi lo x : Nat) (j : FieldIx) (w : W9) : fieldState (wrF off hi lo x w) j = fieldState w j := rfl
@[simp] theorem gwOf_wrF (off hi lo x : Nat) (j : Gateway) (w : W9) : gwOf (wrF off hi lo x w) j = gwOf w j := rfl
@[simp] theorem portOf_wrF (off hi lo x : Nat) (j : PortIx) (w : W9) : portOf (wrF off hi lo x w) j = portOf w j := rfl
@[simp] theorem streamOf_wrF (off hi lo x : Nat) (j : StreamIx) (w : W9) : streamOf (wrF off hi lo x w) j = streamOf w j := rfl
@[simp] theorem layerOf_wrF (off hi lo x : Nat) (j : LayerIx) (w : W9) : layerOf (wrF off hi lo x w) j = layerOf w j := rfl

/-! ## wrB -/

@[simp] theorem wrB_dev (off i : Nat) (b : Bool) (w : W9) : (wrB off i b w).dev = w.dev := rfl
@[simp] theorem wrB_page (off i : Nat) (b : Bool) (w : W9) : (wrB off i b w).page = w.page := rfl
@[simp] theorem wrB_mem (off i : Nat) (b : Bool) (w : W9) : (wrB off i b w).mem = w.mem := rfl
@[simp] theorem wrB_tiles (off i : Nat) (b : Bool) (w : W9) : (wrB off i b w).tiles = w.tiles := rfl
@[simp] theorem wrB_routers (off i : Nat) (b : Bool) (w : W9) : (wrB off i b w).routers = w.routers := rfl
@[simp] theorem wrB_fields (off i : Nat) (b : Bool) (w : W9) : (wrB off i b w).fields = w.fields := rfl
@[simp] theorem wrB_gws (off i : Nat) (b : Bool) (w : W9) : (wrB off i b w).gws = w.gws := rfl
@[simp] theorem wrB_prec (off i : Nat) (b : Bool) (w : W9) : (wrB off i b w).prec = w.prec := rfl
@[simp] theorem wrB_serve (off i : Nat) (b : Bool) (w : W9) : (wrB off i b w).serve = w.serve := rfl
@[simp] theorem wrB_kv (off i : Nat) (b : Bool) (w : W9) : (wrB off i b w).kv = w.kv := rfl
@[simp] theorem wrB_wt (off i : Nat) (b : Bool) (w : W9) : (wrB off i b w).wt = w.wt := rfl
@[simp] theorem wrB_img (off i : Nat) (b : Bool) (w : W9) : (wrB off i b w).img = w.img := rfl
@[simp] theorem wrB_checked (off i : Nat) (b : Bool) (w : W9) : (wrB off i b w).checked = w.checked := rfl
@[simp] theorem wrB_dbg (off i : Nat) (b : Bool) (w : W9) : (wrB off i b w).dbg = w.dbg := rfl
@[simp] theorem wrB_host (off i : Nat) (b : Bool) (w : W9) : (wrB off i b w).host = w.host := rfl
@[simp] theorem wrB_side (off i : Nat) (b : Bool) (w : W9) : (wrB off i b w).side = w.side := rfl
@[simp] theorem wrB_ports (off i : Nat) (b : Bool) (w : W9) : (wrB off i b w).ports = w.ports := rfl
@[simp] theorem wrB_pair (off i : Nat) (b : Bool) (w : W9) : (wrB off i b w).pair = w.pair := rfl
@[simp] theorem wrB_env (off i : Nat) (b : Bool) (w : W9) : (wrB off i b w).env = w.env := rfl
@[simp] theorem wrB_rst (off i : Nat) (b : Bool) (w : W9) : (wrB off i b w).rst = w.rst := rfl
@[simp] theorem wrB_opt (off i : Nat) (b : Bool) (w : W9) : (wrB off i b w).opt = w.opt := rfl
@[simp] theorem wrB_att (off i : Nat) (b : Bool) (w : W9) : (wrB off i b w).att = w.att := rfl
@[simp] theorem wrB_flt (off i : Nat) (b : Bool) (w : W9) : (wrB off i b w).flt = w.flt := rfl
@[simp] theorem prd_wrB (off i : Nat) (b : Bool) (u : Tile) (o : Nat) (w : W9) : prd (wrB off i b w) u o = prd w u o := rfl
@[simp] theorem tileOf_wrB (off i : Nat) (b : Bool) (u : Tile) (w : W9) : tileOf (wrB off i b w) u = tileOf w u := rfl
@[simp] theorem routerOf_wrB (off i : Nat) (b : Bool) (u : Tile) (w : W9) : routerOf (wrB off i b w) u = routerOf w u := rfl
@[simp] theorem fieldState_wrB (off i : Nat) (b : Bool) (j : FieldIx) (w : W9) : fieldState (wrB off i b w) j = fieldState w j := rfl
@[simp] theorem gwOf_wrB (off i : Nat) (b : Bool) (j : Gateway) (w : W9) : gwOf (wrB off i b w) j = gwOf w j := rfl
@[simp] theorem portOf_wrB (off i : Nat) (b : Bool) (j : PortIx) (w : W9) : portOf (wrB off i b w) j = portOf w j := rfl
@[simp] theorem streamOf_wrB (off i : Nat) (b : Bool) (j : StreamIx) (w : W9) : streamOf (wrB off i b w) j = streamOf w j := rfl
@[simp] theorem layerOf_wrB (off i : Nat) (b : Bool) (j : LayerIx) (w : W9) : layerOf (wrB off i b w) j = layerOf w j := rfl

/-! ## wr64 -/

@[simp] theorem wr64_dev (off v : Nat) (w : W9) : (wr64 off v w).dev = w.dev := rfl
@[simp] theorem wr64_page (off v : Nat) (w : W9) : (wr64 off v w).page = w.page := rfl
@[simp] theorem wr64_mem (off v : Nat) (w : W9) : (wr64 off v w).mem = w.mem := rfl
@[simp] theorem wr64_tiles (off v : Nat) (w : W9) : (wr64 off v w).tiles = w.tiles := rfl
@[simp] theorem wr64_routers (off v : Nat) (w : W9) : (wr64 off v w).routers = w.routers := rfl
@[simp] theorem wr64_fields (off v : Nat) (w : W9) : (wr64 off v w).fields = w.fields := rfl
@[simp] theorem wr64_gws (off v : Nat) (w : W9) : (wr64 off v w).gws = w.gws := rfl
@[simp] theorem wr64_prec (off v : Nat) (w : W9) : (wr64 off v w).prec = w.prec := rfl
@[simp] theorem wr64_serve (off v : Nat) (w : W9) : (wr64 off v w).serve = w.serve := rfl
@[simp] theorem wr64_kv (off v : Nat) (w : W9) : (wr64 off v w).kv = w.kv := rfl
@[simp] theorem wr64_wt (off v : Nat) (w : W9) : (wr64 off v w).wt = w.wt := rfl
@[simp] theorem wr64_img (off v : Nat) (w : W9) : (wr64 off v w).img = w.img := rfl
@[simp] theorem wr64_checked (off v : Nat) (w : W9) : (wr64 off v w).checked = w.checked := rfl
@[simp] theorem wr64_dbg (off v : Nat) (w : W9) : (wr64 off v w).dbg = w.dbg := rfl
@[simp] theorem wr64_host (off v : Nat) (w : W9) : (wr64 off v w).host = w.host := rfl
@[simp] theorem wr64_side (off v : Nat) (w : W9) : (wr64 off v w).side = w.side := rfl
@[simp] theorem wr64_ports (off v : Nat) (w : W9) : (wr64 off v w).ports = w.ports := rfl
@[simp] theorem wr64_pair (off v : Nat) (w : W9) : (wr64 off v w).pair = w.pair := rfl
@[simp] theorem wr64_env (off v : Nat) (w : W9) : (wr64 off v w).env = w.env := rfl
@[simp] theorem wr64_rst (off v : Nat) (w : W9) : (wr64 off v w).rst = w.rst := rfl
@[simp] theorem wr64_opt (off v : Nat) (w : W9) : (wr64 off v w).opt = w.opt := rfl
@[simp] theorem wr64_att (off v : Nat) (w : W9) : (wr64 off v w).att = w.att := rfl
@[simp] theorem wr64_flt (off v : Nat) (w : W9) : (wr64 off v w).flt = w.flt := rfl
@[simp] theorem prd_wr64 (off v : Nat) (u : Tile) (o : Nat) (w : W9) : prd (wr64 off v w) u o = prd w u o := rfl
@[simp] theorem tileOf_wr64 (off v : Nat) (u : Tile) (w : W9) : tileOf (wr64 off v w) u = tileOf w u := rfl
@[simp] theorem routerOf_wr64 (off v : Nat) (u : Tile) (w : W9) : routerOf (wr64 off v w) u = routerOf w u := rfl
@[simp] theorem fieldState_wr64 (off v : Nat) (j : FieldIx) (w : W9) : fieldState (wr64 off v w) j = fieldState w j := rfl
@[simp] theorem gwOf_wr64 (off v : Nat) (j : Gateway) (w : W9) : gwOf (wr64 off v w) j = gwOf w j := rfl
@[simp] theorem portOf_wr64 (off v : Nat) (j : PortIx) (w : W9) : portOf (wr64 off v w) j = portOf w j := rfl
@[simp] theorem streamOf_wr64 (off v : Nat) (j : StreamIx) (w : W9) : streamOf (wr64 off v w) j = streamOf w j := rfl
@[simp] theorem layerOf_wr64 (off v : Nat) (j : LayerIx) (w : W9) : layerOf (wr64 off v w) j = layerOf w j := rfl

/-! ## wrB64 -/

@[simp] theorem wrB64_dev (off i : Nat) (b : Bool) (w : W9) : (wrB64 off i b w).dev = w.dev := rfl
@[simp] theorem wrB64_page (off i : Nat) (b : Bool) (w : W9) : (wrB64 off i b w).page = w.page := rfl
@[simp] theorem wrB64_mem (off i : Nat) (b : Bool) (w : W9) : (wrB64 off i b w).mem = w.mem := rfl
@[simp] theorem wrB64_tiles (off i : Nat) (b : Bool) (w : W9) : (wrB64 off i b w).tiles = w.tiles := rfl
@[simp] theorem wrB64_routers (off i : Nat) (b : Bool) (w : W9) : (wrB64 off i b w).routers = w.routers := rfl
@[simp] theorem wrB64_fields (off i : Nat) (b : Bool) (w : W9) : (wrB64 off i b w).fields = w.fields := rfl
@[simp] theorem wrB64_gws (off i : Nat) (b : Bool) (w : W9) : (wrB64 off i b w).gws = w.gws := rfl
@[simp] theorem wrB64_prec (off i : Nat) (b : Bool) (w : W9) : (wrB64 off i b w).prec = w.prec := rfl
@[simp] theorem wrB64_serve (off i : Nat) (b : Bool) (w : W9) : (wrB64 off i b w).serve = w.serve := rfl
@[simp] theorem wrB64_kv (off i : Nat) (b : Bool) (w : W9) : (wrB64 off i b w).kv = w.kv := rfl
@[simp] theorem wrB64_wt (off i : Nat) (b : Bool) (w : W9) : (wrB64 off i b w).wt = w.wt := rfl
@[simp] theorem wrB64_img (off i : Nat) (b : Bool) (w : W9) : (wrB64 off i b w).img = w.img := rfl
@[simp] theorem wrB64_checked (off i : Nat) (b : Bool) (w : W9) : (wrB64 off i b w).checked = w.checked := rfl
@[simp] theorem wrB64_dbg (off i : Nat) (b : Bool) (w : W9) : (wrB64 off i b w).dbg = w.dbg := rfl
@[simp] theorem wrB64_host (off i : Nat) (b : Bool) (w : W9) : (wrB64 off i b w).host = w.host := rfl
@[simp] theorem wrB64_side (off i : Nat) (b : Bool) (w : W9) : (wrB64 off i b w).side = w.side := rfl
@[simp] theorem wrB64_ports (off i : Nat) (b : Bool) (w : W9) : (wrB64 off i b w).ports = w.ports := rfl
@[simp] theorem wrB64_pair (off i : Nat) (b : Bool) (w : W9) : (wrB64 off i b w).pair = w.pair := rfl
@[simp] theorem wrB64_env (off i : Nat) (b : Bool) (w : W9) : (wrB64 off i b w).env = w.env := rfl
@[simp] theorem wrB64_rst (off i : Nat) (b : Bool) (w : W9) : (wrB64 off i b w).rst = w.rst := rfl
@[simp] theorem wrB64_opt (off i : Nat) (b : Bool) (w : W9) : (wrB64 off i b w).opt = w.opt := rfl
@[simp] theorem wrB64_att (off i : Nat) (b : Bool) (w : W9) : (wrB64 off i b w).att = w.att := rfl
@[simp] theorem wrB64_flt (off i : Nat) (b : Bool) (w : W9) : (wrB64 off i b w).flt = w.flt := rfl
@[simp] theorem prd_wrB64 (off i : Nat) (b : Bool) (u : Tile) (o : Nat) (w : W9) : prd (wrB64 off i b w) u o = prd w u o := rfl
@[simp] theorem tileOf_wrB64 (off i : Nat) (b : Bool) (u : Tile) (w : W9) : tileOf (wrB64 off i b w) u = tileOf w u := rfl
@[simp] theorem routerOf_wrB64 (off i : Nat) (b : Bool) (u : Tile) (w : W9) : routerOf (wrB64 off i b w) u = routerOf w u := rfl
@[simp] theorem fieldState_wrB64 (off i : Nat) (b : Bool) (j : FieldIx) (w : W9) : fieldState (wrB64 off i b w) j = fieldState w j := rfl
@[simp] theorem gwOf_wrB64 (off i : Nat) (b : Bool) (j : Gateway) (w : W9) : gwOf (wrB64 off i b w) j = gwOf w j := rfl
@[simp] theorem portOf_wrB64 (off i : Nat) (b : Bool) (j : PortIx) (w : W9) : portOf (wrB64 off i b w) j = portOf w j := rfl
@[simp] theorem streamOf_wrB64 (off i : Nat) (b : Bool) (j : StreamIx) (w : W9) : streamOf (wrB64 off i b w) j = streamOf w j := rfl
@[simp] theorem layerOf_wrB64 (off i : Nat) (b : Bool) (j : LayerIx) (w : W9) : layerOf (wrB64 off i b w) j = layerOf w j := rfl

/-! ## inc -/

@[simp] theorem inc_dev (off n : Nat) (w : W9) : (inc off n w).dev = w.dev := rfl
@[simp] theorem inc_page (off n : Nat) (w : W9) : (inc off n w).page = w.page := rfl
@[simp] theorem inc_mem (off n : Nat) (w : W9) : (inc off n w).mem = w.mem := rfl
@[simp] theorem inc_tiles (off n : Nat) (w : W9) : (inc off n w).tiles = w.tiles := rfl
@[simp] theorem inc_routers (off n : Nat) (w : W9) : (inc off n w).routers = w.routers := rfl
@[simp] theorem inc_fields (off n : Nat) (w : W9) : (inc off n w).fields = w.fields := rfl
@[simp] theorem inc_gws (off n : Nat) (w : W9) : (inc off n w).gws = w.gws := rfl
@[simp] theorem inc_prec (off n : Nat) (w : W9) : (inc off n w).prec = w.prec := rfl
@[simp] theorem inc_serve (off n : Nat) (w : W9) : (inc off n w).serve = w.serve := rfl
@[simp] theorem inc_kv (off n : Nat) (w : W9) : (inc off n w).kv = w.kv := rfl
@[simp] theorem inc_wt (off n : Nat) (w : W9) : (inc off n w).wt = w.wt := rfl
@[simp] theorem inc_img (off n : Nat) (w : W9) : (inc off n w).img = w.img := rfl
@[simp] theorem inc_checked (off n : Nat) (w : W9) : (inc off n w).checked = w.checked := rfl
@[simp] theorem inc_dbg (off n : Nat) (w : W9) : (inc off n w).dbg = w.dbg := rfl
@[simp] theorem inc_host (off n : Nat) (w : W9) : (inc off n w).host = w.host := rfl
@[simp] theorem inc_side (off n : Nat) (w : W9) : (inc off n w).side = w.side := rfl
@[simp] theorem inc_ports (off n : Nat) (w : W9) : (inc off n w).ports = w.ports := rfl
@[simp] theorem inc_pair (off n : Nat) (w : W9) : (inc off n w).pair = w.pair := rfl
@[simp] theorem inc_env (off n : Nat) (w : W9) : (inc off n w).env = w.env := rfl
@[simp] theorem inc_rst (off n : Nat) (w : W9) : (inc off n w).rst = w.rst := rfl
@[simp] theorem inc_opt (off n : Nat) (w : W9) : (inc off n w).opt = w.opt := rfl
@[simp] theorem inc_att (off n : Nat) (w : W9) : (inc off n w).att = w.att := rfl
@[simp] theorem inc_flt (off n : Nat) (w : W9) : (inc off n w).flt = w.flt := rfl
@[simp] theorem prd_inc (off n : Nat) (u : Tile) (o : Nat) (w : W9) : prd (inc off n w) u o = prd w u o := rfl
@[simp] theorem tileOf_inc (off n : Nat) (u : Tile) (w : W9) : tileOf (inc off n w) u = tileOf w u := rfl
@[simp] theorem routerOf_inc (off n : Nat) (u : Tile) (w : W9) : routerOf (inc off n w) u = routerOf w u := rfl
@[simp] theorem fieldState_inc (off n : Nat) (j : FieldIx) (w : W9) : fieldState (inc off n w) j = fieldState w j := rfl
@[simp] theorem gwOf_inc (off n : Nat) (j : Gateway) (w : W9) : gwOf (inc off n w) j = gwOf w j := rfl
@[simp] theorem portOf_inc (off n : Nat) (j : PortIx) (w : W9) : portOf (inc off n w) j = portOf w j := rfl
@[simp] theorem streamOf_inc (off n : Nat) (j : StreamIx) (w : W9) : streamOf (inc off n w) j = streamOf w j := rfl
@[simp] theorem layerOf_inc (off n : Nat) (j : LayerIx) (w : W9) : layerOf (inc off n w) j = layerOf w j := rfl

/-! ## pwr -/

@[simp] theorem pwr_dev (t : Tile) (off : Nat) (v : Word32) (w : W9) : (pwr t off v w).dev = w.dev := rfl
@[simp] theorem pwr_bar0 (t : Tile) (off : Nat) (v : Word32) (w : W9) : (pwr t off v w).bar0 = w.bar0 := rfl
@[simp] theorem pwr_mem (t : Tile) (off : Nat) (v : Word32) (w : W9) : (pwr t off v w).mem = w.mem := rfl
@[simp] theorem pwr_tiles (t : Tile) (off : Nat) (v : Word32) (w : W9) : (pwr t off v w).tiles = w.tiles := rfl
@[simp] theorem pwr_routers (t : Tile) (off : Nat) (v : Word32) (w : W9) : (pwr t off v w).routers = w.routers := rfl
@[simp] theorem pwr_fields (t : Tile) (off : Nat) (v : Word32) (w : W9) : (pwr t off v w).fields = w.fields := rfl
@[simp] theorem pwr_gws (t : Tile) (off : Nat) (v : Word32) (w : W9) : (pwr t off v w).gws = w.gws := rfl
@[simp] theorem pwr_prec (t : Tile) (off : Nat) (v : Word32) (w : W9) : (pwr t off v w).prec = w.prec := rfl
@[simp] theorem pwr_serve (t : Tile) (off : Nat) (v : Word32) (w : W9) : (pwr t off v w).serve = w.serve := rfl
@[simp] theorem pwr_kv (t : Tile) (off : Nat) (v : Word32) (w : W9) : (pwr t off v w).kv = w.kv := rfl
@[simp] theorem pwr_wt (t : Tile) (off : Nat) (v : Word32) (w : W9) : (pwr t off v w).wt = w.wt := rfl
@[simp] theorem pwr_img (t : Tile) (off : Nat) (v : Word32) (w : W9) : (pwr t off v w).img = w.img := rfl
@[simp] theorem pwr_checked (t : Tile) (off : Nat) (v : Word32) (w : W9) : (pwr t off v w).checked = w.checked := rfl
@[simp] theorem pwr_dbg (t : Tile) (off : Nat) (v : Word32) (w : W9) : (pwr t off v w).dbg = w.dbg := rfl
@[simp] theorem pwr_host (t : Tile) (off : Nat) (v : Word32) (w : W9) : (pwr t off v w).host = w.host := rfl
@[simp] theorem pwr_side (t : Tile) (off : Nat) (v : Word32) (w : W9) : (pwr t off v w).side = w.side := rfl
@[simp] theorem pwr_ports (t : Tile) (off : Nat) (v : Word32) (w : W9) : (pwr t off v w).ports = w.ports := rfl
@[simp] theorem pwr_pair (t : Tile) (off : Nat) (v : Word32) (w : W9) : (pwr t off v w).pair = w.pair := rfl
@[simp] theorem pwr_env (t : Tile) (off : Nat) (v : Word32) (w : W9) : (pwr t off v w).env = w.env := rfl
@[simp] theorem pwr_rst (t : Tile) (off : Nat) (v : Word32) (w : W9) : (pwr t off v w).rst = w.rst := rfl
@[simp] theorem pwr_opt (t : Tile) (off : Nat) (v : Word32) (w : W9) : (pwr t off v w).opt = w.opt := rfl
@[simp] theorem pwr_att (t : Tile) (off : Nat) (v : Word32) (w : W9) : (pwr t off v w).att = w.att := rfl
@[simp] theorem pwr_flt (t : Tile) (off : Nat) (v : Word32) (w : W9) : (pwr t off v w).flt = w.flt := rfl
@[simp] theorem rd_pwr (t : Tile) (off : Nat) (v : Word32) (o : Nat) (w : W9) : rd (pwr t off v w) o = rd w o := rfl
@[simp] theorem tileOf_pwr (t : Tile) (off : Nat) (v : Word32) (u : Tile) (w : W9) : tileOf (pwr t off v w) u = tileOf w u := rfl
@[simp] theorem routerOf_pwr (t : Tile) (off : Nat) (v : Word32) (u : Tile) (w : W9) : routerOf (pwr t off v w) u = routerOf w u := rfl
@[simp] theorem fieldState_pwr (t : Tile) (off : Nat) (v : Word32) (j : FieldIx) (w : W9) : fieldState (pwr t off v w) j = fieldState w j := rfl
@[simp] theorem gwOf_pwr (t : Tile) (off : Nat) (v : Word32) (j : Gateway) (w : W9) : gwOf (pwr t off v w) j = gwOf w j := rfl
@[simp] theorem portOf_pwr (t : Tile) (off : Nat) (v : Word32) (j : PortIx) (w : W9) : portOf (pwr t off v w) j = portOf w j := rfl
@[simp] theorem streamOf_pwr (t : Tile) (off : Nat) (v : Word32) (j : StreamIx) (w : W9) : streamOf (pwr t off v w) j = streamOf w j := rfl
@[simp] theorem layerOf_pwr (t : Tile) (off : Nat) (v : Word32) (j : LayerIx) (w : W9) : layerOf (pwr t off v w) j = layerOf w j := rfl

/-! ## pwrF -/

@[simp] theorem pwrF_dev (t : Tile) (off hi lo x : Nat) (w : W9) : (pwrF t off hi lo x w).dev = w.dev := rfl
@[simp] theorem pwrF_bar0 (t : Tile) (off hi lo x : Nat) (w : W9) : (pwrF t off hi lo x w).bar0 = w.bar0 := rfl
@[simp] theorem pwrF_mem (t : Tile) (off hi lo x : Nat) (w : W9) : (pwrF t off hi lo x w).mem = w.mem := rfl
@[simp] theorem pwrF_tiles (t : Tile) (off hi lo x : Nat) (w : W9) : (pwrF t off hi lo x w).tiles = w.tiles := rfl
@[simp] theorem pwrF_routers (t : Tile) (off hi lo x : Nat) (w : W9) : (pwrF t off hi lo x w).routers = w.routers := rfl
@[simp] theorem pwrF_fields (t : Tile) (off hi lo x : Nat) (w : W9) : (pwrF t off hi lo x w).fields = w.fields := rfl
@[simp] theorem pwrF_gws (t : Tile) (off hi lo x : Nat) (w : W9) : (pwrF t off hi lo x w).gws = w.gws := rfl
@[simp] theorem pwrF_prec (t : Tile) (off hi lo x : Nat) (w : W9) : (pwrF t off hi lo x w).prec = w.prec := rfl
@[simp] theorem pwrF_serve (t : Tile) (off hi lo x : Nat) (w : W9) : (pwrF t off hi lo x w).serve = w.serve := rfl
@[simp] theorem pwrF_kv (t : Tile) (off hi lo x : Nat) (w : W9) : (pwrF t off hi lo x w).kv = w.kv := rfl
@[simp] theorem pwrF_wt (t : Tile) (off hi lo x : Nat) (w : W9) : (pwrF t off hi lo x w).wt = w.wt := rfl
@[simp] theorem pwrF_img (t : Tile) (off hi lo x : Nat) (w : W9) : (pwrF t off hi lo x w).img = w.img := rfl
@[simp] theorem pwrF_checked (t : Tile) (off hi lo x : Nat) (w : W9) : (pwrF t off hi lo x w).checked = w.checked := rfl
@[simp] theorem pwrF_dbg (t : Tile) (off hi lo x : Nat) (w : W9) : (pwrF t off hi lo x w).dbg = w.dbg := rfl
@[simp] theorem pwrF_host (t : Tile) (off hi lo x : Nat) (w : W9) : (pwrF t off hi lo x w).host = w.host := rfl
@[simp] theorem pwrF_side (t : Tile) (off hi lo x : Nat) (w : W9) : (pwrF t off hi lo x w).side = w.side := rfl
@[simp] theorem pwrF_ports (t : Tile) (off hi lo x : Nat) (w : W9) : (pwrF t off hi lo x w).ports = w.ports := rfl
@[simp] theorem pwrF_pair (t : Tile) (off hi lo x : Nat) (w : W9) : (pwrF t off hi lo x w).pair = w.pair := rfl
@[simp] theorem pwrF_env (t : Tile) (off hi lo x : Nat) (w : W9) : (pwrF t off hi lo x w).env = w.env := rfl
@[simp] theorem pwrF_rst (t : Tile) (off hi lo x : Nat) (w : W9) : (pwrF t off hi lo x w).rst = w.rst := rfl
@[simp] theorem pwrF_opt (t : Tile) (off hi lo x : Nat) (w : W9) : (pwrF t off hi lo x w).opt = w.opt := rfl
@[simp] theorem pwrF_att (t : Tile) (off hi lo x : Nat) (w : W9) : (pwrF t off hi lo x w).att = w.att := rfl
@[simp] theorem pwrF_flt (t : Tile) (off hi lo x : Nat) (w : W9) : (pwrF t off hi lo x w).flt = w.flt := rfl
@[simp] theorem rd_pwrF (t : Tile) (off hi lo x : Nat) (o : Nat) (w : W9) : rd (pwrF t off hi lo x w) o = rd w o := rfl
@[simp] theorem tileOf_pwrF (t : Tile) (off hi lo x : Nat) (u : Tile) (w : W9) : tileOf (pwrF t off hi lo x w) u = tileOf w u := rfl
@[simp] theorem routerOf_pwrF (t : Tile) (off hi lo x : Nat) (u : Tile) (w : W9) : routerOf (pwrF t off hi lo x w) u = routerOf w u := rfl
@[simp] theorem fieldState_pwrF (t : Tile) (off hi lo x : Nat) (j : FieldIx) (w : W9) : fieldState (pwrF t off hi lo x w) j = fieldState w j := rfl
@[simp] theorem gwOf_pwrF (t : Tile) (off hi lo x : Nat) (j : Gateway) (w : W9) : gwOf (pwrF t off hi lo x w) j = gwOf w j := rfl
@[simp] theorem portOf_pwrF (t : Tile) (off hi lo x : Nat) (j : PortIx) (w : W9) : portOf (pwrF t off hi lo x w) j = portOf w j := rfl
@[simp] theorem streamOf_pwrF (t : Tile) (off hi lo x : Nat) (j : StreamIx) (w : W9) : streamOf (pwrF t off hi lo x w) j = streamOf w j := rfl
@[simp] theorem layerOf_pwrF (t : Tile) (off hi lo x : Nat) (j : LayerIx) (w : W9) : layerOf (pwrF t off hi lo x w) j = layerOf w j := rfl

/-! ## pwrB -/

@[simp] theorem pwrB_dev (t : Tile) (off i : Nat) (b : Bool) (w : W9) : (pwrB t off i b w).dev = w.dev := rfl
@[simp] theorem pwrB_bar0 (t : Tile) (off i : Nat) (b : Bool) (w : W9) : (pwrB t off i b w).bar0 = w.bar0 := rfl
@[simp] theorem pwrB_mem (t : Tile) (off i : Nat) (b : Bool) (w : W9) : (pwrB t off i b w).mem = w.mem := rfl
@[simp] theorem pwrB_tiles (t : Tile) (off i : Nat) (b : Bool) (w : W9) : (pwrB t off i b w).tiles = w.tiles := rfl
@[simp] theorem pwrB_routers (t : Tile) (off i : Nat) (b : Bool) (w : W9) : (pwrB t off i b w).routers = w.routers := rfl
@[simp] theorem pwrB_fields (t : Tile) (off i : Nat) (b : Bool) (w : W9) : (pwrB t off i b w).fields = w.fields := rfl
@[simp] theorem pwrB_gws (t : Tile) (off i : Nat) (b : Bool) (w : W9) : (pwrB t off i b w).gws = w.gws := rfl
@[simp] theorem pwrB_prec (t : Tile) (off i : Nat) (b : Bool) (w : W9) : (pwrB t off i b w).prec = w.prec := rfl
@[simp] theorem pwrB_serve (t : Tile) (off i : Nat) (b : Bool) (w : W9) : (pwrB t off i b w).serve = w.serve := rfl
@[simp] theorem pwrB_kv (t : Tile) (off i : Nat) (b : Bool) (w : W9) : (pwrB t off i b w).kv = w.kv := rfl
@[simp] theorem pwrB_wt (t : Tile) (off i : Nat) (b : Bool) (w : W9) : (pwrB t off i b w).wt = w.wt := rfl
@[simp] theorem pwrB_img (t : Tile) (off i : Nat) (b : Bool) (w : W9) : (pwrB t off i b w).img = w.img := rfl
@[simp] theorem pwrB_checked (t : Tile) (off i : Nat) (b : Bool) (w : W9) : (pwrB t off i b w).checked = w.checked := rfl
@[simp] theorem pwrB_dbg (t : Tile) (off i : Nat) (b : Bool) (w : W9) : (pwrB t off i b w).dbg = w.dbg := rfl
@[simp] theorem pwrB_host (t : Tile) (off i : Nat) (b : Bool) (w : W9) : (pwrB t off i b w).host = w.host := rfl
@[simp] theorem pwrB_side (t : Tile) (off i : Nat) (b : Bool) (w : W9) : (pwrB t off i b w).side = w.side := rfl
@[simp] theorem pwrB_ports (t : Tile) (off i : Nat) (b : Bool) (w : W9) : (pwrB t off i b w).ports = w.ports := rfl
@[simp] theorem pwrB_pair (t : Tile) (off i : Nat) (b : Bool) (w : W9) : (pwrB t off i b w).pair = w.pair := rfl
@[simp] theorem pwrB_env (t : Tile) (off i : Nat) (b : Bool) (w : W9) : (pwrB t off i b w).env = w.env := rfl
@[simp] theorem pwrB_rst (t : Tile) (off i : Nat) (b : Bool) (w : W9) : (pwrB t off i b w).rst = w.rst := rfl
@[simp] theorem pwrB_opt (t : Tile) (off i : Nat) (b : Bool) (w : W9) : (pwrB t off i b w).opt = w.opt := rfl
@[simp] theorem pwrB_att (t : Tile) (off i : Nat) (b : Bool) (w : W9) : (pwrB t off i b w).att = w.att := rfl
@[simp] theorem pwrB_flt (t : Tile) (off i : Nat) (b : Bool) (w : W9) : (pwrB t off i b w).flt = w.flt := rfl
@[simp] theorem rd_pwrB (t : Tile) (off i : Nat) (b : Bool) (o : Nat) (w : W9) : rd (pwrB t off i b w) o = rd w o := rfl
@[simp] theorem tileOf_pwrB (t : Tile) (off i : Nat) (b : Bool) (u : Tile) (w : W9) : tileOf (pwrB t off i b w) u = tileOf w u := rfl
@[simp] theorem routerOf_pwrB (t : Tile) (off i : Nat) (b : Bool) (u : Tile) (w : W9) : routerOf (pwrB t off i b w) u = routerOf w u := rfl
@[simp] theorem fieldState_pwrB (t : Tile) (off i : Nat) (b : Bool) (j : FieldIx) (w : W9) : fieldState (pwrB t off i b w) j = fieldState w j := rfl
@[simp] theorem gwOf_pwrB (t : Tile) (off i : Nat) (b : Bool) (j : Gateway) (w : W9) : gwOf (pwrB t off i b w) j = gwOf w j := rfl
@[simp] theorem portOf_pwrB (t : Tile) (off i : Nat) (b : Bool) (j : PortIx) (w : W9) : portOf (pwrB t off i b w) j = portOf w j := rfl
@[simp] theorem streamOf_pwrB (t : Tile) (off i : Nat) (b : Bool) (j : StreamIx) (w : W9) : streamOf (pwrB t off i b w) j = streamOf w j := rfl
@[simp] theorem layerOf_pwrB (t : Tile) (off i : Nat) (b : Bool) (j : LayerIx) (w : W9) : layerOf (pwrB t off i b w) j = layerOf w j := rfl

/-! ## pwrB64 -/

@[simp] theorem pwrB64_dev (t : Tile) (off i : Nat) (b : Bool) (w : W9) : (pwrB64 t off i b w).dev = w.dev := rfl
@[simp] theorem pwrB64_bar0 (t : Tile) (off i : Nat) (b : Bool) (w : W9) : (pwrB64 t off i b w).bar0 = w.bar0 := rfl
@[simp] theorem pwrB64_mem (t : Tile) (off i : Nat) (b : Bool) (w : W9) : (pwrB64 t off i b w).mem = w.mem := rfl
@[simp] theorem pwrB64_tiles (t : Tile) (off i : Nat) (b : Bool) (w : W9) : (pwrB64 t off i b w).tiles = w.tiles := rfl
@[simp] theorem pwrB64_routers (t : Tile) (off i : Nat) (b : Bool) (w : W9) : (pwrB64 t off i b w).routers = w.routers := rfl
@[simp] theorem pwrB64_fields (t : Tile) (off i : Nat) (b : Bool) (w : W9) : (pwrB64 t off i b w).fields = w.fields := rfl
@[simp] theorem pwrB64_gws (t : Tile) (off i : Nat) (b : Bool) (w : W9) : (pwrB64 t off i b w).gws = w.gws := rfl
@[simp] theorem pwrB64_prec (t : Tile) (off i : Nat) (b : Bool) (w : W9) : (pwrB64 t off i b w).prec = w.prec := rfl
@[simp] theorem pwrB64_serve (t : Tile) (off i : Nat) (b : Bool) (w : W9) : (pwrB64 t off i b w).serve = w.serve := rfl
@[simp] theorem pwrB64_kv (t : Tile) (off i : Nat) (b : Bool) (w : W9) : (pwrB64 t off i b w).kv = w.kv := rfl
@[simp] theorem pwrB64_wt (t : Tile) (off i : Nat) (b : Bool) (w : W9) : (pwrB64 t off i b w).wt = w.wt := rfl
@[simp] theorem pwrB64_img (t : Tile) (off i : Nat) (b : Bool) (w : W9) : (pwrB64 t off i b w).img = w.img := rfl
@[simp] theorem pwrB64_checked (t : Tile) (off i : Nat) (b : Bool) (w : W9) : (pwrB64 t off i b w).checked = w.checked := rfl
@[simp] theorem pwrB64_dbg (t : Tile) (off i : Nat) (b : Bool) (w : W9) : (pwrB64 t off i b w).dbg = w.dbg := rfl
@[simp] theorem pwrB64_host (t : Tile) (off i : Nat) (b : Bool) (w : W9) : (pwrB64 t off i b w).host = w.host := rfl
@[simp] theorem pwrB64_side (t : Tile) (off i : Nat) (b : Bool) (w : W9) : (pwrB64 t off i b w).side = w.side := rfl
@[simp] theorem pwrB64_ports (t : Tile) (off i : Nat) (b : Bool) (w : W9) : (pwrB64 t off i b w).ports = w.ports := rfl
@[simp] theorem pwrB64_pair (t : Tile) (off i : Nat) (b : Bool) (w : W9) : (pwrB64 t off i b w).pair = w.pair := rfl
@[simp] theorem pwrB64_env (t : Tile) (off i : Nat) (b : Bool) (w : W9) : (pwrB64 t off i b w).env = w.env := rfl
@[simp] theorem pwrB64_rst (t : Tile) (off i : Nat) (b : Bool) (w : W9) : (pwrB64 t off i b w).rst = w.rst := rfl
@[simp] theorem pwrB64_opt (t : Tile) (off i : Nat) (b : Bool) (w : W9) : (pwrB64 t off i b w).opt = w.opt := rfl
@[simp] theorem pwrB64_att (t : Tile) (off i : Nat) (b : Bool) (w : W9) : (pwrB64 t off i b w).att = w.att := rfl
@[simp] theorem pwrB64_flt (t : Tile) (off i : Nat) (b : Bool) (w : W9) : (pwrB64 t off i b w).flt = w.flt := rfl
@[simp] theorem rd_pwrB64 (t : Tile) (off i : Nat) (b : Bool) (o : Nat) (w : W9) : rd (pwrB64 t off i b w) o = rd w o := rfl
@[simp] theorem tileOf_pwrB64 (t : Tile) (off i : Nat) (b : Bool) (u : Tile) (w : W9) : tileOf (pwrB64 t off i b w) u = tileOf w u := rfl
@[simp] theorem routerOf_pwrB64 (t : Tile) (off i : Nat) (b : Bool) (u : Tile) (w : W9) : routerOf (pwrB64 t off i b w) u = routerOf w u := rfl
@[simp] theorem fieldState_pwrB64 (t : Tile) (off i : Nat) (b : Bool) (j : FieldIx) (w : W9) : fieldState (pwrB64 t off i b w) j = fieldState w j := rfl
@[simp] theorem gwOf_pwrB64 (t : Tile) (off i : Nat) (b : Bool) (j : Gateway) (w : W9) : gwOf (pwrB64 t off i b w) j = gwOf w j := rfl
@[simp] theorem portOf_pwrB64 (t : Tile) (off i : Nat) (b : Bool) (j : PortIx) (w : W9) : portOf (pwrB64 t off i b w) j = portOf w j := rfl
@[simp] theorem streamOf_pwrB64 (t : Tile) (off i : Nat) (b : Bool) (j : StreamIx) (w : W9) : streamOf (pwrB64 t off i b w) j = streamOf w j := rfl
@[simp] theorem layerOf_pwrB64 (t : Tile) (off i : Nat) (b : Bool) (j : LayerIx) (w : W9) : layerOf (pwrB64 t off i b w) j = layerOf w j := rfl

/-! ## pwr64 -/

@[simp] theorem pwr64_dev (t : Tile) (off v : Nat) (w : W9) : (pwr64 t off v w).dev = w.dev := rfl
@[simp] theorem pwr64_bar0 (t : Tile) (off v : Nat) (w : W9) : (pwr64 t off v w).bar0 = w.bar0 := rfl
@[simp] theorem pwr64_mem (t : Tile) (off v : Nat) (w : W9) : (pwr64 t off v w).mem = w.mem := rfl
@[simp] theorem pwr64_tiles (t : Tile) (off v : Nat) (w : W9) : (pwr64 t off v w).tiles = w.tiles := rfl
@[simp] theorem pwr64_routers (t : Tile) (off v : Nat) (w : W9) : (pwr64 t off v w).routers = w.routers := rfl
@[simp] theorem pwr64_fields (t : Tile) (off v : Nat) (w : W9) : (pwr64 t off v w).fields = w.fields := rfl
@[simp] theorem pwr64_gws (t : Tile) (off v : Nat) (w : W9) : (pwr64 t off v w).gws = w.gws := rfl
@[simp] theorem pwr64_prec (t : Tile) (off v : Nat) (w : W9) : (pwr64 t off v w).prec = w.prec := rfl
@[simp] theorem pwr64_serve (t : Tile) (off v : Nat) (w : W9) : (pwr64 t off v w).serve = w.serve := rfl
@[simp] theorem pwr64_kv (t : Tile) (off v : Nat) (w : W9) : (pwr64 t off v w).kv = w.kv := rfl
@[simp] theorem pwr64_wt (t : Tile) (off v : Nat) (w : W9) : (pwr64 t off v w).wt = w.wt := rfl
@[simp] theorem pwr64_img (t : Tile) (off v : Nat) (w : W9) : (pwr64 t off v w).img = w.img := rfl
@[simp] theorem pwr64_checked (t : Tile) (off v : Nat) (w : W9) : (pwr64 t off v w).checked = w.checked := rfl
@[simp] theorem pwr64_dbg (t : Tile) (off v : Nat) (w : W9) : (pwr64 t off v w).dbg = w.dbg := rfl
@[simp] theorem pwr64_host (t : Tile) (off v : Nat) (w : W9) : (pwr64 t off v w).host = w.host := rfl
@[simp] theorem pwr64_side (t : Tile) (off v : Nat) (w : W9) : (pwr64 t off v w).side = w.side := rfl
@[simp] theorem pwr64_ports (t : Tile) (off v : Nat) (w : W9) : (pwr64 t off v w).ports = w.ports := rfl
@[simp] theorem pwr64_pair (t : Tile) (off v : Nat) (w : W9) : (pwr64 t off v w).pair = w.pair := rfl
@[simp] theorem pwr64_env (t : Tile) (off v : Nat) (w : W9) : (pwr64 t off v w).env = w.env := rfl
@[simp] theorem pwr64_rst (t : Tile) (off v : Nat) (w : W9) : (pwr64 t off v w).rst = w.rst := rfl
@[simp] theorem pwr64_opt (t : Tile) (off v : Nat) (w : W9) : (pwr64 t off v w).opt = w.opt := rfl
@[simp] theorem pwr64_att (t : Tile) (off v : Nat) (w : W9) : (pwr64 t off v w).att = w.att := rfl
@[simp] theorem pwr64_flt (t : Tile) (off v : Nat) (w : W9) : (pwr64 t off v w).flt = w.flt := rfl
@[simp] theorem rd_pwr64 (t : Tile) (off v : Nat) (o : Nat) (w : W9) : rd (pwr64 t off v w) o = rd w o := rfl
@[simp] theorem tileOf_pwr64 (t : Tile) (off v : Nat) (u : Tile) (w : W9) : tileOf (pwr64 t off v w) u = tileOf w u := rfl
@[simp] theorem routerOf_pwr64 (t : Tile) (off v : Nat) (u : Tile) (w : W9) : routerOf (pwr64 t off v w) u = routerOf w u := rfl
@[simp] theorem fieldState_pwr64 (t : Tile) (off v : Nat) (j : FieldIx) (w : W9) : fieldState (pwr64 t off v w) j = fieldState w j := rfl
@[simp] theorem gwOf_pwr64 (t : Tile) (off v : Nat) (j : Gateway) (w : W9) : gwOf (pwr64 t off v w) j = gwOf w j := rfl
@[simp] theorem portOf_pwr64 (t : Tile) (off v : Nat) (j : PortIx) (w : W9) : portOf (pwr64 t off v w) j = portOf w j := rfl
@[simp] theorem streamOf_pwr64 (t : Tile) (off v : Nat) (j : StreamIx) (w : W9) : streamOf (pwr64 t off v w) j = streamOf w j := rfl
@[simp] theorem layerOf_pwr64 (t : Tile) (off v : Nat) (j : LayerIx) (w : W9) : layerOf (pwr64 t off v w) j = layerOf w j := rfl

/-! ## pinc -/

@[simp] theorem pinc_dev (t : Tile) (off n : Nat) (w : W9) : (pinc t off n w).dev = w.dev := rfl
@[simp] theorem pinc_bar0 (t : Tile) (off n : Nat) (w : W9) : (pinc t off n w).bar0 = w.bar0 := rfl
@[simp] theorem pinc_mem (t : Tile) (off n : Nat) (w : W9) : (pinc t off n w).mem = w.mem := rfl
@[simp] theorem pinc_tiles (t : Tile) (off n : Nat) (w : W9) : (pinc t off n w).tiles = w.tiles := rfl
@[simp] theorem pinc_routers (t : Tile) (off n : Nat) (w : W9) : (pinc t off n w).routers = w.routers := rfl
@[simp] theorem pinc_fields (t : Tile) (off n : Nat) (w : W9) : (pinc t off n w).fields = w.fields := rfl
@[simp] theorem pinc_gws (t : Tile) (off n : Nat) (w : W9) : (pinc t off n w).gws = w.gws := rfl
@[simp] theorem pinc_prec (t : Tile) (off n : Nat) (w : W9) : (pinc t off n w).prec = w.prec := rfl
@[simp] theorem pinc_serve (t : Tile) (off n : Nat) (w : W9) : (pinc t off n w).serve = w.serve := rfl
@[simp] theorem pinc_kv (t : Tile) (off n : Nat) (w : W9) : (pinc t off n w).kv = w.kv := rfl
@[simp] theorem pinc_wt (t : Tile) (off n : Nat) (w : W9) : (pinc t off n w).wt = w.wt := rfl
@[simp] theorem pinc_img (t : Tile) (off n : Nat) (w : W9) : (pinc t off n w).img = w.img := rfl
@[simp] theorem pinc_checked (t : Tile) (off n : Nat) (w : W9) : (pinc t off n w).checked = w.checked := rfl
@[simp] theorem pinc_dbg (t : Tile) (off n : Nat) (w : W9) : (pinc t off n w).dbg = w.dbg := rfl
@[simp] theorem pinc_host (t : Tile) (off n : Nat) (w : W9) : (pinc t off n w).host = w.host := rfl
@[simp] theorem pinc_side (t : Tile) (off n : Nat) (w : W9) : (pinc t off n w).side = w.side := rfl
@[simp] theorem pinc_ports (t : Tile) (off n : Nat) (w : W9) : (pinc t off n w).ports = w.ports := rfl
@[simp] theorem pinc_pair (t : Tile) (off n : Nat) (w : W9) : (pinc t off n w).pair = w.pair := rfl
@[simp] theorem pinc_env (t : Tile) (off n : Nat) (w : W9) : (pinc t off n w).env = w.env := rfl
@[simp] theorem pinc_rst (t : Tile) (off n : Nat) (w : W9) : (pinc t off n w).rst = w.rst := rfl
@[simp] theorem pinc_opt (t : Tile) (off n : Nat) (w : W9) : (pinc t off n w).opt = w.opt := rfl
@[simp] theorem pinc_att (t : Tile) (off n : Nat) (w : W9) : (pinc t off n w).att = w.att := rfl
@[simp] theorem pinc_flt (t : Tile) (off n : Nat) (w : W9) : (pinc t off n w).flt = w.flt := rfl
@[simp] theorem rd_pinc (t : Tile) (off n : Nat) (o : Nat) (w : W9) : rd (pinc t off n w) o = rd w o := rfl
@[simp] theorem tileOf_pinc (t : Tile) (off n : Nat) (u : Tile) (w : W9) : tileOf (pinc t off n w) u = tileOf w u := rfl
@[simp] theorem routerOf_pinc (t : Tile) (off n : Nat) (u : Tile) (w : W9) : routerOf (pinc t off n w) u = routerOf w u := rfl
@[simp] theorem fieldState_pinc (t : Tile) (off n : Nat) (j : FieldIx) (w : W9) : fieldState (pinc t off n w) j = fieldState w j := rfl
@[simp] theorem gwOf_pinc (t : Tile) (off n : Nat) (j : Gateway) (w : W9) : gwOf (pinc t off n w) j = gwOf w j := rfl
@[simp] theorem portOf_pinc (t : Tile) (off n : Nat) (j : PortIx) (w : W9) : portOf (pinc t off n w) j = portOf w j := rfl
@[simp] theorem streamOf_pinc (t : Tile) (off n : Nat) (j : StreamIx) (w : W9) : streamOf (pinc t off n w) j = streamOf w j := rfl
@[simp] theorem layerOf_pinc (t : Tile) (off n : Nat) (j : LayerIx) (w : W9) : layerOf (pinc t off n w) j = layerOf w j := rfl

/-! ## modTile -/

@[simp] theorem modTile_dev (t : Tile) (f : TileS → TileS) (w : W9) : (modTile t f w).dev = w.dev := rfl
@[simp] theorem modTile_bar0 (t : Tile) (f : TileS → TileS) (w : W9) : (modTile t f w).bar0 = w.bar0 := rfl
@[simp] theorem modTile_page (t : Tile) (f : TileS → TileS) (w : W9) : (modTile t f w).page = w.page := rfl
@[simp] theorem modTile_mem (t : Tile) (f : TileS → TileS) (w : W9) : (modTile t f w).mem = w.mem := rfl
@[simp] theorem modTile_routers (t : Tile) (f : TileS → TileS) (w : W9) : (modTile t f w).routers = w.routers := rfl
@[simp] theorem modTile_fields (t : Tile) (f : TileS → TileS) (w : W9) : (modTile t f w).fields = w.fields := rfl
@[simp] theorem modTile_gws (t : Tile) (f : TileS → TileS) (w : W9) : (modTile t f w).gws = w.gws := rfl
@[simp] theorem modTile_prec (t : Tile) (f : TileS → TileS) (w : W9) : (modTile t f w).prec = w.prec := rfl
@[simp] theorem modTile_serve (t : Tile) (f : TileS → TileS) (w : W9) : (modTile t f w).serve = w.serve := rfl
@[simp] theorem modTile_kv (t : Tile) (f : TileS → TileS) (w : W9) : (modTile t f w).kv = w.kv := rfl
@[simp] theorem modTile_wt (t : Tile) (f : TileS → TileS) (w : W9) : (modTile t f w).wt = w.wt := rfl
@[simp] theorem modTile_img (t : Tile) (f : TileS → TileS) (w : W9) : (modTile t f w).img = w.img := rfl
@[simp] theorem modTile_checked (t : Tile) (f : TileS → TileS) (w : W9) : (modTile t f w).checked = w.checked := rfl
@[simp] theorem modTile_dbg (t : Tile) (f : TileS → TileS) (w : W9) : (modTile t f w).dbg = w.dbg := rfl
@[simp] theorem modTile_host (t : Tile) (f : TileS → TileS) (w : W9) : (modTile t f w).host = w.host := rfl
@[simp] theorem modTile_side (t : Tile) (f : TileS → TileS) (w : W9) : (modTile t f w).side = w.side := rfl
@[simp] theorem modTile_ports (t : Tile) (f : TileS → TileS) (w : W9) : (modTile t f w).ports = w.ports := rfl
@[simp] theorem modTile_pair (t : Tile) (f : TileS → TileS) (w : W9) : (modTile t f w).pair = w.pair := rfl
@[simp] theorem modTile_env (t : Tile) (f : TileS → TileS) (w : W9) : (modTile t f w).env = w.env := rfl
@[simp] theorem modTile_rst (t : Tile) (f : TileS → TileS) (w : W9) : (modTile t f w).rst = w.rst := rfl
@[simp] theorem modTile_opt (t : Tile) (f : TileS → TileS) (w : W9) : (modTile t f w).opt = w.opt := rfl
@[simp] theorem modTile_att (t : Tile) (f : TileS → TileS) (w : W9) : (modTile t f w).att = w.att := rfl
@[simp] theorem modTile_flt (t : Tile) (f : TileS → TileS) (w : W9) : (modTile t f w).flt = w.flt := rfl
@[simp] theorem rd_modTile (t : Tile) (f : TileS → TileS) (o : Nat) (w : W9) : rd (modTile t f w) o = rd w o := rfl
@[simp] theorem prd_modTile (t : Tile) (f : TileS → TileS) (u : Tile) (o : Nat) (w : W9) : prd (modTile t f w) u o = prd w u o := rfl
@[simp] theorem routerOf_modTile (t : Tile) (f : TileS → TileS) (u : Tile) (w : W9) : routerOf (modTile t f w) u = routerOf w u := rfl
@[simp] theorem fieldState_modTile (t : Tile) (f : TileS → TileS) (j : FieldIx) (w : W9) : fieldState (modTile t f w) j = fieldState w j := rfl
@[simp] theorem gwOf_modTile (t : Tile) (f : TileS → TileS) (j : Gateway) (w : W9) : gwOf (modTile t f w) j = gwOf w j := rfl
@[simp] theorem portOf_modTile (t : Tile) (f : TileS → TileS) (j : PortIx) (w : W9) : portOf (modTile t f w) j = portOf w j := rfl
@[simp] theorem streamOf_modTile (t : Tile) (f : TileS → TileS) (j : StreamIx) (w : W9) : streamOf (modTile t f w) j = streamOf w j := rfl
@[simp] theorem layerOf_modTile (t : Tile) (f : TileS → TileS) (j : LayerIx) (w : W9) : layerOf (modTile t f w) j = layerOf w j := rfl

/-! ## modField -/

@[simp] theorem modField_dev (i : FieldIx) (f : FieldS → FieldS) (w : W9) : (modField i f w).dev = w.dev := rfl
@[simp] theorem modField_bar0 (i : FieldIx) (f : FieldS → FieldS) (w : W9) : (modField i f w).bar0 = w.bar0 := rfl
@[simp] theorem modField_page (i : FieldIx) (f : FieldS → FieldS) (w : W9) : (modField i f w).page = w.page := rfl
@[simp] theorem modField_mem (i : FieldIx) (f : FieldS → FieldS) (w : W9) : (modField i f w).mem = w.mem := rfl
@[simp] theorem modField_tiles (i : FieldIx) (f : FieldS → FieldS) (w : W9) : (modField i f w).tiles = w.tiles := rfl
@[simp] theorem modField_routers (i : FieldIx) (f : FieldS → FieldS) (w : W9) : (modField i f w).routers = w.routers := rfl
@[simp] theorem modField_gws (i : FieldIx) (f : FieldS → FieldS) (w : W9) : (modField i f w).gws = w.gws := rfl
@[simp] theorem modField_prec (i : FieldIx) (f : FieldS → FieldS) (w : W9) : (modField i f w).prec = w.prec := rfl
@[simp] theorem modField_serve (i : FieldIx) (f : FieldS → FieldS) (w : W9) : (modField i f w).serve = w.serve := rfl
@[simp] theorem modField_kv (i : FieldIx) (f : FieldS → FieldS) (w : W9) : (modField i f w).kv = w.kv := rfl
@[simp] theorem modField_wt (i : FieldIx) (f : FieldS → FieldS) (w : W9) : (modField i f w).wt = w.wt := rfl
@[simp] theorem modField_img (i : FieldIx) (f : FieldS → FieldS) (w : W9) : (modField i f w).img = w.img := rfl
@[simp] theorem modField_checked (i : FieldIx) (f : FieldS → FieldS) (w : W9) : (modField i f w).checked = w.checked := rfl
@[simp] theorem modField_dbg (i : FieldIx) (f : FieldS → FieldS) (w : W9) : (modField i f w).dbg = w.dbg := rfl
@[simp] theorem modField_host (i : FieldIx) (f : FieldS → FieldS) (w : W9) : (modField i f w).host = w.host := rfl
@[simp] theorem modField_side (i : FieldIx) (f : FieldS → FieldS) (w : W9) : (modField i f w).side = w.side := rfl
@[simp] theorem modField_ports (i : FieldIx) (f : FieldS → FieldS) (w : W9) : (modField i f w).ports = w.ports := rfl
@[simp] theorem modField_pair (i : FieldIx) (f : FieldS → FieldS) (w : W9) : (modField i f w).pair = w.pair := rfl
@[simp] theorem modField_env (i : FieldIx) (f : FieldS → FieldS) (w : W9) : (modField i f w).env = w.env := rfl
@[simp] theorem modField_rst (i : FieldIx) (f : FieldS → FieldS) (w : W9) : (modField i f w).rst = w.rst := rfl
@[simp] theorem modField_opt (i : FieldIx) (f : FieldS → FieldS) (w : W9) : (modField i f w).opt = w.opt := rfl
@[simp] theorem modField_att (i : FieldIx) (f : FieldS → FieldS) (w : W9) : (modField i f w).att = w.att := rfl
@[simp] theorem modField_flt (i : FieldIx) (f : FieldS → FieldS) (w : W9) : (modField i f w).flt = w.flt := rfl
@[simp] theorem rd_modField (i : FieldIx) (f : FieldS → FieldS) (o : Nat) (w : W9) : rd (modField i f w) o = rd w o := rfl
@[simp] theorem prd_modField (i : FieldIx) (f : FieldS → FieldS) (u : Tile) (o : Nat) (w : W9) : prd (modField i f w) u o = prd w u o := rfl
@[simp] theorem tileOf_modField (i : FieldIx) (f : FieldS → FieldS) (u : Tile) (w : W9) : tileOf (modField i f w) u = tileOf w u := rfl
@[simp] theorem routerOf_modField (i : FieldIx) (f : FieldS → FieldS) (u : Tile) (w : W9) : routerOf (modField i f w) u = routerOf w u := rfl
@[simp] theorem gwOf_modField (i : FieldIx) (f : FieldS → FieldS) (j : Gateway) (w : W9) : gwOf (modField i f w) j = gwOf w j := rfl
@[simp] theorem portOf_modField (i : FieldIx) (f : FieldS → FieldS) (j : PortIx) (w : W9) : portOf (modField i f w) j = portOf w j := rfl
@[simp] theorem streamOf_modField (i : FieldIx) (f : FieldS → FieldS) (j : StreamIx) (w : W9) : streamOf (modField i f w) j = streamOf w j := rfl
@[simp] theorem layerOf_modField (i : FieldIx) (f : FieldS → FieldS) (j : LayerIx) (w : W9) : layerOf (modField i f w) j = layerOf w j := rfl

/-! ## modGw -/

@[simp] theorem modGw_dev (i : Gateway) (f : GwS → GwS) (w : W9) : (modGw i f w).dev = w.dev := rfl
@[simp] theorem modGw_bar0 (i : Gateway) (f : GwS → GwS) (w : W9) : (modGw i f w).bar0 = w.bar0 := rfl
@[simp] theorem modGw_page (i : Gateway) (f : GwS → GwS) (w : W9) : (modGw i f w).page = w.page := rfl
@[simp] theorem modGw_mem (i : Gateway) (f : GwS → GwS) (w : W9) : (modGw i f w).mem = w.mem := rfl
@[simp] theorem modGw_tiles (i : Gateway) (f : GwS → GwS) (w : W9) : (modGw i f w).tiles = w.tiles := rfl
@[simp] theorem modGw_routers (i : Gateway) (f : GwS → GwS) (w : W9) : (modGw i f w).routers = w.routers := rfl
@[simp] theorem modGw_fields (i : Gateway) (f : GwS → GwS) (w : W9) : (modGw i f w).fields = w.fields := rfl
@[simp] theorem modGw_prec (i : Gateway) (f : GwS → GwS) (w : W9) : (modGw i f w).prec = w.prec := rfl
@[simp] theorem modGw_serve (i : Gateway) (f : GwS → GwS) (w : W9) : (modGw i f w).serve = w.serve := rfl
@[simp] theorem modGw_kv (i : Gateway) (f : GwS → GwS) (w : W9) : (modGw i f w).kv = w.kv := rfl
@[simp] theorem modGw_wt (i : Gateway) (f : GwS → GwS) (w : W9) : (modGw i f w).wt = w.wt := rfl
@[simp] theorem modGw_img (i : Gateway) (f : GwS → GwS) (w : W9) : (modGw i f w).img = w.img := rfl
@[simp] theorem modGw_checked (i : Gateway) (f : GwS → GwS) (w : W9) : (modGw i f w).checked = w.checked := rfl
@[simp] theorem modGw_dbg (i : Gateway) (f : GwS → GwS) (w : W9) : (modGw i f w).dbg = w.dbg := rfl
@[simp] theorem modGw_host (i : Gateway) (f : GwS → GwS) (w : W9) : (modGw i f w).host = w.host := rfl
@[simp] theorem modGw_side (i : Gateway) (f : GwS → GwS) (w : W9) : (modGw i f w).side = w.side := rfl
@[simp] theorem modGw_ports (i : Gateway) (f : GwS → GwS) (w : W9) : (modGw i f w).ports = w.ports := rfl
@[simp] theorem modGw_pair (i : Gateway) (f : GwS → GwS) (w : W9) : (modGw i f w).pair = w.pair := rfl
@[simp] theorem modGw_env (i : Gateway) (f : GwS → GwS) (w : W9) : (modGw i f w).env = w.env := rfl
@[simp] theorem modGw_rst (i : Gateway) (f : GwS → GwS) (w : W9) : (modGw i f w).rst = w.rst := rfl
@[simp] theorem modGw_opt (i : Gateway) (f : GwS → GwS) (w : W9) : (modGw i f w).opt = w.opt := rfl
@[simp] theorem modGw_att (i : Gateway) (f : GwS → GwS) (w : W9) : (modGw i f w).att = w.att := rfl
@[simp] theorem modGw_flt (i : Gateway) (f : GwS → GwS) (w : W9) : (modGw i f w).flt = w.flt := rfl
@[simp] theorem rd_modGw (i : Gateway) (f : GwS → GwS) (o : Nat) (w : W9) : rd (modGw i f w) o = rd w o := rfl
@[simp] theorem prd_modGw (i : Gateway) (f : GwS → GwS) (u : Tile) (o : Nat) (w : W9) : prd (modGw i f w) u o = prd w u o := rfl
@[simp] theorem tileOf_modGw (i : Gateway) (f : GwS → GwS) (u : Tile) (w : W9) : tileOf (modGw i f w) u = tileOf w u := rfl
@[simp] theorem routerOf_modGw (i : Gateway) (f : GwS → GwS) (u : Tile) (w : W9) : routerOf (modGw i f w) u = routerOf w u := rfl
@[simp] theorem fieldState_modGw (i : Gateway) (f : GwS → GwS) (j : FieldIx) (w : W9) : fieldState (modGw i f w) j = fieldState w j := rfl
@[simp] theorem portOf_modGw (i : Gateway) (f : GwS → GwS) (j : PortIx) (w : W9) : portOf (modGw i f w) j = portOf w j := rfl
@[simp] theorem streamOf_modGw (i : Gateway) (f : GwS → GwS) (j : StreamIx) (w : W9) : streamOf (modGw i f w) j = streamOf w j := rfl
@[simp] theorem layerOf_modGw (i : Gateway) (f : GwS → GwS) (j : LayerIx) (w : W9) : layerOf (modGw i f w) j = layerOf w j := rfl

/-! ## modPort -/

@[simp] theorem modPort_dev (i : PortIx) (f : PortS → PortS) (w : W9) : (modPort i f w).dev = w.dev := rfl
@[simp] theorem modPort_bar0 (i : PortIx) (f : PortS → PortS) (w : W9) : (modPort i f w).bar0 = w.bar0 := rfl
@[simp] theorem modPort_page (i : PortIx) (f : PortS → PortS) (w : W9) : (modPort i f w).page = w.page := rfl
@[simp] theorem modPort_mem (i : PortIx) (f : PortS → PortS) (w : W9) : (modPort i f w).mem = w.mem := rfl
@[simp] theorem modPort_tiles (i : PortIx) (f : PortS → PortS) (w : W9) : (modPort i f w).tiles = w.tiles := rfl
@[simp] theorem modPort_routers (i : PortIx) (f : PortS → PortS) (w : W9) : (modPort i f w).routers = w.routers := rfl
@[simp] theorem modPort_fields (i : PortIx) (f : PortS → PortS) (w : W9) : (modPort i f w).fields = w.fields := rfl
@[simp] theorem modPort_gws (i : PortIx) (f : PortS → PortS) (w : W9) : (modPort i f w).gws = w.gws := rfl
@[simp] theorem modPort_prec (i : PortIx) (f : PortS → PortS) (w : W9) : (modPort i f w).prec = w.prec := rfl
@[simp] theorem modPort_serve (i : PortIx) (f : PortS → PortS) (w : W9) : (modPort i f w).serve = w.serve := rfl
@[simp] theorem modPort_kv (i : PortIx) (f : PortS → PortS) (w : W9) : (modPort i f w).kv = w.kv := rfl
@[simp] theorem modPort_wt (i : PortIx) (f : PortS → PortS) (w : W9) : (modPort i f w).wt = w.wt := rfl
@[simp] theorem modPort_img (i : PortIx) (f : PortS → PortS) (w : W9) : (modPort i f w).img = w.img := rfl
@[simp] theorem modPort_checked (i : PortIx) (f : PortS → PortS) (w : W9) : (modPort i f w).checked = w.checked := rfl
@[simp] theorem modPort_dbg (i : PortIx) (f : PortS → PortS) (w : W9) : (modPort i f w).dbg = w.dbg := rfl
@[simp] theorem modPort_host (i : PortIx) (f : PortS → PortS) (w : W9) : (modPort i f w).host = w.host := rfl
@[simp] theorem modPort_side (i : PortIx) (f : PortS → PortS) (w : W9) : (modPort i f w).side = w.side := rfl
@[simp] theorem modPort_pair (i : PortIx) (f : PortS → PortS) (w : W9) : (modPort i f w).pair = w.pair := rfl
@[simp] theorem modPort_env (i : PortIx) (f : PortS → PortS) (w : W9) : (modPort i f w).env = w.env := rfl
@[simp] theorem modPort_rst (i : PortIx) (f : PortS → PortS) (w : W9) : (modPort i f w).rst = w.rst := rfl
@[simp] theorem modPort_opt (i : PortIx) (f : PortS → PortS) (w : W9) : (modPort i f w).opt = w.opt := rfl
@[simp] theorem modPort_att (i : PortIx) (f : PortS → PortS) (w : W9) : (modPort i f w).att = w.att := rfl
@[simp] theorem modPort_flt (i : PortIx) (f : PortS → PortS) (w : W9) : (modPort i f w).flt = w.flt := rfl
@[simp] theorem rd_modPort (i : PortIx) (f : PortS → PortS) (o : Nat) (w : W9) : rd (modPort i f w) o = rd w o := rfl
@[simp] theorem prd_modPort (i : PortIx) (f : PortS → PortS) (u : Tile) (o : Nat) (w : W9) : prd (modPort i f w) u o = prd w u o := rfl
@[simp] theorem tileOf_modPort (i : PortIx) (f : PortS → PortS) (u : Tile) (w : W9) : tileOf (modPort i f w) u = tileOf w u := rfl
@[simp] theorem routerOf_modPort (i : PortIx) (f : PortS → PortS) (u : Tile) (w : W9) : routerOf (modPort i f w) u = routerOf w u := rfl
@[simp] theorem fieldState_modPort (i : PortIx) (f : PortS → PortS) (j : FieldIx) (w : W9) : fieldState (modPort i f w) j = fieldState w j := rfl
@[simp] theorem gwOf_modPort (i : PortIx) (f : PortS → PortS) (j : Gateway) (w : W9) : gwOf (modPort i f w) j = gwOf w j := rfl
@[simp] theorem streamOf_modPort (i : PortIx) (f : PortS → PortS) (j : StreamIx) (w : W9) : streamOf (modPort i f w) j = streamOf w j := rfl
@[simp] theorem layerOf_modPort (i : PortIx) (f : PortS → PortS) (j : LayerIx) (w : W9) : layerOf (modPort i f w) j = layerOf w j := rfl

/-! ## modStream -/

@[simp] theorem modStream_dev (i : StreamIx) (f : Stream → Stream) (w : W9) : (modStream i f w).dev = w.dev := rfl
@[simp] theorem modStream_bar0 (i : StreamIx) (f : Stream → Stream) (w : W9) : (modStream i f w).bar0 = w.bar0 := rfl
@[simp] theorem modStream_page (i : StreamIx) (f : Stream → Stream) (w : W9) : (modStream i f w).page = w.page := rfl
@[simp] theorem modStream_mem (i : StreamIx) (f : Stream → Stream) (w : W9) : (modStream i f w).mem = w.mem := rfl
@[simp] theorem modStream_tiles (i : StreamIx) (f : Stream → Stream) (w : W9) : (modStream i f w).tiles = w.tiles := rfl
@[simp] theorem modStream_routers (i : StreamIx) (f : Stream → Stream) (w : W9) : (modStream i f w).routers = w.routers := rfl
@[simp] theorem modStream_fields (i : StreamIx) (f : Stream → Stream) (w : W9) : (modStream i f w).fields = w.fields := rfl
@[simp] theorem modStream_gws (i : StreamIx) (f : Stream → Stream) (w : W9) : (modStream i f w).gws = w.gws := rfl
@[simp] theorem modStream_prec (i : StreamIx) (f : Stream → Stream) (w : W9) : (modStream i f w).prec = w.prec := rfl
@[simp] theorem modStream_kv (i : StreamIx) (f : Stream → Stream) (w : W9) : (modStream i f w).kv = w.kv := rfl
@[simp] theorem modStream_wt (i : StreamIx) (f : Stream → Stream) (w : W9) : (modStream i f w).wt = w.wt := rfl
@[simp] theorem modStream_img (i : StreamIx) (f : Stream → Stream) (w : W9) : (modStream i f w).img = w.img := rfl
@[simp] theorem modStream_checked (i : StreamIx) (f : Stream → Stream) (w : W9) : (modStream i f w).checked = w.checked := rfl
@[simp] theorem modStream_dbg (i : StreamIx) (f : Stream → Stream) (w : W9) : (modStream i f w).dbg = w.dbg := rfl
@[simp] theorem modStream_host (i : StreamIx) (f : Stream → Stream) (w : W9) : (modStream i f w).host = w.host := rfl
@[simp] theorem modStream_side (i : StreamIx) (f : Stream → Stream) (w : W9) : (modStream i f w).side = w.side := rfl
@[simp] theorem modStream_ports (i : StreamIx) (f : Stream → Stream) (w : W9) : (modStream i f w).ports = w.ports := rfl
@[simp] theorem modStream_pair (i : StreamIx) (f : Stream → Stream) (w : W9) : (modStream i f w).pair = w.pair := rfl
@[simp] theorem modStream_env (i : StreamIx) (f : Stream → Stream) (w : W9) : (modStream i f w).env = w.env := rfl
@[simp] theorem modStream_rst (i : StreamIx) (f : Stream → Stream) (w : W9) : (modStream i f w).rst = w.rst := rfl
@[simp] theorem modStream_opt (i : StreamIx) (f : Stream → Stream) (w : W9) : (modStream i f w).opt = w.opt := rfl
@[simp] theorem modStream_att (i : StreamIx) (f : Stream → Stream) (w : W9) : (modStream i f w).att = w.att := rfl
@[simp] theorem modStream_flt (i : StreamIx) (f : Stream → Stream) (w : W9) : (modStream i f w).flt = w.flt := rfl
@[simp] theorem rd_modStream (i : StreamIx) (f : Stream → Stream) (o : Nat) (w : W9) : rd (modStream i f w) o = rd w o := rfl
@[simp] theorem prd_modStream (i : StreamIx) (f : Stream → Stream) (u : Tile) (o : Nat) (w : W9) : prd (modStream i f w) u o = prd w u o := rfl
@[simp] theorem tileOf_modStream (i : StreamIx) (f : Stream → Stream) (u : Tile) (w : W9) : tileOf (modStream i f w) u = tileOf w u := rfl
@[simp] theorem routerOf_modStream (i : StreamIx) (f : Stream → Stream) (u : Tile) (w : W9) : routerOf (modStream i f w) u = routerOf w u := rfl
@[simp] theorem fieldState_modStream (i : StreamIx) (f : Stream → Stream) (j : FieldIx) (w : W9) : fieldState (modStream i f w) j = fieldState w j := rfl
@[simp] theorem gwOf_modStream (i : StreamIx) (f : Stream → Stream) (j : Gateway) (w : W9) : gwOf (modStream i f w) j = gwOf w j := rfl
@[simp] theorem portOf_modStream (i : StreamIx) (f : Stream → Stream) (j : PortIx) (w : W9) : portOf (modStream i f w) j = portOf w j := rfl
@[simp] theorem layerOf_modStream (i : StreamIx) (f : Stream → Stream) (j : LayerIx) (w : W9) : layerOf (modStream i f w) j = layerOf w j := rfl

/-! ## modLayer -/

@[simp] theorem modLayer_dev (i : LayerIx) (f : LayerS → LayerS) (w : W9) : (modLayer i f w).dev = w.dev := rfl
@[simp] theorem modLayer_bar0 (i : LayerIx) (f : LayerS → LayerS) (w : W9) : (modLayer i f w).bar0 = w.bar0 := rfl
@[simp] theorem modLayer_page (i : LayerIx) (f : LayerS → LayerS) (w : W9) : (modLayer i f w).page = w.page := rfl
@[simp] theorem modLayer_mem (i : LayerIx) (f : LayerS → LayerS) (w : W9) : (modLayer i f w).mem = w.mem := rfl
@[simp] theorem modLayer_tiles (i : LayerIx) (f : LayerS → LayerS) (w : W9) : (modLayer i f w).tiles = w.tiles := rfl
@[simp] theorem modLayer_routers (i : LayerIx) (f : LayerS → LayerS) (w : W9) : (modLayer i f w).routers = w.routers := rfl
@[simp] theorem modLayer_fields (i : LayerIx) (f : LayerS → LayerS) (w : W9) : (modLayer i f w).fields = w.fields := rfl
@[simp] theorem modLayer_gws (i : LayerIx) (f : LayerS → LayerS) (w : W9) : (modLayer i f w).gws = w.gws := rfl
@[simp] theorem modLayer_serve (i : LayerIx) (f : LayerS → LayerS) (w : W9) : (modLayer i f w).serve = w.serve := rfl
@[simp] theorem modLayer_kv (i : LayerIx) (f : LayerS → LayerS) (w : W9) : (modLayer i f w).kv = w.kv := rfl
@[simp] theorem modLayer_wt (i : LayerIx) (f : LayerS → LayerS) (w : W9) : (modLayer i f w).wt = w.wt := rfl
@[simp] theorem modLayer_img (i : LayerIx) (f : LayerS → LayerS) (w : W9) : (modLayer i f w).img = w.img := rfl
@[simp] theorem modLayer_checked (i : LayerIx) (f : LayerS → LayerS) (w : W9) : (modLayer i f w).checked = w.checked := rfl
@[simp] theorem modLayer_dbg (i : LayerIx) (f : LayerS → LayerS) (w : W9) : (modLayer i f w).dbg = w.dbg := rfl
@[simp] theorem modLayer_host (i : LayerIx) (f : LayerS → LayerS) (w : W9) : (modLayer i f w).host = w.host := rfl
@[simp] theorem modLayer_side (i : LayerIx) (f : LayerS → LayerS) (w : W9) : (modLayer i f w).side = w.side := rfl
@[simp] theorem modLayer_ports (i : LayerIx) (f : LayerS → LayerS) (w : W9) : (modLayer i f w).ports = w.ports := rfl
@[simp] theorem modLayer_pair (i : LayerIx) (f : LayerS → LayerS) (w : W9) : (modLayer i f w).pair = w.pair := rfl
@[simp] theorem modLayer_env (i : LayerIx) (f : LayerS → LayerS) (w : W9) : (modLayer i f w).env = w.env := rfl
@[simp] theorem modLayer_rst (i : LayerIx) (f : LayerS → LayerS) (w : W9) : (modLayer i f w).rst = w.rst := rfl
@[simp] theorem modLayer_opt (i : LayerIx) (f : LayerS → LayerS) (w : W9) : (modLayer i f w).opt = w.opt := rfl
@[simp] theorem modLayer_att (i : LayerIx) (f : LayerS → LayerS) (w : W9) : (modLayer i f w).att = w.att := rfl
@[simp] theorem modLayer_flt (i : LayerIx) (f : LayerS → LayerS) (w : W9) : (modLayer i f w).flt = w.flt := rfl
@[simp] theorem rd_modLayer (i : LayerIx) (f : LayerS → LayerS) (o : Nat) (w : W9) : rd (modLayer i f w) o = rd w o := rfl
@[simp] theorem prd_modLayer (i : LayerIx) (f : LayerS → LayerS) (u : Tile) (o : Nat) (w : W9) : prd (modLayer i f w) u o = prd w u o := rfl
@[simp] theorem tileOf_modLayer (i : LayerIx) (f : LayerS → LayerS) (u : Tile) (w : W9) : tileOf (modLayer i f w) u = tileOf w u := rfl
@[simp] theorem routerOf_modLayer (i : LayerIx) (f : LayerS → LayerS) (u : Tile) (w : W9) : routerOf (modLayer i f w) u = routerOf w u := rfl
@[simp] theorem fieldState_modLayer (i : LayerIx) (f : LayerS → LayerS) (j : FieldIx) (w : W9) : fieldState (modLayer i f w) j = fieldState w j := rfl
@[simp] theorem gwOf_modLayer (i : LayerIx) (f : LayerS → LayerS) (j : Gateway) (w : W9) : gwOf (modLayer i f w) j = gwOf w j := rfl
@[simp] theorem portOf_modLayer (i : LayerIx) (f : LayerS → LayerS) (j : PortIx) (w : W9) : portOf (modLayer i f w) j = portOf w j := rfl
@[simp] theorem streamOf_modLayer (i : LayerIx) (f : LayerS → LayerS) (j : StreamIx) (w : W9) : streamOf (modLayer i f w) j = streamOf w j := rfl

/-! ## setRouter -/

@[simp] theorem setRouter_dev (t : Tile) (b : List BufEntry) (w : W9) : (setRouter t b w).dev = w.dev := rfl
@[simp] theorem setRouter_bar0 (t : Tile) (b : List BufEntry) (w : W9) : (setRouter t b w).bar0 = w.bar0 := rfl
@[simp] theorem setRouter_page (t : Tile) (b : List BufEntry) (w : W9) : (setRouter t b w).page = w.page := rfl
@[simp] theorem setRouter_mem (t : Tile) (b : List BufEntry) (w : W9) : (setRouter t b w).mem = w.mem := rfl
@[simp] theorem setRouter_tiles (t : Tile) (b : List BufEntry) (w : W9) : (setRouter t b w).tiles = w.tiles := rfl
@[simp] theorem setRouter_fields (t : Tile) (b : List BufEntry) (w : W9) : (setRouter t b w).fields = w.fields := rfl
@[simp] theorem setRouter_gws (t : Tile) (b : List BufEntry) (w : W9) : (setRouter t b w).gws = w.gws := rfl
@[simp] theorem setRouter_prec (t : Tile) (b : List BufEntry) (w : W9) : (setRouter t b w).prec = w.prec := rfl
@[simp] theorem setRouter_serve (t : Tile) (b : List BufEntry) (w : W9) : (setRouter t b w).serve = w.serve := rfl
@[simp] theorem setRouter_kv (t : Tile) (b : List BufEntry) (w : W9) : (setRouter t b w).kv = w.kv := rfl
@[simp] theorem setRouter_wt (t : Tile) (b : List BufEntry) (w : W9) : (setRouter t b w).wt = w.wt := rfl
@[simp] theorem setRouter_img (t : Tile) (b : List BufEntry) (w : W9) : (setRouter t b w).img = w.img := rfl
@[simp] theorem setRouter_checked (t : Tile) (b : List BufEntry) (w : W9) : (setRouter t b w).checked = w.checked := rfl
@[simp] theorem setRouter_dbg (t : Tile) (b : List BufEntry) (w : W9) : (setRouter t b w).dbg = w.dbg := rfl
@[simp] theorem setRouter_host (t : Tile) (b : List BufEntry) (w : W9) : (setRouter t b w).host = w.host := rfl
@[simp] theorem setRouter_side (t : Tile) (b : List BufEntry) (w : W9) : (setRouter t b w).side = w.side := rfl
@[simp] theorem setRouter_ports (t : Tile) (b : List BufEntry) (w : W9) : (setRouter t b w).ports = w.ports := rfl
@[simp] theorem setRouter_pair (t : Tile) (b : List BufEntry) (w : W9) : (setRouter t b w).pair = w.pair := rfl
@[simp] theorem setRouter_env (t : Tile) (b : List BufEntry) (w : W9) : (setRouter t b w).env = w.env := rfl
@[simp] theorem setRouter_rst (t : Tile) (b : List BufEntry) (w : W9) : (setRouter t b w).rst = w.rst := rfl
@[simp] theorem setRouter_opt (t : Tile) (b : List BufEntry) (w : W9) : (setRouter t b w).opt = w.opt := rfl
@[simp] theorem setRouter_att (t : Tile) (b : List BufEntry) (w : W9) : (setRouter t b w).att = w.att := rfl
@[simp] theorem setRouter_flt (t : Tile) (b : List BufEntry) (w : W9) : (setRouter t b w).flt = w.flt := rfl
@[simp] theorem rd_setRouter (t : Tile) (b : List BufEntry) (o : Nat) (w : W9) : rd (setRouter t b w) o = rd w o := rfl
@[simp] theorem prd_setRouter (t : Tile) (b : List BufEntry) (u : Tile) (o : Nat) (w : W9) : prd (setRouter t b w) u o = prd w u o := rfl
@[simp] theorem tileOf_setRouter (t : Tile) (b : List BufEntry) (u : Tile) (w : W9) : tileOf (setRouter t b w) u = tileOf w u := rfl
@[simp] theorem fieldState_setRouter (t : Tile) (b : List BufEntry) (j : FieldIx) (w : W9) : fieldState (setRouter t b w) j = fieldState w j := rfl
@[simp] theorem gwOf_setRouter (t : Tile) (b : List BufEntry) (j : Gateway) (w : W9) : gwOf (setRouter t b w) j = gwOf w j := rfl
@[simp] theorem portOf_setRouter (t : Tile) (b : List BufEntry) (j : PortIx) (w : W9) : portOf (setRouter t b w) j = portOf w j := rfl
@[simp] theorem streamOf_setRouter (t : Tile) (b : List BufEntry) (j : StreamIx) (w : W9) : streamOf (setRouter t b w) j = streamOf w j := rfl
@[simp] theorem layerOf_setRouter (t : Tile) (b : List BufEntry) (j : LayerIx) (w : W9) : layerOf (setRouter t b w) j = layerOf w j := rfl

/-! ## drawFree -/

@[simp] theorem drawFree_bar0 (n : Nat) (w : W9) : (drawFree n w).bar0 = w.bar0 := rfl
@[simp] theorem drawFree_page (n : Nat) (w : W9) : (drawFree n w).page = w.page := rfl
@[simp] theorem drawFree_mem (n : Nat) (w : W9) : (drawFree n w).mem = w.mem := rfl
@[simp] theorem drawFree_tiles (n : Nat) (w : W9) : (drawFree n w).tiles = w.tiles := rfl
@[simp] theorem drawFree_routers (n : Nat) (w : W9) : (drawFree n w).routers = w.routers := rfl
@[simp] theorem drawFree_fields (n : Nat) (w : W9) : (drawFree n w).fields = w.fields := rfl
@[simp] theorem drawFree_gws (n : Nat) (w : W9) : (drawFree n w).gws = w.gws := rfl
@[simp] theorem drawFree_prec (n : Nat) (w : W9) : (drawFree n w).prec = w.prec := rfl
@[simp] theorem drawFree_serve (n : Nat) (w : W9) : (drawFree n w).serve = w.serve := rfl
@[simp] theorem drawFree_kv (n : Nat) (w : W9) : (drawFree n w).kv = w.kv := rfl
@[simp] theorem drawFree_wt (n : Nat) (w : W9) : (drawFree n w).wt = w.wt := rfl
@[simp] theorem drawFree_img (n : Nat) (w : W9) : (drawFree n w).img = w.img := rfl
@[simp] theorem drawFree_checked (n : Nat) (w : W9) : (drawFree n w).checked = w.checked := rfl
@[simp] theorem drawFree_dbg (n : Nat) (w : W9) : (drawFree n w).dbg = w.dbg := rfl
@[simp] theorem drawFree_host (n : Nat) (w : W9) : (drawFree n w).host = w.host := rfl
@[simp] theorem drawFree_side (n : Nat) (w : W9) : (drawFree n w).side = w.side := rfl
@[simp] theorem drawFree_ports (n : Nat) (w : W9) : (drawFree n w).ports = w.ports := rfl
@[simp] theorem drawFree_pair (n : Nat) (w : W9) : (drawFree n w).pair = w.pair := rfl
@[simp] theorem drawFree_env (n : Nat) (w : W9) : (drawFree n w).env = w.env := rfl
@[simp] theorem drawFree_rst (n : Nat) (w : W9) : (drawFree n w).rst = w.rst := rfl
@[simp] theorem drawFree_opt (n : Nat) (w : W9) : (drawFree n w).opt = w.opt := rfl
@[simp] theorem drawFree_att (n : Nat) (w : W9) : (drawFree n w).att = w.att := rfl
@[simp] theorem drawFree_flt (n : Nat) (w : W9) : (drawFree n w).flt = w.flt := rfl
@[simp] theorem rd_drawFree (n : Nat) (o : Nat) (w : W9) : rd (drawFree n w) o = rd w o := rfl
@[simp] theorem prd_drawFree (n : Nat) (u : Tile) (o : Nat) (w : W9) : prd (drawFree n w) u o = prd w u o := rfl
@[simp] theorem tileOf_drawFree (n : Nat) (u : Tile) (w : W9) : tileOf (drawFree n w) u = tileOf w u := rfl
@[simp] theorem routerOf_drawFree (n : Nat) (u : Tile) (w : W9) : routerOf (drawFree n w) u = routerOf w u := rfl
@[simp] theorem fieldState_drawFree (n : Nat) (j : FieldIx) (w : W9) : fieldState (drawFree n w) j = fieldState w j := rfl
@[simp] theorem gwOf_drawFree (n : Nat) (j : Gateway) (w : W9) : gwOf (drawFree n w) j = gwOf w j := rfl
@[simp] theorem portOf_drawFree (n : Nat) (j : PortIx) (w : W9) : portOf (drawFree n w) j = portOf w j := rfl
@[simp] theorem streamOf_drawFree (n : Nat) (j : StreamIx) (w : W9) : streamOf (drawFree n w) j = streamOf w j := rfl
@[simp] theorem layerOf_drawFree (n : Nat) (j : LayerIx) (w : W9) : layerOf (drawFree n w) j = layerOf w j := rfl

end Sys2Proof.Machine
end

