-- ==== Sys2Proof/Laws/Regs.lean ====
section
/-! SUPPORT. Registers: a read after a write, bit fields, and the parts of the W9 by index after a change. -/

namespace Sys2Proof.Machine

open Sys2Proof

/-! ## Whole dwords -/

@[simp] theorem rd_wr_same (off : Nat) (v : Word32) (w : W9) : rd (wr off v w) off = v := by simp [rd, wr]

theorem rd_wr_ne {off k : Nat} (v : Word32) (w : W9) (h : off ≠ k) : rd (wr k v w) off = rd w off := by
  simp [rd, wr, smGet_smPut_ne _ _ _ h]

theorem rd_wr (off k : Nat) (v : Word32) (w : W9) : rd (wr k v w) off = if off = k then v else rd w off := by
  split
  · rename_i h; subst h; simp
  · rename_i h; exact rd_wr_ne v w h

/-- A read of a register sees the register map alone. -/
theorem rd_of_bar0 {w w' : W9} (h : w'.bar0 = w.bar0) (off : Nat) : rd w' off = rd w off := by simp [rd, h]

@[simp] theorem prd_pwr_same (t : Tile) (off : Nat) (v : Word32) (w : W9) : prd (pwr t off v w) t off = v := by simp [prd, pwr]

theorem prd_pwr_ne {t u : Tile} {off k : Nat} (v : Word32) (w : W9) (h : u.val * 0x1000 + off ≠ t.val * 0x1000 + k) :
    prd (pwr t k v w) u off = prd w u off := by
  simp [prd, pwr, smGet_smPut_ne _ _ _ h]

/-- A read of a page register sees the page map alone. -/
theorem prd_of_page {w w' : W9} (h : w'.page = w.page) (t : Tile) (off : Nat) : prd w' t off = prd w t off := by simp [prd, h]

/-! ## Bits and fields -/

theorem getLsbD_maskOf (n hi lo i : Nat) (h : lo ≤ hi) :
    (maskOf n hi lo).getLsbD i = (decide (i < n) && decide (lo ≤ i) && decide (i ≤ hi)) := by
  simp only [maskOf, BitVec.getLsbD_ofNat]
  rw [Nat.testBit_mul_two_pow]
  by_cases h1 : i < n <;> by_cases h2 : lo ≤ i <;> simp [h1, h2, Nat.testBit_two_pow_sub_one]
  omega

/-- The bits of a word after a field was set. -/
theorem getLsbD_setField {n : Nat} (v : BitVec n) (hi lo x i : Nat) (h : lo ≤ hi) (hi' : i < n) :
    (setField v hi lo x).getLsbD i = if lo ≤ i ∧ i ≤ hi then x.testBit (i - lo) else v.getLsbD i := by
  unfold setField
  simp only [BitVec.getLsbD_or, BitVec.getLsbD_and, BitVec.getLsbD_not, getLsbD_maskOf n hi lo i h, BitVec.getLsbD_ofNat,
    Nat.testBit_mul_two_pow, hi', decide_true, Bool.true_and]
  by_cases h1 : lo ≤ i <;> by_cases h2 : i ≤ hi <;> simp [h1, h2]

theorem testBit_fieldOf {n : Nat} (v : BitVec n) (hi lo j : Nat) :
    (fieldOf v hi lo).testBit j = (decide (j < hi + 1 - lo) && v.getLsbD (lo + j)) := by
  simp only [fieldOf, Nat.testBit_mod_two_pow, Nat.testBit_div_two_pow]
  rw [Nat.add_comm j lo, BitVec.testBit_toNat]

/-- A field reads back what was put into it. -/
theorem fieldOf_setField_same {n : Nat} (v : BitVec n) (hi lo x : Nat) (h : lo ≤ hi) (hn : hi < n) :
    fieldOf (setField v hi lo x) hi lo = x % 2 ^ (hi + 1 - lo) := by
  apply Nat.eq_of_testBit_eq
  intro j
  rw [testBit_fieldOf, Nat.testBit_mod_two_pow]
  by_cases hj : j < hi + 1 - lo
  · rw [getLsbD_setField v hi lo x (lo + j) h (by omega)]
    simp [hj, show lo + j ≤ hi by omega]
  · simp [hj]

/-- A field is untouched by a write of another. -/
theorem fieldOf_setField_ne {n : Nat} (v : BitVec n) (hi lo x a b : Nat) (h : lo ≤ hi) (hb : a < n) (hd : hi < b ∨ a < lo) :
    fieldOf (setField v hi lo x) a b = fieldOf v a b := by
  apply Nat.eq_of_testBit_eq
  intro j
  rw [testBit_fieldOf, testBit_fieldOf]
  by_cases hj : j < a + 1 - b
  · rw [getLsbD_setField v hi lo x (b + j) h (by omega), if_neg (by omega)]
  · simp [hj]

theorem b2n_testBit_zero (b : Bool) : (b2n b).testBit 0 = b := by cases b <;> rfl

/-! ## Fields of registers -/

theorem rdF_wrF_same (off hi lo x : Nat) (w : W9) (h : lo ≤ hi) (hn : hi < 32) :
    rdF (wrF off hi lo x w) off hi lo = x % 2 ^ (hi + 1 - lo) := by
  simp [rdF, wrF, fieldOf_setField_same _ hi lo x h hn]

theorem rdF_wrF_ne (off hi lo x a b : Nat) (w : W9) (h : lo ≤ hi) (ha : a < 32) (hd : hi < b ∨ a < lo) :
    rdF (wrF off hi lo x w) off a b = rdF w off a b := by
  simp [rdF, wrF, fieldOf_setField_ne _ hi lo x a b h ha hd]

theorem rd_wrF_ne {off k : Nat} (hi lo x : Nat) (w : W9) (h : off ≠ k) : rd (wrF k hi lo x w) off = rd w off := by
  simp [wrF, rd_wr_ne _ _ h]

theorem rd_wrB_ne {off k : Nat} (i : Nat) (b : Bool) (w : W9) (h : off ≠ k) : rd (wrB k i b w) off = rd w off := by
  simp [wrB, rd_wrF_ne _ _ _ _ h]

theorem rdB_wrB_same (off i : Nat) (b : Bool) (w : W9) (h : i < 32) : rdB (wrB off i b w) off i = b := by
  cases b <;> simp [rdB, wrB, wrF, getLsbD_setField _ i i _ i (le_refl i) h, b2n]

theorem rdB_wrB_ne (off i j : Nat) (b : Bool) (w : W9) (h : j ≠ i) : rdB (wrB off i b w) off j = rdB w off j := by
  by_cases hj : j < 32
  · simp only [rdB, wrB, wrF, rd_wr_same]
    rw [getLsbD_setField _ i i _ j (le_refl i) hj, if_neg (by omega)]
  · simp [rdB, BitVec.getLsbD_of_ge _ _ (show 32 ≤ j by omega)]

theorem rd_inc_ne {off k : Nat} (n : Nat) (w : W9) (h : off ≠ k) : rd (inc k n w) off = rd w off := by
  simp [inc, rd_wr_ne _ _ h]

@[simp] theorem rd_inc_same (off n : Nat) (w : W9) : rd (inc off n w) off = satAdd32 (rd w off) n := by simp [inc]

/-- A counter stops at 0xFFFF_FFFF. -/
theorem satAdd32_toNat (v : Word32) (n : Nat) : (satAdd32 v n).toNat = min (v.toNat + n) 0xFFFFFFFF := by
  simp only [satAdd32, BitVec.toNat_ofNat]
  exact Nat.mod_eq_of_lt (by omega)

/-- A 64-bit register reads back what was put into it. -/
theorem rd64_wr64_same (off v : Nat) (w : W9) : rd64 (wr64 off v w) off = v % 2 ^ 64 := by
  have h1 : rd (wr64 off v w) (off + 4) = BitVec.ofNat 32 (v / 2 ^ 32) := by simp [wr64]
  have h0 : rd (wr64 off v w) off = BitVec.ofNat 32 v := by
    unfold wr64; rw [rd_wr_ne _ _ (by omega)]; simp
  unfold rd64
  rw [h0, h1]
  simp only [BitVec.toNat_ofNat]
  omega

theorem rd_wr64_ne {off k : Nat} (v : Nat) (w : W9) (h : off ≠ k) (h' : off ≠ k + 4) : rd (wr64 k v w) off = rd w off := by
  unfold wr64; rw [rd_wr_ne _ _ h', rd_wr_ne _ _ h]

/-! ## Page registers of one tile -/

theorem prd_pwr_off {t : Tile} {off k : Nat} (v : Word32) (w : W9) (h : off ≠ k) : prd (pwr t k v w) t off = prd w t off :=
  prd_pwr_ne v w (by omega)
/-- Offsets of a control page lie below 0x1000, so another tile's page is untouched. -/
theorem prd_pwr_tile {t u : Tile} {off k : Nat} (v : Word32) (w : W9) (h : u ≠ t) (h1 : off < 0x1000) (h2 : k < 0x1000) :
    prd (pwr t k v w) u off = prd w u off := by
  have : u.val ≠ t.val := fun e => h (Fin.ext e)
  exact prd_pwr_ne v w (by omega)
theorem prd_pwrF_off {t : Tile} {off k : Nat} (hi lo x : Nat) (w : W9) (h : off ≠ k) : prd (pwrF t k hi lo x w) t off = prd w t off := by
  simp [pwrF, prd_pwr_off _ _ h]
theorem prd_pwrB_off {t : Tile} {off k : Nat} (i : Nat) (b : Bool) (w : W9) (h : off ≠ k) : prd (pwrB t k i b w) t off = prd w t off := by
  simp [pwrB, prd_pwrF_off _ _ _ _ h]
theorem prdB_pwrB_same (t : Tile) (off i : Nat) (b : Bool) (w : W9) (h : i < 32) : prdB (pwrB t off i b w) t off i = b := by
  cases b <;> simp [prdB, pwrB, pwrF, getLsbD_setField _ i i _ i (le_refl i) h, b2n]
theorem prdB_pwrB_ne (t : Tile) (off i j : Nat) (b : Bool) (w : W9) (h : j ≠ i) : prdB (pwrB t off i b w) t off j = prdB w t off j := by
  by_cases hj : j < 32
  · simp only [prdB, pwrB, pwrF, prd_pwr_same]
    rw [getLsbD_setField _ i i _ j (le_refl i) hj, if_neg (by omega)]
  · simp [prdB, BitVec.getLsbD_of_ge _ _ (show 32 ≤ j by omega)]
theorem prd_pinc_off {t : Tile} {off k : Nat} (n : Nat) (w : W9) (h : off ≠ k) : prd (pinc t k n w) t off = prd w t off := by
  simp [pinc, prd_pwr_off _ _ h]
@[simp] theorem prd_pinc_same (t : Tile) (off n : Nat) (w : W9) : prd (pinc t off n w) t off = satAdd32 (prd w t off) n := by
  simp [pinc]
theorem prdF_pwrF_same (t : Tile) (off hi lo x : Nat) (w : W9) (h : lo ≤ hi) (hn : hi < 32) :
    prdF (pwrF t off hi lo x w) t off hi lo = x % 2 ^ (hi + 1 - lo) := by
  simp [prdF, pwrF, fieldOf_setField_same _ hi lo x h hn]

/-! ## Parts by index -/

@[simp] theorem tileOf_modTile_same (t : Tile) (f : TileS → TileS) (w : W9) : tileOf (modTile t f w) t = f (tileOf w t) := by
  simp [tileOf, modTile, smMod]
theorem tileOf_modTile_ne {t u : Tile} (f : TileS → TileS) (w : W9) (h : u ≠ t) : tileOf (modTile t f w) u = tileOf w u := by
  have : u.val ≠ t.val := fun e => h (Fin.ext e)
  simp [tileOf, modTile, smMod, smGet_smPut_ne _ _ _ this]
@[simp] theorem fieldState_modField_same (i : FieldIx) (f : FieldS → FieldS) (w : W9) :
    fieldState (modField i f w) i = f (fieldState w i) := by simp [fieldState, modField, smMod]
theorem fieldState_modField_ne {i j : FieldIx} (f : FieldS → FieldS) (w : W9) (h : j ≠ i) :
    fieldState (modField i f w) j = fieldState w j := by
  have : j.val ≠ i.val := fun e => h (Fin.ext e)
  simp [fieldState, modField, smMod, smGet_smPut_ne _ _ _ this]
@[simp] theorem gwOf_modGw_same (g : Gateway) (f : GwS → GwS) (w : W9) : gwOf (modGw g f w) g = f (gwOf w g) := by
  simp [gwOf, modGw, smMod]
theorem gwOf_modGw_ne {g h : Gateway} (f : GwS → GwS) (w : W9) (hne : h ≠ g) : gwOf (modGw g f w) h = gwOf w h := by
  have : h.val ≠ g.val := fun e => hne (Fin.ext e)
  simp [gwOf, modGw, smMod, smGet_smPut_ne _ _ _ this]
@[simp] theorem portOf_modPort_same (p : PortIx) (f : PortS → PortS) (w : W9) : portOf (modPort p f w) p = f (portOf w p) := by
  simp [portOf, modPort, smMod]
theorem portOf_modPort_ne {p q : PortIx} (f : PortS → PortS) (w : W9) (h : q ≠ p) : portOf (modPort p f w) q = portOf w q := by
  have : q.val ≠ p.val := fun e => h (Fin.ext e)
  simp [portOf, modPort, smMod, smGet_smPut_ne _ _ _ this]
@[simp] theorem streamOf_modStream_same (s : StreamIx) (f : Stream → Stream) (w : W9) :
    streamOf (modStream s f w) s = f (streamOf w s) := by simp [streamOf, modStream, smMod]
theorem streamOf_modStream_ne {s r : StreamIx} (f : Stream → Stream) (w : W9) (h : r ≠ s) :
    streamOf (modStream s f w) r = streamOf w r := by
  have : r.val ≠ s.val := fun e => h (Fin.ext e)
  simp [streamOf, modStream, smMod, smGet_smPut_ne _ _ _ this]
@[simp] theorem layerOf_modLayer_same (l : LayerIx) (f : LayerS → LayerS) (w : W9) :
    layerOf (modLayer l f w) l = f (layerOf w l) := by simp [layerOf, modLayer, smMod]
@[simp] theorem routerOf_setRouter_same (t : Tile) (b : List BufEntry) (w : W9) : routerOf (setRouter t b w) t = b := by
  simp [routerOf, setRouter]
theorem routerOf_setRouter_ne {t u : Tile} (b : List BufEntry) (w : W9) (h : u ≠ t) :
    routerOf (setRouter t b w) u = routerOf w u := by
  have : u.val ≠ t.val := fun e => h (Fin.ext e)
  simp [routerOf, setRouter, smGet_smPut_ne _ _ _ this]

end Sys2Proof.Machine
end

