-- ==== Sys2Proof/Laws/Events.lean ====
section
/-! SUPPORT. Everything that raising an event can do: SEQ and the limits of R92, the event queue, the due vectors, EVT_LOST, HOSTIF_ERR and
the queue of self-tests. All else is as it was. -/

namespace Sys2Proof.Machine

open Sys2Proof

namespace OnlyEvents

theorem refl (w : W9) : OnlyEvents w w := by constructor <;> intros <;> rfl

theorem trans {a b c : W9} (h : OnlyEvents a b) (k : OnlyEvents b c) : OnlyEvents a c where
  page := k.page.trans h.page
  mem := k.mem.trans h.mem
  tiles := k.tiles.trans h.tiles
  routers := k.routers.trans h.routers
  fields := k.fields.trans h.fields
  gws := k.gws.trans h.gws
  prec := k.prec.trans h.prec
  serve := k.serve.trans h.serve
  kv := k.kv.trans h.kv
  wt := k.wt.trans h.wt
  img := k.img.trans h.img
  checked := k.checked.trans h.checked
  dbg := k.dbg.trans h.dbg
  side := k.side.trans h.side
  ports := k.ports.trans h.ports
  pair := k.pair.trans h.pair
  env := k.env.trans h.env
  rst := k.rst.trans h.rst
  opt := k.opt.trans h.opt
  att := k.att.trans h.att
  dev_stepping := k.dev_stepping.trans h.dev_stepping
  dev_powered := k.dev_powered.trans h.dev_powered
  dev_rstDone := k.dev_rstDone.trans h.dev_rstDone
  dev_time := k.dev_time.trans h.dev_time
  dev_timeLatch := k.dev_timeLatch.trans h.dev_timeLatch
  dev_copies := k.dev_copies.trans h.dev_copies
  dev_free := k.dev_free.trans h.dev_free
  host_readData := k.host_readData.trans h.host_readData
  host_poisoned := k.host_poisoned.trans h.host_poisoned
  host_hostMem := k.host_hostMem.trans h.host_hostMem
  host_linkUp := k.host_linkUp.trans h.host_linkUp
  host_d3hot := k.host_d3hot.trans h.host_d3hot
  host_msixOn := k.host_msixOn.trans h.host_msixOn
  host_backlog := k.host_backlog.trans h.host_backlog
  host_cplWait := k.host_cplWait.trans h.host_cplWait
  host_stamping := k.host_stamping.trans h.host_stamping
  host_vectorLast := k.host_vectorLast.trans h.host_vectorLast
  host_msixSent := k.host_msixSent.trans h.host_msixSent
  host_bar2Waiting := k.host_bar2Waiting.trans h.host_bar2Waiting
  host_bar4 := k.host_bar4.trans h.host_bar4
  host_opSeq := k.host_opSeq.trans h.host_opSeq
  flt_beatSeen := k.flt_beatSeen.trans h.flt_beatSeen
  flt_misses := k.flt_misses.trans h.flt_misses
  flt_windowEnd := k.flt_windowEnd.trans h.flt_windowEnd
  flt_suspects := k.flt_suspects.trans h.flt_suspects
  flt_replay := k.flt_replay.trans h.flt_replay
  flt_detectTime := k.flt_detectTime.trans h.flt_detectTime
  flt_recovering := k.flt_recovering.trans h.flt_recovering
  flt_firstLost := k.flt_firstLost.trans h.flt_firstLost
  flt_recoveryDue := k.flt_recoveryDue.trans h.flt_recoveryDue
  flt_waitSince := k.flt_waitSince.trans h.flt_waitSince
  flt_helloSeen := k.flt_helloSeen.trans h.flt_helloSeen
  regs := fun off h1 h2 => (k.regs off h1 h2).trans (h.regs off h1 h2)

end OnlyEvents

/-- A register's bit that raising events leaves alone. -/
theorem OnlyEvents.rdB {w w' : W9} (h : OnlyEvents w w') (off i : Nat) (h1 : off ≠ Reg.evtLost) (h2 : off ≠ Reg.hostifErr) :
    Machine.rdB w' off i = Machine.rdB w off i := by simp [Machine.rdB, h.regs off h1 h2]

theorem vectorDue_step (v : Fin 256) (w : W9) : OnlyEvents w (vectorDue v w) := by
  constructor <;> intros <;> rfl

theorem inc_evtLost_step (n : Nat) (w : W9) : OnlyEvents w (inc Reg.evtLost n w) := by
  constructor
  case regs => intro off h _; exact rd_inc_ne n w h
  all_goals rfl

theorem hostErr_step (i : Nat) (w : W9) : OnlyEvents w (hostErr i w) := by
  unfold hostErr
  split
  · exact OnlyEvents.refl w
  · refine OnlyEvents.trans ?_ (vectorDue_step 0 _)
    constructor
    case regs => intro off _ h; exact rd_wrB_ne i true w h
    all_goals rfl

theorem record_step (r : EventRec) (w : W9) : OnlyEvents w (record r w) := by
  unfold record
  have h0 : OnlyEvents w { w with dev := { w.dev with seq := w.dev.seq + 1 } } := by constructor <;> intros <;> rfl
  refine h0.trans ?_
  generalize ({ w with dev := { w.dev with seq := w.dev.seq + 1 } } : W9) = u
  dsimp only
  split
  · constructor <;> intros <;> rfl
  · exact (inc_evtLost_step 1 u).trans (hostErr_step 5 _)

theorem openWindow_step (c s : BitVec 16) (w : W9) : OnlyEvents w (openWindow c s w) := by
  unfold openWindow
  split
  · exact OnlyEvents.refl w
  · constructor <;> intros <;> rfl

theorem queueTest_step (u : TestUnit) (row : Nat) (w : W9) : OnlyEvents w (queueTest u row w) := by
  unfold queueTest
  split
  · exact OnlyEvents.refl w
  split
  · constructor <;> intros <;> rfl
  split
  · exact (openWindow_step _ _ w).trans (record_step _ _)
  · exact OnlyEvents.refl w

theorem seamTest_step (r : EventRec) (w : W9) : OnlyEvents w (seamTest r w) := by
  unfold seamTest
  dsimp only
  split
  · refine OnlyEvents.trans ?_ (queueTest_step _ _ _)
    constructor <;> intros <;> rfl
  · constructor <;> intros <;> rfl

theorem emit_step (r : EventRec) (w : W9) : OnlyEvents w (emit r w) := by
  unfold emit
  dsimp only
  split
  · exact (record_step r w).trans (seamTest_step r _)
  split
  · exact (record_step r w).trans (queueTest_step _ _ _)
  · exact record_step r w

/-- Raising an event changes nothing else. -/
theorem raise_step (c s cs : BitVec 16) (d : List Byte) (w : W9) : OnlyEvents w (raise c s cs d w) := by
  unfold raise
  split
  · exact (openWindow_step c s w).trans (emit_step _ _)
  · exact OnlyEvents.refl w

theorem raise0_step (c s : BitVec 16) (d : List Byte) (w : W9) : OnlyEvents w (raise0 c s d w) := raise_step c s _ d w
theorem raiseS_step (c src : BitVec 16) (s : StreamIx) (d : List Byte) (w : W9) : OnlyEvents w (raiseS c src s d w) :=
  raise_step c src _ d w
theorem raiseT_step (t : Tile) (c : BitVec 16) (d : List Byte) (w : W9) : OnlyEvents w (raiseT t c d w) := raise_step c _ _ d w

/-! ## raise -/

@[simp] theorem raise_page (c s cs : BitVec 16) (d : List Byte) (w : W9) : (raise c s cs d w).page = w.page := (raise_step c s cs d w).page
@[simp] theorem raise_mem (c s cs : BitVec 16) (d : List Byte) (w : W9) : (raise c s cs d w).mem = w.mem := (raise_step c s cs d w).mem
@[simp] theorem raise_tiles (c s cs : BitVec 16) (d : List Byte) (w : W9) : (raise c s cs d w).tiles = w.tiles := (raise_step c s cs d w).tiles
@[simp] theorem raise_routers (c s cs : BitVec 16) (d : List Byte) (w : W9) : (raise c s cs d w).routers = w.routers := (raise_step c s cs d w).routers
@[simp] theorem raise_fields (c s cs : BitVec 16) (d : List Byte) (w : W9) : (raise c s cs d w).fields = w.fields := (raise_step c s cs d w).fields
@[simp] theorem raise_gws (c s cs : BitVec 16) (d : List Byte) (w : W9) : (raise c s cs d w).gws = w.gws := (raise_step c s cs d w).gws
@[simp] theorem raise_prec (c s cs : BitVec 16) (d : List Byte) (w : W9) : (raise c s cs d w).prec = w.prec := (raise_step c s cs d w).prec
@[simp] theorem raise_serve (c s cs : BitVec 16) (d : List Byte) (w : W9) : (raise c s cs d w).serve = w.serve := (raise_step c s cs d w).serve
@[simp] theorem raise_kv (c s cs : BitVec 16) (d : List Byte) (w : W9) : (raise c s cs d w).kv = w.kv := (raise_step c s cs d w).kv
@[simp] theorem raise_wt (c s cs : BitVec 16) (d : List Byte) (w : W9) : (raise c s cs d w).wt = w.wt := (raise_step c s cs d w).wt
@[simp] theorem raise_img (c s cs : BitVec 16) (d : List Byte) (w : W9) : (raise c s cs d w).img = w.img := (raise_step c s cs d w).img
@[simp] theorem raise_checked (c s cs : BitVec 16) (d : List Byte) (w : W9) : (raise c s cs d w).checked = w.checked := (raise_step c s cs d w).checked
@[simp] theorem raise_dbg (c s cs : BitVec 16) (d : List Byte) (w : W9) : (raise c s cs d w).dbg = w.dbg := (raise_step c s cs d w).dbg
@[simp] theorem raise_side (c s cs : BitVec 16) (d : List Byte) (w : W9) : (raise c s cs d w).side = w.side := (raise_step c s cs d w).side
@[simp] theorem raise_ports (c s cs : BitVec 16) (d : List Byte) (w : W9) : (raise c s cs d w).ports = w.ports := (raise_step c s cs d w).ports
@[simp] theorem raise_pair (c s cs : BitVec 16) (d : List Byte) (w : W9) : (raise c s cs d w).pair = w.pair := (raise_step c s cs d w).pair
@[simp] theorem raise_env (c s cs : BitVec 16) (d : List Byte) (w : W9) : (raise c s cs d w).env = w.env := (raise_step c s cs d w).env
@[simp] theorem raise_rst (c s cs : BitVec 16) (d : List Byte) (w : W9) : (raise c s cs d w).rst = w.rst := (raise_step c s cs d w).rst
@[simp] theorem raise_opt (c s cs : BitVec 16) (d : List Byte) (w : W9) : (raise c s cs d w).opt = w.opt := (raise_step c s cs d w).opt
@[simp] theorem raise_att (c s cs : BitVec 16) (d : List Byte) (w : W9) : (raise c s cs d w).att = w.att := (raise_step c s cs d w).att
@[simp] theorem raise_dev_stepping (c s cs : BitVec 16) (d : List Byte) (w : W9) : (raise c s cs d w).dev.stepping = w.dev.stepping := (raise_step c s cs d w).dev_stepping
@[simp] theorem raise_dev_powered (c s cs : BitVec 16) (d : List Byte) (w : W9) : (raise c s cs d w).dev.powered = w.dev.powered := (raise_step c s cs d w).dev_powered
@[simp] theorem raise_dev_rstDone (c s cs : BitVec 16) (d : List Byte) (w : W9) : (raise c s cs d w).dev.rstDone = w.dev.rstDone := (raise_step c s cs d w).dev_rstDone
@[simp] theorem raise_dev_time (c s cs : BitVec 16) (d : List Byte) (w : W9) : (raise c s cs d w).dev.time = w.dev.time := (raise_step c s cs d w).dev_time
@[simp] theorem raise_dev_timeLatch (c s cs : BitVec 16) (d : List Byte) (w : W9) : (raise c s cs d w).dev.timeLatch = w.dev.timeLatch := (raise_step c s cs d w).dev_timeLatch
@[simp] theorem raise_dev_copies (c s cs : BitVec 16) (d : List Byte) (w : W9) : (raise c s cs d w).dev.copies = w.dev.copies := (raise_step c s cs d w).dev_copies
@[simp] theorem raise_dev_free (c s cs : BitVec 16) (d : List Byte) (w : W9) : (raise c s cs d w).dev.free = w.dev.free := (raise_step c s cs d w).dev_free
@[simp] theorem raise_host_readData (c s cs : BitVec 16) (d : List Byte) (w : W9) : (raise c s cs d w).host.readData = w.host.readData := (raise_step c s cs d w).host_readData
@[simp] theorem raise_host_poisoned (c s cs : BitVec 16) (d : List Byte) (w : W9) : (raise c s cs d w).host.poisoned = w.host.poisoned := (raise_step c s cs d w).host_poisoned
@[simp] theorem raise_host_hostMem (c s cs : BitVec 16) (d : List Byte) (w : W9) : (raise c s cs d w).host.hostMem = w.host.hostMem := (raise_step c s cs d w).host_hostMem
@[simp] theorem raise_host_linkUp (c s cs : BitVec 16) (d : List Byte) (w : W9) : (raise c s cs d w).host.linkUp = w.host.linkUp := (raise_step c s cs d w).host_linkUp
@[simp] theorem raise_host_d3hot (c s cs : BitVec 16) (d : List Byte) (w : W9) : (raise c s cs d w).host.d3hot = w.host.d3hot := (raise_step c s cs d w).host_d3hot
@[simp] theorem raise_host_msixOn (c s cs : BitVec 16) (d : List Byte) (w : W9) : (raise c s cs d w).host.msixOn = w.host.msixOn := (raise_step c s cs d w).host_msixOn
@[simp] theorem raise_host_backlog (c s cs : BitVec 16) (d : List Byte) (w : W9) : (raise c s cs d w).host.backlog = w.host.backlog := (raise_step c s cs d w).host_backlog
@[simp] theorem raise_host_cplWait (c s cs : BitVec 16) (d : List Byte) (w : W9) : (raise c s cs d w).host.cplWait = w.host.cplWait := (raise_step c s cs d w).host_cplWait
@[simp] theorem raise_host_stamping (c s cs : BitVec 16) (d : List Byte) (w : W9) : (raise c s cs d w).host.stamping = w.host.stamping := (raise_step c s cs d w).host_stamping
@[simp] theorem raise_host_vectorLast (c s cs : BitVec 16) (d : List Byte) (w : W9) : (raise c s cs d w).host.vectorLast = w.host.vectorLast := (raise_step c s cs d w).host_vectorLast
@[simp] theorem raise_host_msixSent (c s cs : BitVec 16) (d : List Byte) (w : W9) : (raise c s cs d w).host.msixSent = w.host.msixSent := (raise_step c s cs d w).host_msixSent
@[simp] theorem raise_host_bar2Waiting (c s cs : BitVec 16) (d : List Byte) (w : W9) : (raise c s cs d w).host.bar2Waiting = w.host.bar2Waiting := (raise_step c s cs d w).host_bar2Waiting
@[simp] theorem raise_host_bar4 (c s cs : BitVec 16) (d : List Byte) (w : W9) : (raise c s cs d w).host.bar4 = w.host.bar4 := (raise_step c s cs d w).host_bar4
@[simp] theorem raise_host_opSeq (c s cs : BitVec 16) (d : List Byte) (w : W9) : (raise c s cs d w).host.opSeq = w.host.opSeq := (raise_step c s cs d w).host_opSeq
@[simp] theorem raise_flt_beatSeen (c s cs : BitVec 16) (d : List Byte) (w : W9) : (raise c s cs d w).flt.beatSeen = w.flt.beatSeen := (raise_step c s cs d w).flt_beatSeen
@[simp] theorem raise_flt_misses (c s cs : BitVec 16) (d : List Byte) (w : W9) : (raise c s cs d w).flt.misses = w.flt.misses := (raise_step c s cs d w).flt_misses
@[simp] theorem raise_flt_windowEnd (c s cs : BitVec 16) (d : List Byte) (w : W9) : (raise c s cs d w).flt.windowEnd = w.flt.windowEnd := (raise_step c s cs d w).flt_windowEnd
@[simp] theorem raise_flt_suspects (c s cs : BitVec 16) (d : List Byte) (w : W9) : (raise c s cs d w).flt.suspects = w.flt.suspects := (raise_step c s cs d w).flt_suspects
@[simp] theorem raise_flt_replay (c s cs : BitVec 16) (d : List Byte) (w : W9) : (raise c s cs d w).flt.replay = w.flt.replay := (raise_step c s cs d w).flt_replay
@[simp] theorem raise_flt_detectTime (c s cs : BitVec 16) (d : List Byte) (w : W9) : (raise c s cs d w).flt.detectTime = w.flt.detectTime := (raise_step c s cs d w).flt_detectTime
@[simp] theorem raise_flt_recovering (c s cs : BitVec 16) (d : List Byte) (w : W9) : (raise c s cs d w).flt.recovering = w.flt.recovering := (raise_step c s cs d w).flt_recovering
@[simp] theorem raise_flt_firstLost (c s cs : BitVec 16) (d : List Byte) (w : W9) : (raise c s cs d w).flt.firstLost = w.flt.firstLost := (raise_step c s cs d w).flt_firstLost
@[simp] theorem raise_flt_recoveryDue (c s cs : BitVec 16) (d : List Byte) (w : W9) : (raise c s cs d w).flt.recoveryDue = w.flt.recoveryDue := (raise_step c s cs d w).flt_recoveryDue
@[simp] theorem raise_flt_waitSince (c s cs : BitVec 16) (d : List Byte) (w : W9) : (raise c s cs d w).flt.waitSince = w.flt.waitSince := (raise_step c s cs d w).flt_waitSince
@[simp] theorem raise_flt_helloSeen (c s cs : BitVec 16) (d : List Byte) (w : W9) : (raise c s cs d w).flt.helloSeen = w.flt.helloSeen := (raise_step c s cs d w).flt_helloSeen
theorem rd_raise (c s cs : BitVec 16) (d : List Byte) (w : W9) {off : Nat} (h1 : off ≠ Reg.evtLost) (h2 : off ≠ Reg.hostifErr) :
    rd (raise c s cs d w) off = rd w off := (raise_step c s cs d w).regs off h1 h2

/-! ## raise0 -/

@[simp] theorem raise0_page (c s : BitVec 16) (d : List Byte) (w : W9) : (raise0 c s d w).page = w.page := (raise0_step c s d w).page
@[simp] theorem raise0_mem (c s : BitVec 16) (d : List Byte) (w : W9) : (raise0 c s d w).mem = w.mem := (raise0_step c s d w).mem
@[simp] theorem raise0_tiles (c s : BitVec 16) (d : List Byte) (w : W9) : (raise0 c s d w).tiles = w.tiles := (raise0_step c s d w).tiles
@[simp] theorem raise0_routers (c s : BitVec 16) (d : List Byte) (w : W9) : (raise0 c s d w).routers = w.routers := (raise0_step c s d w).routers
@[simp] theorem raise0_fields (c s : BitVec 16) (d : List Byte) (w : W9) : (raise0 c s d w).fields = w.fields := (raise0_step c s d w).fields
@[simp] theorem raise0_gws (c s : BitVec 16) (d : List Byte) (w : W9) : (raise0 c s d w).gws = w.gws := (raise0_step c s d w).gws
@[simp] theorem raise0_prec (c s : BitVec 16) (d : List Byte) (w : W9) : (raise0 c s d w).prec = w.prec := (raise0_step c s d w).prec
@[simp] theorem raise0_serve (c s : BitVec 16) (d : List Byte) (w : W9) : (raise0 c s d w).serve = w.serve := (raise0_step c s d w).serve
@[simp] theorem raise0_kv (c s : BitVec 16) (d : List Byte) (w : W9) : (raise0 c s d w).kv = w.kv := (raise0_step c s d w).kv
@[simp] theorem raise0_wt (c s : BitVec 16) (d : List Byte) (w : W9) : (raise0 c s d w).wt = w.wt := (raise0_step c s d w).wt
@[simp] theorem raise0_img (c s : BitVec 16) (d : List Byte) (w : W9) : (raise0 c s d w).img = w.img := (raise0_step c s d w).img
@[simp] theorem raise0_checked (c s : BitVec 16) (d : List Byte) (w : W9) : (raise0 c s d w).checked = w.checked := (raise0_step c s d w).checked
@[simp] theorem raise0_dbg (c s : BitVec 16) (d : List Byte) (w : W9) : (raise0 c s d w).dbg = w.dbg := (raise0_step c s d w).dbg
@[simp] theorem raise0_side (c s : BitVec 16) (d : List Byte) (w : W9) : (raise0 c s d w).side = w.side := (raise0_step c s d w).side
@[simp] theorem raise0_ports (c s : BitVec 16) (d : List Byte) (w : W9) : (raise0 c s d w).ports = w.ports := (raise0_step c s d w).ports
@[simp] theorem raise0_pair (c s : BitVec 16) (d : List Byte) (w : W9) : (raise0 c s d w).pair = w.pair := (raise0_step c s d w).pair
@[simp] theorem raise0_env (c s : BitVec 16) (d : List Byte) (w : W9) : (raise0 c s d w).env = w.env := (raise0_step c s d w).env
@[simp] theorem raise0_rst (c s : BitVec 16) (d : List Byte) (w : W9) : (raise0 c s d w).rst = w.rst := (raise0_step c s d w).rst
@[simp] theorem raise0_opt (c s : BitVec 16) (d : List Byte) (w : W9) : (raise0 c s d w).opt = w.opt := (raise0_step c s d w).opt
@[simp] theorem raise0_att (c s : BitVec 16) (d : List Byte) (w : W9) : (raise0 c s d w).att = w.att := (raise0_step c s d w).att
@[simp] theorem raise0_dev_stepping (c s : BitVec 16) (d : List Byte) (w : W9) : (raise0 c s d w).dev.stepping = w.dev.stepping := (raise0_step c s d w).dev_stepping
@[simp] theorem raise0_dev_powered (c s : BitVec 16) (d : List Byte) (w : W9) : (raise0 c s d w).dev.powered = w.dev.powered := (raise0_step c s d w).dev_powered
@[simp] theorem raise0_dev_rstDone (c s : BitVec 16) (d : List Byte) (w : W9) : (raise0 c s d w).dev.rstDone = w.dev.rstDone := (raise0_step c s d w).dev_rstDone
@[simp] theorem raise0_dev_time (c s : BitVec 16) (d : List Byte) (w : W9) : (raise0 c s d w).dev.time = w.dev.time := (raise0_step c s d w).dev_time
@[simp] theorem raise0_dev_timeLatch (c s : BitVec 16) (d : List Byte) (w : W9) : (raise0 c s d w).dev.timeLatch = w.dev.timeLatch := (raise0_step c s d w).dev_timeLatch
@[simp] theorem raise0_dev_copies (c s : BitVec 16) (d : List Byte) (w : W9) : (raise0 c s d w).dev.copies = w.dev.copies := (raise0_step c s d w).dev_copies
@[simp] theorem raise0_dev_free (c s : BitVec 16) (d : List Byte) (w : W9) : (raise0 c s d w).dev.free = w.dev.free := (raise0_step c s d w).dev_free
@[simp] theorem raise0_host_readData (c s : BitVec 16) (d : List Byte) (w : W9) : (raise0 c s d w).host.readData = w.host.readData := (raise0_step c s d w).host_readData
@[simp] theorem raise0_host_poisoned (c s : BitVec 16) (d : List Byte) (w : W9) : (raise0 c s d w).host.poisoned = w.host.poisoned := (raise0_step c s d w).host_poisoned
@[simp] theorem raise0_host_hostMem (c s : BitVec 16) (d : List Byte) (w : W9) : (raise0 c s d w).host.hostMem = w.host.hostMem := (raise0_step c s d w).host_hostMem
@[simp] theorem raise0_host_linkUp (c s : BitVec 16) (d : List Byte) (w : W9) : (raise0 c s d w).host.linkUp = w.host.linkUp := (raise0_step c s d w).host_linkUp
@[simp] theorem raise0_host_d3hot (c s : BitVec 16) (d : List Byte) (w : W9) : (raise0 c s d w).host.d3hot = w.host.d3hot := (raise0_step c s d w).host_d3hot
@[simp] theorem raise0_host_msixOn (c s : BitVec 16) (d : List Byte) (w : W9) : (raise0 c s d w).host.msixOn = w.host.msixOn := (raise0_step c s d w).host_msixOn
@[simp] theorem raise0_host_backlog (c s : BitVec 16) (d : List Byte) (w : W9) : (raise0 c s d w).host.backlog = w.host.backlog := (raise0_step c s d w).host_backlog
@[simp] theorem raise0_host_cplWait (c s : BitVec 16) (d : List Byte) (w : W9) : (raise0 c s d w).host.cplWait = w.host.cplWait := (raise0_step c s d w).host_cplWait
@[simp] theorem raise0_host_stamping (c s : BitVec 16) (d : List Byte) (w : W9) : (raise0 c s d w).host.stamping = w.host.stamping := (raise0_step c s d w).host_stamping
@[simp] theorem raise0_host_vectorLast (c s : BitVec 16) (d : List Byte) (w : W9) : (raise0 c s d w).host.vectorLast = w.host.vectorLast := (raise0_step c s d w).host_vectorLast
@[simp] theorem raise0_host_msixSent (c s : BitVec 16) (d : List Byte) (w : W9) : (raise0 c s d w).host.msixSent = w.host.msixSent := (raise0_step c s d w).host_msixSent
@[simp] theorem raise0_host_bar2Waiting (c s : BitVec 16) (d : List Byte) (w : W9) : (raise0 c s d w).host.bar2Waiting = w.host.bar2Waiting := (raise0_step c s d w).host_bar2Waiting
@[simp] theorem raise0_host_bar4 (c s : BitVec 16) (d : List Byte) (w : W9) : (raise0 c s d w).host.bar4 = w.host.bar4 := (raise0_step c s d w).host_bar4
@[simp] theorem raise0_host_opSeq (c s : BitVec 16) (d : List Byte) (w : W9) : (raise0 c s d w).host.opSeq = w.host.opSeq := (raise0_step c s d w).host_opSeq
@[simp] theorem raise0_flt_beatSeen (c s : BitVec 16) (d : List Byte) (w : W9) : (raise0 c s d w).flt.beatSeen = w.flt.beatSeen := (raise0_step c s d w).flt_beatSeen
@[simp] theorem raise0_flt_misses (c s : BitVec 16) (d : List Byte) (w : W9) : (raise0 c s d w).flt.misses = w.flt.misses := (raise0_step c s d w).flt_misses
@[simp] theorem raise0_flt_windowEnd (c s : BitVec 16) (d : List Byte) (w : W9) : (raise0 c s d w).flt.windowEnd = w.flt.windowEnd := (raise0_step c s d w).flt_windowEnd
@[simp] theorem raise0_flt_suspects (c s : BitVec 16) (d : List Byte) (w : W9) : (raise0 c s d w).flt.suspects = w.flt.suspects := (raise0_step c s d w).flt_suspects
@[simp] theorem raise0_flt_replay (c s : BitVec 16) (d : List Byte) (w : W9) : (raise0 c s d w).flt.replay = w.flt.replay := (raise0_step c s d w).flt_replay
@[simp] theorem raise0_flt_detectTime (c s : BitVec 16) (d : List Byte) (w : W9) : (raise0 c s d w).flt.detectTime = w.flt.detectTime := (raise0_step c s d w).flt_detectTime
@[simp] theorem raise0_flt_recovering (c s : BitVec 16) (d : List Byte) (w : W9) : (raise0 c s d w).flt.recovering = w.flt.recovering := (raise0_step c s d w).flt_recovering
@[simp] theorem raise0_flt_firstLost (c s : BitVec 16) (d : List Byte) (w : W9) : (raise0 c s d w).flt.firstLost = w.flt.firstLost := (raise0_step c s d w).flt_firstLost
@[simp] theorem raise0_flt_recoveryDue (c s : BitVec 16) (d : List Byte) (w : W9) : (raise0 c s d w).flt.recoveryDue = w.flt.recoveryDue := (raise0_step c s d w).flt_recoveryDue
@[simp] theorem raise0_flt_waitSince (c s : BitVec 16) (d : List Byte) (w : W9) : (raise0 c s d w).flt.waitSince = w.flt.waitSince := (raise0_step c s d w).flt_waitSince
@[simp] theorem raise0_flt_helloSeen (c s : BitVec 16) (d : List Byte) (w : W9) : (raise0 c s d w).flt.helloSeen = w.flt.helloSeen := (raise0_step c s d w).flt_helloSeen
theorem rd_raise0 (c s : BitVec 16) (d : List Byte) (w : W9) {off : Nat} (h1 : off ≠ Reg.evtLost) (h2 : off ≠ Reg.hostifErr) :
    rd (raise0 c s d w) off = rd w off := (raise0_step c s d w).regs off h1 h2

/-! ## raiseS -/

@[simp] theorem raiseS_page (c src : BitVec 16) (s : StreamIx) (d : List Byte) (w : W9) : (raiseS c src s d w).page = w.page := (raiseS_step c src s d w).page
@[simp] theorem raiseS_mem (c src : BitVec 16) (s : StreamIx) (d : List Byte) (w : W9) : (raiseS c src s d w).mem = w.mem := (raiseS_step c src s d w).mem
@[simp] theorem raiseS_tiles (c src : BitVec 16) (s : StreamIx) (d : List Byte) (w : W9) : (raiseS c src s d w).tiles = w.tiles := (raiseS_step c src s d w).tiles
@[simp] theorem raiseS_routers (c src : BitVec 16) (s : StreamIx) (d : List Byte) (w : W9) : (raiseS c src s d w).routers = w.routers := (raiseS_step c src s d w).routers
@[simp] theorem raiseS_fields (c src : BitVec 16) (s : StreamIx) (d : List Byte) (w : W9) : (raiseS c src s d w).fields = w.fields := (raiseS_step c src s d w).fields
@[simp] theorem raiseS_gws (c src : BitVec 16) (s : StreamIx) (d : List Byte) (w : W9) : (raiseS c src s d w).gws = w.gws := (raiseS_step c src s d w).gws
@[simp] theorem raiseS_prec (c src : BitVec 16) (s : StreamIx) (d : List Byte) (w : W9) : (raiseS c src s d w).prec = w.prec := (raiseS_step c src s d w).prec
@[simp] theorem raiseS_serve (c src : BitVec 16) (s : StreamIx) (d : List Byte) (w : W9) : (raiseS c src s d w).serve = w.serve := (raiseS_step c src s d w).serve
@[simp] theorem raiseS_kv (c src : BitVec 16) (s : StreamIx) (d : List Byte) (w : W9) : (raiseS c src s d w).kv = w.kv := (raiseS_step c src s d w).kv
@[simp] theorem raiseS_wt (c src : BitVec 16) (s : StreamIx) (d : List Byte) (w : W9) : (raiseS c src s d w).wt = w.wt := (raiseS_step c src s d w).wt
@[simp] theorem raiseS_img (c src : BitVec 16) (s : StreamIx) (d : List Byte) (w : W9) : (raiseS c src s d w).img = w.img := (raiseS_step c src s d w).img
@[simp] theorem raiseS_checked (c src : BitVec 16) (s : StreamIx) (d : List Byte) (w : W9) : (raiseS c src s d w).checked = w.checked := (raiseS_step c src s d w).checked
@[simp] theorem raiseS_dbg (c src : BitVec 16) (s : StreamIx) (d : List Byte) (w : W9) : (raiseS c src s d w).dbg = w.dbg := (raiseS_step c src s d w).dbg
@[simp] theorem raiseS_side (c src : BitVec 16) (s : StreamIx) (d : List Byte) (w : W9) : (raiseS c src s d w).side = w.side := (raiseS_step c src s d w).side
@[simp] theorem raiseS_ports (c src : BitVec 16) (s : StreamIx) (d : List Byte) (w : W9) : (raiseS c src s d w).ports = w.ports := (raiseS_step c src s d w).ports
@[simp] theorem raiseS_pair (c src : BitVec 16) (s : StreamIx) (d : List Byte) (w : W9) : (raiseS c src s d w).pair = w.pair := (raiseS_step c src s d w).pair
@[simp] theorem raiseS_env (c src : BitVec 16) (s : StreamIx) (d : List Byte) (w : W9) : (raiseS c src s d w).env = w.env := (raiseS_step c src s d w).env
@[simp] theorem raiseS_rst (c src : BitVec 16) (s : StreamIx) (d : List Byte) (w : W9) : (raiseS c src s d w).rst = w.rst := (raiseS_step c src s d w).rst
@[simp] theorem raiseS_opt (c src : BitVec 16) (s : StreamIx) (d : List Byte) (w : W9) : (raiseS c src s d w).opt = w.opt := (raiseS_step c src s d w).opt
@[simp] theorem raiseS_att (c src : BitVec 16) (s : StreamIx) (d : List Byte) (w : W9) : (raiseS c src s d w).att = w.att := (raiseS_step c src s d w).att
@[simp] theorem raiseS_dev_stepping (c src : BitVec 16) (s : StreamIx) (d : List Byte) (w : W9) : (raiseS c src s d w).dev.stepping = w.dev.stepping := (raiseS_step c src s d w).dev_stepping
@[simp] theorem raiseS_dev_powered (c src : BitVec 16) (s : StreamIx) (d : List Byte) (w : W9) : (raiseS c src s d w).dev.powered = w.dev.powered := (raiseS_step c src s d w).dev_powered
@[simp] theorem raiseS_dev_rstDone (c src : BitVec 16) (s : StreamIx) (d : List Byte) (w : W9) : (raiseS c src s d w).dev.rstDone = w.dev.rstDone := (raiseS_step c src s d w).dev_rstDone
@[simp] theorem raiseS_dev_time (c src : BitVec 16) (s : StreamIx) (d : List Byte) (w : W9) : (raiseS c src s d w).dev.time = w.dev.time := (raiseS_step c src s d w).dev_time
@[simp] theorem raiseS_dev_timeLatch (c src : BitVec 16) (s : StreamIx) (d : List Byte) (w : W9) : (raiseS c src s d w).dev.timeLatch = w.dev.timeLatch := (raiseS_step c src s d w).dev_timeLatch
@[simp] theorem raiseS_dev_copies (c src : BitVec 16) (s : StreamIx) (d : List Byte) (w : W9) : (raiseS c src s d w).dev.copies = w.dev.copies := (raiseS_step c src s d w).dev_copies
@[simp] theorem raiseS_dev_free (c src : BitVec 16) (s : StreamIx) (d : List Byte) (w : W9) : (raiseS c src s d w).dev.free = w.dev.free := (raiseS_step c src s d w).dev_free
@[simp] theorem raiseS_host_readData (c src : BitVec 16) (s : StreamIx) (d : List Byte) (w : W9) : (raiseS c src s d w).host.readData = w.host.readData := (raiseS_step c src s d w).host_readData
@[simp] theorem raiseS_host_poisoned (c src : BitVec 16) (s : StreamIx) (d : List Byte) (w : W9) : (raiseS c src s d w).host.poisoned = w.host.poisoned := (raiseS_step c src s d w).host_poisoned
@[simp] theorem raiseS_host_hostMem (c src : BitVec 16) (s : StreamIx) (d : List Byte) (w : W9) : (raiseS c src s d w).host.hostMem = w.host.hostMem := (raiseS_step c src s d w).host_hostMem
@[simp] theorem raiseS_host_linkUp (c src : BitVec 16) (s : StreamIx) (d : List Byte) (w : W9) : (raiseS c src s d w).host.linkUp = w.host.linkUp := (raiseS_step c src s d w).host_linkUp
@[simp] theorem raiseS_host_d3hot (c src : BitVec 16) (s : StreamIx) (d : List Byte) (w : W9) : (raiseS c src s d w).host.d3hot = w.host.d3hot := (raiseS_step c src s d w).host_d3hot
@[simp] theorem raiseS_host_msixOn (c src : BitVec 16) (s : StreamIx) (d : List Byte) (w : W9) : (raiseS c src s d w).host.msixOn = w.host.msixOn := (raiseS_step c src s d w).host_msixOn
@[simp] theorem raiseS_host_backlog (c src : BitVec 16) (s : StreamIx) (d : List Byte) (w : W9) : (raiseS c src s d w).host.backlog = w.host.backlog := (raiseS_step c src s d w).host_backlog
@[simp] theorem raiseS_host_cplWait (c src : BitVec 16) (s : StreamIx) (d : List Byte) (w : W9) : (raiseS c src s d w).host.cplWait = w.host.cplWait := (raiseS_step c src s d w).host_cplWait
@[simp] theorem raiseS_host_stamping (c src : BitVec 16) (s : StreamIx) (d : List Byte) (w : W9) : (raiseS c src s d w).host.stamping = w.host.stamping := (raiseS_step c src s d w).host_stamping
@[simp] theorem raiseS_host_vectorLast (c src : BitVec 16) (s : StreamIx) (d : List Byte) (w : W9) : (raiseS c src s d w).host.vectorLast = w.host.vectorLast := (raiseS_step c src s d w).host_vectorLast
@[simp] theorem raiseS_host_msixSent (c src : BitVec 16) (s : StreamIx) (d : List Byte) (w : W9) : (raiseS c src s d w).host.msixSent = w.host.msixSent := (raiseS_step c src s d w).host_msixSent
@[simp] theorem raiseS_host_bar2Waiting (c src : BitVec 16) (s : StreamIx) (d : List Byte) (w : W9) : (raiseS c src s d w).host.bar2Waiting = w.host.bar2Waiting := (raiseS_step c src s d w).host_bar2Waiting
@[simp] theorem raiseS_host_bar4 (c src : BitVec 16) (s : StreamIx) (d : List Byte) (w : W9) : (raiseS c src s d w).host.bar4 = w.host.bar4 := (raiseS_step c src s d w).host_bar4
@[simp] theorem raiseS_host_opSeq (c src : BitVec 16) (s : StreamIx) (d : List Byte) (w : W9) : (raiseS c src s d w).host.opSeq = w.host.opSeq := (raiseS_step c src s d w).host_opSeq
@[simp] theorem raiseS_flt_beatSeen (c src : BitVec 16) (s : StreamIx) (d : List Byte) (w : W9) : (raiseS c src s d w).flt.beatSeen = w.flt.beatSeen := (raiseS_step c src s d w).flt_beatSeen
@[simp] theorem raiseS_flt_misses (c src : BitVec 16) (s : StreamIx) (d : List Byte) (w : W9) : (raiseS c src s d w).flt.misses = w.flt.misses := (raiseS_step c src s d w).flt_misses
@[simp] theorem raiseS_flt_windowEnd (c src : BitVec 16) (s : StreamIx) (d : List Byte) (w : W9) : (raiseS c src s d w).flt.windowEnd = w.flt.windowEnd := (raiseS_step c src s d w).flt_windowEnd
@[simp] theorem raiseS_flt_suspects (c src : BitVec 16) (s : StreamIx) (d : List Byte) (w : W9) : (raiseS c src s d w).flt.suspects = w.flt.suspects := (raiseS_step c src s d w).flt_suspects
@[simp] theorem raiseS_flt_replay (c src : BitVec 16) (s : StreamIx) (d : List Byte) (w : W9) : (raiseS c src s d w).flt.replay = w.flt.replay := (raiseS_step c src s d w).flt_replay
@[simp] theorem raiseS_flt_detectTime (c src : BitVec 16) (s : StreamIx) (d : List Byte) (w : W9) : (raiseS c src s d w).flt.detectTime = w.flt.detectTime := (raiseS_step c src s d w).flt_detectTime
@[simp] theorem raiseS_flt_recovering (c src : BitVec 16) (s : StreamIx) (d : List Byte) (w : W9) : (raiseS c src s d w).flt.recovering = w.flt.recovering := (raiseS_step c src s d w).flt_recovering
@[simp] theorem raiseS_flt_firstLost (c src : BitVec 16) (s : StreamIx) (d : List Byte) (w : W9) : (raiseS c src s d w).flt.firstLost = w.flt.firstLost := (raiseS_step c src s d w).flt_firstLost
@[simp] theorem raiseS_flt_recoveryDue (c src : BitVec 16) (s : StreamIx) (d : List Byte) (w : W9) : (raiseS c src s d w).flt.recoveryDue = w.flt.recoveryDue := (raiseS_step c src s d w).flt_recoveryDue
@[simp] theorem raiseS_flt_waitSince (c src : BitVec 16) (s : StreamIx) (d : List Byte) (w : W9) : (raiseS c src s d w).flt.waitSince = w.flt.waitSince := (raiseS_step c src s d w).flt_waitSince
@[simp] theorem raiseS_flt_helloSeen (c src : BitVec 16) (s : StreamIx) (d : List Byte) (w : W9) : (raiseS c src s d w).flt.helloSeen = w.flt.helloSeen := (raiseS_step c src s d w).flt_helloSeen
theorem rd_raiseS (c src : BitVec 16) (s : StreamIx) (d : List Byte) (w : W9) {off : Nat} (h1 : off ≠ Reg.evtLost) (h2 : off ≠ Reg.hostifErr) :
    rd (raiseS c src s d w) off = rd w off := (raiseS_step c src s d w).regs off h1 h2

/-! ## raiseT -/

@[simp] theorem raiseT_page (t : Tile) (c : BitVec 16) (d : List Byte) (w : W9) : (raiseT t c d w).page = w.page := (raiseT_step t c d w).page
@[simp] theorem raiseT_mem (t : Tile) (c : BitVec 16) (d : List Byte) (w : W9) : (raiseT t c d w).mem = w.mem := (raiseT_step t c d w).mem
@[simp] theorem raiseT_tiles (t : Tile) (c : BitVec 16) (d : List Byte) (w : W9) : (raiseT t c d w).tiles = w.tiles := (raiseT_step t c d w).tiles
@[simp] theorem raiseT_routers (t : Tile) (c : BitVec 16) (d : List Byte) (w : W9) : (raiseT t c d w).routers = w.routers := (raiseT_step t c d w).routers
@[simp] theorem raiseT_fields (t : Tile) (c : BitVec 16) (d : List Byte) (w : W9) : (raiseT t c d w).fields = w.fields := (raiseT_step t c d w).fields
@[simp] theorem raiseT_gws (t : Tile) (c : BitVec 16) (d : List Byte) (w : W9) : (raiseT t c d w).gws = w.gws := (raiseT_step t c d w).gws
@[simp] theorem raiseT_prec (t : Tile) (c : BitVec 16) (d : List Byte) (w : W9) : (raiseT t c d w).prec = w.prec := (raiseT_step t c d w).prec
@[simp] theorem raiseT_serve (t : Tile) (c : BitVec 16) (d : List Byte) (w : W9) : (raiseT t c d w).serve = w.serve := (raiseT_step t c d w).serve
@[simp] theorem raiseT_kv (t : Tile) (c : BitVec 16) (d : List Byte) (w : W9) : (raiseT t c d w).kv = w.kv := (raiseT_step t c d w).kv
@[simp] theorem raiseT_wt (t : Tile) (c : BitVec 16) (d : List Byte) (w : W9) : (raiseT t c d w).wt = w.wt := (raiseT_step t c d w).wt
@[simp] theorem raiseT_img (t : Tile) (c : BitVec 16) (d : List Byte) (w : W9) : (raiseT t c d w).img = w.img := (raiseT_step t c d w).img
@[simp] theorem raiseT_checked (t : Tile) (c : BitVec 16) (d : List Byte) (w : W9) : (raiseT t c d w).checked = w.checked := (raiseT_step t c d w).checked
@[simp] theorem raiseT_dbg (t : Tile) (c : BitVec 16) (d : List Byte) (w : W9) : (raiseT t c d w).dbg = w.dbg := (raiseT_step t c d w).dbg
@[simp] theorem raiseT_side (t : Tile) (c : BitVec 16) (d : List Byte) (w : W9) : (raiseT t c d w).side = w.side := (raiseT_step t c d w).side
@[simp] theorem raiseT_ports (t : Tile) (c : BitVec 16) (d : List Byte) (w : W9) : (raiseT t c d w).ports = w.ports := (raiseT_step t c d w).ports
@[simp] theorem raiseT_pair (t : Tile) (c : BitVec 16) (d : List Byte) (w : W9) : (raiseT t c d w).pair = w.pair := (raiseT_step t c d w).pair
@[simp] theorem raiseT_env (t : Tile) (c : BitVec 16) (d : List Byte) (w : W9) : (raiseT t c d w).env = w.env := (raiseT_step t c d w).env
@[simp] theorem raiseT_rst (t : Tile) (c : BitVec 16) (d : List Byte) (w : W9) : (raiseT t c d w).rst = w.rst := (raiseT_step t c d w).rst
@[simp] theorem raiseT_opt (t : Tile) (c : BitVec 16) (d : List Byte) (w : W9) : (raiseT t c d w).opt = w.opt := (raiseT_step t c d w).opt
@[simp] theorem raiseT_att (t : Tile) (c : BitVec 16) (d : List Byte) (w : W9) : (raiseT t c d w).att = w.att := (raiseT_step t c d w).att
@[simp] theorem raiseT_dev_stepping (t : Tile) (c : BitVec 16) (d : List Byte) (w : W9) : (raiseT t c d w).dev.stepping = w.dev.stepping := (raiseT_step t c d w).dev_stepping
@[simp] theorem raiseT_dev_powered (t : Tile) (c : BitVec 16) (d : List Byte) (w : W9) : (raiseT t c d w).dev.powered = w.dev.powered := (raiseT_step t c d w).dev_powered
@[simp] theorem raiseT_dev_rstDone (t : Tile) (c : BitVec 16) (d : List Byte) (w : W9) : (raiseT t c d w).dev.rstDone = w.dev.rstDone := (raiseT_step t c d w).dev_rstDone
@[simp] theorem raiseT_dev_time (t : Tile) (c : BitVec 16) (d : List Byte) (w : W9) : (raiseT t c d w).dev.time = w.dev.time := (raiseT_step t c d w).dev_time
@[simp] theorem raiseT_dev_timeLatch (t : Tile) (c : BitVec 16) (d : List Byte) (w : W9) : (raiseT t c d w).dev.timeLatch = w.dev.timeLatch := (raiseT_step t c d w).dev_timeLatch
@[simp] theorem raiseT_dev_copies (t : Tile) (c : BitVec 16) (d : List Byte) (w : W9) : (raiseT t c d w).dev.copies = w.dev.copies := (raiseT_step t c d w).dev_copies
@[simp] theorem raiseT_dev_free (t : Tile) (c : BitVec 16) (d : List Byte) (w : W9) : (raiseT t c d w).dev.free = w.dev.free := (raiseT_step t c d w).dev_free
@[simp] theorem raiseT_host_readData (t : Tile) (c : BitVec 16) (d : List Byte) (w : W9) : (raiseT t c d w).host.readData = w.host.readData := (raiseT_step t c d w).host_readData
@[simp] theorem raiseT_host_poisoned (t : Tile) (c : BitVec 16) (d : List Byte) (w : W9) : (raiseT t c d w).host.poisoned = w.host.poisoned := (raiseT_step t c d w).host_poisoned
@[simp] theorem raiseT_host_hostMem (t : Tile) (c : BitVec 16) (d : List Byte) (w : W9) : (raiseT t c d w).host.hostMem = w.host.hostMem := (raiseT_step t c d w).host_hostMem
@[simp] theorem raiseT_host_linkUp (t : Tile) (c : BitVec 16) (d : List Byte) (w : W9) : (raiseT t c d w).host.linkUp = w.host.linkUp := (raiseT_step t c d w).host_linkUp
@[simp] theorem raiseT_host_d3hot (t : Tile) (c : BitVec 16) (d : List Byte) (w : W9) : (raiseT t c d w).host.d3hot = w.host.d3hot := (raiseT_step t c d w).host_d3hot
@[simp] theorem raiseT_host_msixOn (t : Tile) (c : BitVec 16) (d : List Byte) (w : W9) : (raiseT t c d w).host.msixOn = w.host.msixOn := (raiseT_step t c d w).host_msixOn
@[simp] theorem raiseT_host_backlog (t : Tile) (c : BitVec 16) (d : List Byte) (w : W9) : (raiseT t c d w).host.backlog = w.host.backlog := (raiseT_step t c d w).host_backlog
@[simp] theorem raiseT_host_cplWait (t : Tile) (c : BitVec 16) (d : List Byte) (w : W9) : (raiseT t c d w).host.cplWait = w.host.cplWait := (raiseT_step t c d w).host_cplWait
@[simp] theorem raiseT_host_stamping (t : Tile) (c : BitVec 16) (d : List Byte) (w : W9) : (raiseT t c d w).host.stamping = w.host.stamping := (raiseT_step t c d w).host_stamping
@[simp] theorem raiseT_host_vectorLast (t : Tile) (c : BitVec 16) (d : List Byte) (w : W9) : (raiseT t c d w).host.vectorLast = w.host.vectorLast := (raiseT_step t c d w).host_vectorLast
@[simp] theorem raiseT_host_msixSent (t : Tile) (c : BitVec 16) (d : List Byte) (w : W9) : (raiseT t c d w).host.msixSent = w.host.msixSent := (raiseT_step t c d w).host_msixSent
@[simp] theorem raiseT_host_bar2Waiting (t : Tile) (c : BitVec 16) (d : List Byte) (w : W9) : (raiseT t c d w).host.bar2Waiting = w.host.bar2Waiting := (raiseT_step t c d w).host_bar2Waiting
@[simp] theorem raiseT_host_bar4 (t : Tile) (c : BitVec 16) (d : List Byte) (w : W9) : (raiseT t c d w).host.bar4 = w.host.bar4 := (raiseT_step t c d w).host_bar4
@[simp] theorem raiseT_host_opSeq (t : Tile) (c : BitVec 16) (d : List Byte) (w : W9) : (raiseT t c d w).host.opSeq = w.host.opSeq := (raiseT_step t c d w).host_opSeq
@[simp] theorem raiseT_flt_beatSeen (t : Tile) (c : BitVec 16) (d : List Byte) (w : W9) : (raiseT t c d w).flt.beatSeen = w.flt.beatSeen := (raiseT_step t c d w).flt_beatSeen
@[simp] theorem raiseT_flt_misses (t : Tile) (c : BitVec 16) (d : List Byte) (w : W9) : (raiseT t c d w).flt.misses = w.flt.misses := (raiseT_step t c d w).flt_misses
@[simp] theorem raiseT_flt_windowEnd (t : Tile) (c : BitVec 16) (d : List Byte) (w : W9) : (raiseT t c d w).flt.windowEnd = w.flt.windowEnd := (raiseT_step t c d w).flt_windowEnd
@[simp] theorem raiseT_flt_suspects (t : Tile) (c : BitVec 16) (d : List Byte) (w : W9) : (raiseT t c d w).flt.suspects = w.flt.suspects := (raiseT_step t c d w).flt_suspects
@[simp] theorem raiseT_flt_replay (t : Tile) (c : BitVec 16) (d : List Byte) (w : W9) : (raiseT t c d w).flt.replay = w.flt.replay := (raiseT_step t c d w).flt_replay
@[simp] theorem raiseT_flt_detectTime (t : Tile) (c : BitVec 16) (d : List Byte) (w : W9) : (raiseT t c d w).flt.detectTime = w.flt.detectTime := (raiseT_step t c d w).flt_detectTime
@[simp] theorem raiseT_flt_recovering (t : Tile) (c : BitVec 16) (d : List Byte) (w : W9) : (raiseT t c d w).flt.recovering = w.flt.recovering := (raiseT_step t c d w).flt_recovering
@[simp] theorem raiseT_flt_firstLost (t : Tile) (c : BitVec 16) (d : List Byte) (w : W9) : (raiseT t c d w).flt.firstLost = w.flt.firstLost := (raiseT_step t c d w).flt_firstLost
@[simp] theorem raiseT_flt_recoveryDue (t : Tile) (c : BitVec 16) (d : List Byte) (w : W9) : (raiseT t c d w).flt.recoveryDue = w.flt.recoveryDue := (raiseT_step t c d w).flt_recoveryDue
@[simp] theorem raiseT_flt_waitSince (t : Tile) (c : BitVec 16) (d : List Byte) (w : W9) : (raiseT t c d w).flt.waitSince = w.flt.waitSince := (raiseT_step t c d w).flt_waitSince
@[simp] theorem raiseT_flt_helloSeen (t : Tile) (c : BitVec 16) (d : List Byte) (w : W9) : (raiseT t c d w).flt.helloSeen = w.flt.helloSeen := (raiseT_step t c d w).flt_helloSeen
theorem rd_raiseT (t : Tile) (c : BitVec 16) (d : List Byte) (w : W9) {off : Nat} (h1 : off ≠ Reg.evtLost) (h2 : off ≠ Reg.hostifErr) :
    rd (raiseT t c d w) off = rd w off := (raiseT_step t c d w).regs off h1 h2

/-! ## hostErr -/

@[simp] theorem hostErr_page (i : Nat) (w : W9) : (hostErr i w).page = w.page := (hostErr_step i w).page
@[simp] theorem hostErr_mem (i : Nat) (w : W9) : (hostErr i w).mem = w.mem := (hostErr_step i w).mem
@[simp] theorem hostErr_tiles (i : Nat) (w : W9) : (hostErr i w).tiles = w.tiles := (hostErr_step i w).tiles
@[simp] theorem hostErr_routers (i : Nat) (w : W9) : (hostErr i w).routers = w.routers := (hostErr_step i w).routers
@[simp] theorem hostErr_fields (i : Nat) (w : W9) : (hostErr i w).fields = w.fields := (hostErr_step i w).fields
@[simp] theorem hostErr_gws (i : Nat) (w : W9) : (hostErr i w).gws = w.gws := (hostErr_step i w).gws
@[simp] theorem hostErr_prec (i : Nat) (w : W9) : (hostErr i w).prec = w.prec := (hostErr_step i w).prec
@[simp] theorem hostErr_serve (i : Nat) (w : W9) : (hostErr i w).serve = w.serve := (hostErr_step i w).serve
@[simp] theorem hostErr_kv (i : Nat) (w : W9) : (hostErr i w).kv = w.kv := (hostErr_step i w).kv
@[simp] theorem hostErr_wt (i : Nat) (w : W9) : (hostErr i w).wt = w.wt := (hostErr_step i w).wt
@[simp] theorem hostErr_img (i : Nat) (w : W9) : (hostErr i w).img = w.img := (hostErr_step i w).img
@[simp] theorem hostErr_checked (i : Nat) (w : W9) : (hostErr i w).checked = w.checked := (hostErr_step i w).checked
@[simp] theorem hostErr_dbg (i : Nat) (w : W9) : (hostErr i w).dbg = w.dbg := (hostErr_step i w).dbg
@[simp] theorem hostErr_side (i : Nat) (w : W9) : (hostErr i w).side = w.side := (hostErr_step i w).side
@[simp] theorem hostErr_ports (i : Nat) (w : W9) : (hostErr i w).ports = w.ports := (hostErr_step i w).ports
@[simp] theorem hostErr_pair (i : Nat) (w : W9) : (hostErr i w).pair = w.pair := (hostErr_step i w).pair
@[simp] theorem hostErr_env (i : Nat) (w : W9) : (hostErr i w).env = w.env := (hostErr_step i w).env
@[simp] theorem hostErr_rst (i : Nat) (w : W9) : (hostErr i w).rst = w.rst := (hostErr_step i w).rst
@[simp] theorem hostErr_opt (i : Nat) (w : W9) : (hostErr i w).opt = w.opt := (hostErr_step i w).opt
@[simp] theorem hostErr_att (i : Nat) (w : W9) : (hostErr i w).att = w.att := (hostErr_step i w).att
@[simp] theorem hostErr_dev_stepping (i : Nat) (w : W9) : (hostErr i w).dev.stepping = w.dev.stepping := (hostErr_step i w).dev_stepping
@[simp] theorem hostErr_dev_powered (i : Nat) (w : W9) : (hostErr i w).dev.powered = w.dev.powered := (hostErr_step i w).dev_powered
@[simp] theorem hostErr_dev_rstDone (i : Nat) (w : W9) : (hostErr i w).dev.rstDone = w.dev.rstDone := (hostErr_step i w).dev_rstDone
@[simp] theorem hostErr_dev_time (i : Nat) (w : W9) : (hostErr i w).dev.time = w.dev.time := (hostErr_step i w).dev_time
@[simp] theorem hostErr_dev_timeLatch (i : Nat) (w : W9) : (hostErr i w).dev.timeLatch = w.dev.timeLatch := (hostErr_step i w).dev_timeLatch
@[simp] theorem hostErr_dev_copies (i : Nat) (w : W9) : (hostErr i w).dev.copies = w.dev.copies := (hostErr_step i w).dev_copies
@[simp] theorem hostErr_dev_free (i : Nat) (w : W9) : (hostErr i w).dev.free = w.dev.free := (hostErr_step i w).dev_free
@[simp] theorem hostErr_host_readData (i : Nat) (w : W9) : (hostErr i w).host.readData = w.host.readData := (hostErr_step i w).host_readData
@[simp] theorem hostErr_host_poisoned (i : Nat) (w : W9) : (hostErr i w).host.poisoned = w.host.poisoned := (hostErr_step i w).host_poisoned
@[simp] theorem hostErr_host_hostMem (i : Nat) (w : W9) : (hostErr i w).host.hostMem = w.host.hostMem := (hostErr_step i w).host_hostMem
@[simp] theorem hostErr_host_linkUp (i : Nat) (w : W9) : (hostErr i w).host.linkUp = w.host.linkUp := (hostErr_step i w).host_linkUp
@[simp] theorem hostErr_host_d3hot (i : Nat) (w : W9) : (hostErr i w).host.d3hot = w.host.d3hot := (hostErr_step i w).host_d3hot
@[simp] theorem hostErr_host_msixOn (i : Nat) (w : W9) : (hostErr i w).host.msixOn = w.host.msixOn := (hostErr_step i w).host_msixOn
@[simp] theorem hostErr_host_backlog (i : Nat) (w : W9) : (hostErr i w).host.backlog = w.host.backlog := (hostErr_step i w).host_backlog
@[simp] theorem hostErr_host_cplWait (i : Nat) (w : W9) : (hostErr i w).host.cplWait = w.host.cplWait := (hostErr_step i w).host_cplWait
@[simp] theorem hostErr_host_stamping (i : Nat) (w : W9) : (hostErr i w).host.stamping = w.host.stamping := (hostErr_step i w).host_stamping
@[simp] theorem hostErr_host_vectorLast (i : Nat) (w : W9) : (hostErr i w).host.vectorLast = w.host.vectorLast := (hostErr_step i w).host_vectorLast
@[simp] theorem hostErr_host_msixSent (i : Nat) (w : W9) : (hostErr i w).host.msixSent = w.host.msixSent := (hostErr_step i w).host_msixSent
@[simp] theorem hostErr_host_bar2Waiting (i : Nat) (w : W9) : (hostErr i w).host.bar2Waiting = w.host.bar2Waiting := (hostErr_step i w).host_bar2Waiting
@[simp] theorem hostErr_host_bar4 (i : Nat) (w : W9) : (hostErr i w).host.bar4 = w.host.bar4 := (hostErr_step i w).host_bar4
@[simp] theorem hostErr_host_opSeq (i : Nat) (w : W9) : (hostErr i w).host.opSeq = w.host.opSeq := (hostErr_step i w).host_opSeq
@[simp] theorem hostErr_flt_beatSeen (i : Nat) (w : W9) : (hostErr i w).flt.beatSeen = w.flt.beatSeen := (hostErr_step i w).flt_beatSeen
@[simp] theorem hostErr_flt_misses (i : Nat) (w : W9) : (hostErr i w).flt.misses = w.flt.misses := (hostErr_step i w).flt_misses
@[simp] theorem hostErr_flt_windowEnd (i : Nat) (w : W9) : (hostErr i w).flt.windowEnd = w.flt.windowEnd := (hostErr_step i w).flt_windowEnd
@[simp] theorem hostErr_flt_suspects (i : Nat) (w : W9) : (hostErr i w).flt.suspects = w.flt.suspects := (hostErr_step i w).flt_suspects
@[simp] theorem hostErr_flt_replay (i : Nat) (w : W9) : (hostErr i w).flt.replay = w.flt.replay := (hostErr_step i w).flt_replay
@[simp] theorem hostErr_flt_detectTime (i : Nat) (w : W9) : (hostErr i w).flt.detectTime = w.flt.detectTime := (hostErr_step i w).flt_detectTime
@[simp] theorem hostErr_flt_recovering (i : Nat) (w : W9) : (hostErr i w).flt.recovering = w.flt.recovering := (hostErr_step i w).flt_recovering
@[simp] theorem hostErr_flt_firstLost (i : Nat) (w : W9) : (hostErr i w).flt.firstLost = w.flt.firstLost := (hostErr_step i w).flt_firstLost
@[simp] theorem hostErr_flt_recoveryDue (i : Nat) (w : W9) : (hostErr i w).flt.recoveryDue = w.flt.recoveryDue := (hostErr_step i w).flt_recoveryDue
@[simp] theorem hostErr_flt_waitSince (i : Nat) (w : W9) : (hostErr i w).flt.waitSince = w.flt.waitSince := (hostErr_step i w).flt_waitSince
@[simp] theorem hostErr_flt_helloSeen (i : Nat) (w : W9) : (hostErr i w).flt.helloSeen = w.flt.helloSeen := (hostErr_step i w).flt_helloSeen
theorem rd_hostErr (i : Nat) (w : W9) {off : Nat} (h1 : off ≠ Reg.evtLost) (h2 : off ≠ Reg.hostifErr) :
    rd (hostErr i w) off = rd w off := (hostErr_step i w).regs off h1 h2

/-! ## The indexed parts -/

@[simp] theorem prd_raise (c s cs : BitVec 16) (d : List Byte) (u : Tile) (o : Nat) (w : W9) : prd (raise c s cs d w) u o = prd w u o := by simp [prd]
@[simp] theorem tileOf_raise (c s cs : BitVec 16) (d : List Byte) (u : Tile) (w : W9) : tileOf (raise c s cs d w) u = tileOf w u := by simp [tileOf]
@[simp] theorem routerOf_raise (c s cs : BitVec 16) (d : List Byte) (u : Tile) (w : W9) : routerOf (raise c s cs d w) u = routerOf w u := by simp [routerOf]
@[simp] theorem fieldState_raise (c s cs : BitVec 16) (d : List Byte) (j : FieldIx) (w : W9) : fieldState (raise c s cs d w) j = fieldState w j := by simp [fieldState]
@[simp] theorem gwOf_raise (c s cs : BitVec 16) (d : List Byte) (j : Gateway) (w : W9) : gwOf (raise c s cs d w) j = gwOf w j := by simp [gwOf]
@[simp] theorem portOf_raise (c s cs : BitVec 16) (d : List Byte) (j : PortIx) (w : W9) : portOf (raise c s cs d w) j = portOf w j := by simp [portOf]
@[simp] theorem streamOf_raise (c s cs : BitVec 16) (d : List Byte) (j : StreamIx) (w : W9) : streamOf (raise c s cs d w) j = streamOf w j := by simp [streamOf]
@[simp] theorem layerOf_raise (c s cs : BitVec 16) (d : List Byte) (j : LayerIx) (w : W9) : layerOf (raise c s cs d w) j = layerOf w j := by simp [layerOf]
@[simp] theorem prd_raise0 (c s : BitVec 16) (d : List Byte) (u : Tile) (o : Nat) (w : W9) : prd (raise0 c s d w) u o = prd w u o := by simp [prd]
@[simp] theorem tileOf_raise0 (c s : BitVec 16) (d : List Byte) (u : Tile) (w : W9) : tileOf (raise0 c s d w) u = tileOf w u := by simp [tileOf]
@[simp] theorem routerOf_raise0 (c s : BitVec 16) (d : List Byte) (u : Tile) (w : W9) : routerOf (raise0 c s d w) u = routerOf w u := by simp [routerOf]
@[simp] theorem fieldState_raise0 (c s : BitVec 16) (d : List Byte) (j : FieldIx) (w : W9) : fieldState (raise0 c s d w) j = fieldState w j := by simp [fieldState]
@[simp] theorem gwOf_raise0 (c s : BitVec 16) (d : List Byte) (j : Gateway) (w : W9) : gwOf (raise0 c s d w) j = gwOf w j := by simp [gwOf]
@[simp] theorem portOf_raise0 (c s : BitVec 16) (d : List Byte) (j : PortIx) (w : W9) : portOf (raise0 c s d w) j = portOf w j := by simp [portOf]
@[simp] theorem streamOf_raise0 (c s : BitVec 16) (d : List Byte) (j : StreamIx) (w : W9) : streamOf (raise0 c s d w) j = streamOf w j := by simp [streamOf]
@[simp] theorem layerOf_raise0 (c s : BitVec 16) (d : List Byte) (j : LayerIx) (w : W9) : layerOf (raise0 c s d w) j = layerOf w j := by simp [layerOf]
@[simp] theorem prd_raiseS (c src : BitVec 16) (s : StreamIx) (d : List Byte) (u : Tile) (o : Nat) (w : W9) : prd (raiseS c src s d w) u o = prd w u o := by simp [prd]
@[simp] theorem tileOf_raiseS (c src : BitVec 16) (s : StreamIx) (d : List Byte) (u : Tile) (w : W9) : tileOf (raiseS c src s d w) u = tileOf w u := by simp [tileOf]
@[simp] theorem routerOf_raiseS (c src : BitVec 16) (s : StreamIx) (d : List Byte) (u : Tile) (w : W9) : routerOf (raiseS c src s d w) u = routerOf w u := by simp [routerOf]
@[simp] theorem fieldState_raiseS (c src : BitVec 16) (s : StreamIx) (d : List Byte) (j : FieldIx) (w : W9) : fieldState (raiseS c src s d w) j = fieldState w j := by simp [fieldState]
@[simp] theorem gwOf_raiseS (c src : BitVec 16) (s : StreamIx) (d : List Byte) (j : Gateway) (w : W9) : gwOf (raiseS c src s d w) j = gwOf w j := by simp [gwOf]
@[simp] theorem portOf_raiseS (c src : BitVec 16) (s : StreamIx) (d : List Byte) (j : PortIx) (w : W9) : portOf (raiseS c src s d w) j = portOf w j := by simp [portOf]
@[simp] theorem streamOf_raiseS (c src : BitVec 16) (s : StreamIx) (d : List Byte) (j : StreamIx) (w : W9) : streamOf (raiseS c src s d w) j = streamOf w j := by simp [streamOf]
@[simp] theorem layerOf_raiseS (c src : BitVec 16) (s : StreamIx) (d : List Byte) (j : LayerIx) (w : W9) : layerOf (raiseS c src s d w) j = layerOf w j := by simp [layerOf]
@[simp] theorem prd_raiseT (t : Tile) (c : BitVec 16) (d : List Byte) (u : Tile) (o : Nat) (w : W9) : prd (raiseT t c d w) u o = prd w u o := by simp [prd]
@[simp] theorem tileOf_raiseT (t : Tile) (c : BitVec 16) (d : List Byte) (u : Tile) (w : W9) : tileOf (raiseT t c d w) u = tileOf w u := by simp [tileOf]
@[simp] theorem routerOf_raiseT (t : Tile) (c : BitVec 16) (d : List Byte) (u : Tile) (w : W9) : routerOf (raiseT t c d w) u = routerOf w u := by simp [routerOf]
@[simp] theorem fieldState_raiseT (t : Tile) (c : BitVec 16) (d : List Byte) (j : FieldIx) (w : W9) : fieldState (raiseT t c d w) j = fieldState w j := by simp [fieldState]
@[simp] theorem gwOf_raiseT (t : Tile) (c : BitVec 16) (d : List Byte) (j : Gateway) (w : W9) : gwOf (raiseT t c d w) j = gwOf w j := by simp [gwOf]
@[simp] theorem portOf_raiseT (t : Tile) (c : BitVec 16) (d : List Byte) (j : PortIx) (w : W9) : portOf (raiseT t c d w) j = portOf w j := by simp [portOf]
@[simp] theorem streamOf_raiseT (t : Tile) (c : BitVec 16) (d : List Byte) (j : StreamIx) (w : W9) : streamOf (raiseT t c d w) j = streamOf w j := by simp [streamOf]
@[simp] theorem layerOf_raiseT (t : Tile) (c : BitVec 16) (d : List Byte) (j : LayerIx) (w : W9) : layerOf (raiseT t c d w) j = layerOf w j := by simp [layerOf]
@[simp] theorem prd_hostErr (i : Nat) (u : Tile) (o : Nat) (w : W9) : prd (hostErr i w) u o = prd w u o := by simp [prd]
@[simp] theorem tileOf_hostErr (i : Nat) (u : Tile) (w : W9) : tileOf (hostErr i w) u = tileOf w u := by simp [tileOf]
@[simp] theorem routerOf_hostErr (i : Nat) (u : Tile) (w : W9) : routerOf (hostErr i w) u = routerOf w u := by simp [routerOf]
@[simp] theorem fieldState_hostErr (i : Nat) (j : FieldIx) (w : W9) : fieldState (hostErr i w) j = fieldState w j := by simp [fieldState]
@[simp] theorem gwOf_hostErr (i : Nat) (j : Gateway) (w : W9) : gwOf (hostErr i w) j = gwOf w j := by simp [gwOf]
@[simp] theorem portOf_hostErr (i : Nat) (j : PortIx) (w : W9) : portOf (hostErr i w) j = portOf w j := by simp [portOf]
@[simp] theorem streamOf_hostErr (i : Nat) (j : StreamIx) (w : W9) : streamOf (hostErr i w) j = streamOf w j := by simp [streamOf]
@[simp] theorem layerOf_hostErr (i : Nat) (j : LayerIx) (w : W9) : layerOf (hostErr i w) j = layerOf w j := by simp [layerOf]
@[simp] theorem tileErr_dev (t : Tile) (i : Nat) (w : W9) : (tileErr t i w).dev = w.dev := rfl
@[simp] theorem tileErr_bar0 (t : Tile) (i : Nat) (w : W9) : (tileErr t i w).bar0 = w.bar0 := rfl
@[simp] theorem tileErr_mem (t : Tile) (i : Nat) (w : W9) : (tileErr t i w).mem = w.mem := rfl
@[simp] theorem tileErr_tiles (t : Tile) (i : Nat) (w : W9) : (tileErr t i w).tiles = w.tiles := rfl
@[simp] theorem tileErr_routers (t : Tile) (i : Nat) (w : W9) : (tileErr t i w).routers = w.routers := rfl
@[simp] theorem tileErr_fields (t : Tile) (i : Nat) (w : W9) : (tileErr t i w).fields = w.fields := rfl
@[simp] theorem tileErr_gws (t : Tile) (i : Nat) (w : W9) : (tileErr t i w).gws = w.gws := rfl
@[simp] theorem tileErr_prec (t : Tile) (i : Nat) (w : W9) : (tileErr t i w).prec = w.prec := rfl
@[simp] theorem tileErr_serve (t : Tile) (i : Nat) (w : W9) : (tileErr t i w).serve = w.serve := rfl
@[simp] theorem tileErr_kv (t : Tile) (i : Nat) (w : W9) : (tileErr t i w).kv = w.kv := rfl
@[simp] theorem tileErr_wt (t : Tile) (i : Nat) (w : W9) : (tileErr t i w).wt = w.wt := rfl
@[simp] theorem tileErr_img (t : Tile) (i : Nat) (w : W9) : (tileErr t i w).img = w.img := rfl
@[simp] theorem tileErr_checked (t : Tile) (i : Nat) (w : W9) : (tileErr t i w).checked = w.checked := rfl
@[simp] theorem tileErr_dbg (t : Tile) (i : Nat) (w : W9) : (tileErr t i w).dbg = w.dbg := rfl
@[simp] theorem tileErr_host (t : Tile) (i : Nat) (w : W9) : (tileErr t i w).host = w.host := rfl
@[simp] theorem tileErr_side (t : Tile) (i : Nat) (w : W9) : (tileErr t i w).side = w.side := rfl
@[simp] theorem tileErr_ports (t : Tile) (i : Nat) (w : W9) : (tileErr t i w).ports = w.ports := rfl
@[simp] theorem tileErr_pair (t : Tile) (i : Nat) (w : W9) : (tileErr t i w).pair = w.pair := rfl
@[simp] theorem tileErr_env (t : Tile) (i : Nat) (w : W9) : (tileErr t i w).env = w.env := rfl
@[simp] theorem tileErr_rst (t : Tile) (i : Nat) (w : W9) : (tileErr t i w).rst = w.rst := rfl
@[simp] theorem tileErr_opt (t : Tile) (i : Nat) (w : W9) : (tileErr t i w).opt = w.opt := rfl
@[simp] theorem tileErr_att (t : Tile) (i : Nat) (w : W9) : (tileErr t i w).att = w.att := rfl
@[simp] theorem tileErr_flt (t : Tile) (i : Nat) (w : W9) : (tileErr t i w).flt = w.flt := rfl
@[simp] theorem tileOf_tileErr (t : Tile) (i : Nat) (u : Tile) (w : W9) : tileOf (tileErr t i w) u = tileOf w u := rfl
@[simp] theorem routerOf_tileErr (t : Tile) (i : Nat) (u : Tile) (w : W9) : routerOf (tileErr t i w) u = routerOf w u := rfl
@[simp] theorem fieldState_tileErr (t : Tile) (i : Nat) (j : FieldIx) (w : W9) : fieldState (tileErr t i w) j = fieldState w j := rfl
@[simp] theorem gwOf_tileErr (t : Tile) (i : Nat) (j : Gateway) (w : W9) : gwOf (tileErr t i w) j = gwOf w j := rfl
@[simp] theorem portOf_tileErr (t : Tile) (i : Nat) (j : PortIx) (w : W9) : portOf (tileErr t i w) j = portOf w j := rfl
@[simp] theorem streamOf_tileErr (t : Tile) (i : Nat) (j : StreamIx) (w : W9) : streamOf (tileErr t i w) j = streamOf w j := rfl
@[simp] theorem layerOf_tileErr (t : Tile) (i : Nat) (j : LayerIx) (w : W9) : layerOf (tileErr t i w) j = layerOf w j := rfl
@[simp] theorem rd_tileErr (t : Tile) (i : Nat) (o : Nat) (w : W9) : rd (tileErr t i w) o = rd w o := rfl

end Sys2Proof.Machine
end

