-- ==== Sys2Proof/Laws/Tile.lean ====
section
/-! SUPPORT. The tile's shared operations: what a check of the hazard detector, a held bundle, consumed signals and the effects of reads
leave alone. -/

namespace Sys2Proof.Machine

open Sys2Proof

@[simp] theorem trap_page (c : Fin 5) (b : Bool) (src : BitVec 16) (f : FieldIx) (a : LAddr) (u : Byte) (x : BitVec 16) (w : W9) :
    (trap c b src f a u x w).page = w.page := by
  unfold trap
  split
  · dsimp only; split <;> split <;> simp [inc]
  · rfl
@[simp] theorem trap_mem (c : Fin 5) (b : Bool) (src : BitVec 16) (f : FieldIx) (a : LAddr) (u : Byte) (x : BitVec 16) (w : W9) :
    (trap c b src f a u x w).mem = w.mem := by
  unfold trap
  split
  · dsimp only; split <;> split <;> simp [inc]
  · rfl
@[simp] theorem trap_tiles (c : Fin 5) (b : Bool) (src : BitVec 16) (f : FieldIx) (a : LAddr) (u : Byte) (x : BitVec 16) (w : W9) :
    (trap c b src f a u x w).tiles = w.tiles := by
  unfold trap
  split
  · dsimp only; split <;> split <;> simp [inc]
  · rfl
@[simp] theorem trap_routers (c : Fin 5) (b : Bool) (src : BitVec 16) (f : FieldIx) (a : LAddr) (u : Byte) (x : BitVec 16) (w : W9) :
    (trap c b src f a u x w).routers = w.routers := by
  unfold trap
  split
  · dsimp only; split <;> split <;> simp [inc]
  · rfl
@[simp] theorem trap_fields (c : Fin 5) (b : Bool) (src : BitVec 16) (f : FieldIx) (a : LAddr) (u : Byte) (x : BitVec 16) (w : W9) :
    (trap c b src f a u x w).fields = w.fields := by
  unfold trap
  split
  · dsimp only; split <;> split <;> simp [inc]
  · rfl
@[simp] theorem trap_gws (c : Fin 5) (b : Bool) (src : BitVec 16) (f : FieldIx) (a : LAddr) (u : Byte) (x : BitVec 16) (w : W9) :
    (trap c b src f a u x w).gws = w.gws := by
  unfold trap
  split
  · dsimp only; split <;> split <;> simp [inc]
  · rfl
@[simp] theorem trap_prec (c : Fin 5) (b : Bool) (src : BitVec 16) (f : FieldIx) (a : LAddr) (u : Byte) (x : BitVec 16) (w : W9) :
    (trap c b src f a u x w).prec = w.prec := by
  unfold trap
  split
  · dsimp only; split <;> split <;> simp [inc]
  · rfl
@[simp] theorem trap_serve (c : Fin 5) (b : Bool) (src : BitVec 16) (f : FieldIx) (a : LAddr) (u : Byte) (x : BitVec 16) (w : W9) :
    (trap c b src f a u x w).serve = w.serve := by
  unfold trap
  split
  · dsimp only; split <;> split <;> simp [inc]
  · rfl
@[simp] theorem trap_kv (c : Fin 5) (b : Bool) (src : BitVec 16) (f : FieldIx) (a : LAddr) (u : Byte) (x : BitVec 16) (w : W9) :
    (trap c b src f a u x w).kv = w.kv := by
  unfold trap
  split
  · dsimp only; split <;> split <;> simp [inc]
  · rfl
@[simp] theorem trap_wt (c : Fin 5) (b : Bool) (src : BitVec 16) (f : FieldIx) (a : LAddr) (u : Byte) (x : BitVec 16) (w : W9) :
    (trap c b src f a u x w).wt = w.wt := by
  unfold trap
  split
  · dsimp only; split <;> split <;> simp [inc]
  · rfl
@[simp] theorem trap_img (c : Fin 5) (b : Bool) (src : BitVec 16) (f : FieldIx) (a : LAddr) (u : Byte) (x : BitVec 16) (w : W9) :
    (trap c b src f a u x w).img = w.img := by
  unfold trap
  split
  · dsimp only; split <;> split <;> simp [inc]
  · rfl
@[simp] theorem trap_checked (c : Fin 5) (b : Bool) (src : BitVec 16) (f : FieldIx) (a : LAddr) (u : Byte) (x : BitVec 16) (w : W9) :
    (trap c b src f a u x w).checked = w.checked := by
  unfold trap
  split
  · dsimp only; split <;> split <;> simp [inc]
  · rfl
@[simp] theorem trap_side (c : Fin 5) (b : Bool) (src : BitVec 16) (f : FieldIx) (a : LAddr) (u : Byte) (x : BitVec 16) (w : W9) :
    (trap c b src f a u x w).side = w.side := by
  unfold trap
  split
  · dsimp only; split <;> split <;> simp [inc]
  · rfl
@[simp] theorem trap_ports (c : Fin 5) (b : Bool) (src : BitVec 16) (f : FieldIx) (a : LAddr) (u : Byte) (x : BitVec 16) (w : W9) :
    (trap c b src f a u x w).ports = w.ports := by
  unfold trap
  split
  · dsimp only; split <;> split <;> simp [inc]
  · rfl
@[simp] theorem trap_pair (c : Fin 5) (b : Bool) (src : BitVec 16) (f : FieldIx) (a : LAddr) (u : Byte) (x : BitVec 16) (w : W9) :
    (trap c b src f a u x w).pair = w.pair := by
  unfold trap
  split
  · dsimp only; split <;> split <;> simp [inc]
  · rfl
@[simp] theorem trap_env (c : Fin 5) (b : Bool) (src : BitVec 16) (f : FieldIx) (a : LAddr) (u : Byte) (x : BitVec 16) (w : W9) :
    (trap c b src f a u x w).env = w.env := by
  unfold trap
  split
  · dsimp only; split <;> split <;> simp [inc]
  · rfl
@[simp] theorem trap_rst (c : Fin 5) (b : Bool) (src : BitVec 16) (f : FieldIx) (a : LAddr) (u : Byte) (x : BitVec 16) (w : W9) :
    (trap c b src f a u x w).rst = w.rst := by
  unfold trap
  split
  · dsimp only; split <;> split <;> simp [inc]
  · rfl
@[simp] theorem trap_opt (c : Fin 5) (b : Bool) (src : BitVec 16) (f : FieldIx) (a : LAddr) (u : Byte) (x : BitVec 16) (w : W9) :
    (trap c b src f a u x w).opt = w.opt := by
  unfold trap
  split
  · dsimp only; split <;> split <;> simp [inc]
  · rfl
@[simp] theorem trap_att (c : Fin 5) (b : Bool) (src : BitVec 16) (f : FieldIx) (a : LAddr) (u : Byte) (x : BitVec 16) (w : W9) :
    (trap c b src f a u x w).att = w.att := by
  unfold trap
  split
  · dsimp only; split <;> split <;> simp [inc]
  · rfl
@[simp] theorem trap_dev_stepping (c : Fin 5) (b : Bool) (src : BitVec 16) (f : FieldIx) (a : LAddr) (u : Byte) (x : BitVec 16) (w : W9) :
    (trap c b src f a u x w).dev.stepping = w.dev.stepping := by
  unfold trap
  split
  · dsimp only; split <;> split <;> simp [inc]
  · rfl
@[simp] theorem trap_dev_powered (c : Fin 5) (b : Bool) (src : BitVec 16) (f : FieldIx) (a : LAddr) (u : Byte) (x : BitVec 16) (w : W9) :
    (trap c b src f a u x w).dev.powered = w.dev.powered := by
  unfold trap
  split
  · dsimp only; split <;> split <;> simp [inc]
  · rfl
@[simp] theorem trap_dev_rstDone (c : Fin 5) (b : Bool) (src : BitVec 16) (f : FieldIx) (a : LAddr) (u : Byte) (x : BitVec 16) (w : W9) :
    (trap c b src f a u x w).dev.rstDone = w.dev.rstDone := by
  unfold trap
  split
  · dsimp only; split <;> split <;> simp [inc]
  · rfl
@[simp] theorem trap_dev_time (c : Fin 5) (b : Bool) (src : BitVec 16) (f : FieldIx) (a : LAddr) (u : Byte) (x : BitVec 16) (w : W9) :
    (trap c b src f a u x w).dev.time = w.dev.time := by
  unfold trap
  split
  · dsimp only; split <;> split <;> simp [inc]
  · rfl
@[simp] theorem trap_dev_timeLatch (c : Fin 5) (b : Bool) (src : BitVec 16) (f : FieldIx) (a : LAddr) (u : Byte) (x : BitVec 16) (w : W9) :
    (trap c b src f a u x w).dev.timeLatch = w.dev.timeLatch := by
  unfold trap
  split
  · dsimp only; split <;> split <;> simp [inc]
  · rfl
@[simp] theorem trap_dev_copies (c : Fin 5) (b : Bool) (src : BitVec 16) (f : FieldIx) (a : LAddr) (u : Byte) (x : BitVec 16) (w : W9) :
    (trap c b src f a u x w).dev.copies = w.dev.copies := by
  unfold trap
  split
  · dsimp only; split <;> split <;> simp [inc]
  · rfl
@[simp] theorem trap_dev_free (c : Fin 5) (b : Bool) (src : BitVec 16) (f : FieldIx) (a : LAddr) (u : Byte) (x : BitVec 16) (w : W9) :
    (trap c b src f a u x w).dev.free = w.dev.free := by
  unfold trap
  split
  · dsimp only; split <;> split <;> simp [inc]
  · rfl
@[simp] theorem trap_host_readData (c : Fin 5) (b : Bool) (src : BitVec 16) (f : FieldIx) (a : LAddr) (u : Byte) (x : BitVec 16) (w : W9) :
    (trap c b src f a u x w).host.readData = w.host.readData := by
  unfold trap
  split
  · dsimp only; split <;> split <;> simp [inc]
  · rfl
@[simp] theorem trap_host_poisoned (c : Fin 5) (b : Bool) (src : BitVec 16) (f : FieldIx) (a : LAddr) (u : Byte) (x : BitVec 16) (w : W9) :
    (trap c b src f a u x w).host.poisoned = w.host.poisoned := by
  unfold trap
  split
  · dsimp only; split <;> split <;> simp [inc]
  · rfl
@[simp] theorem trap_host_hostMem (c : Fin 5) (b : Bool) (src : BitVec 16) (f : FieldIx) (a : LAddr) (u : Byte) (x : BitVec 16) (w : W9) :
    (trap c b src f a u x w).host.hostMem = w.host.hostMem := by
  unfold trap
  split
  · dsimp only; split <;> split <;> simp [inc]
  · rfl
@[simp] theorem trap_host_linkUp (c : Fin 5) (b : Bool) (src : BitVec 16) (f : FieldIx) (a : LAddr) (u : Byte) (x : BitVec 16) (w : W9) :
    (trap c b src f a u x w).host.linkUp = w.host.linkUp := by
  unfold trap
  split
  · dsimp only; split <;> split <;> simp [inc]
  · rfl
@[simp] theorem trap_host_d3hot (c : Fin 5) (b : Bool) (src : BitVec 16) (f : FieldIx) (a : LAddr) (u : Byte) (x : BitVec 16) (w : W9) :
    (trap c b src f a u x w).host.d3hot = w.host.d3hot := by
  unfold trap
  split
  · dsimp only; split <;> split <;> simp [inc]
  · rfl
@[simp] theorem trap_host_msixOn (c : Fin 5) (b : Bool) (src : BitVec 16) (f : FieldIx) (a : LAddr) (u : Byte) (x : BitVec 16) (w : W9) :
    (trap c b src f a u x w).host.msixOn = w.host.msixOn := by
  unfold trap
  split
  · dsimp only; split <;> split <;> simp [inc]
  · rfl
@[simp] theorem trap_host_backlog (c : Fin 5) (b : Bool) (src : BitVec 16) (f : FieldIx) (a : LAddr) (u : Byte) (x : BitVec 16) (w : W9) :
    (trap c b src f a u x w).host.backlog = w.host.backlog := by
  unfold trap
  split
  · dsimp only; split <;> split <;> simp [inc]
  · rfl
@[simp] theorem trap_host_cplWait (c : Fin 5) (b : Bool) (src : BitVec 16) (f : FieldIx) (a : LAddr) (u : Byte) (x : BitVec 16) (w : W9) :
    (trap c b src f a u x w).host.cplWait = w.host.cplWait := by
  unfold trap
  split
  · dsimp only; split <;> split <;> simp [inc]
  · rfl
@[simp] theorem trap_host_stamping (c : Fin 5) (b : Bool) (src : BitVec 16) (f : FieldIx) (a : LAddr) (u : Byte) (x : BitVec 16) (w : W9) :
    (trap c b src f a u x w).host.stamping = w.host.stamping := by
  unfold trap
  split
  · dsimp only; split <;> split <;> simp [inc]
  · rfl
@[simp] theorem trap_host_vectorLast (c : Fin 5) (b : Bool) (src : BitVec 16) (f : FieldIx) (a : LAddr) (u : Byte) (x : BitVec 16) (w : W9) :
    (trap c b src f a u x w).host.vectorLast = w.host.vectorLast := by
  unfold trap
  split
  · dsimp only; split <;> split <;> simp [inc]
  · rfl
@[simp] theorem trap_host_msixSent (c : Fin 5) (b : Bool) (src : BitVec 16) (f : FieldIx) (a : LAddr) (u : Byte) (x : BitVec 16) (w : W9) :
    (trap c b src f a u x w).host.msixSent = w.host.msixSent := by
  unfold trap
  split
  · dsimp only; split <;> split <;> simp [inc]
  · rfl
@[simp] theorem trap_host_bar2Waiting (c : Fin 5) (b : Bool) (src : BitVec 16) (f : FieldIx) (a : LAddr) (u : Byte) (x : BitVec 16) (w : W9) :
    (trap c b src f a u x w).host.bar2Waiting = w.host.bar2Waiting := by
  unfold trap
  split
  · dsimp only; split <;> split <;> simp [inc]
  · rfl
@[simp] theorem trap_host_bar4 (c : Fin 5) (b : Bool) (src : BitVec 16) (f : FieldIx) (a : LAddr) (u : Byte) (x : BitVec 16) (w : W9) :
    (trap c b src f a u x w).host.bar4 = w.host.bar4 := by
  unfold trap
  split
  · dsimp only; split <;> split <;> simp [inc]
  · rfl
@[simp] theorem trap_host_opSeq (c : Fin 5) (b : Bool) (src : BitVec 16) (f : FieldIx) (a : LAddr) (u : Byte) (x : BitVec 16) (w : W9) :
    (trap c b src f a u x w).host.opSeq = w.host.opSeq := by
  unfold trap
  split
  · dsimp only; split <;> split <;> simp [inc]
  · rfl

@[simp] theorem prd_trap (c : Fin 5) (b : Bool) (src : BitVec 16) (f : FieldIx) (a : LAddr) (n : Byte) (x : BitVec 16) (w : W9)
    (u : Tile) (o : Nat) : prd (trap c b src f a n x w) u o = prd w u o := by simp [prd]
@[simp] theorem tileOf_trap (c : Fin 5) (b : Bool) (src : BitVec 16) (f : FieldIx) (a : LAddr) (n : Byte) (x : BitVec 16) (w : W9)
    (u : Tile) : tileOf (trap c b src f a n x w) u = tileOf w u := by simp [tileOf]
@[simp] theorem routerOf_trap (c : Fin 5) (b : Bool) (src : BitVec 16) (f : FieldIx) (a : LAddr) (n : Byte) (x : BitVec 16) (w : W9)
    (u : Tile) : routerOf (trap c b src f a n x w) u = routerOf w u := by simp [routerOf]
@[simp] theorem fieldState_trap (c : Fin 5) (b : Bool) (src : BitVec 16) (f : FieldIx) (a : LAddr) (n : Byte) (x : BitVec 16) (w : W9)
    (j : FieldIx) : fieldState (trap c b src f a n x w) j = fieldState w j := by simp [fieldState]
@[simp] theorem gwOf_trap (c : Fin 5) (b : Bool) (src : BitVec 16) (f : FieldIx) (a : LAddr) (n : Byte) (x : BitVec 16) (w : W9)
    (j : Gateway) : gwOf (trap c b src f a n x w) j = gwOf w j := by simp [gwOf]
@[simp] theorem portOf_trap (c : Fin 5) (b : Bool) (src : BitVec 16) (f : FieldIx) (a : LAddr) (n : Byte) (x : BitVec 16) (w : W9)
    (j : PortIx) : portOf (trap c b src f a n x w) j = portOf w j := by simp [portOf]
@[simp] theorem streamOf_trap (c : Fin 5) (b : Bool) (src : BitVec 16) (f : FieldIx) (a : LAddr) (n : Byte) (x : BitVec 16) (w : W9)
    (j : StreamIx) : streamOf (trap c b src f a n x w) j = streamOf w j := by simp [streamOf]
@[simp] theorem layerOf_trap (c : Fin 5) (b : Bool) (src : BitVec 16) (f : FieldIx) (a : LAddr) (n : Byte) (x : BitVec 16) (w : W9)
    (j : LayerIx) : layerOf (trap c b src f a n x w) j = layerOf w j := by simp [layerOf]

/-! ## Doing something for each element -/

/-- What every single step leaves alone, the whole run leaves alone. -/
theorem forEach_frame {α β : Type} (g : W9 → β) (f : α → W9 → W9) (h : ∀ a w, g (f a w) = g w) :
    ∀ (l : List α) (w : W9), g (forEach l f w) = g w := by
  intro l
  induction l with
  | nil => intro w; rfl
  | cons a r ih =>
    intro w
    show g (forEach r f (f a w)) = g w
    rw [ih, h]

/-- What every single step keeps, the whole run keeps. -/
theorem forEach_keeps {α : Type} (P : W9 → Prop) (f : α → W9 → W9) (h : ∀ a w, P w → P (f a w)) :
    ∀ (l : List α) (w : W9), P w → P (forEach l f w) := by
  intro l
  induction l with
  | nil => intro w hw; exact hw
  | cons a r ih => intro w hw; exact ih (f a w) (h a w hw)

/-! ## Consumed signals -/

@[simp] theorem consume_dev (t : Tile) (cs : List Cond) (w : W9) : (consume t cs w).dev = w.dev :=
  forEach_frame (fun x => x.dev) _ (fun c x => by
    cases c with
    | signal c n b => cases b <;> rfl
    | _ => rfl) cs w
@[simp] theorem consume_bar0 (t : Tile) (cs : List Cond) (w : W9) : (consume t cs w).bar0 = w.bar0 :=
  forEach_frame (fun x => x.bar0) _ (fun c x => by
    cases c with
    | signal c n b => cases b <;> rfl
    | _ => rfl) cs w
@[simp] theorem consume_mem (t : Tile) (cs : List Cond) (w : W9) : (consume t cs w).mem = w.mem :=
  forEach_frame (fun x => x.mem) _ (fun c x => by
    cases c with
    | signal c n b => cases b <;> rfl
    | _ => rfl) cs w
@[simp] theorem consume_tiles (t : Tile) (cs : List Cond) (w : W9) : (consume t cs w).tiles = w.tiles :=
  forEach_frame (fun x => x.tiles) _ (fun c x => by
    cases c with
    | signal c n b => cases b <;> rfl
    | _ => rfl) cs w
@[simp] theorem consume_routers (t : Tile) (cs : List Cond) (w : W9) : (consume t cs w).routers = w.routers :=
  forEach_frame (fun x => x.routers) _ (fun c x => by
    cases c with
    | signal c n b => cases b <;> rfl
    | _ => rfl) cs w
@[simp] theorem consume_fields (t : Tile) (cs : List Cond) (w : W9) : (consume t cs w).fields = w.fields :=
  forEach_frame (fun x => x.fields) _ (fun c x => by
    cases c with
    | signal c n b => cases b <;> rfl
    | _ => rfl) cs w
@[simp] theorem consume_gws (t : Tile) (cs : List Cond) (w : W9) : (consume t cs w).gws = w.gws :=
  forEach_frame (fun x => x.gws) _ (fun c x => by
    cases c with
    | signal c n b => cases b <;> rfl
    | _ => rfl) cs w
@[simp] theorem consume_prec (t : Tile) (cs : List Cond) (w : W9) : (consume t cs w).prec = w.prec :=
  forEach_frame (fun x => x.prec) _ (fun c x => by
    cases c with
    | signal c n b => cases b <;> rfl
    | _ => rfl) cs w
@[simp] theorem consume_serve (t : Tile) (cs : List Cond) (w : W9) : (consume t cs w).serve = w.serve :=
  forEach_frame (fun x => x.serve) _ (fun c x => by
    cases c with
    | signal c n b => cases b <;> rfl
    | _ => rfl) cs w
@[simp] theorem consume_kv (t : Tile) (cs : List Cond) (w : W9) : (consume t cs w).kv = w.kv :=
  forEach_frame (fun x => x.kv) _ (fun c x => by
    cases c with
    | signal c n b => cases b <;> rfl
    | _ => rfl) cs w
@[simp] theorem consume_wt (t : Tile) (cs : List Cond) (w : W9) : (consume t cs w).wt = w.wt :=
  forEach_frame (fun x => x.wt) _ (fun c x => by
    cases c with
    | signal c n b => cases b <;> rfl
    | _ => rfl) cs w
@[simp] theorem consume_img (t : Tile) (cs : List Cond) (w : W9) : (consume t cs w).img = w.img :=
  forEach_frame (fun x => x.img) _ (fun c x => by
    cases c with
    | signal c n b => cases b <;> rfl
    | _ => rfl) cs w
@[simp] theorem consume_checked (t : Tile) (cs : List Cond) (w : W9) : (consume t cs w).checked = w.checked :=
  forEach_frame (fun x => x.checked) _ (fun c x => by
    cases c with
    | signal c n b => cases b <;> rfl
    | _ => rfl) cs w
@[simp] theorem consume_dbg (t : Tile) (cs : List Cond) (w : W9) : (consume t cs w).dbg = w.dbg :=
  forEach_frame (fun x => x.dbg) _ (fun c x => by
    cases c with
    | signal c n b => cases b <;> rfl
    | _ => rfl) cs w
@[simp] theorem consume_host (t : Tile) (cs : List Cond) (w : W9) : (consume t cs w).host = w.host :=
  forEach_frame (fun x => x.host) _ (fun c x => by
    cases c with
    | signal c n b => cases b <;> rfl
    | _ => rfl) cs w
@[simp] theorem consume_side (t : Tile) (cs : List Cond) (w : W9) : (consume t cs w).side = w.side :=
  forEach_frame (fun x => x.side) _ (fun c x => by
    cases c with
    | signal c n b => cases b <;> rfl
    | _ => rfl) cs w
@[simp] theorem consume_ports (t : Tile) (cs : List Cond) (w : W9) : (consume t cs w).ports = w.ports :=
  forEach_frame (fun x => x.ports) _ (fun c x => by
    cases c with
    | signal c n b => cases b <;> rfl
    | _ => rfl) cs w
@[simp] theorem consume_pair (t : Tile) (cs : List Cond) (w : W9) : (consume t cs w).pair = w.pair :=
  forEach_frame (fun x => x.pair) _ (fun c x => by
    cases c with
    | signal c n b => cases b <;> rfl
    | _ => rfl) cs w
@[simp] theorem consume_env (t : Tile) (cs : List Cond) (w : W9) : (consume t cs w).env = w.env :=
  forEach_frame (fun x => x.env) _ (fun c x => by
    cases c with
    | signal c n b => cases b <;> rfl
    | _ => rfl) cs w
@[simp] theorem consume_rst (t : Tile) (cs : List Cond) (w : W9) : (consume t cs w).rst = w.rst :=
  forEach_frame (fun x => x.rst) _ (fun c x => by
    cases c with
    | signal c n b => cases b <;> rfl
    | _ => rfl) cs w
@[simp] theorem consume_opt (t : Tile) (cs : List Cond) (w : W9) : (consume t cs w).opt = w.opt :=
  forEach_frame (fun x => x.opt) _ (fun c x => by
    cases c with
    | signal c n b => cases b <;> rfl
    | _ => rfl) cs w
@[simp] theorem consume_att (t : Tile) (cs : List Cond) (w : W9) : (consume t cs w).att = w.att :=
  forEach_frame (fun x => x.att) _ (fun c x => by
    cases c with
    | signal c n b => cases b <;> rfl
    | _ => rfl) cs w
@[simp] theorem consume_flt (t : Tile) (cs : List Cond) (w : W9) : (consume t cs w).flt = w.flt :=
  forEach_frame (fun x => x.flt) _ (fun c x => by
    cases c with
    | signal c n b => cases b <;> rfl
    | _ => rfl) cs w

/-- Consuming signals leaves every register of the page but the counters alone. -/
theorem prd_consume (t : Tile) (cs : List Cond) (w : W9) {off : Nat} (h : off < 0x300 ∨ 0x400 ≤ off) :
    prd (consume t cs w) t off = prd w t off :=
  forEach_frame (fun x => prd x t off) _ (fun c x => by
    cases c with
    | signal c n b =>
      cases b
      · rfl
      · exact prd_pwr_off _ _ (by have := c.isLt; show off ≠ 0x300 + 4 * c.val; omega)
    | _ => rfl) cs w

/-! ## Reads and their errors -/

@[simp] theorem noteCE_mem (t : Tile) (q : Nat) (w : W9) : (noteCE t q w).mem = w.mem := by
  unfold noteCE onlyIf; dsimp only; (repeat' split) <;> simp
@[simp] theorem noteUE_mem (t : Tile) (q : Nat) (cs : BitVec 16) (w : W9) : (noteUE t q cs w).mem = w.mem := by
  unfold noteUE; simp
@[simp] theorem readEffects_mem (t : Tile) (a n : Nat) (w : W9) : (readEffects t a n w).mem = w.mem :=
  forEach_frame (fun x => x.mem) _ (fun q x => by (repeat' split) <;> simp [setTaint]) _ w
@[simp] theorem readEffects0_mem (t : Tile) (a n : Nat) (w : W9) : (readEffects0 t a n w).mem = w.mem :=
  forEach_frame (fun x => x.mem) _ (fun q x => by (repeat' split) <;> simp) _ w
@[simp] theorem schedRead_mem (t : Tile) (a n : Nat) (w : W9) : (schedRead t a n w).mem = w.mem := by
  unfold schedRead earlyCheck; split <;> simp
@[simp] theorem noteCE_routers (t : Tile) (q : Nat) (w : W9) : (noteCE t q w).routers = w.routers := by
  unfold noteCE onlyIf; dsimp only; (repeat' split) <;> simp
@[simp] theorem noteUE_routers (t : Tile) (q : Nat) (cs : BitVec 16) (w : W9) : (noteUE t q cs w).routers = w.routers := by
  unfold noteUE; simp
@[simp] theorem readEffects_routers (t : Tile) (a n : Nat) (w : W9) : (readEffects t a n w).routers = w.routers :=
  forEach_frame (fun x => x.routers) _ (fun q x => by (repeat' split) <;> simp [setTaint]) _ w
@[simp] theorem readEffects0_routers (t : Tile) (a n : Nat) (w : W9) : (readEffects0 t a n w).routers = w.routers :=
  forEach_frame (fun x => x.routers) _ (fun q x => by (repeat' split) <;> simp) _ w
@[simp] theorem schedRead_routers (t : Tile) (a n : Nat) (w : W9) : (schedRead t a n w).routers = w.routers := by
  unfold schedRead earlyCheck; split <;> simp
@[simp] theorem noteCE_fields (t : Tile) (q : Nat) (w : W9) : (noteCE t q w).fields = w.fields := by
  unfold noteCE onlyIf; dsimp only; (repeat' split) <;> simp
@[simp] theorem noteUE_fields (t : Tile) (q : Nat) (cs : BitVec 16) (w : W9) : (noteUE t q cs w).fields = w.fields := by
  unfold noteUE; simp
@[simp] theorem readEffects_fields (t : Tile) (a n : Nat) (w : W9) : (readEffects t a n w).fields = w.fields :=
  forEach_frame (fun x => x.fields) _ (fun q x => by (repeat' split) <;> simp [setTaint]) _ w
@[simp] theorem readEffects0_fields (t : Tile) (a n : Nat) (w : W9) : (readEffects0 t a n w).fields = w.fields :=
  forEach_frame (fun x => x.fields) _ (fun q x => by (repeat' split) <;> simp) _ w
@[simp] theorem schedRead_fields (t : Tile) (a n : Nat) (w : W9) : (schedRead t a n w).fields = w.fields := by
  unfold schedRead earlyCheck; split <;> simp
@[simp] theorem noteCE_gws (t : Tile) (q : Nat) (w : W9) : (noteCE t q w).gws = w.gws := by
  unfold noteCE onlyIf; dsimp only; (repeat' split) <;> simp
@[simp] theorem noteUE_gws (t : Tile) (q : Nat) (cs : BitVec 16) (w : W9) : (noteUE t q cs w).gws = w.gws := by
  unfold noteUE; simp
@[simp] theorem readEffects_gws (t : Tile) (a n : Nat) (w : W9) : (readEffects t a n w).gws = w.gws :=
  forEach_frame (fun x => x.gws) _ (fun q x => by (repeat' split) <;> simp [setTaint]) _ w
@[simp] theorem readEffects0_gws (t : Tile) (a n : Nat) (w : W9) : (readEffects0 t a n w).gws = w.gws :=
  forEach_frame (fun x => x.gws) _ (fun q x => by (repeat' split) <;> simp) _ w
@[simp] theorem schedRead_gws (t : Tile) (a n : Nat) (w : W9) : (schedRead t a n w).gws = w.gws := by
  unfold schedRead earlyCheck; split <;> simp
@[simp] theorem noteCE_prec (t : Tile) (q : Nat) (w : W9) : (noteCE t q w).prec = w.prec := by
  unfold noteCE onlyIf; dsimp only; (repeat' split) <;> simp
@[simp] theorem noteUE_prec (t : Tile) (q : Nat) (cs : BitVec 16) (w : W9) : (noteUE t q cs w).prec = w.prec := by
  unfold noteUE; simp
@[simp] theorem readEffects_prec (t : Tile) (a n : Nat) (w : W9) : (readEffects t a n w).prec = w.prec :=
  forEach_frame (fun x => x.prec) _ (fun q x => by (repeat' split) <;> simp [setTaint]) _ w
@[simp] theorem readEffects0_prec (t : Tile) (a n : Nat) (w : W9) : (readEffects0 t a n w).prec = w.prec :=
  forEach_frame (fun x => x.prec) _ (fun q x => by (repeat' split) <;> simp) _ w
@[simp] theorem schedRead_prec (t : Tile) (a n : Nat) (w : W9) : (schedRead t a n w).prec = w.prec := by
  unfold schedRead earlyCheck; split <;> simp
@[simp] theorem noteCE_serve (t : Tile) (q : Nat) (w : W9) : (noteCE t q w).serve = w.serve := by
  unfold noteCE onlyIf; dsimp only; (repeat' split) <;> simp
@[simp] theorem noteUE_serve (t : Tile) (q : Nat) (cs : BitVec 16) (w : W9) : (noteUE t q cs w).serve = w.serve := by
  unfold noteUE; simp
@[simp] theorem readEffects_serve (t : Tile) (a n : Nat) (w : W9) : (readEffects t a n w).serve = w.serve :=
  forEach_frame (fun x => x.serve) _ (fun q x => by (repeat' split) <;> simp [setTaint]) _ w
@[simp] theorem readEffects0_serve (t : Tile) (a n : Nat) (w : W9) : (readEffects0 t a n w).serve = w.serve :=
  forEach_frame (fun x => x.serve) _ (fun q x => by (repeat' split) <;> simp) _ w
@[simp] theorem schedRead_serve (t : Tile) (a n : Nat) (w : W9) : (schedRead t a n w).serve = w.serve := by
  unfold schedRead earlyCheck; split <;> simp
@[simp] theorem noteCE_kv (t : Tile) (q : Nat) (w : W9) : (noteCE t q w).kv = w.kv := by
  unfold noteCE onlyIf; dsimp only; (repeat' split) <;> simp
@[simp] theorem noteUE_kv (t : Tile) (q : Nat) (cs : BitVec 16) (w : W9) : (noteUE t q cs w).kv = w.kv := by
  unfold noteUE; simp
@[simp] theorem readEffects_kv (t : Tile) (a n : Nat) (w : W9) : (readEffects t a n w).kv = w.kv :=
  forEach_frame (fun x => x.kv) _ (fun q x => by (repeat' split) <;> simp [setTaint]) _ w
@[simp] theorem readEffects0_kv (t : Tile) (a n : Nat) (w : W9) : (readEffects0 t a n w).kv = w.kv :=
  forEach_frame (fun x => x.kv) _ (fun q x => by (repeat' split) <;> simp) _ w
@[simp] theorem schedRead_kv (t : Tile) (a n : Nat) (w : W9) : (schedRead t a n w).kv = w.kv := by
  unfold schedRead earlyCheck; split <;> simp
@[simp] theorem noteCE_wt (t : Tile) (q : Nat) (w : W9) : (noteCE t q w).wt = w.wt := by
  unfold noteCE onlyIf; dsimp only; (repeat' split) <;> simp
@[simp] theorem noteUE_wt (t : Tile) (q : Nat) (cs : BitVec 16) (w : W9) : (noteUE t q cs w).wt = w.wt := by
  unfold noteUE; simp
@[simp] theorem readEffects_wt (t : Tile) (a n : Nat) (w : W9) : (readEffects t a n w).wt = w.wt :=
  forEach_frame (fun x => x.wt) _ (fun q x => by (repeat' split) <;> simp [setTaint]) _ w
@[simp] theorem readEffects0_wt (t : Tile) (a n : Nat) (w : W9) : (readEffects0 t a n w).wt = w.wt :=
  forEach_frame (fun x => x.wt) _ (fun q x => by (repeat' split) <;> simp) _ w
@[simp] theorem schedRead_wt (t : Tile) (a n : Nat) (w : W9) : (schedRead t a n w).wt = w.wt := by
  unfold schedRead earlyCheck; split <;> simp
@[simp] theorem noteCE_img (t : Tile) (q : Nat) (w : W9) : (noteCE t q w).img = w.img := by
  unfold noteCE onlyIf; dsimp only; (repeat' split) <;> simp
@[simp] theorem noteUE_img (t : Tile) (q : Nat) (cs : BitVec 16) (w : W9) : (noteUE t q cs w).img = w.img := by
  unfold noteUE; simp
@[simp] theorem readEffects_img (t : Tile) (a n : Nat) (w : W9) : (readEffects t a n w).img = w.img :=
  forEach_frame (fun x => x.img) _ (fun q x => by (repeat' split) <;> simp [setTaint]) _ w
@[simp] theorem readEffects0_img (t : Tile) (a n : Nat) (w : W9) : (readEffects0 t a n w).img = w.img :=
  forEach_frame (fun x => x.img) _ (fun q x => by (repeat' split) <;> simp) _ w
@[simp] theorem schedRead_img (t : Tile) (a n : Nat) (w : W9) : (schedRead t a n w).img = w.img := by
  unfold schedRead earlyCheck; split <;> simp
@[simp] theorem noteCE_checked (t : Tile) (q : Nat) (w : W9) : (noteCE t q w).checked = w.checked := by
  unfold noteCE onlyIf; dsimp only; (repeat' split) <;> simp
@[simp] theorem noteUE_checked (t : Tile) (q : Nat) (cs : BitVec 16) (w : W9) : (noteUE t q cs w).checked = w.checked := by
  unfold noteUE; simp
@[simp] theorem readEffects_checked (t : Tile) (a n : Nat) (w : W9) : (readEffects t a n w).checked = w.checked :=
  forEach_frame (fun x => x.checked) _ (fun q x => by (repeat' split) <;> simp [setTaint]) _ w
@[simp] theorem readEffects0_checked (t : Tile) (a n : Nat) (w : W9) : (readEffects0 t a n w).checked = w.checked :=
  forEach_frame (fun x => x.checked) _ (fun q x => by (repeat' split) <;> simp) _ w
@[simp] theorem schedRead_checked (t : Tile) (a n : Nat) (w : W9) : (schedRead t a n w).checked = w.checked := by
  unfold schedRead earlyCheck; split <;> simp
@[simp] theorem noteCE_side (t : Tile) (q : Nat) (w : W9) : (noteCE t q w).side = w.side := by
  unfold noteCE onlyIf; dsimp only; (repeat' split) <;> simp
@[simp] theorem noteUE_side (t : Tile) (q : Nat) (cs : BitVec 16) (w : W9) : (noteUE t q cs w).side = w.side := by
  unfold noteUE; simp
@[simp] theorem readEffects_side (t : Tile) (a n : Nat) (w : W9) : (readEffects t a n w).side = w.side :=
  forEach_frame (fun x => x.side) _ (fun q x => by (repeat' split) <;> simp [setTaint]) _ w
@[simp] theorem readEffects0_side (t : Tile) (a n : Nat) (w : W9) : (readEffects0 t a n w).side = w.side :=
  forEach_frame (fun x => x.side) _ (fun q x => by (repeat' split) <;> simp) _ w
@[simp] theorem schedRead_side (t : Tile) (a n : Nat) (w : W9) : (schedRead t a n w).side = w.side := by
  unfold schedRead earlyCheck; split <;> simp
@[simp] theorem noteCE_ports (t : Tile) (q : Nat) (w : W9) : (noteCE t q w).ports = w.ports := by
  unfold noteCE onlyIf; dsimp only; (repeat' split) <;> simp
@[simp] theorem noteUE_ports (t : Tile) (q : Nat) (cs : BitVec 16) (w : W9) : (noteUE t q cs w).ports = w.ports := by
  unfold noteUE; simp
@[simp] theorem readEffects_ports (t : Tile) (a n : Nat) (w : W9) : (readEffects t a n w).ports = w.ports :=
  forEach_frame (fun x => x.ports) _ (fun q x => by (repeat' split) <;> simp [setTaint]) _ w
@[simp] theorem readEffects0_ports (t : Tile) (a n : Nat) (w : W9) : (readEffects0 t a n w).ports = w.ports :=
  forEach_frame (fun x => x.ports) _ (fun q x => by (repeat' split) <;> simp) _ w
@[simp] theorem schedRead_ports (t : Tile) (a n : Nat) (w : W9) : (schedRead t a n w).ports = w.ports := by
  unfold schedRead earlyCheck; split <;> simp
@[simp] theorem noteCE_pair (t : Tile) (q : Nat) (w : W9) : (noteCE t q w).pair = w.pair := by
  unfold noteCE onlyIf; dsimp only; (repeat' split) <;> simp
@[simp] theorem noteUE_pair (t : Tile) (q : Nat) (cs : BitVec 16) (w : W9) : (noteUE t q cs w).pair = w.pair := by
  unfold noteUE; simp
@[simp] theorem readEffects_pair (t : Tile) (a n : Nat) (w : W9) : (readEffects t a n w).pair = w.pair :=
  forEach_frame (fun x => x.pair) _ (fun q x => by (repeat' split) <;> simp [setTaint]) _ w
@[simp] theorem readEffects0_pair (t : Tile) (a n : Nat) (w : W9) : (readEffects0 t a n w).pair = w.pair :=
  forEach_frame (fun x => x.pair) _ (fun q x => by (repeat' split) <;> simp) _ w
@[simp] theorem schedRead_pair (t : Tile) (a n : Nat) (w : W9) : (schedRead t a n w).pair = w.pair := by
  unfold schedRead earlyCheck; split <;> simp
@[simp] theorem noteCE_env (t : Tile) (q : Nat) (w : W9) : (noteCE t q w).env = w.env := by
  unfold noteCE onlyIf; dsimp only; (repeat' split) <;> simp
@[simp] theorem noteUE_env (t : Tile) (q : Nat) (cs : BitVec 16) (w : W9) : (noteUE t q cs w).env = w.env := by
  unfold noteUE; simp
@[simp] theorem readEffects_env (t : Tile) (a n : Nat) (w : W9) : (readEffects t a n w).env = w.env :=
  forEach_frame (fun x => x.env) _ (fun q x => by (repeat' split) <;> simp [setTaint]) _ w
@[simp] theorem readEffects0_env (t : Tile) (a n : Nat) (w : W9) : (readEffects0 t a n w).env = w.env :=
  forEach_frame (fun x => x.env) _ (fun q x => by (repeat' split) <;> simp) _ w
@[simp] theorem schedRead_env (t : Tile) (a n : Nat) (w : W9) : (schedRead t a n w).env = w.env := by
  unfold schedRead earlyCheck; split <;> simp
@[simp] theorem noteCE_rst (t : Tile) (q : Nat) (w : W9) : (noteCE t q w).rst = w.rst := by
  unfold noteCE onlyIf; dsimp only; (repeat' split) <;> simp
@[simp] theorem noteUE_rst (t : Tile) (q : Nat) (cs : BitVec 16) (w : W9) : (noteUE t q cs w).rst = w.rst := by
  unfold noteUE; simp
@[simp] theorem readEffects_rst (t : Tile) (a n : Nat) (w : W9) : (readEffects t a n w).rst = w.rst :=
  forEach_frame (fun x => x.rst) _ (fun q x => by (repeat' split) <;> simp [setTaint]) _ w
@[simp] theorem readEffects0_rst (t : Tile) (a n : Nat) (w : W9) : (readEffects0 t a n w).rst = w.rst :=
  forEach_frame (fun x => x.rst) _ (fun q x => by (repeat' split) <;> simp) _ w
@[simp] theorem schedRead_rst (t : Tile) (a n : Nat) (w : W9) : (schedRead t a n w).rst = w.rst := by
  unfold schedRead earlyCheck; split <;> simp
@[simp] theorem noteCE_opt (t : Tile) (q : Nat) (w : W9) : (noteCE t q w).opt = w.opt := by
  unfold noteCE onlyIf; dsimp only; (repeat' split) <;> simp
@[simp] theorem noteUE_opt (t : Tile) (q : Nat) (cs : BitVec 16) (w : W9) : (noteUE t q cs w).opt = w.opt := by
  unfold noteUE; simp
@[simp] theorem readEffects_opt (t : Tile) (a n : Nat) (w : W9) : (readEffects t a n w).opt = w.opt :=
  forEach_frame (fun x => x.opt) _ (fun q x => by (repeat' split) <;> simp [setTaint]) _ w
@[simp] theorem readEffects0_opt (t : Tile) (a n : Nat) (w : W9) : (readEffects0 t a n w).opt = w.opt :=
  forEach_frame (fun x => x.opt) _ (fun q x => by (repeat' split) <;> simp) _ w
@[simp] theorem schedRead_opt (t : Tile) (a n : Nat) (w : W9) : (schedRead t a n w).opt = w.opt := by
  unfold schedRead earlyCheck; split <;> simp
@[simp] theorem noteCE_att (t : Tile) (q : Nat) (w : W9) : (noteCE t q w).att = w.att := by
  unfold noteCE onlyIf; dsimp only; (repeat' split) <;> simp
@[simp] theorem noteUE_att (t : Tile) (q : Nat) (cs : BitVec 16) (w : W9) : (noteUE t q cs w).att = w.att := by
  unfold noteUE; simp
@[simp] theorem readEffects_att (t : Tile) (a n : Nat) (w : W9) : (readEffects t a n w).att = w.att :=
  forEach_frame (fun x => x.att) _ (fun q x => by (repeat' split) <;> simp [setTaint]) _ w
@[simp] theorem readEffects0_att (t : Tile) (a n : Nat) (w : W9) : (readEffects0 t a n w).att = w.att :=
  forEach_frame (fun x => x.att) _ (fun q x => by (repeat' split) <;> simp) _ w
@[simp] theorem schedRead_att (t : Tile) (a n : Nat) (w : W9) : (schedRead t a n w).att = w.att := by
  unfold schedRead earlyCheck; split <;> simp
@[simp] theorem noteCE_dev_time (t : Tile) (q : Nat) (w : W9) : (noteCE t q w).dev.time = w.dev.time := by
  unfold noteCE onlyIf; dsimp only; (repeat' split) <;> simp
@[simp] theorem noteUE_dev_time (t : Tile) (q : Nat) (cs : BitVec 16) (w : W9) : (noteUE t q cs w).dev.time = w.dev.time := by
  unfold noteUE; simp
@[simp] theorem readEffects_dev_time (t : Tile) (a n : Nat) (w : W9) : (readEffects t a n w).dev.time = w.dev.time :=
  forEach_frame (fun x => x.dev.time) _ (fun q x => by (repeat' split) <;> simp [setTaint]) _ w
@[simp] theorem readEffects0_dev_time (t : Tile) (a n : Nat) (w : W9) : (readEffects0 t a n w).dev.time = w.dev.time :=
  forEach_frame (fun x => x.dev.time) _ (fun q x => by (repeat' split) <;> simp) _ w
@[simp] theorem schedRead_dev_time (t : Tile) (a n : Nat) (w : W9) : (schedRead t a n w).dev.time = w.dev.time := by
  unfold schedRead earlyCheck; split <;> simp
@[simp] theorem noteCE_dev_powered (t : Tile) (q : Nat) (w : W9) : (noteCE t q w).dev.powered = w.dev.powered := by
  unfold noteCE onlyIf; dsimp only; (repeat' split) <;> simp
@[simp] theorem noteUE_dev_powered (t : Tile) (q : Nat) (cs : BitVec 16) (w : W9) : (noteUE t q cs w).dev.powered = w.dev.powered := by
  unfold noteUE; simp
@[simp] theorem readEffects_dev_powered (t : Tile) (a n : Nat) (w : W9) : (readEffects t a n w).dev.powered = w.dev.powered :=
  forEach_frame (fun x => x.dev.powered) _ (fun q x => by (repeat' split) <;> simp [setTaint]) _ w
@[simp] theorem readEffects0_dev_powered (t : Tile) (a n : Nat) (w : W9) : (readEffects0 t a n w).dev.powered = w.dev.powered :=
  forEach_frame (fun x => x.dev.powered) _ (fun q x => by (repeat' split) <;> simp) _ w
@[simp] theorem schedRead_dev_powered (t : Tile) (a n : Nat) (w : W9) : (schedRead t a n w).dev.powered = w.dev.powered := by
  unfold schedRead earlyCheck; split <;> simp
@[simp] theorem noteCE_dev_rstDone (t : Tile) (q : Nat) (w : W9) : (noteCE t q w).dev.rstDone = w.dev.rstDone := by
  unfold noteCE onlyIf; dsimp only; (repeat' split) <;> simp
@[simp] theorem noteUE_dev_rstDone (t : Tile) (q : Nat) (cs : BitVec 16) (w : W9) : (noteUE t q cs w).dev.rstDone = w.dev.rstDone := by
  unfold noteUE; simp
@[simp] theorem readEffects_dev_rstDone (t : Tile) (a n : Nat) (w : W9) : (readEffects t a n w).dev.rstDone = w.dev.rstDone :=
  forEach_frame (fun x => x.dev.rstDone) _ (fun q x => by (repeat' split) <;> simp [setTaint]) _ w
@[simp] theorem readEffects0_dev_rstDone (t : Tile) (a n : Nat) (w : W9) : (readEffects0 t a n w).dev.rstDone = w.dev.rstDone :=
  forEach_frame (fun x => x.dev.rstDone) _ (fun q x => by (repeat' split) <;> simp) _ w
@[simp] theorem schedRead_dev_rstDone (t : Tile) (a n : Nat) (w : W9) : (schedRead t a n w).dev.rstDone = w.dev.rstDone := by
  unfold schedRead earlyCheck; split <;> simp
@[simp] theorem noteCE_dev_stepping (t : Tile) (q : Nat) (w : W9) : (noteCE t q w).dev.stepping = w.dev.stepping := by
  unfold noteCE onlyIf; dsimp only; (repeat' split) <;> simp
@[simp] theorem noteUE_dev_stepping (t : Tile) (q : Nat) (cs : BitVec 16) (w : W9) : (noteUE t q cs w).dev.stepping = w.dev.stepping := by
  unfold noteUE; simp
@[simp] theorem readEffects_dev_stepping (t : Tile) (a n : Nat) (w : W9) : (readEffects t a n w).dev.stepping = w.dev.stepping :=
  forEach_frame (fun x => x.dev.stepping) _ (fun q x => by (repeat' split) <;> simp [setTaint]) _ w
@[simp] theorem readEffects0_dev_stepping (t : Tile) (a n : Nat) (w : W9) : (readEffects0 t a n w).dev.stepping = w.dev.stepping :=
  forEach_frame (fun x => x.dev.stepping) _ (fun q x => by (repeat' split) <;> simp) _ w
@[simp] theorem schedRead_dev_stepping (t : Tile) (a n : Nat) (w : W9) : (schedRead t a n w).dev.stepping = w.dev.stepping := by
  unfold schedRead earlyCheck; split <;> simp
@[simp] theorem noteCE_host_hostMem (t : Tile) (q : Nat) (w : W9) : (noteCE t q w).host.hostMem = w.host.hostMem := by
  unfold noteCE onlyIf; dsimp only; (repeat' split) <;> simp
@[simp] theorem noteUE_host_hostMem (t : Tile) (q : Nat) (cs : BitVec 16) (w : W9) : (noteUE t q cs w).host.hostMem = w.host.hostMem := by
  unfold noteUE; simp
@[simp] theorem readEffects_host_hostMem (t : Tile) (a n : Nat) (w : W9) : (readEffects t a n w).host.hostMem = w.host.hostMem :=
  forEach_frame (fun x => x.host.hostMem) _ (fun q x => by (repeat' split) <;> simp [setTaint]) _ w
@[simp] theorem readEffects0_host_hostMem (t : Tile) (a n : Nat) (w : W9) : (readEffects0 t a n w).host.hostMem = w.host.hostMem :=
  forEach_frame (fun x => x.host.hostMem) _ (fun q x => by (repeat' split) <;> simp) _ w
@[simp] theorem schedRead_host_hostMem (t : Tile) (a n : Nat) (w : W9) : (schedRead t a n w).host.hostMem = w.host.hostMem := by
  unfold schedRead earlyCheck; split <;> simp
@[simp] theorem noteCE_host_readData (t : Tile) (q : Nat) (w : W9) : (noteCE t q w).host.readData = w.host.readData := by
  unfold noteCE onlyIf; dsimp only; (repeat' split) <;> simp
@[simp] theorem noteUE_host_readData (t : Tile) (q : Nat) (cs : BitVec 16) (w : W9) : (noteUE t q cs w).host.readData = w.host.readData := by
  unfold noteUE; simp
@[simp] theorem readEffects_host_readData (t : Tile) (a n : Nat) (w : W9) : (readEffects t a n w).host.readData = w.host.readData :=
  forEach_frame (fun x => x.host.readData) _ (fun q x => by (repeat' split) <;> simp [setTaint]) _ w
@[simp] theorem readEffects0_host_readData (t : Tile) (a n : Nat) (w : W9) : (readEffects0 t a n w).host.readData = w.host.readData :=
  forEach_frame (fun x => x.host.readData) _ (fun q x => by (repeat' split) <;> simp) _ w
@[simp] theorem schedRead_host_readData (t : Tile) (a n : Nat) (w : W9) : (schedRead t a n w).host.readData = w.host.readData := by
  unfold schedRead earlyCheck; split <;> simp

/-- A read counts errors and flags them; it changes no other register of the page. -/
theorem prd_readEffects (t : Tile) (a n : Nat) (w : W9) (off : Nat) (h1 : off ≠ Pg.ceCount) (h2 : off ≠ Pg.ueCount) (h3 : off ≠ Pg.tileErr) :
    prd (readEffects t a n w) t off = prd w t off :=
  forEach_frame (fun x => prd x t off) _ (fun q x => by
    split
    · simp only [setTaint, prd_modTile, noteUE, prd_raise, tileErr]; rw [prd_pwrB_off _ _ _ h3, prd_pinc_off _ _ h2]
    split
    · unfold noteCE onlyIf; dsimp only
      (repeat' split) <;> simp only [prd_modTile, prd_raiseT, tileErr] <;> rw [prd_pwrB_off _ _ _ h3, prd_pinc_off _ _ h1]
    · rfl) _ w
theorem prd_schedRead (t : Tile) (a n : Nat) (w : W9) (off : Nat) (h1 : off ≠ Pg.ceCount) (h2 : off ≠ Pg.ueCount) (h3 : off ≠ Pg.tileErr) :
    prd (schedRead t a n w) t off = prd w t off := by
  unfold schedRead earlyCheck
  rw [prd_readEffects _ _ _ _ _ h1 h2 h3]
  split <;> simp

end Sys2Proof.Machine
end

