-- ==== Sys2Proof/Laws/Serving.lean ====
section
/-! SUPPORT. What writing far memory and sending messages can change, and what a changed stream or block descriptor leaves alone
(R226, R249, R396, R401, R408). -/

namespace Sys2Proof.Machine

open Sys2Proof

/-- `w'` differs from `w` in nothing but the bytes of far memory, what the edge ports hold to send, and TX_DATA_FLITS. -/
structure OnlyWire (w w' : W9) : Prop where
  eq : w' = { w with bar0 := w'.bar0, mem := w'.mem, ports := w'.ports }
  regs : ∀ off, (∀ p : PortIx, off ≠ Reg.txDataFlits p.val) → rd w' off = rd w off
  near : w'.mem.store = w.mem.store ∧ w'.mem.storeUE = w.mem.storeUE ∧ w'.mem.storeCE = w.mem.storeCE ∧ w'.mem.bundles = w.mem.bundles

theorem OnlyWire.refl (w : W9) : OnlyWire w w := ⟨rfl, fun _ _ => rfl, rfl, rfl, rfl, rfl⟩
theorem OnlyWire.trans {a b c : W9} (h : OnlyWire a b) (k : OnlyWire b c) : OnlyWire a c :=
  ⟨by rw [k.eq, h.eq], fun o ho => (k.regs o ho).trans (h.regs o ho), k.near.1.trans h.near.1, k.near.2.1.trans h.near.2.1,
    k.near.2.2.1.trans h.near.2.2.1, k.near.2.2.2.trans h.near.2.2.2⟩
theorem OnlyWire.dev {w w' : W9} (h : OnlyWire w w') : w'.dev = w.dev := by rw [h.eq]
theorem OnlyWire.page {w w' : W9} (h : OnlyWire w w') : w'.page = w.page := by rw [h.eq]
theorem OnlyWire.tiles {w w' : W9} (h : OnlyWire w w') : w'.tiles = w.tiles := by rw [h.eq]
theorem OnlyWire.routers {w w' : W9} (h : OnlyWire w w') : w'.routers = w.routers := by rw [h.eq]
theorem OnlyWire.fields {w w' : W9} (h : OnlyWire w w') : w'.fields = w.fields := by rw [h.eq]
theorem OnlyWire.gws {w w' : W9} (h : OnlyWire w w') : w'.gws = w.gws := by rw [h.eq]
theorem OnlyWire.prec {w w' : W9} (h : OnlyWire w w') : w'.prec = w.prec := by rw [h.eq]
theorem OnlyWire.serve {w w' : W9} (h : OnlyWire w w') : w'.serve = w.serve := by rw [h.eq]
theorem OnlyWire.kv {w w' : W9} (h : OnlyWire w w') : w'.kv = w.kv := by rw [h.eq]
theorem OnlyWire.wt {w w' : W9} (h : OnlyWire w w') : w'.wt = w.wt := by rw [h.eq]
theorem OnlyWire.img {w w' : W9} (h : OnlyWire w w') : w'.img = w.img := by rw [h.eq]
theorem OnlyWire.checked {w w' : W9} (h : OnlyWire w w') : w'.checked = w.checked := by rw [h.eq]
theorem OnlyWire.dbg {w w' : W9} (h : OnlyWire w w') : w'.dbg = w.dbg := by rw [h.eq]
theorem OnlyWire.host {w w' : W9} (h : OnlyWire w w') : w'.host = w.host := by rw [h.eq]
theorem OnlyWire.side {w w' : W9} (h : OnlyWire w w') : w'.side = w.side := by rw [h.eq]
theorem OnlyWire.pair {w w' : W9} (h : OnlyWire w w') : w'.pair = w.pair := by rw [h.eq]
theorem OnlyWire.env {w w' : W9} (h : OnlyWire w w') : w'.env = w.env := by rw [h.eq]
theorem OnlyWire.rst {w w' : W9} (h : OnlyWire w w') : w'.rst = w.rst := by rw [h.eq]
theorem OnlyWire.opt {w w' : W9} (h : OnlyWire w w') : w'.opt = w.opt := by rw [h.eq]
theorem OnlyWire.att {w w' : W9} (h : OnlyWire w w') : w'.att = w.att := by rw [h.eq]
theorem OnlyWire.flt {w w' : W9} (h : OnlyWire w w') : w'.flt = w.flt := by rw [h.eq]

theorem OnlyWire.streamOf {w w' : W9} (h : OnlyWire w w') (s : StreamIx) : streamOf w' s = streamOf w s := by
  simp only [Sys2Proof.Machine.streamOf, h.serve]
theorem OnlyWire.blockOf {w w' : W9} (h : OnlyWire w w') (s : StreamIx) (b : Nat) : blockOf w' s b = blockOf w s b := by
  simp only [Sys2Proof.Machine.blockOf, h.kv]

theorem forEach_wire {α : Type} (f : α → W9 → W9) (h : ∀ a w, OnlyWire w (f a w)) (l : List α) (w : W9) : OnlyWire w (forEach l f w) :=
  forEach_keeps (OnlyWire w) f (fun a _ k => k.trans (h a _)) l w (.refl w)
theorem onlyIf_wire (b : Bool) (f : W9 → W9) (w : W9) (h : OnlyWire w (f w)) : OnlyWire w (onlyIf b f w) := by
  unfold onlyIf; split
  · exact h
  · exact .refl w

theorem modPort_wire (p : PortIx) (g : PortS → PortS) (w : W9) : OnlyWire w (modPort p g w) := ⟨rfl, fun _ _ => rfl, rfl, rfl, rfl, rfl⟩
theorem sendMsgAt_wire (first : Nat) (p : PortIx) (m : Msg) (w : W9) : OnlyWire w (sendMsgAt first p m w) :=
  (modPort_wire p _ w).trans ⟨rfl, fun _ h => rd_inc_ne _ _ (h p), rfl, rfl, rfl, rfl⟩
theorem sendTwin_wire (m : Msg) (w : W9) : OnlyWire w (sendTwin m w) := by
  unfold sendTwin; split
  · exact sendMsgAt_wire _ _ _ _
  · exact .refl w
theorem sendTwins_wire (m : Msg) (w : W9) : OnlyWire w (sendTwins m w) := forEach_wire _ (fun _ _ => sendMsgAt_wire _ _ _ _) _ _
theorem sendFar_wire (p : BitVec 8) (st a n : Nat) (w : W9) : OnlyWire w (sendFar p st a n w) :=
  forEach_wire _ (fun _ _ => (modPort_wire _ _ _).trans (sendTwin_wire _ _)) _ _

theorem putFar_wire (a : Nat) (b : Byte) (w : W9) : OnlyWire w (putFar a b w) := by
  unfold putFar; split
  · exact ⟨rfl, fun _ _ => rfl, rfl, rfl, rfl, rfl⟩
  · exact .refl w
theorem putFars_wire : ∀ (l : List Byte) (a : Nat) (w : W9), OnlyWire w (putFars a l w)
  | [], _, w => .refl w
  | b :: r, a, w => (putFar_wire a b w).trans (putFars_wire r (a + 1) _)
theorem writeFar_wire (a : Nat) (l : List Byte) (w : W9) : OnlyWire w (writeFar a l w) :=
  (putFars_wire l a w).trans ⟨rfl, fun _ _ => rfl, rfl, rfl, rfl, rfl⟩

theorem syncRecord_wire (s : StreamIx) (w : W9) : OnlyWire w (syncRecord s w) := by
  unfold syncRecord; split
  · exact writeFar_wire _ _ _
  · exact .refl w
theorem mirrorRecord_wire (s : StreamIx) (w : W9) : OnlyWire w (mirrorRecord s w) := by
  unfold mirrorRecord; split
  · split
    · exact sendFar_wire _ _ _ _ _
    · exact .refl w
  · exact .refl w
theorem writeLog_wire (s : StreamIx) (n : Nat) (l : List Word32) (w : W9) : OnlyWire w (writeLog s n l w) := by
  unfold writeLog; split
  · exact putFars_wire _ _ _
  · exact .refl w
/-- Changing a stream changes its slot, its record and what goes to the twin, and nothing else. -/
theorem putStream_wire (s : StreamIx) (g : Stream → Stream) (w : W9) : OnlyWire (modStream s g w) (putStream s g w) := by
  unfold putStream
  exact (syncRecord_wire _ _).trans (onlyIf_wire _ _ _ (mirrorRecord_wire _ _))
theorem setState_wire (s : StreamIx) (x : StreamState) (w : W9) : OnlyWire (modStream s (fun t => { t with state := x }) w) (setState s x w) :=
  putStream_wire _ _ _

theorem mirrorBlock_wire (s : StreamIx) (b : Nat) (w : W9) : OnlyWire w (mirrorBlock s b w) := by
  unfold mirrorBlock; split
  · split
    · exact (onlyIf_wire _ _ _ (sendFar_wire _ _ _ _ _)).trans (sendTwin_wire _ _)
    · exact sendTwin_wire _ _
  · exact .refl w
/-- Changing a block descriptor changes it, its directory entry and what goes to the twin, and nothing else. -/
theorem putBlock_wire (s : StreamIx) (b : Nat) (d : Option BlockDesc) (w : W9) : OnlyWire (setBlock s b d w) (putBlock s b d w) := by
  unfold putBlock; dsimp only
  refine OnlyWire.trans ?_ (onlyIf_wire _ _ _ (mirrorBlock_wire _ _ _))
  split
  · exact writeFar_wire _ _ _
  · exact .refl _

@[simp] theorem streamOf_putStream_same (s : StreamIx) (g : Stream → Stream) (w : W9) : streamOf (putStream s g w) s = g (streamOf w s) := by
  rw [(putStream_wire s g w).streamOf, streamOf_modStream_same]
theorem streamOf_putStream_ne {s t : StreamIx} (g : Stream → Stream) (w : W9) (h : t ≠ s) : streamOf (putStream s g w) t = streamOf w t := by
  rw [(putStream_wire s g w).streamOf, streamOf_modStream_ne _ _ h]
@[simp] theorem streamOf_putBlock (s t : StreamIx) (b : Nat) (d : Option BlockDesc) (w : W9) : streamOf (putBlock s b d w) t = streamOf w t := by
  rw [(putBlock_wire s b d w).streamOf]; rfl
@[simp] theorem blockOf_putStream (s t : StreamIx) (g : Stream → Stream) (b : Nat) (w : W9) : blockOf (putStream s g w) t b = blockOf w t b := by
  rw [(putStream_wire s g w).blockOf]; rfl
@[simp] theorem blockOf_putBlock_same (s : StreamIx) (b : Nat) (d : Option BlockDesc) (w : W9) : blockOf (putBlock s b d w) s b = d := by
  rw [(putBlock_wire s b d w).blockOf]; simp [blockOf, setBlock]
theorem blockOf_putBlock_ne {s t : StreamIx} {b c : Nat} (d : Option BlockDesc) (w : W9) (h : blockKey t c ≠ blockKey s b) :
    blockOf (putBlock s b d w) t c = blockOf w t c := by
  rw [(putBlock_wire s b d w).blockOf]; simp only [blockOf, setBlock]; rw [smGet_smPut_ne _ _ _ h]

end Sys2Proof.Machine
end

