-- ==== Sys2Proof/Laws/Extra.lean ====
section
/-! SUPPORT. What the shared operations of a tile do once a bundle issues, and what they leave alone: registers by register file, tags,
reads with their error effects, routers that take a packet, and words that land. -/

namespace Sys2Proof.Machine

open Sys2Proof

theorem rdB_of_bar0 {w w' : W9} (h : w'.bar0 = w.bar0) (off i : Nat) : rdB w' off i = rdB w off i := by simp [rdB, rd, h]
theorem rdF_of_bar0 {w w' : W9} (h : w'.bar0 = w.bar0) (off a b : Nat) : rdF w' off a b = rdF w off a b := by simp [rdF, rd, h]
theorem rd64_of_bar0 {w w' : W9} (h : w'.bar0 = w.bar0) (off : Nat) : rd64 w' off = rd64 w off := by simp [rd64, rd, h]
theorem paired_of_bar0 {w w' : W9} (h : w'.bar0 = w.bar0) : paired w' = paired w := by simp [paired, rdF_of_bar0 h]
theorem precStep_of_bar0 {w w' : W9} (h : w'.bar0 = w.bar0) : precStep w' = precStep w := by simp [precStep, rd64_of_bar0 h]
theorem changePending_of_bar0 {w w' : W9} (h : w'.bar0 = w.bar0) : changePending w' = changePending w := by simp [changePending, rdB_of_bar0 h]
theorem paired_of_rd {w w' : W9} (h : rd w' Reg.pairStatus = rd w Reg.pairStatus) : paired w' = paired w := by simp [paired, rdF, h]
theorem paired_ev {w w' : W9} (h : OnlyEvents w w') : paired w' = paired w := paired_of_rd (h.regs _ (by decide) (by decide))
theorem now_ev {w w' : W9} (h : OnlyEvents w w') : now w' = now w := h.dev_time
theorem rd64_ev {w w' : W9} (h : OnlyEvents w w') (off : Nat) (h1 : off ≠ Reg.evtLost) (h2 : off ≠ Reg.hostifErr) (h3 : off + 4 ≠ Reg.evtLost) (h4 : off + 4 ≠ Reg.hostifErr) :
    rd64 w' off = rd64 w off := by simp only [rd64, h.regs _ h1 h2, h.regs _ h3 h4]
theorem rdF_ev {w w' : W9} (h : OnlyEvents w w') (off a b : Nat) (h1 : off ≠ Reg.evtLost) (h2 : off ≠ Reg.hostifErr) : rdF w' off a b = rdF w off a b := by
  simp only [rdF, h.regs _ h1 h2]
theorem rdF_wrB_ne' {off k : Nat} (i a b : Nat) (v : Bool) (w : W9) (h : off ≠ k) : rdF (wrB k i v w) off a b = rdF w off a b := by simp only [rdF]; rw [rd_wrB_ne _ _ _ h]
theorem rdF_wr_ne' {off k : Nat} (a b : Nat) (v : Word32) (w : W9) (h : off ≠ k) : rdF (wr k v w) off a b = rdF w off a b := by simp only [rdF]; rw [rd_wr_ne _ _ h]
theorem rdF_inc_ne' {off k : Nat} (a b n : Nat) (w : W9) (h : off ≠ k) : rdF (inc k n w) off a b = rdF w off a b := by simp only [rdF]; rw [rd_inc_ne _ _ h]
theorem rdB_wr_ne' {off k : Nat} (i : Nat) (v : Word32) (w : W9) (h : off ≠ k) : rdB (wr k v w) off i = rdB w off i := by simp only [rdB]; rw [rd_wr_ne _ _ h]
theorem rdB_wrB_off {off k : Nat} (i j : Nat) (v : Bool) (w : W9) (h : off ≠ k) : rdB (wrB k j v w) off i = rdB w off i := by simp only [rdB]; rw [rd_wrB_ne _ _ _ h]
theorem rdB_wrF_off {off k : Nat} (i a b x : Nat) (w : W9) (h : off ≠ k) : rdB (wrF k a b x w) off i = rdB w off i := by simp only [rdB]; rw [rd_wrF_ne _ _ _ _ h]
theorem rdB_inc_off {off k : Nat} (i n : Nat) (w : W9) (h : off ≠ k) : rdB (inc k n w) off i = rdB w off i := by simp only [rdB]; rw [rd_inc_ne _ _ h]
theorem rdF_wrF_off {off k : Nat} (a b c d x : Nat) (w : W9) (h : off ≠ k) : rdF (wrF k c d x w) off a b = rdF w off a b := by simp only [rdF]; rw [rd_wrF_ne _ _ _ _ h]
theorem issue_go (t : Tile) (cs : List Cond) (f : W9 → W9) (w : W9) (h : canTry w t = true) (hc : cs.all (condHolds w t) = true) :
    issue t cs true f w = f (consume t cs (pwrF t Pg.tileStatus 2 1 0 w)) := by simp [issue, h, hc, goBundle]
theorem issue_hold (t : Tile) (cs : List Cond) (m : Bool) (f : W9 → W9) (w : W9) (h : canTry w t = true) (hc : cs.all (condHolds w t) = false) :
    issue t cs m f w = holdBundle t w := by simp [issue, h, hc]
theorem go_status (t : Tile) (cs : List Cond) (w : W9) : prdF (consume t cs (pwrF t Pg.tileStatus 2 1 0 w)) t Pg.tileStatus 2 1 = 0 := by
  have : prd (consume t cs (pwrF t Pg.tileStatus 2 1 0 w)) t Pg.tileStatus = prd (pwrF t Pg.tileStatus 2 1 0 w) t Pg.tileStatus :=
    prd_consume t cs _ (by decide)
  have h2 := prdF_pwrF_same t Pg.tileStatus 2 1 0 w (by decide) (by decide)
  simpa [prdF, this] using h2
theorem addrFault_err (t : Tile) (a : LAddr) (w : W9) : prdB (addrFault t a w) t Pg.tileErr 5 = true := by
  have : prd (addrFault t a w) t Pg.tileErr = prd (tileErr t 5 w) t Pg.tileErr := prd_of_page (by simp [addrFault]) _ _
  simp only [prdB, this]
  exact prdB_pwrB_same t Pg.tileErr 5 true w (by decide)
theorem tagBit (b : Bool) (t : Tile) (base : Nat) (g : Tag) (w : W9) :
    prdB (pwrB64 t base g.val b w) t (base + 4 * (g.val / 32)) (g.val % 32) = b := prdB_pwrB_same _ _ _ _ _ (by omega)
theorem tagBit_ne (b : Bool) (t : Tile) (base : Nat) (g h : Tag) (w : W9) (hne : h ≠ g) :
    prdB (pwrB64 t base g.val b w) t (base + 4 * (h.val / 32)) (h.val % 32) = prdB w t (base + 4 * (h.val / 32)) (h.val % 32) := by
  have hv : h.val ≠ g.val := fun e => hne (Fin.ext e)
  unfold pwrB64
  by_cases e : h.val / 32 = g.val / 32
  · rw [e]; exact prdB_pwrB_ne _ _ _ _ _ _ (by omega)
  · simp only [prdB]; rw [prd_pwrB_off _ _ _ (by omega)]
theorem tagBit_off (b : Bool) (t : Tile) (base off : Nat) (g : Tag) (w : W9) (hne : off + 8 ≤ base ∨ base + 8 ≤ off) (h : Tag) :
    prdB (pwrB64 t base g.val b w) t (off + 4 * (h.val / 32)) (h.val % 32) = prdB w t (off + 4 * (h.val / 32)) (h.val % 32) := by
  unfold pwrB64
  simp only [prdB]; rw [prd_pwrB_off _ _ _ (by omega)]
theorem putBundles_in (t : Tile) : ∀ (k i : Nat) (d : List Byte) (w : W9), (∀ j, j < k →
    smGet bundleEmpty (putBundles t k i d w).mem.bundles (t.val * 4096 + i + j) = BitVec.ofNat 256 (ofLe ((d.drop (32 * j)).take 32))) ∧
    (∀ x, x < t.val * 4096 + i ∨ t.val * 4096 + i + k ≤ x → smGet bundleEmpty (putBundles t k i d w).mem.bundles x = smGet bundleEmpty w.mem.bundles x) ∧
    putBundles t k i d w = { w with mem := { w.mem with bundles := (putBundles t k i d w).mem.bundles } }
  | 0, i, d, w => ⟨by intro j h; omega, by intro x _; rfl, rfl⟩
  | k + 1, i, d, w => by
    have ih := putBundles_in t k (i + 1) (d.drop 32) { w with mem := { w.mem with
        bundles := smPut bundleEmpty w.mem.bundles (t.val * 4096 + i) (BitVec.ofNat 256 (ofLe (d.take 32))) } }
    refine ⟨?_, ?_, ?_⟩
    · intro j hj
      cases j with
      | zero =>
        have := ih.2.1 (t.val * 4096 + i) (by omega)
        rw [putBundles]; simp only [Nat.add_zero, Nat.mul_zero, List.drop_zero]
        rw [this]; exact smGet_smPut_same _ _ _ _
      | succ j =>
        have := ih.1 j (by omega)
        rw [putBundles]
        rw [show t.val * 4096 + i + (j + 1) = t.val * 4096 + (i + 1) + j by omega, this, List.drop_drop]
        rw [show 32 + 32 * j = 32 * (j + 1) by omega]
    · intro x hx
      have := ih.2.1 x (by omega)
      rw [putBundles, this]
      exact smGet_smPut_ne _ _ _ (by omega)
    · rw [putBundles]; exact ih.2.2
theorem smGet_filter {α : Type} (d : Nat → α) (p : Nat → Bool) : ∀ (m : SMap α) (k : Nat), p k = true →
    smGet d (m.filter (fun e => p e.1)) k = smGet d m k
  | [], _, _ => rfl
  | e :: r, k, h => by
    simp only [List.filter]
    by_cases he : p e.1 = true
    · simp only [he, smGet]; rw [smGet_filter d p r k h]
    · simp only [he, smGet]
      have : e.1 ≠ k := by intro x; exact he (x ▸ h)
      rw [if_neg this, smGet_filter d p r k h]
theorem smGet_filter_out {α : Type} (d : Nat → α) (p : Nat → Bool) : ∀ (m : SMap α) (k : Nat), p k = false →
    smGet d (m.filter (fun e => p e.1)) k = d k
  | [], _, _ => rfl
  | e :: r, k, h => by
    simp only [List.filter]
    by_cases he : p e.1 = true
    · simp only [he, smGet]
      have : e.1 ≠ k := by intro x; rw [x, h] at he; exact absurd he (by decide)
      rw [if_neg this, smGet_filter_out d p r k h]
    · simp only [he]; exact smGet_filter_out d p r k h
theorem farAssigned_of_bar0 {w w' : W9} (h : w'.bar0 = w.bar0) (a n : Nat) : farAssigned w' a n = farAssigned w a n := by
  have : stripeStacks w' = stripeStacks w := by simp [stripeStacks, rdB64, rdB, rd, h]
  simp [farAssigned, this]
theorem farStatus_of_bar0 {w w' : W9} (h : w'.bar0 = w.bar0) (t : Tile) (a n : Nat) : farStatus w' t a n = farStatus w t a n := by
  have h1 : stripeStacks w' = stripeStacks w := by simp [stripeStacks, rdB64, rdB, rd, h]
  have h2 : fieldStateSeen w' = fieldStateSeen w := by funext f g; simp [fieldStateSeen, rdF, rd, h]
  have h3 : routeChoice w' = routeChoice w := by funext a b c d; unfold routeChoice pathOpen; rw [h2]
  simp [farStatus, farDecode, h1, h3]
theorem tagDone_eq (x : W9) (t : Tile) (h : Tag) : tagDone x t h = prdB x t (Pg.fmqDone + 4 * (h.val / 32)) (h.val % 32) := rfl
theorem tagPending_eq (x : W9) (t : Tile) (h : Tag) : tagPending x t h = prdB x t (Pg.fmqPending + 4 * (h.val / 32)) (h.val % 32) := rfl
theorem setTag_done (t : Tile) (g : Tag) (d p : Bool) (w : W9) : tagDone (setTag t g d p w) t g = d := by
  rw [tagDone_eq, setTag, tagBit_off _ _ _ _ _ _ (by decide), tagBit]
theorem setTag_pending (t : Tile) (g : Tag) (d p : Bool) (w : W9) : tagPending (setTag t g d p w) t g = p := by
  rw [tagPending_eq, setTag, tagBit]
theorem setTag_free_ne (t : Tile) (g h : Tag) (d p : Bool) (w : W9) (hne : h ≠ g) : tagFree (setTag t g d p w) t h = tagFree w t h := by
  simp only [tagFree, tagDone_eq, tagPending_eq, setTag]
  rw [tagBit_off _ _ _ _ _ _ (by decide), tagBit_ne _ _ _ _ _ _ hne, tagBit_ne _ _ _ _ _ _ hne, tagBit_off _ _ _ _ _ _ (by decide)]
theorem tag_of_prd {w w' : W9} (t : Tile) (h : ∀ off, 0x40 ≤ off → off < 0x50 → prd w' t off = prd w t off) (g : Tag) :
    tagDone w' t g = tagDone w t g ∧ tagPending w' t g = tagPending w t g ∧ tagFree w' t g = tagFree w t g := by
  have hg := g.isLt
  have a : tagDone w' t g = tagDone w t g := by
    simp only [tagDone]; rw [h _ (by simp only [Pg.fmqDone]; omega) (by simp only [Pg.fmqDone]; omega)]
  have b : tagPending w' t g = tagPending w t g := by
    simp only [tagPending]; rw [h _ (by simp only [Pg.fmqPending]; omega) (by simp only [Pg.fmqPending]; omega)]
  exact ⟨a, b, by simp [tagFree, a, b]⟩
theorem readEffects_clean (t : Tile) (a n : Nat) (w : W9)
    (h : ∀ q ∈ quarters a n, w.mem.storeUE.contains (storeKey t q) = false ∧ w.mem.storeCE.contains (storeKey t q) = false) :
    readEffects t a n w = w := by
  unfold readEffects
  generalize quarters a n = l at h
  induction l with
  | nil => rfl
  | cons q l ih =>
    have hq := h q (by simp)
    simp only [forEach, List.foldl_cons, hq.1, hq.2, Bool.false_eq_true, if_false]
    exact ih (fun x hx => h x (by simp [hx]))
theorem consume_frame (t : Tile) (cs : List Cond) (w : W9) : consume t cs w = { w with page := (consume t cs w).page } := by
  unfold consume
  induction cs generalizing w with
  | nil => rfl
  | cons c cs ih =>
    simp only [forEach, List.foldl_cons] at *
    rw [ih]
    cases c with
    | signal c n b => cases b <;> rfl
    | _ => rfl
theorem owed_of {w w' : W9} (h : w'.tiles = w.tiles) (t : Tile) (a n : Nat) : owed w' t a n = owed w t a n := by
  simp [owed, owedRanges, tileOf, h]
theorem schedRead_clean (t : Tile) (a n : Nat) (w : W9) (ho : owed w t a n = false)
    (h : ∀ q ∈ quarters a n, w.mem.storeUE.contains (storeKey t q) = false ∧ w.mem.storeCE.contains (storeKey t q) = false) :
    schedRead t a n w = w := by
  unfold schedRead earlyCheck
  simp only [ho, Bool.false_eq_true, if_false]
  exact readEffects_clean t a n w h
theorem go_tags (t : Tile) (cs : List Cond) (w : W9) : ∀ off, 0x40 ≤ off → off < 0x50 →
    prd (consume t cs (pwrF t Pg.tileStatus 2 1 0 w)) t off = prd w t off := by
  intro off h1 h2
  rw [prd_consume _ _ _ (by omega), prd_pwrF_off _ _ _ _ (by simp only [Pg.tileStatus]; omega)]
theorem zeros_get (n i : Nat) : (List.replicate n (0 : Byte)).getD i 0 = 0 := by
  simp only [List.getD_eq_getElem?_getD, List.getElem?_replicate]; split <;> rfl
theorem unsent_facts (t : Tile) (g : Tag) (l : Bool) (far : FAddr) (a : LAddr) (len : Nat) (st : BitVec 4) (u : W9) :
    tagDone (fmqUnsent t g l far a len st u) t g = true ∧ tagPending (fmqUnsent t g l far a len st u) t g = false ∧
    prdB (fmqUnsent t g l far a len st u) t (Pg.fmqErr + 4 * (g.val / 32)) (g.val % 32) = true ∧
    (fmqUnsent t g l far a len st u).mem = if l then (writeStore t a.toNat (List.replicate len 0) u).mem else u.mem := by
  unfold fmqUnsent; dsimp only
  refine ⟨?_, ?_, ?_, ?_⟩
  · rw [tagDone_eq]; simp only [prdB, prd_raiseT]
    have := tagBit_off true t Pg.fmqErr Pg.fmqDone g (setTag t g true false (if l = true then writeStore t a.toNat (List.replicate len 0) u else u)) (by decide) g
    simp only [prdB] at this; rw [this]
    exact setTag_done t g true false _
  · rw [tagPending_eq]; simp only [prdB, prd_raiseT]
    have := tagBit_off true t Pg.fmqErr Pg.fmqPending g (setTag t g true false (if l = true then writeStore t a.toNat (List.replicate len 0) u else u)) (by decide) g
    simp only [prdB] at this; rw [this]
    exact setTag_pending t g true false _
  · simp only [prdB, prd_raiseT]
    exact tagBit true t Pg.fmqErr g _
  · simp only [raiseT_mem, setTag, pwrB64, pwrB_mem]; split <;> rfl
theorem open_facts (t : Tile) (g : Tag) (x : FmqXfer) (u : W9) :
    tagPending (fmqOpen t g x u) t g = true ∧ tagDone (fmqOpen t g x u) t g = false ∧ (∀ h, h ≠ g → tagFree (fmqOpen t g x u) t h = tagFree u t h) ∧
    fmqOf (fmqOpen t g x u) t g = some x ∧ fmqOpen t g x u = { u with page := (fmqOpen t g x u).page, tiles := (fmqOpen t g x u).tiles } := by
  unfold fmqOpen
  refine ⟨setTag_pending _ _ _ _ _, setTag_done _ _ _ _ _, ?_, ?_, rfl⟩
  · intro h hh; rw [setTag_free_ne _ _ _ _ _ _ hh]; rfl
  · have : ∀ x, fmqOf (setTag t g false true x) t g = fmqOf x t g := fun _ => rfl
    rw [this]; simp [fmqOf]
theorem re0_frame {β : Type} (f : W9 → β) (t : Tile) (hu : ∀ q x, f (noteUE t q csNone x) = f x) (hc : ∀ q x, f (noteCE t q x) = f x) (a n : Nat) (w : W9) :
    f (readEffects0 t a n w) = f w := by
  unfold readEffects0
  apply forEach_frame f
  intro q x
  split
  · exact hu _ _
  split
  · exact hc _ _
  · rfl
theorem noteCE_frame' {β : Type} (f : W9 → β) (t : Tile) (q : Nat) (x : W9) (h1 : ∀ i y, f (tileErr t i y) = f y) (h2 : ∀ y, f (pinc t Pg.ceCount 1 y) = f y)
    (h3 : ∀ c d y, f (raiseT t c d y) = f y)
    (h4 : ∀ b y, f (modTile t (fun s => { s with scrub := { s.scrub with seen := b :: s.scrub.seen } }) y) = f y) : f (noteCE t q x) = f x := by
  unfold noteCE onlyIf; dsimp only
  rw [apply_ite f, apply_ite f, h4, h3, h1, h2, ite_self, ite_self]
theorem re0_scrub (t : Tile) (a n : Nat) (w : W9) : (tileOf (readEffects0 t a n w) t).scrub.rows = (tileOf w t).scrub.rows :=
  re0_frame (fun x => (tileOf x t).scrub.rows) t (by intro q x; simp [noteUE, pinc]) (by intro q x; exact noteCE_frame' (fun x => (tileOf x t).scrub.rows) t q x (by intros; simp) (by intros; simp [pinc]) (by intros; simp) (by intros; simp)) a n w
theorem re0_mem (t : Tile) (a n : Nat) (w : W9) : (readEffects0 t a n w).mem = w.mem :=
  re0_frame (fun x => x.mem) t (by intro q x; simp [noteUE, pinc]) (by intro q x; exact noteCE_frame' (fun x => x.mem) t q x (by intros; simp) (by intros; simp [pinc]) (by intros; simp) (by intros; simp)) a n w
theorem re0_status (t : Tile) (a n : Nat) (w : W9) : prd (readEffects0 t a n w) t Pg.tileStatus = prd w t Pg.tileStatus :=
  re0_frame (fun x => prd x t Pg.tileStatus) t
    (by intro q x; simp only [noteUE, prd_raise, tileErr]; rw [prd_pwrB_off _ _ _ (by decide), prd_pinc_off _ _ (by decide)])
    (by intro q x; exact noteCE_frame' (fun x => prd x t Pg.tileStatus) t q x (fun i y => prd_pwrB_off _ _ _ (by decide)) (fun y => prd_pinc_off _ _ (by decide)) (by intros; simp) (by intros; simp)) a n w
theorem routeOf_of_bar0 {w w' : W9} (h : w'.bar0 = w.bar0) (t : Tile) (d : Dest) : routeOf w' t d = routeOf w t d := by
  have h2 : fieldStateSeen w' = fieldStateSeen w := by funext f g; simp [fieldStateSeen, rdF, rd, h]
  have h3 : routeChoice w' = routeChoice w := by funext a b c d; unfold routeChoice pathOpen; rw [h2]
  unfold routeOf; rw [h3]
theorem updating_of_bar0 {w w' : W9} (h : w'.bar0 = w.bar0) (t : Tile) : updating w' t = updating w t := by simp [updating, rdB, rd, h]
theorem crc16Bit_lt (c : Nat) (h : c < 2 ^ 16) : crc16Bit c < 2 ^ 16 := by
  unfold crc16Bit
  split
  · exact Nat.xor_lt_two_pow (Nat.mod_lt _ (by decide)) (by decide)
  · omega
theorem iter_crc16_lt (n c : Nat) (h : c < 2 ^ 16) : iter crc16Bit n c < 2 ^ 16 := by
  induction n generalizing c with
  | zero => exact h
  | succ n ih => exact ih _ (crc16Bit_lt c h)
theorem crc16_lt (l : List Byte) : crc16 l < 2 ^ 16 := by
  unfold crc16
  have : ∀ (l : List Byte) c, c < 2 ^ 16 → l.foldl (fun c b => iter crc16Bit 8 (c ^^^ (b.toNat * 256))) c < 2 ^ 16 := by
    intro l
    induction l with
    | nil => intro c h; exact h
    | cons b l ih =>
      intro c h
      apply ih
      apply iter_crc16_lt
      apply Nat.xor_lt_two_pow h
      have := b.isLt; omega
  exact this l _ (by decide)
theorem seal_ok (p : Packet) : hcrcOk (sealPkt p) = true := by
  have h : headerBytes (sealPkt p) = headerBytes p := rfl
  have k := crc16_lt (headerBytes p)
  unfold hcrcOk
  rw [h]
  unfold sealPkt
  generalize crc16 (headerBytes p) = c at *
  simp only [BitVec.toNat_ofNat, decide_eq_true_eq]
  omega
theorem take_plain (t : Tile) (net : Net) (p : Packet) (w : W9) (h1 : p.mcast = false) (h2 : updating w t = false) :
    routerTake t net .loc p w = setRouter t (routerOf w t ++ [⟨net, .loc, p, outsAt w t net p, none, flitsOf p, 0⟩]) w := by
  simp [routerTake, h1, h2, isInjection]
theorem takes_plain (t : Tile) (l : List Packet) (w : W9) (h1 : ∀ p ∈ l, p.mcast = false) (h2 : updating w t = false) :
    let u := forEach l (fun k w => routerTake t .request .loc k w) w
    (routerOf u t).map (·.pkt) = (routerOf w t).map (·.pkt) ++ l ∧ ∃ r, u = { w with routers := r } := by
  induction l generalizing w with
  | nil => exact ⟨by simp [forEach], w.routers, rfl⟩
  | cons p l ih =>
    have e := take_plain t .request p w (h1 p (by simp)) h2
    obtain ⟨a, b⟩ := ih (routerTake t .request .loc p w) (fun x hx => h1 x (by simp [hx])) (by rw [e]; exact h2)
    refine ⟨?_, ?_⟩
    · show (routerOf (forEach l _ (routerTake t .request .loc p w)) t).map _ = _
      rw [a, e]; simp
    · obtain ⟨r, hr⟩ := b
      refine ⟨r, ?_⟩
      show forEach l _ (routerTake t .request .loc p w) = _
      rw [hr, e]; rfl
theorem go_frame (t : Tile) (cs : List Cond) (w : W9) : consume t cs (pwrF t Pg.tileStatus 2 1 0 w) = { w with page := (consume t cs (pwrF t Pg.tileStatus 2 1 0 w)).page } := by
  rw [consume_frame]; rfl
theorem landNow_frame (t : Tile) (ws : List (Nat × List Byte)) (w : W9) : ∃ st ue ce ts, landNow t ws w = { w with tiles := ts, mem := { w.mem with store := st, storeUE := ue, storeCE := ce } } := by
  induction ws generalizing w with
  | nil => exact ⟨_, _, _, _, rfl⟩
  | cons x r ih =>
    obtain ⟨a, b, c, d, h⟩ := ih (writeStore t x.1 x.2 w)
    exact ⟨a, b, c, d, by rw [landNow, h]; rfl⟩
theorem landNow_get (t : Tile) (a : Nat) (bs : List Byte) : ∀ (ws : List (Nat × List Byte)) (w : W9),
    (∀ x ∈ ws, a ≤ x.1 ∧ x.1 + x.2.length ≤ a + bs.length ∧ ∀ j, j < x.2.length → x.2.getD j 0 = bs.getD (x.1 - a + j) 0) →
    (∀ i, i < bs.length → (smGet (fun _ => 0) w.mem.store (storeKey t (a + i)) = bs.getD i 0 ∨ ∃ x ∈ ws, x.1 ≤ a + i ∧ a + i < x.1 + x.2.length) →
      smGet (fun _ => 0) (landNow t ws w).mem.store (storeKey t (a + i)) = bs.getD i 0) ∧
    (∀ k, k < storeKey t a ∨ storeKey t a + bs.length ≤ k → smGet (fun _ => 0) (landNow t ws w).mem.store k = smGet (fun _ => 0) w.mem.store k)
  | [], w, _ => ⟨fun i _ h => by rcases h with h | ⟨x, hx, _⟩; exact h; simp at hx, fun _ _ => rfl⟩
  | x :: r, w, hw => by
    have ih := landNow_get t a bs r (writeStore t x.1 x.2 w) (fun y hy => hw y (by simp [hy]))
    obtain ⟨h1, h2, h3⟩ := hw x (by simp)
    have hs : (writeStore t x.1 x.2 w).mem.store = putBytes 0 w.mem.store (storeKey t x.1) x.2 := rfl
    refine ⟨?_, ?_⟩
    · intro i hi h
      apply ih.1 i hi
      by_cases hc : x.1 ≤ a + i ∧ a + i < x.1 + x.2.length
      · left
        rw [hs, show storeKey t (a + i) = storeKey t x.1 + (a + i - x.1) by simp only [storeKey]; omega, smGet_putBytes_in _ _ _ _ _ (by omega), h3 _ (by omega)]
        congr 1; omega
      · rcases h with h | ⟨y, hy, hy2⟩
        · left; rw [hs, smGet_putBytes_out _ _ _ _ _ (by simp only [storeKey]; omega)]; exact h
        · simp only [List.mem_cons] at hy
          rcases hy with rfl | hy
          · exact absurd hy2 hc
          · right; exact ⟨y, hy, hy2⟩
    · intro k hk
      rw [landNow, ih.2 k hk, hs, smGet_putBytes_out _ _ _ _ _ (by simp only [storeKey] at hk ⊢; omega)]
theorem wordsOf_spec (a : Nat) (bs : List Byte) :
    (∀ x ∈ wordsOf a bs, a ≤ x.1 ∧ x.1 + x.2.length ≤ a + bs.length ∧ ∀ j, j < x.2.length → x.2.getD j 0 = bs.getD (x.1 - a + j) 0) ∧
    (∀ i, i < bs.length → ∃ x ∈ wordsOf a bs, x.1 ≤ a + i ∧ a + i < x.1 + x.2.length) := by
  refine ⟨?_, ?_⟩
  · intro x hx
    simp only [wordsOf, List.mem_filter, List.mem_map, List.mem_range, Bool.not_eq_true', List.isEmpty_eq_false_iff] at hx
    obtain ⟨⟨i, hi, rfl⟩, hne⟩ := hx
    dsimp only at hne ⊢
    generalize hlo : max a (a / 64 * 64 + 64 * i) = lo at *
    generalize hhi : min (a + bs.length) (a / 64 * 64 + 64 * (i + 1)) = hi' at *
    have hpos : 0 < ((bs.drop (lo - a)).take (hi' - lo)).length := List.length_pos_iff.mpr hne
    simp only [List.length_take, List.length_drop] at hpos ⊢
    refine ⟨by omega, by omega, ?_⟩
    intro j hj
    simp only [List.getD_eq_getElem?_getD, List.getElem?_take, List.getElem?_drop]
    rw [if_pos (by omega)]
  · intro i hi
    refine ⟨(max a (a / 64 * 64 + 64 * ((a + i - a / 64 * 64) / 64)), (bs.drop (max a (a / 64 * 64 + 64 * ((a + i - a / 64 * 64) / 64)) - a)).take (min (a + bs.length) (a / 64 * 64 + 64 * ((a + i - a / 64 * 64) / 64 + 1)) - max a (a / 64 * 64 + 64 * ((a + i - a / 64 * 64) / 64)))), ?_, ?_, ?_⟩
    · simp only [wordsOf, List.mem_filter, List.mem_map, List.mem_range, Bool.not_eq_true', List.isEmpty_eq_false_iff]
      refine ⟨⟨(a + i - a / 64 * 64) / 64, ?_, rfl⟩, ?_⟩
      · simp only [cdiv]; omega
      · apply List.length_pos_iff.mp; simp only [List.length_take, List.length_drop]; omega
    · dsimp only; omega
    · simp only [List.length_take, List.length_drop]; omega
theorem land_bytes (t : Tile) (a : Nat) (bs : List Byte) (w : W9) :
    (∀ i, i < bs.length → smGet (fun _ => 0) (landNow t (wordsOf a bs) w).mem.store (storeKey t (a + i)) = bs.getD i 0) ∧
    (∀ k, k < storeKey t a ∨ storeKey t a + bs.length ≤ k → smGet (fun _ => 0) (landNow t (wordsOf a bs) w).mem.store k = smGet (fun _ => 0) w.mem.store k) := by
  obtain ⟨h1, h2⟩ := wordsOf_spec a bs
  obtain ⟨g1, g2⟩ := landNow_get t a bs (wordsOf a bs) w h1
  exact ⟨fun i hi => g1 i hi (Or.inr (h2 i hi)), g2⟩
theorem take_frame (t : Tile) (net : Net) (p : Packet) (w : W9) (h : p.mcast = false) : (routerTake t net .loc p w).mem = w.mem ∧ (routerTake t net .loc p w).page = w.page := by
  simp only [routerTake, h, Bool.false_and, Bool.false_eq_true, if_false, isInjection, Bool.not_true, Bool.and_false]
  split
  · unfold holdStray; simp
  · exact ⟨rfl, rfl⟩
theorem reply_frame (t : Tile) (p : Packet) (w : W9) (h : p.mcast = false) : (sendReply t p w).mem = w.mem ∧ (sendReply t p w).page = w.page := by
  unfold sendReply
  split
  · exact ⟨rfl, rfl⟩
  · exact take_frame t .reply _ w h
theorem re0_clean (t : Tile) (a n : Nat) (w : W9)
    (h : ∀ q ∈ quarters a n, w.mem.storeUE.contains (storeKey t q) = false ∧ w.mem.storeCE.contains (storeKey t q) = false) :
    readEffects0 t a n w = w := by
  unfold readEffects0
  generalize quarters a n = l at h
  induction l with
  | nil => rfl
  | cons q l ih =>
    have hq := h q (by simp)
    simp only [forEach, List.foldl_cons, hq.1, hq.2, Bool.false_eq_true, if_false]
    exact ih (fun x hx => h x (by simp [hx]))
theorem le_length (n v : Nat) : (le n v).length = n := by induction n generalizing v with
  | zero => rfl
  | succ n ih => simp [le, ih]
theorem le4_length (v : Nat) : (le 4 v).length = 4 := rfl
theorem se_frame {β : Type} (f : W9 → β) (t : Tile) (he : ∀ a n x, f (earlyCheck t a n x) = f x) (hu : ∀ q cs x, f (noteUE t q cs x) = f x) (ht : ∀ b x, f (setTaint t b x) = f x) (hc : ∀ q x, f (noteCE t q x) = f x) (a n : Nat) (w : W9) :
    f (schedRead t a n w) = f w := by
  unfold schedRead readEffects
  rw [forEach_frame f]
  · exact he _ _ _
  intro q x
  split
  · rw [ht, hu]
  split
  · exact hc _ _
  · rfl
theorem schedRead_attn (t : Tile) (a n : Nat) (w : W9) : (tileOf (schedRead t a n w) t).attn = (tileOf w t).attn :=
  se_frame (fun x => (tileOf x t).attn) t (by intro a n x; unfold earlyCheck; split <;> simp) (by intros; simp [noteUE, pinc]) (by intros; simp [setTaint])
    (by intro q x; exact noteCE_frame' (fun x => (tileOf x t).attn) t q x (by intros; simp) (by intros; simp [pinc]) (by intros; simp) (by intros; simp)) a n w
theorem schedRead_other (t u : Tile) (h : u ≠ t) (a n : Nat) (w : W9) : tileOf (schedRead t a n w) u = tileOf w u :=
  se_frame (fun x => tileOf x u) t (by intro a n x; unfold earlyCheck; split <;> simp) (by intros; simp [noteUE, pinc]) (by intros; simp only [setTaint]; rw [tileOf_modTile_ne _ _ h])
    (by intro q x; exact noteCE_frame' (fun x => tileOf x u) t q x (by intros; simp) (by intros; simp [pinc]) (by intros; simp) (by intros; rw [tileOf_modTile_ne _ _ h])) a n w
theorem landWords_spec (t : Tile) : ∀ (ws : List (LAddr × F32)) (w : W9),
    (∀ (i : Nat) (x : LAddr × F32), ws[i]? = some x → (∀ (j : Nat) (y : LAddr × F32), i < j → ws[j]? = some y → (y : LAddr × F32).1.toNat + 4 ≤ x.1.toNat ∨ x.1.toNat + 4 ≤ y.1.toNat) →
      ∀ k, k < 4 → smGet (fun _ => 0) (landWords t ws w).mem.store (storeKey t x.1.toNat + k) = (le 4 x.2.toNat).getD k 0) ∧
    (∀ k, (∀ x ∈ ws, k < storeKey t x.1.toNat ∨ storeKey t x.1.toNat + 4 ≤ k) →
        smGet (fun _ => 0) (landWords t ws w).mem.store k = smGet (fun _ => 0) w.mem.store k) ∧
    (tileOf (landWords t ws w) t).attn = (tileOf w t).attn ∧
    landWords t ws w = { w with tiles := (landWords t ws w).tiles, mem := { w.mem with store := (landWords t ws w).mem.store, storeUE := (landWords t ws w).mem.storeUE, storeCE := (landWords t ws w).mem.storeCE } }
  | [], w => ⟨by simp, by simp [landWords], rfl, rfl⟩
  | x :: r, w => by
    have ih := landWords_spec t r (writeStore t x.1.toNat (le 4 x.2.toNat) w)
    have hs : (writeStore t x.1.toNat (le 4 x.2.toNat) w).mem.store = putBytes 0 w.mem.store (storeKey t x.1.toNat) (le 4 x.2.toNat) := rfl
    refine ⟨?_, ?_, ?_, ?_⟩
    · intro i y hi ho
      cases i with
      | succ i =>
        simp only [landWords]
        exact ih.1 i y (by simpa using hi) (fun j z hj hz => ho (j + 1) z (by omega) (by simpa using hz))
      | zero =>
        simp at hi; subst hi
        intro k hk
        rw [landWords, ih.2.1, hs, smGet_putBytes_in _ _ _ _ _ (by simpa [le4_length] using hk)]
        intro y hy
        obtain ⟨j, hj⟩ := List.mem_iff_getElem?.mp hy
        have := ho (j + 1) y (by omega) (by simpa using hj)
        simp only [storeKey]; omega
    · intro k hk
      simp only [landWords]
      rw [ih.2.1 k (fun y hy => hk y (by simp [hy])), hs, smGet_putBytes_out _ _ _ _ _ (by rw [le4_length]; exact hk x (by simp))]
    · rw [landWords, ih.2.2.1]; unfold writeStore; dsimp only; rw [tileOf_modTile_same]; rfl
    · rw [landWords, ih.2.2.2]; rfl

end Sys2Proof.Machine
end

