-- ==== Sys2Proof/WellFormed.lean ====
section
/-! DEFINITION. The static checks on a command's operands: sizes, alignments and ranges that the rule of the row gives them. What a
command does with operands outside them is in Machine/ all the same. -/

namespace Sys2Proof

/-! ## The checks -/

/-- A register access is naturally aligned and lies in its block (R17, R93). -/
def regWf (a : RegAddr) (wide : Bool) : Bool :=
  let al (off : Nat) : Bool := if wide then off % 8 == 0 else off % 4 == 0
  match a with
  | .bar0 off => al off
  | .page _ off => al off && decide (off < 0x1000)

/-- The access is of another size or alignment than R17 allows. -/
def misalignedWf (off size : Nat) : Bool :=
  decide (1 ≤ size) && !((decide (size = 4) && off % 4 == 0) || (decide (size = 8) && off % 8 == 0))

/-- The OP is not listed in the register's map (R22). -/
def unlistedWf (r : CmdReg) (v : Word32) : Bool :=
  let op2 := v.toNat / 2 ^ 30
  match r with
  | .rst => decide (v.toNat / 2 ^ 28 = 0) || decide (4 < v.toNat / 2 ^ 28)
  | .adapter => decide (op2 = 0) || decide (op2 = 3)
  | .flip => decide (op2 = 0) || decide (op2 = 3)
  | .fault => decide (op2 ≠ 1)
  | _ => decide (op2 = 0)

/-- Differences of sampled copies name a domain each (R434). -/
def copiesWf (l : List (Nat × Int)) : Bool := l.all (fun e => decide (e.1 < 256))

/-- Bytes popped from or appended to a ring (R75). -/
def popWf (k : Nat) : Bool := decide (1 ≤ k) && k % 64 == 0

/-- Payload and target of a PUT or PUT-SIGNAL (Table 5.1, R162). -/
def putWf (p : SendArgs) : Bool :=
  decide (8 ≤ p.len) && decide (p.len ≤ 65536) && p.len % 8 == 0 && p.address.toNat % 8 == 0 &&
    (match p.ring with | some _ => decide (p.len ≤ 1024) && p.len % 64 == 0 | none => true)

/-- A GET reads 8 B to 1 KiB and names no ring and no group (Table 5.1, R162). -/
def getWf (p : SendArgs) : Bool :=
  decide (8 ≤ p.len) && decide (p.len ≤ 1024) && p.len % 8 == 0 && p.address.toNat % 8 == 0 && p.ring.isNone &&
    (match p.dest with | .unit _ => true | .group _ => false)

/-- An atomic works on one word of 8 B and names no ring and no group (Table 5.1, R162). -/
def atomicWf (p : SendArgs) : Bool :=
  p.address.toNat % 8 == 0 && p.ring.isNone && (match p.dest with | .unit _ => true | .group _ => false)

/-- A packet of Table 5.1: a known OP and at most 1,024 bytes of payload (R167). -/
def packetWf (p : Packet) : Bool :=
  [1, 2, 3, 4, 5, 6, 8, 9, 10].contains p.op.toNat && decide (p.payload.length ≤ 1024) && p.payload.length % 8 == 0

/-- A packet of a PUT or PUT-SIGNAL, to an address. -/
def writePacket (p : Packet) : Bool := (decide (p.op = 1) || decide (p.op = 2)) && p.ring.isNone

/-- The bytes of a write through the bundle port (R96). -/
def bundlePortWf (off n : Nat) : Bool := decide (0xE00 ≤ off) && decide (off + n ≤ 0x1000)

/-- An FMQ operation (Table 2.6). -/
def fmqWf (far : FAddr) (a : LAddr) (n : Nat) : Bool :=
  decide (64 ≤ n) && decide (n ≤ 65536) && n % 64 == 0 && far.toNat % 64 == 0 && a.toNat % 64 == 0

/-- A MATMUL (Table 3.2). -/
def matmulWf (m : MatmulArgs) : Bool :=
  decide (1 ≤ m.n) && decide (m.n ≤ 4096) && (decide (m.rows = 1) || decide (m.rows = 2)) && m.dst.toNat % 64 == 0

/-- A CONVERT works on groups of 64 channels (R128, R131). -/
def convertWf (c : ConvertArgs) : Bool := decide (1 ≤ c.n) && c.n % 64 == 0

/-- An ATTN (Table 6.1). -/
def attnWf (a : AttnArgs) : Bool :=
  decide (1 ≤ a.rows) && decide (a.rows ≤ 64) && decide (1 ≤ a.g) && decide (a.g ≤ 32) && a.rows % a.g == 0 &&
    (decide (a.d = 64) || decide (a.d = 128)) && decide (1 ≤ a.n) && decide (a.n ≤ 4096)

/-- An AMERGE (R214). -/
def amergeWf (a : AmergeArgs) : Bool :=
  decide (1 ≤ a.rows) && decide (a.rows ≤ 64) && (decide (a.d = 64) || decide (a.d = 128))

/-- A far request: bytes inside a stack (R287, R288). -/
def farReqWf (r : FarReq) : Bool :=
  decide (1 ≤ r.len) && decide (r.offset + r.len ≤ 48 * 2 ^ 30) && (r.load || decide (r.data.length = r.len))

/-- A control flit (Table 11.2). -/
def flitWf (f : ControlFlit) : Bool :=
  decide (f.msgs ≤ 7) && decide (f.dataCount ≤ 4) && decide (f.body.length = 252) &&
    decide ((f.body.getD 0 0).toNat = f.msgs) && decide ((f.body.getD 1 0).toNat = f.dataCount) &&
    decide ((f.body.getD 2 0).toNat + 256 * (f.body.getD 3 0).toNat = f.seq.toNat) &&
    decide ((f.body.getD 4 0).toNat + 256 * (f.body.getD 5 0).toNat = f.ack.toNat) &&
    decide ((f.body.getD 6 0).toNat = (if f.nak then 1 else 0) + (if f.sequenced then 2 else 0)) &&
    decide ((f.body.getD 8 0).toNat + 256 * (f.body.getD 9 0).toNat = f.freed.toNat)

/-- A TRANSFER's LENGTH, and the data that comes with a write (Table 11.4). -/
def transferWf (x : Transfer) : Bool :=
  decide (8 ≤ x.length) && decide (x.length ≤ 1024) && x.length % 8 == 0 &&
    decide (x.data.length = if x.op = 3 then 0 else x.length)

/-- A power zone (Table 12.5): 48 per field rail, 8 link ports, one VAUX. -/
def zoneWf (r : Rail) (z : Nat) : Bool := match r with
  | .vlink => decide (z < 8)
  | .vaux => decide (z = 0)
  | _ => decide (z < 48)

/-- A unit that quiesces: a field, a gateway or a link port (Table 14.3a). -/
def unitWf (kind : Fin 3) (i : Nat) : Bool := match kind with
  | 0 => decide (i < 48)
  | 1 => decide (i < 192)
  | 2 => decide (i < 8)

/-- A result that the unit's test can have (Table 15.3): a stuck bit or an uncorrectable fault is a bank's, a lane is a port's. -/
def testWf (u : TestUnit) (r : TestResult) : Bool :=
  let bank := match u with
    | .bankBank _ _ => true
    | .opsBank _ _ => true
    | _ => false
  match r with
  | .pass => true
  | .stuckBit => bank
  | .uncorrectable => bank
  | .fail none => !bank
  | .fail (some _) => match u with
    | .lanes _ => true
    | .sensorPair _ => true
    | _ => false

/-! ## Well-formed commands -/

/-- The operands of a command are such as its rule admits. -/
def Instr.wf : Instr → Bool
  | .registerWrite a wide value => regWf a wide && (wide || decide (value.toNat < 2 ^ 32))
  | .rcRead a wide _ => regWf a wide
  | .deviceTimeLowRead => true
  | .bar0MisalignedAccess _ off size => misalignedWf off size
  | .commandUnlistedOp reg value => unlistedWf reg value
  | .beatBoundary _ => true
  | .beatPlanWord _ => true
  | .beatStart => true
  | .timeBroadcast diffs => copiesWf diffs
  | .beatBundle _ => true
  | .precisionCountReport _ => true
  | .fieldBeatCounterAdvance _ => true
  | .idleBundle _ n => decide (1 ≤ n)
  | .localLoad _ _ len _ => decide (1 ≤ len)
  | .localStore _ _ data _ => decide (1 ≤ data.length)
  | .freezeBegin => true
  | .ringPop _ _ k _ => popWf k
  | .localAppend _ _ data _ => popWf data.length
  | .put _ p => putWf p
  | .putSignal _ p => putWf p && p.signal.isSome
  | .get _ p => getWf p
  | .atomicAdd _ p _ => atomicWf p
  | .atomicCas _ p _ _ => atomicWf p
  | .packetArrive _ _ _ pkt _ => packetWf pkt
  | .openSlotGrant _ _ _ _ _ => true
  | .seamRelease _ _ _ _ => true
  | .seamLate _ _ _ _ => true
  | .remoteWriteLand _ _ pkt _ => packetWf pkt && writePacket pkt
  | .deferredWriteLand _ _ => true
  | .remoteGetServe _ pkt _ => packetWf pkt && decide (pkt.op = 3)
  | .atomicExecute _ pkt _ => packetWf pkt && (decide (pkt.op = 4) || decide (pkt.op = 5))
  | .ringAppendLand _ pkt => packetWf pkt && pkt.ring.isSome
  | .replyLand _ pkt => packetWf pkt && decide (8 ≤ pkt.op.toNat)
  | .creditReq _ _ _ _ => true
  | .creditGrant _ _ => true
  | .creditGrantReceive _ _ _ _ _ => true
  | .ringEnable _ _ _ => true
  | .windowEnable _ _ _ => true
  | .sigcntWrite _ _ _ _ => true
  | .bundlePortWrite _ off data => bundlePortWf off data.length
  | .seqStart _ => true
  | .seqStop _ => true
  | .sequencerRunBegin _ => true
  | .fmqLoad _ _ far a len _ => fmqWf far a len
  | .fmqStore _ _ far a len _ => fmqWf far a len
  | .fmqTagDone _ _ => true
  | .wait _ _ => true
  | .fmqWatchExpired _ _ => true
  | .scrubRead _ busy => busy.all (fun b => decide (b < 48))
  | .scrubWriteBack _ _ => true
  | .scrubLate _ => true
  | .storeZeroingComplete _ => true
  | .matmul _ m => matmulWf m
  | .wload _ _ => true
  | .productDrainComplete _ => true
  | .convert _ c => convertWf c
  | .ganderRerun _ _ => true
  | .ganderErrorCompute _ weights acts => decide (acts.length = 64 * (acts.length / 64)) && weights.all (fun r => decide (r.length = acts.length))
  | .evaluationPoint _ => true
  | .deescalationDecision _ => true
  | .changeComplete => true
  | .attn _ a => attnWf a
  | .amerge _ a => amergeWf a
  | .attnComplete _ => true
  | .stagingAppend _ _ _ pos _ => decide (pos < 2 ^ 21)
  | .flushedMaskSet _ _ _ chunk => decide (chunk < 2 ^ 15)
  | .allocationResume _ => true
  | .prefixLookup _ => true
  | .prefixInsert _ blk => decide (blk < 8192)
  | .prefixRelease _ => true
  | .intakeScan => true
  | .admissionDecision => true
  | .cancel _ _ => true
  | .stepConfirm _ => true
  | .draftExtend _ _ => true
  | .chunkStart _ _ => true
  | .chunkEnd _ => true
  | .windowPublish => true
  | .install _ => true
  | .adapterSlotTaken => true
  | .adapterLoadComplete => true
  | .remove _ => true
  | .setLoad _ => true
  | .verify => true
  | .abort => true
  | .layerDigestCheck _ => true
  | .loadEngineDone _ => true
  | .muleDataReceive _ _ _ data => decide (1 ≤ data.length)
  | .loadItemPop _ => true
  | .loadItemComplete _ => true
  | .gatewayRequestAccept _ r => farReqWf r
  | .gatewayServe _ _ _ => true
  | .refreshInterval _ _ => true
  | .stackLeaveSelf _ => true
  | .start _ => true
  | .flipAbort => true
  | .flipBuildComplete => true
  | .flipDrainExpired => true
  | .streamPark _ => true
  | .flipDrainComplete => true
  | .refillEntryDone _ => true
  | .imageLoad _ _ => true
  | .imageInstantiated => true
  | .unload => true
  | .reload => true
  | .resume => true
  | .resumeTimeReached => true
  | .pop => true
  | .dbgTilePageAccess _ off _ => decide (off < 0x1000) && off % 4 == 0
  | .bar2Read off len => decide (1 ≤ len) && decide (off + len ≤ 2 ^ 30)
  | .bar2Write off bytes => decide (1 ≤ bytes.length) && decide (off + bytes.length ≤ 2 ^ 30)
  | .bar2ReadTimeout _ _ => true
  | .bar4Write _ bytes => decide (1 ≤ bytes.length)
  | .bar4Read _ len => decide (1 ≤ len)
  | .bar4ReadComplete _ _ => true
  | .intakeEnable _ value => value.getLsbD 31
  | .intakeStampsCleared _ => true
  | .intakeDisable _ value => !value.getLsbD 31
  | .hostRingEnable _ value => value.getLsbD 31
  | .ringBatchWrite _ => true
  | .msixSend _ => true
  | .completionPost _ => true
  | .linkTrained _ _ => true
  | .linkDown => true
  | .functionLevelReset => true
  | .d3hotEntry => true
  | .setEndpointId _ => true
  | .getEndpointId => true
  | .getEndpointUuid => true
  | .getMctpVersionSupport => true
  | .getMessageTypeSupport => true
  | .getState => true
  | .setFacilityCap _ => true
  | .getPower => true
  | .attestStart nonce => decide (nonce.length = 32)
  | .attestRead _ => true
  | .portTrain _ _ => true
  | .portTrainRetry _ => true
  | .laneFail _ _ => true
  | .controlFlitReceive _ flit => flitWf flit
  | .dataFlitReceive _ _ => true
  | .replayTimeout _ => true
  | .farWrite _ x => transferWf x && decide (x.op = 0)
  | .windowWrite _ x => transferWf x && decide (x.op = 1)
  | .windowWriteWithSignal _ x => transferWf x && decide (x.op = 2) && x.signal.isSome
  | .windowRead _ x => transferWf x && decide (x.op = 3)
  | .reply _ _ _ _ => true
  | .pairHelloSend => true
  | .pairHello _ h => decide (h.digest.length = 32)
  | .pairAccept _ => true
  | .pairRefuse _ _ => true
  | .heartbeatSend => true
  | .heartbeat _ _ => true
  | .partnerSilence _ => true
  | .shadowBacklogHandover => true
  | .mirrorAdopt _ => true
  | .failing _ _ => true
  | .claim _ => true
  | .handoff _ _ _ => true
  | .ended _ _ => true
  | .commit _ c => decide (1 ≤ c.tokens.length) && decide (c.tokens.length ≤ 4)
  | .commitTimeout _ => true
  | .shadowReq _ _ _ _ => true
  | .shadowAck _ _ _ => true
  | .shadowNak _ _ _ => true
  | .ready _ _ => true
  | .shadowStepStart _ _ _ => true
  | .block _ _ _ _ _ => true
  | .chunkDone _ _ _ _ _ => true
  | .mirrorSend => true
  | .escReq _ _ _ _ => true
  | .escCommit _ _ _ _ => true
  | .escClear _ _ => true
  | .stretch _ _ _ => true
  | .freeze _ => true
  | .resumeMessage _ _ => true
  | .muleResend _ _ _ _ _ => true
  | .muleFail _ _ _ => true
  | .pairCtrlWrite _ => true
  | .fieldPllLoss _ => true
  | .fieldPllRelockTimeout _ => true
  | .mifPllLoss _ => true
  | .stewardPllLoss => true
  | .timebasePllLoss => true
  | .referenceLoss => true
  | .inputOutOfRange _ => true
  | .inputCutoff => true
  | .zoneTelemetry _ _ => true
  | .zoneCurrentLimit _ => true
  | .droopWindow _ high _ _ => high.all (fun e => decide (e.1 < 42))
  | .suspectedCrack _ _ => true
  | .zoneShort r zone _ => zoneWf r zone
  | .drainEnd _ => true
  | .drainAbandon _ => true
  | .fieldGate _ => true
  | .wakeComplete _ => true
  | .fieldReopen _ => true
  | .sensorSample readings => readings.all (fun e => decide (e.1 < 246))
  | .sensorReferenceCheck _ _ _ => true
  | .thermalEvaluation _ _ _ _ => true
  | .envelopeDecision power5ms _ => decide (power5ms < 2 ^ 16)
  | .class0ReleaseHandoffTimeout _ => true
  | .class0ReleaseComplete => true
  | .hostCapWrite _ => true
  | .holdQuiesced => true
  | .holdAbandon _ => true
  | .holdExitStep _ => true
  | .clearEmerg => true
  | .clearTrip => true
  | .powerOn => true
  | .coldReset => true
  | .resetRelease _ => true
  | .warm => true
  | .field _ => true
  | .gateway _ => true
  | .linkPort _ _ => true
  | .quiesceComplete kind index _ => unitWf kind index
  | .quiesceTimeout kind index _ => unitWf kind index
  | .fieldResetReopen _ => true
  | .criticalStateError _ => true
  | .read => true
  | .erase => true
  | .program => true
  | .optionOperationEnd _ => true
  | .report => true
  | .extend _ => true
  | .twin => true
  | .twinStatePoll => true
  | .attestReportReady => true
  | .roosterBeat _ => true
  | .roosterWindow => true
  | .beatWatch _ => true
  | .replayWatch => true
  | .recoveryStart => true
  | .recoveryTwinListenEnd => true
  | .suspectReplay => true
  | .release _ => true
  | .selfTestRun _ => true
  | .selfTestEnd u r => testWf u r
  | .selfTestAbandon _ _ => true
  | .fieldLoss _ _ => true
  | .fieldPllRelock _ => true
  | .timebasePllRelock => true
  | .aerErrorLogged _ _ => true
  | .sidebandUnknownCommand _ => true

end Sys2Proof
end

