-- ==== Sys2Proof/Tests/Slice0.lean ====
section
/-! SUPPORT. Tests: ill-formed commands that the static checks refuse, worked examples of the spec, and for every statement of
Certificates/Slice0/Obligations.lean states and operands that meet its hypotheses. -/

section

set_option Elab.async false

namespace Sys2Proof.Tests

open Sys2Proof Sys2Proof.Machine

/-- A W9 that has booted and done nothing since. -/
def upW : W9 := { W9.reset with dev := { Dev.init with rstDone := true }, rst := { RstS.init with asserted := false } }

/-- A state with an empty queue. -/
def st (w : W9) : State := ⟨w, []⟩

/-- A narrow decoding layer with a ladder of three formats. -/
def layer0 : LayerMap := {
  layer := 0, kind := 0, wide := false, ladder := [1, 3, 5], slots := 0, threshold := 0, ceiling := 0xFE, burst := false
  bufferBytes := 0, widestBytes := 0, ovfLimit := 10, band := 0, decode := true, gander := [(0, 0)], products := 1, dutyBand := some 0, dutyTile := 0
  kv := true, heads := 1, width := 64 }

/-- A rung of three stages with one band in field 0 and a sampler. -/
def rung0 : Rung := {
  timing := {
    latency := [], beatBase := 2000, rowPair := 0, rowsMax := 2, stages := 3, class0Max := 2, sFloor := 100, beatMax := 4000, slotLen := 64
    extRow := 100, idleMin := 120, kv8 := true, kvBeatBytes := 65536, kvCycleBytes := 64, kvPosBytes := 16, chunkMax := 64, pfBase := 0, pfPos := 0 }
  bands := [⟨0, 0, false, 1, 1, 0⟩, ⟨1, 1, false, 1, 1, 0⟩], positions := [⟨0, 0, 0, 0⟩, ⟨1, 0, 1, 0⟩], refs := [], programs := [], slotTables := []
  paths := [], mcast := [], rotation := [], rotationPaths := false, parkable := 0, draft := none
  far := {
    stripe := 0xFFFFFFFFFFFF, regions := [⟨0x40000000000, 0x100000000, 1⟩], streamed := [], prefillBytes := 0, prefillShare := 0, secondCopy := true
    copyOffsets := [], weights := [], refill := [⟨[0], 1000⟩, ⟨[1], 1000⟩], streamTable := 0x40100000000, directoryBase := 0x40200000000
    tokenLogBase := 0x40300000000, kvPages := 64, prefixTable := 0x40400000000, prefixRoots := 0x40500000000, log2Buckets := 4, localStacks := [] } }

/-- An image of that one rung. -/
def image0 : ImageS := {
  body := { rungs := [rung0], rings := [], windows := [], layers := [layer0], contexts := [], ladder := [], vocab := 100, badSection := none }
  profile := 0, compat := false, len := 0x1000, mapId := 7, buildId := 9, bodyDigest := [], digest := List.replicate 32 0, addr := 0, oldRung := none }

/-- The W9 runs that image: beats of 2,000 cycles, three stages, serving on. -/
def runsW : W9 := { wr Reg.kvPosBytes 16 (wr Reg.kvCycleBytes 64 (wr64 Reg.kvBeatBytes 65536 (wr Reg.pipeShape 0x20003 (wr Reg.beatCycles 2000 (wr Reg.imgStatus 3 upW)))))
  with img := some image0, serve := { Serve.init with pipe := [none, none, none] } }

/-- A field in which nothing has happened since reset is idle. -/
theorem fieldIdle_untouched (w : W9) (f : FieldIx) (h1 : w.tiles = []) (h2 : w.page = []) (h3 : routeEmpty w f = true) : fieldIdle w f = true := by
  have hp : ∀ t : Tile, prd64 w t Pg.fmqPending = 0 := by
    intro t
    have e : ∀ off, off < 0x1000 → prd w t off = pageReset off := by
      intro off ho
      have : (t.val * 0x1000 + off) % 0x1000 = off := by omega
      simp only [prd, h2, smGet, pageReset, this, Nat.mod_eq_of_lt ho]
    simp only [prd64, e Pg.fmqPending (by decide), e (Pg.fmqPending + 4) (by decide)]
    decide +kernel
  have hr : runningTiles w f = [] := by simp [runningTiles, h2]
  have ht : ∀ t : Tile, tileOf w t = TileS.init := by intro t; simp [tileOf, h1, smGet]
  have hi : ∀ t : Tile, tileIdle w t = true := by
    intro t
    simp only [tileIdle, ht, hp]
    rfl
  simp [fieldIdle, hr, h3, hi]

/-- No tile of such a field is stalled. -/
theorem stalledIn_untouched (w : W9) (f : FieldIx) (h2 : w.page = []) : stalledIn w f = false := by
  have hp : ∀ t : Tile, prdB w t Pg.tileStatus 1 = false := by
    intro t
    have : (t.val * 0x1000 + Pg.tileStatus) % 0x1000 = Pg.tileStatus := by simp only [Pg.tileStatus]; omega
    have e : prd w t Pg.tileStatus = pageReset Pg.tileStatus := by
      simp only [prd, h2, smGet, pageReset, this]; rfl
    simp only [prdB, e]
    decide +kernel
  simp [stalledIn, hp]

end Sys2Proof.Tests

/-! ## Ill-formed commands: each check refuses one (and accepts its neighbour) -/

namespace Sys2Proof.Tests

open Sys2Proof Sys2Proof.Machine

/-- Operands of a send of `n` bytes to an address of tile 1. -/
def sendTo (n a : Nat) : SendArgs := {
  src := 0, len := n, dest := .unit 1, address := BitVec.ofNat 24 a, ring := none, row := none, cycle := 0, signal := none, conds := [] }
/-- A packet of an OP with `n` bytes of payload. -/
def pktOf (op n : Nat) : Packet := {
  op := BitVec.ofNat 4 op, sched := false, mcast := false, last := true, yx := false, status := 0, target := 1, source := 0, client := 0
  signal := none, address := 0, ring := none, length := BitVec.ofNat 16 n, replyAddr := 0, opSeq := 0, credit := 0, far := 0, hcrc := 0
  payload := List.replicate n 0 }
/-- A MATMUL of `n` blocks and `r` token rows. -/
def mmOf (n r : Nat) : MatmulArgs := {
  weights := 0, n := n, rows := r, wfmt := 1, afmt := .code 1, act := .addr 0x800000, actScale := 0, scale := 0, transpose := false
  dst := 0x800000, add := false, epoch := false, conds := [] }
/-- A CONVERT of `n` values. -/
def cvOf (n : Nat) : ConvertArgs := { src := 0, n := n, row := 0, fmt := .code 1, dst := 0, scaleDst := 0, epoch := false, conds := [] }
/-- An AMERGE of `r` rows of dimension `d`. -/
def amOf (r d : Nat) : AmergeArgs := { x := 0, y := 0, rows := r, d := d, final := false, output := 0, conds := [] }
/-- An ATTN of `r` rows in groups of `g`. -/
def atOf (r g : Nat) : AttnArgs := {
  query := 0, rows := r, g := g, d := 64, keys := 0, keyScales := 0, values := 0, valueScales := 0, n := 64, pos0 := 0, limit := 0, scoreScale := 0
  kv8 := true, state := 0, cont := false, final := true, output := 0, conds := [] }
/-- A far request of `n` bytes at offset `o` of a stack. -/
def frOf (o n : Nat) : FarReq := { tile := 0, tag := 0, load := true, offset := o, len := n, landing := 0, sched := false, data := [] }
/-- A far write of `n` bytes that carries `k`. -/
def trOf (n k : Nat) : Transfer := {
  op := 0, purpose := 0, signal := none, dest := 0, src := 0, address := 0, length := n, xferSeq := 0, stream := 0, tainted := false
  data := List.replicate k 0 }
/-- An idle flit whose header says `m` messages. -/
def flOf (m : Nat) : ControlFlit := {
  msgs := m, dataCount := 0, seq := 0, ack := 0, nak := false, sequenced := false, freed := 0, body := List.replicate 252 0, crc := 0 }

theorem test_wf_register : (Instr.registerWrite (.bar0 6) false 0).wf = false ∧ (Instr.registerWrite (.bar0 4) true 0).wf = false ∧
    (Instr.registerWrite (.page 0 0x1000) false 0).wf = false ∧ (Instr.registerWrite (.page 0 0x28) false 0).wf = true ∧
    (Instr.rcRead (.bar0 2) false 0).wf = false := by decide
theorem test_wf_misaligned : (Instr.bar0MisalignedAccess true 4 4).wf = false ∧ (Instr.bar0MisalignedAccess true 4 8).wf = true ∧
    (Instr.bar0MisalignedAccess true 4 0).wf = false := by decide
theorem test_wf_unlisted : (Instr.commandUnlistedOp .rst 0x10000000).wf = false ∧ (Instr.commandUnlistedOp .rst 0x50000000).wf = true ∧
    (Instr.commandUnlistedOp .flip 0x40000000).wf = false ∧ (Instr.commandUnlistedOp .flip 0xC0000000).wf = true := by decide
theorem test_wf_copies : (Instr.timeBroadcast [(256, 1)]).wf = false ∧ (Instr.timeBroadcast [(255, -1)]).wf = true := by decide
theorem test_wf_idle : (Instr.idleBundle 0 0).wf = false ∧ (Instr.idleBundle 0 1).wf = true := by decide
theorem test_wf_local : (Instr.localLoad 0 0 0 []).wf = false ∧ (Instr.localStore 0 0 [] []).wf = false ∧ (Instr.localLoad 0 0 1 []).wf = true := by decide
theorem test_wf_pop : (Instr.ringPop 0 0 63 []).wf = false ∧ (Instr.ringPop 0 0 0 []).wf = false ∧ (Instr.ringPop 0 0 128 []).wf = true ∧
    (Instr.localAppend 0 0 [1] []).wf = false := by decide
theorem test_wf_put : (Instr.put 0 (sendTo 4 0)).wf = false ∧ (Instr.put 0 (sendTo 8 4)).wf = false ∧ (Instr.put 0 (sendTo 65544 0)).wf = false ∧
    (Instr.put 0 { sendTo 1032 0 with ring := some 0 }).wf = false ∧ (Instr.put 0 (sendTo 65536 0)).wf = true ∧
    (Instr.putSignal 0 (sendTo 8 0)).wf = false := by decide
theorem test_wf_get : (Instr.get 0 (sendTo 1032 0)).wf = false ∧ (Instr.get 0 { sendTo 8 0 with dest := .group 1 }).wf = false ∧
    (Instr.get 0 (sendTo 1024 0)).wf = true := by decide
theorem test_wf_atomic : (Instr.atomicAdd 0 (sendTo 8 4) 1).wf = false ∧ (Instr.atomicAdd 0 { sendTo 8 0 with ring := some 1 } 1).wf = false ∧
    (Instr.atomicAdd 0 (sendTo 8 8) 1).wf = true := by decide
theorem test_wf_packet : (Instr.replyLand 0 (pktOf 7 8)).wf = false ∧ (Instr.replyLand 0 (pktOf 1 8)).wf = false ∧
    (Instr.replyLand 0 (pktOf 8 8)).wf = true ∧ (Instr.replyLand 0 (pktOf 8 4)).wf = false := by decide
theorem test_wf_landing : (Instr.remoteGetServe 0 (pktOf 1 0) []).wf = false ∧ (Instr.remoteGetServe 0 (pktOf 3 0) []).wf = true ∧
    (Instr.atomicExecute 0 (pktOf 3 8) []).wf = false ∧ (Instr.ringAppendLand 0 (pktOf 1 64)).wf = false := by decide
theorem test_wf_bundle : (Instr.bundlePortWrite 0 0xDE0 (List.replicate 32 0)).wf = false ∧ (Instr.bundlePortWrite 0 0xFE0 (List.replicate 32 0)).wf = true ∧
    (Instr.bundlePortWrite 0 0xFE0 (List.replicate 64 0)).wf = false := by decide
theorem test_wf_fmq : (Instr.fmqLoad 0 0 (0 : FAddr) (0 : LAddr) 32 []).wf = false ∧ (Instr.fmqLoad 0 0 8 0 64 []).wf = false ∧ (Instr.fmqLoad 0 0 64 0 65536 []).wf = true := by decide
theorem test_wf_scrub : (Instr.scrubRead 0 [48]).wf = false ∧ (Instr.scrubRead 0 [47]).wf = true := by decide
theorem test_wf_matmul : (Instr.matmul 0 (mmOf 0 1)).wf = false ∧ (Instr.matmul 0 (mmOf 4097 1)).wf = false ∧ (Instr.matmul 0 (mmOf 1 3)).wf = false ∧
    (Instr.matmul 0 (mmOf 4096 2)).wf = true := by decide
theorem test_wf_convert : (Instr.convert 0 (cvOf 32)).wf = false ∧ (Instr.convert 0 (cvOf 64)).wf = true := by decide
theorem test_wf_attention : (Instr.attn 0 (atOf 3 2)).wf = false ∧ (Instr.attn 0 (atOf 65 1)).wf = false ∧ (Instr.attn 0 (atOf 4 2)).wf = true ∧
    (Instr.amerge 0 (amOf 0 64)).wf = false ∧ (Instr.amerge 0 (amOf 1 96)).wf = false ∧ (Instr.amerge 0 (amOf 64 128)).wf = true := by decide
theorem test_wf_blocks : (Instr.prefixInsert 0 8192).wf = false ∧ (Instr.prefixInsert 0 8191).wf = true ∧
    (Instr.flushedMaskSet 0 0 0 0x8000).wf = false := by decide
theorem test_wf_far : (Instr.gatewayRequestAccept 0 (frOf (48 * 2 ^ 30 - 8) 16)).wf = false ∧ (Instr.gatewayRequestAccept 0 (frOf 0 0)).wf = false ∧
    (Instr.gatewayRequestAccept 0 (frOf (48 * 2 ^ 30 - 8) 8)).wf = true := by decide
theorem test_wf_flit : (Instr.controlFlitReceive 0 (flOf 8)).wf = false ∧ (Instr.controlFlitReceive 0 (flOf 1)).wf = false ∧
    (Instr.controlFlitReceive 0 (flOf 0)).wf = true := by decide +kernel
theorem test_wf_transfer : (Instr.farWrite 0 (trOf 4 4)).wf = false ∧ (Instr.farWrite 0 (trOf 16 8)).wf = false ∧ (Instr.farWrite 0 (trOf 16 16)).wf = true ∧
    (Instr.windowWrite 0 (trOf 16 16)).wf = false := by decide
theorem test_wf_zone : (Instr.zoneShort .vlink 8 0).wf = false ∧ (Instr.zoneShort .vmif 47 0).wf = true ∧ (Instr.zoneShort .vaux 1 0).wf = false := by decide
theorem test_wf_unit : (Instr.quiesceComplete 0 48 0).wf = false ∧ (Instr.quiesceComplete 1 48 0).wf = true ∧ (Instr.quiesceTimeout 2 8 0).wf = false := by decide
theorem test_wf_test : (Instr.selfTestEnd (.array 0) .stuckBit).wf = false ∧ (Instr.selfTestEnd (.bankBank 0 0) (.fail none)).wf = false ∧
    (Instr.selfTestEnd (.lanes 0) (.fail (some 3))).wf = true ∧ (Instr.selfTestEnd (.seam 0 0) (.fail (some 3))).wf = false := by decide
theorem test_wf_host : (Instr.bar2Read 0 0).wf = false ∧ (Instr.bar2Write (2 ^ 30 - 1) [none, some 1]).wf = false ∧ (Instr.intakeEnable 0 0).wf = false ∧
    (Instr.intakeDisable 0 0x80000000).wf = false ∧ (Instr.hostRingEnable .event 0x80000006).wf = true := by decide
theorem test_wf_other : (Instr.attestStart [0]).wf = false ∧ (Instr.envelopeDecision 0x10000 true).wf = false ∧ (Instr.dbgTilePageAccess true 0x1000 0).wf = false ∧
    (Instr.droopWindow 0 [(42, 1)] 0 0).wf = false ∧ (Instr.sensorSample [(246, 0, 0)]).wf = false ∧ (Instr.bar4Write 0 []).wf = false := by decide

/-! ## Worked examples of the spec -/

/-- The example under Table 0.4: local tile (5, 10) of field (3, 2) is tile 12,749, a C-tile of field 19. -/
theorem test_tile_number : localTile 19 5 10 = 12749 ∧ tileX 12749 = 77 ∧ tileY 12749 = 66 ∧ tileField 12749 = 19 ∧ isC 12749 = true := by decide
/-- The example of R32: field 19 with BAD_COL 7. -/
theorem test_repair_map : physicalTile (some 7) none 5 10 = (5, 10) ∧ physicalTile (some 7) none 7 10 = (8, 10) ∧
    physicalTile (some 7) none 23 27 = (24, 27) := by decide
/-- The example of R50: block 0x0012_0800 takes one word of every bank in row 0x241; 0x0070_0140 is bank 5, row 0xE00. -/
theorem test_bank_rows : bankRow false 0x120800 = (0, 0x241) ∧ bankRow false (0x120800 + 64 * 31) = (31, 0x241) ∧ bankRow false 0x700140 = (5, 0xE00) ∧
    bankRow false 0x700180 = (6, 0xE00) := by decide
/-- The example of R174: 191 tiles are 23 express and 7 neighbour hops, 76 cycles; 167 tiles are 67 cycles. -/
theorem test_axis_hops : (axisHops 40 0 191).length = 30 ∧ axisCycles 0 191 = 76 ∧ axisCycles 0 167 = 67 := by decide
/-- The example of R285: striped address 0x0000_0404_0001_2340 lies in stack 20 at 0x1556340 behind gateway 82. -/
theorem test_striped_address : farDecodeIn (List.range 48) 0x40400012340 = some (20, 0x15556340) ∧ farGateway (farKey (20, 0x15556340)) = 82 := by
  decide +kernel
/-- The example of R466: 94, 70 and 40 degrees at 30.0 kW give 33,333 W. -/
theorem test_thermal_cap : (match exec (.thermalEvaluation (some (30000, 94 * 16, 70 * 16, 40 * 16)) 0 0 0) (st (setCapTh 34000 upW)) with
    | .next s => (capTh s.w, s.w.env.rJ)
    | _ => (0, 0, 0)) = (33333, 54 * 16, 30000) := by decide +kernel
/-- The example of R478: CLASS0_FLOOR of the M300 image is 27,701 W. -/
theorem test_class0_floor : class0Floor (9000, 13000, 12000) 3500 326 = 27701 ∧ min 34000 (cdiv (105 * 9000) 100) = 9450 := by decide
/-- The example of R266: B_tbt of the M300 image is 400 us. -/
theorem test_step_bound : ceilUs (98 * (3500 + 326) + 25000) = 400000 := by decide
/-- The example of R136: group of 64 channels in MXFP4 with 2 outlier slots: scales 0x7E and 0x81, codes, and the two pairs. -/
def exampleGroup : List Dy := (List.range 64).map (fun i =>
  if i = 0 then (5, -2) else if i = 1 then (-3, -3) else if i = 3 then (40, 0) else if i = 5 then f32Val 0x4039999A else if i = 9 then f32Val 0x3C23D70A
  else if i = 17 then (-22, 0) else if i = 33 then f32Val 0x3F4CCCCD else if i = 40 then (37, -1) else dy0)
theorem test_convert_example : let g := convertGroup { ctxOf upW 0 false 0 with fmt := 1, slots := 2, threshold := 0x4180, ceiling := 0xFE } exampleGroup
    g.blocks.map (fun b => b.scale) = [0x7E, 0x81] ∧ g.pairs.map (fun b => b.toNat) = [0x20, 0x42, 0x83, 0, 0xB0, 0xC1, 0x91, 0] ∧ g.ovf = true ∧
    (g.blocks.map (fun b => (b.codes.zipIdx.filter (fun c => c.1 ≠ 0)).map (fun c => (c.2, c.1)))) = [[(0, 4), (1, 0xA), (5, 7)], [(8, 6)]] := by
  decide +kernel
/-- The example of R210: 10.0 / 8.5 is 1.1764706. -/
theorem test_attention_quotient : f32Div 0x41200000 0x41080000 = 0x3F969697 ∧ f32Exp2 0xC0000000 = 0x3E800000 := by decide +kernel
/-- FIPS 180-4's digest of "abc", and the CRC-32 check value. -/
theorem test_sha256 : (sha256 [0x61, 0x62, 0x63]).take 4 = [0xBA, 0x78, 0x16, 0xBF] := by decide +kernel
theorem test_crc32 : crc32 ((List.range 9).map (fun i => BitVec.ofNat 8 (0x31 + i))) = 0xCBF43926 := by decide +kernel

/-! ## The queue -/

/-- A command at the front runs, and the rest of the queue waits; an empty queue lets time pass. -/
theorem test_queue : (match step { w := upW, pending := [.roosterBeat false, .timebasePllLoss] } with
    | .next s => s.w.flt.beatSeen && decide (s.pending.length = 1)
    | _ => false) = true := by decide +kernel
/-- The word-spelling hooks: the table gives no bits. -/
theorem test_no_words : decodeTableWord 16 5 = none ∧ (st upW).withFetchWord 16 5 = st upW := ⟨rfl, rfl⟩

end Sys2Proof.Tests

/-! ## Witnesses of the statements -/

open Sys2Proof Sys2Proof.Machine

namespace Sys2Proof.Tests

/-- GW_ERR of gateway 0 is written; FMQ_WATCH of a page, INJ-wait is not. -/
theorem meets_RegisterWriteFollowsAccessCodes : hostAnswers upW = true ∧ 0x3000004 % 4 = 0 ∧ writeDecodes upW 0x3000004 = true ∧
    inDbgPage 0x3000004 = false ∧ cmdAt 0x3000004 = none ∧ (specialWrite 0x3000004 3).isNone ∧ (findRow bar0Rows 0x3000004).isSome ∧
    (specialWrite 0x2FFFFFC 3).isNone ∧ findRow bar0Rows 0x2FFFFFC = none ∧
    pageOpen upW 0 = true ∧ (findRow pageRows 0x404).isSome := by decide +kernel
end Sys2Proof.Tests

namespace Sys2Proof.Tests

theorem meets_ReadClearsWhatItHasShown : hostAnswers upW = true ∧ 0x3000008 % 4 = 0 ∧ 0x3000008 ≠ Reg.deviceTime ∧
    readDecodes upW 0x3000008 = true ∧ inDbgPage 0x3000008 = false ∧ pageOpen upW 0 = true := by decide +kernel
end Sys2Proof.Tests

namespace Sys2Proof.Tests

theorem meets_DeviceTimeReadsOneInstant : hostAnswers upW = true ∧ (0x20 : Nat) ≠ 0x10 ∧ inDbgPage 0x20 = false := by decide +kernel
end Sys2Proof.Tests

namespace Sys2Proof.Tests

theorem meets_BadAccessesHaveNoOtherEffect : hostAnswers upW = true ∧ safeMode upW = false ∧
    opListed .rst 0 = false ∧ opListed .rst 0x50000000 = false ∧ opListed .fault 0x80000000 = false := by decide +kernel
end Sys2Proof.Tests

namespace Sys2Proof.Tests

theorem meets_StepRunsTheFrontCommand : (st upW).pending = [] ∧ upW.dev.powered = true ∧
    ({ upW with dev := { upW.dev with powered := false } } : W9).dev.powered = false := by decide +kernel
end Sys2Proof.Tests

namespace Sys2Proof.Tests

theorem meets_ResetIsPowerOnState : (findRow bar0Rows 0x100000).isSome ∧ (findRow pageRows 0x28).isSome := by decide +kernel
end Sys2Proof.Tests

namespace Sys2Proof.Tests

/-- Tile 0 runs and is at a bundle it can try; its tag 3 is DONE. -/
def runW : W9 := setTag 0 3 true false (pwrB 0 Pg.tileStatus 0 true upW)
theorem meets_MemorySlotActsOnlyWhenItIssues : canTry runW 0 = true ∧ [Cond.tagDone 3].all (condHolds runW 0) = true ∧
    ([] : List Cond).all (condHolds runW 0) = true ∧ [Cond.tagDone 4].all (condHolds runW 0) = false ∧
    dataAssigned (isC 0) 0x8FFFF8 8 = true ∧ dataAssigned (isC 0) 0x8FFFF9 8 = false ∧ readReady runW 0 0x8FFFF8 8 = true := by
  decide +kernel
end Sys2Proof.Tests

namespace Sys2Proof.Tests

/-- Tile 0 runs with ring 2 enabled: 4 KiB at the start of the bank store, TAIL at its last 64 bytes. -/
def ringW : W9 := pwr 0 (Pg.ringTail 2) 0xFC0 (ringEnable 0 2 0x8000000C (pwrB 0 Pg.tileStatus 0 true upW))
theorem meets_RingsAppendAtTailAndPopAtHead : canTry ringW 0 = true ∧ ([] : List Cond).all (condHolds ringW 0) = true ∧
    64 ≤ ringOcc ringW 0 2 ∧ 64 ≤ ringFree ringW 0 2 ∧ ringOn ringW 0 2 = true ∧ ringOn ringW 0 3 = false ∧ 1 ≤ ringFree ringW 0 3 ∧
    ringOn upW 0 2 = false ∧ ringValid (isC 0) (ringBaseOf upW 0 2) 12 = true ∧ ringValid (isC 0) (ringBaseOf upW 0 2) 11 = false := by
  decide +kernel
end Sys2Proof.Tests

namespace Sys2Proof.Tests

/-- Tile 0's window 2 has 64 bytes at the start of the bank store; its counter 5 holds 7. -/
def winW : W9 := pwr 0 (Pg.sigcnt 5) 7 (pwr 0 (Pg.winSize 2) 64 upW)
theorem meets_WindowsAndCountersTakeTheWrittenValue :
    windowValid (isC 0) (prd winW 0 (Pg.winBase 2)).toNat (prd winW 0 (Pg.winSize 2)).toNat = true ∧
    windowValid (isC 0) (prd winW 0 (Pg.winBase 3)).toNat (prd winW 0 (Pg.winSize 3)).toNat = false ∧
    (0xFFFFFFFF : Word32).toNat + 0 ≤ 0xFFFFFFFF ∧ 0xFFFFFFFF < (0xFFFFFFFF : Word32).toNat + 1 ∧
    condHolds winW 0 (.signal 5 7 true) = true ∧ (prd winW 0 (Pg.sigcnt 5)).toNat - (7 : Word32).toNat + 3 ≤ 0xFFFFFFFF := by decide +kernel
end Sys2Proof.Tests

namespace Sys2Proof.Tests

/-- Tile 0 has a START waiting and a pulse; tile 1 is zeroing its stores. -/
def seqW : W9 := modTile 1 (fun s => { s with zeroing := true }) (modTile 0 (fun s => { s with startWait := true, pulses := 1 }) upW)
theorem meets_SequencerStartsAndStopsAtItsBeat : (tileOf seqW 0).startWait = true ∧ (tileOf seqW 0).zeroing = false ∧ 0 < (tileOf seqW 0).pulses ∧
    (tileOf seqW 1).startWait = false ∧ (tileOf seqW 1).zeroing = true ∧ running seqW 0 = false ∧ running runW 0 = true ∧
    bundlePortOk seqW 0 0xE00 (List.replicate 512 (0 : Byte)).length = true ∧ bundlePortOk seqW 0 0xE10 32 = false := by decide +kernel
end Sys2Proof.Tests

namespace Sys2Proof.Tests

/-- Tile 0 runs with a pulse and no STOP, tile 1 without a pulse; field 0 owes nothing of a pulse; tile 2 has a report. -/
def beatW : W9 := modTile 2 (fun s => { s with reports := [⟨[⟨3, 1, 2, 4⟩], some true, some 9⟩] })
  (modField 0 (fun f => { f with owing := [(5, []), (9, [0])] })
  (modTile 0 (fun s => { s with pulses := 2, stopWait := true }) (pwrB 0 Pg.tileStatus 0 true (pwrB 1 Pg.tileStatus 0 true upW))))
theorem meets_BeatBundleUsesOnePulse : running beatW 0 = true ∧ idling beatW 0 = false ∧ running beatW 1 = true ∧ idling beatW 1 = false ∧
    (tileOf beatW 1).pulses = 0 ∧ 0 < (tileOf beatW 0).pulses ∧ (fieldState beatW 0).owing = (5, []) :: [(9, [0])] ∧
    (fieldState upW 0).owing = [] ∧ (tileOf beatW 2).reports = ⟨[⟨3, 1, 2, 4⟩], some true, some 9⟩ :: [] := by decide +kernel
end Sys2Proof.Tests

namespace Sys2Proof.Tests

def freezeW : W9 := { upW with dbg := { upW.dbg with freezeDue := true } }
theorem meets_TimeAndPlanWordsReachTheFields : -(copyBound 0) ≤ (-2 : Int) ∧ (2 : Int) ≤ copyBound 0 ∧ (3 : Int) > copyBound 0 ∧ (-3 : Int) < -(copyBound 0) ∧
    freezeW.dbg.freezeDue = true ∧ rdB freezeW Reg.dbgStatus 30 = false ∧ paired freezeW = false ∧ upW.dbg.freezeDue = false := by decide +kernel
end Sys2Proof.Tests

namespace Sys2Proof.Tests

/-- Tile 0 runs, stack 0 is in the stripe set; tag 5 tracks a finished transfer, tag 6 a damaged one, tag 7 one that waits since 0. -/
def fmqW : W9 :=
  modTile 0 (fun s => { s with fmq := [(5, some ⟨true, 0, 0, 64, 0, 0, false, false⟩), (6, some ⟨true, 0, 0, 64, 0, 0, true, false⟩),
    (7, some ⟨true, 0, 0, 64, 0, 1, false, false⟩)] }) (pwr 0 Pg.fmqWatch 9 { runW with dev := { runW.dev with time := 10 } })
theorem meets_FmqTagsTrackTransfers : canTry fmqW 0 = true ∧ ([] : List Cond).all (condHolds fmqW 0) = true ∧ tagFree fmqW 0 4 = true ∧
    farAssigned fmqW 0 1025 = true ∧ farStatus fmqW 0 0 1025 = none ∧ farAssigned fmqW (2 ^ 43) 64 = false ∧
    readReady fmqW 0 0 64 = true ∧ owed fmqW 0 0 64 = false ∧
    (quarters 0 64).all (fun q => decide (fmqW.mem.storeUE.contains (storeKey 0 q) = false ∧ fmqW.mem.storeCE.contains (storeKey 0 q) = false)) = true ∧
    (fmqOf fmqW 0 5).map (fun x => (x.left, x.damaged)) = some (0, false) ∧ (fmqOf fmqW 0 6).map (fun x => (x.left, x.damaged)) = some (0, true) ∧
    (fmqOf fmqW 0 7).map (fun x => (x.left, x.watched, x.since)) = some (1, false, 0) ∧ 0 < (prd fmqW 0 Pg.fmqWatch).toNat ∧
    (prd fmqW 0 Pg.fmqWatch).toNat < fmqW.dev.time - 0 := by decide +kernel
end Sys2Proof.Tests

namespace Sys2Proof.Tests

/-- Tile 0 is inside an IDLE bundle 61 s after its last pass, with a corrected word waiting. -/
def scrubW : W9 := modTile 0 (fun s => { s with scrub := { s.scrub with waiting := [0] } })
  (pwrB 0 Pg.tileStatus 2 true { upW with dev := { upW.dev with time := 61000000000 } })
/-- Every bank of tile 0 is one row from its end. -/
def scrubEndW : W9 := modTile 0 (fun s => { s with scrub := { s.scrub with rows := (List.range 48).map (fun b => (b, bankRows b - 1)) } }) scrubW
theorem meets_ScrubbingWalksRowsAndRepairs : prdB scrubW 0 Pg.tileStatus 2 = true ∧ (0 < 48 ∧ scrubRow scrubW 0 0 + b2n (!([0] : List Nat).contains 0) < bankRows 0) ∧
    prdB scrubEndW 0 Pg.tileStatus 2 = true ∧ (∀ b, b < 48 → bankRows b ≤ scrubRow scrubEndW 0 b + b2n (!([] : List Nat).contains b)) ∧
    (tileOf scrubW 0).scrub.lateRaised = false ∧ 60000000000 < scrubW.dev.time - (tileOf scrubW 0).scrub.passStart ∧
    upW.dev.time - (tileOf upW 0).scrub.passStart ≤ 60000000000 := by decide +kernel
end Sys2Proof.Tests

namespace Sys2Proof.Tests

/-- A send of 64 bytes at the start of tile 0's store to tile 1. -/
def sendP : SendArgs := { dest := .unit 1, address := 0, src := 0, len := 64, ring := none, signal := none, row := none, cycle := 0, conds := [] }
/-- Tile 1's field is closed to tile 0. -/
def shutW : W9 := setFieldState 0 1 runW
theorem meets_SendsLeaveInTheTilesRouter : canTry runW 0 = true ∧ sendP.conds.all (condHolds runW 0) = true ∧ sendP.row = none ∧
    routeOf runW 0 sendP.dest = .inr false ∧ isGroup sendP.dest = false ∧ updating runW 0 = false ∧
    readReady runW 0 sendP.src.toNat sendP.len = true ∧ creditCovers runW 0 sendP = true ∧ dataAssigned (isC 0) sendP.src.toNat sendP.len = true ∧
    owed runW 0 0 64 = false ∧ (quarters 0 64).all (fun q => decide (runW.mem.storeUE.contains (storeKey 0 q) = false ∧ runW.mem.storeCE.contains (storeKey 0 q) = false)) = true ∧
    canTry shutW 0 = true ∧ routeOf shutW 0 sendP.dest = .inl 2 ∧ dataAssigned (isC 0) 0x900000 64 = false := by decide +kernel
end Sys2Proof.Tests

namespace Sys2Proof.Tests

/-- A write of 3 bytes by tile 1, the last of an operation that announces on counter 2; and one of an off-device client. -/
def wpkt : Packet := { Packet.blank with op := opPut, source := 1, length := 3, payload := [1, 2, 3], address := 62, last := true, signal := some 2 }
/-- Tile 0 holds one deferred write. -/
def deferW : W9 := modTile 0 (fun s => { s with defer := [⟨64, [7], none, false⟩] }) upW
theorem meets_AdmittedWritesLandWhole : wpkt.ring = none ∧ admits upW 0 wpkt .write 3 = true ∧ inPage 62 3 = false ∧
    (wordsOf 62 [1, 2, 3]).all (fun x => decide ((busyBanks upW 0 []).contains (bankRow (isC 0) x.1).1 = false)) = true ∧
    admits upW 0 { wpkt with client := 1 } .write 3 = false ∧
    deferReady deferW 0 [] = some ⟨64, [7], none, false⟩ ∧ deferReady upW 0 [] = none ∧
    ({ wpkt with ring := some 2, last := false } : Packet).ring = some 2 ∧ appendLands ringW 0 2 3 = true ∧ appendLands ringW 0 3 3 = false ∧
    ({ wpkt with signal := none } : Packet).signal = none ∧ wpkt.status = 0 ∧ 0 < wpkt.payload.length ∧ dataAssigned (isC 0) 62 3 = true ∧
    ({ wpkt with status := 1 } : Packet).status ≠ 0 ∧ 0 < wpkt.length.toNat := by decide +kernel
end Sys2Proof.Tests

namespace Sys2Proof.Tests

/-- A plain packet of one flit for tile 1, sealed. -/
def pkt0 : Packet := sealPkt { Packet.blank with op := opPut, target := 1, length := 3, payload := [1, 2, 3] }
/-- Tile 0's router holds that packet for landing; field 0's north seam holds a scheduled one that entered in cycle 4, seen in cycle 10. -/
def meshW : W9 := modField 0 (fun f => { f with seams := [⟨0, .request, false, { pkt0 with sched := true }, 4⟩], beatStart := 0 })
  (setRouter 0 [⟨.request, .loc, pkt0, [.land], none, 1, 0⟩] (wr Reg.beatCycles 100 { upW with dev := { upW.dev with time := 10 } }))
theorem meets_RoutersDropHoldAndForward : hcrcOk { pkt0 with hcrc := pkt0.hcrc + 1 } = false ∧ hcrcOk pkt0 = true ∧ pkt0.mcast = false ∧
    updating upW 0 = false ∧ pkt0.payload.length ≤ 32 ∧ pkt0.sched = false ∧ routerOf meshW 0 = [⟨.request, .loc, pkt0, [.land], none, 1, 0⟩] ∧
    seamHead meshW 0 0 .request false = some ⟨0, .request, false, { pkt0 with sched := true }, 4⟩ ∧ beatCycleOf meshW 0 = 4 + 6 ∧
    beatCycleOf { meshW with dev := { meshW.dev with time := 9 } } 0 ≠ 4 + 6 := by decide +kernel
end Sys2Proof.Tests

namespace Sys2Proof.Tests

/-- An addition and a read of tile 1 on tile 0. -/
def addPkt : Packet := { Packet.blank with op := opAdd, source := 1, length := 8, payload := le 8 5, address := 0x800FF8 }
theorem meets_AtomicsAndReadsServeControlWords : inControlWords addPkt.address.toNat 8 = true ∧ addPkt.address.toNat % 8 = 0 ∧ addPkt.client = 0 ∧
    ([64] : List LAddr).all (fun x => wordOf (isC 0) x.toNat != wordOf (isC 0) addPkt.address.toNat) = true ∧
    ((tileOf upW 0).defer).all (fun d => decide ((bankRow (isC 0) d.addr.toNat).1 ≠ (bankRow (isC 0) addPkt.address.toNat).1)) = true ∧
    inControlWords 0 8 = false ∧ admits upW 0 addPkt .read 8 = true ∧ inPage addPkt.address.toNat 8 = false ∧
    (quarters addPkt.address.toNat 8).all (fun q => decide ((([64] : List LAddr).map (fun x => (bankRow (isC 0) x.toNat).1)).contains (bankRow (isC 0) q).1 = false)) = true ∧
    (quarters addPkt.address.toNat 8).all (fun q => decide (upW.mem.storeUE.contains (storeKey 0 q) = false ∧ upW.mem.storeCE.contains (storeKey 0 q) = false)) = true ∧
    updating upW 0 = false ∧ routeOf upW 0 (.unit addPkt.source) = .inr false ∧ admits upW 0 { addPkt with client := 1 } .read 8 = false := by decide +kernel
end Sys2Proof.Tests

namespace Sys2Proof.Tests

/-- Ring 2 of tile 0 lists tile 5 as producer 0, which wants 64 bytes. -/
def wantW : W9 := setWant 0 2 0 64 (pwr 0 (Pg.ringProdB 2) 0xFFFFFFFF (pwr 0 (Pg.ringProdA 2) 0xFFFF0005 ringW))
theorem meets_CreditsAreGrantedWithinTheRing : producerIx wantW 0 2 5 = some 0 ∧ 4096 ≤ ringSize wantW 0 2 ∧ producerIx wantW 0 2 6 = none ∧
    ringSize wantW 0 2 < 4097 ∧ nextWant upW 0 2 = none ∧ nextWant wantW 0 2 = some 0 ∧
    wantOf wantW 0 2 0 + prdF wantW 0 (Pg.ringCredit 2) 22 0 ≤ ringFree wantW 0 2 ∧
    ringFree wantW 0 2 < wantOf (setWant 0 2 0 4096 wantW) 0 2 0 + prdF (setWant 0 2 0 4096 wantW) 0 (Pg.ringCredit 2) 22 0 := by decide +kernel
end Sys2Proof.Tests

namespace Sys2Proof.Tests

/-- Tile 0 runs with one product in flight. -/
def prodW : W9 := modTile 0 (fun s => { s with products := [⟨0x800000, false, [1, 2], false, 0, 4, 20⟩] }) upW
/-- A product over one MXFP4 block and two BF16 token rows. -/
def mmArgs : MatmulArgs := {
  weights := 0, n := 1, rows := 2, wfmt := 1, scale := 0x800000, afmt := .code 8, act := .addr 0x801000, actScale := 0
  dst := 0x802000, add := false, transpose := false, epoch := false, conds := [] }
/-- A C-tile, and a load of a block. -/
def ctile : Tile := (List.finRange 48).foldl (fun x f => if fieldIsC f then localTile f 0 0 else x) 0
/-- It runs. -/
def crunW : W9 := pwrB ctile Pg.tileStatus 0 true upW
theorem meets_ProductsHoldTheOrderedSums : isC 0 = false ∧ canTry runW 0 = true ∧ (withoutArray mmArgs.conds).all (condHolds runW 0) = true ∧
    matmulReady runW 0 = true ∧ actHeld runW 0 mmArgs.act (mmArgs.rows * rowBytes (fmtOf runW 0 false 0 mmArgs.afmt) mmArgs.n) = true ∧
    (fieldState runW (tileField 0)).wsel = false ∧ mmArgs.act = .addr 0x801000 ∧
    isC ctile = true ∧ canTry crunW ctile = true ∧ (tileOf crunW ctile).shadow = none ∧ (fieldState crunW (tileField ctile)).wsel = false ∧
    (tileOf prodW 0).products = ⟨0x800000, false, [1, 2], false, 0, 4, 20⟩ :: [] ∧ (tileOf upW 0).products = [] ∧
    readReady runW 0 0 8 = true ∧ elemBits (8 : BitVec 4).toNat = 16 ∧ (readF32s runW 0 0 2).all (fun x => decide (f32Special x = false)) = true := by decide +kernel
end Sys2Proof.Tests

namespace Sys2Proof.Tests

/-- The image runs with Gander on and a sample of layer 0 whose y_n has come; steps far enough on for both decisions; layer 0 above its base. -/
def ganderW : W9 := { wr Reg.precCtrl 0x80000010 (wr64 Reg.precStep 70000 (wr (Reg.layerFmt 0) 1 runsW)) with
  prec := { Prec.init with samples := [⟨0, 0, 0, 0, 0, some [0x3F800000]⟩] } }
/-- The same with Gander off. -/
def evalW : W9 := wr Reg.precCtrl 0x80000000 ganderW
/-- A change that has flipped. -/
def flippedW : W9 := { runsW with prec := { Prec.init with change := some ⟨4, false, [(0, 1)], true⟩ } }
theorem meets_FormatsFollowTheSamplesAndSteps :
    (ganderW.prec.samples.find? (fun x => x.layer == 0)).map (·.yn) = some (some [0x3F800000]) ∧
    f32Lt 0x3F000000 (ganderError [0x3F800000] ([[0x3F800000]].map (fun r => vecDot 0 (r.zip [0x40800000])))) = true ∧
    f32Lt 0x3F000000 (ganderError [0x3F800000] ([[0x3F800000]].map (fun r => vecDot 0 (r.zip [0x3F800000])))) = false ∧
    (policyLayers ganderW).find? (fun m => m.layer == 0) = some layer0 ∧ ganderN ganderW ≠ 0 ∧ (layerOf ganderW 0).errs.length < 255 ∧
    ganderN evalW = 0 ∧ imageRuns evalW = true ∧ (layerOf evalW 0).evalStep + 4096 ≤ precStep evalW ∧ (layerOf evalW 0).ovf ≤ layer0.ovfLimit ∧
    escEn evalW = true ∧ 0 < targetRung evalW 0 ∧ (layerOf evalW 0).quietStep + 65536 ≤ precStep evalW ∧ (layerOf evalW 0).decided ≠ some .down ∧
    paired evalW = false ∧ changePending evalW = false ∧ evalW.prec.waiting = [] ∧ precStep runsW < (layerOf runsW 0).evalStep + 4096 ∧
    oldEpochLeft flippedW = false ∧ paired flippedW = false ∧ flippedW.prec.waiting = [] := by decide +kernel
end Sys2Proof.Tests

namespace Sys2Proof.Tests

/-- An ATTN over four keys at positions 8 to 11, and an AMERGE of one row. -/
def attnArgs : AttnArgs := {
  cont := false, final := true, kv8 := true, rows := 1, g := 1, d := 32, pos0 := 8, n := 4
  query := 0
  keys := 0x1000
  keyScales := 0x2000, values := 0x3000, valueScales := 0x4000, limit := 0x5000, state := 0x6000, output := 0x7000, scoreScale := 0x3F800000, conds := [] }
def amergeArgs : AmergeArgs := { final := true, rows := 1, d := 32, x := 0x6000, y := 0x8000, output := 0x7000, conds := [] }
/-- Tile 0 has one operation in flight. -/
def attnW : W9 := modTile 0 (fun s => { s with attn := [⟨[(0, 1), (4, 2)], 20⟩] }) upW
theorem meets_AttentionFoldsVisibleKeys : canTry runW 0 = true ∧ attnArgs.conds.all (condHolds runW 0) = true ∧
    readReady runW 0 attnArgs.query.toNat (attnArgs.rows * 4 * attnArgs.d) = true ∧ attnArgs.cont = false ∧
    attLimit runW 0 attnArgs + 0 / attnArgs.g < attnArgs.pos0 ∧
    amergeArgs.conds.all (condHolds runW 0) = true ∧ readReady runW 0 amergeArgs.x.toNat (amergeArgs.rows * (64 + 4 * amergeArgs.d)) = true ∧
    readReady runW 0 amergeArgs.y.toNat (amergeArgs.rows * (64 + 4 * amergeArgs.d)) = true ∧
    (tileOf attnW 0).attn = ⟨[(0, 1), (4, 2)], 20⟩ :: [] := by decide +kernel
end Sys2Proof.Tests

namespace Sys2Proof.Tests

/-- Tile 0 holds chunk 0 of stream 4's layer 0, whose flush is under way, and a full chunk 1; the stream's first block has a descriptor. -/
def stageW : W9 := setBlock 4 0 (some ⟨.active, 0x40000000000, 0, none, []⟩)
  (setStaging 0 ⟨4, 0, ⟨some 0, 1, false, [(63, [1])]⟩, ⟨some 1, 1, false, []⟩, none⟩ runW)
/-- The same while paired, as side A with a class-1 stream 4. -/
def stagePairW : W9 := modStream 4 (fun t => { t with cls := 1, state := .decode }) (wr Reg.pairStatus 0x80000000 (wr Reg.pairCtrl 0x80000000 stageW))
theorem meets_StagingAppendsAndFlushes : canTry stageW 0 = true ∧ stageFree (stageSlot (stagingOf stageW 0 4 0) (63 / 64)) (63 / 64) = true ∧
    stageFree (stageSlot (stagingOf stageW 0 4 0) (192 / 64)) (192 / 64) = false ∧
    (stageSlot (stagingOf stageW 0 4 0) 0).chunk = some 0 ∧ 0 < (stageSlot (stagingOf stageW 0 4 0) 0).flushPending ∧
    blockOf stageW 4 (0 / 4) = some ⟨.active, 0x40000000000, 0, none, []⟩ ∧ mirrors stageW 4 = false ∧ mirrors stagePairW 4 = true ∧
    (stageSlot (stagingOf stagePairW 0 4 0) 0).chunk = some 0 ∧ (stageSlot (stagingOf stageW 0 4 0) 2).chunk ≠ some 2 := by decide +kernel
end Sys2Proof.Tests

namespace Sys2Proof.Tests

/-- Stream 4 waits for a page of the block at its end; one page is free, or none. -/
def heldW (free : Word32) : W9 := wr Reg.kvPagesFree free (modStream 4 (fun t => { t with state := .held, length := 256 })
  { runsW with kv := { runsW.kv with held := [(4, 1)] } })
/-- Sharing is on; stream 4 is in the state given, may look up and insert, holds one full block and one bound to node 0. -/
def shareW (x : StreamState) : W9 := setBlock 4 1 (some ⟨.shared, 0, 0, some 0, []⟩) (setBlock 4 0 (some ⟨.full, 0x40000000000, 0, none, []⟩)
  (wr Reg.prefixCtrl 0x80000004 (modStream 4 (fun t => { t with state := x, lookup := true, insert := true, promptLen := 600, length := 600 })
  { runsW with kv := { runsW.kv with nodes := [⟨0, 0, none, [], 0, 1, 0, 0⟩], nextNode := 1 } })))
/-- The same stream has bound nothing. -/
def lookW : W9 := setBlock 4 0 none (setBlock 4 1 none (shareW .admitting))
/-- All 256 roots are in use. -/
def rootsW : W9 := { shareW .decode with kv := { (shareW .decode).kv with roots := (List.finRange 256).map (fun i => ⟨i, [], 0, 1⟩) } }
/-- The root in use of stream 4's key, and of its first block's hash a node that matches it. -/
def rootedW : W9 := { shareW .decode with kv := { (shareW .decode).kv with
  roots := [⟨0, rootKey (shareW .decode) 4, 5, 1⟩]
  nodes := [⟨0, BitVec.ofNat 64 (blockHash 5 (logTokens (shareW .decode) 4 0 256)), none, logTokens (shareW .decode) 4 0 256, 0, 1, 0, 0⟩] } }
theorem meets_BlocksAreHeldSharedAndReleased : runsW.kv.held.find? (fun e => e.1 == (4 : StreamIx)) = none ∧
    (heldW 1).kv.held.find? (fun e => e.1 == (4 : StreamIx)) = some (4, 1) ∧ kvAvailable (heldW 0) 4 < 1 ∧ 1 ≤ kvAvailable (heldW 1) 4 ∧
    missingBlocks (heldW 1) 4 (heldRange (heldW 1) 4).1 (heldRange (heldW 1) 4).2 = [1] ∧ 1 * kvLayers (heldW 1) ≤ kvAvailable (heldW 1) 4 ∧
    (streamOf lookW 4).state = .admitting ∧ (streamOf lookW 4).lookup = true ∧ prefixOn lookW = true ∧ (streamBlocks lookW 4).isEmpty = true ∧
    findRoot lookW (rootKey lookW 4) = none ∧ ¬((streamOf upW 4).state = .admitting) ∧
    256 * (0 + 1) ≤ (streamOf (shareW .decode) 4).length ∧ (streamOf (shareW .decode) 4).insert = true ∧ prefixOn (shareW .decode) = true ∧
    (shareW .decode).pair.shadows.contains (4 : StreamIx) = false ∧ blockOf (shareW .decode) 4 0 = some ⟨.full, 0x40000000000, 0, none, []⟩ ∧
    rootFor rootsW (rootKey rootsW 4) = none ∧ rootFor rootedW (rootKey rootedW 4) = some ⟨0, rootKey (shareW .decode) 4, 5, 1⟩ ∧
    (streamOf (shareW .ending) 4).state = .ending := by decide +kernel
/-- A root is to be had where none is in use, and no node matches; in `rootedW` one does. -/
theorem meets_BlocksAreHeldSharedAndReleased_root : (rootFor (shareW .decode) (rootKey (shareW .decode) 4)).isSome = true ∧
    (matchBlock (shareW .decode) 0 none 5 (logTokens (shareW .decode) 4 0 256)).1 = none ∧
    (matchBlock rootedW 0 (parentOf rootedW 4 0 ⟨0, [], 5, 1⟩).1 (blockHash 5 (logTokens rootedW 4 0 256)) (logTokens rootedW 4 0 256)).1 ≠ none := by decide +kernel
end Sys2Proof.Tests

namespace Sys2Proof.Tests

/-- Intake ring 0 is enabled and READY over 64 records at 0x1000; its first record has kind `k` and a due stamp. -/
def intakeW (k : Byte) : W9 := putFars 0x103C [1, 0, 0, 0] (putFars 0x1000 [k] (wr64 (Reg.intakeBase 0) 0x1000 (wr (Reg.intakeCtrl 0) 0xC0000006
  (wr Reg.hostifCtrl 0x80000000 upW))))
/-- Its completion ring is enabled. -/
def intakeFreeW : W9 := wr (Reg.cplCtrl 0) 0x80000006 (intakeW 0)
/-- Stream 4 holds tag 9 in the state given. -/
def tagW (x : StreamState) : W9 := modStream 4 (fun t => { t with state := x, reqTag := 9 }) runsW
/-- The same in hold, and with a slot in the pipeline. -/
def tagHoldW : W9 := wrF Reg.envStatus 31 29 2 (tagW .decode)
def tagPipeW : W9 := { tagW .decode with serve := { (tagW .decode).serve with pipe := [some ⟨4, 0, [], false, 0, 0, 0⟩, none, none] } }
/-- Stream 4 speculates. -/
def specW : W9 := wr Reg.serveCtrl 0xC0000000 (modStream 4 (fun t => { t with state := .decode, spec := true })
  { runsW with serve := { runsW.serve with draftField := some 3 } })
theorem meets_IntakeTakesDueRecords : hostAnswers upW = true ∧ rdB upW Reg.hostifCtrl 31 = false ∧
    rdB (intakeW 0) Reg.hostifCtrl 31 = true ∧ (intakeW 0).host.d3hot = false ∧ hostAnswers (intakeW 0) = true ∧
    (∀ m : RingIx, m ≠ 0 → (rdB (intakeW 0) (Reg.intakeCtrl m.val) 31 && rdB (intakeW 0) (Reg.intakeCtrl m.val) 30) = false) ∧
    ofLe ((farRead (intakeW 0) 0x1000 64).drop 60) = 0 % 0xFFFFFFFF + 1 ∧ cplFree (intakeW 0) 0 = false ∧ cplFree intakeFreeW 0 = true ∧
    (farRead (intakeW 1) 0x1000 64).getD 0 0 = 1 ∧ rd64 (intakeW 1) (Reg.intakeTaken 0) = 0 ∧ rd64 (intakeW 1) (Reg.intakeBase 0) = 0x1000 ∧
    (streamOf (tagW .decode) 4).reqTag = 9 ∧ (streamOf (tagW .decode) 4).state = .decode ∧ inHold (tagW .decode) = false ∧ inHold tagHoldW = true ∧
    inPipe (tagW .decode) 4 = false ∧ chunkRuns (tagW .decode) 4 = false ∧ awaiting (tagW .decode) 4 = false ∧ inPipe tagPipeW 4 = true ∧
    (streamOf (tagW .ending) 4).state = .ending ∧ speculates specW 4 = true ∧ draftOpen specW = true ∧
    (chainOf specW 4).length + 1 < rowsMax specW ∧ speculates upW 4 = false := by decide +kernel
end Sys2Proof.Tests

namespace Sys2Proof.Tests

/-- A class-2 request for stream 4 of two tokens, its prompt at 0x1000. -/
def req2 : Request := {
  ring := 0, kind := 0, cls := 2, flags := 0, stream := 4, tag := 7, modelVer := 5, adapter := 0, topK := 1, promptAddr := 0x1000, promptLen := 2
  maxNew := 4, limitFirst := 0, limitStep := 0, stopId := 0xFFFFFFFF, seed := 0, temperature := 0, topP := 0x3F80, arrival := 3 }
/-- Requests are admitted for model version 5; this one is next. -/
def decideW (q : Request) : W9 := wr Reg.thermalCap 34000 (wr Reg.modelVer 5 (wr Reg.serveCtrl 0x80000000
  { runsW with serve := { runsW.serve with admitQ := [q] } }))
/-- A flip to version 6 is in progress. -/
def flipInW (q : Request) : W9 := { decideW q with wt := { (decideW q).wt with flip := some ⟨0, false, 5, 6, 0, ⟨0, 0, 6, 0, 0, 0, 0, []⟩, false, false, none, 0, false⟩ } }
theorem meets_RequestsAreDecidedByTheirTests : upW.serve.admitQ = [] ∧ (decideW req2).serve.admitQ = req2 :: [] ∧
    firstTests (decideW req2) req2 = none ∧ (decideW req2).wt.flip = none ∧ modelTests (decideW req2) req2 = none ∧ inHold (decideW req2) = false ∧
    firstTests (wr Reg.serveCtrl 0 (decideW req2)) req2 = some 0x18 ∧
    modelTests (decideW { req2 with modelVer := 6 }) { req2 with modelVer := 6 } = some 0x12 ∧
    firstTests (flipInW req2) req2 = none ∧ (flipInW req2).wt.flip.map (·.version) = some 6 ∧
    inHold (wrF Reg.envStatus 31 29 2 (decideW req2)) = true ∧ firstTests (wrF Reg.envStatus 31 29 2 (decideW req2)) req2 = none ∧
    firstTests (decideW { req2 with cls := 0 }) { req2 with cls := 0 } = none ∧
    belowFloor (wr Reg.class0Floor 1 (wr Reg.thermalCap 0 (decideW { req2 with cls := 0 }))) = true ∧
    belowFloor (wr Reg.pairCtrl 0x80000000 (decideW { req2 with cls := 0 })) = false ∧
    pairEn (wr Reg.pairCtrl 0x80000000 (decideW { req2 with cls := 0 })) = true ∧ paired (wr Reg.pairCtrl 0x80000000 (decideW { req2 with cls := 0 })) = false ∧
    firstTests (decideW { req2 with cls := 1 }) { req2 with cls := 1 } = none ∧ req2.limitFirst < req2.arrival ∧
    firstTests (decideW { req2 with kind := 1 }) { req2 with kind := 1 } = some 0x11 := by decide +kernel
end Sys2Proof.Tests

namespace Sys2Proof.Tests

/-- Intake ring 2 lies over 64 records at 0x4000; its stamps are being cleared. -/
def stampW : W9 := let w := wr (Reg.intakeCtrl 2) 0x80000006 (wr64 (Reg.intakeBase 2) 0x4000 upW)
  { w with host := { w.host with stamping := [2] } }
theorem meets_IntakeRingsEnableClearAndDisable : hostAnswers W9.reset = false ∧ hostAnswers stampW = true ∧
    intakeValid stampW (rd64 stampW (Reg.intakeBase 2)) 6 = true ∧ rdF stampW (Reg.intakeCtrl 2) 3 0 = 6 ∧ rdB stampW (Reg.intakeCtrl 2) 31 = true ∧
    intakeValid upW 0 (fieldOf (0x80000001 : Word32) 3 0) = false ∧ stampW.host.stamping.contains (2 : RingIx) = true ∧
    upW.host.stamping.contains (2 : RingIx) = false := by decide +kernel
end Sys2Proof.Tests

namespace Sys2Proof.Tests

/-- Vector 5 is due: masked, or open. -/
def vecW (mask : Bool) : W9 := wrB (Reg.msixCtl 5) 0 mask { upW with host := { upW.host with vectorDue := [5], msixOn := true, linkUp := true } }
/-- Stream 4's token ring has room, and a record waits; it is ending with completion ring 0. -/
def batchW (room : Bool) : W9 := wr (Reg.cplCtrl 0) (if room then 0x80000006 else 0) (wr (Reg.outCtrl 4) 0x80000006
  (modStream 4 (fun t => { t with state := .ending, cplRing := some 0 })
    { upW with host := { upW.host with linkUp := true, backlog := smPut (fun _ => []) [] 4 [⟨9, false, false, false, 0, 0⟩] } }))
/-- Its records are written. -/
def endW (room : Bool) : W9 := { batchW room with host := { (batchW room).host with backlog := [] } }
theorem meets_HostRingsWriteBatchesAndVectors : (0x80000006 : Word32).getLsbD 31 = true ∧ hostAnswers W9.reset = false ∧ hostAnswers upW = true ∧
    (hrCtrl (batchW true) (.token 4)).getLsbD 31 = true ∧ (hrCtrl upW (.token 4)).getLsbD 31 = false ∧
    hrValid upW (.token 4) (fieldOf (0x80000006 : Word32) 4 0) = true ∧ hrValid upW (.token 4) (fieldOf (0x80000001 : Word32) 4 0) = false ∧
    batchDue (batchW true) (.token 4) = true ∧ canWrite (batchW true) = true ∧ 0 < hrRoom (batchW true) (.token 4) ∧
    hrEntries (batchW true) (.token 4) ≤ 2 ^ 16 ∧ 0 < min (hrWaiting (batchW true) (.token 4)).length (hrRoom (batchW true) (.token 4)) ∧
    batchDue upW (.token 4) = false ∧
    (vecW true).host.vectorDue.contains (5 : Fin 256) = true ∧ canWrite (vecW true) = true ∧ (vecW true).host.msixOn = true ∧
    rdB (vecW true) (Reg.msixCtl 5) 0 = true ∧ rdB (vecW false) (Reg.msixCtl 5) 0 = false ∧ vectorReady (vecW false) 5 = true ∧
    vectorReady (wr Reg.irqMinNs 9 { vecW false with host := { (vecW false).host with vectorLast := [(5, 1)] } }) 5 = false ∧
    (streamOf (endW true) 4).state = .ending ∧ (streamOf (endW true) 4).handedOff = false ∧ (endW true).pair.shadows.contains (4 : StreamIx) = false ∧
    streamBlocks (endW true) 4 = [] ∧ (streamOf (endW true) 4).cplRing = some 0 ∧ tokensDone (endW true) 4 = true ∧ tokensDone (batchW true) 4 = false ∧
    canWrite (endW true) = true ∧ smGet (fun _ => []) (endW true).host.cplWait 0 = [] ∧ 0 < hrRoom (endW true) (.completion 0) ∧
    hrRoom (endW false) (.completion 0) = 0 ∧ (streamOf (modStream 4 (fun t => { t with state := .ending }) upW) 4).cplRing = none := by decide +kernel
end Sys2Proof.Tests

namespace Sys2Proof.Tests

/-- The stack of field 3 is in SELF; a read of it has waited since 0, and the time is 2 ms. -/
def selfW : W9 := let w := wr64 Reg.bar2Far 0 (modField 3 (fun s => { s with stackSelf := true }) upW)
  { w with dev := { w.dev with time := 2000000 }
           host := { w.host with bar2Waiting := [(3 * 2 ^ 36, 8, 0)], bar4 := [⟨0x100, 8, 0, 0⟩] } }
theorem meets_BarReadsAndWritesReachFarMemory : hostAnswers W9.reset = false ∧ hostAnswers upW = true ∧ bar2Assigned upW 0x1000 8 = true ∧
    bar2Waits upW 0x1000 8 = false ∧ bar2Assigned selfW (3 * 2 ^ 36) 8 = true ∧ bar2Waits selfW (3 * 2 ^ 36) 8 = true ∧ bar2Assigned upW (2 ^ 50) 8 = false ∧
    (farQuarters upW (bar2Addr upW 0x1000) 2).all (fun q => decide (upW.mem.farUE.contains q = false)) = true ∧
    farDecode upW (bar2Addr upW 0x1000 + 1) = some 0x1001 ∧ farDecode upW (bar2Addr upW 0x1000 + 0) ≠ some 0x1001 ∧
    selfW.host.bar2Waiting.find? (fun p => p.1 == 3 * 2 ^ 36 && decide (p.2.2 + 1000000 ≤ now selfW)) = some (3 * 2 ^ 36, 8, 0) ∧
    selfW.host.bar4.find? (fun p => p.off == 0x100 && decide (p.issued + 1000000 ≤ now selfW)) = some ⟨0x100, 8, 0, 0⟩ ∧
    upW.host.bar2Waiting.find? (fun p => p.1 == 0 && decide (p.2.2 + 1000000 ≤ now upW)) = none := by decide +kernel
end Sys2Proof.Tests

namespace Sys2Proof.Tests

/-- Aperture 0 names tile 0; the mesh is open. Debug mode is on; a BAR4 read waits. -/
def apW : W9 := { upW with host := { upW.host with bar4 := [⟨0, 8, 0, 0⟩] } }
/-- The image with debug mode on: the tile page's field is lost. -/
def dbgPgW : W9 := setFieldStateIn 0 0 3 (wrB Reg.imgStatus 6 true runsW)
theorem meets_ApertureAndLinkFollowTheirRules : hostAnswers apW = true ∧ safeMode apW = false ∧ codeTile (BitVec.ofNat 16 (apTile apW 8)) = some 0 ∧
    codeTile (BitVec.ofNat 16 (apTile (wr (Reg.apTile 0) 0x7FFF apW) 8)) = none ∧ inHold apW = false ∧ inHold (wrF Reg.envStatus 31 29 2 apW) = true ∧
    ringStatus apW 0 = none ∧ (ringRoute apW 0).isSome = true ∧
    (ringRoute apW 0).toList.all (fun r => decide (updating apW (tileAt (attachTile r.1).1 (attachTile r.1).2) = false)) = true ∧ apW.host.bar4 = ⟨0, 8, 0, 0⟩ :: [] ∧
    upW.host.bar4 = [] ∧ hostAnswers W9.reset = false ∧ dbgOpen upW = false ∧
    dbgOpen dbgPgW = true ∧ dbgTile dbgPgW = none := by decide +kernel
end Sys2Proof.Tests

namespace Sys2Proof.Tests

/-- Port 1 is enabled as a twin port and in the state given. -/
def portW (x : Nat) : W9 := wrF (Reg.portStatus 1) 31 30 x (wr (Reg.portCtrl 1) 0xC0000000 { upW with dev := { upW.dev with time := 5000 } })
/-- DOWN with a try due; UP with lane 0 active and a flit that has waited, replayed `n` times. -/
def portDownW : W9 := modPort 1 (fun s => { s with nextTrain := 5000 }) (portW 0)
def portUpW (n : Nat) : W9 := modPort 1 (fun s => { s with replay := [⟨3, .heartbeat ⟨false, 0, 0, 0, 0⟩, 0, 0, n⟩] }) (wrB64 (Reg.laneMap 1) 0 true (portW 2))
theorem meets_PortsTrainAndFail : portState (portW 1) 1 = 1 ∧ canTrain (portW 1) 1 = true ∧
    8 ≤ (lanesOf (0x3FFFFFFFF &&& ~~~(portOf (portW 1) 1).failed)).length ∧ (lanesOf (0x7F &&& ~~~(portOf (portW 1) 1).failed)).length < 8 ∧
    portState (portW 0) 1 ≠ 1 ∧ portState portDownW 1 = 0 ∧ 0 < (portOf portDownW 1).nextTrain ∧ (portOf portDownW 1).nextTrain ≤ portDownW.dev.time ∧
    canTrain portDownW 1 = true ∧ portUp (portUpW 0) 1 = true ∧ rdB64 (portUpW 0) (Reg.laneMap 1) 0 = true ∧ rdB64 (portUpW 0) (Reg.laneMap 1) 1 = false ∧
    (portOf (portUpW 0) 1).reset = none ∧ portIsolated (portUpW 0) 1 = false ∧ ((portOf (portUpW 0) 1).replay.map (·.replays)) = [0] ∧
    ((portOf (portUpW 4) 1).replay.map (·.replays)) = [4] ∧ 0 + 2000 ≤ (portUpW 4).dev.time ∧ (portOf upW 1).replay = [] := by decide +kernel
end Sys2Proof.Tests

namespace Sys2Proof.Tests

/-- A control flit with its CRC, at the port's place. -/
def flit0 (nak seqd : Bool) : ControlFlit := ⟨1, 2, 0, 3, nak, seqd, 0, [], BitVec.ofNat 32 (crc32 [])⟩
/-- Data flits are due; the buffer is empty, or full. -/
def dueW (n : Nat) : W9 := modPort 1 (fun s => { s with dataDue := 2, rxHeld := n }) (portUpW 0)
theorem meets_FlitsAreTakenInOrder : portUp upW 1 = false ∧ portUp (portUpW 0) 1 = true ∧ crc32 [] ≠ ({ flit0 false true with crc := 0x5A } : ControlFlit).crc.toNat ∧
    crc32 (flit0 false true).body = (flit0 false true).crc.toNat ∧ (flit0 false true).seq = (portOf (portUpW 0) 1).seqRx ∧
    ({ flit0 false true with seq := 9 } : ControlFlit).seq ≠ (portOf (portUpW 0) 1).seqRx ∧ (flit0 true false).nak = true ∧
    ((ackReplay 9 (portOf (portUpW 0) 1).replay).head?.map (·.replays)) = some 0 ∧ (portOf (portUpW 0) 1).dataDue = 0 ∧
    0 < (portOf (dueW 0) 1).dataDue ∧ (portOf (dueW 0) 1).rxHeld < 2048 ∧ 2048 ≤ (portOf (dueW 2048) 1).rxHeld := by decide +kernel
end Sys2Proof.Tests

namespace Sys2Proof.Tests

/-- A transfer of eight bytes. -/
def xfer (op : BitVec 8) (addr : FAddr) : Transfer := ⟨op, 2, some 5, 0xFFFF, 0x0004, addr, 8, 7, 0, false, [1, 2, 3, 4, 5, 6, 7, 8]⟩
/-- A window read names its length and carries no data. -/
def xferR : Transfer := { xfer 3 0x1000 with data := [] }
/-- Port 1 is a twin port that is UP, the pair PAIRED, over a running image. -/
def twinW : W9 := wr Reg.pairStatus 0x80000000 (wr Reg.pairCtrl 0x80000000 (wrF (Reg.portStatus 1) 31 30 2 (wr (Reg.portCtrl 1) 0xC0000000 runsW)))
/-- Tile 0 opens the first 64 bytes of its window 2 to the twin's reads. -/
def twinOpenW : W9 := pwr 0 (Pg.winCtrl 2) 0xFFFFFFFF (pwr 0 (Pg.winSize 2) 0x10000 twinW)
theorem meets_TransfersActOrAreDropped : portUp upW 1 = false ∧ inHold (wrF Reg.envStatus 31 29 2 twinW) = true ∧ portUp twinW 1 = true ∧ inHold twinW = false ∧
    (portOf twinW 1).overrun = false ∧ destOk twinW 0x1234 = false ∧ lengthOk 7 = false ∧ tripDrops (wrF Reg.envStatus 31 29 4 twinW) = true ∧
    destOk twinW (xfer 0 0).dest = true ∧ lengthOk (xfer 0 0).length = true ∧ tripDrops twinW = false ∧ (xfer 0 0).data.length = (xfer 0 0).length ∧
    fromTwin twinW 1 = true ∧ within (mirrorRanges twinW) 0x40100020000 8 = true ∧ within (mirrorRanges twinW) 0 8 = false ∧
    codeTile (windowTile (xfer 1 0x1000000000)) = some 0 ∧ windowTile (xfer 1 0x1000000000) ≠ 0x7FFF ∧ ringStatus twinW 0 = none ∧
    (ringRoute twinW 0).isSome = true ∧ (ringRoute twinW 0).toList.all (fun r => decide (updating twinW (tileAt (attachTile r.1).1 (attachTile r.1).2) = false)) = true ∧
    windowAddr (xfer 1 0x1000000000) % 1024 + 8 ≤ 1024 ∧
    ringStatus (setFieldStateIn 0 0 3 twinW) 0 = some 4 ∧ twinW.att.fetch = none := by decide +kernel
end Sys2Proof.Tests

namespace Sys2Proof.Tests

/-- Side A seeks a partner on twin port 1. -/
def seekW : W9 := wr Reg.pairStatus 0x40000000 twinW
/-- The HELLO of a partner on side B with the same image, and one on side A. -/
def helloB : Hello := { ownHello seekW with side := true, deviceId := 0x77 }
def helloA : Hello := { ownHello seekW with deviceId := 0x77 }
theorem meets_PairsFormByHelloAndAccept : cmdOpen W9.reset = false ∧ cmdOpen runsW = true ∧ pairEn runsW = false ∧
    pairEn seekW = true ∧ cmdOpen seekW = true ∧ seeking seekW = true ∧ seeking twinW = false ∧ portUp seekW 1 = true ∧ isTwinPort seekW 1 = true ∧
    tripDrops seekW = false ∧ helloReason (ownHello seekW) helloB = 0 ∧ helloReason (ownHello seekW) helloA = 1 ∧ (1 : PortIx) ∈ twinPorts seekW ∧
    (0 : PortIx) ∉ twinPorts seekW ∧ paired twinW = true ∧ booted twinW = true ∧ portUp twinW 0 = false ∧ waitsForTwin twinW = false ∧
    (rd (wr Reg.kvPagesTotal 64 runsW) Reg.kvPagesTotal).toNat = pagesAll (wr Reg.kvPagesTotal 64 runsW) := by decide +kernel
end Sys2Proof.Tests

namespace Sys2Proof.Tests

/-- PAIRED as side A, 20 µs since the last HEARTBEAT; slot 600 is a shadow in DECODE, with a token in the backlog; a flit has waited. -/
def lostW : W9 := let w := modPort 1 (fun s => { s with replay := [⟨3, .claim, 0, 0, 0⟩] }) (modStream 600 (fun t => { t with state := .decode, shadow := true }) twinW)
  { w with dev := { w.dev with time := 30000 }
           pair := { w.pair with lastHb := 10000, shadows := [600], backlog := [⟨600, 1, [5], 0, 0⟩] } }
/-- The W9 has claimed; the record of slot 700 is a class-1 stream in DECODE, and that of slot 701 one in ENDING. -/
def adoptW : W9 := putFars (0x40100000000 + 256 * 701) [0xBD, 2, 6, 1] (putFars (0x40100000000 + 256 * 700) [0xBC, 2, 3, 1]
  (wr64 Reg.stripeSet 0xFFFFFFFFFFFF (wr Reg.pairStatus 0xC0000000 { lostW with pair := { lostW.pair with claimed := true } })))
theorem meets_SurvivorsClaimAndAdopt : paired lostW = true ∧ lostW.pair.lastHb + 15000 ≤ lostW.dev.time ∧ unacknowledged lostW = true ∧
    (1 : PortIx) ∈ twinPorts lostW ∧ portUp lostW 1 = true ∧ isTwinPort lostW 1 = true ∧ tripDrops lostW = false ∧ paired runsW = false ∧
    unacknowledged twinW = false ∧ (600 : StreamIx) ∈ lostW.pair.shadows ∧ (streamOf lostW 600).handedOff = false ∧ lostW.pair.setups = [] ∧
    pairState adoptW = 3 ∧ adoptW.pair.claimed = true ∧ (700 : StreamIx) ∈ partnerSlots adoptW ∧ (streamOf adoptW 700).state = .free ∧
    adoptable adoptW 700 = true ∧ adoptable adoptW 701 = false ∧ (recordStream adoptW 701).state = .ending ∧ (recordStream adoptW 701).cls = 1 ∧
    (701 : StreamIx) ∈ partnerSlots adoptW ∧ adoptable adoptW 702 = false ∧ (recordStream adoptW 702).state ≠ .ending ∧
    lostW.pair.claimed = false ∧ isTwinPort upW 1 = false := by decide +kernel
end Sys2Proof.Tests

namespace Sys2Proof.Tests

/-- The shadow 600 and its own COMMIT, 1 s old; stream 4 is handed off. -/
def commitW : W9 := modStream 4 (fun t => { t with state := .ending, handedOff := true })
  { lostW with dev := { lostW.dev with time := 1000000000 }
               pair := { lostW.pair with own := [⟨600, 1, [5], 0, 0⟩] } }
/-- A COMMIT of a stream. -/
def commitOf (s : StreamIx) (k : Word32) : CommitMsg := ⟨s, true, true, 1, 1, [k]⟩
theorem meets_CommitsAreComparedAndHandedOver : portUp commitW 1 = true ∧ isTwinPort commitW 1 = true ∧ tripDrops commitW = false ∧ paired commitW = true ∧
    paired seekW = false ∧ portUp seekW 1 = true ∧ isTwinPort seekW 1 = true ∧ commitW.pair.shadows.contains (600 : StreamIx) = true ∧
    commitW.pair.shadows.contains (5 : StreamIx) = false ∧ ownSlot commitW 5 = true ∧ (streamOf commitW 5).shadow = false ∧ ownSlot commitW 601 = false ∧
    (streamOf commitW 600).handedOff = false ∧ lostW.pair.own.find? (fun a => a.stream == (600 : StreamIx)) = none ∧
    commitW.pair.own.find? (fun a => a.stream == (600 : StreamIx)) = some ⟨600, 1, [5], 0, 0⟩ ∧
    commitW.pair.theirs.find? (fun b => b.stream == (600 : StreamIx) && b.position == 1) = none ∧ (commitOf 600 5).tokens = [5] ∧
    (commitOf 600 6).tokens ≠ [5] ∧ (commitOf 600 5).position = 1 ∧ commitW.pair.shadows.contains (4 : StreamIx) = false ∧
    (streamOf commitW 4).handedOff = true ∧ ownSlot commitW 4 = true ∧ 0 + bTbt commitW ≤ commitW.dev.time ∧
    commitW.pair.own.find? (fun a => a.stream == (4 : StreamIx)) = none := by decide +kernel
end Sys2Proof.Tests

namespace Sys2Proof.Tests

/-- The setup of stream 4 waits: its request allows 1 ms for the first token. -/
def setupW : W9 := let q : Request := { req2 with cls := 0, limitFirst := 1000000 }
  { (modStream 4 (fun t => { t with state := .admitting, phase := some 1, promptLen := 2, maxNew := 4, reqTag := 7 }) twinW) with
    pair := { twinW.pair with setups := [(4, some ⟨q, 1, 500, false⟩)] } }
/-- Stream 4 is shadowed and READY here; slot 600 is a shadow. -/
def readyW : W9 := { (modStream 4 (fun t => { t with state := .decode, shadow := true, phase := some 1 }) lostW) with
  pair := { lostW.pair with ownReady := [4] } }
/-- The record of slot 700 is a class-0 stream whose setup the owner asks for; phases are to be had, model version 5 is current. -/
def askedW : W9 := putFars (0x40100000000 + 256 * 700) ([0xBC, 2, 1, 0] ++ le 4 5 ++ List.replicate 12 0 ++ le 4 2 ++ le 4 4)
  (wr64 Reg.stripeSet 0xFFFFFFFFFFFF (wr Reg.thermalCap 34000 (wr Reg.class0Max 4 (wr Reg.modelVer 5 twinW))))
theorem meets_ShadowsAreSetUpByRequestAndAnswer : portUp setupW 1 = true ∧ isTwinPort setupW 1 = true ∧ tripDrops setupW = false ∧ paired setupW = true ∧
    paired seekW = false ∧ ownSlot setupW 4 = true ∧ ownSlot setupW 700 = false ∧ 0 < shadowReason 700 1 (fromPartner (recordStream setupW 700) setupW) setupW ∧
    ownSlot askedW 700 = false ∧ portUp askedW 1 = true ∧ paired askedW = true ∧ shadowReason 700 1 (fromPartner (recordStream askedW 700) askedW) askedW = 0 ∧
    (twinPorts setupW).head? = some 1 ∧ setupOf setupW 5 = none ∧ (setupOf setupW 4).isSome = true ∧ ((setupOf setupW 4).map (fun u => slotOf u.req)) = some 4 ∧
    1000000 < max 500 2000000 ∧ max 500 700 ≤ 1000000 ∧ (streamOf setupW 4).cancelAsked = false ∧ ¬((2 : BitVec 8) = 1 ∧ sideB setupW = true ∧ false = false) ∧
    (streamOf readyW 4).shadow = true ∧ readyW.pair.twinReady.contains (4 : StreamIx) = false ∧ readyW.pair.ownReady.contains (4 : StreamIx) = true ∧
    readyW.pair.shadows.contains (4 : StreamIx) = false ∧ (streamOf readyW 4).phase = some 1 ∧ 1 ≤ stagesN readyW ∧ (streamOf setupW 4).shadow = false ∧
    smGet (fun _ => none) readyW.pair.starts 4 = none ∧ readyW.pair.shadows.contains (600 : StreamIx) = true ∧ portUp readyW 1 = true := by decide +kernel
end Sys2Proof.Tests

namespace Sys2Proof.Tests

/-- Slot 700's first block has its layer vector at 0x40000010000; stream 4's chunk 0 waits to be mirrored. -/
def mirW : W9 := putFars (0x40200000000 + 0x40000 * 700) (le 8 0x40000010000) (wr64 Reg.stripeSet 0xFFFFFFFFFFFF
  { twinW with pair := { twinW.pair with mirrorQueue := [(4, 0, 0)], tainted := [(701, 2)] } })
/-- A LOAD of a set with one layer's entry. -/
def muleOp : LoadOp := ⟨⟨0, 0, 1, 0, 7, 1, 4096, [⟨0, 0, 64, 2048, []⟩]⟩, 0x40000000000, 0, 0, false, none, none⟩
/-- A source, and a receiver whose LOAD runs. -/
def muleW (role : Word32) : W9 := wrF Reg.loadStatus 2 0 1 (wr Reg.muleCtrl (role * 0x40000000)
  { twinW with wt := { twinW.wt with load := some { muleOp with receive := decide (role = 2) } } })
theorem meets_MirrorsFollowBlocksAndChunks : portUp mirW 1 = true ∧ isTwinPort mirW 1 = true ∧ tripDrops mirW = false ∧ (farOf mirW).isSome = true ∧
    paired mirW = true ∧ paired seekW = false ∧ ownSlot mirW 700 = false ∧ mirW.pair.tainted.contains ((701 : StreamIx), (2 : BitVec 8)) = true ∧
    ownSlot mirW 701 = false ∧ mirW.pair.tainted.contains ((700 : StreamIx), (2 : BitVec 8)) = false ∧
    ofLe (farBytes mirW (dirBase rung0.far 700 + 32 * (0 / 4)) 8) = 0x40000010000 ∧ kvIndex mirW 0 = some 0 ∧
    ofLe (farBytes mirW (dirBase rung0.far 702 + 32 * (0 / 4)) 8) = 0 ∧ mirW.pair.mirrorQueue = (4, 0, 0) :: [] ∧ twinW.pair.mirrorQueue = [] ∧
    muleRole (muleW 1) = 1 ∧ muleRole (muleW 2) ≠ 1 ∧ destOk (muleW 1) 0xFFFF = true ∧ loadState (muleW 2) = 1 ∧ portUp (muleW 1) 1 = true ∧
    ((muleW 1).wt.load.map (fun o => (o.header.manifest.find? (fun e => e.layer == 0)).isSome)) = some true ∧
    ((muleW 2).wt.load.map (·.receive)) = some true ∧ twinW.wt.load = none := by decide +kernel
end Sys2Proof.Tests

namespace Sys2Proof.Tests

/-- Side A with a decoding layer that the policy runs, its partner side B, and side A frozen. -/
def escBW : W9 := wrB Reg.pairCtrl 30 true twinW
def frozenW : W9 := wrB Reg.dbgStatus 30 true twinW
theorem meets_FormatChangesAndPacesAreAgreedByThePair : portUp twinW 1 = true ∧ isTwinPort twinW 1 = true ∧ tripDrops twinW = false ∧
    paired twinW = true ∧ paired seekW = false ∧ sideB twinW = false ∧ sideB escBW = true ∧ paired escBW = true ∧ portUp escBW 1 = true ∧
    isTwinPort escBW 1 = true ∧ (policyLayers twinW).find? (fun m => m.layer == 0) = some layer0 ∧ (policyLayers escBW).find? (fun m => m.layer == 0) = some layer0 ∧
    (policyLayers twinW).find? (fun m => m.layer == 9) = none ∧ rungOf layer0 3 = some 1 ∧ rungOf layer0 9 = none ∧
    changePending twinW = false ∧ changePending (wrB Reg.precStatus 2 true twinW) = true ∧ twinW.prec.waiting = [] ∧
    (layerOf twinW 0).decided ≠ some .down ∧ pairBeat escBW < 8 ∧ rdB twinW Reg.dbgStatus 30 = false ∧ rdB frozenW Reg.dbgStatus 30 = true ∧
    paired frozenW = true ∧ frozenW.dev.time < ownTime frozenW 50 ∧ twinW.pair.escClear = true := by decide +kernel
end Sys2Proof.Tests

namespace Sys2Proof.Tests

/-- The running W9 long after its first window's end. -/
def agedW : W9 := { runsW with dev := { runsW.dev with time := 10 ^ 10 } }
theorem meets_IdleBeatsAndWindowsPass : boundaryFalls upW = false ∧ boundaryFalls runsW = true ∧ runsW.serve.streams = [] ∧
    (runsW.serve.pipe).all (fun x => decide (x = none)) = true ∧ runsW.prec.samples = [] ∧ runsW.wt.flip = none ∧ paired runsW = false ∧
    ((rungNow runsW).map (fun g => g.rotation.isEmpty)) = some true ∧ (∀ f, (fieldState runsW f).parkOrder = false) ∧ replaying runsW = false ∧
    (∀ f, runningTiles runsW f = []) ∧ runsW.serve.plan = none ∧ taking runsW 0 = true ∧ imageRuns upW = false ∧ imageRuns runsW = true ∧
    (runsW.tiles).all (fun e => decide (e.2.startWait = false)) = true ∧ (∀ f, (fieldState runsW f).withheld.refill = false) ∧
    runsW.dev.time < runsW.serve.winStart + runsW.serve.winLenNow + 10000 ∧ agedW.serve.winStart + agedW.serve.winLenNow + 10000 ≤ agedW.dev.time := by
  decide +kernel
end Sys2Proof.Tests

namespace Sys2Proof.Tests

/-- One prefill group and the chunk of stream 4 that it may take; the block's pages are there where `there` is. -/
def chunkW (there : Bool) : W9 := (if there then setBlock 4 0 (some ⟨.active, 0x40000000000, 0, none, []⟩) else id)
  (modStream 4 (fun t => { t with state := .prefill, promptLen := 200 })
    { runsW with serve := { runsW.serve with groups := [⟨2, 0, none⟩], queue := [⟨4, 0, 64, none⟩] } })
/-- The group runs it, and the stream's next chunk waits; a taint flag names the stream where `hit` is. -/
def chunkRunsW (hit : Bool) : W9 := { chunkW true with serve := { (chunkW true).serve with
  groups := [⟨2, 0, some (⟨4, 0, 64, none⟩, 0, false)⟩], queue := [⟨4, 64, 64, none⟩], tainted := if hit then [(4, false)] else [] } }
/-- A step of stream 4, of class 2, with one token awaits its confirmation. -/
def confirmW (hit : Bool) : W9 := { modStream 4 (fun t => { t with state := .decode, cls := 2, maxNew := 9, length := 3, stopId := 0xFFFFFFFF }) agedW with
  serve := { (modStream 4 (fun t => { t with state := .decode, cls := 2, maxNew := 9, length := 3, stopId := 0xFFFFFFFF }) agedW).serve with
    handOvers := [⟨⟨4, 3, [1], false, 0, 0, 0⟩, [7], 1, 100⟩], tainted := if hit then [(4, false)] else [] } }
theorem meets_ChunksRunAndStepsAreConfirmed : runsW.serve.groups[0]? = none ∧ (chunkW true).serve.groups[0]? = some ⟨2, 0, none⟩ ∧
    imageRuns (chunkW true) = true ∧ groupOpen (chunkW true) ⟨2, 0, none⟩ = true ∧ groupTurn (chunkW true) ⟨2, 0, none⟩ = true ∧
    taking (chunkW true) 0 = true ∧ (ranked (chunkW true) (chunkW true).serve.queue).find? (chunkReady (chunkW true)) = some ⟨4, 0, 64, none⟩ ∧
    missingBlocks (chunkW true) 4 0 64 = [] ∧ (ensureBlocks 4 0 64 (chunkW false)).1 = false ∧
    (ranked (chunkW false) (chunkW false).serve.queue).find? (chunkReady (chunkW false)) = some ⟨4, 0, 64, none⟩ ∧
    groupTurn (chunkW false) ⟨2, 0, none⟩ = true ∧ taking (chunkW false) 0 = true ∧
    (chunkRunsW false).serve.groups[0]? = some ⟨2, 0, some (⟨4, 0, 64, none⟩, 0, false)⟩ ∧ (streamOf (chunkRunsW false) 4).state = .prefill ∧
    (streamOf (chunkRunsW false) 4).cancelAsked = false ∧ taintKind (chunkRunsW false) 4 = none ∧
    ((chunkRunsW false).serve.queue.any (fun q => q.stream == 4)) = true ∧ taintKind (chunkRunsW true) 4 = some false ∧
    (chunkRunsW true).mem.farUE = [] ∧ (streamOf (chunkRunsW true) 4).state = .prefill := by decide +kernel
theorem meets_ChunksRunAndStepsAreConfirmed_step : runsW.serve.handOvers.find? (fun h => h.slot.stream == (4 : StreamIx)) = none ∧
    (confirmW false).serve.handOvers.find? (fun h => h.slot.stream == (4 : StreamIx)) = some ⟨⟨4, 3, [1], false, 0, 0, 0⟩, [7], 1, 100⟩ ∧
    100 + 1500 ≤ (confirmW false).dev.time ∧ paired (confirmW false) = false ∧ (streamOf (confirmW false) 4).cancelAsked = false ∧
    (streamOf (confirmW false) 4).shadow = false ∧ (confirmW false).pair.shadows.contains (4 : StreamIx) = false ∧ (confirmW false).pair.backlog = [] ∧
    taintKind (confirmW true) 4 = some false ∧ (confirmW true).mem.farUE = [] ∧ taintKind (confirmW false) 4 = none ∧ (confirmW false).flt.replay = none ∧
    (streamOf (confirmW false) 4).cls = 2 ∧ endOf (streamOf (confirmW false) 4) 7 = none ∧
    (smGet (fun _ => []) (confirmW false).host.backlog 4).length < hrRoom (confirmW false) (.token 4) + 64 := by decide +kernel
end Sys2Proof.Tests

namespace Sys2Proof.Tests

/-- An adapter header of version 5 lies at the far address that ADAPTER_ADDR names, with `k` layers of no bytes; all slots but `free` are in use. -/
def adapterW (k : Nat) (free : Option Nat) (status : Nat) : W9 :=
  wr Reg.adapterStatus (BitVec.ofNat 32 status) (wr Reg.adapterVerArg 5 (wr64 Reg.adapterAddr 0x1000
    (putFars 0x1000 (List.replicate 4 0 ++ [1, 0, 0, 0, 0, 0, 0, 0, 5, 0, 0, 0] ++ List.replicate 8 0 ++ le 4 k)
      (forEach (List.range 64) (fun n w => if free = some n then w else wr (Reg.adapterId n) 0x90002 w) upW))))
/-- An install of version 5 for handle 4 waits, or has a slot. -/
def installW (k : Nat) (slot : Option (Fin 64)) : W9 := { adapterW k (some 6) 1 with wt := { upW.wt with install := some ⟨4, 5, 0x1000, slot⟩ } }
theorem meets_AdaptersAreInstalledAndRemoved : cmdOpen W9.reset = false ∧ cmdOpen upW = true ∧ adapterBusy (adapterW 0 none 1) = true ∧
    adapterBusy (adapterW 0 none 0) = false ∧ (adapterW 0 none 0).mem.farUE = [] ∧ (adapterW 0 none 0).mem.farCE = [] ∧
    (adapterW 0 none 0).mem.farLasting = [] ∧
    installFits (adapterW 0 none 0) 4 5 (farSet (adapterW 0 none 0) (rd64 (adapterW 0 none 0) Reg.adapterAddr)) = true ∧
    rd (adapterW 0 none 0) Reg.adapterVerArg = 5 ∧ installFits upW 4 (rd upW Reg.adapterVerArg) (farSet upW (rd64 upW Reg.adapterAddr)) = false ∧
    adFree (adapterW 0 none 0) = none ∧ adFree (adapterW 0 (some 6) 0) = some 6 ∧ adCurrent upW 4 = none ∧ adCurrent (adapterW 0 none 0) 9 = some 0 ∧
    adFree (installW 0 none) = some 6 ∧ adCurrent (installW 0 (some 6)) 4 ≠ some 6 := by decide +kernel
theorem meets_AdaptersAreInstalledAndRemoved_digests : digestsOk (installW 0 (some 6)) 0x1000 (farSet (installW 0 (some 6)) 0x1000) = true ∧
    digestsOk (installW 1 (some 6)) 0x1000 (farSet (installW 1 (some 6)) 0x1000) = false := by decide +kernel
end Sys2Proof.Tests

namespace Sys2Proof.Tests

/-- The header of a set of one layer of no bytes, whose digest is the empty string's where `ok`. -/
def setBytes (ok : Bool) : List Byte := le 4 0x57454931 ++ [0, 0, 0, 0] ++ le 4 1 ++ le 4 0 ++ le 8 7 ++ le 4 1 ++ le 4 0 ++ le 8 128 ++ List.replicate 24 0 ++
  List.replicate 8 0 ++ le 8 128 ++ le 8 0 ++ (if ok then sha256 [] else List.replicate 32 0) ++ List.replicate 8 0
/-- The W9 with a load of that set in state `st`, of a receiver where `rx`. -/
def loadW (ok rx : Bool) (attempt next : Nat) (result : Option (Fin 7)) : W9 := wrF Reg.loadStatus 2 0 1 (wrF (Reg.portStatus 1) 31 30 2 { upW with
  wt := { upW.wt with load := some ⟨parseSet (setBytes ok), 0, next, attempt, rx, some (1, 9), result⟩ } })
theorem meets_LoadsFollowTheirSetAndEnd : cmdOpen W9.reset = false ∧ cmdOpen upW = true ∧ loadBusy upW = false ∧ loadBusy (loadW true false 0 0 none) = true ∧
    cmdOpen (loadW true false 0 0 none) = true ∧ muleRole upW = 0 ∧ muleRole (loadW true false 0 0 none) = 0 ∧ upW.mem.farUE = [] ∧ upW.mem.farCE = [] ∧
    upW.mem.farLasting = [] ∧
    (headerBad upW (parseSet [])) = true ∧ (headerBad upW (parseSet (setBytes false)) || rangeBad upW (rd64 upW Reg.loadDst) 128) = false ∧
    (parseSet (setBytes false)).totalLen = 128 ∧ upW.wt.load = none ∧
    (parseSet (setBytes false)).manifest[0]?.isSome = true ∧ (parseSet (setBytes false)).manifest[1]? = none ∧ (parseSet (setBytes false)).entries = 1 ∧
    muleRole (wr Reg.muleCtrl 0x80000000 upW) = 2 ∧ portUp (loadW true true 0 0 none) 1 = true ∧ portUp upW 1 = false ∧
    inHold (loadW true true 0 0 none) = false ∧ inMuleRange upW 0 1 = false ∧ inMuleRange (wr64 Reg.muleRxLen 4096 (loadW true true 0 0 none)) 0 16 = true ∧ portUp (wr64 Reg.muleRxLen 4096 (loadW true true 0 0 none)) 1 = true ∧ inHold (wr64 Reg.muleRxLen 4096 (loadW true true 0 0 none)) = false := by decide +kernel
theorem meets_LoadsFollowTheirSetAndEnd_digest : ((parseSet (setBytes true)).manifest[0]?.map (fun e => e.digest)) = some (sha256 []) ∧
    ((parseSet (setBytes false)).manifest[0]?.map (fun e => decide (e.digest = sha256 []))) = some false := by decide +kernel
end Sys2Proof.Tests

namespace Sys2Proof.Tests

/-- Gateway 0 holds a LOAD of tile 0's tag 3 and a STORE behind it on another line; `self` puts the stack into SELF. -/
def gwLoad : FarReq := ⟨0, 3, true, 0, 32, 0x1000, false, []⟩
def gwStore : FarReq := ⟨0, 3, false, 128, 32, 0, false, List.replicate 32 7⟩
def gwW (q : List FarReq) (open' : Bool) : W9 := modTile 0 (fun t => if open' then { t with fmq := smPut (fun _ => none) t.fmq 3 (some ⟨true, 5, 0x1000, 32, 0, 2, false, false⟩) } else t)
  (modGw 0 (fun x => { x with queue := q }) upW)
/-- The attach tile of point 0 runs with a ring 15 of 4 KiB, and one item with a signal waits for it. -/
def itemT : Tile := tileAt (attachTile 0).1 (attachTile 0).2
def item0 : LoadItem := ⟨0, 32, false, 0, 0x1000, some 5, 1⟩
def itemW : W9 := pwr itemT (Pg.ringCtrl 15) 0x8000000C (pwrB itemT Pg.tileStatus 0 true { upW with wt := { upW.wt with muleRings := [(0, [item0])] } })
/-- The item awaits its signal; it has come where `shown`. -/
def outW (shown : Bool) : W9 := let w := { upW with wt := { upW.wt with outstanding := [item0] } }
  if shown then forEach (itemTiles upW item0) (fun t w => pwr t (Pg.sigcnt 5) 1 w) w else w
theorem meets_FarRequestsQueueAndAreServed_stack : stackBytes < 2 ^ 40 + 32 ∧ 0 + 32 ≤ stackBytes := by decide
theorem meets_FarRequestsQueueAndAreServed : (gwOf upW 0).reset = none ∧
    64 ≤ (gwOf (gwW (List.replicate 64 gwStore) false) 0).queue.length ∧ (gwOf upW 0).queue.length < 64 ∧
    ((gwOf (modGw 0 (fun g => { g with reset := some ⟨0, 0, 0, true, false⟩ }) (gwW [] true)) 0).reset.isSome) = true ∧
    fmqOf (gwW [] true) 0 3 = some ⟨true, 5, 0x1000, 32, 0, 2, false, false⟩ ∧ fmqOf upW 0 3 = none ∧
    refreshMode upW 0 ≠ 2 ∧ refreshMode (modField 0 (fun f => { f with stackSelf := true }) upW) 0 = 2 ∧ nextReq [] 0 = none ∧
    nextReq (gwOf (gwW [gwLoad, gwStore] true) 0).queue 0 = some gwLoad ∧ nextReq (gwOf (gwW [gwStore, gwLoad] true) 0).queue 0 = some gwStore ∧
    (gwW [gwLoad, gwStore] true).mem.farUE = [] ∧ (gwW [gwLoad, gwStore] true).mem.farCE = [] ∧ (gwW [gwLoad, gwStore] true).mem.farLasting = [] ∧
    (nextReq (gwOf (gwW [gwLoad] true) (Fin.ofNat 192 (0 * 4 + 0 / 4))).queue (0 % 4)).isSome = true ∧ upW.env.selfStacks = false ∧
    upW.host.bar2Waiting = [] ∧ { upW with env := { upW.env with selfStacks := true } }.env.selfStacks = true := by decide +kernel
theorem meets_FarRequestsQueueAndAreServed_items : running itemW itemT = true ∧ ringOn itemW itemT 15 = true ∧ 32 ≤ ringFree itemW itemT 15 ∧
    smGet (fun _ => []) itemW.wt.muleRings 0 = item0 :: [] ∧ itemW.mem.farUE = [] ∧ itemW.mem.farCE = [] ∧ smGet (fun _ => []) upW.wt.muleRings 0 = [] ∧
    upW.wt.outstanding.find? (fun x => x.seq == 1) = none ∧ (outW true).wt.outstanding.find? (fun x => x.seq == 1) = some item0 ∧
    (itemTiles (outW true) item0) ≠ [] ∧ ((itemTiles (outW true) item0).all (fun t => prd (outW true) t (Pg.sigcnt 5) != 0)) = true ∧
    ((itemTiles (outW false) item0).all (fun t => prd (outW false) t (Pg.sigcnt 5) == 0)) = true := by decide +kernel
end Sys2Proof.Tests

namespace Sys2Proof.Tests

/-- The image in force, with a second copy or without. -/
def copyImage (second : Bool) : ImageS := { image0 with body := { image0.body with rungs := [{ rung0 with far := { rung0.far with secondCopy := second } }] } }
/-- A verified set of version 9 for it, at far address 0. -/
def set9 : SetHeader := ⟨0x57454931, 0, 9, 0, 7, 1, 128, []⟩
def flip9 : Flip := ⟨0, false, 0, 9, 0, set9, false, false, none, 0, false⟩
/-- A W9 that can be flipped to it; one on the way, in state `st`. -/
def flipW (second : Bool) : W9 := wr Reg.flipVerArg 9 { runsW with img := some (copyImage second), wt := { runsW.wt with verified := some (0, set9) } }
def onWayW (second : Bool) (st : Nat) (f : Flip) : W9 := setFlip st 0 { flipW second with wt := { runsW.wt with flip := some f } }
/-- A stream of class 2 drains, and one asked to park. -/
def drainW : W9 := modStream 4 (fun t => { t with state := .decode, cls := 2 }) { onWayW true 2 flip9 with dev := { runsW.dev with time := 10 ^ 12 } }
def parkW : W9 := modStream 4 (fun t => { t with state := .decode, cls := 2, parkAsked := true }) (onWayW true 2 flip9)
theorem meets_FlipsDrainAndCommit : cmdOpen W9.reset = false ∧ cmdOpen (flipW true) = true ∧ flipping (onWayW true 2 flip9) = true ∧
    cmdOpen (onWayW true 2 flip9) = true ∧ flipping (flipW true) = false ∧ imageRuns (flipW true) = true ∧ imageRuns upW = false ∧
    rd (flipW true) Reg.flipVerArg = 9 ∧ rd (flipW true) Reg.modelVer = 0 ∧ flipSetOk (flipW true) (rd64 (flipW true) Reg.flipSet) 9 = some set9 ∧
    flipSetOk (flipW false) (rd64 (flipW false) Reg.flipSet) 9 = some set9 ∧ secondCopy (flipW true) = true ∧ secondCopy (flipW false) = false ∧
    flipSetOk runsW (rd64 runsW Reg.flipSet) 9 = none ∧ flipCommitted (onWayW true 2 flip9) = false ∧ (onWayW true 2 flip9).serve.held = [] ∧
    (onWayW true 2 flip9).serve.streams = [] ∧ flipState (onWayW true 1 flip9) = 1 ∧ itemsDone (onWayW true 1 flip9) = true ∧
    flipState (onWayW true 2 flip9) = 2 ∧ (flipW true).wt.flip = none ∧ drainW.wt.flip = some flip9 ∧ flipState drainW = 2 ∧
    flip9.started + (rd drainW Reg.flipDrain).toNat ≤ drainW.dev.time ∧ draining drainW false = [4] ∧ parkReady parkW 4 = true ∧
    parkReady drainW 4 = false := by decide +kernel
theorem meets_FlipsDrainAndCommit_end : draining (onWayW true 2 flip9) false = [] ∧ draining (onWayW true 2 flip9) true = [] ∧
    draining (onWayW false 2 flip9) false = [] ∧ draining (onWayW false 2 flip9) true = [] ∧ ownSlots (onWayW false 2 flip9) = false ∧
    secondCopy (onWayW false 2 flip9) = false ∧ (onWayW false 2 flip9).pair.shadows = [] ∧ farOf (onWayW false 2 flip9) ≠ none ∧
    ((farOf (onWayW false 3 flip9)).map (fun g => g.refill.length)) = some 2 ∧ flipState (onWayW false 3 flip9) = 3 ∧
    (onWayW false 3 flip9).wt.flip = some flip9 ∧ (onWayW false 3 { flip9 with retried := true, entry := 1 }).wt.flip = some { flip9 with retried := true, entry := 1 } ∧
    (onWayW false 3 { flip9 with retried := true, entry := 1 }).serve.held = [] := by decide +kernel
end Sys2Proof.Tests

namespace Sys2Proof.Tests

/-- A rung with no band: its areas lie in the stripe view, and it keeps every check. -/
def bareRung : Rung := { rung0 with
  timing := { rung0.timing with latency := [44, 52, 8, 20, 2], pfBase := 1000, beatMax := 2000000 }
  bands := [], positions := []
  far := { rung0.far with
    stripe := 0xFFFFFFFFFFFF, streamTable := 0x41000000000, directoryBase := 0x42000000000, tokenLogBase := 0x43000000000
    regions := [⟨0x41000000000, 0x40000, 2⟩, ⟨0x42000000000, 0x10000000, 3⟩, ⟨0x43000000000, 0x200000000, 4⟩] } }
def bareBody : ImageBody := { image0.body with rungs := [bareRung], layers := [], ladder := [⟨0, 0, 0xFFFFFFFFFFFF, 7, true⟩] }
/-- The section table of the eight types, 64 bytes each from offset 512, and the header of an image of 1,024 bytes. -/
def bareTable : List Byte := ([1, 2, 3, 4, 6, 8, 0x0C, 0x0D] : List Nat).zipIdx.flatMap (fun e =>
  le 1 e.1 ++ [0xFF, 0, 0, 0, 0, 0, 0] ++ le 8 (512 + 64 * e.2) ++ le 8 64 ++ le 8 0)
def bareHead : List Byte := le 4 0x31585455 ++ le 2 1 ++ le 2 0 ++ [8, 0, 1, 0] ++ le 4 8 ++ le 8 1024 ++ le 8 256 ++ le 8 7 ++ le 8 9 ++ List.replicate 16 0 ++
  sha256 (bareTable ++ List.replicate 512 0) ++ List.replicate 156 0
/-- The image lies at the start of the striped view, and IMG_ADDR names it. -/
def imageW : W9 := wr64 Reg.imgAddr 0x40000000000 { upW with mem := { upW.mem with
  far := ((bareHead ++ le 4 (crc32 bareHead) ++ bareTable).zipIdx.filter (fun e => e.1 != 0)).map (fun e => (e.2, e.1)) } }
/-- The image is being instantiated, and the loop of a frozen part in debug mode. -/
def instW : W9 := wrF Reg.imgStatus 2 0 2 { imageW with img := some { image0 with body := bareBody }, checked := some { image0 with body := bareBody } }
def debugW (at' : Option Nat) : W9 := wrB Reg.dbgStatus 30 true (wrB Reg.imgStatus 6 true { twinW with dbg := { twinW.dbg with resumeAt := at' } })
theorem meets_ImagesLoadStartAndStop : hostAnswers W9.reset = false ∧ hostAnswers imageW = true ∧ safeMode imageW = false ∧ imgState imageW = 0 ∧
    imgState runsW = 3 ∧ hostAnswers runsW = true ∧ imageW.mem.farUE = [] ∧ imageW.mem.farCE = [] ∧ imageW.mem.farLasting = [] ∧
    usableRung imageW bareBody = some 0 ∧ bareBody.rungs[0]? = some bareRung ∧ rd64 imageW Reg.imgWset = 0 ∧ busyStreams runsW = [] ∧ paired runsW = false ∧
    runsW.serve.streams = [] ∧ booted W9.reset = false ∧ booted instW = true ∧ instW.img = some { image0 with body := bareBody } ∧
    rungLost instW { image0 with body := bareBody } = false ∧ instantiated instW = true ∧ instW.flt.recovering = false ∧ instantiated runsW = false ∧
    dbgOpen runsW = false ∧ dbgOpen (debugW none) = true ∧ rdB (debugW none) Reg.dbgStatus 30 = true ∧ paired (debugW none) = true ∧
    twinPorts (debugW none) = [1] ∧ (debugW (some 5)).dbg.resumeAt = some 5 ∧ (debugW none).dev.time < 5 ∧ (debugW (some 0)).dbg.resumeAt = some 0 := by
  decide +kernel
theorem meets_ImagesLoadStartAndStop_checks : headerOk (farRead imageW 0x40000000000 256) = true ∧ rd64 imageW Reg.imgAddr = 0x40000000000 ∧
    loadChecks imageW (farRead imageW 0x40000000000 256) 0x40000000000 bareBody = none := by decide +kernel
theorem meets_ImagesLoadStartAndStop_reload : usableRung { runsW with checked := some { image0 with body := bareBody } } bareBody = some 0 ∧
    dbgOpen (wrB Reg.pairStatus 31 false (debugW none)) = true ∧ paired (wrB Reg.pairStatus 31 false (debugW none)) = false := by decide +kernel
end Sys2Proof.Tests

namespace Sys2Proof.Tests

theorem meets_SidebandCommandsAreAnswered : sideAnswers W9.reset = false ∧ hostAnswers W9.reset = false ∧ hostAnswers upW = true ∧ sideAnswers upW = true ∧
    (8 : Byte) ≠ 0 ∧ (8 : Byte) ≠ 0xFF ∧ 5000 ≤ (6000 : Word32).toNat ∧ (6000 : Word32).toNat ≤ 34000 ∧
    ¬((7 : Word32) = 0 ∨ (5000 ≤ (7 : Word32).toNat ∧ (7 : Word32).toNat ≤ 34000)) ∧ (List.replicate 32 (7 : Byte)).length = 32 ∧ upW.att.sideBusy = false ∧
    { upW with att := { upW.att with sideBusy := true } }.att.sideBusy = true ∧ upW.att.building = none ∧ upW.att.queue = [] ∧
    { upW with att := { upW.att with building := some (.host, []) } }.att.building.isSome = true ∧
    0x1000 ≤ (0x1000 : BitVec 16).toNat ∧ upW.att.sideReport = [] ∧ { upW with att := { upW.att with sideReport := [1] } }.att.sideReport ≠ [] ∧
    ¬((9 : Byte) = 1 ∨ (9 : Byte) = 2 ∨ (9 : Byte) = 3 ∨ (9 : Byte) = 0x10 ∨ (9 : Byte) = 0x11) := by decide +kernel
end Sys2Proof.Tests

namespace Sys2Proof.Tests

/-- A report is being built for a requester; a request to the twin is out; an operation of the option store runs. -/
def buildW (r : Requester) : W9 := { upW with att := { upW.att with building := some (r, [1]) } }
def fetchW (t : Nat) (isReport : Bool) : W9 := { twinW with dev := { twinW.dev with time := t }, att := { upW.att with fetch := some ⟨1, 0, 3, isReport, []⟩ } }
def optW (op : BitVec 2) : W9 := { upW with opt := { upW.opt with op := some (op, 0, 4) } }
theorem meets_ReportsMeasurementsAndOptionsAnswer : hostAnswers W9.reset = false ∧ hostAnswers upW = true ∧ safeMode upW = false ∧
    hostAnswers (wrB Reg.rstStatus 30 true upW) = true ∧ safeMode (wrB Reg.rstStatus 30 true upW) = true ∧ attState upW = 0 ∧
    attState (setAttState 1 upW) = 1 ∧ hostAnswers (setAttState 1 upW) = true ∧ (buildW .host).att.building.isSome = true ∧ upW.att.building = none ∧
    upW.att.queue = [] ∧ twinPorts upW = [] ∧ twinPorts twinW = 1 :: [] ∧ attState twinW ≠ 1 ∧ upW.att.fetch = none := by decide +kernel
theorem meets_ReportsMeasurementsAndOptionsAnswer_ends : (fetchW 10000000 false).att.fetch = some ⟨1, 0, 3, false, []⟩ ∧ 0 + 10000000 ≤ (fetchW 10000000 false).dev.time ∧ (fetchW 0 false).dev.time < 0 + 10000000 ∧
    (fetchW 0 true).att.fetch = some ⟨1, 0, 3, true, []⟩ ∧ (buildW .twin).att.building = some (.twin, [1]) ∧ (buildW .twin).att.queue = [] ∧
    (buildW .sideband).att.building = some (.sideband, [1]) ∧ (buildW .host).att.building = some (.host, [1]) ∧
    optOk 1 upW = false ∧ optOk 2 upW = true ∧ optOk 1 (wr Reg.optLen 4 upW) = true ∧ optOk 3 (wr Reg.optLen 4 upW) = true ∧ optOk 2 (wr Reg.optAddr 4 upW) = false ∧
    optOk 3 upW = false ∧ upW.opt.op = none ∧ (optW 1).opt.op = some (1, 0, 4) ∧ (optW 2).opt.op = some (2, 0, 4) ∧ (optW 3).opt.op = some (3, 0, 4) := by
  decide +kernel
end Sys2Proof.Tests

namespace Sys2Proof.Tests

/-- A booted part with field 0 locked and its zones running, without image. -/
def lockW : W9 := wr (Reg.fieldPwr 0) 0x54000000 (wrB64 Reg.mifPllLock 0 true (setFieldLock 0 true upW))
/-- Field 0's PLL has lost lock at time 0. -/
def lostLockW (t : Nat) : W9 := { modField 0 (fun x => { x with pllLostAt := some 0 }) lockW with dev := { lockW.dev with time := t } }
theorem meets_FieldsLoseLockPowerAndAreLost : booted W9.reset = false ∧ booted lockW = true ∧ fieldLostNow lockW 0 = false ∧ imgState lockW ≠ 3 ∧
    rdB lockW (Reg.fieldClk 0) 31 = true ∧ (fieldState lockW 0).reset = none ∧ parkState lockW 0 = 0 ∧ (fieldState lockW 0).pllLostAt = none ∧
    (fieldState (lostLockW 5) 0).pllLostAt = some 0 ∧ (lostLockW 5).dev.time ≤ 0 + 100000 ∧ 0 + 100000 < (lostLockW 100001).dev.time ∧
    (fieldState (lostLockW 100001) 0).pllLostAt = some 0 ∧ fieldLostNow (lostLockW 100001) 0 = false ∧ imgState (lostLockW 100001) ≠ 3 ∧
    rdB64 lockW Reg.mifPllLock 0 = true ∧ rdB64 upW Reg.mifPllLock 1 = false ∧ rdF lockW (Reg.fieldPwr 0) (zoneBit .vlogic) (zoneBit .vlogic - 1) = 1 ∧
    rdF lockW (Reg.fieldPwr 0) (zoneBit .varray) (zoneBit .varray - 1) = 1 ∧ rdF lockW (Reg.fieldPwr 0) (zoneBit .vmif) (zoneBit .vmif - 1) = 1 ∧
    rdF (wr (Reg.fieldPwr 0) 0 lockW) (Reg.fieldPwr 0) (zoneBit .vlogic) (zoneBit .vlogic - 1) = 0 ∧ portIsolated lockW 1 = false ∧
    portIsolated (wrB64 Reg.zonesIsolated 49 true lockW) 1 = true ∧ fieldLostNow (setFieldState 0 3 lockW) 0 = true := by decide +kernel
end Sys2Proof.Tests

namespace Sys2Proof.Tests

/-- Patch 3 of field 0 has had 10,000 high windows. -/
def crackW : W9 := modField 0 (fun x => { x with patchRuns := [(3, 10000)] }) lockW
theorem meets_RailsAndMonitorsReport : booted W9.reset = false ∧ booted crackW = true ∧ 4000 ≤ (5400 : BitVec 16).toNat ∧ (5400 : BitVec 16).toNat ≤ 6000 ∧
    (3999 : BitVec 16).toNat < 4000 ∧ 6000 < (6001 : BitVec 16).toNat ∧ logicRuns crackW 0 = true ∧ logicRuns upW 0 = false ∧ parkState crackW 0 = 0 ∧
    10000 ≤ smGet (fun _ => 0) (fieldState crackW 0).patchRuns 3 ∧ rdB crackW (Reg.droopStatus 0) 31 = false ∧
    smGet (fun _ => 0) (fieldState crackW 0).patchRuns 4 < 10000 := by decide +kernel
end Sys2Proof.Tests

namespace Sys2Proof.Tests

/-- The CRC state over bytes `f i`, `f (i + 1)`, …, each step forced. -/
def crcRun (f : Nat → Byte) : Nat → Nat → Nat → Nat
  | 0, _, c => c
  | n + 1, i, c => if c = 0 then crcRun f n (i + 1) (iter crc32Bit 8 (f i).toNat) else crcRun f n (i + 1) (iter crc32Bit 8 (c ^^^ (f i).toNat))
theorem crcRun_eq (f : Nat → Byte) (n i c : Nat) :
    crcRun f n i c = ((List.range' i n).map f).foldl (fun c b => iter crc32Bit 8 (c ^^^ b.toNat)) c := by
  induction n generalizing i c with
  | zero => rfl
  | succ n ih =>
    rw [crcRun, ih, ih, List.range'_succ, List.map_cons, List.foldl_cons]
    split
    case isTrue h => subst h; simp
    case isFalse h => rfl
/-- A span of a list of bytes by place. -/
theorem span_eq (f : Nat → Byte) (n o k : Nat) (h : o + k ≤ n) : (((List.range n).map f).drop o).take k = (List.range' o k).map f := by
  apply List.ext_getElem
  · simp; omega
  · intro i h1 h2
    simp
/-- The factory's option block. -/
theorem factory_read : flashRead W9.reset (copyBase 0) 0x4000 = (List.range 0x4000).map factoryBlock := by
  apply List.map_congr_left
  intro i hi
  have := List.mem_range.mp hi
  have e : copyBase 0 + i = i := by simp [copyBase]
  show flashEmpty (copyBase 0 + i) = _
  rw [e, flashEmpty, if_pos (by omega), Nat.mod_eq_of_lt (by omega)]
theorem factory_crc : crcRun factoryBlock 0x3FFC 0 0xFFFFFFFF = 0x5AB22B16 ^^^ 0xFFFFFFFF := by decide +kernel
theorem copyFault_of (b : List Byte) (h0 : ofLe (b.take 4) = 0x314B4C42) (h1 : ofLe ((b.drop 4).take 2) = 1)
    (h2 : ofLe ((b.drop 0x3FFC).take 4) = crc32 (b.take 0x3FFC)) (h3 : mapsInRange b = true) : copyFault b = none := by
  simp [copyFault, h0, h1, h2, h3]
theorem factory_maps (b : List Byte) (hx : (b.drop 0x40).take 0xC0 = (List.range' 0x40 0xC0).map factoryBlock)
    (hy : (b.drop 0x100).take 0x800 = (List.range' 0x100 0x800).map factoryBlock)
    (hz : (b.drop 0x900).take 0xC0 = (List.range' 0x900 0xC0).map factoryBlock) : mapsInRange b = true := by
  unfold mapsInRange
  dsimp only
  rw [hx, hy, hz]
  decide +kernel
theorem factory_ok : copyFault (flashRead W9.reset (copyBase 0) 0x4000) = none := by
  have hb := factory_read
  generalize flashRead W9.reset (copyBase 0) 0x4000 = b at hb
  have sp : ∀ o k, o + k ≤ 0x4000 → (b.drop o).take k = (List.range' o k).map factoryBlock := by
    intro o k h; rw [hb]; exact span_eq factoryBlock 0x4000 o k h
  have e0 : b.take 4 = (List.range' 0 4).map factoryBlock := sp 0 4 (by omega)
  have ec : b.take 0x3FFC = (List.range' 0 0x3FFC).map factoryBlock := sp 0 0x3FFC (by omega)
  refine copyFault_of b ?_ ?_ ?_ (factory_maps b (sp _ _ (by omega)) (sp _ _ (by omega)) (sp _ _ (by omega)))
  · rw [e0]; decide
  · rw [sp 4 2 (by omega)]; decide
  · rw [sp 0x3FFC 4 (by omega), ec, crc32, ← crcRun_eq, factory_crc]; decide
theorem factory_parts : (firmwareParts (flashRead W9.reset 0x1000000 64)).isSome = true := by decide +kernel
/-- Both copies have a damaged first byte; the firmware's header too. -/
def noCopyW : W9 := { W9.reset with opt := { OptS.init with flash := [(0, 0), (0x10000, 0)] } }
def noFirmwareW : W9 := { W9.reset with opt := { OptS.init with flash := [(0x1000000, 0)] } }
theorem factory_same : ∀ k, k < 0x4000 → smGet flashEmpty noFirmwareW.opt.flash (copyBase 0 + k) = smGet flashEmpty W9.reset.opt.flash (copyBase 0 + k) := by
  intro k hk
  show smGet flashEmpty [(0x1000000, 0)] (copyBase 0 + k) = flashEmpty (copyBase 0 + k)
  have : ¬ 0x1000000 = copyBase 0 + k := by simp [copyBase]; omega
  simp [smGet, this]
theorem noFirmware_ok : copyFault (flashRead noFirmwareW (copyBase 0) 0x4000) = none := by
  have : flashRead noFirmwareW (copyBase 0) 0x4000 = flashRead W9.reset (copyBase 0) 0x4000 :=
    List.map_congr_left (fun k hk => factory_same k (List.mem_range.mp hk))
  rw [this]; exact factory_ok
theorem meets_WholeDeviceResetsAndBoot : W9.reset.dev.powered = true ∧ { upW with dev := { upW.dev with powered := false } }.dev.powered = false ∧
    upW.dev.powered = true ∧ upW.rst.asserted = false ∧ envState upW ≠ 4 ∧ hostAnswers upW = true ∧ safeMode upW = false ∧ hostAnswers W9.reset = false ∧
    (fieldState upW 3).reset = none ∧ parkState upW 3 = 0 ∧ fieldLostNow upW 3 = false ∧ upW.opt.op = none ∧
    W9.reset.rst.asserted = true ∧ W9.reset.rst.pendingSafe = false ∧ { W9.reset with rst := { RstS.init with pendingSafe := true } }.rst.pendingSafe = true ∧
    firmwareParts (flashRead noFirmwareW 0x1000000 64) = none := by decide +kernel
theorem meets_WholeDeviceResetsAndBoot_copies : ofLe ((flashRead noCopyW (copyBase 0) 4).take 4) ≠ 0x314B4C42 ∧
    ofLe ((flashRead noCopyW (copyBase 1) 4).take 4) ≠ 0x314B4C42 := by decide +kernel
theorem copy_bad (b : List Byte) (h : ofLe (b.take 4) ≠ 0x314B4C42) : (copyFault b).isSome = true := by
  simp [copyFault, h]
theorem flash_first (w : W9) (k : Nat) : (flashRead w k 0x4000).take 4 = (flashRead w k 4).take 4 := by
  have : ∀ n, 4 ≤ n → ((List.range n).map (fun i => smGet flashEmpty w.opt.flash (k + i))).take 4 = (List.range 4).map (fun i => smGet flashEmpty w.opt.flash (k + i)) := by
    intro n hn
    rw [← List.map_take, List.take_range, Nat.min_eq_left hn]
  rw [flashRead, flashRead, this _ (by omega), this _ (by omega)]
theorem meets_WholeDeviceResetsAndBoot_bad : (copyFault (flashRead noCopyW (copyBase 0) 0x4000)).isSome = true ∧
    (copyFault (flashRead noCopyW (copyBase 1) 0x4000)).isSome = true := by
  refine ⟨copy_bad _ ?_, copy_bad _ ?_⟩
  · rw [flash_first]; exact meets_WholeDeviceResetsAndBoot_copies.1
  · rw [flash_first]; exact meets_WholeDeviceResetsAndBoot_copies.2
end Sys2Proof.Tests

namespace Sys2Proof.Tests

/-- Field 0, gateway 0 and port 1 quiesce since time 0. -/
def quietW (t : Nat) : W9 := let r : FieldReset := ⟨0, 0, 0, true, false⟩
  { modPort 1 (fun x => { x with reset := some r }) (modGw 0 (fun x => { x with reset := some r }) (modField 0 (fun x => { x with reset := some r }) lockW)) with
    dev := { lockW.dev with time := t } }
/-- Field 0's reset has been applied. -/
def appliedW : W9 := modField 0 (fun x => { x with reset := some ⟨0, 0, 0, false, false⟩ }) (setFieldState 0 2 lockW)
theorem meets_BlocksQuiesceResetAndReopen : hostAnswers W9.reset = false ∧ hostAnswers upW = true ∧ tripped (wrF Reg.envStatus 31 29 4 upW) = true ∧
    safeMode (wrF Reg.envStatus 31 29 4 upW) = false ∧ safeMode upW = false ∧ tripped upW = false ∧ fieldLostNow lockW 0 = false ∧
    (fieldState lockW 0).reset = none ∧ parkState lockW 0 = 0 ∧ (gwOf lockW 0).reset = none ∧ (portOf lockW 1).reset = none ∧ portIsolated lockW 1 = false ∧
    isTwinPort twinW 1 = true ∧ paired twinW = true ∧ otherTwin twinW 1 = none ∧ (fieldState (quietW 0) 0).reset.isSome = true ∧
    (gwOf (quietW 0) 0).reset.isSome = true ∧ (portOf (quietW 0) 1).reset.isSome = true ∧ quiescing upW 0 0 = none := by decide +kernel
theorem meets_BlocksQuiesceResetAndReopen_quiet : quiescing (quietW 0) 0 0 = some 0 ∧ quiescing (quietW 0) 1 0 = some 0 ∧ quiescing (quietW 0) 2 1 = some 0 ∧
    quiesced (quietW 0) 1 0 = true ∧ quiesced (quietW 0) 2 1 = true ∧ (quietW 0).dev.time < 0 + quiesceLimit 0 ∧
    0 + quiesceLimit 0 ≤ (quietW 200000).dev.time ∧ quiescing (quietW 200000) 0 0 = some 0 ∧
    (fieldState appliedW 0).reset = some ⟨0, 0, 0, false, false⟩ ∧ fieldStateSeen appliedW 0 0 = 2 ∧ rdB appliedW (Reg.fieldClk 0) 31 = true ∧
    refillDue appliedW 0 = false ∧ rungNow appliedW = none ∧ imageRuns appliedW = false ∧ parkState appliedW 0 = 0 ∧
    rdB upW (Reg.fieldClk 1) 31 = false := by decide +kernel
theorem meets_BlocksQuiesceResetAndReopen_idle : quiesced (quietW 0) 0 0 = true :=
  fieldIdle_untouched (quietW 0) 0 (by decide +kernel) (by decide +kernel) (by decide +kernel)
end Sys2Proof.Tests

namespace Sys2Proof.Tests

/-- Field 0 in park state `p` since time 0, at time `t`. -/
def parkedW (p t : Nat) : W9 := { setPark 0 p lockW with dev := { lockW.dev with time := t } }
theorem meets_FieldsDrainGateWakeAndReopen : parkState lockW 0 = 0 ∧ parkState (parkedW 1 200000) 0 = 1 ∧ fieldLostNow (parkedW 1 200000) 0 = false ∧
    inHold (parkedW 1 200000) = false ∧ (fieldState (parkedW 1 200000) 0).drainStart + 200000 ≤ (parkedW 1 200000).dev.time ∧
    parkState (wrF Reg.envStatus 31 29 2 (parkedW 1 0)) 0 = 1 ∧ fieldLostNow (wrF Reg.envStatus 31 29 2 (parkedW 1 0)) 0 = false ∧
    inHold (wrF Reg.envStatus 31 29 2 (parkedW 1 0)) = true ∧ parkState (setClock 0 false (parkedW 2 100000)) 0 = 2 ∧
    clockRuns (setClock 0 false (parkedW 2 100000)) 0 = false ∧ fieldLostNow (parkedW 2 100000) 0 = false ∧
    (fieldState (setClock 0 false (parkedW 2 100000)) 0).stateSince + 100000 ≤ (setClock 0 false (parkedW 2 100000)).dev.time ∧
    clockRuns (setClock 0 true (parkedW 2 5)) 0 = true ∧ parkState (setClock 0 true (parkedW 2 5)) 0 = 2 ∧ parkState (parkedW 4 5) 0 = 4 ∧ (fieldState (parkedW 4 5) 0).reset = none ∧ fieldLostNow (parkedW 4 5) 0 = false ∧
    rungNow (parkedW 4 5) = none ∧ parkState (parkedW 5 5) 0 = 5 ∧ (fieldState (parkedW 5 5) 0).reset = none ∧ fieldLostNow (parkedW 5 5) 0 = false ∧
    (fieldState (parkedW 5 5) 0).parkHeld = false ∧ (fieldState (modField 0 (fun x => { x with parkHeld := true }) (parkedW 5 5)) 0).parkHeld = true ∧
    fieldLostNow (setClock 0 true (parkedW 2 5)) 0 = false := by decide +kernel
theorem meets_FieldsDrainGateWakeAndReopen_idle : fieldIdle (parkedW 1 200000) 0 = true ∧ fieldIdle (wrF Reg.envStatus 31 29 2 (parkedW 1 0)) 0 = true ∧
    stalledIn (parkedW 1 200000) 0 = false :=
  ⟨fieldIdle_untouched _ _ (by decide +kernel) (by decide +kernel) (by decide +kernel), fieldIdle_untouched _ _ (by decide +kernel) (by decide +kernel) (by decide +kernel), stalledIn_untouched _ _ (by decide +kernel)⟩
theorem meets_FieldsDrainGateWakeAndReopen_stalled : let w := pwrB 0 Pg.tileStatus 1 true (parkedW 1 200000)
    parkState w 0 = 1 ∧ fieldLostNow w 0 = false ∧ (fieldState w 0).drainStart + 200000 ≤ w.dev.time ∧ stalledIn w 0 = true ∧ w.dev.powered = true ∧
    w.rst.asserted = false ∧ envState w ≠ 4 ∧ safeMode w = false := by decide +kernel
end Sys2Proof.Tests

namespace Sys2Proof.Tests

/-- Every pair reads 25 degrees (control value 400) but pair 0, whose first sensor reads `t`. -/
def hotW (t : Nat) : W9 := wr (Reg.pairCtl 0) (BitVec.ofNat 32 t) upW
theorem meets_SensorsThermalCapAndClears : hubRuns W9.reset = false ∧ hubRuns upW = true ∧ ([(0, (0x0190 : BitVec 16), (0x0192 : BitVec 16))].map (fun r => r.1)).Nodup ∧
    booted W9.reset = false ∧ booted upW = true ∧ rdB upW (Reg.pairCtl 0) 18 = false ∧ rdB (hotW 0x40000) (Reg.pairCtl 0) 18 = true ∧
    envState upW ≠ 4 ∧ envState (wrF Reg.envStatus 31 29 4 upW) = 4 ∧ imgState upW ≠ 3 ∧ imgState runsW = 3 ∧ envState runsW ≠ 4 ∧
    booted runsW = true ∧ upW.env.limitOn = false ∧ hostAnswers W9.reset = false ∧ hostAnswers upW = true ∧ safeMode upW = false ∧
    emergency upW = false ∧ emergency (wrB Reg.envStatus 15 true upW) = true ∧ class0Work (wrB Reg.envStatus 15 true upW) = [] := by decide +kernel
theorem meets_SensorsThermalCapAndClears_hot : above (hotJunction (hotW 1500)) 1440 = true ∧ hotJunction (hotW 1500) ≠ none ∧
    above (hotJunction upW) 960 = false ∧ above (hotStack upW) 960 = false ∧
    ({ upW with dev := { upW.dev with time := 100000000 } }).env.risingSince + 100000000 ≤ 100000000 ∧ sensorless upW 0 = false ∧
    (wrF Reg.envStatus 31 29 4 upW).rst.asserted = false ∧ rdB (wrF Reg.envStatus 31 29 4 upW) Reg.envStatus 10 = false ∧
    rdB (wrB Reg.envStatus 10 true (wrF Reg.envStatus 31 29 4 upW)) Reg.envStatus 10 = true ∧ above (hotJunction upW) 1440 = false ∧
    above (hotStack upW) 1360 = false ∧ upW.rst.asserted = false := by decide +kernel
theorem meets_SensorsThermalCapAndClears_last : let w := wrF (Reg.pairCtl 3) 17 16 3 (wrF (Reg.pairCtl 2) 17 16 3 (wrF (Reg.pairCtl 1) 17 16 3 (hotW 0x50000)))
    booted w = true ∧ rdB w (Reg.pairCtl 0) 18 = true ∧ imgState w ≠ 3 ∧ sensorless w 0 = false ∧ retired w 0 false = true ∧
    (∀ q : Fin 3, sensorless w (q.val + 1) = true) := by decide +kernel
end Sys2Proof.Tests

namespace Sys2Proof.Tests

/-- A W9 without image in envelope state `k` at time `t`. -/
def envW (k t : Nat) : W9 := { wrF Reg.envStatus 31 29 k upW with dev := { upW.dev with time := t }, env := { upW.env with selfStacks := false } }
/-- It carries one class-0 stream. -/
def zeroW : W9 := modStream 3 (fun t => { t with state := .decode, cls := 0, phase := some 0 }) (wr Reg.class0Floor 9000 (setCapTh 34000 upW))
/-- It is paired, and a release with cause 2 has begun at time 0. -/
def relW : W9 := { wrF Reg.pairStatus 31 30 2 zeroW with env := { zeroW.env with release := some ⟨2, 0, 1⟩ }, dev := { zeroW.dev with time := 2000000 } }
theorem meets_CapsReleasesAndHold : hostAnswers W9.reset = false ∧ hostAnswers upW = true ∧ safeMode upW = false ∧ booted upW = true ∧ envState upW = 0 ∧
    envState (envW 2 0) = 2 ∧ booted (envW 2 0) = true ∧ class0Work upW = [] ∧ class0Work (envW 2 0) = [] ∧ frozen upW = false ∧
    min (min (capTh upW) (capExt upW)) (if emergency upW then 8500 else 34000) < runFloor (wr Reg.runFloor 34001 upW) ∧
    frozen (wr Reg.runFloor 34001 upW) = false ∧ class0Work zeroW = [3] ∧ zeroW.env.release = none ∧ rdB zeroW Reg.hostCap 31 = false ∧
    emergency zeroW = false ∧ capExt (wr Reg.hostCap 8000 zeroW) < floor0 zeroW ∧ floor0 zeroW ≤ capTh zeroW ∧
    capTh (setCapTh 8999 zeroW) < floor0 zeroW ∧ booted zeroW = true ∧ envState zeroW ≠ 4 := by decide +kernel
theorem meets_CapsReleasesAndHold_release : relW.env.release = some ⟨2, 0, 1⟩ ∧ 0 + 2000000 ≤ relW.dev.time ∧ paired relW = true ∧ own0 relW = [3] ∧
    (streamOf relW 3).state ≠ .ending ∧ class0Work relW ≠ [] ∧
    class0Work ({ upW with env := { upW.env with release := some ⟨2, 0, 1⟩ } }) = [] := by decide +kernel
theorem meets_CapsReleasesAndHold_hold : envState (envW 1 0) = 1 ∧ (envW 1 0).gws.all (fun e => e.2.queue.isEmpty) = true ∧
    parkState (envW 1 0) 7 = 0 ∧ envState (envW 3 0) = 3 ∧ (envW 3 0).env.selfStacks = false ∧ (holding (envW 3 0)).contains 0 = true ∧
    rampDue (envW 3 10000) 0 ≤ (envW 3 10000).dev.time ∧ allFields.all (fun g => !(fieldState (envW 3 10000) g).stackSelf) = true ∧
    clockDue (envW 3 20000000) 0 ≤ (envW 3 20000000).dev.time ∧ logicRuns (wr (Reg.fieldPwr 0) 0x54000000 (envW 3 20000000)) 0 = true ∧
    startDue (envW 3 20000000) ≤ (envW 3 20000000).dev.time ∧ (envW 3 20000000).env.holdStep = 0 ∧ (envW 3 20000000).env.selfStacks = false := by
  decide +kernel
/-- Every field but the first is gated, and the part enters hold. -/
def oneW : W9 := forEach (allFields.drop 1) (fun f w => wr (Reg.parkStatus f.val) 3 w) (envW 1 200000)
theorem meets_CapsReleasesAndHold_one : holding oneW = [0] ∧ envState oneW = 1 ∧ allFields.all (fun f => [0, 3].contains (parkState oneW f)) = true ∧
    oneW.gws = [] := by decide +kernel
theorem meets_CapsReleasesAndHold_idle : fieldIdle oneW 0 = true := fieldIdle_untouched _ _ (by decide +kernel) (by decide +kernel) (by decide +kernel)
/-- A request of field 0's first tile is pending. -/
def lateW : W9 := pwr 0 Pg.fmqPending 1 (envW 1 200000)
theorem meets_CapsReleasesAndHold_late : envState lateW = 1 ∧ lateW.env.holdStart + 200000 ≤ lateW.dev.time ∧ (holding lateW).contains 0 = true ∧
    tileIdle lateW 0 = false ∧ lateW.dev.powered = true ∧ lateW.rst.asserted = false ∧ safeMode lateW = false := by decide +kernel
theorem meets_CapsReleasesAndHold_busy : fieldIdle lateW 0 = false := by decide +kernel
end Sys2Proof.Tests

namespace Sys2Proof.Tests

/-- Field 0's beat was to end at time 5; it is time `t`. -/
def owesW (t : Nat) : W9 := { modField 0 (fun x => { x with owing := [(5, [])] }) runsW with dev := { runsW.dev with time := t } }
/-- Stream 3 is replayed in the pipeline, with its limit at time 5. -/
def replayW (t : Nat) : W9 := wrB Reg.faultCtrl 30 true { modStream 3 (fun x => { x with state := .decode, cls := 1 }) runsW with
  flt := { runsW.flt with replay := some ⟨3, 0, 5, false⟩, suspects := [3] }
  dev := { runsW.dev with time := t }, serve := { (modStream 3 (fun x => { x with state := .decode, cls := 1 }) runsW).serve with pipe := [some ⟨3, 0, [], false, 0, 0, 0⟩, none, none] } }
/-- A recovery record of rung 0 with MODEL_VER 5 at offset 0x800 of the stripe view, and the header of its image, whose digest is zeros, at
offset 0. -/
def recHead (paired : Bool) : RecHeader := ⟨1, List.replicate 32 0, 0, 5, 0, paired, false⟩
def headFar : List (Nat × Byte) := [(0, 85), (1, 84), (2, 88), (3, 49), (4, 1), (8, 8), (10, 1), (12, 8), (17, 4), (25, 1), (32, 7), (40, 9),
  (252, 41), (253, 206), (254, 50), (255, 218), (2048, 82), (2049, 67), (2050, 86), (2051, 49), (2052, 1), (2092, 5)]
def recoverW (paired : Bool) : W9 := wr64 Reg.recoveryAddr 0x40000000800 (wr64 Reg.imgAddr 0x40000000000 { upW with
  checked := some { image0 with body := bareBody }, flt := { upW.flt with recoveryDue := true }, mem := { upW.mem with
    far := headFar ++ if paired then [(2104, 1), (2109, 105), (2110, 72), (2111, 46)] else [(2108, 101), (2109, 14), (2110, 244), (2111, 150)] } })
/-- It waits for its twin since time 0. -/
def listenW (hello : Bool) : W9 := let w := wrF Reg.faultStatus 30 28 1 (recoverW true)
  { w with img := some { image0 with body := bareBody }, flt := { w.flt with helloSeen := hello }, dev := { w.dev with time := 13000000 } }
theorem meets_HangsAreDetectedAndRecoveryRuns : booted W9.reset = false ∧ booted upW = true ∧ upW.dev.time < windowEnds upW ∧
    windowEnds { upW with dev := { upW.dev with time := 1100000 } } ≤ 1100000 ∧ upW.flt.beatSeen = false ∧ upW.flt.misses < 2 ∧
    upW.rst.asserted = false ∧ envState upW ≠ 4 ∧ safeMode upW = false ∧ plannedEnd upW 0 = none ∧ plannedEnd (owesW 0) 0 = some 5 ∧
    (owesW 0).dev.time ≤ 5 + 1000000 ∧ plannedEnd (owesW 1000006) 0 = some 5 ∧ 5 + 1000000 < (owesW 1000006).dev.time ∧
    (owesW 1000006).rst.asserted = false ∧ envState (owesW 1000006) ≠ 4 ∧ safeMode (owesW 1000006) = false ∧ watchLimit upW = none ∧
    watchLimit (replayW 6) = some 5 ∧ 5 < (replayW 6).dev.time ∧ (replayW 6).rst.asserted = false ∧ envState (replayW 6) ≠ 4 ∧
    safeMode (replayW 6) = false ∧ upW.flt.recoveryDue = false ∧ imageRuns upW = false := by decide +kernel
theorem meets_HangsAreDetectedAndRecoveryRuns_replay : booted (replayW 6) = true ∧ imageRuns (replayW 6) = true ∧
    rdB (replayW 6) Reg.faultCtrl 30 = true ∧ (replayW 6).flt.suspects.filter (replayable (replayW 6)) = [3] ∧ replayable (replayW 6) 3 = true ∧
    (streamOf (replayW 6) 3).cls.toNat ≠ 3 ∧ cmdOpen W9.reset = false ∧ cmdOpen (replayW 6) = true ∧ (streamOf (replayW 6) 3).state ≠ .quarantined ∧
    (streamOf (modStream 3 (fun x => { x with state := .quarantined }) (replayW 6)) 3).state = .quarantined := by decide +kernel
theorem meets_HangsAreDetectedAndRecoveryRuns_start : booted (recoverW false) = true ∧ (recoverW false).flt.recoveryDue = true ∧
    recoveryHeader (recoverW false) = some (recHead false) ∧ rdB (wrB Reg.faultCtrl 31 true (recoverW false)) Reg.faultCtrl 31 = true ∧
    imageAgrees (recoverW false) (recHead false) = true ∧ bareBody.rungs[0]? = some bareRung ∧
    recoveryRung (recoverW false) bareBody 0 = some 0 ∧ (recHead true).paired = true := by decide +kernel
theorem meets_HangsAreDetectedAndRecoveryRuns_fail : recoveryHeader { upW with flt := { upW.flt with recoveryDue := true } } = none ∧
    recoveryHeader (recoverW true) = some (recHead true) ∧ recoveryRung (wr64 Reg.imgLost 1 (recoverW true)) bareBody 0 = none := by decide +kernel
theorem meets_HangsAreDetectedAndRecoveryRuns_listen : booted (listenW false) = true ∧ waitsForTwin (listenW false) = true ∧
    listenOver (listenW false) = true ∧ listenOver (listenW true) = true ∧ waitsForTwin (listenW true) = true ∧ (listenW true).flt.helloSeen = true ∧
    recoveryHeader (listenW false) = some (recHead true) := by decide +kernel
end Sys2Proof.Tests

namespace Sys2Proof.Tests

/-- A test of tile 0's array is queued, one of its first bank and one of a supply run since time 0. -/
def testsW : W9 := { upW with flt := { upW.flt with tests := [⟨.array 0, 4, 0, none⟩, ⟨.bankBank 0 0, 0, 0, some 0⟩, ⟨.supply 1 0, 8, 0, some 0⟩] } }
/-- Tile 0 idles for 200 cycles. -/
def gapW : W9 := modTile 0 (fun x => { x with idleUntil := 200 }) (pwrB 0 Pg.tileStatus 2 true testsW)
/-- The event ring is on, with 64 entries; an AER event was recorded at time 0. -/
def aerW (t : Nat) : W9 := wr Reg.evtCtrl 0x80000006 { upW with dev := { upW.dev with time := t, limits := [((srcHost, 0x8031), 0)] } }
theorem meets_SelfTestsEndAndEventsAreRecorded : testsRun W9.reset = false ∧ testsRun testsW = true ∧ fieldStops testsW (.array 0) = 0 ∧
    testGap testsW (.array 0) = false ∧ testGap gapW (.array 0) = true ∧ testsRun gapW = true ∧ fieldStops gapW (.array 0) = 0 ∧
    testsW.flt.tests.all (fun x => decide (x.unit = .array 0 → x.started = none)) = true ∧
    testsW.flt.tests.contains ⟨.bankBank 0 0, 0, 0, some 0⟩ = true ∧ fieldStops testsW (.bankBank 0 0) = 0 ∧ imgState testsW ≠ 3 ∧
    testsW.flt.tests.contains ⟨.supply 1 0, 8, 0, some 0⟩ = true ∧ fieldStops testsW (.supply 1 0) = 0 ∧
    testsW.flt.tests.all (fun x => decide (x.unit ≠ .vector 0)) = true ∧
    testsW.flt.tests.find? (fun x => x.unit == .array 0) = some ⟨.array 0, 4, 0, none⟩ ∧ booted testsW = true ∧
    0 + 10000000000 ≤ ({ testsW with dev := { testsW.dev with time := 10000000000 } } : W9).dev.time := by decide +kernel
theorem meets_SelfTestsEndAndEventsAreRecorded_event : windowStart (aerW 5).dev.limits (srcHost, 0x8031) = some 0 ∧
    (aerW 5).dev.time < 0 + 1000000 ∧ 0 + 1000000 ≤ (aerW 1000000).dev.time ∧ windowStart upW.dev.limits (srcHost, 0x8031) = none ∧
    rdB (aerW 1000000) Reg.evtCtrl 31 = true ∧ (aerW 1000000).host.d3hot = false ∧ evtUsed (aerW 1000000) < evtEntries (aerW 1000000) ∧
    rdB upW Reg.evtCtrl 31 = false := by decide +kernel
/-- The lanes of a port that is up. -/
def lanesW : W9 := wr64 (Reg.laneMap 1) 0xFFFFFFFF { twinW with flt := { twinW.flt with tests := [⟨.lanes 1, 6, 0, some 0⟩] } }
theorem meets_SelfTestsEndAndEventsAreRecorded_lanes : portUp lanesW 1 = true ∧ rdB64 lanesW (Reg.laneMap 1) 3 = true ∧
    lanesW.flt.tests.contains ⟨.lanes 1, 6, 0, some 0⟩ = true ∧ testsRun lanesW = true ∧ fieldStops lanesW (.lanes 1) = 0 := by decide +kernel
end Sys2Proof.Tests

namespace Sys2Proof.Tests

/-- Debug mode selects tile 0, whose ring 0 is enabled over 4 KiB. -/
def dbgRingW : W9 := pwr 0 (Pg.ringCtrl 0) 0x8000000C (debugW none)
theorem meets_RingsAreEnabledWithinTheirRules : ringOn dbgRingW 0 0 = true ∧ dbgOpen dbgRingW = true ∧ dbgTile dbgRingW = some 0 ∧
    prdF dbgRingW 0 (Pg.ringCtrl 0) 4 0 = 12 ∧ ringBaseOf dbgRingW 0 0 % 2 ^ 12 = 0 ∧ inOneStore (isC 0) (ringBaseOf dbgRingW 0 0) (2 ^ 12) = true ∧
    ringOn dbgRingW 0 1 = false ∧ (0x80000017 : Word32).toNat % 32 = 23 ∧ (0x80000017 : Word32).getLsbD 31 = true := by decide +kernel
end Sys2Proof.Tests

namespace Sys2Proof.Tests

theorem meets_EveryStepKeepsTheCanonicalForms : Memory.wf farEmpty W9.reset.mem.far = true ∧ Memory.wf 0 W9.reset.mem.store = true ∧
    Memory.wf 0 W9.reset.host.hostMem = true ∧ smWf flashEmpty W9.reset.opt.flash = true ∧ smWf regReset W9.reset.bar0 = true ∧
    smWf pageReset W9.reset.page = true := by decide +kernel
theorem meets_EveryStepKeepsTheCanonicalForms_steps : ∃ s', step State.reset = .next s' := ⟨_, rfl⟩
end Sys2Proof.Tests

end
end

section
/-! SUPPORT. Accesses of registers (R14, R17 to R22), the state after reset, and the queue (R13). -/

namespace Sys2Proof.Machine

open Sys2Proof

/-- A command works on the W9 alone: each arm of `exec` lifts a function of the W9. -/
theorem exec_eq_lift (c : Instr) : ∃ f, ∀ s, exec c s = lift f s := by
  cases c
  case warm => unfold exec execWarm; exact ⟨_, fun _ => rfl⟩
  case dbgTilePageAccess => unfold exec execDbgTilePageAccess; exact ⟨_, fun _ => rfl⟩
  case fieldLoss => unfold exec execFieldLoss; exact ⟨_, fun _ => rfl⟩
  all_goals exact ⟨_, fun _ => rfl⟩

/-- What a command does to the W9, read off a run with nothing waiting behind it. -/
def effect (c : Instr) (w : W9) : W9 :=
  match exec c ⟨w, []⟩ with
  | .next s => s.w
  | .fault _ => w
  | .refused _ => w

theorem exec_eq_lift_effect (c : Instr) (s : State) : exec c s = lift (effect c) s := by
  obtain ⟨f, hf⟩ := exec_eq_lift c
  have heffect : effect c = f := funext fun w => by rw [effect, hf]; rfl
  rw [heffect, hf]

theorem step_cons (c : Instr) (w : W9) (rest : List Instr) : step ⟨w, c :: rest⟩ = .next ⟨effect c w, rest⟩ :=
  exec_eq_lift_effect c ⟨w, rest⟩

theorem run_succ (k : Nat) (w : W9) (c : Instr) (rest : List Instr) :
    Host.Core.run core (k + 1) (⟨w, c :: rest⟩ : State) = Host.Core.run core k (⟨effect c w, rest⟩ : State) := by
  have hstep : core.step (⟨w, c :: rest⟩ : State) = .next (⟨effect c w, rest⟩ : State) := step_cons c w rest
  simp only [Host.Core.run, hstep]

theorem run_append (l : List Instr) (w : W9) (rest : List Instr) :
    Host.Core.run core l.length (⟨w, l ++ rest⟩ : State) = .next (⟨l.foldl (fun w c => effect c w) w, rest⟩ : State) := by
  induction l generalizing w with
  | nil => rfl
  | cons c l ih => exact (run_succ l.length w c (l ++ rest)).trans (ih (effect c w))

/-- Settles O6: every arm of `exec` lifts a function of the W9, and a run is the fold of these effects. -/
theorem queueRunsInOrderWithoutInterference : Obligations.QueueRunsInOrderWithoutInterference :=
  ⟨effect, fun c w rest => exec_eq_lift_effect c ⟨w, rest⟩, run_append⟩

/-- Settles O5: the cases of `step`. -/
theorem stepRunsTheFrontCommand : Obligations.StepRunsTheFrontCommand := by
  refine ⟨fun _ _ => rfl, fun ⟨w, _⟩ hq hp => ?_, fun ⟨w, _⟩ hq hp => ?_⟩
  · cases hq
    simp only [step, tick, show w.dev.powered = true from hp, if_pos]
    rfl
  · cases hq
    simp [step, tick, show w.dev.powered = false from hp]

/-- A command whose arm lifts `f` completes with what `f` makes of the W9. -/
theorem yields_of_lift {c : Instr} {s : State} (f : W9 → W9) {P : W9 → Prop} (hexec : exec c s = lift f s) (hP : P (f s.w)) :
    Yields c s P := ⟨f s.w, hexec, hP⟩

/-! ## Access codes, bit by bit (Table 0.5) -/

theorem getLsbD_afterWrite (r : RegRow) (old v : Word32) {i : Nat} (hi : i < 32) :
    (afterWrite r old v).getLsbD i =
      if r.rw.getLsbD i then v.getLsbD i else if r.w1c.getLsbD i && v.getLsbD i then false else old.getLsbD i := by
  simp only [afterWrite, BitVec.getLsbD_or, BitVec.getLsbD_and, BitVec.getLsbD_not, hi, decide_true, Bool.true_and]
  cases r.rw.getLsbD i <;> cases r.w1c.getLsbD i <;> cases v.getLsbD i <;> simp

theorem getLsbD_rcAfter (rc old : Word32) (bump : Nat) {i : Nat} (hi : i < 32) :
    (rcAfter rc old bump).getLsbD i = if rc.getLsbD i then (min bump 0xFFFFFFFF).testBit i else old.getLsbD i := by
  simp only [rcAfter, satAdd32, BitVec.getLsbD_or, BitVec.getLsbD_and, BitVec.getLsbD_not, BitVec.getLsbD_ofNat, hi, decide_true,
    Bool.true_and]
  cases rc.getLsbD i <;> simp

theorem rcAfter_zero (old : Word32) (bump : Nat) : rcAfter 0 old bump = old := by
  refine BitVec.eq_of_getLsbD_eq fun i hi => ?_
  simp [getLsbD_rcAfter _ _ _ hi]

/-! ## Writes -/

/-- A write of a dword that no command and no side effect belongs to is the write by access code. -/
theorem registerWrite_plain {w : W9} {off : Nat} {v : Word64} (hhost : hostAnswers w = true) (halign : off % 4 = 0)
    (hdec : writeDecodes w off = true) (hdbg : inDbgPage off = false) (hcmd : cmdAt off = none)
    (hspecial : specialWrite off (v.setWidth 32) = none) :
    registerWrite (.bar0 off) false v w = plainWrite off (v.setWidth 32) w := by
  simp [registerWrite, hhost, aligned, halign, bar0Write, hdec, hdbg, hcmd, hspecial]

theorem plainWrite_some {off : Nat} {v : Word32} {w : W9} {r : RegRow} (hr : findRow bar0Rows off = some r) :
    plainWrite off v w = wr off (afterWrite r (rd w off) v) w := by simp [plainWrite, hr]

theorem plainWrite_none {off : Nat} {v : Word32} {w : W9} (hr : findRow bar0Rows off = none) : plainWrite off v w = w := by
  simp [plainWrite, hr]

/-- From ARRAY_STATUS up, SEQ_CTRL is the only dword of the control page with a side effect. -/
theorem pageWrite_plain {t : Tile} {off : Nat} {v : Word32} {w : W9} {r : RegRow} (hoff : 0x400 ≤ off) (hseq : off ≠ Pg.seqCtrl)
    (hr : findRow pageRows off = some r) : pageWrite t off v w = pwr t off (afterWrite r (prd w t off) v) w := by
  have h100 : ¬ off < 0x200 := by omega
  have h200 : ¬ off < 0x300 := by omega
  have h300 : ¬ off < 0x400 := by omega
  simp [pageWrite, h100, h200, h300, hseq, pagePlain, hr]

/-- Settles O1: a write by access code, bit by bit (`getLsbD_afterWrite`). -/
theorem registerWriteFollowsAccessCodes : Obligations.RegisterWriteFollowsAccessCodes := by
  refine ⟨fun s off v hhost halign hdec hdbg hcmd hspecial => ?_, fun s t off v r hopen hoff hseq hr => ?_⟩
  · have hplain := registerWrite_plain hhost halign hdec hdbg hcmd (Option.isNone_iff_eq_none.mp hspecial)
    refine ⟨fun r hr => yields_of_lift (registerWrite (.bar0 off) false v) rfl ?_, fun hr => ?_⟩
    · rw [hplain, plainWrite_some hr]
      refine ⟨fun i hi => ?_, fun o ho => rd_wr_ne _ _ ho, rfl⟩
      rw [rd_wr_same, getLsbD_afterWrite _ _ _ hi, BitVec.getLsbD_setWidth, decide_eq_true hi, Bool.true_and]
    · rw [plainWrite_none hr] at hplain
      exact congrArg (fun w => Host.Outcome.next (State.mk w s.pending)) hplain
  · refine yields_of_lift (registerWrite (.page t off) false v) rfl ?_
    simp only [registerWrite, hopen, Bool.not_true, Bool.false_eq_true, if_false]
    rw [pageWrite_plain hoff hseq hr]
    refine ⟨fun i hi => ?_, rfl⟩
    rw [prd_pwr_same, getLsbD_afterWrite _ _ _ hi, BitVec.getLsbD_setWidth, decide_eq_true hi, Bool.true_and]

/-! ## Reads -/

/-- What a read leaves of the dword it clears, whether or not there is a bit to clear. -/
theorem bar0ReadClear_eq {w : W9} {off bump : Nat} (hdec : readDecodes w off = true) (hdbg : inDbgPage off = false) :
    rd (bar0ReadClear off bump w) off = rcAfter (bar0Rc off) (rd w off) bump ∧
      (∀ o, o ≠ off → rd (bar0ReadClear off bump w) o = rd w o) ∧
      bar0ReadClear off bump w = { w with bar0 := (bar0ReadClear off bump w).bar0 } := by
  unfold bar0ReadClear
  simp only [hdec, hdbg, Bool.not_true, Bool.false_eq_true, if_false]
  split
  next hrc => exact ⟨by rw [hrc, rcAfter_zero], fun _ _ => rfl, rfl⟩
  · exact ⟨rd_wr_same _ _ _, fun o ho => rd_wr_ne _ _ ho, rfl⟩

theorem pageRcRead_eq (t : Tile) (off bump : Nat) (w : W9) :
    prd (pageRcRead t off bump w) t off = rcAfter (pageRc off) (prd w t off) bump ∧
      pageRcRead t off bump w = { w with page := (pageRcRead t off bump w).page } := by
  unfold pageRcRead
  split
  next hrc => exact ⟨by rw [hrc, rcAfter_zero], rfl⟩
  · exact ⟨prd_pwr_same _ _ _ _, rfl⟩

theorem rcRead_bar0 {w : W9} {off bump : Nat} (hhost : hostAnswers w = true) (halign : off % 4 = 0) (htime : off ≠ Reg.deviceTime) :
    rcRead (.bar0 off) false bump w = complete (le 4 (bar0View w off).toNat) false (bar0ReadClear off bump w) := by
  simp [rcRead, bar0Read, hhost, aligned, halign, htime]

/-- Settles O2: the view of before the read, then the clear (`bar0ReadClear_eq`), bit by bit (`getLsbD_rcAfter`). -/
theorem readClearsWhatItHasShown : Obligations.ReadClearsWhatItHasShown := by
  refine ⟨fun s off bump hhost halign htime hdec hdbg => yields_of_lift (rcRead (.bar0 off) false bump) rfl ?_,
    fun s t off bump hopen => yields_of_lift (rcRead (.page t off) false bump) rfl ?_⟩
  · obtain ⟨hsame, hother, hframe⟩ := bar0ReadClear_eq (bump := bump) hdec hdbg
    rw [rcRead_bar0 hhost halign htime]
    refine ⟨rfl, rfl, fun i hi => ?_, hother, ?_⟩
    · exact (congrArg (·.getLsbD i) hsame).trans (getLsbD_rcAfter _ _ _ hi)
    · rw [hframe]
      rfl
  · obtain ⟨hsame, hframe⟩ := pageRcRead_eq t off bump s.w
    simp only [rcRead, hopen, Bool.not_true, Bool.false_eq_true, if_false]
    exact ⟨fun i hi => by rw [hsame, getLsbD_rcAfter _ _ _ hi], hframe⟩

/-! ## DEVICE_TIME -/

theorem complete_dev (bs : List Byte) (p : Bool) (w : W9) : (complete bs p w).dev = w.dev := rfl

/-- Outside the debug page a read clears registers and no more. -/
theorem bar0ReadClear_dev {off bump : Nat} (w : W9) (hdbg : inDbgPage off = false) : (bar0ReadClear off bump w).dev = w.dev := by
  unfold bar0ReadClear
  simp only [hdbg, Bool.false_eq_true, if_false]
  split
  · rfl
  · split <;> rfl

theorem misaligned_timeLatch (write : Bool) (off size : Nat) (w : W9) : (misaligned write off size w).dev.timeLatch = w.dev.timeLatch := by
  unfold misaligned
  split
  · rfl
  · cases write <;> simp [completeOnes, complete_dev]

theorem readDecodes_low {w : W9} {off : Nat} (h : off < 0x10000) : readDecodes w off = true := by
  have hsafe : safeDecodes off = true := by simp [safeDecodes, h]
  have hblock : inDbgBlock off = false := by simp [inDbgBlock]; omega
  simp [readDecodes, hsafe, hblock]

theorem bar0View_timeHigh (w : W9) : bar0View w 0x14 = w.dev.timeLatch := by
  simp [bar0View, readDecodes_low, show inDbgPage 0x14 = false from rfl, viewLow, Reg.deviceId, Reg.deviceTime]

/-- Settles O3: the reads of the two dwords of DEVICE_TIME, and that no other read sets the latch. -/
theorem deviceTimeReadsOneInstant : Obligations.DeviceTimeReadsOneInstant := by
  refine ⟨fun s hhost => ⟨?_, fun k => ?_, yields_of_lift (rcRead (.bar0 0x14) false 0) rfl ?_,
    yields_of_lift (rcRead (.bar0 0x10) true 0) rfl ?_, fun off k hoff hdbg => yields_of_lift (rcRead (.bar0 off) false k) rfl ?_⟩, rfl⟩
  · simp [exec, execDeviceTimeLowRead, lift, timeLowRead, hhost, complete]
  · simp [exec, execRcRead, execDeviceTimeLowRead, lift, rcRead, bar0Read, hhost, aligned, Reg.deviceTime]
  · rw [rcRead_bar0 hhost rfl (by decide), bar0View_timeHigh]
    exact ⟨rfl, bar0ReadClear_dev s.w rfl⟩
  · simp [rcRead, bar0Read, hhost, aligned, bar0Wide, Reg.deviceTime, complete, bar0ReadClear_dev, inDbgPage]
  · by_cases halign : off % 4 = 0
    · rw [rcRead_bar0 hhost halign hoff]
      exact congrArg Dev.timeLatch (bar0ReadClear_dev s.w hdbg)
    · simp [rcRead, bar0Read, hhost, aligned, halign, misaligned_timeLatch]

/-! ## The flags of HOSTIF_ERR -/

/-- Every flag of HOSTIF_ERR that is up in `w` is up in `w'`. -/
def HostErrKept (w w' : W9) : Prop := ∀ i, rdB w Reg.hostifErr i = true → rdB w' Reg.hostifErr i = true

theorem HostErrKept.of_bar0 {w w' : W9} (h : w'.bar0 = w.bar0) : HostErrKept w w' := fun i hi => (rdB_of_bar0 h _ i).trans hi

theorem HostErrKept.trans {a b c : W9} (h : HostErrKept a b) (k : HostErrKept b c) : HostErrKept a c := fun i hi => k i (h i hi)

theorem rdB_hostErr_same {i : Nat} (w : W9) (hi : i < 32) : rdB (hostErr i w) Reg.hostifErr i = true := by
  unfold hostErr
  split
  next h => exact h
  · exact rdB_wrB_same _ _ _ _ hi

theorem hostErr_kept (j : Nat) (w : W9) : HostErrKept w (hostErr j w) := by
  intro i hi
  by_cases hij : i = j
  · subst hij
    simp [hostErr, hi]
  · unfold hostErr
    split
    · exact hi
    · exact (rdB_wrB_ne _ _ _ _ _ hij).trans hi

theorem inc_evtLost_kept (n : Nat) (w : W9) : HostErrKept w (inc Reg.evtLost n w) := fun i hi =>
  (rdB_inc_off i n w (by decide)).trans hi

theorem record_kept (r : EventRec) (w : W9) : HostErrKept w (record r w) := by
  refine .trans (b := { w with dev := { w.dev with seq := w.dev.seq + 1 } }) (.of_bar0 rfl) ?_
  unfold record
  dsimp only
  split
  · exact .of_bar0 rfl
  · exact (inc_evtLost_kept 1 _).trans (hostErr_kept 5 _)

theorem openWindow_bar0 (c s : BitVec 16) (w : W9) : (openWindow c s w).bar0 = w.bar0 := by
  unfold openWindow
  split <;> rfl

theorem queueTest_kept (u : TestUnit) (row : Nat) (w : W9) : HostErrKept w (queueTest u row w) := by
  unfold queueTest
  split
  · exact .of_bar0 rfl
  split
  · exact .of_bar0 rfl
  split
  · exact .trans (.of_bar0 (openWindow_bar0 _ _ w)) (record_kept _ _)
  · exact .of_bar0 rfl

theorem seamTest_kept (r : EventRec) (w : W9) : HostErrKept w (seamTest r w) := by
  unfold seamTest
  dsimp only
  split
  · refine .trans ?_ (queueTest_kept _ _ _)
    exact .of_bar0 rfl
  · exact .of_bar0 rfl

theorem emit_kept (r : EventRec) (w : W9) : HostErrKept w (emit r w) := by
  refine (record_kept r w).trans ?_
  unfold emit
  dsimp only
  split
  · exact seamTest_kept _ _
  split
  · exact queueTest_kept _ _ _
  · exact .of_bar0 rfl

/-- Events set flags of HOSTIF_ERR and clear none. -/
theorem raise_kept (c s cs : BitVec 16) (d : List Byte) (w : W9) : HostErrKept w (raise c s cs d w) := by
  unfold raise
  split
  · exact .trans (.of_bar0 (openWindow_bar0 _ _ w)) (emit_kept _ _)
  · exact .of_bar0 rfl

/-! ## Accesses that do nothing else -/

/-- The same answer to the host on both sides. -/
theorem OnlyEvents.complete {w w' : W9} (h : OnlyEvents w w') (bs : List Byte) (p : Bool) :
    OnlyEvents (Machine.complete bs p w) (Machine.complete bs p w') :=
  { h with host_readData := rfl, host_poisoned := rfl }

/-- What R17 names and no more: HOSTIF_ERR bit 0, the event, and 0xFF in every byte of a read. -/
theorem misaligned_eq {w : W9} (write : Bool) (off size : Nat) (hhost : hostAnswers w = true) :
    misaligned write off size w =
      let u := raise0 0x8001 srcHost (le 4 off ++ [BitVec.ofNat 8 (b2n write)]) (hostErr 0 w)
      if write then u else complete (List.replicate size 0xFF) false u := by
  simp [misaligned, hhost, completeOnes]

theorem cmdStatus_ne (r : CmdReg) : (cmdStatus r).1 ≠ Reg.evtLost ∧ (cmdStatus r).1 ≠ Reg.hostifErr ∧ (cmdStatus r).2 < 32 := by
  cases r <;> decide

theorem writeDecodes_cmdOffset {w : W9} (r : CmdReg) (hsafe : safeMode w = false) : writeDecodes w (cmdOffset r) = true := by
  have hblock : inDbgBlock (cmdOffset r) = false := by cases r <;> decide
  simp [writeDecodes, hsafe, hblock]

theorem unlistedOp_eq {w : W9} {r : CmdReg} {v : Word32} (hhost : hostAnswers w = true) (hsafe : safeMode w = false)
    (hop : opListed r v = false) : unlistedOp r v w =
      raise0 0x8006 srcHost (le 4 (cmdOffset r) ++ le 4 v.toNat) (wrB (cmdStatus r).1 (cmdStatus r).2 true w) := by
  simp [unlistedOp, hhost, hsafe, hop, writeDecodes_cmdOffset r hsafe]

/-- Settles O4: what raising an event can do (`raise0_step`), and the flag each access sets. -/
theorem badAccessesHaveNoOtherEffect : Obligations.BadAccessesHaveNoOtherEffect := by
  refine ⟨fun s write off size hhost => yields_of_lift (misaligned write off size) rfl ?_,
    fun s reg v hhost hsafe hop => yields_of_lift (unlistedOp reg v) rfl ?_⟩
  · have hevents := (hostErr_step 0 s.w).trans (raise0_step 0x8001 srcHost (le 4 off ++ [BitVec.ofNat 8 (b2n write)]) _)
    have hflag := raise_kept 0x8001 srcHost csNone (le 4 off ++ [BitVec.ofNat 8 (b2n write)]) _ 0 (rdB_hostErr_same s.w (by decide))
    rw [misaligned_eq write off size hhost]
    cases write
    · exact ⟨rfl, hevents.complete _ _, hflag⟩
    · exact ⟨hevents.host_readData, hevents.complete _ _, hflag⟩
  · obtain ⟨hlost, herr, hbit⟩ := cmdStatus_ne reg
    rw [unlistedOp_eq hhost hsafe hop]
    have hevents := raise0_step 0x8006 srcHost (le 4 (cmdOffset reg) ++ le 4 v.toNat) (wrB (cmdStatus reg).1 (cmdStatus reg).2 true s.w)
    refine ⟨(hevents.rdB _ _ hlost herr).trans (rdB_wrB_same _ _ _ _ hbit), fun i hi =>
      (hevents.rdB _ _ hlost herr).trans (rdB_wrB_ne _ _ _ _ _ hi), ?_⟩
    rw [hevents.regs _ hlost herr, wrB, wrF, rd_wr_same]
    exact hevents

/-- Settles O7: every part of the state after reset as `W9.reset` spells it, the registers by their rows. -/
theorem resetIsPowerOnState : Obligations.ResetIsPowerOnState := by
  refine ⟨rfl, rfl, rfl, rfl, rfl, rfl, fun off r hr => ?_, fun t off r hoff hr => ?_, fun _ => rfl, rfl, rfl, rfl,
    ⟨rfl, rfl, rfl, rfl⟩, rfl, rfl⟩
  · show regReset off = r.reset
    rw [regReset, hr]
  · show pageReset (t.val * 0x1000 + off) = r.reset
    rw [pageReset, show (t.val * 0x1000 + off) % 0x1000 = off by omega, hr]

end Sys2Proof.Machine
end

section
/-! SUPPORT. What the loss of a field, with the reload of an image that it can begin, leaves alone: the registers that tell how a self-test
ended. `Untouched.f` says that `f` keeps them; its proof follows the text of `f`. -/

namespace Sys2Proof.Machine

open Sys2Proof

set_option Elab.async false
/-! ## The registers that the outcome of a failed test is read from -/

/-- TESTS_RUN, LASTING_FAULTS, the fields' counts of lasting faults, GW_ERR and PAIR_CTL. -/
abbrev TestReg (off : Nat) : Prop :=
  off = 0x30403C ∨ off = 0x304044 ∨ (0x100D008 ≤ off ∧ off < 0x1310000 ∧ off % 0x10000 = 0xD008) ∨
    (0x3000004 ≤ off ∧ off < 0x30C0000 ∧ off % 0x1000 = 4) ∨ (0x201004 ≤ off ∧ off < 0x2017B4 ∧ off % 8 = 4)

theorem not_testReg_adapterId (n : Fin 64) : ¬ TestReg (Reg.adapterId n.val) := by unfold Reg.adapterId; omega
theorem not_testReg_adapterVer (n : Fin 64) : ¬ TestReg (Reg.adapterVer n.val) := by unfold Reg.adapterVer; omega
theorem not_testReg_adapterRef (n : Fin 64) : ¬ TestReg (Reg.adapterRef n.val) := by unfold Reg.adapterRef; omega
theorem not_testReg_cplReserved (n : RingIx) : ¬ TestReg (Reg.cplReserved n.val) := by unfold Reg.cplReserved; omega
theorem not_testReg_fieldClk (f : FieldIx) : ¬ TestReg (Reg.fieldClk f.val) := by unfold Reg.fieldClk; omega
theorem not_testReg_fieldFault (f : FieldIx) : ¬ TestReg (Reg.fieldFault f.val) := by unfold Reg.fieldFault; omega
theorem not_testReg_fieldPwr (f : FieldIx) : ¬ TestReg (Reg.fieldPwr f.val) := by unfold Reg.fieldPwr; omega
theorem not_testReg_latPad (f : FieldIx) : ¬ TestReg (Reg.latPad f.val) := by unfold Reg.latPad; omega
theorem not_testReg_parkStatus (f : FieldIx) : ¬ TestReg (Reg.parkStatus f.val) := by unfold Reg.parkStatus; omega
theorem not_testReg_routeStatus (f : FieldIx) : ¬ TestReg (Reg.routeStatus f.val) := by unfold Reg.routeStatus; omega
theorem not_testReg_slotLen (f : FieldIx) : ¬ TestReg (Reg.slotLen f.val) := by unfold Reg.slotLen; omega
theorem not_testReg_txDataFlits (p : PortIx) : ¬ TestReg (Reg.txDataFlits p.val) := by unfold Reg.txDataFlits; omega
theorem not_testReg_imgDigest (n : Fin 8) : ¬ TestReg (Reg.imgDigest n.val) := by unfold Reg.imgDigest; omega
theorem not_testReg_rotMember (n : Fin 16) : ¬ TestReg (Reg.rotMember n.val) := by unfold Reg.rotMember; omega
theorem not_testReg_layerFmt (l : LayerIx) : ¬ TestReg (Reg.layerFmt l.val) := by unfold Reg.layerFmt; omega
theorem not_testReg_errMean (l : LayerIx) : ¬ TestReg (Reg.errMean l.val) := by unfold Reg.errMean; omega
theorem not_testReg_errWindow (l : LayerIx) : ¬ TestReg (Reg.errWindow l.val) := by unfold Reg.errWindow; omega

/-- Those registers read in `w` as in `w₀`. -/
def Untouched (w₀ w : W9) : Prop := ∀ off, TestReg off → rd w off = rd w₀ off

variable {α β : Type} {w₀ w : W9}

theorem Untouched.refl (w : W9) : Untouched w w := fun _ _ => rfl

/-- A change of other parts of the state. -/
theorem Untouched.same {dev : Dev} {page : SMap Word32} {mem : Mem} {tiles : SMap TileS} {routers : SMap (List BufEntry)}
    {fields : SMap FieldS} {gws : SMap GwS} {prec : Prec} {serve : Serve} {kv : KvS} {wt : WeightS} {img checked : Option ImageS}
    {dbg : Dbg} {host : HostS} {side : SideS} {ports : SMap PortS} {pair : PairS} {env : EnvS} {rst : RstS} {opt : OptS} {att : AttS}
    {flt : FaultS} (hw : Untouched w₀ w) :
    Untouched w₀ ⟨dev, w.bar0, page, mem, tiles, routers, fields, gws, prec, serve, kv, wt, img, checked, dbg, host, side, ports, pair,
      env, rst, opt, att, flt⟩ := hw

theorem Untouched.ite {c : Prop} [Decidable c] {a b : W9} (ha : Untouched w₀ a) (hb : Untouched w₀ b) :
    Untouched w₀ (if c then a else b) := by
  split
  · exact ha
  · exact hb

theorem Untouched.iteSnd {c : Prop} [Decidable c] {a b : α × W9} (ha : Untouched w₀ a.2) (hb : Untouched w₀ b.2) :
    Untouched w₀ (if c then a else b).2 := by
  split
  · exact ha
  · exact hb

theorem Untouched.pair {a : α} (hw : Untouched w₀ w) : Untouched w₀ (a, w).2 := hw

theorem Untouched.foldl {f : W9 → α → W9} {l : List α} (hf : ∀ v x, Untouched w₀ v → Untouched w₀ (f v x)) (hw : Untouched w₀ w) :
    Untouched w₀ (l.foldl f w) := by
  induction l generalizing w with
  | nil => exact hw
  | cons x l ih => exact ih (hf w x hw)

/-- A loop over the indices below `n`. -/
theorem Untouched.forRange {n : Nat} {f : Nat → W9 → W9} (hf : ∀ i < n, ∀ v, Untouched w₀ v → Untouched w₀ (f i v))
    (hw : Untouched w₀ w) : Untouched w₀ (Machine.forEach (List.range n) f w) := by
  suffices h : ∀ l : List Nat, (∀ i ∈ l, i < n) → ∀ v, Untouched w₀ v → Untouched w₀ (Machine.forEach l f v) from
    h _ (fun _ => List.mem_range.mp) w hw
  intro l
  induction l with
  | nil => exact fun _ _ hv => hv
  | cons i l ih => exact fun hl v hv => ih (fun j hj => hl j (.tail i hj)) _ (hf i (hl i (.head l)) v hv)

/-! ## Ops -/

section

theorem Untouched.modTile {t : Tile} {f : TileS → TileS} (hw : Untouched w₀ w) : Untouched w₀ (Machine.modTile t f w) :=
  .same hw

theorem Untouched.modField {f : FieldIx} {g : FieldS → FieldS} (hw : Untouched w₀ w) : Untouched w₀ (Machine.modField f g w) :=
  .same hw

theorem Untouched.modPort {p : PortIx} {g : PortS → PortS} (hw : Untouched w₀ w) : Untouched w₀ (Machine.modPort p g w) :=
  .same hw

theorem Untouched.modStream {s : StreamIx} {g : Machine.Stream → Machine.Stream} (hw : Untouched w₀ w) :
    Untouched w₀ (Machine.modStream s g w) := .same hw

theorem Untouched.forEach {α : Type} {l : List α} {f : α → W9 → W9} (hf : ∀ x1 v, Untouched w₀ v → Untouched w₀ (f x1 v)) (hw : Untouched w₀ w) :
    Untouched w₀ (Machine.forEach l f w) := .foldl (fun _ _ h1 => hf _ _ h1) hw

theorem Untouched.onlyIf {b : Bool} {f : W9 → W9} (hf : ∀ v, Untouched w₀ v → Untouched w₀ (f v)) (hw : Untouched w₀ w) :
    Untouched w₀ (Machine.onlyIf b f w) := .ite (hf _ hw) hw

theorem Untouched.drawFree {n : Nat} (hw : Untouched w₀ w) : Untouched w₀ (Machine.drawFree n w) := .same hw

end

/-! ## RegMap -/

section

variable {off : Nat} {t : Tile}

theorem Untouched.wr {off : Nat} {x : Word32} (hw : Untouched w₀ w) (hoff : ¬ TestReg off := by decide) :
    Untouched w₀ (Machine.wr off x w) := fun o ho => (rd_wr_ne x w fun e : o = off => hoff (e ▸ ho)).trans (hw o ho)

theorem Untouched.wr64 {off x : Nat} (hw : Untouched w₀ w) (hoff : ¬ TestReg off := by decide) (hoff' : ¬ TestReg (off + 4) := by decide) :
    Untouched w₀ (Machine.wr64 off x w) := .wr (.wr hw hoff) hoff'

theorem Untouched.wrF {off hi lo x : Nat} (hw : Untouched w₀ w) (hoff : ¬ TestReg off := by decide) :
    Untouched w₀ (Machine.wrF off hi lo x w) := .wr hw hoff

theorem Untouched.wrB {off i : Nat} {b : Bool} (hw : Untouched w₀ w) (hoff : ¬ TestReg off := by decide) :
    Untouched w₀ (Machine.wrB off i b w) := .wrF hw hoff

theorem Untouched.wrB64 {off : Nat} {f : FieldIx} {b : Bool} (hw : Untouched w₀ w) (hoff : ¬ TestReg off := by decide)
    (hoff' : ¬ TestReg (off + 4) := by decide) : Untouched w₀ (Machine.wrB64 off f.val b w) := by
  refine .wrB hw ?_
  rcases Nat.lt_or_ge f.val 32 with hlow | hhigh
  · rwa [Nat.div_eq_of_lt hlow]
  · rwa [show f.val / 32 = 1 by omega]

theorem Untouched.inc {off n : Nat} (hw : Untouched w₀ w) (hoff : ¬ TestReg off := by decide) : Untouched w₀ (Machine.inc off n w) := .wr hw hoff

theorem Untouched.pwr {v : Word32} (hw : Untouched w₀ w) : Untouched w₀ (Machine.pwr t off v w) := .same hw

theorem Untouched.pwrF {hi lo x : Nat} (hw : Untouched w₀ w) : Untouched w₀ (Machine.pwrF t off hi lo x w) :=
  .pwr hw

theorem Untouched.pwrB {i : Nat} {b : Bool} (hw : Untouched w₀ w) : Untouched w₀ (Machine.pwrB t off i b w) :=
  .pwrF hw

end

/-! ## Address -/

section

variable {a : Nat}

theorem Untouched.setFieldStateIn {f g : FieldIx} {x : Nat} (hw : Untouched w₀ w) : Untouched w₀ (Machine.setFieldStateIn f g x w) :=
  .wrF hw (by unfold TestReg; omega)

theorem Untouched.setFieldState {g : FieldIx} {v : Nat} (hw : Untouched w₀ w) : Untouched w₀ (Machine.setFieldState g v w) :=
  .forEach (fun _ _ h1 => .setFieldStateIn h1) hw

theorem Untouched.putFar {b : Byte} (hw : Untouched w₀ w) : Untouched w₀ (Machine.putFar a b w) := by
  unfold Machine.putFar
  split
  · exact .same hw
  · exact hw

theorem Untouched.putFars {a : Nat} {bs : List Byte} (hw : Untouched w₀ w) : Untouched w₀ (Machine.putFars a bs w) := by
  induction bs generalizing a w with
  | nil => exact hw
  | cons b bs ih => exact ih (.putFar hw)

theorem Untouched.clearFarErrors {qs : List Nat} (hw : Untouched w₀ w) : Untouched w₀ (Machine.clearFarErrors qs w) :=
  .same hw

theorem Untouched.writeFar {bs : List Byte} (hw : Untouched w₀ w) : Untouched w₀ (Machine.writeFar a bs w) :=
  .clearFarErrors (.putFars hw)

end

/-! ## Flags -/

section

variable {code source : BitVec 16} {det : List Byte}

/-- Events touch EVT_LOST and HOSTIF_ERR alone. -/
theorem Untouched.ofEvents {w' : W9} (hw : Untouched w₀ w) (h : OnlyEvents w w') : Untouched w₀ w' := fun o ho =>
  (h.regs o (fun e => absurd (e ▸ ho) (by decide)) (fun e => absurd (e ▸ ho) (by decide))).trans (hw o ho)

theorem Untouched.raise {c s cs : BitVec 16} {d : List Byte} (hw : Untouched w₀ w) : Untouched w₀ (Machine.raise c s cs d w) :=
  hw.ofEvents (raise_step c s cs d w)

theorem Untouched.raise0 (hw : Untouched w₀ w) : Untouched w₀ (Machine.raise0 code source det w) := .raise hw

theorem Untouched.raiseS {s : StreamIx} (hw : Untouched w₀ w) : Untouched w₀ (Machine.raiseS code source s det w) :=
  .raise hw

end

/-! ## Attention -/

section

theorem Untouched.setBlock {s : StreamIx} {b : Nat} {d : Option BlockDesc} (hw : Untouched w₀ w) :
    Untouched w₀ (Machine.setBlock s b d w) := .same hw

end

/-! ## HostIf -/

section

theorem Untouched.pushCpl {n : RingIx} {x : CplRec} (hw : Untouched w₀ w) : Untouched w₀ (Machine.pushCpl n x w) :=
  .same hw

end

/-! ## Msg -/

section

variable {m : Msg} {p : PortIx}

theorem Untouched.sendMsgAt {first : Nat} (hw : Untouched w₀ w) : Untouched w₀ (Machine.sendMsgAt first p m w) :=
  .inc (hoff := not_testReg_txDataFlits _) (.modPort hw)

theorem Untouched.sendMsg (hw : Untouched w₀ w) : Untouched w₀ (Machine.sendMsg p m w) := .sendMsgAt hw

theorem Untouched.sendTwin (hw : Untouched w₀ w) : Untouched w₀ (Machine.sendTwin m w) := by
  unfold Machine.sendTwin
  split
  · exact .sendMsg hw
  · exact hw

theorem Untouched.sendTwins (hw : Untouched w₀ w) : Untouched w₀ (Machine.sendTwins m w) :=
  .forEach (fun _ _ h1 => .sendMsg h1) hw

end

/-! ## Streams -/

section

variable {s : StreamIx}

theorem Untouched.syncRecord (hw : Untouched w₀ w) : Untouched w₀ (Machine.syncRecord s w) := by
  unfold Machine.syncRecord
  split
  · exact .writeFar hw
  · exact hw

theorem Untouched.sendFar {purpose : BitVec 8} {stream addr n : Nat} (hw : Untouched w₀ w) :
    Untouched w₀ (Machine.sendFar purpose stream addr n w) :=
  .forEach (fun _ _ h1 => .sendTwin (.modPort h1)) hw

theorem Untouched.mirrorRecord (hw : Untouched w₀ w) : Untouched w₀ (Machine.mirrorRecord s w) := by
  unfold Machine.mirrorRecord
  split
  · exact .ite (.sendFar hw) hw
  · exact hw

theorem Untouched.putStream {g : Machine.Stream → Machine.Stream} (hw : Untouched w₀ w) : Untouched w₀ (Machine.putStream s g w) :=
  .onlyIf (fun _ h2 => .mirrorRecord h2) (.syncRecord (.modStream hw))

theorem Untouched.setState {x : StreamState} (hw : Untouched w₀ w) : Untouched w₀ (Machine.setState s x w) :=
  .putStream hw

theorem Untouched.setChain {l : List Word32} (hw : Untouched w₀ w) : Untouched w₀ (Machine.setChain s l w) :=
  .same hw

end

/-! ## Record -/

section

theorem Untouched.writeHeader (hw : Untouched w₀ w) : Untouched w₀ (Machine.writeHeader w) := by
  unfold Machine.writeHeader
  split
  · exact hw
  · exact .writeFar hw

theorem Untouched.writeAdapterTable (hw : Untouched w₀ w) : Untouched w₀ (Machine.writeAdapterTable w) :=
  .ite hw (.writeFar hw)

end

/-! ## Sets -/

section

theorem Untouched.queueItem {g : Rung} {set : Nat} {sel : Bool} {x : WeightItem} (hw : Untouched w₀ w) :
    Untouched w₀ (Machine.queueItem g set sel x w) := by
  unfold Machine.queueItem
  split
  · exact .same hw
  · exact hw

theorem Untouched.dropItems (hw : Untouched w₀ w) : Untouched w₀ (Machine.dropItems w) := .same hw

end

/-! ## Kv -/

section

variable {st : BlockState} {b i n : Nat} {s : StreamIx}

theorem Untouched.setKvFree (hw : Untouched w₀ w) : Untouched w₀ (Machine.setKvFree n w) := .wr hw

theorem Untouched.setReserve (hw : Untouched w₀ w) : Untouched w₀ (Machine.setReserve s n w) := .same hw

theorem Untouched.freePages (hw : Untouched w₀ w) : Untouched w₀ (Machine.freePages s w) :=
  .ite hw (.setKvFree hw)

theorem Untouched.mirrorBlock (hw : Untouched w₀ w) : Untouched w₀ (Machine.mirrorBlock s b w) :=
  .ite (by
    split
    · exact .sendTwin (.onlyIf (fun _ h1 => .sendFar h1) hw)
    · exact .sendTwin hw) hw

theorem Untouched.putBlock {d : Option BlockDesc} (hw : Untouched w₀ w) : Untouched w₀ (Machine.putBlock s b d w) :=
  .onlyIf (fun _ h3 => .mirrorBlock h3) (by
    split
    · exact .writeFar (.setBlock hw)
    · exact .setBlock hw)

theorem Untouched.syncRoot {i : Fin 256} (hw : Untouched w₀ w) : Untouched w₀ (Machine.syncRoot i w) :=
  .ite hw (by
    split <;> exact .writeFar hw)

theorem Untouched.countRoot {i : Fin 256} {d : ℤ} (hw : Untouched w₀ w) : Untouched w₀ (Machine.countRoot i d w) :=
  .syncRoot (.same hw)

theorem Untouched.removeNode (hw : Untouched w₀ w) : Untouched w₀ (Machine.removeNode i w) := by
  unfold Machine.removeNode
  split
  · exact hw
  · exact .forEach (fun _ _ h3 => .putBlock h3) (.countRoot (.setKvFree (.same hw)))

theorem Untouched.noteDrop {cs : BitVec 16} {node : Byte} (hw : Untouched w₀ w) : Untouched w₀ (Machine.noteDrop cs b node w) :=
  .raise (.inc hw)

theorem Untouched.dropNode (hw : Untouched w₀ w) : Untouched w₀ (Machine.dropNode i w) :=
  .forEach (fun _ _ h1 => .noteDrop (.removeNode h1)) hw

theorem Untouched.dropPrivate {d : BlockDesc} (hw : Untouched w₀ w) : Untouched w₀ (Machine.dropPrivate s b d w) :=
  .noteDrop (.setKvFree (.putBlock hw))

theorem Untouched.dropCand {c : Cand} (hw : Untouched w₀ w) : Untouched w₀ (Machine.dropCand c w) := by
  unfold Machine.dropCand
  split
  · exact .dropNode hw
  · exact .dropPrivate hw

theorem Untouched.dropUntil {s : StreamIx} {need k : Nat} (hw : Untouched w₀ w) : Untouched w₀ (Machine.dropUntil s need k w) := by
  induction k generalizing w with
  | zero => exact hw
  | succ k ih =>
    refine .ite hw ?_
    split
    · exact ih (.dropCand hw)
    · exact hw

theorem Untouched.allocBlock (hw : Untouched w₀ w) : Untouched w₀ (Machine.allocBlock s st b w) :=
  .putBlock (.setReserve (.setKvFree (.drawFree hw)))

theorem Untouched.allocBlocks {bs : List Nat} (hw : Untouched w₀ w) : Untouched w₀ (Machine.allocBlocks s st bs w).2 :=
  .iteSnd (.pair (.forEach (fun _ _ h2 => .allocBlock h2) (.dropUntil hw))) (.pair (.setState (.raiseS (.inc (.same (.dropUntil hw))))))

theorem Untouched.ensureBlocks {a : Nat} (hw : Untouched w₀ w) : Untouched w₀ (Machine.ensureBlocks s a n w).2 :=
  .iteSnd (.pair hw) (.allocBlocks hw)

theorem Untouched.freePrivate (hw : Untouched w₀ w) : Untouched w₀ (Machine.freePrivate s w) :=
  .forEach (fun _ _ h1 => .ite (.putBlock h1) (.freePages (.putBlock h1))) hw

theorem Untouched.modNode {f : PrefixNode → PrefixNode} (hw : Untouched w₀ w) : Untouched w₀ (Machine.modNode i f w) :=
  .same hw

theorem Untouched.releaseNode (hw : Untouched w₀ w) : Untouched w₀ (Machine.releaseNode s i w) := by
  unfold Machine.releaseNode
  split
  · exact .ite (.raiseS hw) (.modNode hw)
  · exact hw

theorem Untouched.releaseShared (hw : Untouched w₀ w) : Untouched w₀ (Machine.releaseShared s w) :=
  .forEach (fun _ _ h1 => .putBlock (by
    split
    · exact .releaseNode h1
    · exact h1)) hw

end

/-! ## Serving -/

section

variable {status : BitVec 8} {n : Fin 64} {c : Nat} {q : Request} {s : StreamIx} {f : WinCount → WinCount}

theorem Untouched.syncClass0 (hw : Untouched w₀ w) : Untouched w₀ (Machine.syncClass0 w) := .wrB hw

theorem Untouched.winModAt {t : Nat} (hw : Untouched w₀ w) : Untouched w₀ (Machine.winModAt t c f w) :=
  .ite (.same hw) (.same hw)

theorem Untouched.winMod (hw : Untouched w₀ w) : Untouched w₀ (Machine.winMod c f w) := .winModAt hw

theorem Untouched.winRefused (hw : Untouched w₀ w) : Untouched w₀ (Machine.winRefused c w) := .winMod hw

theorem Untouched.winEnded (hw : Untouched w₀ w) : Untouched w₀ (Machine.winEnded c w) := .winMod hw

theorem Untouched.adSettle (hw : Untouched w₀ w) : Untouched w₀ (Machine.adSettle n w) :=
  .ite (.writeAdapterTable (.wr (hoff := not_testReg_adapterVer _) (.wr (hoff := not_testReg_adapterId _) hw))) hw

theorem Untouched.adRelease (hw : Untouched w₀ w) : Untouched w₀ (Machine.adRelease n w) :=
  .adSettle (.wrF (hoff := not_testReg_adapterRef _) hw)

theorem Untouched.dropWork (hw : Untouched w₀ w) : Untouched w₀ (Machine.dropWork s w) :=
  .setChain (.same (.same (.same hw)))

theorem Untouched.releaseHoldings (hw : Untouched w₀ w) : Untouched w₀ (Machine.releaseHoldings s w) :=
  .syncClass0 (.putStream (by
    split
    · exact .adRelease (.setReserve (.freePrivate hw))
    · exact .setReserve (.freePrivate hw)))

theorem Untouched.endStream (hw : Untouched w₀ w) : Untouched w₀ (Machine.endStream s status w) :=
  have h2 := Untouched.releaseHoldings (.dropWork (.winEnded (.putStream hw)));
  have h3 := Untouched.ite (.raiseS h2) h2;
  .ite (.sendTwin (.same h3)) h3

theorem Untouched.freeSlot (hw : Untouched w₀ w) : Untouched w₀ (Machine.freeSlot s w) :=
  .syncClass0 (.putStream hw)

theorem Untouched.refuse (hw : Untouched w₀ w) : Untouched w₀ (Machine.refuse q status w) :=
  .pushCpl (.ite (.winRefused (.raise hw)) (.raise hw))

theorem Untouched.refuseSlot (hw : Untouched w₀ w) : Untouched w₀ (Machine.refuseSlot q status w) :=
  .refuse (.freeSlot (.releaseHoldings (.releaseShared (.dropWork hw))))

end

/-! ## Shadow -/

section

variable {s : StreamIx}

theorem Untouched.dropCommits (hw : Untouched w₀ w) : Untouched w₀ (Machine.dropCommits s w) := .same hw

theorem Untouched.dropSlots (hw : Untouched w₀ w) : Untouched w₀ (Machine.dropSlots s w) := .same hw

theorem Untouched.freeShadow {keepPhase : Bool} (hw : Untouched w₀ w) : Untouched w₀ (Machine.freeShadow keepPhase s w) :=
  .freeSlot (.dropCommits (.same (.releaseHoldings (.dropWork (.dropSlots hw)))))

end

/-! ## Flip -/

section

variable {b : Byte} {reason st : Nat} {s : StreamIx}

theorem Untouched.setFlip (hw : Untouched w₀ w) : Untouched w₀ (Machine.setFlip st reason w) := .wrF (.wrF hw)

theorem Untouched.flipStopped (hw : Untouched w₀ w) : Untouched w₀ (Machine.flipStopped b w) := .raise0 hw

theorem Untouched.goOn (hw : Untouched w₀ w) : Untouched w₀ (Machine.goOn s w) :=
  .ite (.ensureBlocks (.setState (.same hw))) (.setState (.same hw))

theorem Untouched.resumeParked (hw : Untouched w₀ w) : Untouched w₀ (Machine.resumeParked s w) :=
  .raiseS (.goOn (.modStream hw))

theorem Untouched.refuseHeld (hw : Untouched w₀ w) : Untouched w₀ (Machine.refuseHeld w) :=
  .forEach (fun _ _ h1 => .refuse (.freeSlot h1)) (.same hw)

theorem Untouched.dropParkAsks (hw : Untouched w₀ w) : Untouched w₀ (Machine.dropParkAsks w) :=
  .forEach (fun _ _ h1 => .modStream h1) hw

theorem Untouched.flipOver (hw : Untouched w₀ w) : Untouched w₀ (Machine.flipOver st reason w) :=
  .dropItems (.dropParkAsks (.same (.wrB (.wr64 (.setFlip hw)))))

theorem Untouched.abortFlip (hw : Untouched w₀ w) : Untouched w₀ (Machine.abortFlip b w) :=
  .forEach (fun _ _ h2 => .resumeParked h2) (.refuseHeld (.flipStopped (.flipOver hw)))

theorem Untouched.setRefill {b : Bool} (hw : Untouched w₀ w) : Untouched w₀ (Machine.setRefill b w) :=
  .forEach (fun _ _ h1 => .modField h1) hw

theorem Untouched.stopFlip (hw : Untouched w₀ w) : Untouched w₀ (Machine.stopFlip w) :=
  .ite hw (.ite (.refuseHeld (.flipStopped (.setRefill (.wr (.flipOver hw))))) (.abortFlip hw))

end

/-! ## Beat -/

section

theorem Untouched.showHeld {f : FieldIx} (hw : Untouched w₀ w) : Untouched w₀ (Machine.showHeld f w) :=
  .wrB (hoff := not_testReg_fieldClk _) hw

end

/-! ## Blocks -/

section

variable {b : Bool} {c : CtxMap} {f : FieldIx} {reason : Nat} {t : Tile}

theorem Untouched.setPark {st : Nat} (hw : Untouched w₀ w) : Untouched w₀ (Machine.setPark f st w) :=
  .modField (.wrF (hoff := not_testReg_parkStatus _) hw)

theorem Untouched.parkRejected (hw : Untouched w₀ w) : Untouched w₀ (Machine.parkRejected f reason w) :=
  .raise0 (.wrF (hoff := not_testReg_parkStatus _) hw)

theorem Untouched.setClock (hw : Untouched w₀ w) : Untouched w₀ (Machine.setClock f b w) :=
  .wrB (hoff := not_testReg_fieldClk _) hw

theorem Untouched.setZones {v : Nat} (hw : Untouched w₀ w) : Untouched w₀ (Machine.setZones f v w) :=
  .ite (.ite hw (.wrF (hoff := not_testReg_fieldPwr _) hw)) (.wrF (hoff := not_testReg_fieldPwr _)
    (.ite hw (.wrF (hoff := not_testReg_fieldPwr _) hw)))

theorem Untouched.setWithheld {g : Withheld → Withheld} (hw : Untouched w₀ w) : Untouched w₀ (Machine.setWithheld f g w) :=
  .showHeld (.modField hw)

theorem Untouched.pulsesBack (hw : Untouched w₀ w) : Untouched w₀ (Machine.pulsesBack f w) := .setWithheld hw

theorem Untouched.clearSeams (hw : Untouched w₀ w) : Untouched w₀ (Machine.clearSeams f w) :=
  .modField (.forEach (fun _ _ h1 => .modField h1) hw)

theorem Untouched.clearField (hw : Untouched w₀ w) : Untouched w₀ (Machine.clearField f w) :=
  .wrB (hoff := not_testReg_routeStatus _) (.modField (.clearSeams (.forEach (fun _ _ h2 => .modTile h2) (.same hw))))

theorem Untouched.zeroed (hw : Untouched w₀ w) : Untouched w₀ (Machine.zeroed f w) :=
  .forEach (fun _ _ h1 => .modTile h1) hw

theorem Untouched.writeProgram {p : Program} (hw : Untouched w₀ w) : Untouched w₀ (Machine.writeProgram t p w) :=
  .same hw

theorem Untouched.writeRing {r : RingMap} (hw : Untouched w₀ w) : Untouched w₀ (Machine.writeRing t r w) :=
  .pwr (.pwr (.pwr (.pwr (.pwrB hw))))

theorem Untouched.writeWindow {v : WindowMap} (hw : Untouched w₀ w) : Untouched w₀ (Machine.writeWindow t v w) :=
  .pwr (.pwr (.pwr hw))

theorem Untouched.putCtx {m : LayerMap} {fmt : Nat} (hw : Untouched w₀ w) : Untouched w₀ (Machine.putCtx m fmt b c t w) :=
  .pwr (.pwr (.pwr hw))

theorem Untouched.putBanks {layers : List LayerMap} (hw : Untouched w₀ w) : Untouched w₀ (Machine.putBanks layers c t w) := by
  unfold Machine.putBanks
  split
  · exact hw
  · exact .putCtx (.putCtx hw)

theorem Untouched.writeTables {g : Rung} (hw : Untouched w₀ w) : Untouched w₀ (Machine.writeTables g f w) :=
  .modField (.wr (hoff := not_testReg_slotLen _) hw)

theorem Untouched.writeField (hw : Untouched w₀ w) : Untouched w₀ (Machine.writeField f w) := by
  unfold Machine.writeField
  split
  · exact .forEach (fun _ _ h10 => by
      split
      · exact .putBanks h10
      · exact h10) (.forEach (fun _ _ h8 => by
      split
      · exact .pwr (.pwr h8)
      · exact h8) (.forEach (fun _ _ h6 => by
      split
      · exact .writeWindow h6
      · exact h6) (.forEach (fun _ _ h4 => by
      split
      · exact .writeRing h4
      · exact h4) (.forEach (fun _ _ h2 => by
      split
      · exact .writeProgram h2
      · exact h2) (.wr (hoff := not_testReg_latPad _) (.writeTables hw))))))
  · exact hw

theorem Untouched.markReset (hw : Untouched w₀ w) : Untouched w₀ (Machine.markReset f b w) := .wrB64 hw

theorem Untouched.abandonDrain (hw : Untouched w₀ w) : Untouched w₀ (Machine.abandonDrain f reason w) :=
  .parkRejected (.pulsesBack (.modField (.setPark hw)))

theorem Untouched.fieldResetDone {cause row : Nat} {timedOut : Bool} {ns : Nat} (hw : Untouched w₀ w) :
    Untouched w₀ (Machine.fieldResetDone f cause row timedOut ns w) :=
  .ite (.raise0 hw) (.raise0 (.raise0 hw))

end

/-! ## Failover -/

section

variable {s : StreamIx}

theorem Untouched.dropFlights (hw : Untouched w₀ w) : Untouched w₀ (Machine.dropFlights w) := .same hw

theorem Untouched.dropShadows (hw : Untouched w₀ w) : Untouched w₀ (Machine.dropShadows w) :=
  .forEach (fun _ _ h1 => .freeShadow h1) hw

theorem Untouched.endStreams {status : BitVec 8} (hw : Untouched w₀ w) : Untouched w₀ (Machine.endStreams status w) :=
  .forEach (fun _ _ h2 => .endStream h2) (.dropShadows (.dropFlights hw))

theorem Untouched.dropReservation (hw : Untouched w₀ w) : Untouched w₀ (Machine.dropReservation s w) := by
  unfold Machine.dropReservation
  dsimp only
  split
  · exact .ite (.wrF (hoff := not_testReg_cplReserved _) hw) hw
  · exact hw

theorem Untouched.releaseSlot (hw : Untouched w₀ w) : Untouched w₀ (Machine.releaseSlot s w) :=
  .ite (.freeShadow hw) (.freeSlot (.dropReservation (.releaseHoldings (.releaseShared (.dropWork hw)))))

theorem Untouched.releaseSlots (hw : Untouched w₀ w) : Untouched w₀ (Machine.releaseSlots w) :=
  .forEach (fun _ _ h1 => .releaseSlot h1) (.dropFlights hw)

theorem Untouched.tellFailing {cause : Fin 5} (hw : Untouched w₀ w) : Untouched w₀ (Machine.tellFailing cause w) :=
  .ite (.sendTwins hw) hw

theorem Untouched.refuseSetups (hw : Untouched w₀ w) : Untouched w₀ (Machine.refuseSetups w) :=
  .forEach (fun _ _ h1 => .refuseSlot h1) (.same hw)

theorem Untouched.unpair {st : Nat} (hw : Untouched w₀ w) : Untouched w₀ (Machine.unpair st w) :=
  .writeHeader (.wrF (.same (.forEach (fun _ _ h2 => .ite (.putStream h2) h2) (.refuseSetups hw))))

end

/-! ## Parking -/

section

variable {f : FieldIx}

theorem Untouched.startWake (hw : Untouched w₀ w) : Untouched w₀ (Machine.startWake f w) :=
  .raise0 (.setPark (.modField hw))

theorem Untouched.gateField (hw : Untouched w₀ w) : Untouched w₀ (Machine.gateField f w) :=
  .raise0 (.setPark (.setZones (.zeroed (.clearField hw))))

end

/-! ## Image -/

section

variable {f : FieldIx} {im : ImageS} {keep : List FieldIx} {k set : Nat} {g : Rung}

theorem Untouched.setImgState {st : Nat} (hw : Untouched w₀ w) : Untouched w₀ (Machine.setImgState st w) :=
  .wrF hw

theorem Untouched.refuseImage {e : LoadErr} (hw : Untouched w₀ w) : Untouched w₀ (Machine.refuseImage e w) := by
  unfold Machine.refuseImage
  split
  exact .raise0 (.setImgState (.wrF (.wrF (.same (.wr hw)))))

theorem Untouched.stopTile {t : Tile} (hw : Untouched w₀ w) : Untouched w₀ (Machine.stopTile t w) :=
  .modTile (.pwrF hw)

theorem Untouched.loaderMeets (hw : Untouched w₀ w) : Untouched w₀ (Machine.loaderMeets f w) := by
  unfold Machine.loaderMeets
  split
  · exact .abandonDrain hw
  · exact .setPark hw
  · exact .modField hw

theorem Untouched.stopImage (hw : Untouched w₀ w) : Untouched w₀ (Machine.stopImage w) :=
  .wrB (.wrB (.dropFlights (.same (.forEach (fun _ _ h5 => .stopTile h5)
    (.forEach (fun _ _ h2 => .modField (.loaderMeets (.forEach (fun _ _ h3 => .stopTile h3) h2))) (.dropItems (.stopFlip hw)))))))

theorem Untouched.setupPrec {layers : List LayerMap} (hw : Untouched w₀ w) : Untouched w₀ (Machine.setupPrec layers w) :=
  .wr64 (.wr (.forEach (fun m _ h => .wr h (not_testReg_layerFmt m.layer)) (.forRange (fun n hn _ h =>
    .wr (.wr (.wr h (not_testReg_layerFmt ⟨n, hn⟩)) (not_testReg_errMean ⟨n, hn⟩)) (not_testReg_errWindow ⟨n, hn⟩)) (.same hw))))

theorem Untouched.setupServe (hw : Untouched w₀ w) : Untouched w₀ (Machine.setupServe g w) :=
  .wr64 (.wr (.wr (.wr64 (.wr (.wr (.wr (.wr (.wr (.same hw)))))))))

theorem Untouched.setupKv (hw : Untouched w₀ w) : Untouched w₀ (Machine.setupKv g w) :=
  .wr64 (.wr64 (.wrF (.wrB (.setKvFree (.wr hw)))))

theorem Untouched.setupRotation {g : Rung} (hw : Untouched w₀ w) : Untouched w₀ (Machine.setupRotation g w) := by
  refine .same (.forRange (fun n hn _ h => ?_) hw)
  split
  · exact .wr h (not_testReg_rotMember ⟨n, hn⟩)
  · exact .wr h (not_testReg_rotMember ⟨n, hn⟩)

theorem Untouched.setupImage {im : ImageS} {k : Nat} {g : Rung} (hw : Untouched w₀ w) : Untouched w₀ (Machine.setupImage im k g w) :=
  .wr64 (.wr64 (.wrF (.wrB (.wrF (.forRange (fun n hn _ h => .wr h (not_testReg_imgDigest ⟨n, hn⟩))
    (.wr64 (.wr64 (.wr64 (.wr64 (.wr64 hw))))))))))

theorem Untouched.clearAdapters (hw : Untouched w₀ w) : Untouched w₀ (Machine.clearAdapters w) :=
  .forRange (fun n hn _ h => .wr (.wr (.wr h (not_testReg_adapterId ⟨n, hn⟩)) (not_testReg_adapterVer ⟨n, hn⟩))
    (not_testReg_adapterRef ⟨n, hn⟩)) (.same hw)

theorem Untouched.loaderReset (hw : Untouched w₀ w) : Untouched w₀ (Machine.loaderReset f w) :=
  .pulsesBack (.writeField (.fieldResetDone (.setPark (.zeroed (.setFieldState (.markReset (.modField (.clearField hw))))))))

theorem Untouched.takeField (hw : Untouched w₀ w) : Untouched w₀ (Machine.takeField keep g f w) :=
  .ite hw (.ite (.writeTables hw) (by
    split
    · exact .startWake hw
    · exact .startWake hw
    · exact hw
    · exact .loaderReset hw))

theorem Untouched.closeField (hw : Untouched w₀ w) : Untouched w₀ (Machine.closeField f w) :=
  .ite hw (.gateField (.setClock (.setFieldState (.markReset (.modField hw)))))

theorem Untouched.queueWeights (hw : Untouched w₀ w) : Untouched w₀ (Machine.queueWeights keep g set w) :=
  .forEach (fun _ _ h1 => .queueItem h1) hw

theorem Untouched.instantiate (hw : Untouched w₀ w) : Untouched w₀ (Machine.instantiate im k g keep set w) :=
  have h4 := Untouched.forEach (fun _ _ h3 => .ite (.takeField h3) (.closeField h3))
    (.setupRotation (.setupServe (.setupImage (.setImgState (.same hw)))));
  .ite h4 (.queueWeights h4)

theorem Untouched.freshImage (hw : Untouched w₀ w) : Untouched w₀ (Machine.freshImage im g w) :=
  .wr64 (.wr (.wr64 (.setupKv (.setupPrec (.clearAdapters (.same hw))))))

theorem Untouched.freeRecords (hw : Untouched w₀ w) : Untouched w₀ (Machine.freeRecords w) :=
  .forEach (fun _ _ h1 => .putStream h1) hw

theorem Untouched.clearImage (hw : Untouched w₀ w) : Untouched w₀ (Machine.clearImage w) :=
  .wr64 (.wr (.wr64 (.wr64 (.wr64 (.wr64 (.wr (.wr (.wr (.forRange (fun n hn _ h => .wr h (not_testReg_layerFmt ⟨n, hn⟩))
    (.forRange (fun n hn _ h => .wr h (not_testReg_rotMember ⟨n, hn⟩)) (.clearAdapters (.same hw))))))))))))

theorem Untouched.reloadTo (hw : Untouched w₀ w) : Untouched w₀ (Machine.reloadTo im k g w) := by
  unfold Machine.reloadTo
  split
  · exact .ite (.instantiate hw) (.freeRecords (.instantiate (.freshImage (.endStreams hw))))
  · exact .freeRecords (.instantiate (.freshImage hw))

theorem Untouched.reloadImage (hw : Untouched w₀ w) : Untouched w₀ (Machine.reloadImage w) := by
  unfold Machine.reloadImage
  split
  · exact hw
  · dsimp only
    split
    · exact .refuseImage (.clearImage (.endStreams (.stopImage hw)))
    · split
      · exact .reloadTo (.stopImage hw)
      · exact .stopImage hw

end

/-! ## Loss -/

section

variable {f : FieldIx} {cause : Nat}

theorem Untouched.noteLoss (hw : Untouched w₀ w) : Untouched w₀ (Machine.noteLoss f cause w) :=
  have h2 := Untouched.wrF (hoff := not_testReg_fieldFault _) (.wrB (hoff := not_testReg_fieldFault _) (.wrB (.wr (.wrB64 (.wrB64 hw)))));
  .ite (.raise0 h2) (.raise0 (.same (.raise0 h2)))

theorem Untouched.dropFieldWork (hw : Untouched w₀ w) : Untouched w₀ (Machine.dropFieldWork f w) :=
  .markReset (.modField hw)

theorem Untouched.releaseToTwin (hw : Untouched w₀ w) : Untouched w₀ (Machine.releaseToTwin w) :=
  .raise0 (.wrB (.releaseSlots hw))

theorem Untouched.afterLoss (hw : Untouched w₀ w) : Untouched w₀ (Machine.afterLoss w) :=
  .ite (.reloadImage (.ite (.unpair (.releaseToTwin (.tellFailing hw))) hw)) hw

theorem Untouched.loseField (hw : Untouched w₀ w) : Untouched w₀ (Machine.loseField f cause w) :=
  .ite hw (.afterLoss (.noteLoss (.dropFieldWork (.setFieldState hw))))

end

end Sys2Proof.Machine
end

section
/-! SUPPORT. Self-tests and the record of an event (R92, R377, R533 to R536). -/

namespace Sys2Proof.Machine

open Sys2Proof

/-! ## Records that queue no test -/

theorem record_flt (r : EventRec) (w : W9) : (record r w).flt = w.flt := by
  unfold record hostErr
  dsimp only
  split
  · rfl
  · split <;> rfl

/-- The codes that queue a test lie below 0x6004, but for 0x9003. -/
theorem emit_eq_record {r : EventRec} (w : W9) (hlow : 0x6004 ≤ r.code.toNat) (hlanes : r.code.toNat ≠ 0x9003) : emit r w = record r w := by
  have hseam : r.code ≠ 0x3021 := fun h => by simp [h] at hlow
  have htest : testOf (record r w) r = none := by
    simp [testOf, hlanes, show ¬ r.code.toNat ≤ 0x1004 by omega, show r.code.toNat ≠ 0x1030 by omega,
      show r.code.toNat ≠ 0x6003 by omega, show r.code.toNat ≠ 0x3001 by omega]
  simp only [emit, if_neg hseam, htest]

theorem raise0_flt {c s : BitVec 16} {d : List Byte} (w : W9) (hlow : 0x6004 ≤ c.toNat) (hlanes : c.toNat ≠ 0x9003) :
    (raise0 c s d w).flt = w.flt := by
  unfold raise0 raise
  split
  · rw [emit_eq_record _ hlow hlanes, record_flt]
    unfold openWindow
    split <;> rfl
  · rfl

/-! ## The record of a logged error (R23, R92, R377, R386) -/

theorem allowed_iff {c s : BitVec 16} {w : W9} (hlimit : everyOccurrence c.toNat = false) :
    allowed w c s = true ↔ ∀ t, windowStart w.dev.limits (s, c) = some t → t + 1000000 ≤ w.dev.time := by
  unfold allowed
  rw [hlimit, Bool.false_or]
  split
  next h => simp [h]
  next t h => simp [h]

theorem aerErrorLogged_early {u c : Word32} {w : W9} {t : Nat} (ht : windowStart w.dev.limits (srcHost, 0x8031) = some t)
    (hnow : w.dev.time < t + 1000000) : aerErrorLogged u c w = w :=
  if_neg fun h => absurd ((allowed_iff (by decide)).mp h t ht) (Nat.not_le.mpr hnow)

/-- Code 0x8031 queues no test, and its detail fills 8 of 16 bytes. -/
theorem aerErrorLogged_due {u c : Word32} {w : W9}
    (hdue : ∀ t, windowStart w.dev.limits (srcHost, 0x8031) = some t → t + 1000000 ≤ w.dev.time) :
    aerErrorLogged u c w = record ⟨0x8031, srcHost, csNone, w.dev.seq, w.dev.time, le 4 u.toNat ++ le 4 c.toNat ++ List.replicate 8 0⟩
      (openWindow 0x8031 srcHost w) :=
  (if_pos ((allowed_iff (by decide)).mpr hdue)).trans
    (emit_eq_record _ (show 0x6004 ≤ (0x8031 : BitVec 16).toNat by decide) (show (0x8031 : BitVec 16).toNat ≠ 0x9003 by decide))

theorem openWindow_limited {c s : BitVec 16} (w : W9) (hlimit : everyOccurrence c.toNat = false) : openWindow c s w =
    { w with dev := { w.dev with limits := ((s, c), w.dev.time) :: w.dev.limits.filter (fun e => decide (e.1 ≠ (s, c))) } } :=
  if_neg (ne_true_of_eq_false hlimit)

theorem record_dev (r : EventRec) (w : W9) : (record r w).dev = { w.dev with seq := w.dev.seq + 1 } := by
  unfold record hostErr
  dsimp only
  split
  · rfl
  · split <;> rfl

/-- The event ring takes a record. -/
abbrev EventRoom (w : W9) : Prop := rdB w Reg.evtCtrl 31 = true ∧ w.host.d3hot = false ∧ evtUsed w < evtEntries w

/-- The two ends of a record (R377). -/
theorem record_eq (r : EventRec) (w : W9) : record r w =
    let v : W9 := { w with dev := { w.dev with seq := w.dev.seq + 1 } }
    if EventRoom w then { v with host := { v.host with evtWait := v.host.evtWait ++ [r] } } else hostErr 5 (inc Reg.evtLost 1 v) := by
  have hroom : EventRoom w ↔ (rdB w Reg.evtCtrl 31 && !w.host.d3hot && decide (evtUsed w < evtEntries w)) = true := by simp [EventRoom, and_assoc]
  simp only [hroom]
  rfl

theorem record_room {r : EventRec} {w : W9} (h : EventRoom w) :
    rd (record r w) Reg.evtLost = rd w Reg.evtLost ∧ (record r w).host.evtWait = w.host.evtWait ++ [r] := by
  rw [record_eq, if_pos h]
  exact ⟨rfl, rfl⟩

theorem rd_hostErr_ne {off i : Nat} (w : W9) (h : off ≠ Reg.hostifErr) : rd (hostErr i w) off = rd w off := by
  unfold hostErr
  split
  · rfl
  · exact rd_wrB_ne _ _ _ h

theorem hostErr_evtWait (i : Nat) (w : W9) : (hostErr i w).host.evtWait = w.host.evtWait := by
  unfold hostErr
  split <;> rfl

theorem record_lost {r : EventRec} {w : W9} (h : ¬ EventRoom w) :
    (record r w).host.evtWait = w.host.evtWait ∧ rd (record r w) Reg.evtLost = satAdd32 (rd w Reg.evtLost) 1 ∧
      rdB (record r w) Reg.hostifErr 5 = true := by
  rw [record_eq, if_neg h]
  exact ⟨hostErr_evtWait _ _, (rd_hostErr_ne _ (by decide)).trans (rd_inc_same _ _ _), rdB_hostErr_same _ (by decide)⟩

/-! ## Counts of ended tests (R535) -/

theorem rd_countTest_ne {u : TestUnit} {all : Nat} {own : Nat → Nat} {off : Nat} (w : W9) (hruns : off ≠ Reg.testsRun) (hall : off ≠ all)
    (hown : ∀ f : FieldIx, off ≠ own f.val) : rd (countTest u all own w) off = rd w off := by
  have hdevice : rd (inc all 1 (inc Reg.testsRun 1 w)) off = rd w off := (rd_inc_ne _ _ hall).trans (rd_inc_ne _ _ hruns)
  unfold countTest
  split
  next f _ => exact (rd_inc_ne _ _ (hown f)).trans hdevice
  · exact hdevice

theorem countTest_frame (u : TestUnit) (all : Nat) (own : Nat → Nat) (w : W9) :
    countTest u all own w = { w with bar0 := (countTest u all own w).bar0 } := by
  unfold countTest
  split <;> rfl

/-- One test more among all, among those that ended so, and of the unit's field. -/
def Counted (u : TestUnit) (all : Nat) (own : Nat → Nat) (w w' : W9) : Prop :=
  rd w' Reg.testsRun = satAdd32 (rd w Reg.testsRun) 1 ∧ rd w' all = satAdd32 (rd w all) 1 ∧
    ∀ f, unitField u = some f → rd w' (own f.val) = satAdd32 (rd w (own f.val)) 1

theorem countTest_counted {u : TestUnit} {all : Nat} {own : Nat → Nat} (w : W9) (hall : all ≠ Reg.testsRun)
    (hown : ∀ f : FieldIx, own f.val ≠ all ∧ own f.val ≠ Reg.testsRun) : Counted u all own w (countTest u all own w) := by
  have hruns : rd (inc all 1 (inc Reg.testsRun 1 w)) Reg.testsRun = satAdd32 (rd w Reg.testsRun) 1 :=
    (rd_inc_ne _ _ hall.symm).trans (rd_inc_same _ _ _)
  have hcount : rd (inc all 1 (inc Reg.testsRun 1 w)) all = satAdd32 (rd w all) 1 := by rw [rd_inc_same, rd_inc_ne _ _ hall]
  unfold Counted countTest
  split
  next f hf =>
    obtain ⟨hfall, hfruns⟩ := hown f
    refine ⟨(rd_inc_ne _ _ hfruns.symm).trans hruns, (rd_inc_ne _ _ hfall.symm).trans hcount, fun g hg => ?_⟩
    cases hf.symm.trans hg
    rw [rd_inc_same, rd_inc_ne _ _ hfall, rd_inc_ne _ _ hfruns]
  next hf => exact ⟨hruns, hcount, fun g hg => absurd (hf.symm.trans hg) nofun⟩

/-- Counts that are not written again stay counted. -/
theorem Counted.trans {u : TestUnit} {all : Nat} {own : Nat → Nat} {w v w' : W9} (h : Counted u all own w v)
    (hruns : rd w' Reg.testsRun = rd v Reg.testsRun) (hall : rd w' all = rd v all)
    (hown : ∀ f : FieldIx, rd w' (own f.val) = rd v (own f.val)) : Counted u all own w w' := by
  obtain ⟨h1, h2, h3⟩ := h
  exact ⟨hruns.trans h1, hall.trans h2, fun f hf => (hown f).trans (h3 f hf)⟩

theorem Counted.ofEvents {u : TestUnit} {all : Nat} {own : Nat → Nat} {w v w' : W9} (h : Counted u all own w v) (k : OnlyEvents v w')
    (hall : all ≠ Reg.evtLost ∧ all ≠ Reg.hostifErr) (hown : ∀ f : FieldIx, own f.val ≠ Reg.evtLost ∧ own f.val ≠ Reg.hostifErr) :
    Counted u all own w w' :=
  h.trans (k.regs _ (by decide) (by decide)) (k.regs _ hall.1 hall.2) fun f => k.regs _ (hown f).1 (hown f).2

/-! ## The loss of a field (R551) -/

theorem rd_wrB64_ne {off k : Nat} (f : FieldIx) (b : Bool) (w : W9) (hlow : off ≠ k) (hhigh : off ≠ k + 4) :
    rd (wrB64 k f.val b w) off = rd w off := rd_wrB_ne _ _ _ (by omega)

theorem rdB64_wrB64_same (off i : Nat) (b : Bool) (w : W9) : rdB64 (wrB64 off i b w) off i = b :=
  rdB_wrB_same _ _ _ _ (Nat.mod_lt _ (by decide))

/-- The registers that a unit has its own of lie above those of the whole device. -/
theorem unitReg_ne {off k : Nat} (hoff : 0x1000000 ≤ off) (hk : k < 0x1000000 := by decide) : off ≠ k := by omega

theorem le_fieldFault (f : FieldIx) : 0x1000000 ≤ Reg.fieldFault f.val := by unfold Reg.fieldFault; omega

/-- The dword of FIELD_STATE of field `g` that holds the state of field `f`. -/
abbrev seenReg (g f : FieldIx) : Nat := 0x01008010 + 0x10000 * g.val + 4 * (f.val / 16)

theorem le_seenReg (g f : FieldIx) : 0x1000000 ≤ seenReg g f := by unfold seenReg; omega

theorem seenReg_ne_fieldFault (g f h : FieldIx) : seenReg g f ≠ Reg.fieldFault h.val := by unfold seenReg Reg.fieldFault; omega

theorem fieldStateSeen_of_rd {w w' : W9} {g f : FieldIx} (h : rd w' (seenReg g f) = rd w (seenReg g f)) :
    fieldStateSeen w' g f = fieldStateSeen w g f := by
  unfold fieldStateSeen rdF
  rw [h]

theorem fieldStateSeen_setFieldStateIn_same (g f : FieldIx) (x : Nat) (w : W9) :
    fieldStateSeen (setFieldStateIn g f x w) g f = x % 4 := by
  have hwidth : 2 * (f.val % 16) + 1 + 1 - 2 * (f.val % 16) = 2 := by omega
  exact (rdF_wrF_same _ _ _ _ _ (by omega) (by omega)).trans (congrArg (fun n => x % 2 ^ n) hwidth)

theorem fieldStateSeen_setFieldStateIn_ne {g h : FieldIx} (f : FieldIx) (x : Nat) (w : W9) (hne : h ≠ g) :
    fieldStateSeen (setFieldStateIn h f x w) g f = fieldStateSeen w g f :=
  fieldStateSeen_of_rd (rd_wrF_ne _ _ _ _ (by unfold seenReg; have := Fin.val_ne_of_ne hne; omega))

/-- Every field of the list sees the new state. -/
theorem fieldStateSeen_forEach {f : FieldIx} {x : Nat} (l : List FieldIx) (w : W9) (g : FieldIx)
    (hg : g ∈ l ∨ fieldStateSeen w g f = x % 4) : fieldStateSeen (forEach l (fun h => setFieldStateIn h f x) w) g f = x % 4 := by
  induction l generalizing w with
  | nil => exact hg.resolve_left nofun
  | cons h l ih =>
    refine ih (setFieldStateIn h f x w) ?_
    by_cases hgh : g = h
    · subst hgh
      exact .inr (fieldStateSeen_setFieldStateIn_same g f x w)
    · refine hg.imp (fun hmem => (List.mem_cons.mp hmem).resolve_left hgh) fun hseen => ?_
      exact (fieldStateSeen_setFieldStateIn_ne f x w (Ne.symm hgh)).trans hseen

theorem fieldStateSeen_setFieldState (f : FieldIx) (x : Nat) (w : W9) (g : FieldIx) :
    fieldStateSeen (setFieldState f x w) g f = x % 4 := fieldStateSeen_forEach allFields w g (.inl (List.mem_finRange g))

theorem rd_setFieldState_imgStatus (f : FieldIx) (x : Nat) (w : W9) :
    rd (setFieldState f x w) Reg.imgStatus = rd w Reg.imgStatus :=
  forEach_frame (fun w => rd w Reg.imgStatus) (fun g => setFieldStateIn g f x) (fun _ w => rd_wrF_ne _ _ _ w (by unfold Reg.imgStatus; omega)) _ _

/-- What the note of a loss writes but for its events. -/
def lossMarks (f : FieldIx) (cause : Nat) (w : W9) : W9 :=
  wrF (Reg.fieldFault f.val) 30 27 cause (wrB (Reg.fieldFault f.val) 31 true (wrB Reg.faultStatus 31 true
    (wr Reg.faultGen (BitVec.ofNat 32 w.opt.gen) (wrB64 Reg.faultLost f.val true (wrB64 Reg.imgLost f.val true w)))))

theorem rd_noteLoss {off : Nat} (f : FieldIx) (cause : Nat) (w : W9) (hlost : off ≠ Reg.evtLost) (herr : off ≠ Reg.hostifErr) :
    rd (noteLoss f cause w) off = rd (lossMarks f cause w) off := by
  unfold noteLoss
  dsimp only
  split
  · exact rd_raise0 _ _ _ _ hlost herr
  · exact (rd_raise0 _ _ _ _ hlost herr).trans (rd_raise0 _ _ _ _ hlost herr)

theorem rd_lossMarks_ne {off : Nat} (f : FieldIx) (cause : Nat) (w : W9) (hoff : off = Reg.imgStatus ∨ 0x1000000 ≤ off)
    (hfault : off ≠ Reg.fieldFault f.val) : rd (lossMarks f cause w) off = rd w off := by
  unfold lossMarks
  have hne : ∀ k, k < 0x1000000 → k ≠ Reg.imgStatus → off ≠ k := fun k hk himg => by
    rcases hoff with rfl | hoff
    · exact himg.symm
    · exact unitReg_ne hoff hk
  rw [rd_wrF_ne _ _ _ _ hfault, rd_wrB_ne _ _ _ hfault, rd_wrB_ne _ _ _ (hne _ (by decide) (by decide)),
    rd_wr_ne _ _ (hne _ (by decide) (by decide)), rd_wrB64_ne _ _ _ (hne _ (by decide) (by decide)) (hne _ (by decide) (by decide)),
    rd_wrB64_ne _ _ _ (hne _ (by decide) (by decide)) (hne _ (by decide) (by decide))]

theorem rd_noteLoss_ne {off : Nat} (f : FieldIx) (cause : Nat) (w : W9) (hoff : off = Reg.imgStatus ∨ 0x1000000 ≤ off)
    (hfault : off ≠ Reg.fieldFault f.val) : rd (noteLoss f cause w) off = rd w off := by
  refine (rd_noteLoss f cause w ?_ ?_).trans (rd_lossMarks_ne f cause w hoff hfault)
  all_goals
    rcases hoff with rfl | hoff
    · decide
    · exact unitReg_ne hoff

theorem rdF_noteLoss_cause (f : FieldIx) (cause : Nat) (w : W9) (hcause : cause < 16) :
    rdF (noteLoss f cause w) (Reg.fieldFault f.val) 30 27 = cause := by
  unfold rdF
  rw [rd_noteLoss _ _ _ (unitReg_ne (le_fieldFault f)) (unitReg_ne (le_fieldFault f))]
  exact (rdF_wrF_same _ _ _ _ _ (by decide) (by decide)).trans (Nat.mod_eq_of_lt hcause)

theorem rd_dropFieldWork {off : Nat} (f : FieldIx) (w : W9) (hoff : off ≠ Reg.fieldsInReset) (hoff' : off ≠ Reg.fieldsInReset + 4) :
    rd (dropFieldWork f w) off = rd w off := (rd_wrB64_ne f _ _ hoff hoff').trans (rd_modField _ _ _ _)

theorem imgState_of_rd {w w' : W9} (h : rd w' Reg.imgStatus = rd w Reg.imgStatus) : imgState w' = imgState w := by
  unfold imgState rdF
  rw [h]

/-- The field is seen as lost by every field, with this cause; the reload of a running image is not spoken of. -/
def LostAs (f : FieldIx) (cause : Nat) (w w' : W9) : Prop :=
  imgState w ≠ 3 → (∀ g, fieldStateSeen w' g f = 3) ∧ rdF w' (Reg.fieldFault f.val) 30 27 = cause

theorem loseField_lostAs {f : FieldIx} {cause : Nat} {w : W9} (hcause : cause < 16) (hnot : fieldLostNow w f = false) :
    LostAs f cause w (loseField f cause w) := by
  intro himg
  have himg' : imgState (noteLoss f cause (dropFieldWork f (setFieldState f 3 w))) ≠ 3 := by
    rwa [imgState_of_rd (rd_noteLoss_ne f cause _ (.inl rfl) (unitReg_ne (le_fieldFault f)).symm),
      imgState_of_rd (rd_dropFieldWork f _ (by decide) (by decide)), imgState_of_rd (rd_setFieldState_imgStatus f 3 w)]
  have hlose : loseField f cause w = noteLoss f cause (dropFieldWork f (setFieldState f 3 w)) := by
    simp only [loseField, hnot, Bool.false_eq_true, if_false, afterLoss, if_neg himg']
  rw [hlose]
  refine ⟨fun g => ?_, rdF_noteLoss_cause f cause _ hcause⟩
  rw [fieldStateSeen_of_rd (rd_noteLoss_ne f cause _ (.inr (le_seenReg g f)) (seenReg_ne_fieldFault g f f)),
    fieldStateSeen_of_rd (rd_dropFieldWork f _ (unitReg_ne (le_seenReg g f)) (unitReg_ne (le_seenReg g f))), fieldStateSeen_setFieldState]

/-! ## What Table 15.3 does for a lasting fault -/

/-- Neither the image's state nor a field's state tells `w` and `v` apart. -/
theorem LostAs.ofStart {f : FieldIx} {cause : Nat} {w v w' : W9} (h : LostAs f cause v w') (himg : imgState v = imgState w) :
    LostAs f cause w w' := fun hw => h (himg.trans_ne hw)

theorem LostAs.ofEnd {f : FieldIx} {cause : Nat} {w v w' : W9} (h : LostAs f cause w v)
    (hseen : ∀ g, rd w' (seenReg g f) = rd v (seenReg g f))
    (hcause : rdF w' (Reg.fieldFault f.val) 30 27 = rdF v (Reg.fieldFault f.val) 30 27) : LostAs f cause w w' := fun hw =>
  ⟨fun g => (fieldStateSeen_of_rd (hseen g)).trans ((h hw).1 g), hcause.trans (h hw).2⟩

theorem rd_proposeMap_ne {off : Nat} (t : Tile) (w : W9) (h : off ≠ Reg.fieldFault (tileField t).val) : rd (proposeMap t w) off = rd w off := by
  unfold proposeMap
  dsimp only
  split
  · rw [rd_wrF_ne _ _ _ _ h, rd_wrF_ne _ _ _ _ h, rd_wrB_ne _ _ _ h]
  · exact rd_wrB_ne _ _ _ h

theorem rdF_proposeMap_cause (t : Tile) (w : W9) :
    rdF (proposeMap t w) (Reg.fieldFault (tileField t).val) 30 27 = rdF w (Reg.fieldFault (tileField t).val) 30 27 := by
  unfold proposeMap
  dsimp only
  split
  · rw [rdF_wrF_ne _ _ _ _ _ _ _ (by decide) (by decide) (by decide), rdF_wrF_ne _ _ _ _ _ _ _ (by decide) (by decide) (by decide)]
    exact rdF_wrF_ne _ _ _ _ _ _ _ (by decide) (by decide) (by decide)
  · exact rdF_wrF_ne _ _ _ _ _ _ _ (by decide) (by decide) (by decide)

theorem rdB_wrF_ne (off hi lo x i : Nat) (w : W9) (h : lo ≤ hi) (hi' : i < 32) (hd : hi < i ∨ i < lo) :
    rdB (wrF off hi lo x w) off i = rdB w off i := by
  unfold rdB wrF
  rw [rd_wr_same, getLsbD_setField _ _ _ _ _ h hi', if_neg (by omega)]

/-- A map is proposed, or the field is marked as beyond repair (R536). -/
theorem proposeMap_marks (t : Tile) (w : W9) : rdB (proposeMap t w) (Reg.fieldFault (tileField t).val) 25 = true ∨
    rdB (proposeMap t w) (Reg.fieldFault (tileField t).val) 24 = true := by
  unfold proposeMap
  dsimp only
  split
  · left
    rw [rdB_wrF_ne _ _ _ _ _ _ (by decide) (by decide) (by decide), rdB_wrF_ne _ _ _ _ _ _ (by decide) (by decide) (by decide),
      rdB_wrB_same _ _ _ _ (by decide)]
  · exact .inr (rdB_wrB_same _ _ _ _ (by decide))

/-- A lasting fault of a tile: its field lost with cause 1, and R536's mark. -/
def TileLost (t : Tile) (w w' : W9) : Prop := LostAs (tileField t) 1 w w' ∧
  (rdB w' (Reg.fieldFault (tileField t).val) 25 = true ∨ rdB w' (Reg.fieldFault (tileField t).val) 24 = true)

theorem tileFault_lost {t : Tile} {w : W9} (hnot : fieldLostNow w (tileField t) = false) : TileLost t w (tileFault t w) :=
  ⟨(loseField_lostAs (by decide) hnot).ofEnd (fun _ => rd_proposeMap_ne t _ (seenReg_ne_fieldFault _ _ _)) (rdF_proposeMap_cause t _),
    proposeMap_marks t _⟩

theorem Untouched.tileFault {w₀ w : W9} {t : Tile} (hw : Untouched w₀ w) : Untouched w₀ (Machine.tileFault t w) := fun off hoff =>
  (rd_proposeMap_ne t _ fun e => not_testReg_fieldFault _ (e ▸ hoff)).trans (hw.loseField off hoff)

theorem Untouched.rdB {w₀ w : W9} {off : Nat} (h : Untouched w₀ w) (hoff : TestReg off) (i : Nat) :
    Machine.rdB w off i = Machine.rdB w₀ off i := by
  unfold Machine.rdB
  rw [h off hoff]

theorem fieldLostNow_of_rd {w w' : W9} {f : FieldIx} (h : rd w' (seenReg f f) = rd w (seenReg f f)) : fieldLostNow w' f = fieldLostNow w f := by
  unfold fieldLostNow
  rw [fieldStateSeen_of_rd h]

/-- GW_ERR notes the channel before its stack fails. -/
theorem channelFault_outcome {g : Gateway} {ch : Fin 4} {w : W9} (hnot : fieldLostNow w (gwField g) = false) :
    LostAs (gwField g) 3 w (channelFault g ch w) ∧ rdB (channelFault g ch w) (Reg.gwErr g.val) 3 = true := by
  have hreg : TestReg (Reg.gwErr g.val) := by unfold Reg.gwErr; omega
  have hgw : 0x1000000 ≤ Reg.gwErr g.val := by unfold Reg.gwErr; omega
  have hseen : seenReg (gwField g) (gwField g) ≠ Reg.gwErr g.val := by unfold seenReg Reg.gwErr; omega
  have hsame : ∀ off, off ≠ Reg.evtLost → off ≠ Reg.hostifErr → off ≠ Reg.gwErr g.val →
      rd (modField (gwField g) (fun s => { s with stackFailed := true })
        (raise0 0x6004 (srcGw g.val) [BitVec.ofNat 8 (stackChannel g ch)] (wrB (Reg.gwErr g.val) 3 true w))) off = rd w off :=
    fun off h1 h2 h3 => (rd_raise0 _ _ _ _ h1 h2).trans (rd_wrB_ne _ _ _ h3)
  have hopen := (fieldLostNow_of_rd (hsame _ (unitReg_ne (le_seenReg _ _)) (unitReg_ne (le_seenReg _ _)) hseen)).trans hnot
  refine ⟨.ofStart (loseField_lostAs (by decide) hopen)
    (imgState_of_rd (hsame _ (by decide) (by decide) (unitReg_ne hgw).symm)), ?_⟩
  refine ((Untouched.refl _).loseField.rdB hreg 3).trans ?_
  exact ((raise0_step _ _ _ _).rdB _ _ (unitReg_ne hgw) (unitReg_ne hgw)).trans (rdB_wrB_same _ _ _ _ (by decide))

theorem seamFault_lostAs {f : FieldIx} {sd : Fin 4} {w : W9} (hnot : fieldLostNow w f = false) : LostAs f 2 w (seamFault f sd w) :=
  loseField_lostAs (w := modField f _ w) (by decide) hnot

/-! ## Lanes and sensors -/

theorem getLsbD_or_ofNat_two_pow {n : Nat} (v : BitVec n) {i : Nat} (hi : i < n) : (v ||| BitVec.ofNat n (2 ^ i)).getLsbD i = true := by
  rw [BitVec.getLsbD_or, BitVec.getLsbD_ofNat, Nat.testBit_two_pow_self, decide_eq_true hi]
  simp

theorem setPort_ports (p : PortIx) (st width : Nat) (w : W9) : (setPort p st width w).ports = w.ports := by
  unfold setPort
  dsimp only
  split <;> simp

theorem setPort_fields (p : PortIx) (st width : Nat) (w : W9) : (setPort p st width w).fields = w.fields := by
  unfold setPort
  dsimp only
  split <;> simp

theorem rd_setPort_ne {off : Nat} (p : PortIx) (st width : Nat) (w : W9) (hlost : off ≠ Reg.evtLost) (herr : off ≠ Reg.hostifErr)
    (hport : off ≠ Reg.portStatus p.val) : rd (setPort p st width w) off = rd w off := by
  unfold setPort
  dsimp only
  split
  · rfl
  · exact (rd_raise0 _ _ _ _ hlost herr).trans (rd_wr_ne _ _ hport)

theorem startPortReset_fields (p : PortIx) (cause : Fin 4) (w : W9) : (startPortReset p cause w).fields = w.fields := by
  unfold startPortReset
  split
  · rfl
  · exact setPort_fields _ _ _ _

theorem startPortReset_failed (p : PortIx) (cause : Fin 4) (w : W9) : (portOf (startPortReset p cause w) p).failed = (portOf w p).failed := by
  unfold startPortReset
  split
  · rfl
  · unfold portOf
    rw [setPort_ports]
    exact (congrArg PortS.failed (portOf_modPort_same p (fun s => { s with reset := some ⟨cause, 0, now w, true, false⟩ }) w)).trans rfl

theorem rd_startPortReset_ne {off : Nat} (p : PortIx) (cause : Fin 4) (w : W9) (hlost : off ≠ Reg.evtLost) (herr : off ≠ Reg.hostifErr)
    (hport : off ≠ Reg.portStatus p.val) : rd (startPortReset p cause w) off = rd w off := by
  unfold startPortReset
  split
  · rfl
  · exact rd_setPort_ne p 3 0 _ hlost herr hport

theorem laneFail_fields (p : PortIx) (k : Fin 34) (w : W9) : (laneFail p k w).fields = w.fields := by
  unfold laneFail
  split
  · exact (startPortReset_fields _ _ _).trans (raise0_fields _ _ _ _)
  · rfl

theorem rd_laneFail_ne {off : Nat} (p : PortIx) (k : Fin 34) (w : W9) (hlost : off ≠ Reg.evtLost) (herr : off ≠ Reg.hostifErr)
    (hstatus : off ≠ Reg.portStatus p.val) (hport : off ≠ Reg.portErr p.val) : rd (laneFail p k w) off = rd w off := by
  unfold laneFail
  split
  · exact (rd_startPortReset_ne p 1 _ hlost herr hstatus).trans ((rd_raise0 _ _ _ _ hlost herr).trans (rd_wrB_ne _ _ _ hport))
  · rfl

/-- A mapped lane of a port that is UP fails: PORT_ERR notes it, and the lane is out (R392). -/
theorem laneFail_marks {p : PortIx} {k : Fin 34} {w : W9} (hup : portUp w p = true) (hmap : rdB64 w (Reg.laneMap p.val) k.val = true) :
    rdB (laneFail p k w) (Reg.portErr p.val) 2 = true ∧ (portOf (laneFail p k w) p).failed.getLsbD k.val = true := by
  have hport : 0x1000000 ≤ Reg.portErr p.val := by unfold Reg.portErr; omega
  have hstatus : Reg.portErr p.val ≠ Reg.portStatus p.val := by unfold Reg.portErr Reg.portStatus; omega
  simp only [laneFail, hup, hmap, Bool.and_true, if_true]
  constructor
  · unfold rdB
    rw [rd_startPortReset_ne _ _ _ (unitReg_ne hport) (unitReg_ne hport) hstatus, rd_raise0 _ _ _ _ (unitReg_ne hport) (unitReg_ne hport)]
    exact rdB_wrB_same _ _ _ _ (by decide)
  · rw [startPortReset_failed, portOf_raise0, portOf_wrB, portOf_modPort_same]
    exact getLsbD_or_ofNat_two_pow _ k.isLt

theorem pairCtl_ne {k : Nat} (i : Nat) (hk : k < 0x201004 := by decide) : Reg.pairCtl i ≠ k := by unfold Reg.pairCtl; omega

theorem retireSensor_retired (i : Nat) (b : Bool) (w : W9) : retired (retireSensor i b w) i b = true := by
  unfold retireSensor
  split
  next h => exact h
  · unfold retired
    rw [(raise0_step _ _ _ _).rdB _ _ (pairCtl_ne i) (pairCtl_ne i), rdB_wrB_off _ _ _ _ (pairCtl_ne i)]
    exact rdB_wrB_same _ _ _ _ (by cases b <;> decide)

theorem retireSensor_keeps {i : Nat} {c : Bool} {w : W9} (b : Bool) (h : retired w i c = true) : retired (retireSensor i b w) i c = true := by
  by_cases hcb : c = b
  · subst hcb
    exact retireSensor_retired i c w
  have hbit : (if c then 17 else 16) ≠ (if b then 17 else 16) := by cases b <;> cases c <;> simp_all
  unfold retireSensor
  split
  · exact h
  · unfold retired
    rw [(raise0_step _ _ _ _).rdB _ _ (pairCtl_ne i) (pairCtl_ne i), rdB_wrB_off _ _ _ _ (pairCtl_ne i), rdB_wrB_ne _ _ _ _ _ hbit]
    exact h

theorem testReg_pairCtl (i : Fin 246) : TestReg (Reg.pairCtl i.val) := by unfold Reg.pairCtl; omega

theorem noteSensorless_untouched (i : Nat) (w : W9) : Untouched w (noteSensorless i w) := by
  unfold noteSensorless
  dsimp only
  split
  · exact .loseField (.raise0 (.refl w))
  · exact .raise0 (.refl w)

/-- The sensors of a pair that fail a check, before the pair is found without sensors. -/
def retireFailed (i : Nat) (passA passB : Bool) (w : W9) : W9 :=
  let w := if passA then w else retireSensor i false w
  if passB then w else retireSensor i true w

theorem retireFailed_retired {i : Nat} {passA passB : Bool} {w : W9} (b : Bool) (hfail : (if b then passB else passA) = false) :
    retired (retireFailed i passA passB w) i b = true := by
  cases b
  case true =>
    have hB : passB = false := hfail
    subst hB
    exact retireSensor_retired i true _
  case false =>
    have hA : passA = false := hfail
    subst hA
    cases passB
    · exact retireSensor_keeps true (retireSensor_retired i false w)
    · exact retireSensor_retired i false w

/-- A check that a sensor of the pair failed. -/
theorem checkPair_fail {i : Nat} {passA passB : Bool} {w : W9} (hfail : (passA && passB) = false) :
    checkPair i passA passB w = retireFailed i passA passB (wrB (Reg.pairCtl i) 18 false w) ∨
      checkPair i passA passB w = noteSensorless i (retireFailed i passA passB (wrB (Reg.pairCtl i) 18 false w)) := by
  have hcheck : checkPair i passA passB w =
      let v := retireFailed i passA passB (wrB (Reg.pairCtl i) 18 false w)
      if !sensorless w i ∧ sensorless v i = true then noteSensorless i v else v := by
    simp only [checkPair, hfail]
    rfl
  rw [hcheck]
  dsimp only
  split
  · exact .inr rfl
  · exact .inl rfl

theorem checkPair_retired {i : Fin 246} {passA passB : Bool} {w : W9} (b : Bool) (hfail : (if b then passB else passA) = false) :
    retired (checkPair i.val passA passB w) i.val b = true := by
  have hpair : (passA && passB) = false := by revert hfail; revert b passA passB; decide
  rcases checkPair_fail (i := i.val) (w := w) hpair with hcheck | hcheck
  · rw [hcheck]
    exact retireFailed_retired b hfail
  · rw [hcheck]
    exact ((noteSensorless_untouched i.val _).rdB (testReg_pairCtl i) _).trans (retireFailed_retired b hfail)

/-! ## The counts after the action of Table 15.3 -/

/-- TESTS_RUN, LASTING_FAULTS, and the fields' counts of lasting faults. -/
abbrev CountReg (off : Nat) : Prop :=
  off = 0x30403C ∨ off = 0x304044 ∨ (0x100D008 ≤ off ∧ off < 0x1310000 ∧ off % 0x10000 = 0xD008)

/-- The counts read in `w` as in `w₀`. -/
def CountsKept (w₀ w : W9) : Prop := ∀ off, CountReg off → rd w off = rd w₀ off

theorem Untouched.counts {w₀ w : W9} (h : Untouched w₀ w) : CountsKept w₀ w := fun off hoff => h off (by omega)

theorem CountsKept.trans {a b c : W9} (h : CountsKept a b) (k : CountsKept b c) : CountsKept a c := fun off hoff =>
  (k off hoff).trans (h off hoff)

theorem CountsKept.wrB {w : W9} {off i : Nat} {b : Bool} (hoff : ¬ CountReg off) : CountsKept w (Machine.wrB off i b w) := fun o ho =>
  rd_wrB_ne _ _ _ fun e : o = off => hoff (e ▸ ho)

theorem retireSensor_counts (i : Fin 246) (b : Bool) (w : W9) : CountsKept w (retireSensor i.val b w) := by
  unfold retireSensor
  split
  · exact fun _ _ => rfl
  · exact (CountsKept.wrB (by unfold Reg.pairCtl; omega)).trans (Untouched.counts (.raise0 (.wrB (.refl _))))

theorem retireFailed_counts (i : Fin 246) (passA passB : Bool) (w : W9) : CountsKept w (retireFailed i.val passA passB w) := by
  unfold retireFailed
  cases passA <;> cases passB
  · exact (retireSensor_counts i false w).trans (retireSensor_counts i true _)
  · exact retireSensor_counts i false w
  · exact retireSensor_counts i true w
  · exact fun _ _ => rfl

theorem checkPair_counts {i : Fin 246} {passA passB : Bool} {w : W9} (hfail : (passA && passB) = false) :
    CountsKept w (checkPair i.val passA passB w) := by
  have hkept : CountsKept w (retireFailed i.val passA passB (Machine.wrB (Reg.pairCtl i.val) 18 false w)) :=
    (CountsKept.wrB (by unfold Reg.pairCtl; omega)).trans (retireFailed_counts i passA passB _)
  rcases checkPair_fail (i := i.val) (w := w) hfail with hcheck | hcheck
  · rwa [hcheck]
  · rw [hcheck]
    exact hkept.trans (noteSensorless_untouched i.val _).counts

theorem channelFault_counts (g : Gateway) (ch : Fin 4) (w : W9) : CountsKept w (channelFault g ch w) :=
  (CountsKept.wrB (by unfold Reg.gwErr; omega)).trans (Untouched.counts (.loseField (.modField (.raise0 (.refl _)))))

theorem laneFail_counts (p : PortIx) (k : Fin 34) (w : W9) : CountsKept w (laneFail p k w) := fun off hoff =>
  rd_laneFail_ne p k w (by unfold Reg.evtLost; omega) (by unfold Reg.hostifErr; omega) (by unfold Reg.portStatus; omega)
    (by unfold Reg.portErr; omega)

theorem sensorFault_counts (i : Fin 246) (lane : Option (Fin 34)) (w : W9) : CountsKept w (sensorFault i lane w) := by
  unfold sensorFault
  split
  next k => exact checkPair_counts (by by_cases hk : k = 0 <;> simp [hk])
  · exact checkPair_counts rfl

/-- No action writes the counts. -/
theorem takeAction_counts (u : TestUnit) (r : TestResult) (w : W9) : CountsKept w (takeAction u r w) := by
  have hbank : ∀ f, CountsKept w (if r = .stuckBit then w else loseField f 7 w) := fun f => by
    split
    · exact fun _ _ => rfl
    · exact Untouched.counts (.loseField (.refl w))
  cases u
  case bankBank t _ => exact hbank (tileField t)
  case opsBank t _ => exact hbank (tileField t)
  case gwChannel g ch => exact channelFault_counts g ch w
  case routerInput t => exact Untouched.counts (.tileFault (.refl w))
  case seam f sd => exact Untouched.counts (.loseField (.modField (.refl w)))
  case array t => exact Untouched.counts (.tileFault (.refl w))
  case vector t => exact Untouched.counts (.tileFault (.refl w))
  case lanes p =>
    unfold takeAction
    dsimp only
    split
    · exact laneFail_counts p _ w
    · exact fun _ _ => rfl
  case sensorPair i => exact sensorFault_counts i _ w
  case supply f _ => exact .wrB (by unfold Reg.fieldFault; omega)

/-! ## What a test that passes undoes -/

/-- What an outcome that passed leaves: the tests, the slots, the fields and the counts. -/
structure PassKeeps (w w' : W9) : Prop where
  flt : w'.flt = w.flt
  serve : w'.serve = w.serve
  fields : w'.fields = w.fields
  testsRun : rd w' Reg.testsRun = rd w Reg.testsRun
  transients : rd w' Reg.transients = rd w Reg.transients
  fieldTransients : ∀ f : FieldIx, rd w' (Reg.fieldTransients f.val) = rd w (Reg.fieldTransients f.val)

theorem PassKeeps.refl (w : W9) : PassKeeps w w := ⟨rfl, rfl, rfl, rfl, rfl, fun _ => rfl⟩

theorem sensorless_wrB_flag (i : Nat) (b : Bool) (w : W9) : sensorless (wrB (Reg.pairCtl i) 18 b w) i = sensorless w i := by
  unfold sensorless retired
  rw [rdB_wrB_ne _ _ _ _ _ (by decide), rdB_wrB_ne _ _ _ _ _ (by decide)]

/-- A pair that passes loses its flag, and is as bare of sensors as before. -/
theorem checkPair_pass (i : Nat) (w : W9) : ∃ env, checkPair i true true w = { wrB (Reg.pairCtl i) 18 false w with env := env } := by
  refine ⟨_, (if_neg fun h => ?_).trans rfl⟩
  obtain ⟨hhad, hnow⟩ := h
  have hsame : sensorless w i = true := (sensorless_wrB_flag i false w).symm.trans hnow
  simp [hsame] at hhad

theorem PassKeeps.wrB {off i : Nat} {b : Bool} {w v : W9} (h : PassKeeps w v) (hruns : Reg.testsRun ≠ off) (htransients : Reg.transients ≠ off)
    (hfields : ∀ f : FieldIx, Reg.fieldTransients f.val ≠ off) : PassKeeps w (Machine.wrB off i b v) where
  flt := h.flt
  serve := h.serve
  fields := h.fields
  testsRun := (rd_wrB_ne _ _ _ hruns).trans h.testsRun
  transients := (rd_wrB_ne _ _ _ htransients).trans h.transients
  fieldTransients f := (rd_wrB_ne _ _ _ (hfields f)).trans (h.fieldTransients f)

theorem PassKeeps.checkPair (i : Fin 246) (w : W9) : PassKeeps w (Machine.checkPair i.val true true w) := by
  obtain ⟨env, henv⟩ := checkPair_pass i.val w
  have hkeeps : PassKeeps w (Machine.wrB (Reg.pairCtl i.val) 18 false w) := (PassKeeps.refl w).wrB
    (by unfold Reg.testsRun Reg.pairCtl; omega) (by unfold Reg.transients Reg.pairCtl; omega)
    (fun f => by unfold Reg.fieldTransients Reg.pairCtl; omega)
  rw [henv]
  exact { hkeeps with }

theorem PassKeeps.setSoftLimit (f : FieldIx) (w : W9) :
    PassKeeps w (Machine.setSoftLimit f false (Machine.wrB (Reg.droopStatus f.val) 31 false w)) := by
  refine (((PassKeeps.refl w).wrB ?_ ?_ ?_).wrB ?_ ?_ ?_).wrB ?_ ?_ ?_
  all_goals simp only [Reg.testsRun, Reg.transients, Reg.fieldTransients, Reg.fieldsIlim, Reg.fieldPwr, Reg.droopStatus]; omega

theorem passAction_keeps (u : TestUnit) (w : W9) : PassKeeps w (passAction u w) := by
  unfold passAction
  split
  next f _ => exact .setSoftLimit f w
  next i =>
    unfold referenceCheck
    split
    · exact .checkPair i w
    · exact .refl w
  · exact .refl w

theorem passAction_supply (f : FieldIx) (p : Fin 42) (w : W9) : rdB64 (passAction (.supply f p) w) Reg.fieldsIlim f.val = false ∧
    rdB (passAction (.supply f p) w) (Reg.droopStatus f.val) 31 = false := by
  refine ⟨rdB64_wrB64_same _ _ _ _, ?_⟩
  show rdB (wrB64 _ _ _ (wrB _ _ _ _)) _ _ = _
  unfold rdB
  rw [rd_wrB64_ne _ _ _ (by unfold Reg.droopStatus Reg.fieldsIlim; omega) (by unfold Reg.droopStatus Reg.fieldsIlim; omega),
    rd_wrB_ne _ _ _ (by unfold Reg.droopStatus Reg.fieldPwr; omega)]
  exact rdB_wrB_same _ _ _ _ (by decide)

/-! ## The commands -/

theorem fieldLostNow_of_fieldStops {w : W9} {u : TestUnit} {f : FieldIx} (hstops : fieldStops w u = 0) (hf : unitField u = some f) :
    fieldLostNow w f = false := by
  by_contra hlost
  simp [fieldStops, hf, Bool.not_eq_false _ ▸ hlost] at hstops

theorem selfTestRun_idle {u : TestUnit} {w : W9} (h : ¬(testsRun w = true ∧ fieldStops w u = 0) ∨ testGap w u = false) :
    selfTestRun u w = w := by
  refine if_neg fun hcond => ?_
  simp only [Bool.and_eq_true, beq_iff_eq] at hcond
  rcases h with h | h
  · exact h hcond.1
  · exact absurd hcond.2 (ne_true_of_eq_false h)

theorem selfTestRun_starts {u : TestUnit} {w : W9} (hruns : testsRun w = true ∧ fieldStops w u = 0) (hgap : testGap w u = true) :
    selfTestRun u w = { w with flt := { w.flt with tests := w.flt.tests.map (fun x =>
      if x.unit = u ∧ x.started = none then { x with started := some w.dev.time } else x) } } :=
  if_pos (by simp [hruns.1, hruns.2, hgap])

/-- The test a SELF_TEST_END speaks of. -/
theorem find_running {u : TestUnit} {l : List SelfTest} (h : ∃ x ∈ l, x.unit = u ∧ x.started ≠ none) :
    ∃ x, l.find? (fun x => x.unit == u && x.started.isSome) = some x ∧ x.unit = u := by
  obtain ⟨x, hx⟩ : ∃ x, l.find? (fun x => x.unit == u && x.started.isSome) = some x := Option.isSome_iff_exists.mp (by
    rw [List.find?_isSome]
    simpa [Option.isSome_iff_ne_none] using h)
  have hunit := List.find?_some hx
  simp only [Bool.and_eq_true, beq_iff_eq] at hunit
  exact ⟨x, hx, hunit.1⟩

theorem selfTestEnd_none {u : TestUnit} {r : TestResult} {w : W9} (h : ∀ x ∈ w.flt.tests, x.unit = u → x.started = none) :
    selfTestEnd u r w = w := by
  have hfind : w.flt.tests.find? (fun x => x.unit == u && x.started.isSome) = none := by
    rw [List.find?_eq_none]
    intro x hx hrun
    simp only [Bool.and_eq_true, beq_iff_eq] at hrun
    simp [h x hx hrun.1] at hrun
  simp only [selfTestEnd, hfind]

theorem selfTestEnd_stopped {u : TestUnit} {r : TestResult} {w : W9} (h : ¬(testsRun w = true ∧ fieldStops w u = 0)) :
    selfTestEnd u r w = w := by
  unfold selfTestEnd
  split
  · rfl
  · exact if_neg (by simpa using h)

theorem selfTestEnd_running {u : TestUnit} {r : TestResult} {w : W9} (hruns : testsRun w = true ∧ fieldStops w u = 0)
    (h : ∃ x ∈ w.flt.tests, x.unit = u ∧ x.started ≠ none) : ∃ x : SelfTest, x.unit = u ∧
      selfTestEnd u r w = if r = .pass then testPassed x (dropTest u w) else testFailed x r (dropTest u w) := by
  obtain ⟨x, hfind, hunit⟩ := find_running h
  exact ⟨x, hunit, by simp [selfTestEnd, hfind, hruns.1, hruns.2]⟩

/-- The state in which a test has left the queue and is counted and its event raised: that in which its outcome acts. -/
structure Ended (u : TestUnit) (all : Nat) (own : Nat → Nat) (w v : W9) : Prop where
  counted : Counted u all own w v
  tests : v.flt.tests = w.flt.tests.filter (fun x => decide (x.unit ≠ u))
  serve : v.serve = w.serve
  fields : v.fields = w.fields
  regs : ∀ off, off ≠ Reg.evtLost → off ≠ Reg.hostifErr → off ≠ Reg.testsRun → off ≠ all → (∀ f : FieldIx, off ≠ own f.val) →
    rd v off = rd w off

theorem ended_raise0 {u : TestUnit} {all : Nat} {own : Nat → Nat} {c s : BitVec 16} {d : List Byte} (w : W9) (hall : all ≠ Reg.testsRun)
    (hevents : all ≠ Reg.evtLost ∧ all ≠ Reg.hostifErr) (hown : ∀ f : FieldIx, own f.val ≠ all ∧ own f.val ≠ Reg.testsRun)
    (hownEvents : ∀ f : FieldIx, own f.val ≠ Reg.evtLost ∧ own f.val ≠ Reg.hostifErr)
    (hlow : 0x6004 ≤ c.toNat) (hlanes : c.toNat ≠ 0x9003) :
    Ended u all own w (raise0 c s d (countTest u all own (dropTest u w))) where
  counted := (countTest_counted (dropTest u w) hall hown).ofEvents (raise0_step c s d _) hevents hownEvents
  tests := by
    rw [raise0_flt _ hlow hlanes, countTest_frame]
    rfl
  serve := by
    rw [raise0_serve, countTest_frame]
    rfl
  fields := by
    rw [raise0_fields, countTest_frame]
    rfl
  regs off hlost herr hruns ho hf := (rd_raise0 _ _ _ _ hlost herr).trans (rd_countTest_ne _ hruns ho hf)

theorem le_fieldTransients (f : FieldIx) : 0x1000000 ≤ Reg.fieldTransients f.val := by unfold Reg.fieldTransients; omega

theorem le_fieldLasting (f : FieldIx) : 0x1000000 ≤ Reg.fieldLasting f.val := by unfold Reg.fieldLasting; omega

theorem testPassed_ended {x : SelfTest} {u : TestUnit} (w : W9) (hx : x.unit = u) :
    ∃ v, Ended u Reg.transients Reg.fieldTransients w v ∧ testPassed x (dropTest u w) = passAction u v := by
  subst hx
  exact ⟨_, ended_raise0 w (by decide) (by decide) (fun f => ⟨unitReg_ne (le_fieldTransients f), unitReg_ne (le_fieldTransients f)⟩)
    (fun f => ⟨unitReg_ne (le_fieldTransients f), unitReg_ne (le_fieldTransients f)⟩) (by decide) (by decide), rfl⟩

theorem testFailed_ended {x : SelfTest} {u : TestUnit} (r : TestResult) (w : W9) (hx : x.unit = u) :
    ∃ v, Ended u Reg.lasting Reg.fieldLasting w v ∧ testFailed x r (dropTest u w) = takeAction u r v := by
  subst hx
  exact ⟨_, ended_raise0 w (by decide) (by decide) (fun f => ⟨unitReg_ne (le_fieldLasting f), unitReg_ne (le_fieldLasting f)⟩)
    (fun f => ⟨unitReg_ne (le_fieldLasting f), unitReg_ne (le_fieldLasting f)⟩) (by decide) (by decide), rfl⟩

section

variable {u : TestUnit} {r : TestResult} {w v : W9}

theorem Ended.fieldState {all : Nat} {own : Nat → Nat} (h : Ended u all own w v) (f : FieldIx) :
    Machine.fieldState v f = Machine.fieldState w f := by
  unfold Machine.fieldState
  rw [h.fields]

theorem Ended.lastingRegs (h : Ended u Reg.lasting Reg.fieldLasting w v) {off : Nat} (hoff : off = Reg.imgStatus ∨ 0x1000000 ≤ off)
    (hown : off % 0x10000 ≠ 0xD008) : rd v off = rd w off := by
  refine h.regs off ?_ ?_ ?_ ?_ fun f => by unfold Reg.fieldLasting; omega
  all_goals
    rcases hoff with rfl | hoff
    · decide
    · exact unitReg_ne hoff

theorem Ended.imgState (h : Ended u Reg.lasting Reg.fieldLasting w v) : Machine.imgState v = Machine.imgState w :=
  imgState_of_rd (h.lastingRegs (.inl rfl) (by decide))

theorem Ended.notLost (h : Ended u Reg.lasting Reg.fieldLasting w v) (hstops : fieldStops w u = 0) {f : FieldIx}
    (hf : unitField u = some f) : fieldLostNow v f = false :=
  (fieldLostNow_of_rd (h.lastingRegs (.inr (le_seenReg f f)) (by unfold seenReg; omega))).trans (fieldLostNow_of_fieldStops hstops hf)

/-- Table 15.3's outcome of a bank's test. -/
def BankOutcome (f : FieldIx) (u : TestUnit) (r : TestResult) (w w' : W9) : Prop :=
  (r = .stuckBit → w'.flt.tests = w.flt.tests.filter (fun x => decide (x.unit ≠ u)) ∧ ∀ g, fieldState w' g = fieldState w g) ∧
    (r ≠ .stuckBit → LostAs f 7 w w')

theorem Ended.bank (h : Ended u Reg.lasting Reg.fieldLasting w v) (hstops : fieldStops w u = 0) {f : FieldIx}
    (hf : unitField u = some f) : BankOutcome f u r w (if r = .stuckBit then v else loseField f 7 v) := by
  refine ⟨fun hr => ?_, fun hr => ?_⟩
  · rw [if_pos hr]
    exact ⟨h.tests, h.fieldState⟩
  · rw [if_neg hr]
    exact (loseField_lostAs (by decide) (h.notLost hstops hf)).ofStart h.imgState

theorem Ended.tile (h : Ended u Reg.lasting Reg.fieldLasting w v) (hstops : fieldStops w u = 0) {t : Tile}
    (hf : unitField u = some (tileField t)) : TileLost t w (tileFault t v) :=
  (tileFault_lost (h.notLost hstops hf)).imp_left fun hlost => hlost.ofStart h.imgState

theorem Ended.lanes (h : Ended u Reg.lasting Reg.fieldLasting w v) (p : PortIx) :
    (∀ k, r = .fail (some k) → portUp w p = true → rdB64 w (Reg.laneMap p.val) k.val = true →
      rdB (takeAction (.lanes p) r v) (Reg.portErr p.val) 2 = true ∧ (portOf (takeAction (.lanes p) r v) p).failed.getLsbD k.val = true) ∧
    ∀ g, Machine.fieldState (takeAction (.lanes p) r v) g = Machine.fieldState w g := by
  refine ⟨fun k hr hup hmap => ?_, fun g => ?_⟩
  · subst hr
    refine laneFail_marks (Eq.trans ?_ hup) (Eq.trans ?_ hmap)
    · unfold portUp portState rdF
      rw [h.lastingRegs (.inr (by unfold Reg.portStatus; omega)) (by unfold Reg.portStatus; omega)]
    · unfold rdB64 rdB
      rw [h.lastingRegs (.inr (by unfold Reg.laneMap; omega)) (by unfold Reg.laneMap; omega)]
  · refine Eq.trans ?_ (h.fieldState g)
    unfold Machine.fieldState takeAction
    dsimp only
    split
    · rw [laneFail_fields]
    · rfl

theorem sensorFault_one (i : Fin 246) (k : Fin 34) (w : W9) : retired (sensorFault i (some k) w) i.val (decide (k ≠ 0)) = true :=
  checkPair_retired _ (by by_cases hk : k = 0 <;> simp [hk])

theorem sensorFault_both (i : Fin 246) (w : W9) : sensorless (sensorFault i none w) i.val = true := by
  unfold sensorless
  rw [Bool.and_eq_true]
  exact ⟨checkPair_retired false rfl, checkPair_retired true rfl⟩

theorem Ended.supply (h : Ended u Reg.lasting Reg.fieldLasting w v) (f : FieldIx) :
    rdB (wrB (Reg.fieldFault f.val) 26 true v) (Reg.fieldFault f.val) 26 = true ∧
      ∀ g, Machine.fieldState (wrB (Reg.fieldFault f.val) 26 true v) g = Machine.fieldState w g :=
  ⟨rdB_wrB_same _ _ _ _ (by decide), h.fieldState⟩

end

theorem selfTestEnd_passed {u : TestUnit} {w : W9} (hruns : testsRun w = true ∧ fieldStops w u = 0)
    (h : ∃ x ∈ w.flt.tests, x.unit = u ∧ x.started ≠ none) :
    ∃ v, Ended u Reg.transients Reg.fieldTransients w v ∧ selfTestEnd u .pass w = passAction u v := by
  obtain ⟨x, hunit, hend⟩ := selfTestEnd_running (r := .pass) hruns h
  obtain ⟨v, hv, hpass⟩ := testPassed_ended w hunit
  exact ⟨v, hv, hend.trans ((if_pos rfl).trans hpass)⟩

theorem selfTestEnd_failed {u : TestUnit} {r : TestResult} {w : W9} (hr : r ≠ .pass) (hruns : testsRun w = true ∧ fieldStops w u = 0)
    (h : ∃ x ∈ w.flt.tests, x.unit = u ∧ x.started ≠ none) :
    ∃ v, Ended u Reg.lasting Reg.fieldLasting w v ∧ selfTestEnd u r w = takeAction u r v := by
  obtain ⟨x, hunit, hend⟩ := selfTestEnd_running (r := r) hruns h
  obtain ⟨v, hv, hfail⟩ := testFailed_ended r w hunit
  exact ⟨v, hv, hend.trans ((if_neg hr).trans hfail)⟩

/-! ## Abandoned tests -/

theorem abandonHolds_iff {u : TestUnit} {w : W9} {x : SelfTest} (hx : w.flt.tests.find? (fun x => x.unit == u) = some x) (why : AbandonWhy) :
    abandonHolds x why w = true ↔ match why with
      | .timeLimit => ∃ t, x.started = some t ∧ t + 10000000000 ≤ w.dev.time
      | .park => fieldStops w u = 1
      | .reset => fieldStops w u = 2
      | .lost => fieldStops w u = 3 := by
  have hunit : x.unit = u := by simpa using List.find?_some hx
  subst hunit
  cases why
  case timeLimit => cases hstart : x.started <;> simp [abandonHolds, hstart]
  all_goals exact beq_iff_eq

theorem selfTestAbandon_none {u : TestUnit} {why : AbandonWhy} {w : W9} (h : ∀ x ∈ w.flt.tests, x.unit ≠ u) :
    selfTestAbandon u why w = w := by
  have hfind : w.flt.tests.find? (fun x => x.unit == u) = none := by simpa [List.find?_eq_none] using h
  simp only [selfTestAbandon, hfind]

theorem selfTestAbandon_holds {u : TestUnit} {why : AbandonWhy} {w : W9} {x : SelfTest}
    (hx : w.flt.tests.find? (fun x => x.unit == u) = some x) (h : ¬(booted w = true ∧ abandonHolds x why w = true)) :
    selfTestAbandon u why w = w := by
  simp only [selfTestAbandon, hx]
  exact if_neg (by rwa [Bool.and_eq_true])

/-- A test leaves the queue, and is counted. -/
theorem selfTestAbandon_counts {u : TestUnit} {why : AbandonWhy} {w : W9} {x : SelfTest}
    (hx : w.flt.tests.find? (fun x => x.unit == u) = some x) (hboot : booted w = true) (hwhy : abandonHolds x why w = true) :
    let w' := selfTestAbandon u why w
    rd w' Reg.testsAbandoned = satAdd32 (rd w Reg.testsAbandoned) 1 ∧
      w'.flt = { w.flt with tests := w.flt.tests.filter (fun x => decide (x.unit ≠ u)) } ∧ w'.mem = w.mem ∧
      w'.page = w.page ∧ w'.serve = w.serve := by
  have hstep : selfTestAbandon u why w =
      raise0 0xD012 srcSteward [BitVec.ofNat 8 x.row, whyCode why] (inc Reg.testsAbandoned 1 (dropTest u w)) := by
    simp only [selfTestAbandon, hx, hboot, hwhy, Bool.and_self, if_true]
  rw [hstep]
  exact ⟨(rd_raise0 _ _ _ _ (by decide) (by decide)).trans (rd_inc_same _ _ _), raise0_flt _ (by decide) (by decide), raise0_mem _ _ _ _,
    raise0_page _ _ _ _, raise0_serve _ _ _ _⟩

theorem next_of_eq {c : Instr} {s : State} (f : W9 → W9) (hexec : exec c s = lift f s) (hsame : f s.w = s.w) : exec c s = .next s :=
  hexec.trans (congrArg (fun w => Host.Outcome.next (State.mk w s.pending)) hsame)

/-- Settles O58: the ends of a test (`selfTestEnd_passed`, `selfTestEnd_failed`) with the action of its unit, and the two ends of a record
(`record_eq`). -/
theorem selfTestsEndAndEventsAreRecorded : Obligations.SelfTestsEndAndEventsAreRecorded := by
  refine fun s => ⟨fun u => ⟨fun h => ?_, fun hruns hgap => ?_, fun r => ⟨fun h => ?_, fun h => ?_, fun hruns h => ?_⟩, fun why h => ?_,
    fun why x hx => ⟨fun h => ?_, fun h => ?_⟩⟩, fun u c => ⟨fun t ht hnow => ?_, fun hdue => ?_⟩⟩
  · exact next_of_eq (selfTestRun u) rfl (selfTestRun_idle h)
  · refine yields_of_lift (selfTestRun u) rfl ?_
    rw [selfTestRun_starts hruns hgap]
    exact ⟨rfl, fun i => List.getElem?_map⟩
  · exact next_of_eq (selfTestEnd u r) rfl (selfTestEnd_none h)
  · exact next_of_eq (selfTestEnd u r) rfl (selfTestEnd_stopped h)
  · refine yields_of_lift (selfTestEnd u r) rfl ⟨fun hr => ?_, fun hr => ?_, fun hr => ?_⟩
    · subst hr
      obtain ⟨v, hv, hend⟩ := selfTestEnd_passed hruns h
      have hkeeps := passAction_keeps u v
      rw [hend]
      refine ⟨hv.counted.trans hkeeps.testsRun hkeeps.transients hkeeps.fieldTransients, (congrArg FaultS.tests hkeeps.flt).trans hv.tests,
        hkeeps.serve.trans hv.serve, fun f => ?_, fun f p hu => ?_⟩
      · unfold fieldState
        rw [hkeeps.fields, hv.fields]
      · subst hu
        exact passAction_supply f p v
    · obtain ⟨v, hv, hend⟩ := selfTestEnd_failed hr hruns h
      have hkept := takeAction_counts u r v
      rw [hend]
      exact hv.counted.trans (hkept _ (by decide)) (hkept _ (by decide)) fun f => hkept _ (by unfold Reg.fieldLasting; omega)
    · obtain ⟨v, hv, hend⟩ := selfTestEnd_failed hr hruns h
      rw [hend]
      cases u
      case bankBank => exact hv.bank hruns.2 rfl
      case opsBank => exact hv.bank hruns.2 rfl
      case gwChannel g ch =>
        exact (channelFault_outcome (hv.notLost hruns.2 rfl)).imp_left fun hlost => hlost.ofStart hv.imgState
      case routerInput => exact hv.tile hruns.2 rfl
      case seam => exact (seamFault_lostAs (hv.notLost hruns.2 rfl)).ofStart hv.imgState
      case array => exact hv.tile hruns.2 rfl
      case vector => exact hv.tile hruns.2 rfl
      case lanes p => exact hv.lanes p
      case sensorPair i => exact ⟨fun k hk => hk ▸ sensorFault_one i k v, fun hk => hk ▸ sensorFault_both i v⟩
      case supply f _ => exact hv.supply f
  · exact next_of_eq (selfTestAbandon u why) rfl (selfTestAbandon_none h)
  · refine next_of_eq (selfTestAbandon u why) rfl (selfTestAbandon_holds hx fun hholds => h ?_)
    exact hholds.imp_right (abandonHolds_iff hx why).mp
  · exact yields_of_lift (selfTestAbandon u why) rfl (selfTestAbandon_counts hx h.1 ((abandonHolds_iff hx why).mpr h.2))
  · exact next_of_eq (aerErrorLogged u c) rfl (aerErrorLogged_early ht hnow)
  · refine yields_of_lift (aerErrorLogged u c) rfl ?_
    rw [aerErrorLogged_due hdue]
    have hevents := (openWindow_step 0x8031 srcHost s.w).trans (record_step
      ⟨0x8031, srcHost, csNone, s.w.dev.seq, s.w.dev.time, le 4 u.toNat ++ le 4 c.toNat ++ List.replicate 8 0⟩ _)
    rw [openWindow_limited s.w (by decide)] at hevents ⊢
    refine ⟨by rw [record_dev], ?_, hevents, fun hroom => record_room (show EventRoom _ from hroom), fun hroom => record_lost fun h => hroom h⟩
    rw [record_dev]
    exact if_pos rfl

end Sys2Proof.Machine
end

section
/-! SUPPORT. The canonical form of the memories and register maps, and that each operation of the model keeps it. `Canon.f` says that `f` keeps
it; its proof follows the text of `f`: `.g hw` where `f` calls `g`, `.ite` where it branches, `.same` where it changes no map. -/

namespace Sys2Proof.Machine

open Sys2Proof

-- Theorems one after another: as many at once as the file holds would take a thread with its stack each.
set_option Elab.async false

/-- The byte memories and the register maps of a W9 are in canonical form. -/
structure Canon (w : W9) : Prop where
  far : Memory.wf farEmpty w.mem.far = true
  store : Memory.wf 0 w.mem.store = true
  hostMem : Memory.wf 0 w.host.hostMem = true
  flash : smWf flashEmpty w.opt.flash = true
  bar0 : smWf regReset w.bar0 = true
  page : smWf pageReset w.page = true

theorem canon_iff {w : W9} : Canon w ↔ MemOk w ∧ RegsOk w :=
  ⟨fun h => ⟨⟨h.far, h.store, h.hostMem, h.flash⟩, h.bar0, h.page⟩,
    fun ⟨⟨hfar, hstore, hhost, hflash⟩, hbar0, hpage⟩ => ⟨hfar, hstore, hhost, hflash, hbar0, hpage⟩⟩

/-! ## The shapes a meaning is written in -/

variable {α β : Type} {w : W9}

/-- A change of parts of the state that hold no map in canonical form. -/
theorem Canon.same {dev : Dev} {mem : Mem} {tiles : SMap TileS} {routers : SMap (List BufEntry)} {fields : SMap FieldS} {gws : SMap GwS}
    {prec : Prec} {serve : Serve} {kv : KvS} {wt : WeightS} {img checked : Option ImageS} {dbg : Dbg} {host : HostS} {side : SideS}
    {ports : SMap PortS} {pair : PairS} {env : EnvS} {rst : RstS} {opt : OptS} {att : AttS} {flt : FaultS} (hw : Canon w)
    (hfar : mem.far = w.mem.far := by rfl) (hstore : mem.store = w.mem.store := by rfl)
    (hhost : host.hostMem = w.host.hostMem := by rfl) (hflash : opt.flash = w.opt.flash := by rfl) :
    Canon ⟨dev, w.bar0, w.page, mem, tiles, routers, fields, gws, prec, serve, kv, wt, img, checked, dbg, host, side, ports, pair, env,
      rst, opt, att, flt⟩ :=
  ⟨hfar ▸ hw.far, hstore ▸ hw.store, hhost ▸ hw.hostMem, hflash ▸ hw.flash, hw.bar0, hw.page⟩

theorem Canon.pair {a : α} (hw : Canon w) : Canon (a, w).2 := hw

/-- What a function that answers a pair leaves, taken out of the pair. -/
theorem Canon.ofSnd {p : α × W9} {a : α} (hp : Canon p.2) (e : p = (a, w)) : Canon w := by
  rw [e] at hp
  exact hp

theorem Canon.ite {c : Prop} [Decidable c] {a b : W9} (ha : Canon a) (hb : Canon b) : Canon (if c then a else b) := by
  split
  · exact ha
  · exact hb

theorem Canon.iteSnd {c : Prop} [Decidable c] {a b : α × W9} (ha : Canon a.2) (hb : Canon b.2) : Canon (if c then a else b).2 := by
  split
  · exact ha
  · exact hb

theorem Canon.foldl {f : W9 → α → W9} {l : List α} (hf : ∀ v x, Canon v → Canon (f v x)) (hw : Canon w) : Canon (l.foldl f w) := by
  induction l generalizing w with
  | nil => exact hw
  | cons x l ih => exact ih (hf w x hw)

theorem Canon.foldlSnd {f : β × W9 → α → β × W9} {l : List α} {p : β × W9} (hf : ∀ q x, Canon q.2 → Canon (f q x).2) (hp : Canon p.2) :
    Canon (l.foldl f p).2 := by
  induction l generalizing p with
  | nil => exact hp
  | cons x l ih => exact ih (hf p x hp)

/-! ## Ops -/

section

variable {t : Tile}

theorem Canon.modTile {f : TileS → TileS} (hw : Canon w) : Canon (Machine.modTile t f w) := .same hw

theorem Canon.modField {f : FieldIx} {g : FieldS → FieldS} (hw : Canon w) : Canon (Machine.modField f g w) :=
  .same hw

theorem Canon.modGw {g : Gateway} {h : GwS → GwS} (hw : Canon w) : Canon (Machine.modGw g h w) := .same hw

theorem Canon.modPort {p : PortIx} {g : PortS → PortS} (hw : Canon w) : Canon (Machine.modPort p g w) :=
  .same hw

theorem Canon.modStream {s : StreamIx} {g : Machine.Stream → Machine.Stream} (hw : Canon w) : Canon (Machine.modStream s g w) :=
  .same hw

theorem Canon.modLayer {l : LayerIx} {g : LayerS → LayerS} (hw : Canon w) : Canon (Machine.modLayer l g w) :=
  .same hw

theorem Canon.setRouter {b : List BufEntry} (hw : Canon w) : Canon (Machine.setRouter t b w) := .same hw

theorem Canon.forEach {α : Type} {l : List α} {f : α → W9 → W9} (hf : ∀ x1 v, Canon v → Canon (f x1 v)) (hw : Canon w) :
    Canon (Machine.forEach l f w) := .foldl (fun _ _ h1 => hf _ _ h1) hw

theorem Canon.onlyIf {b : Bool} {f : W9 → W9} (hf : ∀ v, Canon v → Canon (f v)) (hw : Canon w) : Canon (Machine.onlyIf b f w) :=
  .ite (hf _ hw) hw

theorem Canon.drawFree {n : Nat} (hw : Canon w) : Canon (Machine.drawFree n w) := .same hw

end

/-! ## RegMap -/

section

variable {b : Bool} {hi i lo n off v x : Nat} {t : Tile}

theorem Canon.wr {off : Nat} {v : Word32} (hw : Canon w) : Canon (Machine.wr off v w) :=
  { hw with bar0 := smPut_wf _ _ _ _ hw.bar0 }

theorem Canon.wr64 (hw : Canon w) : Canon (Machine.wr64 off v w) := .wr (.wr hw)

theorem Canon.wrF (hw : Canon w) : Canon (Machine.wrF off hi lo x w) := .wr hw

theorem Canon.wrB (hw : Canon w) : Canon (Machine.wrB off i b w) := .wrF hw

theorem Canon.wrB64 (hw : Canon w) : Canon (Machine.wrB64 off i b w) := .wrB hw

theorem Canon.inc (hw : Canon w) : Canon (Machine.inc off n w) := .wr hw

theorem Canon.pwr {t : Tile} {off : Nat} {v : Word32} (hw : Canon w) : Canon (Machine.pwr t off v w) :=
  { hw with page := smPut_wf _ _ _ _ hw.page }

theorem Canon.pwr64 (hw : Canon w) : Canon (Machine.pwr64 t off v w) := .pwr (.pwr hw)

theorem Canon.pwrF (hw : Canon w) : Canon (Machine.pwrF t off hi lo x w) := .pwr hw

theorem Canon.pwrB (hw : Canon w) : Canon (Machine.pwrB t off i b w) := .pwrF hw

theorem Canon.pwrB64 (hw : Canon w) : Canon (Machine.pwrB64 t off i b w) := .pwrB hw

theorem Canon.pinc (hw : Canon w) : Canon (Machine.pinc t off n w) := .pwr hw

end

/-! ## Address -/

section

variable {g : FieldIx} {v : Nat}

theorem Canon.setFieldStateIn {f : FieldIx} (hw : Canon w) : Canon (Machine.setFieldStateIn f g v w) :=
  .wrF hw

theorem Canon.setFieldState (hw : Canon w) : Canon (Machine.setFieldState g v w) :=
  .forEach (fun _ _ h1 => .setFieldStateIn h1) hw

theorem Canon.putFar {a : Nat} {b : Byte} (hw : Canon w) : Canon (Machine.putFar a b w) := by
  unfold Machine.putFar
  split
  · exact { hw with far := smPut_wf _ _ _ _ hw.far }
  · exact hw

theorem Canon.putFars {a : Nat} {bs : List Byte} (hw : Canon w) : Canon (Machine.putFars a bs w) := by
  induction bs generalizing a w with
  | nil => exact hw
  | cons b bs ih => exact ih (.putFar hw)

theorem Canon.clearFarErrors {qs : List Nat} (hw : Canon w) : Canon (Machine.clearFarErrors qs w) := .same hw

theorem Canon.writeFar {a : Nat} {bs : List Byte} (hw : Canon w) : Canon (Machine.writeFar a bs w) :=
  .clearFarErrors (.putFars hw)

theorem Canon.putHost {a : Nat} {bs : List Byte} (hw : Canon w) : Canon (Machine.putHost a bs w) :=
  { hw with hostMem := putBytes_wf _ _ _ _ hw.hostMem }

end

/-! ## Flags -/

section

variable {code source : BitVec 16} {r : EventRec} {det : List Byte} {i : Nat} {t : Tile}

theorem Canon.vectorDue {v : Fin 256} (hw : Canon w) : Canon (Machine.vectorDue v w) := .same hw

theorem Canon.hostErr (hw : Canon w) : Canon (Machine.hostErr i w) := .ite hw (.vectorDue (.wrB hw))

theorem Canon.record (hw : Canon w) : Canon (Machine.record r w) :=
  .ite (.same (.same hw)) (.hostErr (.inc (.same hw)))

theorem Canon.openWindow (hw : Canon w) : Canon (Machine.openWindow code source w) := .ite hw (.same hw)

theorem Canon.queueTest {u : TestUnit} {row : Nat} (hw : Canon w) : Canon (Machine.queueTest u row w) :=
  .ite hw (.ite (.same hw) (.ite (.record (.openWindow hw)) hw))

theorem Canon.seamTest (hw : Canon w) : Canon (Machine.seamTest r w) :=
  .ite (.queueTest (.same hw)) (.same hw)

theorem Canon.emit (hw : Canon w) : Canon (Machine.emit r w) :=
  .ite (.seamTest (.record hw)) (by
    split
    · exact .queueTest (.record hw)
    · exact .record hw)

theorem Canon.raise {cs : BitVec 16} (hw : Canon w) : Canon (Machine.raise code source cs det w) :=
  .ite (.emit (.openWindow hw)) hw

theorem Canon.raise0 (hw : Canon w) : Canon (Machine.raise0 code source det w) := .raise hw

theorem Canon.raiseS {s : StreamIx} (hw : Canon w) : Canon (Machine.raiseS code source s det w) := .raise hw

theorem Canon.raiseT (hw : Canon w) : Canon (Machine.raiseT t code det w) := .raise hw

theorem Canon.tileErr (hw : Canon w) : Canon (Machine.tileErr t i w) := .pwrB hw

end

/-! ## Operands -/

section

variable {a n q : Nat} {t : Tile}

theorem Canon.noteCE (hw : Canon w) : Canon (Machine.noteCE t q w) :=
  have h1 := Canon.tileErr (.pinc hw);
  .ite h1 (.onlyIf (fun _ h2 => .modTile h2) (.raiseT h1))

theorem Canon.writeStore {t : Tile} {a : Nat} {bs : List Byte} (hw : Canon w) : Canon (Machine.writeStore t a bs w) :=
  .modTile { hw with store := putBytes_wf _ _ _ _ hw.store }

theorem Canon.clearStore {t : Tile} (hw : Canon w) : Canon (Machine.clearStore t w) :=
  { hw with store := smFilter_wf _ _ _ _ hw.store }

theorem Canon.ringWrite {r : RingIx} {bs : List Byte} (hw : Canon w) : Canon (Machine.ringWrite t r bs w) :=
  .pwr (.ite (.writeStore (.writeStore hw)) (.writeStore hw))

theorem Canon.noteUE {cs : BitVec 16} (hw : Canon w) : Canon (Machine.noteUE t q cs w) :=
  .raise (.tileErr (.pinc hw))

theorem Canon.setTaint {fmq : Bool} (hw : Canon w) : Canon (Machine.setTaint t fmq w) := .modTile hw

theorem Canon.readEffects (hw : Canon w) : Canon (Machine.readEffects t a n w) :=
  .forEach (fun _ _ h1 => .ite (.setTaint (.noteUE h1)) (.ite (.noteCE h1) h1)) hw

theorem Canon.readEffects0 (hw : Canon w) : Canon (Machine.readEffects0 t a n w) :=
  .forEach (fun _ _ h1 => .ite (.noteUE h1) (.ite (.noteCE h1) h1)) hw

end

/-! ## Hazard -/

section

variable {cs : List Cond} {a n : Nat} {t : Tile} {f : W9 → W9}

theorem Canon.trap {c : Fin 5} {always : Bool} {src : BitVec 16} {f : FieldIx} {addr : LAddr} {unit : Byte} {other : BitVec 16} (hw : Canon w) :
    Canon (Machine.trap c always src f addr unit other w) :=
  .ite (have h3 := Canon.ite (.same (.inc hw)) (.raise0 (.inc (.inc hw))); .ite (.same (.raise0 h3)) (.raise0 h3)) hw

theorem Canon.consume (hw : Canon w) : Canon (Machine.consume t cs w) :=
  .forEach (fun _ _ h1 => by
    split
    · exact .pwr h1
    · exact h1) hw

theorem Canon.holdBundle (hw : Canon w) : Canon (Machine.holdBundle t w) := .trap (.pwrF (.pinc hw))

theorem Canon.goBundle (hf : ∀ v, Canon v → Canon (f v)) (hw : Canon w) : Canon (Machine.goBundle t cs f w) :=
  hf _ (.consume (.pwrF hw))

theorem Canon.issue {more : Bool} (hf : ∀ v, Canon v → Canon (f v)) (hw : Canon w) : Canon (Machine.issue t cs more f w) :=
  .ite (.ite (.goBundle (fun _ h1 => hf _ h1) hw) (.holdBundle hw)) hw

theorem Canon.earlyCheck (hw : Canon w) : Canon (Machine.earlyCheck t a n w) := .ite (.trap hw) hw

theorem Canon.schedRead (hw : Canon w) : Canon (Machine.schedRead t a n w) := .readEffects (.earlyCheck hw)

theorem Canon.addSignal {c : CounterIx} {k : Nat} (hw : Canon w) : Canon (Machine.addSignal t c k w) :=
  .ite (.pwr hw) (.raiseT (.tileErr (.pwr hw)))

theorem Canon.announce {c : Option CounterIx} (hw : Canon w) : Canon (Machine.announce t c w) := by
  unfold Machine.announce
  split
  · exact .addSignal hw
  · exact hw

theorem Canon.setTag {g : Tag} {done pending : Bool} (hw : Canon w) : Canon (Machine.setTag t g done pending w) :=
  .pwrB64 (.pwrB64 hw)

end

/-! ## Tile -/

section

variable {requester : BitVec 16} {load : Bool} {client : Byte} {far : FAddr} {x : FmqXfer} {a : LAddr} {bs data : List Byte} {cs : List Cond}
  {k len : Nat} {r : RingIx} {g : Tag} {t : Tile} {v : Word32}

theorem Canon.waitAtBeat (hw : Canon w) : Canon (Machine.waitAtBeat t w) := .pwrB (.pwrB hw)

theorem Canon.issueBeat (hw : Canon w) : Canon (Machine.issueBeat t w) :=
  .ite (.pwrB (.modTile (.modField (.pwrF (.modTile hw))))) (.modField (.pwrF (.modTile hw)))

theorem Canon.beatBundle (hw : Canon w) : Canon (Machine.beatBundle t w) :=
  .ite (.ite (.waitAtBeat hw) (.issueBeat hw)) hw

theorem Canon.pulseTile (hw : Canon w) : Canon (Machine.pulseTile t w) :=
  .ite (.trap (.raiseT (.pwrB (.tileErr (.pinc (.modTile hw)))))) (.modTile hw)

theorem Canon.fieldBeatAdvance {f : FieldIx} (hw : Canon w) : Canon (Machine.fieldBeatAdvance f w) := by
  unfold Machine.fieldBeatAdvance
  split
  · exact .wr64 (.modField hw)
  · exact hw

theorem Canon.idleBundle {n : Nat} (hw : Canon w) : Canon (Machine.idleBundle t n w) :=
  .issue (fun _ h1 => .pwrB (.modTile h1)) hw

theorem Canon.addrFault (hw : Canon w) : Canon (Machine.addrFault t a w) := .raiseT (.tileErr hw)

theorem Canon.localLoad (hw : Canon w) : Canon (Machine.localLoad t a len cs w) :=
  .issue (fun _ h1 => .ite (.schedRead h1) (.addrFault h1)) hw

theorem Canon.localStore (hw : Canon w) : Canon (Machine.localStore t a data cs w) :=
  .issue (fun _ h1 => .ite (.writeStore h1) (.addrFault h1)) hw

theorem Canon.advanceHead (hw : Canon w) : Canon (Machine.advanceHead t r k w) := .pwr hw

theorem Canon.ringReadEffects (hw : Canon w) : Canon (Machine.ringReadEffects t r k w) :=
  .ite (.schedRead (.schedRead hw)) (.schedRead hw)

theorem Canon.ringPop (hw : Canon w) : Canon (Machine.ringPop t r k cs w) :=
  .issue (fun _ h1 => .advanceHead (.ringReadEffects h1)) hw

theorem Canon.dropAppend (hw : Canon w) : Canon (Machine.dropAppend t r client requester w) :=
  .trap (.raiseT (.tileErr (.pinc hw)))

theorem Canon.landAppend (hw : Canon w) : Canon (Machine.landAppend t r bs client requester w) :=
  .ite (.ringWrite hw) (.dropAppend hw)

theorem Canon.localAppend (hw : Canon w) : Canon (Machine.localAppend t r data cs w) :=
  .issue (fun _ h1 => .landAppend h1) hw

theorem Canon.ringEnable (hw : Canon w) : Canon (Machine.ringEnable t r v w) :=
  .ite (.pwr (.pwr (.pwr hw))) (.tileErr (.pwr hw))

theorem Canon.windowEnable {n : RingIx} (hw : Canon w) : Canon (Machine.windowEnable t n v w) :=
  .ite (.pwr hw) (.tileErr (.pwr hw))

theorem Canon.sigcntWrite {c : CounterIx} (hw : Canon w) : Canon (Machine.sigcntWrite t c v k w) :=
  .addSignal (.pwr hw)

theorem Canon.putBundles {t : Tile} {k i : Nat} {bs : List Byte} (hw : Canon w) : Canon (Machine.putBundles t k i bs w) := by
  induction k generalizing i bs w with
  | zero => exact hw
  | succ k ih => exact ih (.same hw)

theorem Canon.bundlePortWrite {off : Nat} (hw : Canon w) : Canon (Machine.bundlePortWrite t off bs w) :=
  .ite (.putBundles hw) (.tileErr hw)

theorem Canon.seqStart (hw : Canon w) : Canon (Machine.seqStart t w) := .ite hw (.modTile hw)

theorem Canon.seqStop (hw : Canon w) : Canon (Machine.seqStop t w) := .ite (.modTile hw) (.modTile hw)

theorem Canon.runBegin (hw : Canon w) : Canon (Machine.runBegin t w) := .ite (.pwrB (.modTile hw)) hw

theorem Canon.fmqUnsent {status : BitVec 4} (hw : Canon w) : Canon (Machine.fmqUnsent t g load far a len status w) :=
  .raiseT (.pwrB64 (.setTag (.ite (.writeStore hw) hw)))

theorem Canon.fmqOpen (hw : Canon w) : Canon (Machine.fmqOpen t g x w) := .setTag (.modTile hw)

theorem Canon.fmqIssue (hw : Canon w) : Canon (Machine.fmqIssue t g load far a len cs w) :=
  .issue (fun _ h1 => .ite (.fmqUnsent (.ite h1 (.schedRead h1))) (by
    split
    · exact .fmqUnsent (.ite h1 (.schedRead h1))
    · exact .fmqOpen (.ite h1 (.schedRead h1)))) hw

theorem Canon.fmqFinish (hw : Canon w) : Canon (Machine.fmqFinish t g x w) :=
  have h1 := Canon.setTag (.modTile hw);
  .ite (.raise (.tileErr (.pwrB64 h1))) h1

theorem Canon.fmqTagDone (hw : Canon w) : Canon (Machine.fmqTagDone t g w) := by
  unfold Machine.fmqTagDone
  split
  · exact .ite (.fmqFinish hw) hw
  · exact hw

theorem Canon.waitTag (hw : Canon w) : Canon (Machine.waitTag t g w) := .issue (fun _ h1 => .setTag h1) hw

theorem Canon.fmqWatch (hw : Canon w) : Canon (Machine.fmqWatch t g w) := by
  unfold Machine.fmqWatch
  split
  · exact .ite (.raiseT (.tileErr (.modTile hw))) hw
  · exact hw

theorem Canon.scrubBank {b : Nat} (hw : Canon w) : Canon (Machine.scrubBank t b w) :=
  .ite (.modTile (.readEffects0 hw)) hw

theorem Canon.scrubEnd (hw : Canon w) : Canon (Machine.scrubEnd t w) := .modTile (.pwrB (.pwr (.pwr64 hw)))

theorem Canon.scrubRead {busy : List Nat} (hw : Canon w) : Canon (Machine.scrubRead t busy w) :=
  .ite (have h3 := Canon.forEach (fun _ _ h2 => .scrubBank h2) (.pwrB hw); .ite (.scrubEnd h3) h3) hw

theorem Canon.scrubWriteBack {written : List LAddr} (hw : Canon w) : Canon (Machine.scrubWriteBack t written w) :=
  .modTile (.same hw)

theorem Canon.scrubLate (hw : Canon w) : Canon (Machine.scrubLate t w) :=
  .ite (.raiseT (.tileErr (.modTile hw))) hw

theorem Canon.zeroingComplete (hw : Canon w) : Canon (Machine.zeroingComplete t w) :=
  .ite (.modTile (.clearStore hw)) hw

end

/-! ## Gateway -/

section

variable {r : FarReq} {g : Gateway} {q : Nat}

theorem Canon.noteFarUE (hw : Canon w) : Canon (Machine.noteFarUE q w) := .raise0 (.wrB (.inc hw))

theorem Canon.noteFarCE (hw : Canon w) : Canon (Machine.noteFarCE q w) := .same (.raise0 (.wrB (.inc hw)))

theorem Canon.farReadEffects {qs : List Nat} (hw : Canon w) : Canon (Machine.farReadEffects qs w) :=
  .forEach (fun _ _ h1 => .ite (.noteFarUE h1) (.ite (.noteFarCE h1) h1)) hw

theorem Canon.fmqStep {t : Tile} {g : Tag} {damaged : Bool} (hw : Canon w) : Canon (Machine.fmqStep t g damaged w) := by
  unfold Machine.fmqStep
  split
  · exact .modTile hw
  · exact hw

theorem Canon.farNak (hw : Canon w) : Canon (Machine.farNak r w) := by
  unfold Machine.farNak
  split
  · exact .fmqStep (.raiseT (.pwrB64 (.ite (.writeStore hw) hw)))
  · exact hw

theorem Canon.gatewayAccept (hw : Canon w) : Canon (Machine.gatewayAccept g r w) :=
  .ite (.farNak hw) (.ite (.wrB hw) (.ite (.ite (.wr (.modGw hw)) (.fmqStep (.inc (.wr (.modGw hw))))) hw))

theorem Canon.landLoad (hw : Canon w) : Canon (Machine.landLoad g r w) :=
  have h1 := Canon.farReadEffects (.inc hw);
  .ite (.fmqStep (.onlyIf (fun _ h2 => .setTaint h2) (.writeStore h1))) (.inc h1)

theorem Canon.gatewayServe {ch : Fin 4} {latency : Nat} (hw : Canon w) : Canon (Machine.gatewayServe g ch latency w) :=
  .ite hw (by
    split
    · exact hw
    · exact .ite (.landLoad (.wr (.modGw hw))) (.writeFar (.wr (.modGw hw))))

theorem Canon.refreshInterval {f : FieldIx} {ch : Fin 16} (hw : Canon w) : Canon (Machine.refreshInterval f ch w) :=
  .ite (.inc hw) hw

end

/-! ## Array -/

section

variable {a : ConvertArgs} {c : Ctx} {m : MatmulArgs} {p : Product} {t : Tile}

theorem Canon.blockReads {k f a sc : Nat} (hw : Canon w) : Canon (Machine.blockReads t k f a sc w) :=
  .ite (.schedRead hw) (.schedRead (.schedRead hw))

theorem Canon.actReads {src : ActSource} {rows segs : Nat} (hw : Canon w) : Canon (Machine.actReads t c src rows segs w) :=
  have h2 := Canon.ite (by
    split
    · exact .schedRead hw
    · exact .advanceHead (.ringReadEffects hw)) (.schedRead (by
    split
    · exact .schedRead hw
    · exact .advanceHead (.ringReadEffects hw))); .ite h2 (.schedRead h2)

theorem Canon.reportOperands {badW badA : Bool} {nans : Nat} {tag : Option Nat} {wa aa : Nat} (hw : Canon w) :
    Canon (Machine.reportOperands t badW badA nans tag wa aa w) :=
  have h1 := Canon.ite (.raiseT (.pwrB (.pinc hw))) hw;
  by
    unfold Machine.reportOperands
    dsimp only
    split
    · exact .raiseT (.inc (.ite h1 (.raiseT (.inc h1))))
    · exact .ite h1 (.raiseT (.inc h1))

theorem Canon.openProduct (hw : Canon w) : Canon (Machine.openProduct t p w) := .modTile (.pinc (.pinc hw))

theorem Canon.matmulB (hw : Canon w) : Canon (Machine.matmulB t m w) :=
  have h2 := Canon.forEach (fun _ _ h1 => .blockReads h1) hw;
  .openProduct (.reportOperands (.ite (.actReads h2) (.addrFault h2)))

theorem Canon.matmulC {b : WBlock} (hw : Canon w) : Canon (Machine.matmulC t m b w) :=
  .openProduct (.reportOperands (.ite (.actReads (.modTile hw)) (.addrFault (.modTile hw))))

theorem Canon.arrayWait {cs : List Cond} {other ready : Bool} (hw : Canon w) : Canon (Machine.arrayWait t cs other ready w) :=
  .ite (.pinc hw) hw

theorem Canon.matmul (hw : Canon w) : Canon (Machine.matmul t m w) :=
  .issue (fun _ h1 => by
    split
    · exact .matmulC h1
    · exact h1
    · exact .matmulB h1) (.arrayWait hw)

theorem Canon.wload {a : WloadArgs} (hw : Canon w) : Canon (Machine.wload t a w) :=
  .issue (fun _ h1 => .modTile (.ite (.blockReads h1) (.raiseT (.inc (.blockReads h1))))) (.arrayWait hw)

theorem Canon.drainProduct (hw : Canon w) : Canon (Machine.drainProduct t p w) :=
  have h2 := Canon.ite (.readEffects (.modTile hw)) (.modTile hw);
  .ite (.raiseT (.pwrB (.pinc (.writeStore h2)))) (.writeStore h2)

theorem Canon.productDrain (hw : Canon w) : Canon (Machine.productDrain t w) := by
  unfold Machine.productDrain
  split
  · exact .drainProduct hw
  · exact hw

theorem Canon.writeGroups {gs : List GroupOut} (hw : Canon w) : Canon (Machine.writeGroups t a c gs w) :=
  have h3 := Canon.ite (.writeStore hw) (.writeStore (.forEach (fun _ _ h1 => .writeStore h1) hw));
  .ite h3 (.forEach (fun _ _ h4 => .writeStore h4) h3)

theorem Canon.noteNonfinite {l : LayerIx} {n : Nat} (hw : Canon w) : Canon (Machine.noteNonfinite t l n w) :=
  .ite hw (.raiseT (.inc hw))

theorem Canon.convertRun (hw : Canon w) : Canon (Machine.convertRun t a c w) :=
  .ite (.writeStore (.noteNonfinite (.schedRead hw))) (.writeGroups (by
    split
    · exact .modTile (.noteNonfinite (.schedRead hw))
    · exact .noteNonfinite (.schedRead hw)))

theorem Canon.convert (hw : Canon w) : Canon (Machine.convert t a w) :=
  .issue (fun _ h1 => .ite (.convertRun h1) (.addrFault h1)) hw

end

/-! ## Attention -/

section

variable {a : AttnArgs} {l : LayerIx} {kv : List Byte} {c pos : Nat} {s : StreamIx} {t : Tile}

theorem Canon.attnReads (hw : Canon w) : Canon (Machine.attnReads t a w) :=
  .ite (.schedRead (.schedRead (.schedRead (.schedRead (.schedRead (.schedRead (.schedRead hw)))))))
    (.schedRead (.schedRead (.schedRead (.schedRead (.schedRead (.schedRead hw))))))

theorem Canon.attnRun (hw : Canon w) : Canon (Machine.attnRun t a w) :=
  have h3 := Canon.ite (.pinc (.pinc (.attnReads hw))) (.pinc (.attnReads hw));
  have h4 := Canon.ite (.raise (.pwrB (.pinc h3))) h3;
  .modTile (.ite h4 (.raiseT (.inc h4)))

theorem Canon.attn (hw : Canon w) : Canon (Machine.attn t a w) := .issue (fun _ h1 => .attnRun h1) hw

theorem Canon.amergeRun {a : AmergeArgs} (hw : Canon w) : Canon (Machine.amergeRun t a w) :=
  have h1 := Canon.schedRead (.schedRead hw);
  .modTile (.ite (.pinc h1) h1)

theorem Canon.amerge {a : AmergeArgs} (hw : Canon w) : Canon (Machine.amerge t a w) :=
  .issue (fun _ h1 => .amergeRun h1) hw

theorem Canon.landWords {t : Tile} {l : List (LAddr × F32)} (hw : Canon w) : Canon (Machine.landWords t l w) := by
  induction l generalizing w with
  | nil => exact hw
  | cons x l ih => exact ih (.writeStore hw)

theorem Canon.attnComplete (hw : Canon w) : Canon (Machine.attnComplete t w) := by
  unfold Machine.attnComplete
  split
  · exact .landWords (.modTile hw)
  · exact hw

theorem Canon.setStaging {g : Staging} (hw : Canon w) : Canon (Machine.setStaging t g w) := .modTile hw

theorem Canon.stageWrite (hw : Canon w) : Canon (Machine.stageWrite t s l pos kv w) :=
  have h2 := Canon.ite (.pinc (.setStaging hw)) (.setStaging hw);
  .ite (.pinc h2) h2

theorem Canon.stagingAppend (hw : Canon w) : Canon (Machine.stagingAppend t s l pos kv w) :=
  .issue (fun _ h1 => .stageWrite h1) (.ite (.pinc hw) hw)

theorem Canon.setBlock {b : Nat} {d : Option BlockDesc} (hw : Canon w) : Canon (Machine.setBlock s b d w) :=
  .same hw

theorem Canon.setFlushed (hw : Canon w) : Canon (Machine.setFlushed s l c w) := by
  unfold Machine.setFlushed
  split
  · exact .setBlock hw
  · exact hw

theorem Canon.mirrorLost {kind : Byte} (hw : Canon w) : Canon (Machine.mirrorLost s c kind w) :=
  .raiseS (.inc hw)

theorem Canon.mirrorItem (hw : Canon w) : Canon (Machine.mirrorItem s l c w) :=
  .ite (by
    dsimp only
    split
    · exact .mirrorLost (.same hw)
    · exact (.same hw)) hw

theorem Canon.flushedMaskSet (hw : Canon w) : Canon (Machine.flushedMaskSet t s l c w) :=
  .ite (.mirrorItem (.setFlushed (.setStaging hw))) hw

end

/-! ## Page -/

section

variable {off : Nat} {r : RingIx} {t : Tile} {v : Word32}

theorem Canon.pageReadClear (hw : Canon w) : Canon (Machine.pageReadClear t off w) := .ite hw (.pwr hw)

theorem Canon.seqCtrl (hw : Canon w) : Canon (Machine.seqCtrl t v w) :=
  .ite (.tileErr hw) (.ite (.seqStart hw) (.ite (.seqStop hw) hw))

theorem Canon.pagePlain (hw : Canon w) : Canon (Machine.pagePlain t off v w) := by
  unfold Machine.pagePlain
  split
  · exact .pwr hw
  · exact hw

theorem Canon.ringBaseWrite (hw : Canon w) : Canon (Machine.ringBaseWrite t r v w) := .ite hw (.pagePlain hw)

theorem Canon.ringCtrlWrite (hw : Canon w) : Canon (Machine.ringCtrlWrite t r v w) :=
  .ite (.ringEnable hw) (.ite (.pwrB hw) (.pagePlain hw))

theorem Canon.pageWrite (hw : Canon w) : Canon (Machine.pageWrite t off v w) :=
  .ite (.ringBaseWrite hw) (.ite (.ringCtrlWrite hw) (.ite (.windowEnable hw) (.ite (.sigcntWrite hw) (.ite (.seqCtrl hw) (.pagePlain hw)))))

theorem Canon.pageWrites {t : Tile} {n off : Nat} {bs : List Byte} (hw : Canon w) : Canon (Machine.pageWrites t n off bs w) := by
  induction n generalizing off bs w with
  | zero => exact hw
  | succ n ih => exact ih (.pageWrite hw)

theorem Canon.pagePut {bs : List Byte} (hw : Canon w) : Canon (Machine.pagePut t off bs w) :=
  .ite (.bundlePortWrite hw) (.pageWrites hw)

theorem Canon.pageGetClears {n : Nat} (hw : Canon w) : Canon (Machine.pageGetClears t off n w) :=
  .forEach (fun _ _ h1 => .pageReadClear h1) hw

end

/-! ## Mesh -/

section

variable {op st : BitVec 4} {ex : Bool} {f : FieldIx} {sd : Fin 4} {inp : Inp} {a : LAddr} {sched : List LAddr} {k n : Nat} {net : Net} {o : Out}
  {p : Packet} {r : RingIx} {t : Tile}

theorem Canon.mcastDrop (hw : Canon w) : Canon (Machine.mcastDrop t p w) := .raiseT (.pwrB (.pinc hw))

theorem Canon.holdStray (hw : Canon w) : Canon (Machine.holdStray t net inp p w) :=
  .raise0 (.inc (.setRouter hw))

theorem Canon.routerTake (hw : Canon w) : Canon (Machine.routerTake t net inp p w) :=
  .ite (.mcastDrop hw) (.ite (.holdStray hw) (.ite hw (.setRouter hw)))

theorem Canon.releaseStrays (hw : Canon w) : Canon (Machine.releaseStrays t w) := .setRouter hw

theorem Canon.leaveLatch (hw : Canon w) : Canon (Machine.leaveLatch t net inp p w) := by
  unfold Machine.leaveLatch
  split
  · exact hw
  · dsimp only
    split
    · exact .modField (.setRouter hw)
    · exact .setRouter hw

theorem Canon.hdrDrop (hw : Canon w) : Canon (Machine.hdrDrop t net inp w) :=
  .raiseT (.pwrB (.pinc (.ite (.drawFree hw) hw)))

theorem Canon.guardAnswer (hw : Canon w) : Canon (Machine.guardAnswer f sd t inp p w) :=
  .ite (by
    dsimp only
    split
    · exact .routerTake (.raise0 (.inc hw))
    · exact (.raise0 (.inc hw))) hw

theorem Canon.packetArrive (hw : Canon w) : Canon (Machine.packetArrive t net inp p w) :=
  .ite (.hdrDrop (.leaveLatch hw)) (by
    dsimp only
    split
    · exact .ite (.guardAnswer (.leaveLatch hw)) (.routerTake (.leaveLatch hw))
    · exact .routerTake (.leaveLatch hw))

theorem Canon.enterSeam (hw : Canon w) : Canon (Machine.enterSeam t net o p w) :=
  .ite hw (by
    split
    · exact .modField hw
    · exact hw)

theorem Canon.loseSlot {i : Option Nat} (hw : Canon w) : Canon (Machine.loseSlot t net o i w) :=
  .pinc (.setRouter hw)

theorem Canon.advance {i : Nat} (hw : Canon w) : Canon (Machine.advance t net o i w) := by
  unfold Machine.advance
  dsimp only
  split
  · exact .ite (.setRouter hw) (.enterSeam (.setRouter hw))
  · exact hw

theorem Canon.openSlot {pointer : Fin 8} {room : Bool} (hw : Canon w) : Canon (Machine.openSlot t net o pointer room w) := by
  unfold Machine.openSlot
  dsimp only
  split
  · exact .advance (.loseSlot hw)
  · split
    · split
      · exact .advance (.pinc (.setRouter (.ite (.pinc (.loseSlot hw)) (.loseSlot hw))))
      · exact hw
    · exact .loseSlot hw

theorem Canon.dropSeam {e : SeamEntry} (hw : Canon w) : Canon (Machine.dropSeam f e w) := .modField hw

theorem Canon.seamRelease (hw : Canon w) : Canon (Machine.seamRelease f sd net ex w) := by
  unfold Machine.seamRelease
  split
  · exact .ite (.dropSeam hw) hw
  · exact hw

theorem Canon.seamLate (hw : Canon w) : Canon (Machine.seamLate f sd net ex w) := by
  unfold Machine.seamLate
  split
  · exact .trap (.raise0 (.inc (.modField hw)))
  · exact hw

theorem Canon.sourceRead (hw : Canon w) : Canon (Machine.sourceRead t a n w) :=
  .ite (.schedRead hw) (.addrFault hw)

theorem Canon.nakNoted {responder : BitVec 16} {opSeq : BitVec 32} (hw : Canon w) : Canon (Machine.nakNoted t responder st op opSeq w) :=
  .raiseT (.pwrB (.pinc hw))

theorem Canon.zeroReply {sig : Option CounterIx} (hw : Canon w) : Canon (Machine.zeroReply t a n sig w) :=
  .announce (.ite (.writeStore hw) hw)

theorem Canon.nextOp (hw : Canon w) : Canon (Machine.nextOp t w) := .modTile hw

theorem Canon.useCredit {p : SendArgs} (hw : Canon w) : Canon (Machine.useCredit t p w) := by
  unfold Machine.useCredit
  split
  · exact .ite (.modTile hw) hw
  · exact hw

theorem Canon.demote {row cycle : Nat} (hw : Canon w) : Canon (Machine.demote t row cycle w) :=
  .trap (.raiseT (.pwrB (.pinc hw)))

theorem Canon.putRun {p : SendArgs} (hw : Canon w) : Canon (Machine.putRun t op p w) :=
  .ite (.forEach (fun _ _ h4 => .routerTake h4) (.useCredit (.nextOp (by
    split
    · exact .ite (.sourceRead hw) (.demote (.sourceRead hw))
    · exact (.sourceRead hw))))) (by
    split
    · exact .nakNoted (.useCredit (.nextOp (by
    split
    · exact .ite (.sourceRead hw) (.demote (.sourceRead hw))
    · exact .sourceRead hw)))
    · exact .forEach (fun _ _ h5 => .routerTake h5) (.useCredit (.nextOp (by
    split
    · exact .ite (.sourceRead hw) (.demote (.sourceRead hw))
    · exact .sourceRead hw))))

theorem Canon.putIssue {p : SendArgs} (hw : Canon w) : Canon (Machine.putIssue t op p w) :=
  .issue (fun _ h1 => .putRun h1) hw

theorem Canon.askRun {p : SendArgs} {len : Nat} {payload : List Byte} (hw : Canon w) : Canon (Machine.askRun t op p len payload w) :=
  .ite (.routerTake (.nextOp (by
    split
    · exact .ite hw (.demote hw)
    · exact hw))) (by
    split
    · exact .zeroReply (.nakNoted (.nextOp (by
    split
    · exact .ite hw (.demote hw)
    · exact hw)))
    · exact .routerTake (.nextOp (by
    split
    · exact .ite hw (.demote hw)
    · exact hw)))

theorem Canon.getIssue {p : SendArgs} (hw : Canon w) : Canon (Machine.getIssue t p w) :=
  .issue (fun _ h1 => .askRun h1) hw

theorem Canon.atomicAddIssue {p : SendArgs} {addend : Word64} (hw : Canon w) : Canon (Machine.atomicAddIssue t p addend w) :=
  .issue (fun _ h1 => .askRun h1) hw

theorem Canon.atomicCasIssue {p : SendArgs} {cmp swap : Word64} (hw : Canon w) : Canon (Machine.atomicCasIssue t p cmp swap w) :=
  .issue (fun _ h1 => .askRun h1) hw

theorem Canon.rejectRequest (hw : Canon w) : Canon (Machine.rejectRequest t p w) :=
  .raiseT (.tileErr (.pinc hw))

theorem Canon.takenIn (hw : Canon w) : Canon (Machine.takenIn t p w) := .setRouter hw

theorem Canon.landNow {t : Tile} {l : List (Nat × List Byte)} (hw : Canon w) : Canon (Machine.landNow t l w) := by
  induction l generalizing w with
  | nil => exact hw
  | cons x l ih => exact ih (.writeStore hw)

theorem Canon.landPayload (hw : Canon w) : Canon (Machine.landPayload t p sched w) :=
  .ite (.announce (.landNow (.takenIn hw))) (.ite (.modTile (.landNow (.takenIn hw)))
    (.ite (.trap (.pinc hw)) (.ite (.pinc hw) (.setRouter (.pinc hw)))))

theorem Canon.spendGrant {source : BitVec 16} (hw : Canon w) : Canon (Machine.spendGrant t r source n w) :=
  .ite (.pwrF hw) hw

theorem Canon.appendLand (hw : Canon w) : Canon (Machine.appendLand t p r w) :=
  .ite (.announce (.spendGrant (.landAppend (.takenIn hw)))) (.spendGrant (.landAppend (.takenIn hw)))

theorem Canon.ringAppendLand (hw : Canon w) : Canon (Machine.ringAppendLand t p w) := by
  unfold Machine.ringAppendLand
  split
  · exact .appendLand hw
  · exact hw

theorem Canon.remoteWriteLand (hw : Canon w) : Canon (Machine.remoteWriteLand t p sched w) := by
  unfold Machine.remoteWriteLand
  split
  · exact .appendLand hw
  · exact .ite (.rejectRequest (.takenIn hw)) (.ite (.pagePut (.takenIn hw)) (.landPayload hw))

theorem Canon.deferredWriteLand (hw : Canon w) : Canon (Machine.deferredWriteLand t sched w) := by
  unfold Machine.deferredWriteLand
  split
  · exact .announce (.writeStore (.modTile hw))
  · exact hw

theorem Canon.sendReply (hw : Canon w) : Canon (Machine.sendReply t p w) := by
  unfold Machine.sendReply
  split
  · exact hw
  · exact .routerTake hw

theorem Canon.remoteGetServe (hw : Canon w) : Canon (Machine.remoteGetServe t p sched w) :=
  .ite (.sendReply (.rejectRequest (.takenIn hw))) (.ite (.sendReply (.pageGetClears (.takenIn hw)))
    (.ite hw (.sendReply (.readEffects0 (.takenIn hw)))))

theorem Canon.atomicExecute (hw : Canon w) : Canon (Machine.atomicExecute t p sched w) :=
  .ite (.sendReply (.raiseT (.tileErr (.pinc (.takenIn hw))))) (.ite (.sendReply (.rejectRequest (.takenIn hw)))
    (.ite hw (.sendReply (.writeStore (.readEffects0 (.takenIn hw))))))

theorem Canon.replyLand (hw : Canon w) : Canon (Machine.replyLand t p w) :=
  .ite (.announce (.ite (.writeStore (.takenIn hw)) (.takenIn hw))) (.zeroReply (.nakNoted (.takenIn hw)))

theorem Canon.setWant {j : Nat} (hw : Canon w) : Canon (Machine.setWant t r j k w) := .pwrB (.modTile hw)

theorem Canon.creditReq {t : Tile} {r : RingIx} {producer : BitVec 16} {k : Nat} (hw : Canon w) :
    Canon (Machine.creditReq t r producer k w) := by
  have hrefuse : Canon (creditReq.refuse t r producer k w) := .sendReply (.raiseT (.pwrB (.pinc hw)))
  unfold Machine.creditReq
  split
  · exact .ite (.setWant hw) hrefuse
  · exact hrefuse

theorem Canon.creditGrant (hw : Canon w) : Canon (Machine.creditGrant t r w) := by
  unfold Machine.creditGrant
  split
  · exact .ite (.sendReply (.modTile (.setWant (.pwrF hw)))) hw
  · exact hw

theorem Canon.grantReceive {producer target : Tile} (hw : Canon w) : Canon (Machine.grantReceive producer target r k st w) :=
  .ite (.modTile hw) (.nakNoted hw)

end

/-! ## HostIf -/

section

variable {r : HostRing} {bs : List (Option Byte)} {n off rate width : Nat} {t : Tile} {v : Word32}

theorem Canon.complete {bs : List Byte} {poisoned : Bool} (hw : Canon w) : Canon (Machine.complete bs poisoned w) :=
  .same hw

theorem Canon.completeOnes (hw : Canon w) : Canon (Machine.completeOnes n w) := .complete hw

theorem Canon.barReject {flag : Nat} (hw : Canon w) : Canon (Machine.barReject flag w) := .hostErr (.inc hw)

theorem Canon.bar2Unassigned {write : Bool} (hw : Canon w) : Canon (Machine.bar2Unassigned off write w) :=
  .raise0 (.barReject hw)

theorem Canon.bar2Do (hw : Canon w) : Canon (Machine.bar2Do off n w) := .complete (.farReadEffects hw)

theorem Canon.bar2Read (hw : Canon w) : Canon (Machine.bar2Read off n w) :=
  .ite hw (.ite (.completeOnes (.bar2Unassigned hw)) (.ite (.same hw) (.bar2Do hw)))

theorem Canon.bar2Quarter {q : Nat} (hw : Canon w) : Canon (Machine.bar2Quarter q bs w) := by
  unfold Machine.bar2Quarter
  split
  · exact hw
  · exact .ite hw (.ite (.noteFarUE hw) (.clearFarErrors (.foldl (fun _ _ h1 => by
      split
      · exact .putFar h1
      · exact h1) hw)))

theorem Canon.bar2Write (hw : Canon w) : Canon (Machine.bar2Write off bs w) :=
  .ite hw (.ite (.bar2Unassigned hw) (.forEach (fun _ _ h1 => .bar2Quarter h1) hw))

theorem Canon.stackLeaveSelf {f : FieldIx} (hw : Canon w) : Canon (Machine.stackLeaveSelf f w) :=
  .ite hw (.forEach (fun _ _ h3 => .bar2Do h3) (.same (.modField hw)))

theorem Canon.timedOut {bar : Byte} (hw : Canon w) : Canon (Machine.timedOut off n bar w) :=
  .completeOnes (.raise0 (.barReject hw))

theorem Canon.readTimeout {bar4 : Bool} (hw : Canon w) : Canon (Machine.readTimeout bar4 off w) :=
  .ite (by
    split
    · exact .timedOut (.same hw)
    · exact hw) (by
    split
    · exact .timedOut (.same hw)
    · exact hw)

theorem Canon.ringSend {p : Packet} (hw : Canon w) : Canon (Machine.ringSend t p w).2 :=
  .iteSnd (.pair hw) (by
    split
    · exact .pair hw
    · split
      · exact .pair (.routerTake hw)
      · exact .pair hw)

theorem Canon.bar4Discard {why : Byte} (hw : Canon w) : Canon (Machine.bar4Discard off why w) :=
  .raise0 (.barReject hw)

theorem Canon.hostOp (hw : Canon w) : Canon (Machine.hostOp w) := .same hw

theorem Canon.bar4Puts {a : Nat} {bs : List Byte} (hw : Canon w) : Canon (Machine.bar4Puts t a bs w) :=
  .forEach (fun _ _ h1 => .ringSend (.hostOp h1)) hw

theorem Canon.bar4Write (hw : Canon w) : Canon (Machine.bar4Write off bs w) :=
  .ite hw (.ite (.bar4Discard hw) (.ite (.bar4Discard hw) (by
    split
    · exact .bar4Discard hw
    · exact .bar4Puts hw)))

theorem Canon.bar4Refuse {st : Byte} (hw : Canon w) : Canon (Machine.bar4Refuse off n st w) :=
  .completeOnes (.raise0 (.barReject hw))

theorem Canon.bar4Gets {t : Tile} {a n : Nat} (hw : Canon w) : Canon (Machine.bar4Gets t a n w).2 :=
  .foldlSnd (fun _ _ hq => .iteSnd hq (.ringSend (.hostOp hq))) hw

theorem Canon.bar4Read (hw : Canon w) : Canon (Machine.bar4Read off n w) :=
  .ite hw (.ite (.bar4Refuse hw) (by
    split
    · exact .bar4Refuse hw
    · exact .ite (.same (.bar4Gets hw)) (.bar4Refuse hw)))

theorem Canon.bar4Complete {st : BitVec 4} {data : List Byte} (hw : Canon w) : Canon (Machine.bar4Complete st data w) := by
  unfold Machine.bar4Complete
  split
  · exact .ite (.complete (.same hw)) (.bar4Refuse (.same hw))
  · exact hw

theorem Canon.ringRefused {kind : Byte} {ix : Nat} (hw : Canon w) : Canon (Machine.ringRefused kind ix w) :=
  .raise0 hw

theorem Canon.intakeEnable {n : RingIx} (hw : Canon w) : Canon (Machine.intakeEnable n v w) :=
  .ite hw (.ite (.same (.wr64 (.wr hw))) (.ringRefused (.wr hw)))

theorem Canon.stampsCleared {n : RingIx} (hw : Canon w) : Canon (Machine.stampsCleared n w) :=
  .ite (.wrB (.forEach (fun _ _ h2 => .putFars h2) (.same hw))) hw

theorem Canon.intakeDisable {n : RingIx} (hw : Canon w) : Canon (Machine.intakeDisable n v w) :=
  .ite hw (.same (.wr hw))

theorem Canon.takeRecords {n : RingIx} {arrival k : Nat} (hw : Canon w) : Canon (Machine.takeRecords n arrival k w) := by
  induction k generalizing w with
  | zero => exact hw
  | succ k ih =>
    exact .ite hw (.ite (.wrB hw) (ih (.same (.inc (.wr64 (.ite (.wrF (.wrB (.farReadEffects hw))) (.farReadEffects hw)))))))

theorem Canon.takenBack {n : RingIx} (hw : Canon w) : Canon (Machine.takenBack n w) := .ite hw (.putHost hw)

theorem Canon.scanRing {arrival : Nat} {n : RingIx} (hw : Canon w) : Canon (Machine.scanRing arrival n w) :=
  .ite (have h1 := Canon.takeRecords hw; .ite h1 (.onlyIf (fun _ h2 => .takenBack h2) h1)) hw

theorem Canon.intakeScan (hw : Canon w) : Canon (Machine.intakeScan w) :=
  .ite (.forEach (fun _ _ h1 => .scanRing h1) hw) hw

theorem Canon.hostRingEnable (hw : Canon w) : Canon (Machine.hostRingEnable r v w) :=
  .ite hw (.ite (.wr hw) (.ite (.wr (.wr (.wr hw))) (.ringRefused (.wr hw))))

theorem Canon.putEntries {r : HostRing} {l : List (Bool → List Byte)} (hw : Canon w) : Canon (Machine.putEntries r l w) := by
  induction l generalizing w with
  | nil => exact hw
  | cons e l ih => exact ih (.wr (.putHost hw))

theorem Canon.releaseEntries {n : RingIx} {l : List CplRec} (hw : Canon w) : Canon (Machine.releaseEntries n l w) :=
  .wrF hw

theorem Canon.dropWaiting (hw : Canon w) : Canon (Machine.dropWaiting r n w) := by
  unfold Machine.dropWaiting
  split
  · exact .same hw
  · exact .releaseEntries (.same hw)
  · exact .same hw

theorem Canon.afterBatch (hw : Canon w) : Canon (Machine.afterBatch r w) :=
  .ite (.vectorDue (.ite hw (.putHost hw))) (.ite (.vectorDue hw) hw)

theorem Canon.ringBatch (hw : Canon w) : Canon (Machine.ringBatch r w) :=
  .ite hw (.afterBatch (.dropWaiting (.putEntries hw)))

theorem Canon.ringBatchWrite (hw : Canon w) : Canon (Machine.ringBatchWrite r w) := .ite (.ringBatch hw) hw

theorem Canon.pushToken {s : StreamIx} {x : TokenRec} (hw : Canon w) : Canon (Machine.pushToken s x w) :=
  .ite (.same hw) (.raiseS (.modStream (.hostErr (.inc (.inc hw)))))

theorem Canon.pushCpl {n : RingIx} {x : CplRec} (hw : Canon w) : Canon (Machine.pushCpl n x w) := .same hw

theorem Canon.msixSend {v : Fin 256} (hw : Canon w) : Canon (Machine.msixSend v w) :=
  .ite (.ite (.wrB (.same hw)) (.ite (.same (.putHost (.same hw))) hw)) hw

theorem Canon.setLink (hw : Canon w) : Canon (Machine.setLink rate width w) :=
  .ite (.wr (.same hw)) (.raise0 (.wr (.same hw)))

theorem Canon.linkTrained (hw : Canon w) : Canon (Machine.linkTrained rate width w) :=
  .ite (.onlyIf (fun _ h3 => .forEach (fun _ _ h4 => .onlyIf (fun _ h5 => .takenBack h5) h4) h3) (.same (.setLink hw))) hw

theorem Canon.linkDown (hw : Canon w) : Canon (Machine.linkDown w) := .same (.setLink hw)

theorem Canon.functionReset (hw : Canon w) : Canon (Machine.functionReset w) :=
  { hw with bar0 := smFilter_wf _ _ _ _ hw.bar0 }

theorem Canon.functionLevelReset (hw : Canon w) : Canon (Machine.functionLevelReset w) :=
  .ite (.functionReset hw) hw

theorem Canon.d3hotEntry (hw : Canon w) : Canon (Machine.d3hotEntry w) := .ite (.same hw) hw

theorem Canon.aerErrorLogged {u c : Word32} (hw : Canon w) : Canon (Machine.aerErrorLogged u c w) :=
  .raise0 hw

end

/-! ## Msg -/

section

variable {m : Msg} {p : PortIx}

theorem Canon.sendMsgAt {first : Nat} (hw : Canon w) : Canon (Machine.sendMsgAt first p m w) :=
  .inc (.modPort hw)

theorem Canon.sendMsg (hw : Canon w) : Canon (Machine.sendMsg p m w) := .sendMsgAt hw

theorem Canon.sendTwin (hw : Canon w) : Canon (Machine.sendTwin m w) := by
  unfold Machine.sendTwin
  split
  · exact .sendMsg hw
  · exact hw

theorem Canon.sendTwins (hw : Canon w) : Canon (Machine.sendTwins m w) :=
  .forEach (fun _ _ h1 => .sendMsg h1) hw

end

/-! ## Streams -/

section

variable {s : StreamIx}

theorem Canon.syncRecord (hw : Canon w) : Canon (Machine.syncRecord s w) := by
  unfold Machine.syncRecord
  split
  · exact .writeFar hw
  · exact hw

theorem Canon.sendFar {purpose : BitVec 8} {stream addr n : Nat} (hw : Canon w) : Canon (Machine.sendFar purpose stream addr n w) :=
  .forEach (fun _ _ h1 => .sendTwin (.modPort h1)) hw

theorem Canon.mirrorRecord (hw : Canon w) : Canon (Machine.mirrorRecord s w) := by
  unfold Machine.mirrorRecord
  split
  · exact .ite (.sendFar hw) hw
  · exact hw

theorem Canon.putStream {g : Machine.Stream → Machine.Stream} (hw : Canon w) : Canon (Machine.putStream s g w) :=
  .onlyIf (fun _ h2 => .mirrorRecord h2) (.syncRecord (.modStream hw))

theorem Canon.setState {x : StreamState} (hw : Canon w) : Canon (Machine.setState s x w) := .putStream hw

theorem Canon.writeLog {pos : Nat} {toks : List Word32} (hw : Canon w) : Canon (Machine.writeLog s pos toks w) := by
  unfold Machine.writeLog
  split
  · exact .putFars hw
  · exact hw

theorem Canon.setChain {l : List Word32} (hw : Canon w) : Canon (Machine.setChain s l w) := .same hw

end

/-! ## Record -/

section

theorem Canon.writeHeader (hw : Canon w) : Canon (Machine.writeHeader w) := by
  unfold Machine.writeHeader
  split
  · exact hw
  · exact .writeFar hw

theorem Canon.writeAdapterTable (hw : Canon w) : Canon (Machine.writeAdapterTable w) := .ite hw (.writeFar hw)

theorem Canon.writeFlight (hw : Canon w) : Canon (Machine.writeFlight w) := .ite hw (.writeFar hw)

end

/-! ## Sets -/

section

variable {sel : Bool} {a set : Nat}

theorem Canon.farSetEffects (hw : Canon w) : Canon (Machine.farSetEffects a w) := .farReadEffects hw

theorem Canon.touchVerified {n : Nat} (hw : Canon w) : Canon (Machine.touchVerified a n w) := by
  unfold Machine.touchVerified
  split
  · exact .ite (.wr64 (.same hw)) hw
  · exact hw

theorem Canon.queueItem {g : Rung} {x : WeightItem} (hw : Canon w) : Canon (Machine.queueItem g set sel x w) := by
  unfold Machine.queueItem
  split
  · exact .same hw
  · exact hw

theorem Canon.queueItems (hw : Canon w) : Canon (Machine.queueItems set sel w) := by
  unfold Machine.queueItems
  split
  · exact .forEach (fun _ _ h1 => .queueItem h1) hw
  · exact hw

theorem Canon.dropItems (hw : Canon w) : Canon (Machine.dropItems w) := .same hw

end

/-! ## Kv -/

section

variable {d : BlockDesc} {st : BlockState} {b h i n : Nat} {s : StreamIx}

theorem Canon.setKvFree (hw : Canon w) : Canon (Machine.setKvFree n w) := .wr hw

theorem Canon.setReserve (hw : Canon w) : Canon (Machine.setReserve s n w) := .same hw

theorem Canon.freePages (hw : Canon w) : Canon (Machine.freePages s w) := .ite hw (.setKvFree hw)

theorem Canon.mirrorBlock (hw : Canon w) : Canon (Machine.mirrorBlock s b w) :=
  .ite (by
    split
    · exact .sendTwin (.onlyIf (fun _ h1 => .sendFar h1) hw)
    · exact .sendTwin hw) hw

theorem Canon.putBlock {d : Option BlockDesc} (hw : Canon w) : Canon (Machine.putBlock s b d w) :=
  .onlyIf (fun _ h3 => .mirrorBlock h3) (by
    split
    · exact .writeFar (.setBlock hw)
    · exact .setBlock hw)

theorem Canon.syncRoot {i : Fin 256} (hw : Canon w) : Canon (Machine.syncRoot i w) :=
  .ite hw (by
    split <;> exact .writeFar hw)

theorem Canon.countRoot {i : Fin 256} {d : ℤ} (hw : Canon w) : Canon (Machine.countRoot i d w) :=
  .syncRoot (.same hw)

theorem Canon.removeNode (hw : Canon w) : Canon (Machine.removeNode i w) := by
  unfold Machine.removeNode
  split
  · exact hw
  · exact .forEach (fun _ _ h3 => .putBlock h3) (.countRoot (.setKvFree (.same hw)))

theorem Canon.noteDrop {cs : BitVec 16} {node : Byte} (hw : Canon w) : Canon (Machine.noteDrop cs b node w) :=
  .raise (.inc hw)

theorem Canon.dropNode (hw : Canon w) : Canon (Machine.dropNode i w) :=
  .forEach (fun _ _ h1 => .noteDrop (.removeNode h1)) hw

theorem Canon.dropPrivate (hw : Canon w) : Canon (Machine.dropPrivate s b d w) :=
  .noteDrop (.setKvFree (.putBlock hw))

theorem Canon.dropCand {c : Cand} (hw : Canon w) : Canon (Machine.dropCand c w) := by
  unfold Machine.dropCand
  split
  · exact .dropNode hw
  · exact .dropPrivate hw

theorem Canon.dropUntil {s : StreamIx} {need k : Nat} (hw : Canon w) : Canon (Machine.dropUntil s need k w) := by
  induction k generalizing w with
  | zero => exact hw
  | succ k ih =>
    refine .ite hw ?_
    split
    · exact ih (.dropCand hw)
    · exact hw

theorem Canon.allocBlock (hw : Canon w) : Canon (Machine.allocBlock s st b w) :=
  .putBlock (.setReserve (.setKvFree (.drawFree hw)))

theorem Canon.allocBlocks {bs : List Nat} (hw : Canon w) : Canon (Machine.allocBlocks s st bs w).2 :=
  .iteSnd (.pair (.forEach (fun _ _ h2 => .allocBlock h2) (.dropUntil hw))) (.pair (.setState (.raiseS (.inc (.same (.dropUntil hw))))))

theorem Canon.ensureBlocks {a : Nat} (hw : Canon w) : Canon (Machine.ensureBlocks s a n w).2 :=
  .iteSnd (.pair hw) (.allocBlocks hw)

theorem Canon.fillBlocks (hw : Canon w) : Canon (Machine.fillBlocks s w) :=
  .forEach (fun _ _ h1 => .putBlock h1) hw

theorem Canon.touchBlocks (hw : Canon w) : Canon (Machine.touchBlocks s w) :=
  .same (.forEach (fun _ _ h1 => .putBlock h1) hw)

theorem Canon.freePrivate (hw : Canon w) : Canon (Machine.freePrivate s w) :=
  .forEach (fun _ _ h1 => .ite (.putBlock h1) (.freePages (.putBlock h1))) hw

theorem Canon.noteCollision (hw : Canon w) : Canon (Machine.noteCollision s h i w) := .raiseS (.inc hw)

theorem Canon.modNode {f : PrefixNode → PrefixNode} (hw : Canon w) : Canon (Machine.modNode i f w) := .same hw

theorem Canon.bindNode {n : PrefixNode} (hw : Canon w) : Canon (Machine.bindNode s b n w) :=
  .putBlock (.modNode (.inc hw))

theorem Canon.walkBlocks {s : StreamIx} {root : Fin 256} {k b ph : Nat} {parent : Option Nat} (hw : Canon w) :
    Canon (Machine.walkBlocks s root k b parent ph w).2 := by
  induction k generalizing b ph parent w with
  | zero => exact hw
  | succ k ih =>
    unfold Machine.walkBlocks
    have hnoted : ∀ l x, Canon (Machine.forEach l (fun i w => Machine.noteCollision s x i w) w) := fun _ _ =>
      .forEach (fun _ _ h => .noteCollision h) hw
    dsimp only
    split
    · exact ih (.bindNode (hnoted _ _))
    · exact hnoted _ _

theorem Canon.prefixWalk {s : StreamIx} (hw : Canon w) : Canon (Machine.prefixWalk s w).2 := by
  unfold Machine.prefixWalk
  dsimp only
  split
  · exact .walkBlocks (.inc hw)
  · exact .inc hw

theorem Canon.restoreBlock {s : StreamIx} {b : Nat} (hw : Canon w) : Canon (Machine.restoreBlock s b w).2 := by
  unfold Machine.restoreBlock
  split
  · exact .bindNode hw
  · split
    next e => exact .same (.ofSnd (.allocBlocks hw) e)
    · exact .allocBlocks hw

theorem Canon.restoreAll {s : StreamIx} {l : List Nat} (hw : Canon w) : Canon (Machine.restoreAll s l w) := by
  induction l generalizing w with
  | nil => exact hw
  | cons b l ih =>
    unfold Machine.restoreAll
    split
    next e => exact ih (.ofSnd (.restoreBlock hw) e)
    next e => exact .ofSnd (.restoreBlock hw) e

theorem Canon.restoreStream (hw : Canon w) : Canon (Machine.restoreStream s w) :=
  .ite (.setState (.restoreAll hw)) (.restoreAll hw)

theorem Canon.lookupFor {s : StreamIx} (hw : Canon w) : Canon (Machine.lookupFor s w) :=
  .modStream (.prefixWalk hw)

theorem Canon.prefixLookup (hw : Canon w) : Canon (Machine.prefixLookup s w) := .ite (.lookupFor hw) hw

theorem Canon.createNode {r : RootEntry} {parent : Option Nat} {toks : List Word32} (hw : Canon w) :
    Canon (Machine.createNode s b d r parent h toks w) := .putBlock (.inc (.countRoot (.same hw)))

theorem Canon.insertBlock (hw : Canon w) : Canon (Machine.insertBlock s b d w) := by
  unfold Machine.insertBlock
  split
  · exact .inc hw
  · exact have h2 := Canon.forEach (fun _ _ h1 => .noteCollision h1) hw; .ite (.inc h2) (.createNode h2)

theorem Canon.prefixInsert (hw : Canon w) : Canon (Machine.prefixInsert s b w) :=
  .ite (by
    split
    · exact .ite (.insertBlock hw) hw
    · exact hw) hw

theorem Canon.releaseNode (hw : Canon w) : Canon (Machine.releaseNode s i w) := by
  unfold Machine.releaseNode
  split
  · exact .ite (.raiseS hw) (.modNode hw)
  · exact hw

theorem Canon.releaseShared (hw : Canon w) : Canon (Machine.releaseShared s w) :=
  .forEach (fun _ _ h1 => .putBlock (by
    split
    · exact .releaseNode h1
    · exact h1)) hw

theorem Canon.prefixRelease (hw : Canon w) : Canon (Machine.prefixRelease s w) := .ite (.releaseShared hw) hw

theorem Canon.allocationResume (hw : Canon w) : Canon (Machine.allocationResume s w) := by
  unfold Machine.allocationResume
  split
  · exact .ite (have h2 := Canon.ensureBlocks (.same hw); .ite h2 (.setState h2)) hw
  · exact hw

end

/-! ## Serving -/

section

variable {status : BitVec 8} {n : Fin 64} {c h t ttft : Nat} {q : Request} {s : StreamIx} {f : WinCount → WinCount}

theorem Canon.syncClass0 (hw : Canon w) : Canon (Machine.syncClass0 w) := .wrB hw

theorem Canon.winModAt (hw : Canon w) : Canon (Machine.winModAt t c f w) := .ite (.same hw) (.same hw)

theorem Canon.winMod (hw : Canon w) : Canon (Machine.winMod c f w) := .winModAt hw

theorem Canon.winRefused (hw : Canon w) : Canon (Machine.winRefused c w) := .winMod hw

theorem Canon.winEnded (hw : Canon w) : Canon (Machine.winEnded c w) := .winMod hw

theorem Canon.winTokens {n : Nat} (hw : Canon w) : Canon (Machine.winTokens t c n w) := .winModAt hw

theorem Canon.winLate {n : Nat} (hw : Canon w) : Canon (Machine.winLate t c n w) := .winModAt hw

theorem Canon.winShow {x : WinCount} (hw : Canon w) : Canon (Machine.winShow c x w) :=
  .wr (.wr (.wr (.wr hw)))

theorem Canon.windowPublish (hw : Canon w) : Canon (Machine.windowPublish w) :=
  .ite (.wr64 (.winShow (.winShow (.winShow (.same hw))))) hw

theorem Canon.adBind (hw : Canon w) : Canon (Machine.adBind n w) := .wrF hw

theorem Canon.adSettle (hw : Canon w) : Canon (Machine.adSettle n w) :=
  .ite (.writeAdapterTable (.wr (.wr hw))) hw

theorem Canon.adRelease (hw : Canon w) : Canon (Machine.adRelease n w) := .adSettle (.wrF hw)

theorem Canon.dropWork (hw : Canon w) : Canon (Machine.dropWork s w) := .setChain (.same (.same (.same hw)))

theorem Canon.releaseHoldings (hw : Canon w) : Canon (Machine.releaseHoldings s w) :=
  .syncClass0 (.putStream (by
    split
    · exact .adRelease (.setReserve (.freePrivate hw))
    · exact .setReserve (.freePrivate hw)))

theorem Canon.endStream (hw : Canon w) : Canon (Machine.endStream s status w) :=
  have h2 := Canon.releaseHoldings (.dropWork (.winEnded (.putStream hw)));
  have h3 := Canon.ite (.raiseS h2) h2;
  .ite (.sendTwin (.same h3)) h3

theorem Canon.freeSlot (hw : Canon w) : Canon (Machine.freeSlot s w) := .syncClass0 (.putStream hw)

theorem Canon.completionPost (hw : Canon w) : Canon (Machine.completionPost s w) :=
  .ite hw (by
    dsimp only
    split
    · exact .freeSlot (.releaseShared hw)
    · exact .ite (.releaseShared hw) (have h2 := Canon.ite (.releaseShared hw) (.pushCpl (.releaseShared hw)); .ite (.ringBatch h2)
      (.freeSlot (.ringBatch h2))))

theorem Canon.finishCancel (hw : Canon w) : Canon (Machine.finishCancel s w) :=
  .ite (.raiseS (.endStream hw)) hw

theorem Canon.cancel {tag : BitVec 16} (hw : Canon w) : Canon (Machine.cancel s tag w) :=
  .ite (.winRefused hw) (.ite (.winRefused hw) (.ite (.modStream hw) (.finishCancel (.same (.modStream hw)))))

theorem Canon.refuse (hw : Canon w) : Canon (Machine.refuse q status w) :=
  .pushCpl (.ite (.winRefused (.raise hw)) (.raise hw))

theorem Canon.refuseSlot (hw : Canon w) : Canon (Machine.refuseSlot q status w) :=
  .refuse (.freeSlot (.releaseHoldings (.releaseShared (.dropWork hw))))

theorem Canon.takeSlot (hw : Canon w) : Canon (Machine.takeSlot q w) := .putStream hw

theorem Canon.copyPrompt (hw : Canon w) : Canon (Machine.copyPrompt q w) := .writeLog (.farReadEffects hw)

theorem Canon.tryStart (hw : Canon w) : Canon (Machine.tryStart s w) := by
  unfold Machine.tryStart
  split
  · exact .ite (.sendTwin (.same hw)) hw
  · exact hw

theorem Canon.enterDecode (hw : Canon w) : Canon (Machine.enterDecode s w) :=
  have h2 := Canon.ensureBlocks (.fillBlocks (.putStream hw));
  .ite (.tryStart (.sendTwin (.same h2))) h2

theorem Canon.admitReq {phase : Option Nat} {tbt : Nat} {shadow : Bool} (hw : Canon w) :
    Canon (Machine.admitReq q h phase ttft tbt shadow w) :=
  .finishCancel (.ite (.enterDecode (.syncClass0 (.putStream (.same (by
    split
    · exact .adBind hw
    · exact hw))))) (.syncClass0 (.putStream (.same (by
    split
    · exact .adBind hw
    · exact hw)))))

theorem Canon.shadowSetup {phase : Nat} {retried : Bool} (hw : Canon w) : Canon (Machine.shadowSetup q phase ttft retried w) :=
  .sendTwin (.putStream (.same (by
    split
    · exact .sendFar (.forEach (fun _ _ h5 => .sendFar h5) (.sendFar (.sendFar (.ite (.forEach (fun _ _ h1 => .allocBlock h1) hw) hw))))
    · exact .ite (.forEach (fun _ _ h1 => .allocBlock h1) hw) hw)))

theorem Canon.decideClass0 (hw : Canon w) : Canon (Machine.decideClass0 q h w) :=
  .ite (.refuseSlot hw) (.ite (.refuseSlot hw) (by
    split
    · exact .refuseSlot hw
    · exact .ite (.refuseSlot hw) (.ite (.refuseSlot hw) (.ite (.shadowSetup (.setReserve hw)) (.admitReq (.setReserve hw))))))

theorem Canon.decide' (hw : Canon w) : Canon (Machine.decide' q w) :=
  .ite (.decideClass0 hw) (.ite (by
    split
    · exact .ite (.refuseSlot hw) (.admitReq hw)
    · exact .refuseSlot hw) (.admitReq hw))

theorem Canon.runAdmission (hw : Canon w) : Canon (Machine.runAdmission q w) :=
  have h1 := Canon.copyPrompt (.takeSlot hw);
  .decide' (.ite (.lookupFor h1) h1)

theorem Canon.newRequest (hw : Canon w) : Canon (Machine.newRequest q w) := by
  unfold Machine.newRequest
  split
  · exact .refuse hw
  · split
    · exact .ite (.same (.takeSlot hw)) (.refuse hw)
    · split
      · exact .refuse hw
      · exact .ite (.ite (.refuse hw) (.same (.takeSlot hw))) (.runAdmission hw)

theorem Canon.resumeRequest {model : Bool} (hw : Canon w) : Canon (Machine.resumeRequest model q w) := by
  unfold Machine.resumeRequest
  dsimp only
  split
  · exact .refuse (.freeSlot hw)
  · exact .finishCancel (.modStream (.runAdmission hw))

theorem Canon.admissionDecision (hw : Canon w) : Canon (Machine.admissionDecision w) := by
  unfold Machine.admissionDecision
  split
  · exact hw
  · exact .ite (.ite (.cancel (.same hw)) (.winRefused (.same hw))) (.newRequest (.same hw))

theorem Canon.draftExtend {token : Word32} (hw : Canon w) : Canon (Machine.draftExtend s token w) :=
  .ite (.setChain hw) hw

end

/-! ## Precision -/

section

variable {l : LayerIx} {e : LayerIx × Nat} {m : LayerMap} {ch : List (LayerIx × Nat)} {weights : List (List F32)} {acts yn : List F32}
  {boundary s : Nat} {g : Rung} {x : Sample}

theorem Canon.writeCtx {f : Nat} {b : Bool} {c : CtxMap} (hw : Canon w) : Canon (Machine.writeCtx g m f b c w) := by
  unfold Machine.writeCtx
  split
  · exact hw
  · exact .pwr (.pwr (.pwr hw))

theorem Canon.writeBank (hw : Canon w) : Canon (Machine.writeBank ch w) := by
  unfold Machine.writeBank
  split
  · exact .forEach (fun _ _ h1 => by
      split
      · exact .writeCtx h1
      · exact h1) hw
  · exact hw

theorem Canon.startChange {byPair : Bool} (hw : Canon w) : Canon (Machine.startChange boundary byPair ch w) :=
  .same (.wrB (.writeBank hw))

theorem Canon.applyLayer (hw : Canon w) : Canon (Machine.applyLayer e w) := by
  unfold Machine.applyLayer
  split
  · exact hw
  · exact .modLayer (.inc (.wr hw))

theorem Canon.epochFlip (hw : Canon w) : Canon (Machine.epochFlip w) := by
  unfold Machine.epochFlip
  split
  · exact hw
  · exact .ite (.forEach (fun _ _ h2 => .applyLayer h2) (.same (.wrB hw))) hw

theorem Canon.commitWaiting (hw : Canon w) : Canon (Machine.commitWaiting w) :=
  .ite hw (.startChange (.same (.forEach (fun _ _ h1 => by
    split
    · exact .sendTwin h1
    · exact h1) hw)))

theorem Canon.commitNow (hw : Canon w) : Canon (Machine.commitNow w) :=
  .ite (.ite hw (.commitWaiting hw)) (.ite hw (.startChange (.same hw)))

theorem Canon.changeComplete (hw : Canon w) : Canon (Machine.changeComplete w) := by
  unfold Machine.changeComplete
  split
  · exact .ite (have h1 := Canon.wrB (.same hw); .commitNow (.ite (.sendTwin h1) h1)) hw
  · exact hw

theorem Canon.addWaiting (hw : Canon w) : Canon (Machine.addWaiting e w) := .same hw

theorem Canon.decisionEvent {code : BitVec 16} {old new : Nat} (hw : Canon w) : Canon (Machine.decisionEvent code l old new boundary w) :=
  .raise0 hw

theorem Canon.decideMove {up : Bool} (hw : Canon w) : Canon (Machine.decideMove up m w) :=
  have h1 := Canon.decisionEvent hw;
  .ite (.ite (.sendTwin (.modLayer h1)) (.ite (.commitNow (.addWaiting (.modLayer h1))) (.modLayer h1))) (.commitNow (.addWaiting (.modLayer h1)))

theorem Canon.restartQuiet (hw : Canon w) : Canon (Machine.restartQuiet l w) :=
  .ite (.sendTwin (.modLayer hw)) (.modLayer hw)

theorem Canon.evaluate {mean : Option F32} (hw : Canon w) : Canon (Machine.evaluate m mean w) :=
  .ite (have h2 := Canon.restartQuiet (.modLayer hw); .ite (.ite (.decideMove h2) h2) (.raise0 h2)) (.modLayer hw)

theorem Canon.evaluationPoint (hw : Canon w) : Canon (Machine.evaluationPoint l w) := by
  unfold Machine.evaluationPoint
  split
  · exact .ite (.evaluate hw) hw
  · exact hw

theorem Canon.deescalationDecision (hw : Canon w) : Canon (Machine.deescalationDecision l w) := by
  unfold Machine.deescalationDecision
  split
  · exact .ite (.decideMove hw) hw
  · exact hw

theorem Canon.takeSample {entered : Nat} (hw : Canon w) : Canon (Machine.takeSample s entered g m w) := by
  unfold Machine.takeSample
  split
  · exact hw
  · split
    · exact .same hw
    · exact hw

theorem Canon.ganderSlot (hw : Canon w) : Canon (Machine.ganderSlot s w) := by
  unfold Machine.ganderSlot
  split
  · exact .ite (.forEach (fun _ _ h1 => .takeSample h1) hw) hw
  · exact hw

theorem Canon.skipSamples (hw : Canon w) : Canon (Machine.skipSamples w) := by
  unfold Machine.skipSamples
  split
  · exact hw
  · exact .ite hw (.inc (.same hw))

theorem Canon.ganderRerun (hw : Canon w) : Canon (Machine.ganderRerun l yn w) := .same hw

theorem Canon.closeWindow {errs : List F32} (hw : Canon w) : Canon (Machine.closeWindow m errs w) := by
  unfold Machine.closeWindow
  exact .evaluate (.wr (.wr (.modLayer hw)))

theorem Canon.addSample {e : F32} (hw : Canon w) : Canon (Machine.addSample m e w) :=
  have h1 := Canon.wr (.modLayer hw);
  .ite (.closeWindow h1) h1

theorem Canon.grossSample {e : F32} (hw : Canon w) : Canon (Machine.grossSample x e w) :=
  .queueTest (.queueTest (.raise0 (.inc hw)))

theorem Canon.errorOf (hw : Canon w) : Canon (Machine.errorOf x yn weights acts w) :=
  .ite (.grossSample (.inc (.same hw))) (by
    split
    · exact .ite (.inc (.same hw)) (.addSample (.inc (.same hw)))
    · exact .inc (.same hw))

theorem Canon.ganderErrorCompute (hw : Canon w) : Canon (Machine.ganderErrorCompute l weights acts w) := by
  unfold Machine.ganderErrorCompute
  split
  · split
    · exact .errorOf hw
    · exact hw
  · exact hw

end

/-! ## Shadow -/

section

variable {h : HandOver} {toks : List Word32} {pos t : Nat} {late : Option Nat} {s : StreamIx} {tok : Word32}

theorem Canon.commitToken (hw : Canon w) : Canon (Machine.commitToken s t tok w) := .modStream (.writeLog hw)

theorem Canon.deliverToken {spec : Bool} (hw : Canon w) : Canon (Machine.deliverToken s t late spec tok w) := by
  unfold Machine.deliverToken
  dsimp only
  split
  · exact .raiseS (.winLate (.modStream (.pushToken (.winTokens (.commitToken hw)))))
  · exact .pushToken (.winTokens (.commitToken hw))

theorem Canon.deliverTokens {s : StreamIx} {t : Nat} {late : Option Nat} {l : List (Word32 × Bool)} (hw : Canon w) :
    Canon (Machine.deliverTokens s t late l w).2 := by
  induction l generalizing w with
  | nil => exact hw
  | cons x l ih =>
    unfold Machine.deliverTokens
    refine .iteSnd (.pair (.raiseS (.winLate hw))) ?_
    have htoken := Canon.deliverToken (s := s) (t := t) (late := late) (spec := x.2) (tok := x.1) hw
    dsimp only
    split
    · exact .pair (.ite (.winLate htoken) htoken)
    · exact ih htoken

theorem Canon.afterDelivery {e : Option (BitVec 8)} (hw : Canon w) : Canon (Machine.afterDelivery s e w) := by
  unfold Machine.afterDelivery
  dsimp only
  split
  · exact .endStream (.fillBlocks (.touchBlocks hw))
  · exact .syncRecord (.ensureBlocks (.fillBlocks (.touchBlocks hw)))

theorem Canon.sendCommits {s : StreamIx} {byOwner : Bool} {lAfter k pos : Nat} {toks : List Word32} (hw : Canon w) :
    Canon (Machine.sendCommits s byOwner lAfter k pos toks w) := by
  induction k generalizing pos toks w with
  | zero => exact hw
  | succ k ih => exact .ite (.sendTwin hw) (ih (.sendTwin hw))

theorem Canon.dropCommits (hw : Canon w) : Canon (Machine.dropCommits s w) := .same hw

theorem Canon.dropSlots (hw : Canon w) : Canon (Machine.dropSlots s w) := .same hw

theorem Canon.freeShadow {keepPhase : Bool} (hw : Canon w) : Canon (Machine.freeShadow keepPhase s w) :=
  .freeSlot (.dropCommits (.same (.releaseHoldings (.dropWork (.dropSlots hw)))))

theorem Canon.shadowEnds (hw : Canon w) : Canon (Machine.shadowEnds s w) :=
  .ite (.freeShadow hw) (.same (.putStream (.dropCommits hw)))

theorem Canon.mismatch {missing : Bool} (hw : Canon w) : Canon (Machine.mismatch s pos missing w) :=
  have h1 := Canon.raiseS (.inc hw);
  .shadowEnds (.ite h1 (.forEach (fun _ _ h2 => .queueTest h2) h1))

theorem Canon.finishShadow (hw : Canon w) : Canon (Machine.finishShadow s w) := .ite (.freeShadow hw) hw

theorem Canon.compareCommits (hw : Canon w) : Canon (Machine.compareCommits s w) := by
  unfold Machine.compareCommits
  split
  · exact hw
  · split
    · exact hw
    · exact .ite (.finishShadow (.same hw)) (.mismatch hw)

theorem Canon.ownCommit {byOwner : Bool} (hw : Canon w) : Canon (Machine.ownCommit s pos t toks byOwner w) :=
  .ite hw (.compareCommits (.sendCommits (.same hw)))

theorem Canon.shadowStep (hw : Canon w) : Canon (Machine.shadowStep s t toks w) :=
  .ownCommit (.syncRecord (by
    split
    · exact .modStream (.same (.forEach (fun _ _ h1 => .commitToken h1) hw))
    · exact .same (.forEach (fun _ _ h1 => .commitToken h1) hw)))

theorem Canon.backlogToken (hw : Canon w) : Canon (Machine.backlogToken s pos late tok w) := by
  unfold Machine.backlogToken
  dsimp only
  split
  · exact .raiseS (.winLate (.modStream (.pushToken (.winTokens (.modStream hw)))))
  · exact .pushToken (.winTokens (.modStream hw))

theorem Canon.deliverBacklog {after : Nat} (hw : Canon w) : Canon (Machine.deliverBacklog s after w) :=
  have h3 := Canon.forEach (fun _ _ h2 => .backlogToken h2) (.same hw);
  .ite (.endStream (.modStream h3)) h3

theorem Canon.handOff (hw : Canon w) : Canon (Machine.handOff s w) :=
  .sendTwin (.raiseS (.putStream (.dropCommits (.dropSlots hw))))

theorem Canon.syncSuspects (hw : Canon w) : Canon (Machine.syncSuspects w) := .ite (.wrF (.wrF hw)) (.wrF hw)

theorem Canon.clearSuspect (hw : Canon w) : Canon (Machine.clearSuspect s w) := by
  unfold Machine.clearSuspect
  split
  · exact .ite (.raiseS (.wrB (.syncSuspects (.same hw)))) hw
  · exact hw

theorem Canon.ownStep (hw : Canon w) : Canon (Machine.ownStep s h w) :=
  have h3 := Canon.clearSuspect (.afterDelivery (.ite (.deliverTokens (.setChain hw))
    (.ite (.ownCommit (.deliverTokens (.setChain hw))) (.ite (.sendCommits (.deliverTokens (.setChain hw)))
    (.deliverTokens (.setChain hw))))));
  .ite (.handOff h3) h3

theorem Canon.repairWords (hw : Canon w) : Canon (Machine.repairWords s w).2 :=
  have h2 := Canon.forEach (fun _ _ h1 => .raise0 h1) hw;
  .iteSnd (.pair (.endStream h2)) (.pair h2)

theorem Canon.withdrawStep {s : StreamIx} {kind : Bool} (hw : Canon w) : Canon (Machine.withdrawStep s kind w) := by
  unfold Machine.withdrawStep
  dsimp only
  split
  next e => exact .ofSnd (.repairWords (.raiseS (.inc (.same hw)))) e
  next w' e =>
    have hw' : Canon w' := .ofSnd (.repairWords (.raiseS (.inc (.same hw)))) e
    exact .ite (.ite (.mismatch hw') (.modStream hw')) (.ite (.handOff hw') hw')

theorem Canon.discardStep (hw : Canon w) : Canon (Machine.discardStep s h w) :=
  .finishCancel (.ite (.winLate hw) hw)

theorem Canon.stepConfirm (hw : Canon w) : Canon (Machine.stepConfirm s w) := by
  unfold Machine.stepConfirm
  split
  · exact hw
  · exact .ite hw (by
      dsimp only
      split
      · exact .finishCancel (.withdrawStep (.same hw))
      · exact .ite (.shadowStep (.same hw)) (have h2 := Canon.deliverBacklog (.same hw); .ite (.discardStep h2) (.ownStep h2)))

end

/-! ## Flip -/

section

variable {move0 : Bool} {b : Byte} {reason st : Nat} {s : StreamIx}

theorem Canon.setFlip (hw : Canon w) : Canon (Machine.setFlip st reason w) := .wrF (.wrF hw)

theorem Canon.flipStopped (hw : Canon w) : Canon (Machine.flipStopped b w) := .raise0 hw

theorem Canon.flipReject (hw : Canon w) : Canon (Machine.flipReject w) := .flipStopped (.wrB hw)

theorem Canon.flipBegin {set : Nat} {h : SetHeader} (hw : Canon w) : Canon (Machine.flipBegin move0 set h w) :=
  have h3 := Canon.wr (.wrB (.setFlip (.raise0 (.same hw))));
  .ite (.queueItems h3) h3

theorem Canon.flipStart (hw : Canon w) : Canon (Machine.flipStart move0 w) :=
  .ite hw (.ite (.flipReject hw) (.ite (.flipStopped (.setFlip hw)) (by
    split
    · exact .flipBegin hw
    · exact .flipStopped (.setFlip hw))))

theorem Canon.goOn (hw : Canon w) : Canon (Machine.goOn s w) :=
  .ite (.ensureBlocks (.setState (.same hw))) (.setState (.same hw))

theorem Canon.resumeParked (hw : Canon w) : Canon (Machine.resumeParked s w) :=
  .raiseS (.goOn (.modStream hw))

theorem Canon.streamPark (hw : Canon w) : Canon (Machine.streamPark s w) :=
  .ite (.raiseS (.wrF (.putStream (.same hw)))) hw

theorem Canon.refuseHeld (hw : Canon w) : Canon (Machine.refuseHeld w) :=
  .forEach (fun _ _ h1 => .refuse (.freeSlot h1)) (.same hw)

theorem Canon.dropParkAsks (hw : Canon w) : Canon (Machine.dropParkAsks w) :=
  .forEach (fun _ _ h1 => .modStream h1) hw

theorem Canon.flipOver (hw : Canon w) : Canon (Machine.flipOver st reason w) :=
  .dropItems (.dropParkAsks (.same (.wrB (.wr64 (.setFlip hw)))))

theorem Canon.abortFlip (hw : Canon w) : Canon (Machine.abortFlip b w) :=
  .forEach (fun _ _ h2 => .resumeParked h2) (.refuseHeld (.flipStopped (.flipOver hw)))

theorem Canon.flipAbort (hw : Canon w) : Canon (Machine.flipAbort w) :=
  .ite hw (.ite (.flipReject hw) (.abortFlip hw))

theorem Canon.setRefill {b : Bool} (hw : Canon w) : Canon (Machine.setRefill b w) :=
  .forEach (fun _ _ h1 => .modField h1) hw

theorem Canon.stopFlip (hw : Canon w) : Canon (Machine.stopFlip w) :=
  .ite hw (.ite (.refuseHeld (.flipStopped (.setRefill (.wr (.flipOver hw))))) (.abortFlip hw))

theorem Canon.retireAdapters (hw : Canon w) : Canon (Machine.retireAdapters w) :=
  .writeAdapterTable (.forEach (fun _ _ h1 => .ite (.adSettle (.wrF h1)) h1) hw)

theorem Canon.endShadows (hw : Canon w) : Canon (Machine.endShadows w) :=
  .forEach (fun _ _ h1 => .shadowEnds h1) hw

theorem Canon.admitHeld (hw : Canon w) : Canon (Machine.admitHeld w) :=
  .forEach (fun _ _ h1 => .resumeRequest h1) (.same hw)

theorem Canon.flipCommit (hw : Canon w) : Canon (Machine.flipCommit w) := by
  unfold Machine.flipCommit
  split
  · exact hw
  · exact .admitHeld (.writeHeader (.flipOver (.raise0 (.same (.retireAdapters (.wr64 (.wr hw)))))))

theorem Canon.refillFailed (hw : Canon w) : Canon (Machine.refillFailed w) :=
  .refuseHeld (.flipStopped (.writeHeader (.wr (.flipOver hw))))

theorem Canon.flipBuilt (hw : Canon w) : Canon (Machine.flipBuilt w) := .ite (.setFlip hw) hw

theorem Canon.drainExpired (hw : Canon w) : Canon (Machine.drainExpired w) := by
  unfold Machine.drainExpired
  split
  · exact hw
  · exact .ite (.raise0 (.forEach (fun _ _ h2 => .modStream h2) (.same hw))) hw

theorem Canon.startRefill {f : Flip} (hw : Canon w) : Canon (Machine.startRefill f w) :=
  have h1 := Canon.setRefill (.setFlip (.same hw));
  .ite (.flipCommit (.setRefill (.endShadows h1))) (.endShadows h1)

theorem Canon.drainComplete (hw : Canon w) : Canon (Machine.drainComplete w) := by
  unfold Machine.drainComplete
  split
  · exact hw
  · exact .ite (.ite (.wr64 (.same hw)) (.startRefill hw)) hw

theorem Canon.refillEntryDone {damaged : Bool} (hw : Canon w) : Canon (Machine.refillEntryDone damaged w) := by
  unfold Machine.refillEntryDone
  split
  · exact hw
  · exact .ite hw (.ite (.ite (.refillFailed hw) (.same hw)) (have h1 := Canon.wrF (.same hw); .ite (.flipCommit (.setRefill h1)) h1))

theorem Canon.wselSwitch (hw : Canon w) : Canon (Machine.wselSwitch w) := by
  unfold Machine.wselSwitch
  split
  · exact hw
  · exact .ite (.flipCommit (.endShadows (.same (.wrB (.forEach (fun _ _ h1 => .modField h1) hw))))) hw

end

/-! ## Adapters -/

section

variable {h : BitVec 16} {n : Fin 64} {i : Install}

theorem Canon.setAdapter {st : Nat} (hw : Canon w) : Canon (Machine.setAdapter st w) := .wrF hw

theorem Canon.adapterReject (hw : Canon w) : Canon (Machine.adapterReject h w) := .raise0 (.wrB hw)

theorem Canon.adapterError (hw : Canon w) : Canon (Machine.adapterError h w) := .raise0 (.setAdapter hw)

theorem Canon.takeAdapterSlot (hw : Canon w) : Canon (Machine.takeAdapterSlot i n w) :=
  .writeAdapterTable (.setAdapter (.wrF (.same (.wr (.wr hw)))))

theorem Canon.install (hw : Canon w) : Canon (Machine.install h w) :=
  .ite hw (.ite (.adapterReject hw) (.ite (.adapterError (.farSetEffects hw)) (by
    dsimp only
    split
    · exact .takeAdapterSlot (.farSetEffects hw)
    · exact .raise0 (.setAdapter (.same (.farSetEffects hw))))))

theorem Canon.adapterSlotTaken (hw : Canon w) : Canon (Machine.adapterSlotTaken w) := by
  unfold Machine.adapterSlotTaken
  split
  · exact .ite (.takeAdapterSlot hw) hw
  · exact hw

theorem Canon.retireCurrent (hw : Canon w) : Canon (Machine.retireCurrent h w) := by
  unfold Machine.retireCurrent
  split
  · exact .adSettle (.wrF hw)
  · exact hw

theorem Canon.adapterLoaded (hw : Canon w) : Canon (Machine.adapterLoaded i n w) := by
  unfold Machine.adapterLoaded
  exact .ite (.raise0 (.writeAdapterTable (.setAdapter (.wrF (.retireCurrent (.same hw))))))
    (.adapterError (.writeAdapterTable (.wr (.wr (.same hw)))))

theorem Canon.adapterLoadComplete (hw : Canon w) : Canon (Machine.adapterLoadComplete w) := by
  unfold Machine.adapterLoadComplete
  split
  · split
    · exact .adapterLoaded hw
    · exact hw
  · exact hw

theorem Canon.remove (hw : Canon w) : Canon (Machine.remove h w) :=
  .ite hw (.ite (.adapterReject hw) (.writeAdapterTable (.setAdapter (.retireCurrent (by
    split
    · exact .wrF hw
    · exact hw)))))

end

/-! ## Beat -/

section

variable {b : BoundaryIn} {c : Chunk} {f : FieldIx} {i t0 : Nat} {r : RotationSet} {g : Rung} {s : StreamIx}

theorem Canon.leaveSampler {logits : List (List F32)} (hw : Canon w) : Canon (Machine.leaveSampler logits w) := by
  unfold Machine.leaveSampler
  split
  · exact hw
  · exact .same (.modStream hw)

theorem Canon.shiftPipe (hw : Canon w) : Canon (Machine.shiftPipe w) := .same hw

theorem Canon.moveRole {k : Nat} (hw : Canon w) : Canon (Machine.moveRole g i r k w) :=
  have h1 := Canon.wrF (.same hw);
  .ite (.same h1) h1

theorem Canon.rotateSet (hw : Canon w) : Canon (Machine.rotateSet g i r w) :=
  .ite (by
    split
    · exact .moveRole hw
    · exact hw) hw

theorem Canon.rotateRoles (hw : Canon w) : Canon (Machine.rotateRoles g w) :=
  .forEach (fun _ _ h1 => .rotateSet h1) hw

theorem Canon.moveStaging {old new : Tile} {s : Staging} (hw : Canon w) : Canon (Machine.moveStaging old new s w) :=
  .setStaging (.modTile hw)

theorem Canon.moveStagings (hw : Canon w) : Canon (Machine.moveStagings g w) :=
  .forEach (fun _ _ h1 => .forEach (fun _ _ h2 => .forEach (fun _ _ h3 => .moveStaging h3) h2) h1) hw

theorem Canon.startDrain (hw : Canon w) : Canon (Machine.startDrain f w) := .raise0 (.wrF (.modField hw))

theorem Canon.startDrains (hw : Canon w) : Canon (Machine.startDrains g w) :=
  .forEach (fun _ _ h1 => .ite (.startDrain h1) h1) hw

theorem Canon.streamsGoOn (hw : Canon w) : Canon (Machine.streamsGoOn w) :=
  .forEach (fun _ _ h3 => .finishCancel (.same h3)) (.forEach (fun _ _ h1 => .resumeParked h1) hw)

theorem Canon.expire (hw : Canon w) : Canon (Machine.expire s w) := .ite (.endStream (.raiseS hw)) hw

theorem Canon.restoreReady (hw : Canon w) : Canon (Machine.restoreReady w) :=
  .forEach (fun _ _ h1 => .restoreStream h1) hw

theorem Canon.beforeChoice (hw : Canon w) : Canon (Machine.beforeChoice w) :=
  .ite (by
    split
    · exact .expire hw
    · exact hw) (.ite hw (.restoreReady (.forEach (fun _ _ h1 => .expire h1) hw)))

theorem Canon.watchStep (hw : Canon w) : Canon (Machine.watchStep s w) := by
  unfold Machine.watchStep
  split
  · exact .ite (.same hw) hw
  · exact hw

theorem Canon.admitSlot (hw : Canon w) : Canon (Machine.admitSlot s w) :=
  .ganderSlot (.wr64 (.watchStep (.modStream (.same (.epochFlip hw)))))

theorem Canon.emptyBeat (hw : Canon w) : Canon (Machine.emptyBeat w) := .inc hw

theorem Canon.chooseSlot {accepted : Bool} (hw : Canon w) : Canon (Machine.chooseSlot accepted w) :=
  .ite (.emptyBeat (.beforeChoice hw)) (by
    split
    · exact .writeFlight (.admitSlot (.beforeChoice hw))
    · exact .writeFlight (.emptyBeat (.beforeChoice hw)))

theorem Canon.applyStretch (hw : Canon w) : Canon (Machine.applyStretch w) := by
  unfold Machine.applyStretch
  dsimp only
  split
  · exact .ite (.same (by
  split
  · exact .ite (.same hw) hw
  · exact hw)) (by
  split
  · exact .ite (.same hw) hw
  · exact hw)
  · exact (by
  split
  · exact .ite (.same hw) hw
  · exact hw)

theorem Canon.pairBoundary (hw : Canon w) : Canon (Machine.pairBoundary b w) :=
  .ite hw (.ite (.wr64 (.same (.wr hw))) (.wr hw))

theorem Canon.planMiss (hw : Canon w) : Canon (Machine.planMiss w) := .raise0 (.wrB (.inc hw))

theorem Canon.planBeat {align : Nat} (hw : Canon w) : Canon (Machine.planBeat align w) :=
  .same (.wrB (.wr (.inc (.ite (.planMiss (.wr64 hw)) (.wr64 hw)))))

theorem Canon.showHeld (hw : Canon w) : Canon (Machine.showHeld f w) := .wrB hw

theorem Canon.pulseField {n : Nat} (hw : Canon w) : Canon (Machine.pulseField n f w) :=
  .modField (.forEach (fun _ _ h1 => .pulseTile h1) hw)

theorem Canon.pulseFields (hw : Canon w) : Canon (Machine.pulseFields w) :=
  .forEach (fun _ _ h1 => .showHeld (.ite (.pulseField h1) h1)) hw

theorem Canon.structural (hw : Canon w) : Canon (Machine.structural w) := by
  unfold Machine.structural
  dsimp only
  split
  · exact .moveStagings (.rotateRoles (.startDrains (.wselSwitch hw)))
  · exact .wselSwitch hw

theorem Canon.beatBoundary (hw : Canon w) : Canon (Machine.beatBoundary b w) :=
  .ite (.pulseFields (.planBeat (.chooseSlot (.applyStretch (.pairBoundary
    (.streamsGoOn (.structural (.skipSamples (.shiftPipe (.leaveSampler (.wr64 hw))))))))))) hw

theorem Canon.beatPlanWord {lead : Nat} (hw : Canon w) : Canon (Machine.beatPlanWord lead w) :=
  .ite (.same hw) (.same hw)

theorem Canon.startField (hw : Canon w) : Canon (Machine.startField f w) :=
  .modField (.wrB (.forEach (fun _ _ h3 => .modTile h3) (.forEach (fun _ _ h1 => .pulseTile h1) hw)))

theorem Canon.beatStart (hw : Canon w) : Canon (Machine.beatStart w) :=
  .ite (.wrB (.forEach (fun _ _ h2 => .showHeld (.ite (.startField h2) h2)) (.ite hw (.setRefill hw)))) hw

theorem Canon.correctCopy {d : Nat} {x : ℤ} (hw : Canon w) : Canon (Machine.correctCopy d x w) :=
  .ite (.raise0 (.ite (.wr (.wrB (.same hw))) (.wrB (.same hw)))) (.same hw)

theorem Canon.timeBroadcast {diffs : List (Nat × ℤ)} (hw : Canon w) : Canon (Machine.timeBroadcast diffs w) :=
  .forEach (fun _ _ h1 => .correctCopy h1) hw

theorem Canon.addLayerCounts {c : LayerCounts} (hw : Canon w) : Canon (Machine.addLayerCounts c w) :=
  .modLayer (.inc (.inc (.inc hw)))

theorem Canon.noteTaint {r : BeatReport} (hw : Canon w) : Canon (Machine.noteTaint r w) := by
  unfold Machine.noteTaint
  split
  · exact .ite hw (.same hw)
  · exact hw

theorem Canon.countReport {t : Tile} (hw : Canon w) : Canon (Machine.countReport t w) := by
  unfold Machine.countReport
  split
  · exact hw
  · exact .noteTaint (.forEach (fun _ _ h1 => .addLayerCounts h1) (.modTile hw))

theorem Canon.setFreeze {b : Bool} (hw : Canon w) : Canon (Machine.setFreeze b w) :=
  .forEach (fun _ _ h1 => .showHeld (.modField h1)) hw

theorem Canon.freezeBegin (hw : Canon w) : Canon (Machine.freezeBegin w) :=
  .ite (have h1 := Canon.setFreeze (.same hw); .ite (.sendTwins (.raise0 (.wrB (.wrB h1)))) (.raise0 (.wrB (.wrB h1)))) hw

theorem Canon.rotateJob (hw : Canon w) : Canon (Machine.rotateJob w) := by
  unfold Machine.rotateJob
  split
  · exact hw
  · exact .forEach (fun _ _ h1 => .ite (by
      split
      · exact .moveRole h1
      · exact h1) h1) hw

theorem Canon.noteRecompute (hw : Canon w) : Canon (Machine.noteRecompute c w) := by
  unfold Machine.noteRecompute
  split
  · split
    · exact .ite (.raiseS hw) hw
    · exact hw
  · exact hw

theorem Canon.runChunk {g : Machine.Group} (hw : Canon w) : Canon (Machine.runChunk i g c w) :=
  .writeFlight (.rotateJob (.noteRecompute (by
    split
    · exact .ite (.same (.same hw)) (.same hw)
    · exact .same hw)))

theorem Canon.chunkStart {i : Nat} {accepted : Bool} (hw : Canon w) : Canon (Machine.chunkStart i accepted w) := by
  unfold Machine.chunkStart
  split
  · exact hw
  refine .ite ?_ hw
  split
  · exact hw
  · split
    next e => exact .runChunk (.ofSnd (.ensureBlocks hw) e)
    next e => exact .ofSnd (.ensureBlocks hw) e

theorem Canon.storeChunks {a e : Nat} (hw : Canon w) : Canon (Machine.storeChunks s a e w) := by
  unfold Machine.storeChunks
  split
  · exact hw
  · exact .forEach (fun _ _ h1 => .forEach (fun _ _ h2 => .mirrorItem (.setFlushed h2)) h1) hw

theorem Canon.rerunChunk {kind : Bool} (hw : Canon w) : Canon (Machine.rerunChunk c kind w) :=
  .repairWords (.raiseS (.inc (.same hw)))

theorem Canon.leavePrefill (hw : Canon w) : Canon (Machine.leavePrefill s w) :=
  have h1 := Canon.ite (.enterDecode hw) (.ensureBlocks (.setState hw));
  .ite (.expire h1) h1

theorem Canon.chunkResult (hw : Canon w) : Canon (Machine.chunkResult c t0 w) := by
  unfold Machine.chunkResult
  split
  · exact .touchBlocks (.fillBlocks (.storeChunks (.putStream hw)))
  · dsimp only
    split
    · exact .ite (.raiseS (.inc (.putBlock (.storeChunks hw)))) (.storeChunks hw)
    · exact .storeChunks hw

theorem Canon.finishChunk (hw : Canon w) : Canon (Machine.finishChunk c t0 w) :=
  .ite hw (.ite (.finishCancel hw) (by
    split
    · exact .rerunChunk hw
    · exact .ite (by
        split
        · exact .ite (.same (.chunkResult hw)) (.chunkResult hw)
        · exact (.chunkResult hw)) (.leavePrefill (by
        split
        · exact .ite (.same (.chunkResult hw)) (.chunkResult hw)
        · exact .chunkResult hw))))

theorem Canon.chunkEnd (hw : Canon w) : Canon (Machine.chunkEnd i w) := by
  unfold Machine.chunkEnd
  split
  · exact hw
  · split
    · exact hw
    · exact .finishChunk (.same hw)

end

/-! ## Weights -/

section

variable {src : BitVec 16} {bs : List Byte} {o : LoadOp} {a n reason st : Nat} {p : PortIx}

theorem Canon.setLoad (hw : Canon w) : Canon (Machine.setLoad st reason w) := .wrF (.wrF hw)

theorem Canon.loadReject (hw : Canon w) : Canon (Machine.loadReject w) := .raise0 (.wrB hw)

theorem Canon.sendMule (hw : Canon w) : Canon (Machine.sendMule p a n w) :=
  .forEach (fun _ _ h1 => .sendMsg (.modPort h1)) hw

theorem Canon.landSet (hw : Canon w) : Canon (Machine.landSet a bs w) :=
  have h1 := Canon.writeFar (.touchVerified hw);
  .ite (.forEach (fun _ _ h2 => .sendMule h2) h1) h1

theorem Canon.addDone (hw : Canon w) : Canon (Machine.addDone n w) := .wr64 hw

theorem Canon.beginLoad {h : SetHeader} {receive bad : Bool} (hw : Canon w) : Canon (Machine.beginLoad st h receive bad w) :=
  .wr64 (.setLoad (.same hw))

theorem Canon.setLoadCmd {bytes : List Byte} (hw : Canon w) : Canon (Machine.setLoadCmd bytes w) :=
  .ite hw (.ite (.loadReject hw) (.ite (.beginLoad hw) (.addDone (.ite (.beginLoad hw) (.landSet (.beginLoad hw))))))

theorem Canon.verify (hw : Canon w) : Canon (Machine.verify w) :=
  .ite hw (.ite (.loadReject hw) (have h1 := Canon.beginLoad (.farSetEffects hw); .ite h1 (.addDone h1)))

theorem Canon.tellReceivers (hw : Canon w) : Canon (Machine.tellReceivers w) :=
  .forEach (fun _ _ h1 => .sendMsg h1) hw

theorem Canon.loadFails (hw : Canon w) : Canon (Machine.loadFails reason w) :=
  have h1 := Canon.raise0 (.setLoad (.same hw));
  .ite (.tellReceivers h1) h1

theorem Canon.loadAbort (hw : Canon w) : Canon (Machine.loadAbort w) :=
  .ite hw (.ite (.loadFails hw) (.loadReject hw))

theorem Canon.putLoad (hw : Canon w) : Canon (Machine.putLoad o w) := .same hw

theorem Canon.digestBad {e : ManifestEntry} (hw : Canon w) : Canon (Machine.digestBad o e w) :=
  .ite (.putLoad (.raise0 hw)) (.ite (.putLoad (.raise0 hw)) (by
    dsimp only
    split
    · exact .sendMsg (.inc (.putLoad (.raise0 hw)))
    · exact .inc (.putLoad (.raise0 hw))))

theorem Canon.layerDigest {data : List Byte} (hw : Canon w) : Canon (Machine.layerDigest data w) := by
  unfold Machine.layerDigest
  split
  · exact hw
  · split
    · exact have h1 := Canon.ite (.landSet hw) (.farReadEffects hw); .ite (.addDone (.putLoad h1)) (.digestBad h1)
    · exact hw

theorem Canon.loadDone {hostError : Bool} (hw : Canon w) : Canon (Machine.loadDone hostError w) := by
  unfold Machine.loadDone
  split
  · exact hw
  · split
    · exact .loadFails hw
    · exact .ite (.loadFails hw) (.ite (.raise0 (.wr64 (.setLoad (.same hw)))) hw)

theorem Canon.dropTransfer {op src addr : Nat} (hw : Canon w) : Canon (Machine.dropTransfer p op src addr w) :=
  .raise0 (.inc hw)

theorem Canon.muleReceive (hw : Canon w) : Canon (Machine.muleReceive p src a bs w) :=
  .ite (by
    dsimp only
    split
    · exact .ite (.putLoad (.writeFar (.touchVerified hw))) (.writeFar (.touchVerified hw))
    · exact (.writeFar (.touchVerified hw))) (.dropTransfer (.raise0 (.inc hw)))

theorem Canon.muleData {a : FAddr} (hw : Canon w) : Canon (Machine.muleData p src a bs w) :=
  .ite (.muleReceive hw) hw

theorem Canon.sendItem {t : Tile} {x : LoadItem} (hw : Canon w) : Canon (Machine.sendItem t x w) := by
  unfold Machine.sendItem
  dsimp only
  split
  · exact .nakNoted (.nextOp (.farReadEffects hw))
  · exact .forEach (fun _ _ h3 => .routerTake h3) (.nextOp (.farReadEffects hw))

theorem Canon.loadItemPop {n : Fin 32} (hw : Canon w) : Canon (Machine.loadItemPop n w) := by
  unfold Machine.loadItemPop
  dsimp only
  split
  · exact hw
  · exact .ite (.sendItem (.advanceHead (.ringWrite (.same hw)))) hw

theorem Canon.loadItemComplete {seq : BitVec 32} (hw : Canon w) : Canon (Machine.loadItemComplete seq w) := by
  unfold Machine.loadItemComplete
  split
  · exact .ite (.same hw) hw
  · exact hw

end

/-! ## Blocks -/

section

variable {b timedOut : Bool} {c : CtxMap} {f : FieldIx} {kind : Fin 3} {cause : Fin 4} {g : Gateway} {drops i reason row st : Nat} {p : PortIx}
  {t : Tile}

theorem Canon.setPark (hw : Canon w) : Canon (Machine.setPark f st w) := .modField (.wrF hw)

theorem Canon.parkRejected (hw : Canon w) : Canon (Machine.parkRejected f reason w) := .raise0 (.wrF hw)

theorem Canon.setClock (hw : Canon w) : Canon (Machine.setClock f b w) := .wrB hw

theorem Canon.setZones {v : Nat} (hw : Canon w) : Canon (Machine.setZones f v w) :=
  .ite (.ite hw (.wrF hw)) (.wrF (.ite hw (.wrF hw)))

theorem Canon.setWithheld {g : Withheld → Withheld} (hw : Canon w) : Canon (Machine.setWithheld f g w) :=
  .showHeld (.modField hw)

theorem Canon.pulsesBack (hw : Canon w) : Canon (Machine.pulsesBack f w) := .setWithheld hw

theorem Canon.countDrops {n ty inst : Nat} (hw : Canon w) : Canon (Machine.countDrops n ty inst w) :=
  .ite hw (.raise0 (.inc hw))

theorem Canon.clearSeams (hw : Canon w) : Canon (Machine.clearSeams f w) :=
  .modField (.forEach (fun _ _ h1 => .modField h1) hw)

theorem Canon.clearField {f : FieldIx} (hw : Canon w) : Canon (Machine.clearField f w) :=
  .wrB (.modField (.clearSeams (.forEach (fun _ _ h => .modTile h)
    { hw with store := smFilter_wf _ _ _ _ hw.store, page := smFilter_wf _ _ _ _ hw.page })))

theorem Canon.zeroed (hw : Canon w) : Canon (Machine.zeroed f w) := .forEach (fun _ _ h1 => .modTile h1) hw

theorem Canon.writeProgram {p : Program} (hw : Canon w) : Canon (Machine.writeProgram t p w) := .same hw

theorem Canon.writeRing {r : RingMap} (hw : Canon w) : Canon (Machine.writeRing t r w) :=
  .pwr (.pwr (.pwr (.pwr (.pwrB hw))))

theorem Canon.writeWindow {v : WindowMap} (hw : Canon w) : Canon (Machine.writeWindow t v w) :=
  .pwr (.pwr (.pwr hw))

theorem Canon.putCtx {m : LayerMap} {fmt : Nat} (hw : Canon w) : Canon (Machine.putCtx m fmt b c t w) :=
  .pwr (.pwr (.pwr hw))

theorem Canon.putBanks {layers : List LayerMap} (hw : Canon w) : Canon (Machine.putBanks layers c t w) := by
  unfold Machine.putBanks
  split
  · exact hw
  · exact .putCtx (.putCtx hw)

theorem Canon.writeTables {g : Rung} (hw : Canon w) : Canon (Machine.writeTables g f w) := .modField (.wr hw)

theorem Canon.writeField (hw : Canon w) : Canon (Machine.writeField f w) := by
  unfold Machine.writeField
  split
  · exact .forEach (fun _ _ h10 => by
      split
      · exact .putBanks h10
      · exact h10) (.forEach (fun _ _ h8 => by
      split
      · exact .pwr (.pwr h8)
      · exact h8) (.forEach (fun _ _ h6 => by
      split
      · exact .writeWindow h6
      · exact h6) (.forEach (fun _ _ h4 => by
      split
      · exact .writeRing h4
      · exact h4) (.forEach (fun _ _ h2 => by
      split
      · exact .writeProgram h2
      · exact h2) (.wr (.writeTables hw))))))
  · exact hw

theorem Canon.startTiles (hw : Canon w) : Canon (Machine.startTiles f w) := by
  unfold Machine.startTiles
  split
  · exact hw
  · exact .forEach (fun _ _ h1 => .modTile h1) hw

theorem Canon.joinBeats (hw : Canon w) : Canon (Machine.joinBeats f w) := .showHeld (.ite (.startField hw) hw)

theorem Canon.markReset (hw : Canon w) : Canon (Machine.markReset f b w) := .wrB64 hw

theorem Canon.abandonDrain (hw : Canon w) : Canon (Machine.abandonDrain f reason w) :=
  .parkRejected (.pulsesBack (.modField (.setPark hw)))

theorem Canon.fieldResetDone {cause ns : Nat} (hw : Canon w) : Canon (Machine.fieldResetDone f cause row timedOut ns w) :=
  .ite (.raise0 hw) (.raise0 (.raise0 hw))

theorem Canon.startFieldReset (hw : Canon w) : Canon (Machine.startFieldReset f cause row w) :=
  .ite hw (.ite (.ite hw (.modField hw)) (.ite (.fieldResetDone (.zeroed (.clearField hw)))
    (.markReset (.setWithheld (.modField (.ite (.abandonDrain hw) hw))))))

theorem Canon.applyFieldReset (hw : Canon w) : Canon (Machine.applyFieldReset f timedOut drops w) := by
  unfold Machine.applyFieldReset
  split
  · exact hw
  · exact .clearField (.countDrops (.setFieldState (.modField hw)))

theorem Canon.openAfterReset (hw : Canon w) : Canon (Machine.openAfterReset f w) :=
  have h1 := Canon.writeField (.setFieldState (.zeroed hw));
  .ite (.setPark h1) h1

theorem Canon.reopenAfterReset {r : FieldReset} (hw : Canon w) : Canon (Machine.reopenAfterReset f r w) :=
  have h2 := Canon.fieldResetDone (.markReset (.modField hw));
  .ite h2 (.joinBeats (.startTiles (.pulsesBack h2)))

theorem Canon.fieldResetReopen (hw : Canon w) : Canon (Machine.fieldResetReopen f w) := by
  unfold Machine.fieldResetReopen
  split
  · exact hw
  · exact .ite hw (.ite (have h1 := Canon.openAfterReset hw; .ite h1 (.reopenAfterReset h1)) (.reopenAfterReset hw))

theorem Canon.startGatewayReset (hw : Canon w) : Canon (Machine.startGatewayReset g w) := .ite hw (.modGw hw)

theorem Canon.clearGwRegs {g : Gateway} (hw : Canon w) : Canon (Machine.clearGwRegs g w) :=
  { hw with bar0 := smFilter_wf _ _ _ _ hw.bar0 }

theorem Canon.abandonReq {r : FarReq} (hw : Canon w) : Canon (Machine.abandonReq r w) :=
  .ite (.farNak hw) (.pwrB64 hw)

theorem Canon.applyGatewayReset (hw : Canon w) : Canon (Machine.applyGatewayReset g timedOut drops w) :=
  .ite hw (.raise0 (.clearGwRegs (.modGw (.countDrops (.forEach (fun _ _ h1 => .abandonReq h1) hw)))))

theorem Canon.setPort {width : Nat} (hw : Canon w) : Canon (Machine.setPort p st width w) :=
  .ite hw (.raise0 (.wr hw))

theorem Canon.startPortReset (hw : Canon w) : Canon (Machine.startPortReset p cause w) :=
  .ite hw (.setPort (.modPort hw))

theorem Canon.applyPortReset (hw : Canon w) : Canon (Machine.applyPortReset p timedOut drops w) := by
  unfold Machine.applyPortReset
  split
  · exact hw
  · exact .setPort (.wr64 (.inc (.modPort (.countDrops (.ite (by
      split
      · exact .forEach (fun _ _ h1 => .sendMsgAt h1) hw
      · exact hw) hw)))))

theorem Canon.applyReset (hw : Canon w) : Canon (Machine.applyReset kind i timedOut drops w) := by
  unfold Machine.applyReset
  split
  · exact .applyFieldReset hw
  · exact .applyGatewayReset hw
  · exact .applyPortReset hw

theorem Canon.quiesceComplete (hw : Canon w) : Canon (Machine.quiesceComplete kind i drops w) :=
  .ite (.applyReset hw) hw

theorem Canon.quiesceTimeout (hw : Canon w) : Canon (Machine.quiesceTimeout kind i drops w) := by
  unfold Machine.quiesceTimeout
  split
  · exact hw
  · exact .ite hw (.applyReset (.raise0 (.inc hw)))

end

/-! ## Failover -/

section

variable {cause : Fin 5} {s : StreamIx}

theorem Canon.recomputeTail (hw : Canon w) : Canon (Machine.recomputeTail s w) := .setState (.same hw)

theorem Canon.newOrder (hw : Canon w) : Canon (Machine.newOrder s w) := .modStream (.same hw)

theorem Canon.restoreSlot (hw : Canon w) : Canon (Machine.restoreSlot s w) := by
  unfold Machine.restoreSlot
  dsimp only
  split
  · exact .endStream hw
  · exact .ite (.putStream (.same (.newOrder hw))) (.recomputeTail (.newOrder hw))
  · exact .recomputeTail (.newOrder hw)
  · exact .recomputeTail (.newOrder hw)
  · exact hw

theorem Canon.dropFlights (hw : Canon w) : Canon (Machine.dropFlights w) := .same hw

theorem Canon.restoreSlots (hw : Canon w) : Canon (Machine.restoreSlots w) :=
  .forEach (fun _ _ h1 => .restoreSlot h1) (.dropFlights hw)

theorem Canon.dropShadows (hw : Canon w) : Canon (Machine.dropShadows w) :=
  .forEach (fun _ _ h1 => .freeShadow h1) hw

theorem Canon.endStreams {status : BitVec 8} (hw : Canon w) : Canon (Machine.endStreams status w) :=
  .forEach (fun _ _ h2 => .endStream h2) (.dropShadows (.dropFlights hw))

theorem Canon.dropReservation (hw : Canon w) : Canon (Machine.dropReservation s w) := by
  unfold Machine.dropReservation
  dsimp only
  split
  · exact .ite (.wrF hw) hw
  · exact hw

theorem Canon.releaseSlot (hw : Canon w) : Canon (Machine.releaseSlot s w) :=
  .ite (.freeShadow hw) (.freeSlot (.dropReservation (.releaseHoldings (.releaseShared (.dropWork hw)))))

theorem Canon.releaseSlots (hw : Canon w) : Canon (Machine.releaseSlots w) :=
  .forEach (fun _ _ h1 => .releaseSlot h1) (.dropFlights hw)

theorem Canon.tellFailing (hw : Canon w) : Canon (Machine.tellFailing cause w) := .ite (.sendTwins hw) hw

theorem Canon.refuseSetups (hw : Canon w) : Canon (Machine.refuseSetups w) :=
  .forEach (fun _ _ h1 => .refuseSlot h1) (.same hw)

theorem Canon.unpair {st : Nat} (hw : Canon w) : Canon (Machine.unpair st w) :=
  .writeHeader (.wrF (.same (.forEach (fun _ _ h2 => .ite (.putStream h2) h2) (.refuseSetups hw))))

theorem Canon.leavePair (hw : Canon w) : Canon (Machine.leavePair cause w) :=
  .ite (.unpair (.dropShadows (.tellFailing hw))) hw

end

/-! ## Boot -/

section

variable {b d : List Byte} {cause field m row : Nat} {old : W9}

theorem flashWrite_wf {k : Nat} {bs : List Byte} {m : List Host.Cell} (hm : smWf flashEmpty m = true) :
    smWf flashEmpty (flashWrite k bs m) = true := by
  induction bs generalizing k m with
  | nil => exact hm
  | cons b bs ih => exact ih (smPut_wf _ _ _ _ hm)

theorem Canon.abandonOpt (hw : Canon w) : Canon (Machine.abandonOpt w) := by
  unfold Machine.abandonOpt
  split
  · exact hw
  · exact .ite (.same hw) { hw with flash := flashWrite_wf hw.flash }

/-- A reset empties every map but host memory and the option store. -/
theorem Canon.resetFrom (hw : Canon w) : Canon (Machine.resetFrom w) :=
  ⟨rfl, rfl, hw.hostMem, hw.flash, rfl, rfl⟩

theorem Canon.setCause (hw : Canon w) : Canon (Machine.setCause cause row field w) := .wr hw

theorem Canon.powerOn (hw : Canon w) : Canon (Machine.powerOn w) := .resetFrom (.abandonOpt hw)

theorem Canon.coldReset (hw : Canon w) : Canon (Machine.coldReset cause w) :=
  .ite (.setCause (.resetFrom (.abandonOpt hw))) hw

theorem Canon.referenceLoss (hw : Canon w) : Canon (Machine.referenceLoss w) := .ite (.wrB (.coldReset hw)) hw

theorem Canon.inputCutoff (hw : Canon w) : Canon (Machine.inputCutoff w) :=
  .ite (.same (.resetFrom (.abandonOpt hw))) hw

theorem Canon.keepIsolated (hw : Canon w) : Canon (Machine.keepIsolated old w) :=
  .forEach (fun _ _ h2 => .ite (.wrF (.ite (.wrF (.ite (.wrF h2) h2)) (.ite (.wrF h2) h2)))
    (.ite (.wrF (.ite (.wrF h2) h2)) (.ite (.wrF h2) h2))) (.wr64 hw)

theorem Canon.keepRetired (hw : Canon w) : Canon (Machine.keepRetired old w) :=
  .forEach (fun _ _ h1 => .ite h1 (.wrF h1)) hw

theorem keepWarm_wf {m : SMap Word32} (hm : smWf regReset m = true) : smWf regReset (keepWarm m) = true := smFilter_wf _ _ _ _ hm

theorem Canon.applyWarm {cause row field : Nat} {crit : Option CritError} (hw : Canon w) :
    Canon (Machine.applyWarm cause row field crit w) := by
  have hopt := Canon.abandonOpt (Canon.tellFailing (cause := 0) hw)
  exact .setCause (.wr (.keepRetired (.keepIsolated
    ⟨hopt.far, rfl, hopt.hostMem, hopt.flash, keepWarm_wf hopt.bar0, rfl⟩)))

theorem Canon.warmReset {crit : Option CritError} (hw : Canon w) : Canon (Machine.warmReset cause row field crit w) :=
  .ite hw (.ite hw (.ite hw (.applyWarm hw)))

theorem Canon.hangDetect {f : Option FieldIx} (hw : Canon w) : Canon (Machine.hangDetect cause f w) :=
  .warmReset (.wr64 (.wrF (.wrF hw)))

theorem Canon.enterSafe {cause : Fin 4} {boot : Nat} (hw : Canon w) : Canon (Machine.enterSafe cause boot w) :=
  .wrF (.wrF (.wrB (.same hw)))

theorem Canon.extendMeas (hw : Canon w) : Canon (Machine.extendMeas m d w) :=
  .forEach (fun _ _ h1 => .wr h1) hw

theorem Canon.noteExtend (hw : Canon w) : Canon (Machine.noteExtend m d w) := .raise0 hw

theorem Canon.applyMaps {c : Nat} (hw : Canon w) : Canon (Machine.applyMaps c b w) :=
  .same (.wrF (.wrF (.wr (.wr (.forEach (fun _ _ h5 => .wrF h5) (.forEach (fun _ _ h3 => .ite h3 (.wrB h3))
    (.wrF (.wrB (.wrB (.wrB (.same hw)))))))))))

theorem Canon.lostAtBoot {gen : Nat} (hw : Canon w) : Canon (Machine.lostAtBoot gen w) :=
  .forEach (fun _ _ h2 => .ite (.wrB (.wrB (.setFieldState (.wrB64 (.wrB64 h2))))) (.wrB64 h2)) (.ite (.wr hw) hw)

theorem Canon.powerFields (hw : Canon w) : Canon (Machine.powerFields w) :=
  .forEach (fun _ _ h2 => .setZones (.ite (.wr h2) (.wrF (.wr h2)))) (.wr64 (.wr64 (.wr hw)))

theorem Canon.bootDone {bad : Option Nat} {key : Option Bool} {digests : List (List Byte)} (hw : Canon w) :
    Canon (Machine.bootDone bad key digests w) := by
  unfold Machine.bootDone
  extract_lets _ _ _ _ _ _ _ started badCopy _ safe _ checked _ crit _
  have hstarted : Canon started := .raise0 (.forEach (fun _ _ h => .ite (.setPort h) h) (.wrF (.same hw)))
  have hbad : Canon badCopy := by
    cases bad with
    | some _ => exact .raise0 hstarted
    | none => exact hstarted
  have hsafe : Canon safe := by
    unfold safe
    split
    · exact .raise0 (.same hbad)
    · exact hbad
  have hchecked : Canon checked := .forEach (fun _ _ h => .noteExtend h) (.ite hsafe (.raise0 hsafe))
  have hcrit : Canon crit := by
    unfold crit
    split
    · exact .raise0 (.same hchecked)
    · exact hchecked
  exact .ite (.raise0 (.same hcrit)) hcrit

theorem Canon.bootRom {bad : Option Nat} {bootNs : Nat} (hw : Canon w) : Canon (Machine.bootRom bad b bootNs w) :=
  .ite (.enterSafe hw) (by
    split
    · exact .enterSafe hw
    · exact .bootDone (.same (.wr (.lostAtBoot (.powerFields (.wr (.same (.wrB (.wrB (.forEach (fun _ _ h1 => .extendMeas h1) hw))))))))))

theorem Canon.resetRelease {bootNs : Nat} (hw : Canon w) : Canon (Machine.resetRelease bootNs w) := by
  refine .ite hw ?_
  dsimp only
  split
  · exact .bootRom (.applyMaps (.same hw))
  · split
    · exact .bootRom (.applyMaps (.same hw))
    · exact .enterSafe (.same hw)

theorem Canon.rstReject (hw : Canon w) : Canon (Machine.rstReject w) := .wrB hw

theorem Canon.blockCommand {limit : Nat} {index : BitVec 16} {go : W9 → W9} (hgo : ∀ v, Canon v → Canon (go v)) (hw : Canon w) :
    Canon (Machine.blockCommand limit index go w) := .ite hw (.ite (.rstReject hw) (.ite hw (hgo _ hw)))

theorem Canon.linkPortReset {p : PortIx} {force : Bool} (hw : Canon w) : Canon (Machine.linkPortReset p force w) :=
  .ite (.rstReject hw) (.startPortReset hw)

theorem Canon.critField {f : FieldIx} (hw : Canon w) : Canon (Machine.critField row f w) :=
  have h2 := Canon.startFieldReset (.wrF (.wrF hw));
  .ite (.applyFieldReset h2) h2

theorem Canon.criticalStateError {e : CritError} (hw : Canon w) : Canon (Machine.criticalStateError e w) :=
  .ite hw (.ite (.raise0 (.inc hw)) (by
    split
    · exact .ite (.critField (.inc hw)) (.warmReset (.inc hw))
    · exact .ite (.warmReset (.inc hw)) (.inc hw)))

end

/-! ## Parking -/

section

variable {f : FieldIx}

theorem Canon.parkOrder (hw : Canon w) : Canon (Machine.parkOrder f w) :=
  .ite (.modField hw) (.ite (.modField hw) (.parkRejected hw))

theorem Canon.startWake (hw : Canon w) : Canon (Machine.startWake f w) := .raise0 (.setPark (.modField hw))

theorem Canon.unparkOrder (hw : Canon w) : Canon (Machine.unparkOrder f w) :=
  .ite hw (by
    split
    · exact .modField hw
    · exact .abandonDrain hw
    · exact .setClock hw
    · exact .startWake hw
    · exact hw)

theorem Canon.gateField (hw : Canon w) : Canon (Machine.gateField f w) :=
  .raise0 (.setPark (.setZones (.zeroed (.clearField hw))))

theorem Canon.stopField (hw : Canon w) : Canon (Machine.stopField f w) :=
  .setPark (.setClock (.setFieldState hw))

theorem Canon.drainEnd (hw : Canon w) : Canon (Machine.drainEnd f w) :=
  .ite (have h2 := Canon.raise0 (.inc (.modField (.stopField hw))); .ite (.gateField h2) h2) hw

theorem Canon.drainAbandon (hw : Canon w) : Canon (Machine.drainAbandon f w) :=
  .ite (have h1 := Canon.joinBeats (.abandonDrain hw); .ite (.hangDetect h1) h1) hw

theorem Canon.fieldGate (hw : Canon w) : Canon (Machine.fieldGate f w) := .ite (.gateField hw) hw

theorem Canon.rampField (hw : Canon w) : Canon (Machine.rampField f w) :=
  .setClock (.setZones (.zeroed (.clearField hw)))

theorem Canon.wakeComplete (hw : Canon w) : Canon (Machine.wakeComplete f w) :=
  .ite (have h1 := Canon.writeField (.setFieldState (.rampField hw)); .ite (.setPark (.pulsesBack h1)) (.setPark h1)) hw

theorem Canon.reopened {ns : Nat} (hw : Canon w) : Canon (Machine.reopened f ns w) :=
  have h2 := Canon.joinBeats (.pulsesBack (.raise0 (.modField (.setPark hw))));
  .ite (.parkOrder h2) h2

theorem Canon.fieldReopen (hw : Canon w) : Canon (Machine.fieldReopen f w) :=
  .ite hw (.ite (.reopened (.startTiles (.wr hw))) (.ite (.reopened (.setFieldState hw)) hw))

end

/-! ## Image -/

section

variable {f : FieldIx} {im : ImageS} {keep : List FieldIx} {k set : Nat} {g : Rung}

theorem Canon.setImgState {st : Nat} (hw : Canon w) : Canon (Machine.setImgState st w) := .wrF hw

theorem Canon.imgReject {op : Nat} (hw : Canon w) : Canon (Machine.imgReject op w) := .raise0 (.wrB hw)

theorem Canon.refuseImage {e : LoadErr} (hw : Canon w) : Canon (Machine.refuseImage e w) := by
  unfold Machine.refuseImage
  split
  exact .raise0 (.setImgState (.wrF (.wrF (.same (.wr hw)))))

theorem Canon.stopTile {t : Tile} (hw : Canon w) : Canon (Machine.stopTile t w) := .modTile (.pwrF hw)

theorem Canon.loaderMeets (hw : Canon w) : Canon (Machine.loaderMeets f w) := by
  unfold Machine.loaderMeets
  split
  · exact .abandonDrain hw
  · exact .setPark hw
  · exact .modField hw

theorem Canon.stopImage (hw : Canon w) : Canon (Machine.stopImage w) :=
  .wrB (.wrB (.dropFlights (.same (.forEach (fun _ _ h5 => .stopTile h5)
    (.forEach (fun _ _ h2 => .modField (.loaderMeets (.forEach (fun _ _ h3 => .stopTile h3) h2))) (.dropItems (.stopFlip hw)))))))

theorem Canon.setupPrec {layers : List LayerMap} (hw : Canon w) : Canon (Machine.setupPrec layers w) :=
  .wr64 (.wr (.forEach (fun _ _ h4 => .wr h4) (.forEach (fun _ _ h2 => .wr (.wr (.wr h2))) (.same hw))))

theorem Canon.setupServe (hw : Canon w) : Canon (Machine.setupServe g w) :=
  .wr64 (.wr (.wr (.wr64 (.wr (.wr (.wr (.wr (.wr (.same hw)))))))))

theorem Canon.setupKv (hw : Canon w) : Canon (Machine.setupKv g w) :=
  .wr64 (.wr64 (.wrF (.wrB (.setKvFree (.wr hw)))))

theorem Canon.setupRotation (hw : Canon w) : Canon (Machine.setupRotation g w) :=
  .same (.forEach (fun _ _ h1 => by
    split <;> exact .wr h1) hw)

theorem Canon.setupImage (hw : Canon w) : Canon (Machine.setupImage im k g w) :=
  .wr64 (.wr64 (.wrF (.wrB (.wrF (.forEach (fun _ _ h3 => .wr h3) (.wr64 (.wr64 (.wr64 (.wr64 (.wr64 hw))))))))))

theorem Canon.clearAdapters (hw : Canon w) : Canon (Machine.clearAdapters w) :=
  .forEach (fun _ _ h2 => .wr (.wr (.wr h2))) (.same hw)

theorem Canon.loaderReset (hw : Canon w) : Canon (Machine.loaderReset f w) :=
  .pulsesBack (.writeField (.fieldResetDone (.setPark (.zeroed (.setFieldState (.markReset (.modField (.clearField hw))))))))

theorem Canon.takeField (hw : Canon w) : Canon (Machine.takeField keep g f w) :=
  .ite hw (.ite (.writeTables hw) (by
    split
    · exact .startWake hw
    · exact .startWake hw
    · exact hw
    · exact .loaderReset hw))

theorem Canon.closeField (hw : Canon w) : Canon (Machine.closeField f w) :=
  .ite hw (.gateField (.setClock (.setFieldState (.markReset (.modField hw)))))

theorem Canon.queueWeights (hw : Canon w) : Canon (Machine.queueWeights keep g set w) :=
  .forEach (fun _ _ h1 => .queueItem h1) hw

theorem Canon.instantiate (hw : Canon w) : Canon (Machine.instantiate im k g keep set w) :=
  have h4 := Canon.forEach (fun _ _ h3 => .ite (.takeField h3) (.closeField h3))
    (.setupRotation (.setupServe (.setupImage (.setImgState (.same hw)))));
  .ite h4 (.queueWeights h4)

theorem Canon.freshImage (hw : Canon w) : Canon (Machine.freshImage im g w) :=
  .wr64 (.wr (.wr64 (.setupKv (.setupPrec (.clearAdapters (.same hw))))))

theorem Canon.freeRecords (hw : Canon w) : Canon (Machine.freeRecords w) :=
  .forEach (fun _ _ h1 => .putStream h1) hw

theorem Canon.loadGo {active : Option SetHeader} (hw : Canon w) : Canon (Machine.loadGo im k set active g w) :=
  have h1 := Canon.freshImage (.same hw);
  .freeRecords (.instantiate (.ite (.same h1) (.wr64 (.same h1))))

theorem Canon.loadPassed (hw : Canon w) : Canon (Machine.loadPassed im w) := by
  unfold Machine.loadPassed
  split
  · exact .refuseImage (.same hw)
  · split
    · exact hw
    · exact .ite (.loadGo hw) (by
        split
        · exact .loadGo hw
        · exact .refuseImage hw)

theorem Canon.imageLoad {debug : Bool} {body : ImageBody} (hw : Canon w) : Canon (Machine.imageLoad debug body w) :=
  .ite hw (.ite (.imgReject hw) (by
    dsimp only
    split
    · exact .refuseImage (.setImgState (.wrB (.same (.farReadEffects hw))))
    · exact .loadPassed (.setImgState (.wrB (.same (.farReadEffects hw))))))

theorem Canon.imageStarts (hw : Canon w) : Canon (Machine.imageStarts w) :=
  .setImgState (.forEach (fun _ _ h2 => .ite (.startTiles h2) h2) (.same hw))

theorem Canon.loadEnds (hw : Canon w) : Canon (Machine.loadEnds k im w) :=
  .writeHeader (.raise0 (.wrF (.wr (.imageStarts hw))))

theorem Canon.reloadEnds {old : Nat} (hw : Canon w) : Canon (Machine.reloadEnds k old w) :=
  .writeHeader (.restoreSlots (.raise0 (.imageStarts hw)))

theorem Canon.clearImage (hw : Canon w) : Canon (Machine.clearImage w) :=
  .wr64 (.wr (.wr64 (.wr64 (.wr64 (.wr64 (.wr (.wr (.wr (.forEach (fun _ _ h4 => .wr h4)
    (.forEach (fun _ _ h2 => .wr h2) (.clearAdapters (.same hw))))))))))))

theorem Canon.unload (hw : Canon w) : Canon (Machine.unload w) :=
  .ite hw (.ite (.imgReject hw) (.raise0 (.setImgState (.wr64 (.same
    (.forEach (fun _ _ h2 => .modField (.wr h2)) (.clearImage (.stopImage (.leavePair hw)))))))))

theorem Canon.reloadTo (hw : Canon w) : Canon (Machine.reloadTo im k g w) := by
  unfold Machine.reloadTo
  split
  · exact .ite (.instantiate hw) (.freeRecords (.instantiate (.freshImage (.endStreams hw))))
  · exact .freeRecords (.instantiate (.freshImage hw))

theorem Canon.reloadImage (hw : Canon w) : Canon (Machine.reloadImage w) := by
  unfold Machine.reloadImage
  split
  · exact hw
  · dsimp only
    split
    · exact .refuseImage (.clearImage (.endStreams (.stopImage hw)))
    · split
      · exact .reloadTo (.stopImage hw)
      · exact .stopImage hw

theorem Canon.reload (hw : Canon w) : Canon (Machine.reload w) :=
  .ite hw (.ite (.imgReject hw) (.reloadImage (.leavePair hw)))

theorem Canon.endFreeze (hw : Canon w) : Canon (Machine.endFreeze w) := by
  unfold Machine.endFreeze
  split
  · exact hw
  · exact .beatStart (.raise0 (.wrB (.wrB (.setFreeze (.same hw)))))

theorem Canon.resume (hw : Canon w) : Canon (Machine.resume w) :=
  .ite hw (.ite (.sendTwins (.same hw)) (.same hw))

theorem Canon.resumeTimeReached (hw : Canon w) : Canon (Machine.resumeTimeReached w) := by
  unfold Machine.resumeTimeReached
  split
  · exact .ite (.endFreeze hw) hw
  · exact hw

theorem Canon.pop (hw : Canon w) : Canon (Machine.pop w) := .ite (.same hw) hw

theorem Canon.dbgPageAccess {write : Bool} {off : Nat} {v : Word32} (hw : Canon w) : Canon (Machine.dbgPageAccess write off v w) :=
  .ite hw (by
    split
    · exact .wrB hw
    · exact .ite (.pagePut hw) (.pageGetClears hw))

end

/-! ## Loss -/

section

variable {b : Bool} {f : FieldIx} {amps cause zone : Nat} {r : Rail}

theorem Canon.noteLoss (hw : Canon w) : Canon (Machine.noteLoss f cause w) :=
  have h2 := Canon.wrF (.wrB (.wrB (.wr (.wrB64 (.wrB64 hw)))));
  .ite (.raise0 h2) (.raise0 (.same (.raise0 h2)))

theorem Canon.dropFieldWork (hw : Canon w) : Canon (Machine.dropFieldWork f w) := .markReset (.modField hw)

theorem Canon.releaseToTwin (hw : Canon w) : Canon (Machine.releaseToTwin w) :=
  .raise0 (.wrB (.releaseSlots hw))

theorem Canon.afterLoss (hw : Canon w) : Canon (Machine.afterLoss w) :=
  .ite (.reloadImage (.ite (.unpair (.releaseToTwin (.tellFailing hw))) hw)) hw

theorem Canon.loseField (hw : Canon w) : Canon (Machine.loseField f cause w) :=
  .ite hw (.afterLoss (.noteLoss (.dropFieldWork (.setFieldState hw))))

theorem Canon.setFieldLock (hw : Canon w) : Canon (Machine.setFieldLock f b w) := .wrB64 (.wrB hw)

theorem Canon.fieldPllLoss (hw : Canon w) : Canon (Machine.fieldPllLoss f w) :=
  .ite (.startFieldReset (.modField (.setClock (.setFieldLock hw)))) hw

theorem Canon.fieldPllRelock (hw : Canon w) : Canon (Machine.fieldPllRelock f w) := by
  unfold Machine.fieldPllRelock
  split
  · exact hw
  · exact .ite (have h1 := Canon.setFieldLock (.modField hw); .raise0 (.ite h1 (.setClock h1))) hw

theorem Canon.fieldPllTimeout (hw : Canon w) : Canon (Machine.fieldPllTimeout f w) := by
  unfold Machine.fieldPllTimeout
  split
  · exact hw
  · exact .ite (.loseField (.raise0 hw)) hw

theorem Canon.failStack (hw : Canon w) : Canon (Machine.failStack f w) := .loseField (.modField hw)

theorem Canon.mifPllLoss (hw : Canon w) : Canon (Machine.mifPllLoss f w) := .ite (.failStack (.wrB64 hw)) hw

theorem Canon.timebaseLoss (hw : Canon w) : Canon (Machine.timebaseLoss w) := .ite (.wrB (.wrB hw)) hw

theorem Canon.timebaseRelock (hw : Canon w) : Canon (Machine.timebaseRelock w) := .ite (.wrB (.wrB hw)) hw

theorem Canon.inputOutOfRange {v : BitVec 16} (hw : Canon w) : Canon (Machine.inputOutOfRange v w) :=
  .ite (.raise0 (.wrB (.wrF hw))) hw

theorem Canon.easeZone (hw : Canon w) : Canon (Machine.easeZone f amps w) := .ite (.wrB hw) hw

theorem Canon.zoneTelemetry {z : ZoneReading} (hw : Canon w) : Canon (Machine.zoneTelemetry f z w) :=
  .ite (.easeZone (.wr (.wr (.wr hw)))) hw

theorem Canon.zoneLimit (hw : Canon w) : Canon (Machine.zoneLimit f w) := .ite (.raise0 (.wrB (.wrF hw))) hw

theorem Canon.droopWindow {high : List (Nat × Nat)} {mean fast : Nat} (hw : Canon w) : Canon (Machine.droopWindow f high mean fast w) :=
  .ite hw (.ite (.wrF (.modField hw)) (.wrF (.inc (.modField hw))))

theorem Canon.setSoftLimit (hw : Canon w) : Canon (Machine.setSoftLimit f b w) := .wrB64 (.wrB hw)

theorem Canon.suspectedCrack {p : Fin 42} (hw : Canon w) : Canon (Machine.suspectedCrack f p w) :=
  .ite (.queueTest (.setSoftLimit (.raise0 (.wrF (.wrB hw))))) hw

theorem Canon.noteIsolated {rail bit : Nat} (hw : Canon w) : Canon (Machine.noteIsolated rail zone bit amps w) :=
  .raise0 (.wrB (.wrB64 hw))

theorem Canon.fieldZoneShort {code : Nat} (hw : Canon w) : Canon (Machine.fieldZoneShort r code f amps w) :=
  .ite (have h1 := Canon.noteIsolated (.wrF hw); .loseField (.ite (.modField h1) h1)) hw

theorem Canon.portZoneShort {p : PortIx} (hw : Canon w) : Canon (Machine.portZoneShort p amps w) :=
  .ite hw (.wr64 (.setPort (.modPort (.noteIsolated hw))))

theorem Canon.zoneShort (hw : Canon w) : Canon (Machine.zoneShort r zone amps w) :=
  .ite hw (by
    split
    · exact .ite (.fieldZoneShort hw) hw
    · exact .ite (.fieldZoneShort hw) hw
    · exact .ite (.portZoneShort hw) hw
    · exact .ite (.fieldZoneShort hw) hw
    · exact .inputCutoff hw)

end

/-! ## Envelope -/

section

variable {changed room : Bool} {f : FieldIx} {cause : Fin 3} {power : Nat}

theorem Canon.setCapTh {c : Nat} (hw : Canon w) : Canon (Machine.setCapTh c w) := .wrF hw

theorem Canon.setEnv {st : Nat} (hw : Canon w) : Canon (Machine.setEnv st w) := .wrF hw

theorem Canon.endThermal {l : List StreamIx} (hw : Canon w) : Canon (Machine.endThermal l w) :=
  .forEach (fun _ _ h1 => .endStream h1) hw

theorem Canon.releaseNow (hw : Canon w) : Canon (Machine.releaseNow cause w) :=
  have h2 := Canon.forEach (fun _ _ h1 => .mismatch h1) hw;
  .ite (.endThermal h2) h2

theorem Canon.startRelease (hw : Canon w) : Canon (Machine.startRelease cause w) :=
  .ite (.releaseNow (.raise0 (.wrB (.same hw)))) hw

theorem Canon.releaseTimeout {s : StreamIx} (hw : Canon w) : Canon (Machine.releaseTimeout s w) := by
  unfold Machine.releaseTimeout
  split
  · exact hw
  · exact .ite (.endStream hw) hw

theorem Canon.showClamp (hw : Canon w) : Canon (Machine.showClamp w) :=
  .ite (.raise0 (.inc (.same (.wrB (.wrB hw))))) (.same (.wrB (.wrB hw)))

theorem Canon.showCap (hw : Canon w) : Canon (Machine.showCap w) := by
  unfold Machine.showCap
  split
  exact .ite (.wrF (.wrF hw)) (.raise0 (.wrF (.wrF hw)))

theorem Canon.formCaps (hw : Canon w) : Canon (Machine.formCaps w) :=
  have h1 := Canon.ite (.startRelease hw) hw;
  .showCap (.showClamp (.ite (.startRelease h1) h1))

theorem Canon.releaseComplete (hw : Canon w) : Canon (Machine.releaseComplete w) := by
  unfold Machine.releaseComplete
  split
  · exact hw
  · exact .ite hw (.formCaps (.raise0 (.wrB (.same hw))))

theorem Canon.hostCapWrite {v : Word32} (hw : Canon w) : Canon (Machine.hostCapWrite v w) :=
  .ite hw (.ite (.wr hw) (.raise0 (.wrB hw)))

theorem Canon.setFloors (hw : Canon w) : Canon (Machine.setFloors w) := .ite (.wr (.wr hw)) (.wr (.wr hw))

theorem Canon.setPace {p : Nat} (hw : Canon w) : Canon (Machine.setPace p w) := .same hw

theorem Canon.setStretch {v : Nat} (hw : Canon w) : Canon (Machine.setStretch v w) :=
  .ite hw (.ite (.sendTwins (.same hw)) (.same hw))

theorem Canon.noteStretchEnd (hw : Canon w) : Canon (Machine.noteStretchEnd w) := .same hw

theorem Canon.parkHottest (hw : Canon w) : Canon (Machine.parkHottest w) := by
  unfold Machine.parkHottest
  split
  · exact .parkOrder (.same hw)
  · exact hw

theorem Canon.stepDown (hw : Canon w) : Canon (Machine.stepDown w) :=
  .ite (.setPace hw) (.ite (.ite hw (.setStretch hw)) (.ite (.ite (.parkHottest hw) hw) (.ite (.setPace hw) hw)))

theorem Canon.unparkCoolest (hw : Canon w) : Canon (Machine.unparkCoolest w) :=
  .ite (by
    split
    · exact .unparkOrder (.same hw)
    · exact hw) hw

theorem Canon.stepUp (hw : Canon w) : Canon (Machine.stepUp w) :=
  .ite (.setPace hw) (.ite (.unparkCoolest hw) (.ite (.ite hw (.setStretch hw)) (.ite (.setPace hw) hw)))

theorem Canon.clampSettings (hw : Canon w) : Canon (Machine.clampSettings w) :=
  .ite (.setStretch (.setPace hw)) (.setPace hw)

theorem Canon.noteLow (hw : Canon w) : Canon (Machine.noteLow power room w) := .same hw

theorem Canon.parkHot (hw : Canon w) : Canon (Machine.parkHot w) := .forEach (fun _ _ h1 => .parkOrder h1) hw

theorem Canon.moveActuators (hw : Canon w) : Canon (Machine.moveActuators changed power room w) :=
  have h1 := Canon.noteStretchEnd (.clampSettings (.noteLow (.parkHot hw)));
  .ite (.setStretch (.setPace h1)) (.ite (.stepDown h1) (.ite (.stepUp h1) h1))

theorem Canon.holdPulses {b : Bool} (hw : Canon w) : Canon (Machine.holdPulses b w) :=
  .forEach (fun _ _ h1 => .setWithheld h1) hw

theorem Canon.enterHold (hw : Canon w) : Canon (Machine.enterHold w) :=
  .holdPulses (.setEnv (.forEach (fun _ _ h2 => .gateField h2) (.same hw)))

theorem Canon.holdQuiesced (hw : Canon w) : Canon (Machine.holdQuiesced w) :=
  .ite (.raise0 (.inc (.setEnv (.forEach (fun _ _ h3 => .setZones (.setClock h3)) (.forEach (fun _ _ h1 => .modField h1) (.same hw)))))) hw

theorem Canon.holdAbandon (hw : Canon w) : Canon (Machine.holdAbandon f w) :=
  .ite (.hangDetect (.beatStart (.same (.raise0 (.setEnv (.holdPulses hw)))))) hw

theorem Canon.exitHold (hw : Canon w) : Canon (Machine.exitHold w) := .setEnv (.same hw)

theorem Canon.leaveSelf (hw : Canon w) : Canon (Machine.leaveSelf w) :=
  .forEach (fun _ _ h1 => .stackLeaveSelf h1) hw

theorem Canon.rampZone (hw : Canon w) : Canon (Machine.rampZone f w) := .ite (.setZones hw) hw

theorem Canon.restartClock (hw : Canon w) : Canon (Machine.restartClock f w) := .ite (.setClock hw) hw

theorem Canon.exitSettings {k : Nat} (hw : Canon w) : Canon (Machine.exitSettings k w) := .same hw

theorem Canon.holdLeft (hw : Canon w) : Canon (Machine.holdLeft w) := .raise0 (.setEnv (.wr hw))

theorem Canon.exitStart (hw : Canon w) : Canon (Machine.exitStart w) :=
  .ite (.ite (.enterHold hw) (.beatStart (.holdPulses (.exitSettings hw)))) hw

theorem Canon.raiseDuty (hw : Canon w) : Canon (Machine.raiseDuty w) :=
  .ite (have h1 := Canon.exitSettings hw; .ite (.holdLeft h1) h1) hw

theorem Canon.holdExitStep {k : HoldStep} (hw : Canon w) : Canon (Machine.holdExitStep k w) :=
  .ite (by
    split
    · exact .leaveSelf hw
    · exact .rampZone hw
    · exact .restartClock hw
    · exact .exitStart hw
    · exact .raiseDuty hw) hw

theorem Canon.decideSteps (hw : Canon w) : Canon (Machine.decideSteps changed power room w) :=
  .ite (.ite (.exitHold hw) hw) (.ite hw (.ite (.enterHold hw) (.moveActuators hw)))

theorem Canon.envelopeDecision (hw : Canon w) : Canon (Machine.envelopeDecision power room w) :=
  .ite hw (.decideSteps (by
    split
    · exact .ite (.endThermal (.formCaps (.wrF hw))) (.formCaps (.wrF hw))
    · exact .formCaps (.wrF hw)))

end

/-! ## Thermal -/

section

variable {passA passB : Bool} {rs : List (Nat × BitVec 16 × BitVec 16)} {dec fix i kind pf : Nat} {tin : ℤ}

theorem Canon.storeRaw (hw : Canon w) : Canon (Machine.storeRaw rs w) := .forEach (fun _ _ h1 => .wr h1) hw

theorem Canon.showControls (hw : Canon w) : Canon (Machine.showControls w) := by
  have hshown := Canon.forEach (l := List.range 246) (f := fun i w => Machine.wrF (Reg.pairCtl i) 15 0 (tempWord (controlOf w i)).toNat w)
    (fun _ _ h => .wrF h) hw
  unfold Machine.showControls
  dsimp only
  generalize Machine.forEach _ _ w = shown at hshown ⊢
  refine .wr ?_
  split <;> refine .wr ?_ <;> split <;> exact .wr hshown

theorem Canon.flagPair (hw : Canon w) : Canon (Machine.flagPair i w) := by
  unfold Machine.flagPair
  exact .queueTest (.raise0 (.inc (.wrB (.wrB hw))))

theorem Canon.judgePair (hw : Canon w) : Canon (Machine.judgePair i w) := by
  unfold Machine.judgePair
  split
  · exact .ite (.same hw) (.ite (.flagPair (.same hw)) (.same hw))
  · exact hw

theorem Canon.retireSensor {b : Bool} (hw : Canon w) : Canon (Machine.retireSensor i b w) :=
  .ite hw (.raise0 (.wrB (.wrB hw)))

theorem Canon.noteSensorless (hw : Canon w) : Canon (Machine.noteSensorless i w) :=
  .ite (.loseField (.raise0 hw)) (.raise0 hw)

theorem Canon.checkPair (hw : Canon w) : Canon (Machine.checkPair i passA passB w) :=
  have h3 := Canon.ite (.same (.wrB hw)) (have h2 := Canon.ite (.wrB hw) (.retireSensor (.wrB hw)); .ite h2 (.retireSensor h2));
  .ite (.noteSensorless h3) h3

theorem Canon.referenceCheck {i : Fin 246} (hw : Canon w) : Canon (Machine.referenceCheck i passA passB w) :=
  .ite (.checkPair hw) hw

theorem Canon.latchEmergency {n : Nat} (hw : Canon w) : Canon (Machine.latchEmergency kind n w) :=
  .ite hw (have h1 := Canon.raise0 (.wrB hw); have h2 := Canon.ite (.same h1) h1; .formCaps (.ite (.startRelease h2) h2))

theorem Canon.limitResponse (hw : Canon w) : Canon (Machine.limitResponse w) := by
  unfold Machine.limitResponse
  split
  · exact .raise0 (.setCapTh hw)
  · exact hw

theorem Canon.tripStacks {keep : Bool} (hw : Canon w) : Canon (Machine.tripStacks keep w) := by
  refine .ite (.wrB (.forEach (fun _ _ h => .modField h) (.same hw))) ?_
  have hzones : Canon (Machine.forEach allFields
      (fun f w => if rdF w (Reg.fieldPwr f.val) 27 26 = 3 then w else Machine.wrF (Reg.fieldPwr f.val) 27 26 0 w) w) :=
    .forEach (fun _ _ h => .ite h (.wrF h)) hw
  exact { hzones with far := rfl }

theorem Canon.tripFields (hw : Canon w) : Canon (Machine.tripFields w) :=
  .forEach (fun _ _ h1 => .zeroed (.clearField (.setZones (.setClock h1)))) (.holdPulses hw)

theorem Canon.settleStreams {keep : Bool} (hw : Canon w) : Canon (Machine.settleStreams keep w) :=
  have h1 := Canon.endThermal (.dropShadows (.dropFlights hw));
  .ite h1 (.forEach (fun _ _ h2 => .endStream h2) h1)

theorem Canon.thermalTrip {pair : Nat} {v : ℤ} (hw : Canon w) : Canon (Machine.thermalTrip kind pair v w) :=
  .ite hw (have h3 := Canon.settleStreams (.same (.tellFailing hw)); .raise0 (.setEnv (.tripStacks (.tripFields (.ite (.unpair h3) h3)))))

theorem Canon.noteTimers (hw : Canon w) : Canon (Machine.noteTimers w) :=
  .forEach (fun _ _ h2 => .modField h2) (.same hw)

theorem Canon.limitStarts (hw : Canon w) : Canon (Machine.limitStarts w) :=
  .ite (.limitResponse (.same hw)) (.same hw)

theorem Canon.inletEvent {before : Option ℤ} (hw : Canon w) : Canon (Machine.inletEvent before w) := by
  unfold Machine.inletEvent
  dsimp only
  split
  · exact .ite (.raise0 hw) hw
  · exact hw

theorem Canon.thresholds {before : Option Int} (hw : Canon w) : Canon (Machine.thresholds before w) := by
  unfold Machine.thresholds
  generalize Machine.suddenStop w = stop
  extract_lets _ _ _ _ stopped
  have hstopped : Canon stopped := by
    cases stop with
    | some _ => exact .latchEmergency (.noteTimers hw)
    | none => exact .noteTimers hw
  exact .ite (.thermalTrip hw) (.ite (.thermalTrip hw) (.inletEvent (.limitStarts (.ite (.latchEmergency hstopped) hstopped))))

theorem Canon.sensorSample (hw : Canon w) : Canon (Machine.sensorSample rs w) :=
  .ite hw (.thresholds (.showControls (.forEach (fun _ _ h2 => .judgePair h2) (.storeRaw hw))))

theorem Canon.measureRth {p : Nat} {tj tm : ℤ} (hw : Canon w) : Canon (Machine.measureRth p tj tm tin w) :=
  .ite (.wr (.same hw)) hw

theorem Canon.evaluateCap (hw : Canon w) : Canon (Machine.evaluateCap tin w) := .setCapTh hw

theorem Canon.rthHigh (hw : Canon w) : Canon (Machine.rthHigh w) :=
  .ite (.raise0 (.wrB hw)) (.ite (.raise0 (.wrB hw)) hw)

theorem Canon.setRefresh (hw : Canon w) : Canon (Machine.setRefresh w) :=
  .forEach (fun _ _ h1 => .modField h1) hw

theorem Canon.noteTerms (hw : Canon w) : Canon (Machine.noteTerms fix dec pf w) := .ite (.same hw) hw

theorem Canon.thermalEvaluation {means : Option (Nat × ℤ × ℤ × ℤ)} (hw : Canon w) : Canon (Machine.thermalEvaluation means fix dec pf w) :=
  .ite hw (.setRefresh (.setFloors (.noteTerms (.ite (.limitResponse (by
    split
    · exact .rthHigh (.evaluateCap (.measureRth hw))
    · exact hw)) (by
    split
    · exact .rthHigh (.evaluateCap (.measureRth hw))
    · exact hw)))))

theorem Canon.clearRefused (hw : Canon w) : Canon (Machine.clearRefused w) := .wrB hw

theorem Canon.clearEmerg (hw : Canon w) : Canon (Machine.clearEmerg w) :=
  .ite hw (.ite (.ite (.formCaps (.raise0 (.setCapTh (.wrB hw)))) hw) (.clearRefused hw))

theorem Canon.clearTrip (hw : Canon w) : Canon (Machine.clearTrip w) :=
  .ite hw (.ite (.ite (.ite (.warmReset hw) (.coldReset hw)) hw) (.clearRefused hw))

end

/-! ## Attest -/

section

variable {f : Fetch} {data : List Byte} {a n : Nat}

theorem Canon.optCommand {op : BitVec 2} (hw : Canon w) : Canon (Machine.optCommand op w) :=
  .ite hw (.ite (by
    split
    exact .wrB (.same hw)) (.wrB hw))

theorem Canon.fillOptBuf {bs : List Byte} (hw : Canon w) : Canon (Machine.fillOptBuf bs w) :=
  .forEach (fun _ _ h1 => .wr h1) hw

theorem Canon.optDone {op : BitVec 2} {a n : Nat} (hw : Canon w) : Canon (Machine.optDone op a n w) :=
  .ite (.fillOptBuf hw) { hw with flash := flashWrite_wf hw.flash }

theorem Canon.optEnd {failed : Bool} (hw : Canon w) : Canon (Machine.optEnd failed w) := by
  unfold Machine.optEnd
  split
  · exact hw
  · exact .raise0 (.wrB (.ite (.wrB (.abandonOpt hw)) (.same (.optDone hw))))

theorem Canon.buildNext (hw : Canon w) : Canon (Machine.buildNext w) := by
  unfold Machine.buildNext
  split
  · exact .same hw
  · exact hw

theorem Canon.setAttState {st : Nat} (hw : Canon w) : Canon (Machine.setAttState st w) := .wrF hw

theorem Canon.attRefused {who why : Byte} (hw : Canon w) : Canon (Machine.attRefused who why w) := .raise0 hw

theorem Canon.askReport {r : Requester} {nonce : List Byte} (hw : Canon w) : Canon (Machine.askReport r nonce w) :=
  .buildNext (.same (by
    split
    · exact .setAttState (.same hw)
    · exact .same hw
    · exact .same hw))

theorem Canon.attReject (hw : Canon w) : Canon (Machine.attReject w) := .wrB hw

theorem Canon.report (hw : Canon w) : Canon (Machine.report w) :=
  .ite hw (.ite (.attRefused hw) (.ite (.attRefused (.attReject hw)) (.askReport hw)))

theorem Canon.extend {m : Fin 8} (hw : Canon w) : Canon (Machine.extend m w) :=
  .ite hw (.ite (.attReject hw) (.noteExtend (.extendMeas hw)))

theorem Canon.reportReady (hw : Canon w) : Canon (Machine.reportReady w) := by
  unfold Machine.reportReady
  split
  · exact hw
  · exact .buildNext (.raise0 (by
      split
      · exact .setAttState (.same hw)
      · exact .same hw
      · exact .same hw))

theorem Canon.sendPage {p : PortIx} {op : BitVec 8} (hw : Canon w) : Canon (Machine.sendPage p op a n data w) :=
  .sendMsg (.modPort hw)

theorem Canon.fetchFailed (hw : Canon w) : Canon (Machine.fetchFailed w) :=
  .attRefused (.setAttState (.same hw))

theorem Canon.twinFetch (hw : Canon w) : Canon (Machine.twinFetch w) :=
  .ite hw (.ite (.attRefused hw) (.ite (.attRefused (.attReject hw)) (by
    split
    · exact .fetchFailed hw
    · exact .setAttState (.sendPage (.same hw)))))

theorem Canon.fetchRead {isReport : Bool} (hw : Canon w) : Canon (Machine.fetchRead f a n isReport w) :=
  .sendPage (.same hw)

theorem Canon.twinPoll (hw : Canon w) : Canon (Machine.twinPoll w) := by
  unfold Machine.twinPoll
  split
  · exact hw
  · exact .ite hw (.ite (.fetchFailed hw) (.fetchRead hw))

theorem Canon.fetchReply {status : BitVec 4} (hw : Canon w) : Canon (Machine.fetchReply status data f w) :=
  .ite (.fetchFailed hw) (.ite (.raise0 (.setAttState (.same hw))) (by
    split
    · exact .fetchRead hw
    · exact .fetchFailed hw
    · exact hw))

end

/-! ## Sideband -/

section

variable {cmd : Byte} {f : W9 → W9}

theorem Canon.respond {bs : List Byte} (hw : Canon w) : Canon (Machine.respond bs w) := .same hw

theorem Canon.mctp (hf : ∀ v, Canon v → Canon (f v)) (hw : Canon w) : Canon (Machine.mctp f w) :=
  .ite (hf _ hw) hw

theorem Canon.setEid {eid : Byte} (hw : Canon w) : Canon (Machine.setEid eid w) :=
  .ite (.respond hw) (.respond (.same hw))

theorem Canon.vendorOk {data : List Byte} (hw : Canon w) : Canon (Machine.vendorOk cmd data w) := .respond hw

theorem Canon.vendorRefused {status : Byte} (hw : Canon w) : Canon (Machine.vendorRefused cmd status w) :=
  .raise0 (.respond hw)

theorem Canon.vendor (hf : ∀ v, Canon v → Canon (f v)) (hw : Canon w) : Canon (Machine.vendor f w) :=
  .ite (hf _ hw) hw

theorem Canon.getState (hw : Canon w) : Canon (Machine.getState w) := .ite (.vendorOk hw) hw

theorem Canon.facilityCap {cap : Word32} (hw : Canon w) : Canon (Machine.facilityCap cap w) :=
  .ite (.raise0 (.vendorOk (.wr hw))) (.vendorRefused hw)

theorem Canon.getPower (hw : Canon w) : Canon (Machine.getPower w) := .vendorOk hw

theorem Canon.attestStart {nonce : List Byte} (hw : Canon w) : Canon (Machine.attestStart nonce w) :=
  .ite (.attRefused (.vendorRefused hw)) (.ite (.attRefused (.vendorRefused hw)) (.askReport (.vendorOk hw)))

theorem Canon.attestRead {offset : Nat} (hw : Canon w) : Canon (Machine.attestRead offset w) :=
  .ite (.vendorOk hw) (.ite (.vendorRefused hw) (.vendorOk hw))

theorem Canon.unknownCommand {c : Byte} (hw : Canon w) : Canon (Machine.unknownCommand c w) :=
  .ite hw (.vendorRefused hw)

end

/-! ## Links -/

section

variable {f : ControlFlit} {data : List Byte} {p : PortIx} {x : Transfer}

theorem Canon.portResetOver (hw : Canon w) : Canon (Machine.portResetOver p w) := by
  unfold Machine.portResetOver
  split
  · exact hw
  · exact .raise0 (.modPort hw)

theorem Canon.portComesUp {good : List Nat} (hw : Canon w) : Canon (Machine.portComesUp p good w) :=
  .setPort (.wrF (.wr64 (.modPort hw)))

theorem Canon.portTrainFails (hw : Canon w) : Canon (Machine.portTrainFails p w) :=
  .setPort (.wrB (.modPort hw))

theorem Canon.portTrain {goodLanes : BitVec 34} (hw : Canon w) : Canon (Machine.portTrain p goodLanes w) :=
  .ite (.portResetOver (.ite (.portTrainFails hw) (.portComesUp hw))) hw

theorem Canon.portTrainRetry (hw : Canon w) : Canon (Machine.portTrainRetry p w) :=
  .ite (.setPort (.modPort hw)) hw

theorem Canon.laneFail {lane : Fin 34} (hw : Canon w) : Canon (Machine.laneFail p lane w) :=
  .ite (.startPortReset (.raise0 (.wrB (.modPort hw)))) hw

theorem Canon.replayPort (hw : Canon w) : Canon (Machine.replayPort p w) := by
  unfold Machine.replayPort
  split
  · exact hw
  · exact .ite (.startPortReset (.raise0 (.wrB hw))) (.inc (.modPort hw))

theorem Canon.replayTimeout (hw : Canon w) : Canon (Machine.replayTimeout p w) := by
  unfold Machine.replayTimeout
  split
  · exact .ite (.replayPort hw) hw
  · exact hw

theorem Canon.loseStep (hw : Canon w) : Canon (Machine.loseStep p w) := .modPort hw

theorem Canon.takeFlit (hw : Canon w) : Canon (Machine.takeFlit p f w) :=
  have h2 := Canon.ite (.modPort (.modPort hw)) (.modPort hw);
  .ite (.replayPort h2) h2

theorem Canon.controlFlit (hw : Canon w) : Canon (Machine.controlFlit p f w) :=
  .ite hw (.ite (.loseStep (.wrB (.inc hw))) (.ite (.loseStep hw) (.takeFlit hw)))

theorem Canon.badCodeword (hw : Canon w) : Canon (Machine.badCodeword p w) := .raise0 (.wrB (.inc hw))

theorem Canon.dataFlit {bad : Bool} (hw : Canon w) : Canon (Machine.dataFlit p bad w) :=
  .ite hw (have h1 := Canon.ite (.badCodeword hw) hw; .ite h1 (.ite (.wrB (.modPort (.ite (.inc h1) (.inc (.inc h1))))) (.modPort (.inc h1))))

theorem Canon.freeFlits {n : Nat} (hw : Canon w) : Canon (Machine.freeFlits p n w) := .modPort hw

theorem Canon.onTwin {f : W9 → W9} (hf : ∀ v, Canon v → Canon (f v)) (hw : Canon w) : Canon (Machine.onTwin p f w) :=
  .ite hw (.ite (.dropTransfer hw) (hf _ hw))

theorem Canon.onPort {f : W9 → W9} (hf : ∀ v, Canon v → Canon (f v)) (hw : Canon w) : Canon (Machine.onPort p f w) :=
  .ite hw (.ite (.dropTransfer hw) (hf _ hw))

theorem Canon.dropX (hw : Canon w) : Canon (Machine.dropX p x w) := .dropTransfer hw

theorem Canon.onTransfer {op : BitVec 8} {f : Transfer → W9 → W9} (hf : ∀ x1 v, Canon v → Canon (f x1 v)) (hw : Canon w) :
    Canon (Machine.onTransfer p op x f w) :=
  .ite hw (.ite (.freeFlits hw) (.freeFlits (.ite (.dropX hw) (hf _ _ hw))))

theorem Canon.noteTainted (hw : Canon w) : Canon (Machine.noteTainted x w) := .ite (.same hw) hw

theorem Canon.farWriteDo (hw : Canon w) : Canon (Machine.farWriteDo p x w) :=
  .ite (.ite (.noteTainted (.writeFar (.touchVerified hw))) (.dropX hw)) (.muleReceive hw)

theorem Canon.farWrite (hw : Canon w) : Canon (Machine.farWrite p x w) :=
  .ite hw (.onTransfer (fun _ _ h1 => .farWriteDo h1) hw)

theorem Canon.pageWriteTwin (hw : Canon w) : Canon (Machine.pageWriteTwin p x w) :=
  .ite (.ite (.attRefused hw) (.askReport hw)) (.dropX hw)

theorem Canon.windowWriteDo {op : BitVec 4} (hw : Canon w) : Canon (Machine.windowWriteDo op p x w) :=
  .ite (.pageWriteTwin hw) (by
    split
    · exact .dropX hw
    · exact .forEach (fun _ _ h1 => .ringSend h1) hw)

theorem Canon.sendReplyOn {st : BitVec 4} (hw : Canon w) : Canon (Machine.sendReplyOn p x st data w) :=
  .sendMsg hw

theorem Canon.pageReadTwin (hw : Canon w) : Canon (Machine.pageReadTwin p x w) :=
  .ite (.dropX hw) (.ite (.sendReplyOn hw) (.ite (.sendReplyOn hw) (.dropX hw)))

theorem Canon.windowReadDo (hw : Canon w) : Canon (Machine.windowReadDo p x w) :=
  .ite (.pageReadTwin hw) (by
    split
    · exact .dropX hw
    · dsimp only
      split
      · exact .sendReplyOn hw
      · exact .ite (.sendReplyOn (.readEffects0 hw)) (.sendReplyOn (.rejectRequest hw)))

theorem Canon.replyDo {status : BitVec 4} {seq : BitVec 32} (hw : Canon w) : Canon (Machine.replyDo p status seq data w) :=
  .ite (.freeFlits hw) (by
    dsimp only
    split
    · exact .ite (.fetchReply (.freeFlits hw)) (.freeFlits hw)
    · exact .freeFlits hw)

end

/-! ## Pair -/

section

variable {dest : BitVec 16} {fmt : BitVec 4} {reason : BitVec 8} {c : CommitMsg} {l : LayerIx} {b first phase : Nat} {p : PortIx} {s : StreamIx}

theorem Canon.halveKv (hw : Canon w) : Canon (Machine.halveKv w) := .ite (.setKvFree (.wr hw)) hw

theorem Canon.wholeKv {used : Nat} (hw : Canon w) : Canon (Machine.wholeKv used w) :=
  .ite (.setKvFree (.wr hw)) hw

theorem Canon.freeHanded (hw : Canon w) : Canon (Machine.freeHanded w) :=
  .forEach (fun _ _ h1 => .releaseSlot h1) hw

theorem Canon.pairCtrlWrite {v : Word32} (hw : Canon w) : Canon (Machine.pairCtrlWrite v w) :=
  .ite hw (.ite hw (.ite (.wrF (.halveKv (.wr hw))) (.ite (.wholeKv (.same
    (.ite (.freeHanded (.unpair (.dropShadows (.wr hw)))) (.wrF (.wr hw))))) (.wr hw))))

theorem Canon.helloSend (hw : Canon w) : Canon (Machine.helloSend w) := .ite (.sendTwins hw) hw

theorem Canon.pairRefused {reason : Nat} {byPartner : Bool} (hw : Canon w) : Canon (Machine.pairRefused reason byPartner w) :=
  .raise0 (.wrF hw)

theorem Canon.formPair (hw : Canon w) : Canon (Machine.formPair w) :=
  .ite (have h1 := Canon.halveKv (.same hw); .raise0 (.writeHeader (.wrF (.ite h1 (.wr64 h1))))) hw

theorem Canon.hello {h : Hello} (hw : Canon w) : Canon (Machine.hello p h w) :=
  .ite (.same hw) (.ite hw (.ite (.formPair (.wr (.same (.sendMsg hw)))) (.sendMsg (.pairRefused hw))))

theorem Canon.pairAccepted (hw : Canon w) : Canon (Machine.pairAccepted w) := .ite (.formPair (.same hw)) hw

theorem Canon.pairRefuse (hw : Canon w) : Canon (Machine.pairRefuse reason w) :=
  .ite (.pairRefused (.same hw)) hw

theorem Canon.heartbeatSend (hw : Canon w) : Canon (Machine.heartbeatSend w) :=
  .ite (.sendTwins (.onlyIf (fun _ h1 => .inc h1) hw)) hw

theorem Canon.heartbeat {h : Heartbeat} (hw : Canon w) : Canon (Machine.heartbeat p h w) :=
  .ite (.wr64 (.same hw)) hw

theorem Canon.takeBlocks (hw : Canon w) : Canon (Machine.takeBlocks s w) :=
  .forEach (fun _ _ h1 => .setBlock h1) hw

theorem Canon.takeCpl (hw : Canon w) : Canon (Machine.takeCpl s w) := .modStream (.wrF hw)

theorem Canon.ownShadow (hw : Canon w) : Canon (Machine.ownShadow s w) :=
  .putStream (.same (.inc (.takeCpl hw)))

theorem Canon.claimStreams (hw : Canon w) : Canon (Machine.claimStreams w) :=
  .raise0 (.forEach (fun _ _ h3 => .ownShadow h3) (.same (.wholeKv (.freeHanded (.sendTwins hw)))))

theorem Canon.declareFailed {kind cause : Nat} (hw : Canon w) : Canon (Machine.declareFailed kind cause w) :=
  .claimStreams (.raise0 (.same (.unpair hw)))

theorem Canon.partnerSilence {unack : Bool} (hw : Canon w) : Canon (Machine.partnerSilence unack w) :=
  .ite hw (.ite (.ite (.declareFailed hw) hw) (.ite (.declareFailed hw) hw))

theorem Canon.claim (hw : Canon w) : Canon (Machine.claim w) :=
  .ite (.freeHanded (.unpair (.dropShadows hw))) hw

theorem Canon.backlogHandover (hw : Canon w) : Canon (Machine.backlogHandover w) :=
  .ite (.forEach (fun _ _ h1 => .deliverBacklog h1) hw) hw

theorem Canon.bindAdapter (hw : Canon w) : Canon (Machine.bindAdapter s w) := by
  unfold Machine.bindAdapter
  split
  · exact .adBind hw
  · exact hw

theorem Canon.adoptedRuns {c0 : Nat} (hw : Canon w) : Canon (Machine.adoptedRuns s c0 w) :=
  .restoreSlot (.modStream hw)

theorem Canon.mirrorAdopt (hw : Canon w) : Canon (Machine.mirrorAdopt s w) :=
  .ite hw (.ite (.raiseS (.inc (.adoptedRuns (.takeBlocks (.bindAdapter (.takeCpl (.modStream hw))))))) (.ite (.takeCpl (.modStream hw)) hw))

theorem Canon.handoffIn {pos : Nat} (hw : Canon w) : Canon (Machine.handoffIn s pos w) :=
  .ite hw (.ite (.deliverBacklog (.raiseS (.same (.ownShadow hw)))) (.ite (.raiseS (.putStream hw)) (.ite (.sendTwin hw) hw)))

theorem Canon.endedIn (hw : Canon w) : Canon (Machine.endedIn s w) :=
  .ite hw (.ite (.freeShadow (.same hw)) (.ite (.releaseSlot (.same hw)) (.same hw)))

theorem Canon.mirrorCommit (hw : Canon w) : Canon (Machine.mirrorCommit c w) := by
  unfold Machine.mirrorCommit
  split
  · exact .writeFar (.putFars hw)
  · exact hw

theorem Canon.commitIn (hw : Canon w) : Canon (Machine.commitIn c w) :=
  .ite hw (.ite (.ite (.mismatch hw) (.compareCommits (.same hw))) (.ite (.ite (.compareCommits (.same hw)) hw) (.mirrorCommit hw)))

theorem Canon.commitTimeout (hw : Canon w) : Canon (Machine.commitTimeout s w) := by
  unfold Machine.commitTimeout
  split
  · exact .ite (.mismatch hw) hw
  · exact hw

theorem Canon.startShadow {ownerTtft ttft : Nat} {t : Machine.Stream} (hw : Canon w) :
    Canon (Machine.startShadow s phase ownerTtft ttft t w) :=
  have h2 := Canon.syncClass0 (.takeBlocks (.bindAdapter (.modStream (.same hw))));
  .ite (.enterDecode h2) h2

theorem Canon.shadowReqIn {bTtft : Nat} (hw : Canon w) : Canon (Machine.shadowReqIn s phase bTtft w) :=
  .ite hw (.ite (.sendTwin (.startShadow (.same hw))) (.sendTwin (.same hw)))

theorem Canon.shadowAckIn (hw : Canon w) : Canon (Machine.shadowAckIn s b w) := by
  unfold Machine.shadowAckIn
  split
  · exact hw
  · exact .ite hw (.ite (.refuseSlot (.sendTwin hw)) (.admitReq (.same hw)))

theorem Canon.shadowNakIn (hw : Canon w) : Canon (Machine.shadowNakIn reason s w) := by
  unfold Machine.shadowNakIn
  split
  · exact hw
  · exact .ite hw (.ite (by
      split
      · exact .shadowSetup (.putStream (.same hw))
      · exact .refuseSlot (.raiseS hw)) (.refuseSlot (.raiseS hw)))

theorem Canon.readyIn (hw : Canon w) : Canon (Machine.readyIn s w) := .ite (.tryStart (.same hw)) hw

theorem Canon.startIn {beat : Nat} (hw : Canon w) : Canon (Machine.startIn s beat w) := .ite (.same hw) hw

theorem Canon.blockIn {layers : FAddr} {st : Byte} (hw : Canon w) : Canon (Machine.blockIn s b layers st w) := by
  unfold Machine.blockIn
  split
  · exact .ite (.writeFar hw) hw
  · exact hw

theorem Canon.mirrorFlushed {vec c l : Nat} (hw : Canon w) : Canon (Machine.mirrorFlushed vec c l w) := by
  unfold Machine.mirrorFlushed
  split
  · exact .writeFar hw
  · exact hw

theorem Canon.chunkDoneIn {c last : Nat} (hw : Canon w) : Canon (Machine.chunkDoneIn s c first last w) := by
  unfold Machine.chunkDoneIn
  split
  · exact .ite (.ite (.mirrorLost (.same hw)) (.ite hw (.forEach (fun _ _ h1 => .mirrorFlushed h1) hw))) hw
  · exact hw

theorem Canon.mirrorSend (hw : Canon w) : Canon (Machine.mirrorSend w) := by
  unfold Machine.mirrorSend
  split
  · exact hw
  · exact .ite hw (.sendTwin (.inc (.forEach (fun _ _ h2 => .sendFar h2) (.same hw))))

theorem Canon.escReqIn {kind : Fin 3} (hw : Canon w) : Canon (Machine.escReqIn l fmt kind w) :=
  .ite hw (by
    split
    · exact hw
    · exact .ite (.modLayer hw) (by
        split
        · exact hw
        · exact .ite (.commitNow (.addWaiting hw)) (.ite (.commitNow (.addWaiting (.modLayer hw))) (.modLayer hw))))

theorem Canon.allMismatch (hw : Canon w) : Canon (Machine.allMismatch w) :=
  .forEach (fun _ _ h1 => .mismatch h1) hw

theorem Canon.escCommitIn (hw : Canon w) : Canon (Machine.escCommitIn l fmt b w) :=
  .ite hw (have h1 := Canon.ite (.allMismatch (.raise0 hw)) hw; by
    dsimp only
    split
    · exact h1
    · split
      · exact h1
      · split
        · exact .ite (.startChange h1) (.startChange h1)
        · exact .startChange h1)

theorem Canon.escClearIn (hw : Canon w) : Canon (Machine.escClearIn w) := .ite hw (.commitNow (.same hw))

theorem Canon.stretchIn {cycles : Nat} (hw : Canon w) : Canon (Machine.stretchIn cycles first w) :=
  .ite (.same (.applyStretch hw)) hw

theorem Canon.freezeIn (hw : Canon w) : Canon (Machine.freezeIn w) := .ite (.same hw) hw

theorem Canon.resumeIn {t : Nat} (hw : Canon w) : Canon (Machine.resumeIn t w) :=
  .ite (.ite (.endFreeze (.same hw)) (.same hw)) hw

theorem Canon.muleResendIn (hw : Canon w) : Canon (Machine.muleResendIn p l dest w) :=
  .ite hw (by
    dsimp only
    split
    · exact .sendMule hw
    · exact hw)

theorem Canon.muleFailIn (hw : Canon w) : Canon (Machine.muleFailIn dest w) := by
  unfold Machine.muleFailIn
  split
  · exact .ite (.loadFails hw) hw
  · exact hw

end

/-! ## Faults -/

section

variable {f : FieldIx} {x : SelfTest} {r : TestResult} {u : TestUnit} {t : Tile}

theorem Canon.roosterBeat {byHost : Bool} (hw : Canon w) : Canon (Machine.roosterBeat byHost w) :=
  .ite (.same hw) hw

theorem Canon.roosterWindow (hw : Canon w) : Canon (Machine.roosterWindow w) :=
  .ite (.ite (.same hw) (have h1 := Canon.inc (.same hw); .ite (.hangDetect h1) h1)) hw

theorem Canon.beatWatch (hw : Canon w) : Canon (Machine.beatWatch f w) := by
  unfold Machine.beatWatch
  split
  · exact .ite (.hangDetect hw) hw
  · exact hw

theorem Canon.replayWatch (hw : Canon w) : Canon (Machine.replayWatch w) := by
  unfold Machine.replayWatch
  split
  · exact .ite (.hangDetect hw) hw
  · exact hw

theorem Canon.selfTestRun (hw : Canon w) : Canon (Machine.selfTestRun u w) := .ite (.same hw) hw

theorem Canon.dropTest (hw : Canon w) : Canon (Machine.dropTest u w) := .same hw

theorem Canon.countTest {all : Nat} {own : Nat → Nat} (hw : Canon w) : Canon (Machine.countTest u all own w) := by
  unfold Machine.countTest
  dsimp only
  split
  · exact .inc (.inc (.inc hw))
  · exact .inc (.inc hw)

theorem Canon.proposeMap (hw : Canon w) : Canon (Machine.proposeMap t w) := by
  unfold Machine.proposeMap
  dsimp only
  split
  · exact .wrF (.wrF (.wrB hw))
  · exact .wrB hw

theorem Canon.tileFault (hw : Canon w) : Canon (Machine.tileFault t w) := .proposeMap (.loseField hw)

theorem Canon.channelFault {g : Gateway} {ch : Fin 4} (hw : Canon w) : Canon (Machine.channelFault g ch w) :=
  .failStack (.raise0 (.wrB hw))

theorem Canon.seamFault {sd : Fin 4} (hw : Canon w) : Canon (Machine.seamFault f sd w) :=
  .loseField (.modField hw)

theorem Canon.sensorFault {i : Fin 246} {lane : Option (Fin 34)} (hw : Canon w) : Canon (Machine.sensorFault i lane w) := by
  unfold Machine.sensorFault
  split <;> exact .checkPair hw

theorem Canon.takeAction (hw : Canon w) : Canon (Machine.takeAction u r w) := by
  unfold Machine.takeAction
  dsimp only
  split
  · exact .ite hw (.loseField hw)
  · exact .ite hw (.loseField hw)
  · exact .channelFault hw
  · exact .tileFault hw
  · exact .seamFault hw
  · exact .tileFault hw
  · exact .tileFault hw
  · split
    · exact .laneFail hw
    · exact hw
  · exact .sensorFault hw
  · exact .wrB hw

theorem Canon.passAction (hw : Canon w) : Canon (Machine.passAction u w) := by
  unfold Machine.passAction
  split
  · exact .setSoftLimit (.wrB hw)
  · exact .referenceCheck hw
  · exact hw

theorem Canon.testPassed (hw : Canon w) : Canon (Machine.testPassed x w) :=
  .passAction (.raise0 (.countTest hw))

theorem Canon.testFailed (hw : Canon w) : Canon (Machine.testFailed x r w) :=
  .takeAction (.raise0 (.countTest hw))

theorem Canon.selfTestEnd (hw : Canon w) : Canon (Machine.selfTestEnd u r w) := by
  unfold Machine.selfTestEnd
  split
  · exact hw
  · exact .ite (.ite (.testPassed (.dropTest hw)) (.testFailed (.dropTest hw))) hw

theorem Canon.selfTestAbandon {why : AbandonWhy} (hw : Canon w) : Canon (Machine.selfTestAbandon u why w) := by
  unfold Machine.selfTestAbandon
  split
  · exact hw
  · exact .ite (.raise0 (.inc (.dropTest hw))) hw

theorem Canon.release {s : StreamIx} (hw : Canon w) : Canon (Machine.release s w) :=
  .ite hw (.ite (.freeSlot hw) (.wrB hw))

end

/-! ## Recovery -/

section

variable {code : Byte} {im : ImageS} {k : Nat} {h : RecHeader} {g : Rung} {s : StreamIx}

theorem Canon.setRecovery {n : Nat} (hw : Canon w) : Canon (Machine.setRecovery n w) := .wrF hw

theorem Canon.reviveSlot (hw : Canon w) : Canon (Machine.reviveSlot s w) :=
  .ite hw (.setReserve (.modStream hw))

theorem Canon.recountPages (hw : Canon w) : Canon (Machine.recountPages w) := .setKvFree hw

theorem Canon.ownBlocks {own : StreamIx → Bool} (hw : Canon w) : Canon (Machine.ownBlocks own w) := .same hw

theorem Canon.reviveStreams (hw : Canon w) : Canon (Machine.reviveStreams w) :=
  .syncClass0 (.forEach (fun _ _ h1 => .reviveSlot h1) (.recountPages (.ownBlocks hw)))

theorem Canon.adoptImage (hw : Canon w) : Canon (Machine.adoptImage im k w) := .wrF (.same hw)

theorem Canon.recoveryFails (hw : Canon w) : Canon (Machine.recoveryFails code w) :=
  .setImgState (.wrB (.syncSuspects (.same (.raise0 (.setRecovery (.endStreams hw))))))

theorem Canon.failFrom (hw : Canon w) : Canon (Machine.failFrom code k w) := by
  unfold Machine.failFrom
  split
  · exact .recoveryFails (.reviveStreams (.adoptImage hw))
  · exact .recoveryFails hw

theorem Canon.reinstallAdapter {n : Fin 64} (hw : Canon w) : Canon (Machine.reinstallAdapter n w) :=
  .ite (.same (.wr (.wr hw))) hw

theorem Canon.rebind (hw : Canon w) : Canon (Machine.rebind s w) := by
  unfold Machine.rebind
  split
  · exact .ite (.adBind hw) (.modStream hw)
  · exact hw

theorem Canon.recoverSame (hw : Canon w) : Canon (Machine.recoverSame im h g w) :=
  have h7 := Canon.forEach (fun _ _ h5 => .rebind h5) (.forEach (fun _ _ h6 => .reinstallAdapter h6)
    (.wr (.instantiate (.setupPrec (.ite hw (.wr64 (.same (.farSetEffects hw))))))));
  .ite h7 (.setRecovery h7)

theorem Canon.recoverOther (hw : Canon w) : Canon (Machine.recoverOther im k g w) :=
  .freeRecords (.instantiate (.freshImage (.endStreams hw)))

theorem Canon.recoverRung (hw : Canon w) : Canon (Machine.recoverRung im h w) := by
  unfold Machine.recoverRung
  dsimp only
  split
  · exact .recoveryFails (.setRecovery hw)
  · split
    · exact .recoveryFails (.setRecovery hw)
    · exact .ite (.recoverSame (.setRecovery hw)) (.recoverOther (.setRecovery hw))

theorem Canon.findSuspects (hw : Canon w) : Canon (Machine.findSuspects g w) := .same hw

theorem Canon.recoverFrom (hw : Canon w) : Canon (Machine.recoverFrom im h g w) :=
  have h3 := Canon.reviveStreams (.setupKv (.adoptImage (.findSuspects (.ite (.wrF (.wr (.same hw))) (.same hw)))));
  .ite (.setRecovery h3) (.recoverRung h3)

theorem Canon.recoveryStart (hw : Canon w) : Canon (Machine.recoveryStart w) :=
  .ite (by
    dsimp only
    split
    · exact .failFrom (.same hw)
    · exact .ite (.failFrom (.same hw)) (by
        split
        · exact .recoveryFails (.same hw)
        · exact .ite (.failFrom (.same hw)) (by
            split
            · exact .failFrom (.same hw)
            · exact .recoverFrom (.same hw)))) hw

theorem Canon.twinListenEnd (hw : Canon w) : Canon (Machine.twinListenEnd w) :=
  .ite (by
    dsimp only
    split
    · exact .recoverRung (.ite (.releaseToTwin (.same hw)) hw)
    · exact .recoveryFails (.ite (.releaseToTwin (.same hw)) hw)) hw

theorem Canon.quarantineStream (hw : Canon w) : Canon (Machine.quarantineStream s w) :=
  .raiseS (.raiseS (by
    split
    · exact .pushCpl (.releaseShared (.releaseHoldings (.dropWork (.putStream (.winEnded hw)))))
    · exact .releaseShared (.releaseHoldings (.dropWork (.putStream (.winEnded hw))))))

theorem Canon.quarantineHung (hw : Canon w) : Canon (Machine.quarantineHung w) :=
  .wrB (by
    split
    · exact .ite (.quarantineStream hw) hw
    · exact hw)

theorem Canon.keepSuspects (hw : Canon w) : Canon (Machine.keepSuspects w) := .syncSuspects (.same hw)

theorem Canon.recoveryEnds (hw : Canon w) : Canon (Machine.recoveryEnds w) :=
  .raise0 (.setRecovery (.wr (.inc (.same (.keepSuspects (.restoreSlots (.quarantineHung (.setRecovery (.imageStarts hw)))))))))

theorem Canon.refuseLost (hw : Canon w) : Canon (Machine.refuseLost w) :=
  .refuseImage (.clearImage (.endStreams hw))

theorem Canon.keepOldRung {o : Option Nat} (hw : Canon w) : Canon (Machine.keepOldRung o w) := .same hw

theorem Canon.startAgain (hw : Canon w) : Canon (Machine.startAgain im w) :=
  .ite (by
    split
    · exact .recoverRung (.dropItems hw)
    · exact .recoveryFails (.dropItems hw)) (by
    split
    · exact .refuseLost (.dropItems hw)
    · split
      · exact .keepOldRung (.reloadTo (.dropItems hw))
      · exact .loadPassed (.dropItems hw))

theorem Canon.imageInstantiated (hw : Canon w) : Canon (Machine.imageInstantiated w) :=
  .ite hw (by
    split
    · exact hw
    · exact .ite (.startAgain hw) (.ite hw (.ite (.recoveryEnds hw) (by
        split
        · exact .reloadEnds hw
        · exact .loadEnds hw))))

theorem Canon.pruneSuspects (hw : Canon w) : Canon (Machine.pruneSuspects w) :=
  .syncSuspects (.ite (.wrB (.same hw)) (.same hw))

theorem Canon.suspectReplay (hw : Canon w) : Canon (Machine.suspectReplay w) :=
  .ite (.ite (.pruneSuspects hw) (by
    split
    · exact .pruneSuspects hw
    · exact .wrB (.wrF (.same (.pruneSuspects hw))))) hw

end

/-! ## Registers -/

section

variable {wide : Bool} {r : CmdReg} {bump off x : Nat} {p : PortIx} {a : RegAddr} {v : Word32}

theorem Canon.bar0ReadClear (hw : Canon w) : Canon (Machine.bar0ReadClear off bump w) :=
  .ite hw (.ite (.dbgPageAccess hw) (.ite hw (.wr hw)))

theorem Canon.pageRcRead {t : Tile} (hw : Canon w) : Canon (Machine.pageRcRead t off bump w) :=
  .ite hw (.pwr hw)

theorem Canon.misaligned {write : Bool} {size : Nat} (hw : Canon w) : Canon (Machine.misaligned write off size w) :=
  .ite hw (have h1 := Canon.raise0 (.hostErr hw); .ite h1 (.completeOnes h1))

theorem Canon.timeLowRead (hw : Canon w) : Canon (Machine.timeLowRead w) := .ite hw (.complete (.same hw))

theorem Canon.bar0Read (hw : Canon w) : Canon (Machine.bar0Read off wide bump w) :=
  .ite hw (.ite (.misaligned hw) (.ite (.timeLowRead hw) (.ite (.complete (.bar0ReadClear (.bar0ReadClear hw))) (.complete (.bar0ReadClear hw)))))

theorem Canon.rcRead (hw : Canon w) : Canon (Machine.rcRead a wide bump w) := by
  unfold Machine.rcRead
  split
  · exact .bar0Read hw
  · exact .ite hw (.ite (.pageRcRead (.pageRcRead hw)) (.pageRcRead hw))

theorem Canon.unlistedOp (hw : Canon w) : Canon (Machine.unlistedOp r v w) :=
  .ite hw (.ite (.imgReject hw) (.raise0 (.wrB hw)))

theorem Canon.rstWrite (hw : Canon w) : Canon (Machine.rstWrite v w) :=
  .ite (.warmReset hw) (.ite (.blockCommand (fun _ h1 => .startFieldReset h1) hw)
    (.ite (.blockCommand (fun _ h2 => .startGatewayReset h2) hw) (.blockCommand (fun _ h3 => .linkPortReset h3) hw)))

theorem Canon.cmdWrite (hw : Canon w) : Canon (Machine.cmdWrite r v w) := by
  unfold Machine.cmdWrite
  dsimp only
  split
  · exact .ite (.imgReject hw) (.ite (.unload hw) (.ite (.reload hw) hw))
  · exact .ite (.install hw) (.remove hw)
  · exact .ite (.flipStart hw) (.flipAbort hw)
  · exact .ite (.verify hw) (.ite (.loadAbort hw) hw)
  · exact .rstWrite hw
  · exact .optCommand hw
  · exact .ite (.report hw) (.ite (.extend hw) (.twinFetch hw))
  · exact .release hw

theorem Canon.plainWrite (hw : Canon w) : Canon (Machine.plainWrite off v w) := by
  unfold Machine.plainWrite
  split
  · exact .wr hw
  · exact hw

theorem Canon.routeCtrlWrite {f : FieldIx} (hw : Canon w) : Canon (Machine.routeCtrlWrite f v w) :=
  .ite (.raise0 (.inc hw)) (have h1 := Canon.wrB (.plainWrite hw); .ite (.forEach (fun _ _ h2 => .releaseStrays h2) h1) h1)

theorem Canon.stopPort (hw : Canon w) : Canon (Machine.stopPort p w) :=
  .wr64 (.setPort (.modPort (.ite (by
    split
    · exact .forEach (fun _ _ h1 => .sendMsgAt h1) hw
    · exact hw) hw)))

theorem Canon.portCtrlWrite (hw : Canon w) : Canon (Machine.portCtrlWrite p v w) :=
  .ite hw (.ite (.plainWrite (.stopPort hw)) (.ite (.setPort (.plainWrite hw)) (.plainWrite hw)))

theorem Canon.serveCtrlWrite (hw : Canon w) : Canon (Machine.serveCtrlWrite v w) :=
  .ite (.plainWrite hw) (.same (.plainWrite hw))

theorem Canon.baseWrite {ctrl : Nat} (hw : Canon w) : Canon (Machine.baseWrite ctrl off v w) :=
  .ite hw (.plainWrite hw)

theorem Canon.hostRingCtrlWrite {r : HostRing} (hw : Canon w) : Canon (Machine.hostRingCtrlWrite r v w) :=
  .ite (.hostRingEnable hw) (.ite (.plainWrite hw) (.plainWrite hw))

theorem Canon.intakeBlockWrite {n : RingIx} (hw : Canon w) : Canon (Machine.intakeBlockWrite n x off v w) :=
  .ite (.baseWrite hw) (.ite (.ite (.intakeEnable hw) (.intakeDisable hw)) (.ite (.baseWrite hw) (.ite (.hostRingCtrlWrite hw) (.plainWrite hw))))

theorem Canon.outBlockWrite {s : StreamIx} (hw : Canon w) : Canon (Machine.outBlockWrite s x off v w) :=
  .ite (.baseWrite hw) (.ite (.hostRingCtrlWrite hw) (.plainWrite hw))

theorem Canon.dbgCmdWrite (hw : Canon w) : Canon (Machine.dbgCmdWrite v w) :=
  .onlyIf (fun _ h1 => .resume h1) (.onlyIf (fun _ h2 => .pop h2) hw)

theorem Canon.envCmdWrite (hw : Canon w) : Canon (Machine.envCmdWrite v w) :=
  .onlyIf (fun _ h1 => .clearTrip h1) (.onlyIf (fun _ h2 => .clearEmerg h2) hw)

/-- A choice of special writes keeps the canonical form when each choice does. -/
theorem Canon.specialIte {c : Prop} [Decidable c] {f : W9 → W9} {o : Option (W9 → W9)} (hf : Canon (f w)) (ho : ∀ g ∈ o, Canon (g w)) :
    ∀ g ∈ (if c then some f else o), Canon (g w) := by
  split
  · rintro g ⟨⟩
    exact hf
  · exact ho

theorem Canon.specialWrite {off : Nat} {v : Word32} (hw : Canon w) : ∀ g ∈ Machine.specialWrite off v, Canon (g w) := by
  refine specialIte (.envCmdWrite hw) <| specialIte (.hostCapWrite hw) <| specialIte (.serveCtrlWrite hw) <|
    specialIte (.ite hw (.plainWrite hw)) <| specialIte (.pairCtrlWrite hw) <| specialIte hw <| specialIte (.dbgCmdWrite hw) <|
    specialIte (.baseWrite hw) <| specialIte (.hostRingCtrlWrite hw) <| specialIte (.intakeBlockWrite hw) <|
    specialIte (.outBlockWrite hw) ?_
  split
  · rintro g ⟨⟩
    exact .routeCtrlWrite hw
  · intro g hg
    obtain ⟨p, -, rfl⟩ := Option.mem_map.mp hg
    exact .portCtrlWrite hw

theorem Canon.bar0Write {off : Nat} {v : Word32} (hw : Canon w) : Canon (Machine.bar0Write off v w) := by
  refine .ite hw (.ite (.dbgPageAccess hw) ?_)
  split
  · exact .ite (.cmdWrite hw) (.unlistedOp hw)
  · split
    next g hg => exact .specialWrite hw g hg
    · exact .plainWrite hw

theorem Canon.registerWrite {v : Word64} (hw : Canon w) : Canon (Machine.registerWrite a wide v w) := by
  unfold Machine.registerWrite
  dsimp only
  split
  · exact .ite hw (.ite (.misaligned hw) (.ite (.bar0Write (.bar0Write hw)) (.bar0Write hw)))
  · exact .ite hw (.ite (.pageWrite (.pageWrite hw)) (.pageWrite hw))

end

/-! ## Time -/

section

theorem Canon.tick (hw : Canon w) : Canon (Machine.tick w) := .ite (.same hw) hw

end

/-! ## The commands -/

/-- Every command answers a next state, and keeps the canonical form. -/
theorem Canon.exec {s : State} (hw : Canon s.w) : ∀ c : Instr, Yields c s Canon
  | .registerWrite .. => ⟨_, rfl, .registerWrite hw⟩
  | .rcRead .. => ⟨_, rfl, .rcRead hw⟩
  | .deviceTimeLowRead => ⟨_, rfl, .timeLowRead hw⟩
  | .bar0MisalignedAccess .. => ⟨_, rfl, .misaligned hw⟩
  | .commandUnlistedOp .. => ⟨_, rfl, .unlistedOp hw⟩
  | .beatBoundary .. => ⟨_, rfl, .beatBoundary hw⟩
  | .beatPlanWord .. => ⟨_, rfl, .beatPlanWord hw⟩
  | .beatStart => ⟨_, rfl, .beatStart hw⟩
  | .timeBroadcast .. => ⟨_, rfl, .timeBroadcast hw⟩
  | .beatBundle .. => ⟨_, rfl, .beatBundle hw⟩
  | .precisionCountReport .. => ⟨_, rfl, .countReport hw⟩
  | .fieldBeatCounterAdvance .. => ⟨_, rfl, .fieldBeatAdvance hw⟩
  | .idleBundle .. => ⟨_, rfl, .idleBundle hw⟩
  | .localLoad .. => ⟨_, rfl, .localLoad hw⟩
  | .localStore .. => ⟨_, rfl, .localStore hw⟩
  | .freezeBegin => ⟨_, rfl, .freezeBegin hw⟩
  | .ringPop .. => ⟨_, rfl, .ringPop hw⟩
  | .localAppend .. => ⟨_, rfl, .localAppend hw⟩
  | .put .. => ⟨_, rfl, .putIssue hw⟩
  | .putSignal .. => ⟨_, rfl, .putIssue hw⟩
  | .get .. => ⟨_, rfl, .getIssue hw⟩
  | .atomicAdd .. => ⟨_, rfl, .atomicAddIssue hw⟩
  | .atomicCas .. => ⟨_, rfl, .atomicCasIssue hw⟩
  | .packetArrive .. => ⟨_, rfl, .packetArrive hw⟩
  | .openSlotGrant .. => ⟨_, rfl, .openSlot hw⟩
  | .seamRelease .. => ⟨_, rfl, .seamRelease hw⟩
  | .seamLate .. => ⟨_, rfl, .seamLate hw⟩
  | .remoteWriteLand .. => ⟨_, rfl, .remoteWriteLand hw⟩
  | .deferredWriteLand .. => ⟨_, rfl, .deferredWriteLand hw⟩
  | .remoteGetServe .. => ⟨_, rfl, .remoteGetServe hw⟩
  | .atomicExecute .. => ⟨_, rfl, .atomicExecute hw⟩
  | .ringAppendLand .. => ⟨_, rfl, .ringAppendLand hw⟩
  | .replyLand .. => ⟨_, rfl, .replyLand hw⟩
  | .creditReq .. => ⟨_, rfl, .creditReq hw⟩
  | .creditGrant .. => ⟨_, rfl, .creditGrant hw⟩
  | .creditGrantReceive .. => ⟨_, rfl, .grantReceive hw⟩
  | .ringEnable .. => ⟨_, rfl, .ringEnable hw⟩
  | .windowEnable .. => ⟨_, rfl, .windowEnable hw⟩
  | .sigcntWrite .. => ⟨_, rfl, .sigcntWrite hw⟩
  | .bundlePortWrite .. => ⟨_, rfl, .bundlePortWrite hw⟩
  | .seqStart .. => ⟨_, rfl, .seqStart hw⟩
  | .seqStop .. => ⟨_, rfl, .seqStop hw⟩
  | .sequencerRunBegin .. => ⟨_, rfl, .runBegin hw⟩
  | .fmqLoad .. => ⟨_, rfl, .fmqIssue hw⟩
  | .fmqStore .. => ⟨_, rfl, .fmqIssue hw⟩
  | .fmqTagDone .. => ⟨_, rfl, .fmqTagDone hw⟩
  | .wait .. => ⟨_, rfl, .waitTag hw⟩
  | .fmqWatchExpired .. => ⟨_, rfl, .fmqWatch hw⟩
  | .scrubRead .. => ⟨_, rfl, .scrubRead hw⟩
  | .scrubWriteBack .. => ⟨_, rfl, .scrubWriteBack hw⟩
  | .scrubLate .. => ⟨_, rfl, .scrubLate hw⟩
  | .storeZeroingComplete .. => ⟨_, rfl, .zeroingComplete hw⟩
  | .matmul .. => ⟨_, rfl, .matmul hw⟩
  | .wload .. => ⟨_, rfl, .wload hw⟩
  | .productDrainComplete .. => ⟨_, rfl, .productDrain hw⟩
  | .convert .. => ⟨_, rfl, .convert hw⟩
  | .ganderRerun .. => ⟨_, rfl, .ganderRerun hw⟩
  | .ganderErrorCompute .. => ⟨_, rfl, .ganderErrorCompute hw⟩
  | .evaluationPoint .. => ⟨_, rfl, .evaluationPoint hw⟩
  | .deescalationDecision .. => ⟨_, rfl, .deescalationDecision hw⟩
  | .changeComplete => ⟨_, rfl, .changeComplete hw⟩
  | .attn .. => ⟨_, rfl, .attn hw⟩
  | .amerge .. => ⟨_, rfl, .amerge hw⟩
  | .attnComplete .. => ⟨_, rfl, .attnComplete hw⟩
  | .stagingAppend .. => ⟨_, rfl, .stagingAppend hw⟩
  | .flushedMaskSet .. => ⟨_, rfl, .flushedMaskSet hw⟩
  | .allocationResume .. => ⟨_, rfl, .allocationResume hw⟩
  | .prefixLookup .. => ⟨_, rfl, .prefixLookup hw⟩
  | .prefixInsert .. => ⟨_, rfl, .prefixInsert hw⟩
  | .prefixRelease .. => ⟨_, rfl, .prefixRelease hw⟩
  | .intakeScan => ⟨_, rfl, .intakeScan hw⟩
  | .admissionDecision => ⟨_, rfl, .admissionDecision hw⟩
  | .cancel .. => ⟨_, rfl, .cancel hw⟩
  | .stepConfirm .. => ⟨_, rfl, .stepConfirm hw⟩
  | .draftExtend .. => ⟨_, rfl, .draftExtend hw⟩
  | .chunkStart .. => ⟨_, rfl, .chunkStart hw⟩
  | .chunkEnd .. => ⟨_, rfl, .chunkEnd hw⟩
  | .windowPublish => ⟨_, rfl, .windowPublish hw⟩
  | .install .. => ⟨_, rfl, .install hw⟩
  | .adapterSlotTaken => ⟨_, rfl, .adapterSlotTaken hw⟩
  | .adapterLoadComplete => ⟨_, rfl, .adapterLoadComplete hw⟩
  | .remove .. => ⟨_, rfl, .remove hw⟩
  | .setLoad .. => ⟨_, rfl, .setLoadCmd hw⟩
  | .verify => ⟨_, rfl, .verify hw⟩
  | .abort => ⟨_, rfl, .loadAbort hw⟩
  | .layerDigestCheck .. => ⟨_, rfl, .layerDigest hw⟩
  | .loadEngineDone .. => ⟨_, rfl, .loadDone hw⟩
  | .muleDataReceive .. => ⟨_, rfl, .muleData hw⟩
  | .loadItemPop .. => ⟨_, rfl, .loadItemPop hw⟩
  | .loadItemComplete .. => ⟨_, rfl, .loadItemComplete hw⟩
  | .gatewayRequestAccept .. => ⟨_, rfl, .gatewayAccept hw⟩
  | .gatewayServe .. => ⟨_, rfl, .gatewayServe hw⟩
  | .refreshInterval .. => ⟨_, rfl, .refreshInterval hw⟩
  | .stackLeaveSelf .. => ⟨_, rfl, .stackLeaveSelf hw⟩
  | .start .. => ⟨_, rfl, .flipStart hw⟩
  | .flipAbort => ⟨_, rfl, .flipAbort hw⟩
  | .flipBuildComplete => ⟨_, rfl, .flipBuilt hw⟩
  | .flipDrainExpired => ⟨_, rfl, .drainExpired hw⟩
  | .streamPark .. => ⟨_, rfl, .streamPark hw⟩
  | .flipDrainComplete => ⟨_, rfl, .drainComplete hw⟩
  | .refillEntryDone .. => ⟨_, rfl, .refillEntryDone hw⟩
  | .imageLoad .. => ⟨_, rfl, .imageLoad hw⟩
  | .imageInstantiated => ⟨_, rfl, .imageInstantiated hw⟩
  | .unload => ⟨_, rfl, .unload hw⟩
  | .reload => ⟨_, rfl, .reload hw⟩
  | .resume => ⟨_, rfl, .resume hw⟩
  | .resumeTimeReached => ⟨_, rfl, .resumeTimeReached hw⟩
  | .pop => ⟨_, rfl, .pop hw⟩
  | .dbgTilePageAccess .. => ⟨_, rfl, have h1 := Canon.dbgPageAccess hw; .ite h1 (.complete h1)⟩
  | .bar2Read .. => ⟨_, rfl, .bar2Read hw⟩
  | .bar2Write .. => ⟨_, rfl, .bar2Write hw⟩
  | .bar2ReadTimeout .. => ⟨_, rfl, .readTimeout hw⟩
  | .bar4Write .. => ⟨_, rfl, .bar4Write hw⟩
  | .bar4Read .. => ⟨_, rfl, .bar4Read hw⟩
  | .bar4ReadComplete .. => ⟨_, rfl, .bar4Complete hw⟩
  | .intakeEnable .. => ⟨_, rfl, .intakeEnable hw⟩
  | .intakeStampsCleared .. => ⟨_, rfl, .stampsCleared hw⟩
  | .intakeDisable .. => ⟨_, rfl, .intakeDisable hw⟩
  | .hostRingEnable .. => ⟨_, rfl, .hostRingEnable hw⟩
  | .ringBatchWrite .. => ⟨_, rfl, .ringBatchWrite hw⟩
  | .msixSend .. => ⟨_, rfl, .msixSend hw⟩
  | .completionPost .. => ⟨_, rfl, .completionPost hw⟩
  | .linkTrained .. => ⟨_, rfl, .linkTrained hw⟩
  | .linkDown => ⟨_, rfl, .linkDown hw⟩
  | .functionLevelReset => ⟨_, rfl, .functionLevelReset hw⟩
  | .d3hotEntry => ⟨_, rfl, .d3hotEntry hw⟩
  | .setEndpointId .. => ⟨_, rfl, .mctp (fun _ h1 => .setEid h1) hw⟩
  | .getEndpointId => ⟨_, rfl, .mctp (fun _ h1 => .respond h1) hw⟩
  | .getEndpointUuid => ⟨_, rfl, .mctp (fun _ h1 => .respond h1) hw⟩
  | .getMctpVersionSupport => ⟨_, rfl, .mctp (fun _ h1 => .respond h1) hw⟩
  | .getMessageTypeSupport => ⟨_, rfl, .mctp (fun _ h1 => .respond h1) hw⟩
  | .getState => ⟨_, rfl, .getState hw⟩
  | .setFacilityCap .. => ⟨_, rfl, .vendor (fun _ h1 => .facilityCap h1) hw⟩
  | .getPower => ⟨_, rfl, .vendor (fun _ h1 => .getPower h1) hw⟩
  | .attestStart .. => ⟨_, rfl, .vendor (fun _ h1 => .attestStart h1) hw⟩
  | .attestRead .. => ⟨_, rfl, .vendor (fun _ h1 => .attestRead h1) hw⟩
  | .portTrain .. => ⟨_, rfl, .portTrain hw⟩
  | .portTrainRetry .. => ⟨_, rfl, .portTrainRetry hw⟩
  | .laneFail .. => ⟨_, rfl, .laneFail hw⟩
  | .controlFlitReceive .. => ⟨_, rfl, .controlFlit hw⟩
  | .dataFlitReceive .. => ⟨_, rfl, .dataFlit hw⟩
  | .replayTimeout .. => ⟨_, rfl, .replayTimeout hw⟩
  | .farWrite .. => ⟨_, rfl, .farWrite hw⟩
  | .windowWrite .. => ⟨_, rfl, .onTransfer (fun _ _ h1 => .windowWriteDo h1) hw⟩
  | .windowWriteWithSignal .. => ⟨_, rfl, .onTransfer (fun _ _ h1 => .windowWriteDo h1) hw⟩
  | .windowRead .. => ⟨_, rfl, .onTransfer (fun _ _ h1 => .windowReadDo h1) hw⟩
  | .reply .. => ⟨_, rfl, .onPort (fun _ h1 => .replyDo h1) hw⟩
  | .pairHelloSend => ⟨_, rfl, .helloSend hw⟩
  | .pairHello .. => ⟨_, rfl, .onTwin (fun _ h1 => .hello h1) hw⟩
  | .pairAccept .. => ⟨_, rfl, .onTwin (fun _ h1 => .pairAccepted h1) hw⟩
  | .pairRefuse .. => ⟨_, rfl, .onTwin (fun _ h1 => .pairRefuse h1) hw⟩
  | .heartbeatSend => ⟨_, rfl, .heartbeatSend hw⟩
  | .heartbeat .. => ⟨_, rfl, .onTwin (fun _ h1 => .heartbeat h1) hw⟩
  | .partnerSilence .. => ⟨_, rfl, .partnerSilence hw⟩
  | .shadowBacklogHandover => ⟨_, rfl, .backlogHandover hw⟩
  | .mirrorAdopt .. => ⟨_, rfl, .mirrorAdopt hw⟩
  | .failing .. => ⟨_, rfl, .onTwin (fun _ h1 => .ite (.declareFailed h1) h1) hw⟩
  | .claim .. => ⟨_, rfl, .onTwin (fun _ h1 => .claim h1) hw⟩
  | .handoff .. => ⟨_, rfl, .onTwin (fun _ h1 => .handoffIn h1) hw⟩
  | .ended .. => ⟨_, rfl, .onTwin (fun _ h1 => .endedIn h1) hw⟩
  | .commit .. => ⟨_, rfl, .onTwin (fun _ h1 => .commitIn h1) hw⟩
  | .commitTimeout .. => ⟨_, rfl, .commitTimeout hw⟩
  | .shadowReq .. => ⟨_, rfl, .onTwin (fun _ h1 => .shadowReqIn h1) hw⟩
  | .shadowAck .. => ⟨_, rfl, .onTwin (fun _ h1 => .shadowAckIn h1) hw⟩
  | .shadowNak .. => ⟨_, rfl, .onTwin (fun _ h1 => .shadowNakIn h1) hw⟩
  | .ready .. => ⟨_, rfl, .onTwin (fun _ h1 => .readyIn h1) hw⟩
  | .shadowStepStart .. => ⟨_, rfl, .onTwin (fun _ h1 => .startIn h1) hw⟩
  | .block .. => ⟨_, rfl, .onTwin (fun _ h1 => .blockIn h1) hw⟩
  | .chunkDone .. => ⟨_, rfl, .onTwin (fun _ h1 => .chunkDoneIn h1) hw⟩
  | .mirrorSend => ⟨_, rfl, .mirrorSend hw⟩
  | .escReq .. => ⟨_, rfl, .onTwin (fun _ h1 => .escReqIn h1) hw⟩
  | .escCommit .. => ⟨_, rfl, .onTwin (fun _ h1 => .escCommitIn h1) hw⟩
  | .escClear .. => ⟨_, rfl, .onTwin (fun _ h1 => .escClearIn h1) hw⟩
  | .stretch .. => ⟨_, rfl, .onTwin (fun _ h1 => .stretchIn h1) hw⟩
  | .freeze .. => ⟨_, rfl, .onTwin (fun _ h1 => .freezeIn h1) hw⟩
  | .resumeMessage .. => ⟨_, rfl, .onTwin (fun _ h1 => .resumeIn h1) hw⟩
  | .muleResend .. => ⟨_, rfl, .onPort (fun _ h1 => .muleResendIn h1) hw⟩
  | .muleFail .. => ⟨_, rfl, .onPort (fun _ h1 => .muleFailIn h1) hw⟩
  | .pairCtrlWrite .. => ⟨_, rfl, .pairCtrlWrite hw⟩
  | .fieldPllLoss .. => ⟨_, rfl, .fieldPllLoss hw⟩
  | .fieldPllRelockTimeout .. => ⟨_, rfl, .fieldPllTimeout hw⟩
  | .mifPllLoss .. => ⟨_, rfl, .mifPllLoss hw⟩
  | .stewardPllLoss => ⟨_, rfl, .warmReset hw⟩
  | .timebasePllLoss => ⟨_, rfl, .timebaseLoss hw⟩
  | .referenceLoss => ⟨_, rfl, .referenceLoss hw⟩
  | .inputOutOfRange .. => ⟨_, rfl, .inputOutOfRange hw⟩
  | .inputCutoff => ⟨_, rfl, .inputCutoff hw⟩
  | .zoneTelemetry .. => ⟨_, rfl, .zoneTelemetry hw⟩
  | .zoneCurrentLimit .. => ⟨_, rfl, .zoneLimit hw⟩
  | .droopWindow .. => ⟨_, rfl, .droopWindow hw⟩
  | .suspectedCrack .. => ⟨_, rfl, .suspectedCrack hw⟩
  | .zoneShort .. => ⟨_, rfl, .zoneShort hw⟩
  | .drainEnd .. => ⟨_, rfl, .drainEnd hw⟩
  | .drainAbandon .. => ⟨_, rfl, .drainAbandon hw⟩
  | .fieldGate .. => ⟨_, rfl, .fieldGate hw⟩
  | .wakeComplete .. => ⟨_, rfl, .wakeComplete hw⟩
  | .fieldReopen .. => ⟨_, rfl, .fieldReopen hw⟩
  | .sensorSample .. => ⟨_, rfl, .sensorSample hw⟩
  | .sensorReferenceCheck .. => ⟨_, rfl, .referenceCheck hw⟩
  | .thermalEvaluation .. => ⟨_, rfl, .thermalEvaluation hw⟩
  | .envelopeDecision .. => ⟨_, rfl, .envelopeDecision hw⟩
  | .class0ReleaseHandoffTimeout .. => ⟨_, rfl, .releaseTimeout hw⟩
  | .class0ReleaseComplete => ⟨_, rfl, .releaseComplete hw⟩
  | .hostCapWrite .. => ⟨_, rfl, .hostCapWrite hw⟩
  | .holdQuiesced => ⟨_, rfl, .holdQuiesced hw⟩
  | .holdAbandon .. => ⟨_, rfl, .holdAbandon hw⟩
  | .holdExitStep .. => ⟨_, rfl, .holdExitStep hw⟩
  | .clearEmerg => ⟨_, rfl, .clearEmerg hw⟩
  | .clearTrip => ⟨_, rfl, .clearTrip hw⟩
  | .powerOn => ⟨_, rfl, .powerOn hw⟩
  | .coldReset => ⟨_, rfl, .coldReset hw⟩
  | .resetRelease .. => ⟨_, rfl, .resetRelease hw⟩
  | .warm => ⟨_, rfl, .ite (.warmReset hw) hw⟩
  | .field .. => ⟨_, rfl, .blockCommand (fun _ h1 => .startFieldReset h1) hw⟩
  | .gateway .. => ⟨_, rfl, .blockCommand (fun _ h1 => .startGatewayReset h1) hw⟩
  | .linkPort .. => ⟨_, rfl, .blockCommand (fun _ h1 => .linkPortReset h1) hw⟩
  | .quiesceComplete .. => ⟨_, rfl, .quiesceComplete hw⟩
  | .quiesceTimeout .. => ⟨_, rfl, .quiesceTimeout hw⟩
  | .fieldResetReopen .. => ⟨_, rfl, .fieldResetReopen hw⟩
  | .criticalStateError .. => ⟨_, rfl, .criticalStateError hw⟩
  | .read => ⟨_, rfl, .optCommand hw⟩
  | .erase => ⟨_, rfl, .optCommand hw⟩
  | .program => ⟨_, rfl, .optCommand hw⟩
  | .optionOperationEnd .. => ⟨_, rfl, .optEnd hw⟩
  | .report => ⟨_, rfl, .report hw⟩
  | .extend .. => ⟨_, rfl, .extend hw⟩
  | .twin => ⟨_, rfl, .twinFetch hw⟩
  | .twinStatePoll => ⟨_, rfl, .twinPoll hw⟩
  | .attestReportReady => ⟨_, rfl, .reportReady hw⟩
  | .roosterBeat .. => ⟨_, rfl, .roosterBeat hw⟩
  | .roosterWindow => ⟨_, rfl, .roosterWindow hw⟩
  | .beatWatch .. => ⟨_, rfl, .beatWatch hw⟩
  | .replayWatch => ⟨_, rfl, .replayWatch hw⟩
  | .recoveryStart => ⟨_, rfl, .recoveryStart hw⟩
  | .recoveryTwinListenEnd => ⟨_, rfl, .twinListenEnd hw⟩
  | .suspectReplay => ⟨_, rfl, .suspectReplay hw⟩
  | .release .. => ⟨_, rfl, .release hw⟩
  | .selfTestRun .. => ⟨_, rfl, .selfTestRun hw⟩
  | .selfTestEnd .. => ⟨_, rfl, .selfTestEnd hw⟩
  | .selfTestAbandon .. => ⟨_, rfl, .selfTestAbandon hw⟩
  | .fieldLoss .. => ⟨_, rfl, .ite (.loseField hw) hw⟩
  | .fieldPllRelock .. => ⟨_, rfl, .fieldPllRelock hw⟩
  | .timebasePllRelock => ⟨_, rfl, .timebaseRelock hw⟩
  | .aerErrorLogged .. => ⟨_, rfl, .aerErrorLogged hw⟩
  | .sidebandUnknownCommand .. => ⟨_, rfl, .vendor (fun _ h1 => .unknownCommand h1) hw⟩

/-- A step keeps the canonical form. -/
theorem Canon.step {s s' : State} (hw : Canon s.w) (hs : Machine.step s = .next s') : Canon s'.w := by
  obtain ⟨w, pending⟩ := s
  cases pending with
  | nil =>
    cases hs
    exact .tick hw
  | cons c rest =>
    obtain ⟨w', he, hw'⟩ := Canon.exec (s := ⟨w, rest⟩) hw c
    cases he.symm.trans hs
    exact hw'

/-! ## One list for each content -/

/-- Below its least key a canonical map lists nothing. -/
theorem smGet_of_le [DecidableEq α] (d : Nat → α) (m : SMap α) {lo k : Nat} (hm : smWfFrom d (some lo) m = true) (hk : k ≤ lo) :
    smGet d m k = d k := by
  induction m generalizing lo with
  | nil => rfl
  | cons e m ih =>
    obtain ⟨hlo, -, htail⟩ := (smWfFrom_cons d _ e m).mp hm
    have hlt : lo < e.1 := hlo lo rfl
    rw [smGet, if_neg (by omega), ih htail (by omega)]

/-- Of two canonical maps that read the same, neither starts below the other: its first key would read as listed in one alone. -/
theorem head_not_lt_of_get_eq [DecidableEq α] (d : Nat → α) {lo lo' : Option Nat} {e e' : Nat × α} {m m' : SMap α}
    (hm : smWfFrom d lo (e :: m) = true) (hm' : smWfFrom d lo' (e' :: m') = true)
    (hget : ∀ k, smGet d (e' :: m') k = smGet d (e :: m) k) : ¬ e.1 < e'.1 := by
  intro hlt
  obtain ⟨-, hne, -⟩ := (smWfFrom_cons d lo e m).mp hm
  obtain ⟨-, -, htail'⟩ := (smWfFrom_cons d lo' e' m').mp hm'
  have he := hget e.1
  rw [smGet, if_neg (by omega), smGet_of_le d m' htail' hlt.le, smGet, if_pos rfl] at he
  exact hne he.symm

/-- Two canonical maps that read the same everywhere are the same list. -/
theorem smWfFrom_ext [DecidableEq α] (d : Nat → α) {lo lo' : Option Nat} {m m' : SMap α} (hm : smWfFrom d lo m = true)
    (hm' : smWfFrom d lo' m' = true) (hget : ∀ k, smGet d m' k = smGet d m k) : m' = m := by
  induction m generalizing m' lo lo' with
  | nil =>
    cases m' with
    | nil => rfl
    | cons e' m' =>
      obtain ⟨-, hne, -⟩ := (smWfFrom_cons d lo' e' m').mp hm'
      exact absurd (by simpa [smGet] using hget e'.1) hne
  | cons e m ih =>
    obtain ⟨-, hne, htail⟩ := (smWfFrom_cons d lo e m).mp hm
    cases m' with
    | nil => exact absurd (by simpa [smGet] using (hget e.1).symm) hne
    | cons e' m' =>
      obtain ⟨-, -, htail'⟩ := (smWfFrom_cons d lo' e' m').mp hm'
      have hkey : e'.1 = e.1 := le_antisymm (not_lt.mp (head_not_lt_of_get_eq d hm hm' hget))
        (not_lt.mp (head_not_lt_of_get_eq d hm' hm fun k => (hget k).symm))
      have hval : e'.2 = e.2 := by simpa [smGet, hkey] using hget e.1
      have hrest : ∀ k, smGet d m' k = smGet d m k := by
        intro k
        by_cases hk : e.1 = k
        · rw [smGet_of_le d m htail hk.ge, smGet_of_le d m' htail' (hkey.trans hk).ge]
        · simpa [smGet, hkey, hk] using hget k
      rw [ih htail htail' hrest, Prod.ext hkey hval]

/-- Settles O60: each command keeps the canonical form (`Canon.exec`), and a canonical map is determined by what it reads. -/
theorem everyStepKeepsTheCanonicalForms : Obligations.EveryStepKeepsTheCanonicalForms :=
  ⟨fun _ _ hmem hregs hs => canon_iff.mp (.step (canon_iff.mpr ⟨hmem, hregs⟩) hs),
    fun _ _ ⟨hbar0, _⟩ ⟨hbar0', _⟩ hget => smWfFrom_ext regReset hbar0 hbar0' hget⟩

end Sys2Proof.Machine
end

section
/-! SUPPORT. The issue rule of a tile's sequencer and the memory slot (R47, R48, R60 to R66, R86): a bundle whose conditions hold acts on
the W9 that `begun` gives, and one whose conditions do not hold is held. -/

namespace Sys2Proof.Machine

open Sys2Proof

/-- A command whose arm lifts `f` leaves a state that `f` leaves alone. -/
theorem exec_of_lift_same {c : Instr} {s : State} {f : W9 → W9} (hexec : exec c s = lift f s) (hf : f s.w = s.w) : exec c s = .next s :=
  hexec.trans (congrArg (fun w => Host.Outcome.next (State.mk w s.pending)) hf)

/-! ## Flags of a page -/

theorem prdB_of_prd {w w' : W9} {t : Tile} {off : Nat} (h : prd w' t off = prd w t off) (i : Nat) : prdB w' t off i = prdB w t off i :=
  congrArg (·.getLsbD i) h

theorem prdF_of_prd {w w' : W9} {t : Tile} {off : Nat} (h : prd w' t off = prd w t off) (hi lo : Nat) :
    prdF w' t off hi lo = prdF w t off hi lo := congrArg (fieldOf · hi lo) h

/-- A bit outside the field written. -/
theorem prdB_pwrF_ne (t : Tile) (off hi lo x i : Nat) (w : W9) (h : lo ≤ hi) (hi' : i < 32) (hd : i < lo ∨ hi < i) :
    prdB (pwrF t off hi lo x w) t off i = prdB w t off i := by
  rw [prdB, pwrF, prd_pwr_same, getLsbD_setField _ _ _ _ _ h hi', if_neg (by omega)]
  rfl

/-- A field outside the field written. -/
theorem prdF_pwrF_ne (t : Tile) (off hi lo x a b : Nat) (w : W9) (h : lo ≤ hi) (ha : a < 32) (hd : hi < b ∨ a < lo) :
    prdF (pwrF t off hi lo x w) t off a b = prdF w t off a b := by
  rw [prdF, pwrF, prd_pwr_same, fieldOf_setField_ne _ _ _ _ _ _ h ha hd]
  rfl

theorem prdB_tileErr_same (t : Tile) {i : Nat} (w : W9) (hi : i < 32) : prdB (tileErr t i w) t Pg.tileErr i = true :=
  prdB_pwrB_same t Pg.tileErr i true w hi

theorem prd_tileErr_off {t : Tile} {off : Nat} (i : Nat) (w : W9) (h : off ≠ Pg.tileErr) : prd (tileErr t i w) t off = prd w t off :=
  prd_pwrB_off _ _ _ h

/-- Byte `i` from a local address on has its key `i` further on. -/
theorem storeKey_add (t : Tile) (a i : Nat) : storeKey t (a + i) = storeKey t a + i := (Nat.add_assoc _ _ _).symm

theorem ne_tileErr {off : Nat} (h : 0x100 ≤ off) : off ≠ Pg.tileErr := by simp only [Pg.tileErr]; omega

/-! ## A bundle issues, or is held -/

/-- The W9 on which the operation of an issuing bundle acts: STALLED and IN_IDLE have ended, the signals are consumed (R64). -/
def begun (t : Tile) (cs : List Cond) (w : W9) : W9 := consume t cs (pwrF t Pg.tileStatus 2 1 0 w)

theorem issue_of_ready {t : Tile} {cs : List Cond} {w : W9} (htry : canTry w t = true) (hcs : cs.all (condHolds w t) = true)
    {more : Bool} (hmore : more = true) (f : W9 → W9) : issue t cs more f w = f (begun t cs w) := by
  subst hmore
  exact issue_go t cs f w htry hcs

theorem begun_eq (t : Tile) (cs : List Cond) (w : W9) : begun t cs w = { w with page := (begun t cs w).page } := go_frame t cs w

@[simp] theorem begun_dev (t : Tile) (cs : List Cond) (w : W9) : (begun t cs w).dev = w.dev := consume_dev _ _ _
@[simp] theorem begun_bar0 (t : Tile) (cs : List Cond) (w : W9) : (begun t cs w).bar0 = w.bar0 := consume_bar0 _ _ _
@[simp] theorem begun_mem (t : Tile) (cs : List Cond) (w : W9) : (begun t cs w).mem = w.mem := consume_mem _ _ _
@[simp] theorem begun_tiles (t : Tile) (cs : List Cond) (w : W9) : (begun t cs w).tiles = w.tiles := consume_tiles _ _ _
@[simp] theorem begun_routers (t : Tile) (cs : List Cond) (w : W9) : (begun t cs w).routers = w.routers := consume_routers _ _ _
@[simp] theorem begun_fields (t : Tile) (cs : List Cond) (w : W9) : (begun t cs w).fields = w.fields := consume_fields _ _ _
@[simp] theorem begun_serve (t : Tile) (cs : List Cond) (w : W9) : (begun t cs w).serve = w.serve := consume_serve _ _ _

theorem begun_status (t : Tile) (cs : List Cond) (w : W9) : prdF (begun t cs w) t Pg.tileStatus 2 1 = 0 := go_status t cs w

/-- Of the page an issue changes TILE_STATUS and the signal counters. -/
theorem prd_begun {t : Tile} {off : Nat} (cs : List Cond) (w : W9) (hstatus : off ≠ Pg.tileStatus) (hsig : off < 0x300 ∨ 0x400 ≤ off) :
    prd (begun t cs w) t off = prd w t off := (prd_consume t cs _ hsig).trans (prd_pwrF_off _ _ _ _ hstatus)

theorem tags_begun (t : Tile) (cs : List Cond) (w : W9) (g : Tag) : tagDone (begun t cs w) t g = tagDone w t g ∧
    tagPending (begun t cs w) t g = tagPending w t g ∧ tagFree (begun t cs w) t g = tagFree w t g :=
  tag_of_prd t (go_tags t cs w) g

theorem holdBundle_mem (t : Tile) (w : W9) : (holdBundle t w).mem = w.mem := by simp [holdBundle]

theorem holdBundle_tiles (t : Tile) (w : W9) : (holdBundle t w).tiles = w.tiles := by simp [holdBundle]

theorem holdBundle_stallCycles (t : Tile) (w : W9) :
    prd (holdBundle t w) t Pg.stallCycles = satAdd32 (prd w t Pg.stallCycles) 1 := by
  rw [holdBundle, prd_trap, prd_pwrF_off _ _ _ _ (by decide), prd_pinc_same]

theorem holdBundle_stalled (t : Tile) (w : W9) : prdF (holdBundle t w) t Pg.tileStatus 2 1 = 1 := by
  rw [holdBundle, prdF_of_prd (prd_trap ..), prdF_pwrF_same _ _ _ _ _ _ (by decide) (by decide)]
  rfl

/-! ## The memory slot's operations -/

/-- An access of an unassigned address sets its flag and raises its event (R48). -/
theorem addrFault_events (t : Tile) (a : LAddr) (w : W9) : OnlyEvents (tileErr t 5 w) (addrFault t a w) := raiseT_step ..

theorem localLoad_ready {t : Tile} {a : LAddr} {n : Nat} {cs : List Cond} {w : W9} (htry : canTry w t = true)
    (hcs : cs.all (condHolds w t) = true) (hready : readReady w t a.toNat n = true) : localLoad t a n cs w =
      if dataAssigned (isC t) a.toNat n then schedRead t a.toNat n (begun t cs w) else addrFault t a (begun t cs w) :=
  issue_of_ready htry hcs hready _

theorem localStore_ready {t : Tile} {a : LAddr} {d : List Byte} {cs : List Cond} {w : W9} (htry : canTry w t = true)
    (hcs : cs.all (condHolds w t) = true) : localStore t a d cs w =
      if dataAssigned (isC t) a.toNat d.length then writeStore t a.toNat d (begun t cs w) else addrFault t a (begun t cs w) :=
  issue_of_ready htry hcs rfl _

/-- Settles O8: an issuing bundle acts on `begun`, a write of the store lands byte for byte (`smGet_putBytes_in`), and a bundle that cannot
issue only counts (`issue_hold`). -/
theorem memorySlotActsOnlyWhenItIssues : Obligations.MemorySlotActsOnlyWhenItIssues := by
  intro s t cs htry
  refine ⟨fun hcs => ⟨fun a d hd => ?store, fun a d hd => ?storeFault, fun a n hready => ?load, fun n hnil => ?idle, fun g hg => ?wait⟩,
    fun hcs a d => ?hold⟩
  case store =>
    refine yields_of_lift (localStore t a d cs) rfl ?_
    rw [localStore_ready htry hcs, if_pos hd]
    refine ⟨fun i hi => smGet_putBytes_in 0 d _ _ i hi, fun k hk => ?_, begun_status t cs s.w, ?_⟩
    · exact (smGet_putBytes_out 0 d _ _ k hk).trans (by rw [begun_mem])
    · rw [begun_eq]
      rfl
  case storeFault =>
    refine yields_of_lift (localStore t a d cs) rfl ?_
    rw [localStore_ready htry hcs, hd]
    have hevents := addrFault_events t a (begun t cs s.w)
    exact ⟨hevents.mem.trans (begun_mem ..), hevents.tiles.trans (begun_tiles ..), addrFault_err t a _⟩
  case load =>
    refine yields_of_lift (localLoad t a n cs) rfl ?_
    rw [localLoad_ready htry hcs hready]
    cases hd : dataAssigned (isC t) a.toNat n
    · have hevents := addrFault_events t a (begun t cs s.w)
      exact ⟨hevents.mem.trans (begun_mem ..), hevents.serve.trans (begun_serve ..), hevents.fields.trans (begun_fields ..),
        hevents.routers.trans (begun_routers ..), fun _ => addrFault_err t a _⟩
    · exact ⟨(schedRead_mem ..).trans (begun_mem ..), (schedRead_serve ..).trans (begun_serve ..),
        (schedRead_fields ..).trans (begun_fields ..), (schedRead_routers ..).trans (begun_routers ..), by simp⟩
  case idle =>
    refine yields_of_lift (idleBundle t n) rfl ?_
    rw [idleBundle, issue_of_ready htry rfl rfl]
    exact ⟨by simp [now], prdB_pwrB_same _ _ _ _ _ (by decide), rfl⟩
  case wait =>
    refine yields_of_lift (waitTag t g) rfl ?_
    rw [waitTag, issue_of_ready htry (hg ▸ hcs) rfl]
    refine ⟨by simp [tagFree, setTag_done, setTag_pending], fun h hne => ?_, rfl⟩
    rw [setTag_free_ne _ _ _ _ _ _ hne, (tags_begun t _ s.w h).2.2]
  case hold =>
    refine yields_of_lift (localStore t a d cs) rfl ?_
    rw [localStore, issue_hold t cs true _ s.w htry hcs]
    exact ⟨holdBundle_mem t s.w, holdBundle_tiles t s.w, holdBundle_stallCycles t s.w, holdBundle_stalled t s.w⟩

end Sys2Proof.Machine
end

section
/-! SUPPORT. Ring regions of a tile (R64, R74 to R77): where the bytes of an append land, what a pop reads, and what a write of the ring's
registers leaves in force. -/

namespace Sys2Proof.Machine

open Sys2Proof

/-! ## A ring's registers -/

theorem ringRegs_bounds (r : RingIx) : (0x100 ≤ Pg.ringBase r.val ∧ Pg.ringBase r.val < 0x200) ∧
    (0x100 ≤ Pg.ringCtrl r.val ∧ Pg.ringCtrl r.val < 0x200) ∧ (0x100 ≤ Pg.ringHead r.val ∧ Pg.ringHead r.val < 0x200) ∧
    (0x100 ≤ Pg.ringTail r.val ∧ Pg.ringTail r.val < 0x200) := by
  have hr := r.isLt
  simp only [Pg.ringBase, Pg.ringCtrl, Pg.ringHead, Pg.ringTail]
  omega

theorem ringRegs_apart (r : RingIx) : Pg.ringBase r.val ≠ Pg.ringCtrl r.val ∧ Pg.ringBase r.val ≠ Pg.ringHead r.val ∧
    Pg.ringBase r.val ≠ Pg.ringTail r.val ∧ Pg.ringCtrl r.val ≠ Pg.ringHead r.val ∧ Pg.ringCtrl r.val ≠ Pg.ringTail r.val ∧
    Pg.ringHead r.val ≠ Pg.ringTail r.val := by
  simp only [Pg.ringBase, Pg.ringCtrl, Pg.ringHead, Pg.ringTail]
  omega

/-- What is read of a ring lies in its registers alone. -/
theorem ring_of_prd {w w' : W9} {t : Tile} (h : ∀ off, 0x100 ≤ off → off < 0x200 → prd w' t off = prd w t off) (r : RingIx) :
    ringOn w' t r = ringOn w t r ∧ ringSize w' t r = ringSize w t r ∧ ringBaseOf w' t r = ringBaseOf w t r ∧
      ringHeadOf w' t r = ringHeadOf w t r ∧ ringTailOf w' t r = ringTailOf w t r := by
  obtain ⟨⟨hblow, hbhigh⟩, ⟨hclow, hchigh⟩, ⟨hhlow, hhhigh⟩, ⟨htlow, hthigh⟩⟩ := ringRegs_bounds r
  have hctrl := h _ hclow hchigh
  exact ⟨prdB_of_prd hctrl _, congrArg (2 ^ ·) (prdF_of_prd hctrl _ _), congrArg BitVec.toNat (h _ hblow hbhigh),
    congrArg BitVec.toNat (h _ hhlow hhhigh), congrArg BitVec.toNat (h _ htlow hthigh)⟩

theorem prd_begun_ring (t : Tile) (cs : List Cond) (w : W9) (off : Nat) (hlow : 0x100 ≤ off) (hhigh : off < 0x200) :
    prd (begun t cs w) t off = prd w t off := prd_begun cs w (by simp only [Pg.tileStatus]; omega) (by omega)

theorem ringSize_pos (w : W9) (t : Tile) (r : RingIx) : 0 < ringSize w t r := Nat.two_pow_pos _

/-! ## Pops -/

theorem ringReadEffects_mem (t : Tile) (r : RingIx) (k : Nat) (w : W9) : (ringReadEffects t r k w).mem = w.mem := by
  unfold ringReadEffects
  dsimp only
  split <;> simp

theorem ringReadEffects_routers (t : Tile) (r : RingIx) (k : Nat) (w : W9) : (ringReadEffects t r k w).routers = w.routers := by
  unfold ringReadEffects
  dsimp only
  split <;> simp

/-- The errors that a pop meets are counted and flagged below the ring's registers. -/
theorem prd_ringReadEffects {t : Tile} {off : Nat} (r : RingIx) (k : Nat) (w : W9) (hoff : 0x100 ≤ off) :
    prd (ringReadEffects t r k w) t off = prd w t off := by
  have hread : ∀ a n v, prd (schedRead t a n v) t off = prd v t off := fun a n v =>
    prd_schedRead t a n v off (by simp only [Pg.ceCount]; omega) (by simp only [Pg.ueCount]; omega) (by simp only [Pg.tileErr]; omega)
  unfold ringReadEffects
  dsimp only
  split
  · rw [hread, hread]
  · rw [hread]

theorem ringPop_ready {t : Tile} {r : RingIx} {k : Nat} {cs : List Cond} {w : W9} (htry : canTry w t = true)
    (hcs : cs.all (condHolds w t) = true) (hk : k ≤ ringOcc w t r) :
    ringPop t r k cs w = advanceHead t r k (ringReadEffects t r k (begun t cs w)) :=
  issue_of_ready htry hcs (decide_eq_true hk) _

/-! ## Appends -/

/-- The place of TAIL in the region. -/
def tailPlace (w : W9) (t : Tile) (r : RingIx) : Nat := ringTailOf w t r % ringSize w t r

/-- The bytes of an append of `n` that land before the end of the region. -/
def beforeEnd (w : W9) (t : Tile) (r : RingIx) (n : Nat) : Nat := min n (ringSize w t r - tailPlace w t r)

theorem tailPlace_lt (w : W9) (t : Tile) (r : RingIx) : tailPlace w t r < ringSize w t r := Nat.mod_lt _ (ringSize_pos w t r)

/-- Byte `i` of an append has its place after TAIL, or after the base of the region where the append crosses the end. -/
theorem ringAddr_append {w : W9} {t : Tile} {r : RingIx} {i : Nat} (hi : i < ringSize w t r) :
    ringAddr w t r (ringTailOf w t r + i) = if i < ringSize w t r - tailPlace w t r then ringBaseOf w t r + tailPlace w t r + i
      else ringBaseOf w t r + (i - (ringSize w t r - tailPlace w t r)) := by
  have hplace := tailPlace_lt w t r
  rw [ringAddr, ← Nat.mod_add_mod, ← tailPlace]
  split
  next hbefore => rw [Nat.mod_eq_of_lt (by omega), Nat.add_assoc]
  next hafter => rw [Nat.mod_eq_sub_mod (by omega), Nat.mod_eq_of_lt (by omega)]; omega

theorem ringWrite_store (t : Tile) (r : RingIx) (bs : List Byte) (w : W9) : (ringWrite t r bs w).mem.store =
    putBytes 0 (putBytes 0 w.mem.store (storeKey t (ringBaseOf w t r + tailPlace w t r)) (bs.take (beforeEnd w t r bs.length)))
      (storeKey t (ringBaseOf w t r)) (bs.drop (beforeEnd w t r bs.length)) := by
  show (W9.mem (if beforeEnd w t r bs.length < bs.length then _ else _)).store = _
  split
  next hcross => rfl
  next hwhole => rw [List.drop_eq_nil_of_le (Nat.le_of_not_lt hwhole)]; rfl

theorem ringWrite_far (t : Tile) (r : RingIx) (bs : List Byte) (w : W9) : (ringWrite t r bs w).mem.far = w.mem.far := by
  unfold ringWrite
  dsimp only
  split <;> rfl

theorem ringWrite_tail (t : Tile) (r : RingIx) (bs : List Byte) (w : W9) : prd (ringWrite t r bs w) t (Pg.ringTail r.val) =
    BitVec.ofNat 32 ((ringTailOf w t r + bs.length) % (2 * ringSize w t r)) := prd_pwr_same ..

/-- An append writes no register but TAIL. -/
theorem prd_ringWrite {t : Tile} {off : Nat} (r : RingIx) (bs : List Byte) (w : W9) (hoff : off ≠ Pg.ringTail r.val) :
    prd (ringWrite t r bs w) t off = prd w t off := by
  unfold ringWrite
  dsimp only
  rw [prd_pwr_off _ _ hoff]
  split <;> rfl

/-- An append that fits lands byte for byte from TAIL, across the end of the region to its start. -/
theorem smGet_ringWrite_in {t : Tile} {r : RingIx} {bs : List Byte} {w : W9} (hfits : bs.length ≤ ringSize w t r) {i : Nat}
    (hi : i < bs.length) :
    smGet (fun _ => 0) (ringWrite t r bs w).mem.store (storeKey t (ringAddr w t r (ringTailOf w t r + i))) = bs.getD i 0 := by
  have hplace := tailPlace_lt w t r
  have hfirst : beforeEnd w t r bs.length = min bs.length (ringSize w t r - tailPlace w t r) := rfl
  rw [ringWrite_store, ringAddr_append (by omega)]
  split
  next hbefore =>
    rw [smGet_putBytes_out 0 _ _ _ _ (by simp only [storeKey, List.length_drop]; omega), storeKey_add t (_ + _) i,
      smGet_putBytes_in 0 _ _ _ _ (by simp only [List.length_take]; omega)]
    simp only [List.getD_eq_getElem?_getD]
    rw [List.getElem?_take_of_lt (by omega)]
  next hafter =>
    rw [storeKey_add t (ringBaseOf w t r) (i - _), smGet_putBytes_in 0 _ _ _ _ (by simp only [List.length_drop]; omega)]
    simp only [List.getD_eq_getElem?_getD, List.getElem?_drop]
    congr 2
    omega

theorem smGet_ringWrite_out {t : Tile} {r : RingIx} {bs : List Byte} {w : W9} (hfits : bs.length ≤ ringSize w t r) {k : Nat}
    (hk : ∀ i, i < bs.length → k ≠ storeKey t (ringAddr w t r (ringTailOf w t r + i))) :
    smGet (fun _ => 0) (ringWrite t r bs w).mem.store k = smGet (fun _ => 0) w.mem.store k := by
  have hplace := tailPlace_lt w t r
  have hfirst : beforeEnd w t r bs.length = min bs.length (ringSize w t r - tailPlace w t r) := rfl
  have hkey : ∀ i, i < bs.length → k ≠ storeKey t (if i < ringSize w t r - tailPlace w t r then
      ringBaseOf w t r + tailPlace w t r + i else ringBaseOf w t r + (i - (ringSize w t r - tailPlace w t r))) := fun i hi => by
    rw [← ringAddr_append (by omega)]
    exact hk i hi
  simp only [storeKey] at hkey
  rw [ringWrite_store, smGet_putBytes_out 0 _ _ _ _ ?after, smGet_putBytes_out 0 _ _ _ _ ?before]
  case after =>
    simp only [storeKey, List.length_drop]
    by_contra hin
    have := hkey (k - (t.val * 2 ^ 24 + ringBaseOf w t r) + (ringSize w t r - tailPlace w t r)) (by omega)
    rw [if_neg (by omega)] at this
    omega
  case before =>
    simp only [storeKey, List.length_take]
    by_contra hin
    have := hkey (k - (t.val * 2 ^ 24 + (ringBaseOf w t r + tailPlace w t r))) (by omega)
    rw [if_pos (by omega)] at this
    omega

theorem dropAppend_mem (t : Tile) (r : RingIx) (client : Byte) (requester : BitVec 16) (w : W9) :
    (dropAppend t r client requester w).mem = w.mem := by simp [dropAppend]

theorem dropAppend_flag (t : Tile) (r : RingIx) (client : Byte) (requester : BitVec 16) (w : W9) :
    prdB (dropAppend t r client requester w) t Pg.tileErr 6 = true := by
  rw [dropAppend, prdB_of_prd (prd_trap ..), prdB_of_prd (prd_raiseT ..)]
  exact prdB_tileErr_same t _ (by decide)

/-- A dropped append is counted and flagged, and writes no other register. -/
theorem prd_dropAppend {t : Tile} {off : Nat} (r : RingIx) (client : Byte) (requester : BitVec 16) (w : W9) (hoff : off ≠ Pg.tileErr) :
    prd (dropAppend t r client requester w) t off = prd (pinc t Pg.ringOvfCount 1 w) t off := by
  rw [dropAppend, prd_trap, prd_raiseT, prd_tileErr_off _ _ hoff]

theorem localAppend_ready {t : Tile} {r : RingIx} {d : List Byte} {cs : List Cond} {w : W9} (htry : canTry w t = true)
    (hcs : cs.all (condHolds w t) = true) (hd : d.length ≤ ringFree w t r) :
    localAppend t r d cs w = landAppend t r d 0 (tileSrc t) (begun t cs w) :=
  issue_of_ready htry hcs (decide_eq_true hd) _

/-! ## Enabling (R77) -/

/-- The LOG2_SIZE in force after a write with ENABLE 1: the written one, or the ring's own where it is enabled already. -/
def sizeInForce (w : W9) (t : Tile) (r : RingIx) (v : Word32) : Nat :=
  if ringOn w t r then prdF w t (Pg.ringCtrl r.val) 4 0 else fieldOf v 4 0

theorem sizeInForce_lt (w : W9) (t : Tile) (r : RingIx) (v : Word32) : sizeInForce w t r v < 32 := by
  unfold sizeInForce
  split <;> exact Nat.mod_lt _ (by decide)

theorem ringEnable_valid {t : Tile} {r : RingIx} {v : Word32} {w : W9}
    (hvalid : ringValid (isC t) (ringBaseOf w t r) (sizeInForce w t r v) = true) : ringEnable t r v w =
      pwr t (Pg.ringTail r.val) 0 (pwr t (Pg.ringHead r.val) 0
        (pwr t (Pg.ringCtrl r.val) (BitVec.ofNat 32 (2 ^ 31 + sizeInForce w t r v)) w)) := if_pos hvalid

theorem ringEnable_invalid {t : Tile} {r : RingIx} {v : Word32} {w : W9}
    (hvalid : ringValid (isC t) (ringBaseOf w t r) (sizeInForce w t r v) = false) : ringEnable t r v w =
      tileErr t 14 (pwr t (Pg.ringCtrl r.val) (BitVec.ofNat 32 (sizeInForce w t r v)) w) := if_neg (Bool.eq_false_iff.mp hvalid)

theorem fieldOf_low {l : Nat} (b : Bool) (hl : l < 32) : fieldOf (BitVec.ofNat 32 (b2n b * 2 ^ 31 + l)) 4 0 = l := by
  cases b <;> simp only [fieldOf, b2n, BitVec.toNat_ofNat] <;> simp <;> omega

theorem getLsbD_31_ofNat {l : Nat} (b : Bool) (hl : l < 32) : (BitVec.ofNat 32 (b2n b * 2 ^ 31 + l)).getLsbD 31 = b := by
  rw [BitVec.getLsbD_ofNat, Nat.testBit_eq_decide_div_mod_eq]
  cases b <;> simp [b2n] <;> omega

/-- Of the page only registers of tile `t` differ, and RING_n_BASE of ring `r` is not among them. -/
def BaseKept (t : Tile) (r : RingIx) (w w' : W9) : Prop := w' = { w with page := w'.page } ∧
  prd w' t (Pg.ringBase r.val) = prd w t (Pg.ringBase r.val) ∧ ∀ u off, u ≠ t → off < 0x1000 → prd w' u off = prd w u off

theorem BaseKept.refl (t : Tile) (r : RingIx) (w : W9) : BaseKept t r w w := ⟨rfl, rfl, fun _ _ _ _ => rfl⟩

theorem BaseKept.pwr {t : Tile} {r : RingIx} {w v : W9} (h : BaseKept t r w v) {off : Nat} {x : Word32} (hbase : Pg.ringBase r.val ≠ off)
    (hoff : off < 0x1000) : BaseKept t r w (Machine.pwr t off x v) := by
  obtain ⟨hframe, hkept, hother⟩ := h
  exact ⟨by rw [hframe]; rfl, (prd_pwr_off _ _ hbase).trans hkept, fun u o hu ho =>
    (prd_pwr_tile _ _ hu ho hoff).trans (hother u o hu ho)⟩

/-- What a write of RING_n_CTRL with ENABLE 1 leaves where `l` is the LOG2_SIZE in force. -/
def EnabledBy (t : Tile) (r : RingIx) (l : Nat) (w w' : W9) : Prop := BaseKept t r w w' ∧ prdF w' t (Pg.ringCtrl r.val) 4 0 = l ∧
  (ringValid (isC t) (ringBaseOf w t r) l = true → ringOn w' t r = true ∧ prd w' t (Pg.ringHead r.val) = 0 ∧
    prd w' t (Pg.ringTail r.val) = 0 ∧ prd w' t Pg.tileErr = prd w t Pg.tileErr) ∧
  (ringValid (isC t) (ringBaseOf w t r) l = false → ringOn w' t r = false ∧ prdB w' t Pg.tileErr 14 = true ∧
    prd w' t (Pg.ringHead r.val) = prd w t (Pg.ringHead r.val))

theorem ringEnable_enabled (t : Tile) (r : RingIx) (v : Word32) (w : W9) : EnabledBy t r (sizeInForce w t r v) w (ringEnable t r v w) := by
  obtain ⟨hbc, hbh, hbt, hch, hct, hht⟩ := ringRegs_apart r
  obtain ⟨⟨hblow, -⟩, ⟨hclow, hc⟩, ⟨hhlow, hh⟩, ⟨htlow, ht⟩⟩ := ringRegs_bounds r
  have hl := sizeInForce_lt w t r v
  cases hvalid : ringValid (isC t) (ringBaseOf w t r) (sizeInForce w t r v)
  · rw [ringEnable_invalid hvalid]
    have hctrl : prd (tileErr t 14 (pwr t (Pg.ringCtrl r.val) (BitVec.ofNat 32 (sizeInForce w t r v)) w)) t (Pg.ringCtrl r.val) =
        BitVec.ofNat 32 (b2n false * 2 ^ 31 + sizeInForce w t r v) := by
      rw [prd_tileErr_off _ _ (ne_tileErr hclow), prd_pwr_same, show b2n false * 2 ^ 31 = 0 from rfl, Nat.zero_add]
    refine ⟨((BaseKept.refl t r w).pwr hbc (by omega)).pwr (ne_tileErr hblow) (by decide), ?_, by simp [hvalid], fun _ => ⟨?_, ?_, ?_⟩⟩
    · rw [prdF, hctrl, fieldOf_low _ hl]
    · rw [ringOn, prdB, hctrl, getLsbD_31_ofNat _ hl]
    · exact prdB_tileErr_same t _ (by decide)
    · rw [prd_tileErr_off _ _ (ne_tileErr hhlow), prd_pwr_off _ _ hch.symm]
  · rw [ringEnable_valid hvalid]
    have hctrl : prd (pwr t (Pg.ringTail r.val) 0 (pwr t (Pg.ringHead r.val) 0 (pwr t (Pg.ringCtrl r.val)
        (BitVec.ofNat 32 (2 ^ 31 + sizeInForce w t r v)) w))) t (Pg.ringCtrl r.val) =
        BitVec.ofNat 32 (b2n true * 2 ^ 31 + sizeInForce w t r v) := by
      rw [prd_pwr_off _ _ hct, prd_pwr_off _ _ hch, prd_pwr_same, show b2n true * 2 ^ 31 = 2 ^ 31 from rfl]
    refine ⟨(((BaseKept.refl t r w).pwr hbc (by omega)).pwr hbh (by omega)).pwr hbt (by omega), ?_,
      fun _ => ⟨?_, ?_, prd_pwr_same .., ?_⟩, by simp [hvalid]⟩
    · rw [prdF, hctrl, fieldOf_low _ hl]
    · rw [ringOn, prdB, hctrl, getLsbD_31_ofNat _ hl]
    · rw [prd_pwr_off _ _ hht, prd_pwr_same]
    · rw [prd_pwr_off _ _ (ne_tileErr htlow).symm, prd_pwr_off _ _ (ne_tileErr hhlow).symm, prd_pwr_off _ _ (ne_tileErr hclow).symm]

/-! ## Writes of the page, by the steward and by the debug block -/

theorem pageIx_ring (r : RingIx) (c : Nat) (hc : c < 0x10) : pageIx 0x100 (0x100 + c + 0x10 * r.val) = r := by
  have hr := r.isLt
  apply Fin.ext
  show (0x100 + c + 0x10 * r.val - 0x100) / 0x10 % 16 = r.val
  omega

theorem pageWrite_ringBase (t : Tile) (r : RingIx) (v : Word32) (w : W9) :
    pageWrite t (Pg.ringBase r.val) v w = ringBaseWrite t r v w := by
  obtain ⟨⟨hlow, hhigh⟩, -⟩ := ringRegs_bounds r
  have hplace : Pg.ringBase r.val % 0x10 = 0 := by simp only [Pg.ringBase]; omega
  rw [pageWrite, if_pos ⟨hlow, hhigh, hplace⟩, show pageIx 0x100 (Pg.ringBase r.val) = r from pageIx_ring r 0 (by decide)]

theorem pageWrite_ringCtrl (t : Tile) (r : RingIx) (v : Word32) (w : W9) :
    pageWrite t (Pg.ringCtrl r.val) v w = ringCtrlWrite t r v w := by
  obtain ⟨-, ⟨hlow, hhigh⟩, -⟩ := ringRegs_bounds r
  have hplace : Pg.ringCtrl r.val % 0x10 = 4 := by simp only [Pg.ringCtrl]; omega
  rw [pageWrite, if_neg (by omega), if_pos ⟨hlow, hhigh, hplace⟩, show pageIx 0x100 (Pg.ringCtrl r.val) = r from pageIx_ring r 4 (by decide)]

theorem ringCtrlWrite_enable {t : Tile} {r : RingIx} {v : Word32} {w : W9} (hv : v.getLsbD 31 = true) :
    ringCtrlWrite t r v w = ringEnable t r v w := if_pos hv

theorem ringCtrlWrite_disable {t : Tile} {r : RingIx} {v : Word32} {w : W9} (hv : v.getLsbD 31 = false) (hon : ringOn w t r = true) :
    ringCtrlWrite t r v w = pwrB t (Pg.ringCtrl r.val) 31 false w := by
  simp only [ringCtrlWrite, hv, hon, Bool.false_eq_true, if_false, if_true]

/-- While a ring is enabled a write of RING_n_CTRL leaves its base and its LOG2_SIZE, whichever way it goes. -/
theorem ringCtrlWrite_on {t : Tile} {r : RingIx} {v : Word32} {w : W9} (hon : ringOn w t r = true) :
    BaseKept t r w (ringCtrlWrite t r v w) ∧
      prdF (ringCtrlWrite t r v w) t (Pg.ringCtrl r.val) 4 0 = prdF w t (Pg.ringCtrl r.val) 4 0 := by
  cases hv : v.getLsbD 31
  · obtain ⟨hbc, -⟩ := ringRegs_apart r
    obtain ⟨-, ⟨-, hc⟩, -⟩ := ringRegs_bounds r
    rw [ringCtrlWrite_disable hv hon]
    refine ⟨(BaseKept.refl t r w).pwr hbc (by omega), ?_⟩
    exact prdF_pwrF_ne t _ _ _ _ _ _ w (le_refl _) (by decide) (.inr (by decide))
  · obtain ⟨hkept, hsize, -⟩ := ringEnable_enabled t r v w
    rw [ringCtrlWrite_enable hv]
    exact ⟨hkept, hsize.trans (if_pos hon)⟩

theorem ofLe_le (n v : Nat) : ofLe (le n v) = v % 256 ^ n := by
  induction n generalizing v with
  | zero => simp [le, ofLe, Nat.mod_one]
  | succ n ih => 
    rw [le, ofLe, ih, BitVec.toNat_ofNat, show 256 ^ (n + 1) = 256 * 256 ^ n from Nat.pow_succ']
    exact Nat.mod_mul.symm

/-- A steward's dword below the bundle port is written as the page write of its value. -/
theorem pagePut_dword {off : Nat} (t : Tile) (v : Word32) (w : W9) (hoff : off < 0xE00) :
    pagePut t off (le 4 v.toNat) w = pageWrite t off v w := by
  have hv : BitVec.ofNat 32 (ofLe ((le 4 v.toNat).take 4)) = v := by
    rw [List.take_of_length_le (le_of_eq (le_length 4 _)), ofLe_le, Nat.mod_eq_of_lt (show v.toNat < 256 ^ 4 from v.isLt),
       BitVec.ofNat_toNat, BitVec.setWidth_eq]
  rw [pagePut, if_neg (by omega), le_length]
  show pageWrite t off (BitVec.ofNat 32 (ofLe ((le 4 v.toNat).take 4))) w = _
  rw [hv]

/-- A write through the debug block is the steward's write of the page. -/
theorem dbgPageAccess_write {off : Nat} {t : Tile} {v : Word32} {w : W9} (hopen : dbgOpen w = true) (htile : dbgTile w = some t)
    (hoff : off < 0xE00) : dbgPageAccess true off v w = pageWrite t off v w := by
  simp only [dbgPageAccess, hopen, htile, Bool.not_true, Bool.false_eq_true, if_false, if_true]
  exact pagePut_dword t v w hoff

theorem exec_dbgTilePageAccess_write (off : Nat) (v : Word32) (s : State) :
    exec (.dbgTilePageAccess true off v) s = lift (dbgPageAccess true off v) s := by
  simp [exec, execDbgTilePageAccess, lift]

/-! ## The obligations -/

/-- Settles O9: a pop moves HEAD, an append lands from TAIL on (`smGet_ringWrite_in`) or is dropped whole, and a write with ENABLE 1
enables a region that keeps R74 (`ringEnable_enabled`). -/
theorem ringsAppendAtTailAndPopAtHead : Obligations.RingsAppendAtTailAndPopAtHead := by
  refine ⟨fun s t r cs htry hcs => ?_, fun s t r v hoff => yields_of_lift (ringEnable t r v) rfl ?enable⟩
  case enable =>
    obtain ⟨⟨hframe, -, -⟩, hsize, hvalid, hinvalid⟩ := ringEnable_enabled t r v s.w
    rw [sizeInForce, hoff, if_neg (by decide)] at hsize hvalid hinvalid
    refine ⟨hframe, hsize, fun h => ?_, fun h => ?_⟩
    · obtain ⟨hon, hhead, htail, -⟩ := hvalid h
      exact ⟨hon, congrArg BitVec.toNat hhead, congrArg BitVec.toNat htail⟩
    · obtain ⟨hon, herr, -⟩ := hinvalid h
      exact ⟨hon, herr⟩
  have hring := prd_begun_ring t cs s.w
  obtain ⟨hon, hsize, hbase, hhead, htail⟩ := ring_of_prd hring r
  have hocc : ringFree (begun t cs s.w) t r = ringFree s.w t r := by simp only [ringFree, ringOcc, hsize, hhead, htail]
  obtain ⟨-, -, ⟨hhlow, hhhigh⟩, ⟨htlow, hthigh⟩⟩ := ringRegs_bounds r
  obtain ⟨-, -, -, -, -, hapart⟩ := ringRegs_apart r
  refine ⟨fun k hk => yields_of_lift (ringPop t r k cs) rfl ?pop, fun d hd hon' => yields_of_lift (localAppend t r d cs) rfl ?append,
    fun d hd hoff => yields_of_lift (localAppend t r d cs) rfl ?drop⟩
  case pop =>
    obtain ⟨-, hsize', -, hhead', -⟩ := ring_of_prd (w' := ringReadEffects t r k (begun t cs s.w))
      (fun off hlow hhigh => (prd_ringReadEffects r k _ hlow).trans (hring off hlow hhigh)) r
    rw [ringPop_ready htry hcs hk, advanceHead]
    refine ⟨?_, ?_, ?_, ?_⟩
    · rw [prd_pwr_same, hsize', hhead']
    · rw [prd_pwr_off _ _ hapart.symm, prd_ringReadEffects r k _ htlow, hring _ htlow hthigh]
    · rw [pwr_mem, ringReadEffects_mem, begun_mem]
    · rw [pwr_routers, ringReadEffects_routers, begun_routers]
  case append =>
    have hfits : d.length ≤ ringSize (begun t cs s.w) t r := by rw [hsize]; exact hd.trans (Nat.sub_le _ _)
    have haddr : ∀ i, ringAddr (begun t cs s.w) t r (ringTailOf (begun t cs s.w) t r + i) = ringAddr s.w t r (ringTailOf s.w t r + i) :=
      fun i => by simp only [ringAddr, hbase, hsize, htail]
    rw [localAppend_ready htry hcs hd, landAppend, if_pos (by rw [appendLands, hon, hon', hocc, decide_eq_true hd]; rfl)]
    refine ⟨fun i hi => ?_, fun k hk => ?_, ?_, ?_, ?_⟩
    · rw [← haddr, smGet_ringWrite_in hfits hi]
    · rw [smGet_ringWrite_out hfits (fun i hi => by rw [haddr]; exact hk i hi), begun_mem]
    · rw [ringWrite_tail, htail, hsize]
    · rw [prd_ringWrite r d _ hapart, hring _ hhlow hhhigh]
    · rw [ringWrite_far, begun_mem]
  case drop =>
    rw [localAppend_ready htry hcs hd, landAppend, if_neg (by simp [appendLands, hon, hoff])]
    refine ⟨by rw [dropAppend_mem, begun_mem], dropAppend_flag .., ?_⟩
    rw [prd_dropAppend _ _ _ _ (by decide), prd_pinc_same, prd_begun cs _ (by decide) (by decide)]

/-- Settles O59: every way to write the registers of a ring goes through `ringEnable_enabled` or keeps the base (`ringCtrlWrite_on`). -/
theorem ringsAreEnabledWithinTheirRules : Obligations.RingsAreEnabledWithinTheirRules := by
  intro s t r v on base l fits kept enabled
  have hl : sizeInForce s.w t r v = l := by
    have hlow : fieldOf v 4 0 = v.toNat % 32 := by simp [fieldOf]
    rw [sizeInForce, hlow]
  have hfits : ringValid (isC t) base l = true ↔ fits := by simp [ringValid, fits, and_assoc]
  have henabled : enabled (ringEnable t r v s.w) := by
    obtain ⟨hkept, hsize, hvalid, hinvalid⟩ := hl ▸ ringEnable_enabled t r v s.w
    exact ⟨hkept, hsize, fun h => hvalid (hfits.mpr h), fun h => hinvalid (Bool.eq_false_iff.mpr (mt hfits.mp h))⟩
  have hbase : on = true → pageWrite t (Pg.ringBase r.val) v s.w = s.w := fun hon => by
    rw [pageWrite_ringBase, ringBaseWrite, if_pos hon]
  have hctrl : v.getLsbD 31 = true → enabled (pageWrite t (Pg.ringCtrl r.val) v s.w) := fun hv => by
    rw [pageWrite_ringCtrl, ringCtrlWrite_enable hv]
    exact henabled
  obtain ⟨⟨-, hbhigh⟩, ⟨-, hchigh⟩, -⟩ := ringRegs_bounds r
  refine ⟨yields_of_lift (ringEnable t r v) rfl henabled, hctrl, fun hon => ⟨hbase hon, ?_⟩,
    fun hopen htile => ⟨fun hon => ?_, fun hv => ?_⟩⟩
  · rw [pageWrite_ringCtrl]
    exact ringCtrlWrite_on hon
  · rw [exec_dbgTilePageAccess_write, lift, dbgPageAccess_write hopen htile (by omega), hbase hon]
  · refine yields_of_lift _ (exec_dbgTilePageAccess_write _ v s) ?_
    rw [dbgPageAccess_write hopen htile (by omega)]
    exact hctrl hv

end Sys2Proof.Machine
end

section
/-! SUPPORT. Windows and signal counters (R82, R83, R94). -/

namespace Sys2Proof.Machine

open Sys2Proof

/-! ## Increments of a counter (R82) -/

/-- A signal counter lies above the tile's flags. -/
theorem sigcnt_ne_tileErr (c : CounterIx) : Pg.sigcnt c.val ≠ Pg.tileErr := by simp only [Pg.sigcnt, Pg.tileErr]; omega

theorem addSignal_fits {t : Tile} {c : CounterIx} {k : Nat} {w : W9} (h : (prd w t (Pg.sigcnt c.val)).toNat + k ≤ 0xFFFFFFFF) :
    addSignal t c k w = pwr t (Pg.sigcnt c.val) (BitVec.ofNat 32 ((prd w t (Pg.sigcnt c.val)).toNat + k)) w := if_pos h

theorem addSignal_overflows {t : Tile} {c : CounterIx} {k : Nat} {w : W9} (h : ¬ (prd w t (Pg.sigcnt c.val)).toNat + k ≤ 0xFFFFFFFF) :
    addSignal t c k w = raiseT t 0x1040 [BitVec.ofNat 8 c.val] (tileErr t 11 (pwr t (Pg.sigcnt c.val) 0xFFFFFFFF w)) := if_neg h

theorem prd_addSignal_same (t : Tile) (c : CounterIx) (k : Nat) (w : W9) : prd (addSignal t c k w) t (Pg.sigcnt c.val) =
    BitVec.ofNat 32 (min ((prd w t (Pg.sigcnt c.val)).toNat + k) 0xFFFFFFFF) := by
  by_cases h : (prd w t (Pg.sigcnt c.val)).toNat + k ≤ 0xFFFFFFFF
  · rw [addSignal_fits h, prd_pwr_same, Nat.min_eq_left h]
  · rw [addSignal_overflows h, prd_raiseT, prd_tileErr_off _ _ (sigcnt_ne_tileErr c), prd_pwr_same, Nat.min_eq_right (by omega)]
    rfl

theorem prd_addSignal_off {t : Tile} {c : CounterIx} {off : Nat} (k : Nat) (w : W9) (hoff : off ≠ Pg.sigcnt c.val)
    (herr : off ≠ Pg.tileErr) : prd (addSignal t c k w) t off = prd w t off := by
  by_cases h : (prd w t (Pg.sigcnt c.val)).toNat + k ≤ 0xFFFFFFFF
  · rw [addSignal_fits h, prd_pwr_off _ _ hoff]
  · rw [addSignal_overflows h, prd_raiseT, prd_tileErr_off _ _ herr, prd_pwr_off _ _ hoff]

/-- Beside the page an increment changes only what the event of its overflow changes. -/
theorem addSignal_events (t : Tile) (c : CounterIx) (k : Nat) (w : W9) :
    OnlyEvents { w with page := (addSignal t c k w).page } (addSignal t c k w) := by
  by_cases h : (prd w t (Pg.sigcnt c.val)).toNat + k ≤ 0xFFFFFFFF
  · rw [addSignal_fits h]
    exact OnlyEvents.refl _
  · rw [addSignal_overflows h, raiseT_page]
    exact raiseT_step t 0x1040 _ _

/-- A counter that a condition consumes falls by the condition's number (R64). -/
theorem prd_consume_signal (t : Tile) (c : CounterIx) (n : Word32) (w : W9) :
    prd (consume t [.signal c n true] w) t (Pg.sigcnt c.val) = prd w t (Pg.sigcnt c.val) - n := prd_pwr_same ..

/-! ## Windows -/

theorem windowEnable_valid {t : Tile} {n : RingIx} {v : Word32} {w : W9}
    (hvalid : windowValid (isC t) (prd w t (Pg.winBase n.val)).toNat (prd w t (Pg.winSize n.val)).toNat = true) :
    windowEnable t n v w = pwr t (Pg.winCtrl n.val) ((v ||| 0x80000000) &&& 0x80000077) w := if_pos hvalid

theorem windowEnable_invalid {t : Tile} {n : RingIx} {v : Word32} {w : W9}
    (hvalid : windowValid (isC t) (prd w t (Pg.winBase n.val)).toNat (prd w t (Pg.winSize n.val)).toNat = false) :
    windowEnable t n v w = tileErr t 14 (pwr t (Pg.winCtrl n.val) (v &&& 0x77) w) := if_neg (Bool.eq_false_iff.mp hvalid)

/-- Settles O10: a window by its validity, a counter by `prd_addSignal_same`, and that all else but an overflow's event is kept
(`addSignal_events`). -/
theorem windowsAndCountersTakeTheWrittenValue : Obligations.WindowsAndCountersTakeTheWrittenValue := by
  refine ⟨fun s t n v => yields_of_lift (windowEnable t n v) rfl ?window,
    fun s t c v k => yields_of_lift (sigcntWrite t c v k) rfl ?counter, fun w t c n k hcond hfits => ?consume⟩
  case window =>
    have hctrl : Pg.winCtrl n.val ≠ Pg.tileErr := by simp only [Pg.winCtrl, Pg.tileErr]; omega
    cases hvalid : windowValid (isC t) (prd s.w t (Pg.winBase n.val)).toNat (prd s.w t (Pg.winSize n.val)).toNat
    · rw [windowEnable_invalid hvalid]
      refine ⟨rfl, fun off hoff herr => ?_, by simp, fun _ => ⟨?_, prdB_tileErr_same t _ (by decide)⟩⟩
      · rw [prd_tileErr_off _ _ herr, prd_pwr_off _ _ hoff]
      · rw [prdB, prd_tileErr_off _ _ hctrl, prd_pwr_same]
        simp
    · rw [windowEnable_valid hvalid]
      exact ⟨rfl, fun off hoff _ => prd_pwr_off _ _ hoff, fun _ => ⟨prd_pwr_same .., prd_pwr_off _ _ hctrl.symm⟩, by simp⟩
  case counter =>
    have hwritten : prd (pwr t (Pg.sigcnt c.val) v s.w) t (Pg.sigcnt c.val) = v := prd_pwr_same ..
    have hsame := prd_addSignal_same t c k (pwr t (Pg.sigcnt c.val) v s.w)
    rw [hwritten] at hsame
    refine ⟨hsame, fun d hd => ?_, fun hfits => ?_, fun hover => ⟨?_, addSignal_events t c k (pwr t (Pg.sigcnt c.val) v s.w)⟩⟩
    · have hne : Pg.sigcnt d.val ≠ Pg.sigcnt c.val := by
        have : d.val ≠ c.val := fun h => hd (Fin.ext h)
        simp only [Pg.sigcnt]
        omega
      rw [sigcntWrite, prd_addSignal_off _ _ hne (sigcnt_ne_tileErr d), prd_pwr_off _ _ hne]
    · rw [sigcntWrite, addSignal_fits (by rw [hwritten]; exact hfits)]
      rfl
    · rw [sigcntWrite, addSignal_overflows (by rw [hwritten]; omega), prdB_of_prd (prd_raiseT ..)]
      exact prdB_tileErr_same t _ (by decide)
  case consume =>
    have hle : n ≤ prd w t (Pg.sigcnt c.val) := BitVec.le_def.mpr (by simpa [condHolds] using hcond)
    rw [prd_addSignal_same, prd_consume_signal, BitVec.toNat_sub_of_le hle, Nat.min_eq_left hfits]

end Sys2Proof.Machine
end

section
/-! SUPPORT. The sequencer's start and stop, the bundle port, the zeroing of the stores, and BEAT bundles (R59, R65, R96, R130, R529). -/

namespace Sys2Proof.Machine

open Sys2Proof

/-! ## START, STOP and the run's begin (R59, R96) -/

theorem seqStart_running {t : Tile} {w : W9} (h : running w t = true) : seqStart t w = w := if_pos h

theorem seqStart_stopped {t : Tile} {w : W9} (h : running w t = false) :
    seqStart t w = modTile t (fun s => { s with startWait := true }) w := if_neg (Bool.eq_false_iff.mp h)

theorem seqStop_running {t : Tile} {w : W9} (h : running w t = true) :
    seqStop t w = modTile t (fun s => { s with stopWait := true }) w := if_pos h

theorem seqStop_stopped {t : Tile} {w : W9} (h : running w t = false) :
    seqStop t w = modTile t (fun s => { s with startWait := false }) w := if_neg (Bool.eq_false_iff.mp h)

theorem runBegin_begins {t : Tile} {w : W9} (hstart : (tileOf w t).startWait = true) (hzero : (tileOf w t).zeroing = false)
    (hpulse : 0 < (tileOf w t).pulses) : runBegin t w =
      pwrB t Pg.tileStatus 0 true (modTile t (fun s => { s with startWait := false, pulses := s.pulses - 1 }) w) := by
  simp [runBegin, hstart, hzero, hpulse]

theorem runBegin_waits {t : Tile} {w : W9}
    (h : (tileOf w t).startWait = false ∨ (tileOf w t).zeroing = true ∨ (tileOf w t).pulses = 0) : runBegin t w = w := by
  rcases h with h | h | h <;> simp [runBegin, h]

/-! ## Zeroing (R59) -/

/-- The tile of a store byte is the high part of its key. -/
theorem storeKey_tile (t : Tile) {a : Nat} (ha : a < 2 ^ 24) : storeKey t a / 2 ^ 24 = t.val := by
  simp only [storeKey]
  omega

theorem clearStore_own (t : Tile) (w : W9) {a : Nat} (ha : a < 2 ^ 24) :
    smGet (fun _ => 0) (clearStore t w).mem.store (storeKey t a) = 0 ∧ (clearStore t w).mem.storeCE.contains (storeKey t a) = false ∧
      (clearStore t w).mem.storeUE.contains (storeKey t a) = false := by
  have hmine := storeKey_tile t ha
  refine ⟨?_, ?_, ?_⟩
  · exact smGet_filter_out (fun _ => 0) (fun k => !(k / 2 ^ 24 == t.val)) w.mem.store _ (by simp [-Nat.reducePow, hmine])
  all_goals
    rw [List.contains_eq_mem, decide_eq_false_iff_not]
    intro hmem
    simp [-Nat.reducePow, clearStore, hmine] at hmem

theorem clearStore_other {t u : Tile} (w : W9) (hu : u ≠ t) {a : Nat} (ha : a < 2 ^ 24) :
    smGet (fun _ => 0) (clearStore t w).mem.store (storeKey u a) = smGet (fun _ => 0) w.mem.store (storeKey u a) := by
  have hother : u.val ≠ t.val := fun h => hu (Fin.ext h)
  exact smGet_filter (fun _ => 0) (fun k => !(k / 2 ^ 24 == t.val)) w.mem.store _ (by simp [-Nat.reducePow, storeKey_tile u ha, hother])

theorem zeroingComplete_zeroing {t : Tile} {w : W9} (h : (tileOf w t).zeroing = true) :
    zeroingComplete t w = modTile t (fun s => { s with zeroing := false }) (clearStore t w) := if_pos h

/-- Settles O11: each command by its cases, the bundles by `putBundles_in`, the zeroing by `clearStore_own` and `clearStore_other`. -/
theorem sequencerStartsAndStopsAtItsBeat : Obligations.SequencerStartsAndStopsAtItsBeat := by
  intro s t
  refine ⟨yields_of_lift (seqStart t) rfl ?start, yields_of_lift (seqStop t) rfl ?stop,
    fun hstart hzero hpulse => yields_of_lift (runBegin t) rfl ?begins, fun h => ?waits,
    fun off d hok => yields_of_lift (bundlePortWrite t off d) rfl ?port,
    fun off d hok => yields_of_lift (bundlePortWrite t off d) rfl ?portFault,
    fun hzero => yields_of_lift (zeroingComplete t) rfl ?zeroing⟩
  case start =>
    cases hrun : running s.w t
    · rw [seqStart_stopped hrun]
      exact ⟨hrun, by simp, by simp, rfl⟩
    · rw [seqStart_running hrun]
      exact ⟨hrun, rfl, fun _ => rfl, rfl⟩
  case stop =>
    cases hrun : running s.w t
    · rw [seqStop_stopped hrun]
      exact ⟨hrun, by simp, by simp, rfl⟩
    · rw [seqStop_running hrun]
      exact ⟨hrun, by simp, by simp, rfl⟩
  case begins =>
    rw [runBegin_begins hstart hzero hpulse]
    exact ⟨prdB_pwrB_same _ _ _ _ _ (by decide), by simp, by simp, rfl⟩
  case waits => exact exec_of_lift_same rfl (runBegin_waits h)
  case port =>
    obtain ⟨hin, hout, hframe⟩ := putBundles_in t (d.length / 32) (prdF s.w t Pg.bundleBase 11 0 + (off - 0xE00) / 32) d s.w
    rw [bundlePortWrite, if_pos hok]
    exact ⟨hin, hout, hframe⟩
  case portFault =>
    rw [bundlePortWrite, if_neg (Bool.eq_false_iff.mp hok)]
    exact ⟨prdB_tileErr_same t _ (by decide), rfl⟩
  case zeroing =>
    rw [zeroingComplete_zeroing hzero]
    exact ⟨by simp, fun a ha => clearStore_own t s.w ha, fun u a hu ha => clearStore_other s.w hu ha, rfl⟩

/-! ## BEAT bundles (R65, R130, R529) -/

theorem beatBundle_waits {t : Tile} {w : W9} (hrun : running w t = true) (hidle : idling w t = false) (hpulse : (tileOf w t).pulses = 0) :
    beatBundle t w = waitAtBeat t w := by simp [beatBundle, hrun, hidle, hpulse]

theorem beatBundle_issues {t : Tile} {w : W9} (hrun : running w t = true) (hidle : idling w t = false)
    (hpulse : 0 < (tileOf w t).pulses) : beatBundle t w = issueBeat t w := by
  simp [beatBundle, hrun, hidle, Nat.pos_iff_ne_zero.mp hpulse]

/-- What an issuing BEAT bundle leaves of its tile, but for a STOP that waits. -/
def tileAfterBeat (s : TileS) : TileS := { s with
  pulses := s.pulses - 1, reports := s.reports ++ [⟨s.counts, s.taint, s.taintOf⟩], counts := [], taint := none, taintOf := none }

/-- The part of an issuing BEAT bundle before a STOP can take effect. -/
def beatUsed (t : Tile) (w : W9) : W9 :=
  modField (tileField t) (fun f => { f with owing := dropOwing t f.owing }) (pwrF t Pg.tileStatus 3 1 0 (modTile t tileAfterBeat w))

theorem issueBeat_eq (t : Tile) (w : W9) : issueBeat t w = if (tileOf w t).stopWait then
    pwrB t Pg.tileStatus 0 false (modTile t (fun s => { s with stopWait := false }) (beatUsed t w)) else beatUsed t w := by
  have hstop : (tileOf (beatUsed t w) t).stopWait = (tileOf w t).stopWait := by simp [beatUsed, tileAfterBeat]
  rw [← hstop]
  rfl

theorem tileOf_beatUsed (t : Tile) (w : W9) : tileOf (beatUsed t w) t = tileAfterBeat (tileOf w t) := by simp [beatUsed]

theorem prdF_beatUsed (t : Tile) (w : W9) : prdF (beatUsed t w) t Pg.tileStatus 3 1 = 0 := by
  rw [beatUsed, prdF_of_prd (prd_modField ..), prdF_pwrF_same _ _ _ _ _ _ (by decide) (by decide)]
  rfl

theorem running_beatUsed (t : Tile) (w : W9) : running (beatUsed t w) t = running w t := by
  rw [running, beatUsed, prdB_of_prd (prd_modField ..), prdB_pwrF_ne _ _ _ _ _ _ _ (by decide) (by decide) (by decide)]
  rfl

theorem owing_beatUsed (t : Tile) (w : W9) :
    (fieldState (beatUsed t w) (tileField t)).owing = dropOwing t (fieldState w (tileField t)).owing := by simp [beatUsed]

theorem fieldBeatAdvance_due {f : FieldIx} {w : W9} {x : Nat} {rest : List (Nat × List Tile)}
    (h : (fieldState w f).owing = (x, []) :: rest) : fieldBeatAdvance f w = wr64 (Reg.beatAdvance f.val) (now w)
      (modField f (fun s => { s with owing := rest, beatCount := s.beatCount + 1 }) w) := by simp [fieldBeatAdvance, h]

theorem fieldBeatAdvance_owing {f : FieldIx} {w : W9} (h : ∀ x rest, (fieldState w f).owing ≠ (x, []) :: rest) :
    fieldBeatAdvance f w = w := by
  unfold fieldBeatAdvance
  split
  next x rest hdue => exact absurd hdue (h x rest)
  · rfl

/-! ## Reports (R130) -/

theorem countReport_one {t : Tile} {w : W9} {c : LayerCounts} {k : Option Bool} {o : Option StreamIx} {rest : List BeatReport}
    (h : (tileOf w t).reports = ⟨[c], k, o⟩ :: rest) :
    countReport t w = noteTaint ⟨[c], k, o⟩ (addLayerCounts c (modTile t (fun s => { s with reports := rest }) w)) := by
  simp [countReport, h, forEach]

/-- The three counts of a layer have registers of their own. -/
theorem countRegs_apart (l : LayerIx) : Reg.flushed l.val ≠ Reg.saturated l.val ∧ Reg.flushed l.val ≠ Reg.outlierOvf l.val ∧
    Reg.saturated l.val ≠ Reg.outlierOvf l.val := by
  simp only [Reg.flushed, Reg.saturated, Reg.outlierOvf]
  omega

theorem rd_addLayerCounts_flushed (c : LayerCounts) (w : W9) :
    rd (addLayerCounts c w) (Reg.flushed c.layer.val) = satAdd32 (rd w (Reg.flushed c.layer.val)) c.flushed := by
  obtain ⟨hfs, hfo, -⟩ := countRegs_apart c.layer
  rw [addLayerCounts, rd_modLayer, rd_inc_ne _ _ hfo, rd_inc_ne _ _ hfs, rd_inc_same]

theorem rd_addLayerCounts_saturated (c : LayerCounts) (w : W9) :
    rd (addLayerCounts c w) (Reg.saturated c.layer.val) = satAdd32 (rd w (Reg.saturated c.layer.val)) c.saturated := by
  obtain ⟨hfs, -, hso⟩ := countRegs_apart c.layer
  rw [addLayerCounts, rd_modLayer, rd_inc_ne _ _ hso, rd_inc_same, rd_inc_ne _ _ hfs.symm]

theorem layerOf_addLayerCounts (c : LayerCounts) (w : W9) :
    (layerOf (addLayerCounts c w) c.layer).ovf = (layerOf w c.layer).ovf + c.overflow := by
  simp only [addLayerCounts, layerOf_modLayer_same]
  rfl

/-- The taint flag of a report reaches only the list of tainted streams. -/
theorem noteTaint_eq (r : BeatReport) (w : W9) : ∃ l, noteTaint r w = { w with serve := { w.serve with tainted := l } } ∧
    ∀ x ∈ l, x ∈ w.serve.tainted ∨ (r.taint = some x.2 ∧ r.stream = some x.1) := by
  unfold noteTaint
  split
  next k o hk ho =>
    split
    · exact ⟨_, rfl, fun x hx => .inl hx⟩
    · refine ⟨_, rfl, fun x hx => ?_⟩
      rcases List.mem_append.mp hx with hx | hx
      · exact .inl hx
      · rw [List.mem_singleton.mp hx]
        exact .inr ⟨hk, ho⟩
  · exact ⟨_, rfl, fun x hx => .inl hx⟩

/-- Settles O12: a BEAT bundle waits or issues (`issueBeat_eq`), the field counts a beat that nobody owes, and a report with one layer
adds its counts. -/
theorem beatBundleUsesOnePulse : Obligations.BeatBundleUsesOnePulse := by
  refine ⟨fun s t hrun hidle => ⟨fun hpulse => yields_of_lift (beatBundle t) rfl ?waits,
    fun hpulse => yields_of_lift (beatBundle t) rfl ?issues⟩,
    fun s f => ⟨fun x rest hdue => yields_of_lift (fieldBeatAdvance f) rfl ?counts, fun howing => ?owing⟩,
    fun s t c rest k o hrep => yields_of_lift (countReport t) rfl ?reports⟩
  case waits =>
    rw [beatBundle_waits hrun hidle hpulse, waitAtBeat]
    refine ⟨?_, prdB_pwrB_same _ _ _ _ _ (by decide), fun i h3 h4 => ?_, rfl⟩
    · rw [prdB_pwrB_ne _ _ _ _ _ _ (by decide), prdB_pwrB_same _ _ _ _ _ (by decide)]
    · rw [prdB_pwrB_ne _ _ _ _ _ _ h4, prdB_pwrB_ne _ _ _ _ _ _ h3]
  case issues =>
    rw [beatBundle_issues hrun hidle hpulse, issueBeat_eq]
    cases hstop : (tileOf s.w t).stopWait
    · rw [if_neg (by decide), tileOf_beatUsed]
      exact ⟨rfl, rfl, rfl, rfl, hstop, prdF_beatUsed t s.w, (running_beatUsed t s.w).trans hrun, owing_beatUsed t s.w, rfl⟩
    · rw [if_pos rfl, tileOf_pwrB, tileOf_modTile_same, tileOf_beatUsed]
      refine ⟨rfl, rfl, rfl, rfl, rfl, ?_, prdB_pwrB_same _ _ _ _ _ (by decide), owing_beatUsed t s.w, rfl⟩
      exact (prdF_pwrF_ne t _ _ _ _ _ _ _ (by decide) (by decide) (by decide)).trans (prdF_beatUsed t s.w)
  case counts =>
    rw [fieldBeatAdvance_due hdue]
    refine ⟨?_, ?_, rd64_wr64_same _ _ _, fun g hg => ?_, rfl⟩
    · simp [wr64]
    · simp [wr64]
    · simp [wr64, fieldState_modField_ne _ _ hg]
  case owing => exact exec_of_lift_same rfl (fieldBeatAdvance_owing howing)
  case reports =>
    rw [countReport_one hrep]
    obtain ⟨l, hnote, hl⟩ := noteTaint_eq ⟨[c], k, o⟩ (addLayerCounts c (modTile t (fun s => { s with reports := rest }) s.w))
    have hflushed := rd_addLayerCounts_flushed c (modTile t (fun s => { s with reports := rest }) s.w)
    have hsaturated := rd_addLayerCounts_saturated c (modTile t (fun s => { s with reports := rest }) s.w)
    rw [rd_modTile] at hflushed hsaturated
    rw [hnote]
    refine ⟨?_, (rd_of_bar0 rfl _).trans hflushed, (rd_of_bar0 rfl _).trans hsaturated, layerOf_addLayerCounts c _, hl, rfl, rfl, rfl⟩
    exact congrArg TileS.reports (tileOf_modTile_same t (fun s => { s with reports := rest }) s.w)

end Sys2Proof.Machine
end

section
/-! SUPPORT. The scrub engine of a tile (R55 to R57). -/

namespace Sys2Proof.Machine

open Sys2Proof

/-! ## One bank -/

/-- The next row of a bank after a read of its row, or of nothing where the pass has read them all. -/
def rowAfterRead (b r : Nat) : Nat := if r < bankRows b then r + 1 else r

theorem scrubRow_scrubBank_same (t : Tile) (b : Nat) (w : W9) : scrubRow (scrubBank t b w) t b = rowAfterRead b (scrubRow w t b) := by
  unfold scrubBank rowAfterRead
  dsimp only
  split
  · simp [scrubRow]
  · rfl

theorem scrubRow_scrubBank_ne {t : Tile} {b c : Nat} (w : W9) (h : c ≠ b) : scrubRow (scrubBank t b w) t c = scrubRow w t c := by
  unfold scrubBank
  dsimp only
  split
  · simp only [scrubRow, tileOf_modTile_same, re0_scrub]
    exact smGet_smPut_ne _ _ _ h
  · rfl

theorem scrubBank_mem (t : Tile) (b : Nat) (w : W9) : (scrubBank t b w).mem = w.mem := by
  unfold scrubBank
  dsimp only
  split
  · rw [modTile_mem, re0_mem]
  · rfl

theorem scrubBank_time (t : Tile) (b : Nat) (w : W9) : (scrubBank t b w).dev.time = w.dev.time := by
  unfold scrubBank
  dsimp only
  split
  · rw [modTile_dev, readEffects0_dev_time]
  · rfl

theorem scrubBank_status (t : Tile) (b : Nat) (w : W9) : prd (scrubBank t b w) t Pg.tileStatus = prd w t Pg.tileStatus := by
  unfold scrubBank
  dsimp only
  split
  · rw [prd_modTile, re0_status]
  · rfl

/-! ## One cycle -/

/-- Each bank of a list without repetition is read once, and no other. -/
theorem scrubRow_forEach {t : Tile} {l : List Nat} (hl : l.Nodup) (w : W9) (b : Nat) :
    scrubRow (forEach l (scrubBank t) w) t b = if b ∈ l then rowAfterRead b (scrubRow w t b) else scrubRow w t b := by
  induction l generalizing w with
  | nil => simp [forEach]
  | cons c l ih =>
    obtain ⟨hc, hl⟩ := List.nodup_cons.mp hl
    show scrubRow (forEach l (scrubBank t) (scrubBank t c w)) t b = _
    rw [ih hl]
    by_cases hb : b = c
    · subst hb
      rw [if_neg hc, if_pos List.mem_cons_self, scrubRow_scrubBank_same]
    · rw [scrubRow_scrubBank_ne w hb]
      simp [hb]

/-- The banks whose read port is free. -/
def freeBanks (busy : List Nat) : List Nat := (List.range 48).filter (fun b => !busy.contains b)

theorem mem_freeBanks {busy : List Nat} {b : Nat} : b ∈ freeBanks busy ↔ b < 48 ∧ busy.contains b = false := by
  rw [freeBanks, List.mem_filter, List.mem_range, Bool.not_eq_true']

/-- A cycle of the pass before its end is looked at: the tile scrubs, and the free banks have been read. -/
def scrubCycle (t : Tile) (busy : List Nat) (w : W9) : W9 := forEach (freeBanks busy) (scrubBank t) (pwrB t Pg.tileStatus 5 true w)

theorem scrubRead_idle {t : Tile} {busy : List Nat} {w : W9} (h : prdB w t Pg.tileStatus 2 = true) :
    scrubRead t busy w = if scrubPassed (scrubCycle t busy w) t then scrubEnd t (scrubCycle t busy w) else scrubCycle t busy w := if_pos h

theorem scrubRead_busy {t : Tile} {busy : List Nat} {w : W9} (h : prdB w t Pg.tileStatus 2 = false) : scrubRead t busy w = w :=
  if_neg (Bool.eq_false_iff.mp h)

theorem scrubRow_scrubCycle (t : Tile) (busy : List Nat) (w : W9) (b : Nat) : scrubRow (scrubCycle t busy w) t b =
    if b ∈ freeBanks busy then rowAfterRead b (scrubRow w t b) else scrubRow w t b :=
  scrubRow_forEach (List.nodup_range.filter _) _ b

theorem scrubCycle_mem (t : Tile) (busy : List Nat) (w : W9) : (scrubCycle t busy w).mem = w.mem :=
  forEach_frame W9.mem (scrubBank t) (scrubBank_mem t) _ _

theorem scrubCycle_time (t : Tile) (busy : List Nat) (w : W9) : (scrubCycle t busy w).dev.time = w.dev.time :=
  forEach_frame (fun x => x.dev.time) (scrubBank t) (scrubBank_time t) _ _

theorem scrubCycle_active (t : Tile) (busy : List Nat) (w : W9) : prdB (scrubCycle t busy w) t Pg.tileStatus 5 = true :=
  (prdB_of_prd (forEach_frame (fun x => prd x t Pg.tileStatus) (scrubBank t) (scrubBank_status t) _ _) 5).trans
    (prdB_pwrB_same _ _ _ _ _ (by decide))

theorem scrubPassed_iff (w : W9) (t : Tile) : scrubPassed w t = true ↔ ∀ b, b < 48 → bankRows b ≤ scrubRow w t b := by
  simp [scrubPassed]

/-- A pass ends with the cycle that reads the last rows. -/
theorem scrubPassed_scrubCycle (t : Tile) (busy : List Nat) (w : W9) : scrubPassed (scrubCycle t busy w) t = true ↔
    ∀ b, b < 48 → bankRows b ≤ scrubRow w t b + b2n (!busy.contains b) := by
  rw [scrubPassed_iff]
  refine forall₂_congr fun b hb => ?_
  have hfree := mem_freeBanks (busy := busy) (b := b)
  rw [scrubRow_scrubCycle]
  cases hbusy : busy.contains b
  · rw [if_pos (hfree.mpr ⟨hb, hbusy⟩)]
    simp only [rowAfterRead, b2n, Bool.not_false, if_true]
    split <;> omega
  · rw [if_neg (fun h => Bool.false_ne_true ((hfree.mp h).2.symm.trans hbusy))]
    simp [b2n]

theorem scrubEnd_mem (t : Tile) (w : W9) : (scrubEnd t w).mem = w.mem := by simp [scrubEnd]

theorem scrubEnd_scrub (t : Tile) (w : W9) : (tileOf (scrubEnd t w) t).scrub.rows = [] ∧
    (tileOf (scrubEnd t w) t).scrub.passStart = w.dev.time ∧ (tileOf (scrubEnd t w) t).scrub.lateRaised = false := by
  simp [scrubEnd, now]

theorem scrubEnd_active (t : Tile) (w : W9) : prdB (scrubEnd t w) t Pg.tileStatus 5 = false := by
  rw [scrubEnd, prdB_of_prd (prd_modTile ..), prdB_pwrB_same _ _ _ _ _ (by decide)]

/-! ## Write-backs and late passes -/

/-- The quarters written back: those of the waiting words that no write of the cycle lands on. -/
def writtenBack (w : W9) (t : Tile) (written : List LAddr) : List Nat :=
  ((tileOf w t).scrub.waiting.filter (fun a => !(written.map (fun x => wordOf (isC t) x.toNat)).contains a.toNat)).flatMap (fun a =>
    (quarters a.toNat (if isC t && decide (0x800000 ≤ a.toNat) then 128 else 64)).map (storeKey t))

theorem scrubWriteBack_eq (t : Tile) (written : List LAddr) (w : W9) : scrubWriteBack t written w =
    modTile t (fun s => { s with scrub := { s.scrub with waiting := [] } })
      { w with mem := { w.mem with storeCE := w.mem.storeCE.filter (fun k => !(writtenBack w t written).contains k) } } := rfl

theorem not_mem_writtenBack {w : W9} {t : Tile} {written : List LAddr} {k : Nat} : k ∉ writtenBack w t written ↔
    ∀ a ∈ (tileOf w t).scrub.waiting, a.toNat ∉ written.map (fun x => wordOf (isC t) x.toNat) →
      k ∉ (quarters a.toNat (if isC t && decide (0x800000 ≤ a.toNat) then 128 else 64)).map (storeKey t) := by
  simp only [writtenBack, List.mem_flatMap, List.mem_filter, Bool.not_eq_true', List.contains_eq_mem, decide_eq_false_iff_not]
  push Not
  exact forall_congr' fun a => and_imp

theorem scrubLate_late {t : Tile} {w : W9} (hraised : (tileOf w t).scrub.lateRaised = false)
    (hlate : 60000000000 < w.dev.time - (tileOf w t).scrub.passStart) : scrubLate t w =
      raiseT t 0x1005 (le 8 (prd64 (modTile t (fun s => { s with scrub := { s.scrub with lateRaised := true } }) w) t Pg.scrubLast))
        (tileErr t 4 (modTile t (fun s => { s with scrub := { s.scrub with lateRaised := true } }) w)) := by
  simp [scrubLate, hraised, now, hlate]

theorem scrubLate_none {t : Tile} {w : W9} (h : (tileOf w t).scrub.lateRaised = true ∨
    w.dev.time - (tileOf w t).scrub.passStart ≤ 60000000000) : scrubLate t w = w := by
  rcases h with h | h
  · simp [scrubLate, h]
  · simp only [scrubLate, now, decide_eq_false (Nat.not_lt.mpr h), Bool.and_false, Bool.false_eq_true, if_false]

/-- Settles O15: a cycle reads each free bank once (`scrubRow_scrubCycle`), and ends the pass exactly where every bank has been read
(`scrubPassed_scrubCycle`). -/
theorem scrubbingWalksRowsAndRepairs : Obligations.ScrubbingWalksRowsAndRepairs := by
  intro s t
  refine ⟨fun busy hidle hleft => yields_of_lift (scrubRead t busy) rfl ?walks, fun busy hidle hdone => yields_of_lift (scrubRead t busy) rfl ?ends,
    fun busy => yields_of_lift (scrubRead t busy) rfl ?keeps, fun written => yields_of_lift (scrubWriteBack t written) rfl ?back,
    fun hraised hlate => yields_of_lift (scrubLate t) rfl ?late, fun h => ?notLate⟩
  case walks =>
    have hpassed : ¬ scrubPassed (scrubCycle t busy s.w) t = true := by
      obtain ⟨b, hb, hrow⟩ := hleft
      rw [scrubPassed_scrubCycle]
      exact fun h => absurd (h b hb) (by omega)
    rw [scrubRead_idle hidle, if_neg hpassed]
    refine ⟨fun b hb => ?_, scrubCycle_mem t busy s.w, scrubCycle_active t busy s.w⟩
    rw [scrubRow_scrubCycle, rowAfterRead, ite_and]
    simp only [mem_freeBanks, hb, true_and]
  case ends =>
    rw [scrubRead_idle hidle, if_pos ((scrubPassed_scrubCycle t busy s.w).mpr hdone)]
    obtain ⟨hrows, hstart, hraised⟩ := scrubEnd_scrub t (scrubCycle t busy s.w)
    exact ⟨hrows, hstart.trans (scrubCycle_time t busy s.w), hraised, scrubEnd_active t _,
      (scrubEnd_mem t _).trans (scrubCycle_mem t busy s.w)⟩
  case keeps =>
    cases hidle : prdB s.w t Pg.tileStatus 2
    · rw [scrubRead_busy hidle]
      exact ⟨rfl, fun _ => rfl⟩
    · rw [scrubRead_idle hidle]
      refine ⟨?_, by simp⟩
      split
      · exact (scrubEnd_mem t _).trans (scrubCycle_mem t busy s.w)
      · exact scrubCycle_mem t busy s.w
  case back =>
    rw [scrubWriteBack_eq]
    refine ⟨by simp, rfl, rfl, fun k => ?_, rfl⟩
    rw [← not_mem_writtenBack, modTile_mem, List.mem_filter, List.contains_eq_mem, Bool.not_eq_true', decide_eq_false_iff_not]
  case late =>
    rw [scrubLate_late hraised hlate]
    exact ⟨(prdB_of_prd (prd_raiseT ..) 4).trans (prdB_tileErr_same t _ (by decide)), by simp, by simp⟩
  case notLate => exact exec_of_lift_same rfl (scrubLate_none h)

end Sys2Proof.Machine
end

section
/-! SUPPORT. The far-memory queue of a tile (R84, R85, R89, R90, R287): an operation that issues opens a transfer or ends at once, and a
transfer ends once nothing of it is left. -/

namespace Sys2Proof.Machine

open Sys2Proof

/-! ## Issue -/

/-- The data of an FMQ operation can be read without a fault: that of a LOAD comes from far memory, that of a STORE has landed and holds
no error. -/
def SourceClean (w : W9) (t : Tile) (load : Bool) (a n : Nat) : Prop := load = true ∨ (readReady w t a n = true ∧ owed w t a n = false ∧
  ∀ q ∈ quarters a n, w.mem.storeUE.contains (storeKey t q) = false ∧ w.mem.storeCE.contains (storeKey t q) = false)

theorem fmqIssue_ready {t : Tile} {g : Tag} {load : Bool} {far : FAddr} {a : LAddr} {len : Nat} {cs : List Cond} {w : W9}
    (htry : canTry w t = true) (hcs : cs.all (condHolds w t) = true) (hfree : tagFree w t g = true)
    (hclean : SourceClean w t load a.toNat len) : fmqIssue t g load far a len cs w =
      if farAssigned w far.toNat len then
        match farStatus w t far.toNat len with
        | some st => fmqUnsent t g load far a len st (begun t cs w)
        | none => fmqOpen t g ⟨load, far, a, len, now w, (farSpans far.toNat len).length, false, false⟩ (begun t cs w)
      else fmqUnsent t g load far a len 0 (begun t cs w) := by
  have hmore : (tagFree w t g && (load || readReady w t a.toNat len)) = true := by
    rcases hclean with hload | ⟨hready, -, -⟩
    · simp [hfree, hload]
    · simp [hfree, hready]
  have hread : (if load then begun t cs w else schedRead t a.toNat len (begun t cs w)) = begun t cs w := by
    rcases hclean with hload | ⟨-, howed, herrors⟩
    · rw [if_pos hload]
    · split
      · rfl
      · exact schedRead_clean t _ _ _ ((owed_of (begun_tiles t cs w) t _ _).trans howed) (by rw [begun_mem]; exact herrors)
  rw [fmqIssue, issue_of_ready htry hcs hmore]
  dsimp only
  rw [hread, farAssigned_of_bar0 (begun_bar0 t cs w), farStatus_of_bar0 (begun_bar0 t cs w), now, begun_dev]
  cases farAssigned w far.toNat len
  · rfl
  · cases farStatus w t far.toNat len <;> rfl

/-- An assigned range behind open routes: the tag is PENDING and tracks the transfer. -/
theorem fmqIssue_opens {t : Tile} {g : Tag} {load : Bool} {far : FAddr} {a : LAddr} {len : Nat} {cs : List Cond} {w : W9}
    (htry : canTry w t = true) (hcs : cs.all (condHolds w t) = true) (hfree : tagFree w t g = true)
    (hclean : SourceClean w t load a.toNat len) (hfar : farAssigned w far.toNat len = true) (hroute : farStatus w t far.toNat len = none) :
    let w' := fmqIssue t g load far a len cs w
    tagPending w' t g = true ∧ tagDone w' t g = false ∧ (∀ h, h ≠ g → tagFree w' t h = tagFree w t h) ∧
      fmqOf w' t g = some ⟨load, far, a, len, w.dev.time, (farSpans far.toNat len).length, false, false⟩ ∧
      w' = { w with page := w'.page, tiles := w'.tiles } := by
  rw [fmqIssue_ready htry hcs hfree hclean, if_pos hfar, hroute]
  obtain ⟨hpending, hdone, hother, htracks, hframe⟩ :=
    open_facts t g ⟨load, far, a, len, now w, (farSpans far.toNat len).length, false, false⟩ (begun t cs w)
  refine ⟨hpending, hdone, fun h hne => (hother h hne).trans (tags_begun t cs w h).2.2, htracks, ?_⟩
  rw [hframe, begun_eq]

/-- An unassigned range: the tag is DONE at once with its error bit, and a LOAD lands zeros. -/
theorem fmqIssue_unassigned {t : Tile} {g : Tag} {load : Bool} {far : FAddr} {a : LAddr} {len : Nat} {cs : List Cond} {w : W9}
    (htry : canTry w t = true) (hcs : cs.all (condHolds w t) = true) (hfree : tagFree w t g = true)
    (hclean : SourceClean w t load a.toNat len) (hfar : farAssigned w far.toNat len = false) :
    let w' := fmqIssue t g load far a len cs w
    tagDone w' t g = true ∧ tagPending w' t g = false ∧ prdB w' t (Pg.fmqErr + 4 * (g.val / 32)) (g.val % 32) = true ∧
      w'.mem = if load then (writeStore t a.toNat (List.replicate len 0) (begun t cs w)).mem else w.mem := by
  rw [fmqIssue_ready htry hcs hfree hclean, if_neg (Bool.eq_false_iff.mp hfar), ← begun_mem t cs w]
  exact unsent_facts t g load far a len 0 (begun t cs w)

/-! ## The end of a transfer, and the watch -/

theorem fmqTagDone_left {t : Tile} {g : Tag} {w : W9} {x : FmqXfer} (hx : fmqOf w t g = some x) (hleft : 0 < x.left) :
    fmqTagDone t g w = w := by simp [fmqTagDone, hx, Nat.pos_iff_ne_zero.mp hleft]

/-- The tag of an ended transfer is DONE and tracks nothing. -/
def fmqEnded (t : Tile) (g : Tag) (w : W9) : W9 := setTag t g true false (modTile t (fun s => { s with fmq := smErase g.val s.fmq }) w)

theorem fmqTagDone_whole {t : Tile} {g : Tag} {w : W9} {x : FmqXfer} (hx : fmqOf w t g = some x) (hleft : x.left = 0)
    (hdamaged : x.damaged = false) : fmqTagDone t g w = fmqEnded t g w := by simp [fmqTagDone, hx, hleft, fmqFinish, hdamaged, fmqEnded]

theorem fmqTagDone_damaged {t : Tile} {g : Tag} {w : W9} {x : FmqXfer} (hx : fmqOf w t g = some x) (hleft : x.left = 0)
    (hdamaged : x.damaged = true) : fmqTagDone t g w = raise 0x1030 (tileSrc t) (tileCs (fmqEnded t g w) t) (fmqDetail g x.far)
      (tileErr t 9 (pwrB64 t Pg.fmqErr g.val true (fmqEnded t g w))) := by simp [fmqTagDone, hx, hleft, fmqFinish, hdamaged, fmqEnded]

theorem fmqEnded_tag (t : Tile) (g : Tag) (w : W9) : tagDone (fmqEnded t g w) t g = true ∧ tagPending (fmqEnded t g w) t g = false ∧
    ∀ h, h ≠ g → tagFree (fmqEnded t g w) t h = tagFree w t h :=
  ⟨setTag_done .., setTag_pending .., fun _ hne => setTag_free_ne _ _ _ _ _ _ hne⟩

theorem fmqWatch_expired {t : Tile} {g : Tag} {w : W9} {x : FmqXfer} (hx : fmqOf w t g = some x) (hwatched : x.watched = false)
    (hon : 0 < (prd w t Pg.fmqWatch).toNat) (hlate : (prd w t Pg.fmqWatch).toNat < w.dev.time - x.since) : fmqWatch t g w =
      raiseT t 0x1031 (fmqDetail g x.far) (tileErr t 10
        (modTile t (fun s => { s with fmq := smPut (fun _ => none) s.fmq g.val (some { x with watched := true }) }) w)) := by
  simp only [fmqWatch, hx, hwatched, now, decide_eq_true hlate, decide_eq_true (Nat.pos_iff_ne_zero.mp hon), Bool.not_false,
    Bool.and_true, if_true]

theorem fmqWatch_none {t : Tile} {g : Tag} {w : W9} {x : FmqXfer} (hx : fmqOf w t g = some x)
    (h : x.watched = true ∨ w.dev.time - x.since ≤ (prd w t Pg.fmqWatch).toNat) : fmqWatch t g w = w := by
  rcases h with h | h
  · simp [fmqWatch, hx, h]
  · simp only [fmqWatch, hx, now, decide_eq_false (Nat.not_lt.mpr h), Bool.and_false, Bool.false_eq_true, if_false]

/-- The tags of FMQ_DONE and FMQ_PENDING are kept where a transfer only flags an error. -/
theorem tags_tileErr (t : Tile) (i : Nat) (w : W9) (g : Tag) : tagDone (tileErr t i w) t g = tagDone w t g ∧
    tagPending (tileErr t i w) t g = tagPending w t g := by
  obtain ⟨hdone, hpending, -⟩ := tag_of_prd (w := w) (w' := tileErr t i w) t
    (fun off hlow _ => prd_tileErr_off i w (by simp only [Pg.tileErr]; omega)) g
  exact ⟨hdone, hpending⟩

/-- Settles O14: an issue opens a transfer (`fmqIssue_opens`) or ends at once (`fmqIssue_unassigned`), for LOAD and STORE alike; then the
end of a transfer and its watch by their cases. -/
theorem fmqTagsTrackTransfers : Obligations.FmqTagsTrackTransfers := by
  refine ⟨fun s t g far a len cs htry hcs hfree => ⟨fun hfar hroute => ?opens, fun hfar => ?unassigned⟩, fun s t g x hx => ?ends⟩
  case opens =>
    exact ⟨yields_of_lift (fmqIssue t g true far a len cs) rfl (fmqIssue_opens htry hcs hfree (.inl rfl) hfar hroute),
      fun hready howed herrors => yields_of_lift (fmqIssue t g false far a len cs) rfl
        (fmqIssue_opens htry hcs hfree (.inr ⟨hready, howed, herrors⟩) hfar hroute)⟩
  case unassigned =>
    refine ⟨yields_of_lift (fmqIssue t g true far a len cs) rfl ?_,
      fun hready howed herrors => yields_of_lift (fmqIssue t g false far a len cs) rfl
        (fmqIssue_unassigned htry hcs hfree (.inr ⟨hready, howed, herrors⟩) hfar)⟩
    obtain ⟨hdone, hpending, herr, hmem⟩ := fmqIssue_unassigned (load := true) (far := far) (a := a) (len := len) htry hcs hfree (.inl rfl) hfar
    refine ⟨hdone, hpending, herr, fun i hi => ?_, fun k hk => ?_⟩
    · rw [hmem, if_pos rfl, storeKey_add]
      exact (smGet_putBytes_in 0 _ _ _ i (by rw [List.length_replicate]; exact hi)).trans (zeros_get len i)
    · rw [hmem, if_pos rfl, ← begun_mem t cs s.w]
      exact smGet_putBytes_out 0 _ _ _ k (by rw [List.length_replicate]; exact hk)
  case ends =>
    obtain ⟨hdone, hpending, hother⟩ := fmqEnded_tag t g s.w
    refine ⟨fun hleft hdamaged => yields_of_lift (fmqTagDone t g) rfl ?whole, fun hleft hdamaged => yields_of_lift (fmqTagDone t g) rfl ?damaged,
      fun hleft => ?left, fun hwatched hon hlate => yields_of_lift (fmqWatch t g) rfl ?expired, fun h => ?early⟩
    case whole =>
      rw [fmqTagDone_whole hx hleft hdamaged]
      exact ⟨hdone, hpending, hother, rfl⟩
    case damaged =>
      rw [fmqTagDone_damaged hx hleft hdamaged]
      refine ⟨?_, ?_, ?_, by simp [fmqEnded, setTag]⟩
      · rw [tagDone_eq, prdB_of_prd (prd_raise ..), ← tagDone_eq, (tags_tileErr ..).1, tagDone_eq, tagBit_off _ _ _ _ _ _ (by decide)]
        exact hdone
      · rw [prdB_of_prd (prd_raise ..), prdB_of_prd (prd_tileErr_off _ _ (by simp only [Pg.fmqErr, Pg.tileErr]; omega)), tagBit]
      · rw [prdB_of_prd (prd_raise ..)]
        exact prdB_tileErr_same t _ (by decide)
    case left => exact exec_of_lift_same rfl (fmqTagDone_left hx hleft)
    case expired =>
      rw [fmqWatch_expired hx hwatched hon hlate]
      refine ⟨?_, ?_, by simp [fmqOf], by simp⟩
      · rw [prdB_of_prd (prd_raiseT ..)]
        exact prdB_tileErr_same t _ (by decide)
      · rw [tagPending_eq, prdB_of_prd (prd_raiseT ..), ← tagPending_eq, (tags_tileErr ..).2]
        rfl
    case early => exact exec_of_lift_same rfl (fmqWatch_none hx h)

end Sys2Proof.Machine
end

section
/-! SUPPORT. What lands in a tile from the mesh, and what it answers (R68 to R72, R75, R76, R79, R160, R163, R164, R202). -/

namespace Sys2Proof.Machine

open Sys2Proof

/-! ## Parts of a landing -/

theorem announce_mem (t : Tile) (c : Option CounterIx) (w : W9) : (announce t c w).mem = w.mem := by
  cases c with
  | none => rfl
  | some c => exact (addSignal_events t c 1 w).mem

theorem appendLands_takenIn (t : Tile) (p : Packet) (r : RingIx) (n : Nat) (w : W9) :
    appendLands (takenIn t p w) t r n = appendLands w t r n := rfl

/-- A write of a store takes nothing out of the deferral buffer. -/
theorem writeStore_defer (t : Tile) (a : Nat) (bs : List Byte) (w : W9) :
    (tileOf (writeStore t a bs w) t).defer = (tileOf w t).defer := by
  unfold writeStore
  dsimp only
  rw [tileOf_modTile_same]
  rfl

theorem landNow_page (t : Tile) (ws : List (Nat × List Byte)) (w : W9) : (landNow t ws w).page = w.page := by
  obtain ⟨st, ue, ce, ts, h⟩ := landNow_frame t ws w
  rw [h]

theorem landNow_far (t : Tile) (ws : List (Nat × List Byte)) (w : W9) : (landNow t ws w).mem.far = w.mem.far := by
  obtain ⟨st, ue, ce, ts, h⟩ := landNow_frame t ws w
  rw [h]

theorem rejectRequest_mem (t : Tile) (p : Packet) (w : W9) : (rejectRequest t p w).mem = w.mem := by simp [rejectRequest]

theorem rejectRequest_tiles (t : Tile) (p : Packet) (w : W9) : (rejectRequest t p w).tiles = w.tiles := by simp [rejectRequest]

theorem rejectRequest_counts (t : Tile) (p : Packet) (w : W9) :
    prd (rejectRequest t p w) t Pg.rejectCount = satAdd32 (prd w t Pg.rejectCount) 1 ∧ prdB (rejectRequest t p w) t Pg.tileErr 7 = true := by
  refine ⟨?_, ?_⟩
  · rw [rejectRequest, prd_raiseT, prd_tileErr_off _ _ (by decide), prd_pinc_same]
  · rw [rejectRequest, prdB_of_prd (prd_raiseT ..)]
    exact prdB_tileErr_same t _ (by decide)

theorem spendGrant_mem (t : Tile) (r : RingIx) (source : BitVec 16) (n : Nat) (w : W9) : (spendGrant t r source n w).mem = w.mem := by
  unfold spendGrant
  dsimp only
  split <;> rfl

theorem prd_spendGrant {t : Tile} {r : RingIx} {off : Nat} (source : BitVec 16) (n : Nat) (w : W9) (h : off ≠ Pg.ringCredit r.val) :
    prd (spendGrant t r source n w) t off = prd w t off := by
  unfold spendGrant
  dsimp only
  split
  · exact prd_pwrF_off _ _ _ _ h
  · rfl

theorem nakNoted_mem (t : Tile) (responder : BitVec 16) (st op : BitVec 4) (opSeq : BitVec 32) (w : W9) :
    (nakNoted t responder st op opSeq w).mem = w.mem := by simp [nakNoted]

theorem nakNoted_counts (t : Tile) (responder : BitVec 16) (st op : BitVec 4) (opSeq : BitVec 32) (w : W9) :
    prd (nakNoted t responder st op opSeq w) t Pg.nakReceived = satAdd32 (prd w t Pg.nakReceived) 1 := by
  rw [nakNoted, prd_raiseT, prd_pwrB_off _ _ _ (by decide), prd_pinc_same]

/-! ## Writes, appends and replies -/

theorem remoteWriteLand_admitted {t : Tile} {p : Packet} {sched : List LAddr} {w : W9} (hring : p.ring = none)
    (hadmit : admits w t p .write p.payload.length = true) (hpage : inPage p.address.toNat p.payload.length = false)
    (hfree : ∀ x ∈ wordsOf p.address.toNat p.payload, (busyBanks w t sched).contains (bankRow (isC t) x.1).1 = false) :
    remoteWriteLand t p sched w = announce t (if p.last then p.signal else none)
      (landNow t (wordsOf p.address.toNat p.payload) (takenIn t p w)) := by
  have hlate : (wordsOf p.address.toNat p.payload).filter (fun x => (busyBanks w t sched).contains (bankRow (isC t) x.1).1) = [] :=
    List.filter_eq_nil_iff.mpr fun x hx => Bool.eq_false_iff.mp (hfree x hx)
  simp only [remoteWriteLand, hring, hadmit, hpage, Bool.not_true, Bool.false_eq_true, if_false, landPayload]
  rw [if_pos (by rw [hlate]; rfl)]

theorem remoteWriteLand_rejected {t : Tile} {p : Packet} {sched : List LAddr} {w : W9} (hring : p.ring = none)
    (hadmit : admits w t p .write p.payload.length = false) : remoteWriteLand t p sched w = rejectRequest t p (takenIn t p w) := by
  simp only [remoteWriteLand, hring, hadmit, Bool.not_false, if_true]

theorem deferredWriteLand_ready {t : Tile} {sched : List LAddr} {w : W9} {d : Deferred} (h : deferReady w t sched = some d) :
    deferredWriteLand t sched w =
      announce t d.signal (writeStore t d.addr.toNat d.data (modTile t (fun s => { s with defer := s.defer.erase d }) w)) := by
  simp only [deferredWriteLand, h]

theorem deferredWriteLand_none {t : Tile} {sched : List LAddr} {w : W9} (h : deferReady w t sched = none) :
    deferredWriteLand t sched w = w := by simp only [deferredWriteLand, h]

/-- A packet of an append that is not the last announces nothing. -/
theorem ringAppendLand_part {t : Tile} {p : Packet} {r : RingIx} {w : W9} (hring : p.ring = some r) (hlast : p.last = false) :
    ringAppendLand t p w = spendGrant t r p.source p.payload.length
      (landAppend t r p.payload (p.client.setWidth 8) p.source (takenIn t p w)) := by
  simp only [ringAppendLand, hring, appendLand, hlast, Bool.and_false, Bool.false_eq_true, if_false]

theorem replyLand_ok {t : Tile} {p : Packet} {w : W9} (hsignal : p.signal = none) (hstatus : p.status = 0) (hn : 0 < p.payload.length)
    (hdata : dataAssigned (isC t) p.address.toNat p.payload.length = true) :
    replyLand t p w = writeStore t p.address.toNat p.payload (takenIn t p w) := by
  rw [replyLand, if_pos hstatus, hsignal]
  dsimp only
  rw [if_pos ⟨hn, hdata⟩]
  rfl

theorem replyLand_nak {t : Tile} {p : Packet} {w : W9} (hsignal : p.signal = none) (hstatus : p.status ≠ 0) (hn : 0 < p.length.toNat)
    (hdata : dataAssigned (isC t) p.address.toNat p.length.toNat = true) :
    replyLand t p w = writeStore t p.address.toNat (List.replicate p.length.toNat 0)
      (nakNoted t p.source p.status p.op p.opSeq (takenIn t p w)) := by
  rw [replyLand, if_neg hstatus, zeroReply, hsignal, if_pos ⟨hn, hdata⟩]
  rfl

/-- Settles O17: what is admitted lands byte for byte (`land_bytes`, `smGet_putBytes_in`), and what is not is counted and flagged. -/
theorem admittedWritesLandWhole : Obligations.AdmittedWritesLandWhole := by
  refine ⟨fun s t port p sched hring => ⟨fun hadmit hpage hfree => yields_of_lift (remoteWriteLand t p sched) rfl ?lands,
      fun hadmit => yields_of_lift (remoteWriteLand t p sched) rfl ?rejected⟩,
    fun s t sched => ⟨fun d hd hsignal => yields_of_lift (deferredWriteLand t sched) rfl ?deferred, fun h => ?waits⟩,
    fun s t p r hring hlast => ⟨fun hlands => yields_of_lift (ringAppendLand t p) rfl ?appended,
      fun hlands => yields_of_lift (ringAppendLand t p) rfl ?dropped⟩,
    fun s t p hsignal => ⟨fun hstatus hn hdata => yields_of_lift (replyLand t p) rfl ?ok,
      fun hstatus hn hdata => yields_of_lift (replyLand t p) rfl ?nak⟩⟩
  case lands =>
    obtain ⟨hin, hout⟩ := land_bytes t p.address.toNat p.payload (takenIn t p s.w)
    rw [remoteWriteLand_admitted hring hadmit hpage hfree, announce_mem]
    refine ⟨hin, hout, fun c hlast hc => ?_, fun h => ?_, landNow_far ..⟩
    · rw [if_pos hlast, hc]
      exact (prd_addSignal_same t c 1 _).trans (by rw [prd_of_page (landNow_page ..)]; rfl)
    · have hnone : (if p.last then p.signal else none) = none := by rcases h with h | h <;> simp [h]
      rw [hnone]
      exact landNow_page ..
  case rejected =>
    rw [remoteWriteLand_rejected hring hadmit]
    obtain ⟨hcount, hflag⟩ := rejectRequest_counts t p (takenIn t p s.w)
    exact ⟨rejectRequest_mem .., rejectRequest_tiles .., hcount, hflag⟩
  case deferred =>
    rw [deferredWriteLand_ready hd, hsignal]
    refine ⟨fun i hi => smGet_putBytes_in 0 _ _ _ i hi, fun k hk => smGet_putBytes_out 0 _ _ _ k hk, ?_, rfl, rfl⟩
    exact (writeStore_defer t _ _ _).trans (by rw [tileOf_modTile_same])
  case waits => exact exec_of_lift_same rfl (deferredWriteLand_none h)
  case appended =>
    have hr := r.isLt
    have htail : Pg.ringTail r.val ≠ Pg.ringCredit r.val := by simp only [Pg.ringTail, Pg.ringCredit]; omega
    have hhead : Pg.ringHead r.val ≠ Pg.ringCredit r.val := by simp only [Pg.ringHead, Pg.ringCredit]; omega
    rw [ringAppendLand_part hring hlast, landAppend, appendLands_takenIn, if_pos hlands]
    refine ⟨?_, ?_⟩
    · rw [prd_spendGrant _ _ _ htail, ringWrite_tail]
      rfl
    · rw [prd_spendGrant _ _ _ hhead, prd_ringWrite _ _ _ (by simp only [Pg.ringHead, Pg.ringTail]; omega)]
      rfl
  case dropped =>
    have hr := r.isLt
    have hcredit : ∀ off, off < 0x900 → off ≠ Pg.ringCredit r.val := fun off hoff => by simp only [Pg.ringCredit]; omega
    have htail : 0x20 < Pg.ringTail r.val ∧ Pg.ringTail r.val < 0x900 := by simp only [Pg.ringTail]; omega
    rw [ringAppendLand_part hring hlast, landAppend, appendLands_takenIn, if_neg (Bool.eq_false_iff.mp hlands)]
    refine ⟨?_, ?_, ?_, ?_⟩
    · rw [spendGrant_mem, dropAppend_mem]
      rfl
    · rw [prd_spendGrant _ _ _ (hcredit _ htail.2), prd_dropAppend _ _ _ _ (by simp only [Pg.tileErr]; omega),
        prd_pinc_off _ _ (by simp only [Pg.ringOvfCount]; omega)]
      rfl
    · rw [prdB_of_prd (prd_spendGrant _ _ _ (hcredit _ (by decide)))]
      exact dropAppend_flag ..
    · rw [prd_spendGrant _ _ _ (hcredit _ (by decide)), prd_dropAppend _ _ _ _ (by decide), prd_pinc_same]
      rfl
  case ok =>
    rw [replyLand_ok hsignal hstatus hn hdata]
    exact ⟨fun i hi => smGet_putBytes_in 0 _ _ _ i hi, fun k hk => smGet_putBytes_out 0 _ _ _ k hk, rfl⟩
  case nak =>
    rw [replyLand_nak hsignal hstatus hn hdata]
    refine ⟨fun i hi => ?_, fun k hk => ?_, (prd_of_page rfl t _).trans (nakNoted_counts ..)⟩
    · exact (smGet_putBytes_in 0 _ _ _ i (by rw [List.length_replicate]; exact hi)).trans (zeros_get _ i)
    · refine (smGet_putBytes_out 0 _ _ _ k (by rw [List.length_replicate]; exact hk)).trans ?_
      rw [nakNoted_mem]
      rfl

/-! ## Atomics and reads from outside -/

theorem mcast_replyTo (p : Packet) (source : BitVec 16) (st : BitVec 4) (data : List Byte) : (replyTo p source st data).mcast = false := rfl

/-- An on-device atomic at an aligned control word that no write comes before (R72). -/
theorem atomicExecute_serves {t : Tile} {p : Packet} {sched : List LAddr} {w : W9} (hword : inControlWords p.address.toNat 8 = true)
    (halign : p.address.toNat % 8 = 0) (hclient : p.client = 0)
    (hsched : ∀ x ∈ sched, wordOf (isC t) x.toNat ≠ wordOf (isC t) p.address.toNat)
    (hdefer : ∀ d ∈ (tileOf w t).defer, (bankRow (isC t) d.addr.toNat).1 ≠ (bankRow (isC t) p.address.toNat).1) :
    atomicExecute t p sched w = sendReply t (replyTo p (tileSrc t) 0 (readStore w t p.address.toNat 8))
      (writeStore t p.address.toNat (le 8 (atomicNew p (ofLe (readStore w t p.address.toNat 8))))
        (readEffects0 t p.address.toNat 8 (takenIn t p w))) := by
  have hwait : (sched.any (fun x => wordOf (isC t) x.toNat == wordOf (isC t) p.address.toNat) ||
      (tileOf w t).defer.any (fun d => (bankRow (isC t) d.addr.toNat).1 == (bankRow (isC t) p.address.toNat).1)) = false := by
    rw [Bool.or_eq_false_iff, List.any_eq_false, List.any_eq_false]
    exact ⟨fun x hx => by simpa using hsched x hx, fun d hd => by simpa using hdefer d hd⟩
  simp only [atomicExecute, hword, halign, hclient, hwait, Bool.not_true, Bool.false_or, Bool.false_and, ne_eq, not_true, decide_false,
    Bool.false_eq_true, if_false]

theorem atomicExecute_rejected {t : Tile} {p : Packet} {sched : List LAddr} {w : W9}
    (h : inControlWords p.address.toNat 8 = false ∨ p.address.toNat % 8 ≠ 0) : atomicExecute t p sched w =
      sendReply t (replyTo p (tileSrc t) 1 [])
        (raiseT t 0x1021 (rejectDetail p) (tileErr t 8 (pinc t Pg.rejectCount 1 (takenIn t p w)))) := by
  have hreject : (!inControlWords p.address.toNat 8 || decide (p.address.toNat % 8 ≠ 0)) = true := by
    rcases h with h | h <;> simp [h]
  rw [atomicExecute]
  dsimp only
  rw [if_pos hreject]

theorem remoteGetServe_serves {t : Tile} {p : Packet} {sched : List LAddr} {w : W9}
    (hadmit : admits w t p .read p.length.toNat = true) (hpage : inPage p.address.toNat p.length.toNat = false)
    (hfree : ∀ q ∈ quarters p.address.toNat p.length.toNat,
      (sched.map (fun x => (bankRow (isC t) x.toNat).1)).contains (bankRow (isC t) q).1 = false) :
    remoteGetServe t p sched w = sendReply t (replyTo p (tileSrc t) 0 (readStore w t p.address.toNat p.length.toNat))
      (readEffects0 t p.address.toNat p.length.toNat (takenIn t p w)) := by
  have hwait : (quarters p.address.toNat p.length.toNat).any
      (fun q => (sched.map (fun x => (bankRow (isC t) x.toNat).1)).contains (bankRow (isC t) q).1) = false :=
    List.any_eq_false.mpr fun q hq => Bool.eq_false_iff.mp (hfree q hq)
  simp only [remoteGetServe, hadmit, hpage, hwait, Bool.not_true, Bool.false_eq_true, if_false]

theorem remoteGetServe_rejected {t : Tile} {p : Packet} {sched : List LAddr} {w : W9}
    (hadmit : admits w t p .read p.length.toNat = false) :
    remoteGetServe t p sched w = sendReply t (replyTo p (tileSrc t) 1 []) (rejectRequest t p (takenIn t p w)) := by
  simp only [remoteGetServe, hadmit, Bool.not_false, if_true]

/-- With the route open a reply is one sealed packet at the end of the router's buffer. -/
theorem sendReply_routed {t : Tile} {p : Packet} {yx : Bool} {w : W9} (hroute : routeOf w t (.unit p.target) = .inr yx)
    (hmcast : p.mcast = false) (hupdating : updating w t = false) : ∃ e, e ∈ routerOf (sendReply t p w) t ∧ e.net = .reply ∧
      e.pkt = sealPkt { p with yx := yx } := by
  rw [sendReply, hroute]
  dsimp only
  rw [take_plain t .reply (sealPkt { p with yx := yx }) w hmcast hupdating, routerOf_setRouter_same]
  exact ⟨_, List.mem_append_right _ (List.mem_singleton_self _), rfl, rfl⟩

/-- Settles O19: an atomic writes its word and a read answers with what the store holds (`sendReply_routed`); what they answer with changes
no memory and no register (`reply_frame`). -/
theorem atomicsAndReadsServeControlWords : Obligations.AtomicsAndReadsServeControlWords := by
  refine ⟨fun s t p sched => ⟨fun hword halign hclient hsched hdefer => yields_of_lift (atomicExecute t p sched) rfl ?atomic,
      fun h => yields_of_lift (atomicExecute t p sched) rfl ?atomicRejected⟩,
    fun s t p sched => ⟨fun hadmit hpage hfree => yields_of_lift (remoteGetServe t p sched) rfl ?read,
      fun hadmit => yields_of_lift (remoteGetServe t p sched) rfl ?readRejected⟩⟩
  case atomic =>
    rw [atomicExecute_serves hword halign hclient hsched hdefer, (reply_frame t _ _ (mcast_replyTo ..)).1]
    have hmem : (readEffects0 t p.address.toNat 8 (takenIn t p s.w)).mem = s.w.mem := readEffects0_mem ..
    refine ⟨fun i hi => ?_, fun k hk => ?_, ?_⟩
    · exact smGet_putBytes_in 0 _ _ _ i (by rw [le_length]; exact hi)
    · exact (smGet_putBytes_out 0 _ _ _ k (by rw [le_length]; exact hk)).trans (by rw [hmem])
    · show (readEffects0 t p.address.toNat 8 (takenIn t p s.w)).mem.far = s.w.mem.far
      rw [hmem]
  case atomicRejected =>
    obtain ⟨hmem, hpage⟩ := reply_frame t (replyTo p (tileSrc t) 1 [])
      (raiseT t 0x1021 (rejectDetail p) (tileErr t 8 (pinc t Pg.rejectCount 1 (takenIn t p s.w)))) (mcast_replyTo ..)
    rw [atomicExecute_rejected h]
    refine ⟨hmem.trans (by rw [raiseT_mem]; rfl), ?_, ?_⟩
    · rw [prd_of_page hpage, prd_raiseT, prd_tileErr_off _ _ (by decide), prd_pinc_same]
      rfl
    · rw [prdB_of_prd (prd_of_page hpage t _), prdB_of_prd (prd_raiseT ..)]
      exact prdB_tileErr_same t _ (by decide)
  case read =>
    rw [remoteGetServe_serves hadmit hpage hfree]
    refine ⟨(reply_frame t _ _ (mcast_replyTo ..)).1.trans (readEffects0_mem ..), fun hclean hupdating yx hroute => ?_⟩
    rw [re0_clean t _ _ (takenIn t p s.w) hclean]
    obtain ⟨e, hmem, hnet, hpkt⟩ := sendReply_routed (w := takenIn t p s.w)
      (p := replyTo p (tileSrc t) 0 (readStore s.w t p.address.toNat p.length.toNat))
      ((routeOf_of_bar0 (w := s.w) rfl t (.unit p.source)).trans hroute) (mcast_replyTo ..) ((updating_of_bar0 rfl t).trans hupdating)
    refine ⟨e, hmem, hnet, ?_⟩
    rw [hpkt]
    exact ⟨rfl, rfl, rfl, rfl, seal_ok _⟩
  case readRejected =>
    obtain ⟨hmem, hpage⟩ := reply_frame t (replyTo p (tileSrc t) 1 []) (rejectRequest t p (takenIn t p s.w)) (mcast_replyTo ..)
    obtain ⟨hcount, hflag⟩ := rejectRequest_counts t p (takenIn t p s.w)
    rw [remoteGetServe_rejected hadmit]
    exact ⟨hmem.trans (rejectRequest_mem ..), (prd_of_page hpage t _).trans hcount, (prdB_of_prd (prd_of_page hpage t _) 7).trans hflag⟩

end Sys2Proof.Machine
end

section
/-! SUPPORT. The matrix arrays and CONVERT (R99, R100, R107, R111, R112, R128): what an operation computes rests on the stores alone, and the
reads it makes leave the stores and the products in flight as they are. -/

namespace Sys2Proof.Machine

open Sys2Proof

/-! ## What is computed from the stores -/

theorem readStore_of_mem {w w' : W9} (h : w'.mem = w.mem) (t : Tile) (a n : Nat) : readStore w' t a n = readStore w t a n := by
  rw [readStore, readStore, h]

theorem readF32s_of_mem {w w' : W9} (h : w'.mem = w.mem) (t : Tile) (a n : Nat) : readF32s w' t a n = readF32s w t a n := by
  simp only [readF32s, storeW32, readStore_of_mem h]

theorem readBlock_of_mem {w w' : W9} (h : w'.mem = w.mem) (t : Tile) (k f a sc : Nat) (tr : Bool) :
    readBlock w' t k f a sc tr = readBlock w t k f a sc tr := by
  simp only [readBlock, readStore_of_mem h]

/-- Activations at an address are read from the stores alone; those of a ring also depend on its HEAD. -/
theorem actRows_addr_of_mem {w w' : W9} (h : w'.mem = w.mem) (t : Tile) (c : Ctx) (a : LAddr) (rows segs : Nat) :
    actRows w' t c (.addr a) rows segs = actRows w t c (.addr a) rows segs := by
  simp only [actRows, readSegment, actBytes, readStore_of_mem h]

/-- While the first weight set is selected a weight address is the operation's own (R313). -/
theorem weightAddr_unswitched {w : W9} {t : Tile} (h : (fieldState w (tileField t)).wsel = false) (a : Nat) : weightAddr w t a = a := by
  simp only [weightAddr, h, Bool.false_and, Bool.false_eq_true, if_false]

theorem scaleAddr_unswitched {w : W9} {t : Tile} (h : (fieldState w (tileField t)).wsel = false) (a : Nat) : scaleAddr w t a = a := by
  simp only [scaleAddr, h, Bool.false_and, Bool.false_eq_true, if_false]

theorem begun_wsel (t : Tile) (cs : List Cond) (w : W9) :
    (fieldState (begun t cs w) (tileField t)).wsel = (fieldState w (tileField t)).wsel := by
  rw [fieldState, begun_fields, fieldState]

/-! ## What reads leave alone -/

/-- The part of the W9 that an operation's reads keep for the arrays: the memories, and the products in flight of tile `t`. -/
def arrayView (t : Tile) (w : W9) : Mem × List Product := (w.mem, (tileOf w t).products)

theorem arrayView_same {w w' : W9} (hmem : w'.mem = w.mem) (htiles : w'.tiles = w.tiles) (t : Tile) : arrayView t w' = arrayView t w := by
  rw [arrayView, tileOf, hmem, htiles, arrayView, tileOf]

theorem arrayView_raiseT (t : Tile) (code : BitVec 16) (d : List Byte) (w : W9) : arrayView t (raiseT t code d w) = arrayView t w :=
  arrayView_same (raiseT_mem ..) (raiseT_tiles ..) t

theorem arrayView_inc (t : Tile) (off n : Nat) (w : W9) : arrayView t (inc off n w) = arrayView t w := arrayView_same rfl rfl t
theorem arrayView_pwrB (t : Tile) (off i : Nat) (b : Bool) (w : W9) : arrayView t (pwrB t off i b w) = arrayView t w :=
  arrayView_same rfl rfl t
theorem arrayView_pinc (t : Tile) (off n : Nat) (w : W9) : arrayView t (pinc t off n w) = arrayView t w := arrayView_same rfl rfl t

theorem arrayView_modTile {t : Tile} {f : TileS → TileS} (w : W9) (hf : ∀ s, (f s).products = s.products) :
    arrayView t (modTile t f w) = arrayView t w := by
  rw [arrayView, tileOf_modTile_same, hf, modTile_mem, arrayView]

theorem arrayView_noteCE (t : Tile) (q : Nat) (w : W9) : arrayView t (noteCE t q w) = arrayView t w :=
  noteCE_frame' (arrayView t) t q w (fun _ _ => rfl) (fun _ => rfl) (arrayView_raiseT t) (fun _ w => arrayView_modTile w fun _ => rfl)

theorem arrayView_noteUE (t : Tile) (q : Nat) (cs : BitVec 16) (w : W9) : arrayView t (noteUE t q cs w) = arrayView t w :=
  arrayView_same (noteUE_mem ..) (raise_tiles ..) t

theorem arrayView_setTaint (t : Tile) (fmq : Bool) (w : W9) : arrayView t (setTaint t fmq w) = arrayView t w :=
  arrayView_modTile w fun _ => rfl

theorem arrayView_readEffects (t : Tile) (a n : Nat) (w : W9) : arrayView t (readEffects t a n w) = arrayView t w := by
  refine forEach_frame (arrayView t) _ (fun q v => ?_) _ w
  split
  · rw [arrayView_setTaint, arrayView_noteUE]
  · split
    · exact arrayView_noteCE ..
    · rfl

theorem arrayView_schedRead (t : Tile) (a n : Nat) (w : W9) : arrayView t (schedRead t a n w) = arrayView t w := by
  rw [schedRead, arrayView_readEffects, earlyCheck]
  split
  · exact arrayView_same (trap_mem ..) (trap_tiles ..) t
  · rfl

theorem arrayView_ringReadEffects (t : Tile) (r : RingIx) (k : Nat) (w : W9) :
    arrayView t (ringReadEffects t r k w) = arrayView t w := by
  unfold ringReadEffects
  dsimp only
  split
  · rw [arrayView_schedRead, arrayView_schedRead]
  · exact arrayView_schedRead ..

theorem arrayView_blockReads (t : Tile) (k f a sc : Nat) (w : W9) : arrayView t (blockReads t k f a sc w) = arrayView t w := by
  unfold blockReads
  dsimp only
  split
  · exact arrayView_schedRead ..
  · rw [arrayView_schedRead, arrayView_schedRead]

/-- The reads of one activation source: those of its elements, of their scales and of their outlier pairs. -/
theorem arrayView_actReads (t : Tile) (c : Ctx) (src : ActSource) (rows segs : Nat) (w : W9) :
    arrayView t (actReads t c src rows segs w) = arrayView t w := by
  have hpart : ∀ (b : Prop) [Decidable b] (a n : Nat) (v : W9), arrayView t (if b then v else schedRead t a n v) = arrayView t v :=
    fun b _ a n v => by rw [apply_ite (arrayView t), arrayView_schedRead, ite_self]
  unfold actReads
  refine (hpart ..).trans ((hpart ..).trans ?_)
  cases src with
  | addr a => exact arrayView_schedRead ..
  | ring r => exact arrayView_ringReadEffects ..

theorem arrayView_addrFault (t : Tile) (a : LAddr) (w : W9) : arrayView t (addrFault t a w) = arrayView t w :=
  arrayView_same (addrFault_events t a w).mem (addrFault_events t a w).tiles t

/-- What edge conversion complains of is counted and told in events (R113, R125, R137). -/
theorem arrayView_reportOperands (t : Tile) (badW badA : Bool) (nans : Nat) (tag : Option Nat) (wa aa : Nat) (w : W9) :
    arrayView t (reportOperands t badW badA nans tag wa aa w) = arrayView t w := by
  have hnans : ∀ (b : Prop) [Decidable b] (d : List Byte) (v : W9),
      arrayView t (if b then v else raiseT t 0x2001 d (inc Reg.nanscaleCount nans v)) = arrayView t v := fun b _ d v => by
    rw [apply_ite (arrayView t), arrayView_raiseT, arrayView_inc, ite_self]
  have hbad : ∀ (b : Prop) [Decidable b] (d : List Byte) (v : W9), arrayView t
      (if b then raiseT t 0x1061 d (pwrB t Pg.arrayErr 1 true (pinc t Pg.nonfiniteCount 1 v)) else v) = arrayView t v := fun b _ d v => by
    rw [apply_ite (arrayView t), arrayView_raiseT, arrayView_pwrB, arrayView_pinc, ite_self]
  unfold reportOperands
  cases tag with
  | none => exact (hnans ..).trans (hbad ..)
  | some g =>
    dsimp only
    rw [arrayView_raiseT, arrayView_inc]
    exact (hnans ..).trans (hbad ..)

/-! ## MATMUL on a B-tile -/

theorem arrayWait_ready (t : Tile) (cs : List Cond) (other : Bool) (w : W9) : arrayWait t cs other true w = w := by
  simp [arrayWait]

theorem matmul_ready {t : Tile} {m : MatmulArgs} {w : W9} (htile : isC t = false) (htry : canTry w t = true)
    (hcs : (withoutArray m.conds).all (condHolds w t) = true) (hready : matmulReady w t = true)
    (hheld : actHeld w t m.act (m.rows * rowBytes (fmtOf w t m.epoch m.actScale m.afmt) m.n) = true) :
    matmul t m w = matmulB t m (begun t (withoutArray m.conds) w) := by
  simp only [matmul, htile, Bool.false_eq_true, if_false, hready, hheld, arrayWait_ready]
  exact issue_of_ready htry hcs rfl _

/-- Block `b` of a product's weights. -/
def weightBlock (w : W9) (t : Tile) (m : MatmulArgs) (b : Nat) : Decoded :=
  readBlock w t 64 m.wfmt.toNat (weightAddr w t m.weights.toNat + b * (blockRows false m.wfmt.toNat * 2048))
    (scaleAddr w t m.scale.toNat + b * scaleBytes 64 m.wfmt.toNat) m.transpose

/-- The FP32 sums of R111 of a B-array product whose format field reads as context `c`. -/
def productSums (w : W9) (t : Tile) (m : MatmulArgs) (c : Ctx) : List F32 :=
  (actRows w t c m.act m.rows m.n).flatMap (fun r =>
    (List.range 64).map (fun i => (sumOut ((List.range m.n).map (fun b => (weightBlock w t m b).rows)) (r.map (·.vals)) i).1))

theorem arrayView_openProduct (t : Tile) (p : Product) (w : W9) :
    arrayView t (openProduct t p w) = (w.mem, (tileOf w t).products ++ [p]) := by
  simp only [openProduct, arrayView, tileOf_modTile_same, tileOf_pinc, modTile_mem, pinc_mem]

/-- A B-array operation puts one product in flight, with the sums of what the stores hold, and writes nothing. -/
theorem matmulB_opens (t : Tile) (m : MatmulArgs) (w : W9) : ∃ p, arrayView t (matmulB t m w) = (w.mem, (tileOf w t).products ++ [p]) ∧
    p.dst = m.dst ∧ p.add = m.add ∧ p.issued = now w ∧ p.sums = productSums w t m (fmtOf w t m.epoch m.actScale m.afmt) := by
  have hblocks : ∀ (l : List (Nat × Nat)) (v : W9),
      arrayView t (forEach l (fun a => blockReads t 64 m.wfmt.toNat a.1 a.2) v) = arrayView t v :=
    forEach_frame (arrayView t) _ fun a v => arrayView_blockReads t 64 _ a.1 a.2 v
  have hacts : ∀ (c : Ctx) (a : LAddr) (v : W9),
      arrayView t (if c.valid then actReads t c m.act m.rows m.n v else addrFault t a v) = arrayView t v :=
    fun c a v => by rw [apply_ite (arrayView t), arrayView_actReads, arrayView_addrFault, ite_self]
  have hopen : ∀ (p : Product) (v : W9), arrayView t v = arrayView t w →
      arrayView t (openProduct t p v) = (w.mem, (tileOf w t).products ++ [p]) := fun p v hv => by
    obtain ⟨hmem, hproducts⟩ := Prod.mk.inj hv
    rw [arrayView_openProduct, hmem, hproducts]
  refine ⟨_, hopen _ _ ((arrayView_reportOperands ..).trans ((hacts ..).trans (hblocks ..))), rfl, rfl, rfl, ?_⟩
  simp only [productSums, weightBlock, List.map_flatMap, List.map_map, Function.comp_def]

/-- With a format code and the first weight set the sums are those of the operation's own addresses. -/
theorem productSums_of_mem {w w' : W9} (hmem : w'.mem = w.mem) {t : Tile} (hwsel : (fieldState w' (tileField t)).wsel = false)
    {m : MatmulArgs} {a : LAddr} (hact : m.act = .addr a) (c : Ctx) : productSums w' t m c =
      (actRows w t c m.act m.rows m.n).flatMap (fun r => (List.range 64).map (fun i =>
        (sumOut ((List.range m.n).map (fun b => (readBlock w t 64 m.wfmt.toNat
          (m.weights.toNat + b * (blockRows false m.wfmt.toNat * 2048)) (m.scale.toNat + b * scaleBytes 64 m.wfmt.toNat) m.transpose).rows))
          (r.map (·.vals)) i).1)) := by
  simp only [productSums, weightBlock, hact, actRows_addr_of_mem hmem, readBlock_of_mem hmem, weightAddr_unswitched hwsel,
    scaleAddr_unswitched hwsel]

/-! ## WLOAD -/

/-- The block that a WLOAD of an unswitched weight set puts in the shadow buffer. -/
def loadedBlock (w : W9) (t : Tile) (a : WloadArgs) : WBlock :=
  let d := readBlock w t 128 a.wfmt.toNat a.addr.toNat a.scale.toNat a.transpose
  ⟨d.rows, d.nonfinite, weightRate a.wfmt.toNat, now w + blockRows true a.wfmt.toNat⟩

theorem loadedBlock_begun (t : Tile) (cs : List Cond) (w : W9) (a : WloadArgs) : loadedBlock (begun t cs w) t a = loadedBlock w t a := by
  simp only [loadedBlock, readBlock_of_mem (begun_mem t cs w), now, begun_dev]

/-- A WLOAD reads its block and its scales, tells of 0xFF scales, and fills the shadow buffer. -/
theorem wload_ready {t : Tile} {a : WloadArgs} {w : W9} (htile : isC t = true) (htry : canTry w t = true)
    (hcs : (withoutArray a.conds).all (condHolds w t) = true) (hshadow : (tileOf w t).shadow = none)
    (hwsel : (fieldState w (tileField t)).wsel = false) :
    (tileOf (wload t a w) t).shadow = some (loadedBlock w t a) ∧ (wload t a w).mem = w.mem := by
  have hready : (isC t && (tileOf w t).shadow.isNone) = true := by rw [htile, hshadow]; rfl
  have hunswitched := (begun_wsel t (withoutArray a.conds) w).trans hwsel
  simp only [wload, hready, arrayWait_ready]
  rw [issue_of_ready htry hcs rfl]
  simp only [weightAddr_unswitched hunswitched, scaleAddr_unswitched hunswitched, tileOf_modTile_same, modTile_mem]
  refine ⟨congrArg some (loadedBlock_begun t _ w a), ?_⟩
  have hreads := (congrArg Prod.fst (arrayView_blockReads t 128 a.wfmt.toNat a.addr.toNat a.scale.toNat
    (begun t (withoutArray a.conds) w))).trans (begun_mem ..)
  rw [apply_ite W9.mem, raiseT_mem, inc_mem, ite_self]
  exact hreads

/-! ## The drain -/

theorem f32Bytes_length (l : List F32) : (f32Bytes l).length = 4 * l.length := by
  simp [f32Bytes, List.length_flatMap, le_length, Nat.mul_comm]

/-- In mode SET a product drains its sums as they are; unsaturated, it only writes them. -/
theorem productDrain_set {t : Tile} {w : W9} {p : Product} {rest : List Product} (hproducts : (tileOf w t).products = p :: rest)
    (hadd : p.add = false) (hsat : p.sat = false) : productDrain t w =
      writeStore t p.dst.toNat (f32Bytes p.sums) (modTile t (fun s => { s with products := s.products.drop 1 }) w) := by
  simp [productDrain, hproducts, drainProduct, drained, hadd, hsat, List.map_map, Function.comp_def]

theorem productDrain_none {t : Tile} {w : W9} (h : (tileOf w t).products = []) : productDrain t w = w := by
  simp only [productDrain, h]

theorem writeStore_products (t : Tile) (a : Nat) (bs : List Byte) (w : W9) :
    (tileOf (writeStore t a bs w) t).products = (tileOf w t).products := by
  rw [writeStore, tileOf_modTile_same]
  rfl

/-! ## CONVERT -/

theorem convertVals_finite {l : List F32} (h : ∀ x ∈ l, f32Special x = false) : convertVals l = l.map f32Val :=
  List.map_congr_left fun x hx => by rw [h x hx, if_neg Bool.false_ne_true]

/-- Finite values converted to a 16-bit format are written as packed codes, with no block, no scale and no complaint. -/
theorem convertRun_wide {t : Tile} {a : ConvertArgs} {c : Ctx} {w : W9} (hwide : elemBits c.fmt = 16)
    (hfinite : ∀ x ∈ readF32s w t a.src.toNat a.n, f32Special x = false) : convertRun t a c w =
      writeStore t a.dst.toNat (packBytes 16 ((readF32s w t a.src.toNat a.n).map (fun x => elemCode c.fmt (f32Val x))))
        (schedRead t a.src.toNat (4 * a.n) w) := by
  have hnone : (readF32s w t a.src.toNat a.n).filter f32Special = [] :=
    List.filter_eq_nil_iff.mpr fun x hx => Bool.eq_false_iff.mp (hfinite x hx)
  simp only [convertRun, hwide, if_true, hnone, List.length_nil, noteNonfinite, convertVals_finite hfinite, List.map_map, Function.comp_def]

theorem convert_code {t : Tile} {a : ConvertArgs} {c : BitVec 4} {w : W9} (htry : canTry w t = true)
    (hcs : a.conds.all (condHolds w t) = true) (hready : readReady w t a.src.toNat (4 * a.n) = true) (hfmt : a.fmt = .code c) :
    convert t a w = convertRun t a ⟨true, c.toNat, false, 0, 0, 0, a.scaleDst.toNat, 0xFE, 0⟩ (begun t a.conds w) := by
  rw [convert, issue_of_ready htry hcs hready, hfmt]
  rfl

/-- Settles O21: a MATMUL opens a product (`matmulB_opens`) whose sums rest on the stores (`productSums_of_mem`), a WLOAD fills the shadow
buffer (`wload_ready`), and a drain and a CONVERT write their bytes (`productDrain_set`, `convertRun_wide`). -/
theorem productsHoldTheOrderedSums : Obligations.ProductsHoldTheOrderedSums := by
  refine ⟨fun s t m htile htry hcs hready hheld => yields_of_lift (matmul t m) rfl ?matmul,
    fun s t a htile htry hcs hshadow hwsel => yields_of_lift (wload t a) rfl ?wload,
    fun s t => ⟨fun p rest hproducts hadd hsat => yields_of_lift (productDrain t) rfl ?drain,
      fun h => exec_of_lift_same rfl (productDrain_none h)⟩,
    fun s t a c htry hcs hready hfmt hwide hfinite => yields_of_lift (convert t a) rfl ?convert⟩
  case matmul =>
    obtain ⟨p, hview, hdst, hadd, hissued, hsums⟩ := matmulB_opens t m (begun t (withoutArray m.conds) s.w)
    obtain ⟨hmem, hproducts⟩ := Prod.mk.inj hview
    rw [matmul_ready htile htry hcs hready hheld]
    refine ⟨p, ?_, hdst, hadd, ?_, hmem.trans (begun_mem ..), fun c hafmt hwsel a hact => ?_⟩
    · rw [hproducts, tileOf, begun_tiles, tileOf]
    · rw [hissued, now, begun_dev]
    · rw [hsums, hafmt]
      exact productSums_of_mem (begun_mem ..) ((begun_wsel ..).trans hwsel) hact _
  case wload =>
    obtain ⟨hfilled, hmem⟩ := wload_ready htile htry hcs hshadow hwsel
    exact ⟨_, hfilled, rfl, rfl, hmem⟩
  case drain =>
    rw [productDrain_set hproducts hadd hsat]
    refine ⟨?_, fun i hi => smGet_putBytes_in 0 _ _ _ i (by rw [f32Bytes_length]; exact hi),
      fun k hk => smGet_putBytes_out 0 _ _ _ k (by rw [f32Bytes_length]; exact hk), rfl⟩
    rw [writeStore_products, tileOf_modTile_same, hproducts]
    rfl
  case convert =>
    have hsrc := readF32s_of_mem (begun_mem t a.conds s.w) t a.src.toNat a.n
    rw [convert_code htry hcs hready hfmt, convertRun_wide hwide (by rw [hsrc]; exact hfinite), hsrc]
    refine ⟨fun i hi => smGet_putBytes_in 0 _ _ _ i hi, fun k hk => (smGet_putBytes_out 0 _ _ _ k hk).trans ?_⟩
    rw [schedRead_mem, begun_mem]

end Sys2Proof.Machine
end

section
/-! SUPPORT. Format control (R143 to R153): what the start of a change leaves alone, and when waiting changes get their boundary. -/

namespace Sys2Proof.Machine

open Sys2Proof

/-! ## The start of a change (R143) -/

theorem writeCtx_frame (g : Rung) (m : LayerMap) (f : Nat) (b : Bool) (c : CtxMap) (w : W9) :
    writeCtx g m f b c w = { w with page := (writeCtx g m f b c w).page } := by
  unfold writeCtx
  split <;> rfl

/-- Writing a bank of contexts writes control pages and no more. -/
theorem writeBank_frame (ch : List (LayerIx × Nat)) (w : W9) : writeBank ch w = { w with page := (writeBank ch w).page } := by
  unfold writeBank
  split
  case h_2 => rfl
  refine forEach_keeps (fun v => v = { w with page := v.page }) _ (fun c v hv => ?_) _ _ rfl
  dsimp only
  split
  · rw [writeCtx_frame, hv]
  · exact hv

/-- A change starts: CHANGE_PENDING is set, a bank of contexts is written, and the change is noted. -/
theorem startChange_eq (boundary : Nat) (byPair : Bool) (ch : List (LayerIx × Nat)) (w : W9) : startChange boundary byPair ch w =
    { wrB Reg.precStatus 2 true w with
      page := (writeBank ch w).page
      prec := { w.prec with change := some ⟨boundary, byPair, ch, false⟩ } } := by
  rw [startChange, writeBank_frame]
  rfl

theorem changePending_wrB (b : Bool) (w : W9) : changePending (wrB Reg.precStatus 2 b w) = b := rdB_wrB_same _ _ _ _ (by decide)

theorem startChange_bar0 (boundary : Nat) (byPair : Bool) (ch : List (LayerIx × Nat)) (w : W9) :
    (startChange boundary byPair ch w).bar0 = (wrB Reg.precStatus 2 true w).bar0 := by rw [startChange_eq]

theorem changePending_startChange (boundary : Nat) (byPair : Bool) (ch : List (LayerIx × Nat)) (w : W9) :
    changePending (startChange boundary byPair ch w) = true :=
  (changePending_of_bar0 (startChange_bar0 ..)).trans (changePending_wrB true w)

theorem startChange_prec (boundary : Nat) (byPair : Bool) (ch : List (LayerIx × Nat)) (w : W9) :
    (startChange boundary byPair ch w).prec = { w.prec with change := some ⟨boundary, byPair, ch, false⟩ } := by rw [startChange_eq]

theorem startChange_mem (boundary : Nat) (byPair : Bool) (ch : List (LayerIx × Nat)) (w : W9) :
    (startChange boundary byPair ch w).mem = w.mem := by rw [startChange_eq, wrB_mem]

theorem startChange_serve (boundary : Nat) (byPair : Bool) (ch : List (LayerIx × Nat)) (w : W9) :
    (startChange boundary byPair ch w).serve = w.serve := by rw [startChange_eq, wrB_serve]

theorem startChange_pair (boundary : Nat) (byPair : Bool) (ch : List (LayerIx × Nat)) (w : W9) :
    (startChange boundary byPair ch w).pair = w.pair := by rw [startChange_eq, wrB_pair]

/-! ## Waiting changes get their boundary (R143, R415) -/

/-- With nothing waiting there is nothing to commit. -/
theorem commitNow_nil {w : W9} (hwaiting : w.prec.waiting = []) : commitNow w = w := by
  simp [commitNow, commitWaiting, hwaiting]

theorem commitNow_solo {w : W9} (hpaired : paired w = false) (hpending : changePending w = false) (hwaiting : w.prec.waiting ≠ []) :
    commitNow w = startChange (precStep w + 4) false w.prec.waiting { w with prec := { w.prec with waiting := [] } } := by
  simp [commitNow, hpaired, hpending, hwaiting]

/-- Side A holds its waiting changes while one is pending on either side. -/
theorem commitNow_held {w : W9} (hpaired : paired w = true) (hheld : changePending w = true ∨ w.pair.escClear = false) :
    commitNow w = w := by
  have hkept : commitWaiting w = w := by
    rw [commitWaiting, if_pos]
    rcases hheld with h | h <;> simp [h]
  simp [commitNow, hpaired, hkept]

/-- Side A commits: what it sends to side B changes only the wire. -/
theorem commitNow_sideA {w : W9} (hpaired : paired w = true) (hside : sideB w = false) (hpending : changePending w = false)
    (hclear : w.pair.escClear = true) (hwaiting : w.prec.waiting ≠ []) :
    ∃ v : W9, v.prec = { w.prec with waiting := [] } ∧ v.pair = { w.pair with escClear := false } ∧ v.serve = w.serve ∧
      commitNow w = startChange (pairBeat w + tLead w) true w.prec.waiting v := by
  have hcommit : ¬(w.prec.waiting.isEmpty = true ∨ changePending w = true ∨ (!w.pair.escClear) = true) := by
    simp [hpending, hclear, hwaiting]
  obtain ⟨u, hwire, hsent⟩ : ∃ u, OnlyWire w u ∧ commitNow w = startChange (pairBeat w + tLead w) true w.prec.waiting
      { u with prec := { u.prec with waiting := [] }, pair := { u.pair with escClear := false } } := by
    rw [commitNow, if_pos hpaired, if_neg (by simp [hside]), commitWaiting, if_neg hcommit]
    refine ⟨_, forEach_wire _ (fun e v => ?_) _ w, rfl⟩
    split
    · exact sendTwin_wire _ v
    · exact .refl v
  exact ⟨{ u with prec := { u.prec with waiting := [] }, pair := { u.pair with escClear := false } },
    by rw [← hwire.prec], by rw [← hwire.pair], hwire.serve, hsent⟩

end Sys2Proof.Machine
end

section
/-! SUPPORT. Gander's samples, evaluation points, de-escalations and the end of a change (R143 to R152). -/

namespace Sys2Proof.Machine

open Sys2Proof

/-! ## The error of a sample (R148, R149) -/

/-- The error of a sample whose y_n has come, by the weights and activations that the duty tile has. -/
abbrev sampleError (yn acts : List F32) (ws : List (List F32)) : F32 := ganderError yn (ws.map (fun r => vecDot 0 (r.zip acts)))

/-- The W9 once the sample `x` has been taken out and counted. -/
def sampleTaken (x : Sample) (w : W9) : W9 :=
  inc Reg.ganderSamples 1 { w with prec := { w.prec with samples := w.prec.samples.filter (fun y => !(y.layer == x.layer)) } }

theorem ganderErrorCompute_found {l : LayerIx} {x : Sample} {yn : List F32} {w : W9}
    (hx : w.prec.samples.find? (fun x => x.layer == l) = some x) (hyn : x.yn = some yn) (ws : List (List F32)) (acts : List F32) :
    ganderErrorCompute l ws acts w = errorOf x yn ws acts w := by simp only [ganderErrorCompute, hx, hyn]

theorem errorOf_gross {x : Sample} {yn acts : List F32} {ws : List (List F32)}
    (hgross : f32Lt 0x3F000000 (sampleError yn acts ws) = true) (w : W9) :
    errorOf x yn ws acts w = grossSample x (sampleError yn acts ws) (sampleTaken x w) :=
  if_pos hgross

theorem ganderN_sampleTaken (x : Sample) (w : W9) : ganderN (sampleTaken x w) = ganderN w := rdF_inc_ne' _ _ _ _ (by decide)

theorem policyLayers_of_img {w w' : W9} (h : w'.img = w.img) : policyLayers w' = policyLayers w := by
  rw [policyLayers, policyLayers, h]

theorem policyLayers_sampleTaken (x : Sample) (w : W9) : policyLayers (sampleTaken x w) = policyLayers w :=
  policyLayers_of_img (inc_img ..)

theorem layerOf_sampleTaken (x : Sample) (w : W9) (l : LayerIx) : layerOf (sampleTaken x w) l = layerOf w l := by
  rw [sampleTaken, layerOf_inc]
  rfl

theorem errorOf_counted {x : Sample} {yn acts : List F32} {ws : List (List F32)} {w : W9} {m : LayerMap}
    (hsmall : f32Lt 0x3F000000 (sampleError yn acts ws) = false)
    (hm : (policyLayers w).find? (fun m => m.layer == x.layer) = some m) (hon : ganderN w ≠ 0) :
    errorOf x yn ws acts w = addSample m (sampleError yn acts ws) (sampleTaken x w) := by
  have hm' : (policyLayers (sampleTaken x w)).find? (fun m => m.layer == x.layer) = some m := by rwa [policyLayers_sampleTaken]
  have hon' : ganderN (sampleTaken x w) ≠ 0 := by rwa [ganderN_sampleTaken]
  unfold sampleTaken at hm' hon' ⊢
  simp only [errorOf, hsmall, hm', hon', Bool.false_eq_true, if_false]

/-- A gross sample is counted; the report and the two tests it asks for are events. -/
theorem grossSample_events (x : Sample) (e : F32) (w : W9) : OnlyEvents (inc Reg.ganderGross 1 w) (grossSample x e w) :=
  ((raise0_step ..).trans (queueTest_step ..)).trans (queueTest_step ..)

theorem addSample_open {m : LayerMap} {e : F32} {w : W9} (hopen : (layerOf w m.layer).errs.length < 255) :
    addSample m e w = wr (Reg.errWindow m.layer.val) (BitVec.ofNat 32 ((layerOf w m.layer).errs.length + 1))
      (modLayer m.layer (fun x => { x with errs := (layerOf w m.layer).errs ++ [e] }) w) := by
  have hlen : ((layerOf w m.layer).errs ++ [e]).length = (layerOf w m.layer).errs.length + 1 := List.length_append
  rw [addSample, if_neg (by omega), hlen]

/-! ## Evaluation points and de-escalations (R150, R152) -/

/-- A quiet layer's evaluation point restarts the overflow count. -/
theorem evaluate_quiet {m : LayerMap} {w : W9} (hquiet : (layerOf w m.layer).ovf ≤ m.ovfLimit) :
    evaluate m none w = modLayer m.layer (fun x => { x with ovf := 0, evalStep := precStep w }) w := by
  have hcold : ¬ m.ovfLimit < (layerOf w m.layer).ovf := by omega
  simp [evaluate, hcold]

theorem evaluationPoint_due {l : LayerIx} {m : LayerMap} {w : W9} (hm : (policyLayers w).find? (fun m => m.layer == l) = some m)
    (hoff : ganderN w = 0) (hruns : imageRuns w = true) (hdue : (layerOf w l).evalStep + 4096 ≤ precStep w) :
    evaluationPoint l w = evaluate m none w := by
  simp only [evaluationPoint, hm]
  exact if_pos ⟨hoff, hruns, hdue⟩

theorem evaluationPoint_early {l : LayerIx} {m : LayerMap} {w : W9} (hm : (policyLayers w).find? (fun m => m.layer == l) = some m)
    (hearly : precStep w < (layerOf w l).evalStep + 4096) : evaluationPoint l w = w := by
  simp only [evaluationPoint, hm]
  exact if_neg fun ⟨_, _, hdue⟩ => by omega

/-- Solo, a decision is reported, noted for its layer, and waits for its boundary. -/
theorem decideMove_solo {w : W9} (up : Bool) (m : LayerMap) (hpaired : paired w = false) :
    ∃ v, OnlyEvents w v ∧ decideMove up m w =
      commitNow (addWaiting (m.layer, if up then targetRung w m.layer + 1 else targetRung w m.layer - 1)
        (modLayer m.layer (fun x => { x with decided := some (if up then .up else .down) }) v)) := by
  refine ⟨_, raise0_step .., if_neg ?_⟩
  exact Bool.eq_false_iff.mp ((paired_ev (raise0_step ..)).trans hpaired)

theorem precStep_ev {w v : W9} (h : OnlyEvents w v) : precStep v = precStep w :=
  rd64_ev h _ (by decide) (by decide) (by decide) (by decide)

theorem changePending_ev {w v : W9} (h : OnlyEvents w v) : changePending v = changePending w := h.rdB _ _ (by decide) (by decide)

/-- The condition under which DEESCALATION_DECISION moves a layer down (R152). -/
theorem deescalationDecision_due {l : LayerIx} {m : LayerMap} {w : W9} (hm : (policyLayers w).find? (fun m => m.layer == l) = some m)
    (hruns : imageRuns w = true) (hen : escEn w = true) (habove : 0 < targetRung w l)
    (hquiet : (layerOf w l).quietStep + 65536 ≤ precStep w) (hdecided : (layerOf w l).decided ≠ some .down) :
    deescalationDecision l w = decideMove false m w := by
  simp only [deescalationDecision, hm]
  exact if_pos ⟨hruns, hen, habove, hquiet, hdecided⟩

theorem deescalationDecision_early {l : LayerIx} {m : LayerMap} {w : W9} (hm : (policyLayers w).find? (fun m => m.layer == l) = some m)
    (hearly : precStep w < (layerOf w l).quietStep + 65536) : deescalationDecision l w = w := by
  simp only [deescalationDecision, hm]
  exact if_neg fun ⟨_, _, _, hquiet, _⟩ => by omega

/-- A solo de-escalation with nothing pending or waiting fixes its change four steps on (R144, R152). -/
theorem decideMove_down_fixed {w : W9} (m : LayerMap) (hpaired : paired w = false) (hpending : changePending w = false)
    (hwaiting : w.prec.waiting = []) : ∃ v : W9, v.prec.waiting = [] ∧ v.mem = w.mem ∧ v.serve = w.serve ∧
      decideMove false m w = startChange (precStep w + 4) false [(m.layer, targetRung w m.layer - 1)] v := by
  obtain ⟨v, hevents, hmove⟩ := decideMove_solo false m hpaired
  simp only [Bool.false_eq_true, if_false] at hmove
  set u := addWaiting (m.layer, targetRung w m.layer - 1) (modLayer m.layer (fun x => { x with decided := some .down }) v)
  have hbar0 : u.bar0 = v.bar0 := rfl
  have hone : u.prec.waiting = [(m.layer, targetRung w m.layer - 1)] := by
    change v.prec.waiting.filter _ ++ [_] = _
    rw [hevents.prec, hwaiting]
    rfl
  have hsolo := commitNow_solo (((paired_of_bar0 hbar0).trans (paired_ev hevents)).trans hpaired)
    (((changePending_of_bar0 hbar0).trans (changePending_ev hevents)).trans hpending) (by rw [hone]; exact List.cons_ne_nil _ _)
  rw [hone, (precStep_of_bar0 hbar0).trans (precStep_ev hevents)] at hsolo
  exact ⟨{ u with prec := { u.prec with waiting := [] } }, rfl, hevents.mem, hevents.serve, hmove.trans hsolo⟩

/-! ## The end of a change (R143) -/

theorem changeComplete_ends {c : FmtChange} {w : W9} (hc : w.prec.change = some c) (hflipped : c.flipped = true)
    (hleft : oldEpochLeft w = false) (hpaired : paired w = false) (hwaiting : w.prec.waiting = []) :
    changeComplete w = wrB Reg.precStatus 2 false { w with prec := { w.prec with change := none } } := by
  set u := wrB Reg.precStatus 2 false { w with prec := { w.prec with change := none } } with hu
  have hsolo : paired u = false := (paired_of_rd (rd_wrB_ne _ _ _ (by decide))).trans hpaired
  simp only [changeComplete, hc, hflipped, hleft, Bool.not_false, and_self, if_true]
  rw [← hu, hsolo, Bool.false_and, if_neg Bool.false_ne_true]
  exact commitNow_nil hwaiting

theorem changeComplete_unflipped {c : FmtChange} {w : W9} (hc : w.prec.change = some c) (hflipped : c.flipped = false) :
    changeComplete w = w := by simp [changeComplete, hc, hflipped]

/-- Settles O22: a gross sample leaves events (`grossSample_events`), a counted one enters its window (`addSample_open`), a quiet layer's
evaluation point restarts its count (`evaluate_quiet`), and a solo de-escalation gets its boundary at once (`decideMove_down_fixed`). -/
theorem formatsFollowTheSamplesAndSteps : Obligations.FormatsFollowTheSamplesAndSteps := by
  refine ⟨fun s l yn => yields_of_lift (ganderRerun l yn) rfl ⟨?rerun, rfl⟩,
    fun s l ws acts x yn hx hyn => ⟨fun hgross => yields_of_lift (ganderErrorCompute l ws acts) rfl ?gross,
      fun m hsmall hm hon hopen => yields_of_lift (ganderErrorCompute l ws acts) rfl ?counted⟩,
    fun s l m hm hl => ⟨fun hoff hruns hdue hquiet => yields_of_lift (evaluationPoint l) rfl ?evaluation,
      fun hearly => exec_of_lift_same rfl (evaluationPoint_early hm hearly),
      fun hruns hen habove hquiet hdecided hpaired hpending hwaiting => yields_of_lift (deescalationDecision l) rfl ?decision,
      fun hearly => exec_of_lift_same rfl (deescalationDecision_early hm hearly)⟩,
    fun s c hc => ⟨fun hflipped hleft hpaired hwaiting => yields_of_lift changeComplete rfl ?complete,
      fun hflipped => exec_of_lift_same rfl (changeComplete_unflipped hc hflipped)⟩⟩
  case rerun => simp only [ganderRerun, Option.isNone_iff_eq_none]
  case gross =>
    have hevents := grossSample_events x (sampleError yn acts ws) (sampleTaken x s.w)
    rw [ganderErrorCompute_found hx hyn, errorOf_gross hgross]
    refine ⟨?_, ?_, fun y hy => ?_, by rw [hevents.prec]; rfl, by rw [hevents.prec]; rfl,
      by rw [hevents.page, inc_page, sampleTaken, inc_page]⟩
    · rw [hevents.regs _ (by decide) (by decide), rd_inc_same, sampleTaken, rd_inc_ne _ _ (by decide)]
      rfl
    · rw [hevents.regs _ (by decide) (by decide), rd_inc_ne _ _ (by decide), sampleTaken, rd_inc_same]
      rfl
    · rw [hevents.prec] at hy
      simpa using (List.mem_filter.mp hy).2
  case counted =>
    rw [← layerOf_sampleTaken x s.w] at hopen
    rw [ganderErrorCompute_found hx hyn, errorOf_counted hsmall hm hon, addSample_open hopen, layerOf_sampleTaken]
    refine ⟨?_, rd_wr_same .., ?_⟩
    · rw [layerOf_wr, layerOf_modLayer_same]
    · simp only [sampleTaken, inc, modLayer, wr]
  case evaluation =>
    subst hl
    rw [evaluationPoint_due hm hoff hruns hdue, evaluate_quiet hquiet, layerOf_modLayer_same]
    exact ⟨rfl, rfl, rfl, rfl⟩
  case decision =>
    subst hl
    obtain ⟨v, hnone, hmem, hserve, hmove⟩ := decideMove_down_fixed m hpaired hpending hwaiting
    rw [deescalationDecision_due hm hruns hen habove hquiet hdecided, hmove]
    rw [startChange_prec, startChange_mem, startChange_serve]
    exact ⟨rfl, changePending_startChange .., hnone, hmem, hserve⟩
  case complete =>
    rw [changeComplete_ends hc hflipped hleft hpaired hwaiting]
    refine ⟨rfl, changePending_wrB false _, ?_⟩
    simp only [wrB, wrF, wr]

end Sys2Proof.Machine
end

section
/-! SUPPORT. What the W9s of a pair tell each other of format changes, stretches and freezes (R143, R352, R406, R415, R416, R561): a pair
message acts only while this W9 is PAIRED, and only on the side that it is meant for. -/

namespace Sys2Proof.Machine

open Sys2Proof

/-! ## Pair messages -/

/-- A pair message acts on an UP twin port outside TRIPPED. -/
theorem onTwin_acts {p : PortIx} {w : W9} (hup : portUp w p = true) (htwin : isTwinPort w p = true) (htrip : tripDrops w = false)
    (f : W9 → W9) : onTwin p f w = f w := by simp [onTwin, hup, htwin, htrip]

theorem exec_of_lift_eq {c : Instr} {s : State} {f : W9 → W9} {w : W9} (hexec : exec c s = lift f s) (hf : f s.w = w) :
    exec c s = .next { s with w := w } := hexec.trans (congrArg (fun w => Host.Outcome.next (State.mk w s.pending)) hf)

theorem tLead_of_bar0 {w w' : W9} (h : w'.bar0 = w.bar0) : tLead w' = tLead w := by rw [tLead, tLead, beatNs, beatNs, rdF_of_bar0 h]

theorem sideB_of_bar0 {w w' : W9} (h : w'.bar0 = w.bar0) : sideB w' = sideB w := rdB_of_bar0 h _ _

theorem pairBeat_of_bar0 {w w' : W9} (h : w'.bar0 = w.bar0) : pairBeat w' = pairBeat w := by
  rw [pairBeat, pairBeat, paired_of_bar0 h, sideB_of_bar0 h, rd64_of_bar0 h, rd64_of_bar0 h]

/-! ## ESC_REQ (R415, R561) -/

theorem escReqIn_solo {l : LayerIx} {f : BitVec 4} {k : Fin 3} {w : W9} (h : paired w = false) : escReqIn l f k w = w := by
  simp [escReqIn, h]

theorem escReqIn_ignored {l : LayerIx} {f : BitVec 4} {k : Fin 3} {w : W9}
    (h : sideB w = true ∨ (policyLayers w).find? (fun m => m.layer == l) = none) : escReqIn l f k w = w := by
  rcases h with hside | hm
  · simp [escReqIn, hside]
  · simp [escReqIn, hm]

section
variable {l : LayerIx} {f : BitVec 4} {m : LayerMap} {n : Nat} {w : W9} (hpaired : paired w = true) (hside : sideB w = false)
  (hm : (policyLayers w).find? (fun m => m.layer == l) = some m)
include hpaired hside hm

theorem escReqIn_withdrawal : escReqIn l f 2 w = modLayer l (fun x => { x with partnerDown := false }) w := by
  simp [escReqIn, hpaired, hside, hm]

theorem escReqIn_unknown {k : Fin 3} (hk : k ≠ 2) (hn : rungOf m f = none) : escReqIn l f k w = w := by
  simp [escReqIn, hpaired, hside, hm, hk, hn]

theorem escReqIn_escalation (hn : rungOf m f = some n) : escReqIn l f 0 w = commitNow (addWaiting (l, n) w) := by
  simp [escReqIn, hpaired, hside, hm, hn]

/-- A de-escalation that this W9 has not decided is noted. -/
theorem escReqIn_deescalation (hn : rungOf m f = some n) (hdecided : (layerOf w l).decided ≠ some .down) :
    escReqIn l f 1 w = modLayer l (fun x => { x with partnerDown := true }) w := by
  simp [escReqIn, hpaired, hside, hm, hn, hdecided]

end

theorem addWaiting_waiting (e : LayerIx × Nat) (w : W9) :
    (addWaiting e w).prec.waiting = w.prec.waiting.filter (fun x => !(x.1 == e.1)) ++ [e] := rfl

/-- While a change is pending on either side a decision only joins those that wait. -/
theorem commitNow_addWaiting_held {w : W9} (e : LayerIx × Nat) (hpaired : paired w = true)
    (hheld : changePending w = true ∨ w.pair.escClear = false) : commitNow (addWaiting e w) = addWaiting e w :=
  commitNow_held ((paired_of_bar0 (w := w) rfl).trans hpaired) hheld

/-- With none pending, side A gives all that wait the boundary T_lead ahead. -/
theorem commitNow_addWaiting_sideA {w : W9} (e : LayerIx × Nat) (hpaired : paired w = true) (hside : sideB w = false)
    (hpending : changePending w = false) (hclear : w.pair.escClear = true) :
    ∃ v : W9, v.prec = { w.prec with waiting := [] } ∧ v.pair = { w.pair with escClear := false } ∧ v.serve = w.serve ∧
      commitNow (addWaiting e w) = startChange (pairBeat w + tLead w) true (addWaiting e w).prec.waiting v := by
  have hbar0 : (addWaiting e w).bar0 = w.bar0 := rfl
  have hcommit := commitNow_sideA ((paired_of_bar0 hbar0).trans hpaired) ((sideB_of_bar0 hbar0).trans hside)
    ((changePending_of_bar0 hbar0).trans hpending) hclear (by simp [addWaiting_waiting])
  rwa [pairBeat_of_bar0 hbar0, tLead_of_bar0 hbar0] at hcommit

/-! ## ESC_COMMIT and ESC_CLEAR (R415) -/

theorem escCommitIn_ignored {l : LayerIx} {f : BitVec 4} {b : Nat} {w : W9} (h : paired w = false ∨ sideB w = false) :
    escCommitIn l f b w = w := by
  rcases h with h | h <;> simp [escCommitIn, h]

/-- The layers of a change that a commit for the boundary `b` finds: those of a change not yet flipped that has the same boundary. -/
def commitLayers (c : Option FmtChange) (b : Nat) (e : LayerIx × Nat) : List (LayerIx × Nat) := match c with
  | some c => if c.boundary = b ∧ c.flipped = false then c.layers ++ [e] else [e]
  | none => [e]

theorem escCommitIn_ahead {l : LayerIx} {f : BitVec 4} {b n : Nat} {m : LayerMap} {w : W9} (hpaired : paired w = true)
    (hside : sideB w = true) (hahead : pairBeat w < b) (hm : (policyLayers w).find? (fun m => m.layer == l) = some m)
    (hn : rungOf m f = some n) : escCommitIn l f b w = startChange b true (commitLayers w.prec.change b (l, n)) w := by
  have hlate : ¬ b ≤ pairBeat w := by omega
  simp only [escCommitIn, hpaired, hside, hlate, hm, hn, Bool.not_true, Bool.or_self, Bool.false_eq_true, if_false]
  cases w.prec.change with
  | none => rfl
  | some c => by_cases hsame : c.boundary = b ∧ c.flipped = false <;> simp [commitLayers, hsame]

theorem escClearIn_ignored {w : W9} (h : paired w = false ∨ sideB w = true) : escClearIn w = w := by
  rcases h with h | h <;> simp [escClearIn, h]

theorem escClearIn_noted {w : W9} (hpaired : paired w = true) (hside : sideB w = false) (hwaiting : w.prec.waiting = []) :
    escClearIn w = { w with pair := { w.pair with escClear := true } } := by
  simp only [escClearIn, hpaired, hside, Bool.not_true, Bool.or_self, Bool.false_eq_true, if_false]
  exact commitNow_nil hwaiting

/-! ## STRETCH (R406) -/

/-- The first half of `applyStretch`: this W9's own announced stretch takes effect at its pair beat. -/
def ownStretchBegins (w : W9) : W9 := match w.pair.nextStretch with
  | some e =>
    if e.2 ≤ pairBeat w then { w with env := { w.env with stretch := e.1 }, pair := { w.pair with nextStretch := none } } else w
  | none => w

/-- Its second half: the partner's announced stretch takes effect at pair beat `b`. -/
def partnerStretchBegins (b : Nat) (w : W9) : W9 := match w.pair.partnerNext with
  | some e => if e.2 ≤ b then { w with pair := { w.pair with partnerStretch := e.1, partnerNext := none } } else w
  | none => w

theorem applyStretch_eq (w : W9) : applyStretch w = partnerStretchBegins (pairBeat w) (ownStretchBegins w) := rfl

theorem ownStretchBegins_frame (w : W9) : ∃ stretch next, ownStretchBegins w =
    { w with env := { w.env with stretch := stretch }, pair := { w.pair with nextStretch := next } } := by
  unfold ownStretchBegins
  split
  · split
    · exact ⟨_, _, rfl⟩
    · exact ⟨_, _, rfl⟩
  · exact ⟨_, _, rfl⟩

theorem partnerStretchBegins_frame (b : Nat) (w : W9) :
    partnerStretchBegins b w = { w with pair := (partnerStretchBegins b w).pair } := by
  unfold partnerStretchBegins
  split
  · split <;> rfl
  · rfl

theorem partnerStretchBegins_due {b : Nat} {w : W9} {e : Nat × Nat} (he : w.pair.partnerNext = some e) (hdue : e.2 ≤ b) :
    (partnerStretchBegins b w).pair.partnerStretch = e.1 := by simp [partnerStretchBegins, he, hdue]

theorem applyStretch_frame (w : W9) : applyStretch w =
    { w with env := { w.env with stretch := (applyStretch w).env.stretch }, pair := (applyStretch w).pair } := by
  obtain ⟨stretch, next, hown⟩ := ownStretchBegins_frame w
  rw [applyStretch_eq, partnerStretchBegins_frame, hown]

/-- The partner's announced stretch is in force from its first beat on. -/
theorem applyStretch_partner {w : W9} {e : Nat × Nat} (he : w.pair.partnerNext = some e) (hdue : e.2 ≤ pairBeat w) :
    (applyStretch w).pair.partnerStretch = e.1 := by
  obtain ⟨stretch, next, hown⟩ := ownStretchBegins_frame w
  rw [applyStretch_eq]
  exact partnerStretchBegins_due (by rw [hown]; exact he) hdue

theorem stretchIn_solo {c b : Nat} {w : W9} (h : paired w = false) : stretchIn c b w = w := by simp [stretchIn, h]

theorem stretchIn_paired {c b : Nat} {w : W9} (h : paired w = true) : stretchIn c b w =
    { applyStretch w with pair := { (applyStretch w).pair with partnerNext := some (c, b) } } := by simp [stretchIn, h]

/-! ## FREEZE and RESUME (R352, R416) -/

theorem freezeIn_ignored {w : W9} (h : paired w = false ∨ rdB w Reg.dbgStatus 30 = true) : freezeIn w = w := by
  rcases h with h | h <;> simp [freezeIn, h]

theorem freezeIn_due {w : W9} (hpaired : paired w = true) (hrunning : rdB w Reg.dbgStatus 30 = false) :
    freezeIn w = { w with dbg := { w.dbg with freezeDue := true, freezeTwin := !w.dbg.freezeDue } } := by
  simp [freezeIn, hpaired, hrunning]

theorem resumeIn_ignored {t : Nat} {w : W9} (h : paired w = false ∨ rdB w Reg.dbgStatus 30 = false) : resumeIn t w = w := by
  rcases h with h | h <;> simp [resumeIn, h]

/-- A time still ahead on this W9's own clock is kept as it is. -/
theorem resumeIn_ahead {t : Nat} {w : W9} (hpaired : paired w = true) (hfrozen : rdB w Reg.dbgStatus 30 = true)
    (hahead : w.dev.time < ownTime w t) :
    resumeIn t w = { w with dbg := { w.dbg with resumeAt := some (ownTime w t) } } := by
  have hnotPast : ¬ ownTime w t ≤ now w := Nat.not_le.mpr hahead
  have hmax : max (ownTime w t) (now w) = ownTime w t := Nat.max_eq_left (Nat.le_of_lt hahead)
  simp [resumeIn, hpaired, hfrozen, hnotPast, hmax]

/-- Settles O40: each message by the conditions under which it acts; an escalation by whether a change is pending
(`commitNow_addWaiting_held`, `commitNow_addWaiting_sideA`). -/
theorem formatChangesAndPacesAreAgreedByThePair : Obligations.FormatChangesAndPacesAreAgreedByThePair := by
  intro s p hup htwin htrip
  have hacts (f : W9 → W9) : onTwin p f s.w = f s.w := onTwin_acts hup htwin htrip f
  refine ⟨fun hsolo => ⟨fun l f k => ?_, fun l f b => ?_, fun b => ?_, fun c b => ?_, ?_, fun t => ?_⟩, fun hpaired => ?_⟩
  · exact exec_of_lift_same rfl ((hacts _).trans (escReqIn_solo hsolo))
  · exact exec_of_lift_same rfl ((hacts _).trans (escCommitIn_ignored (.inl hsolo)))
  · exact exec_of_lift_same rfl ((hacts _).trans (escClearIn_ignored (.inl hsolo)))
  · exact exec_of_lift_same rfl ((hacts _).trans (stretchIn_solo hsolo))
  · exact exec_of_lift_same rfl ((hacts _).trans (freezeIn_ignored (.inl hsolo)))
  · exact exec_of_lift_same rfl ((hacts _).trans (resumeIn_ignored (.inl hsolo)))
  refine ⟨fun l f k h => exec_of_lift_same rfl ((hacts _).trans (escReqIn_ignored h)), fun l f m hside hm => ?request,
    fun l f b hside => exec_of_lift_same rfl ((hacts _).trans (escCommitIn_ignored (.inr hside))),
    fun l f b m n hside hahead hm hn => yields_of_lift _ rfl ?commit,
    fun b hside => exec_of_lift_same rfl ((hacts _).trans (escClearIn_ignored (.inr hside))),
    fun b hside hwaiting => exec_of_lift_eq rfl ((hacts _).trans (escClearIn_noted hpaired hside hwaiting)),
    fun c b => yields_of_lift _ rfl ?stretch,
    fun h => exec_of_lift_same rfl ((hacts _).trans (freezeIn_ignored (.inr h))),
    fun h => exec_of_lift_eq rfl ((hacts _).trans (freezeIn_due hpaired h)),
    fun t h => exec_of_lift_same rfl ((hacts _).trans (resumeIn_ignored (.inr h))),
    fun t h hahead => exec_of_lift_eq rfl ((hacts _).trans (resumeIn_ahead hpaired h hahead))⟩
  case request =>
    refine ⟨yields_of_lift _ rfl ?withdrawal,
      fun k hk hn => exec_of_lift_same rfl ((hacts _).trans (escReqIn_unknown hpaired hside hm hk hn)),
      fun n hn hheld => exec_of_lift_eq rfl ((hacts _).trans ((escReqIn_escalation hpaired hside hm hn).trans
        (commitNow_addWaiting_held (l, n) hpaired hheld))),
      fun n hn hpending hclear => yields_of_lift _ rfl ?escalation, fun n hn hdecided => yields_of_lift _ rfl ?deescalation⟩
    case withdrawal =>
      rw [hacts, escReqIn_withdrawal hpaired hside hm]
      exact ⟨rfl, layerOf_modLayer_same .., rfl, rfl⟩
    case escalation =>
      obtain ⟨v, hprec, hpair, hserve, hcommit⟩ := commitNow_addWaiting_sideA (l, n) hpaired hside hpending hclear
      rw [hacts, escReqIn_escalation hpaired hside hm hn, hcommit, startChange_prec, startChange_pair, startChange_serve, hprec, hpair]
      exact ⟨rfl, rfl, rfl, changePending_startChange .., rfl, hserve⟩
    case deescalation =>
      rw [hacts, escReqIn_deescalation hpaired hside hm hn hdecided]
      exact ⟨rfl, layerOf_modLayer_same .., rfl, rfl⟩
  case commit =>
    rw [hacts, escCommitIn_ahead hpaired hside hahead hm hn, startChange_prec, startChange_serve]
    exact ⟨changePending_startChange .., rfl, rfl, rfl⟩
  case stretch =>
    rw [hacts, stretchIn_paired hpaired]
    refine ⟨?_, rfl, fun e he hdue => applyStretch_partner he hdue⟩
    rw [applyStretch_frame]

end Sys2Proof.Machine
end

section
/-! SUPPORT. Sends of a tile (R161, R163, R164, R168, R188, R202): toward an open route the packets of an unscheduled send stand, sealed, at
the end of the tile's own router; toward a closed one nothing is sent. -/

namespace Sys2Proof.Machine

open Sys2Proof

/-! ## Parts of a send -/

theorem nextOp_opSeq (t : Tile) (w : W9) : (tileOf (nextOp t w) t).opSeq = (tileOf w t).opSeq + 1 := by rw [nextOp, tileOf_modTile_same]

theorem useCredit_eq (t : Tile) (p : SendArgs) (w : W9) : useCredit t p w = { w with tiles := (useCredit t p w).tiles } := by
  unfold useCredit
  cases p.ring with
  | none => rfl
  | some r =>
    dsimp only
    split <;> rfl

theorem useCredit_opSeq (t : Tile) (p : SendArgs) (w : W9) : (tileOf (useCredit t p w) t).opSeq = (tileOf w t).opSeq := by
  unfold useCredit
  cases p.ring with
  | none => rfl
  | some r =>
    dsimp only
    split
    · rw [tileOf_modTile_same]
    · rfl

/-- A PUT is multicast exactly when its destination is a group. -/
theorem mcast_of_mem_putPackets {t : Tile} {op : BitVec 4} {p : SendArgs} {opSeq : BitVec 32} {sched yx : Bool} {data : List Byte}
    {q : Packet} (hq : q ∈ putPackets t op p opSeq sched yx data) : q.mcast = isGroup p.dest := by
  simp only [putPackets, List.mem_mapIdx] at hq
  obtain ⟨i, hi, rfl⟩ := hq
  rfl

theorem nakNoted_tiles (t : Tile) (responder : BitVec 16) (st op : BitVec 4) (opSeq : BitVec 32) (w : W9) :
    (nakNoted t responder st op opSeq w).tiles = w.tiles := by simp [nakNoted]

theorem nakNoted_routers (t : Tile) (responder : BitVec 16) (st op : BitVec 4) (opSeq : BitVec 32) (w : W9) :
    (nakNoted t responder st op opSeq w).routers = w.routers := by simp [nakNoted]

theorem nakNoted_flag (t : Tile) (responder : BitVec 16) (st op : BitVec 4) (opSeq : BitVec 32) (w : W9) :
    prdB (nakNoted t responder st op opSeq w) t Pg.meshErr (if st = 1 then 3 else 4) = true := by
  rw [nakNoted, prdB_of_prd (prd_raiseT ..)]
  exact prdB_pwrB_same _ _ _ _ _ (by split <;> decide)

/-- Where the reply address is unassigned and no signal is named, a refusal leaves nothing behind. -/
theorem zeroReply_unassigned {t : Tile} {a : LAddr} {n : Nat} (w : W9) (h : dataAssigned (isC t) a.toNat n = false) :
    zeroReply t a n none w = w := by simp [zeroReply, announce, h]

/-! ## GET and the atomics -/

/-- The request of an unscheduled GET or atomic with operation number `opSeq` (R164). -/
def askPacket (t : Tile) (op : BitVec 4) (p : SendArgs) (len : Nat) (payload : List Byte) (opSeq : BitVec 32) (yx : Bool) : Packet :=
  sealPkt { Packet.blank with
    op := op, yx := yx, target := destCode p.dest, source := tileSrc t, signal := p.signal, address := p.address
    length := BitVec.ofNat 16 len, replyAddr := p.src, opSeq := opSeq, payload := payload }

section
variable {t : Tile} {p : SendArgs} {w : W9} (hrow : p.row = none)
include hrow

theorem inTime_of_no_row (w : W9) : inTime w p = false := by rw [inTime, hrow]

theorem askRun_open {yx : Bool} (hroute : routeOf w t p.dest = .inr yx) (op : BitVec 4) (len : Nat) (payload : List Byte) :
    askRun t op p len payload w =
      routerTake t .request .loc (askPacket t op p len payload (tileOf w t).opSeq yx) (nextOp t w) := by
  have hnext : routeOf (nextOp t w) t p.dest = .inr yx := (routeOf_of_bar0 rfl t p.dest).trans hroute
  simp only [askRun, inTime_of_no_row hrow, hrow, hnext, Bool.false_eq_true, if_false]
  rfl

theorem askRun_closed {st : BitVec 4} (hroute : routeOf w t p.dest = .inl st) (op : BitVec 4) (len : Nat) (payload : List Byte) :
    askRun t op p len payload w = zeroReply t p.src (if op = opGet then len else 8) p.signal
      (nakNoted t (tileSrc t) st opReplyStatus (tileOf w t).opSeq (nextOp t w)) := by
  have hnext : routeOf (nextOp t w) t p.dest = .inl st := (routeOf_of_bar0 rfl t p.dest).trans hroute
  simp only [askRun, inTime_of_no_row hrow, hrow, hnext, Bool.false_eq_true, if_false]

/-! ## PUT and PUT-SIGNAL -/

/-- An assigned, error-free source gives its bytes, and reading it changes nothing (R53, R54). -/
theorem putRun_open {yx : Bool} (hroute : routeOf w t p.dest = .inr yx) (hdata : dataAssigned (isC t) p.src.toNat p.len = true)
    (howed : owed w t p.src.toNat p.len = false)
    (hclean : ∀ q ∈ quarters p.src.toNat p.len,
      w.mem.storeUE.contains (storeKey t q) = false ∧ w.mem.storeCE.contains (storeKey t q) = false)
    (op : BitVec 4) : putRun t op p w =
      forEach (putPackets t op p (tileOf w t).opSeq false yx (readStore w t p.src.toNat p.len))
        (fun k w => routerTake t .request .loc k w) (useCredit t p (nextOp t w)) := by
  have hsource : sourceRead t p.src p.len w = w := by rw [sourceRead, if_pos hdata, schedRead_clean t _ _ w howed hclean]
  have hbytes : sourceBytes w t p.src p.len = readStore w t p.src.toNat p.len := by rw [sourceBytes, if_pos hdata]
  have hroute' : routeOf (useCredit t p (nextOp t w)) t p.dest = .inr yx :=
    (routeOf_of_bar0 (by rw [useCredit_eq]; rfl) t p.dest).trans hroute
  simp only [putRun, hsource, hbytes, inTime_of_no_row hrow, hrow, hroute', Bool.false_eq_true, if_false]

end

/-- Settles O16: a send whose bundle issues (`issue_of_ready`) puts its packets at the end of the router (`take_plain`, `takes_plain`), and
one toward a closed route notes the refusal alone. -/
theorem sendsLeaveInTheTilesRouter : Obligations.SendsLeaveInTheTilesRouter := by
  refine ⟨fun s t p yx htry hcs hrow hroute hgroup hupdating => ⟨fun c op len pay hc => ?ask,
      fun hready hcovers hdata howed hclean c op hc => ?put⟩,
    fun s t p st htry hcs hrow hroute hdata hsignal => yields_of_lift (getIssue t p) rfl ?closed⟩
  all_goals generalize hu : begun t p.conds s.w = u
  all_goals obtain ⟨pg, hbegun⟩ : ∃ pg, u = { s.w with page := pg } := ⟨_, hu ▸ begun_eq t p.conds s.w⟩
  all_goals replace hroute := (routeOf_of_bar0 (w' := u) (by rw [hbegun]) t p.dest).trans hroute
  case ask =>
    have hexec : exec c s = lift (issue t p.conds true (askRun t op p len pay)) s := by
      rcases hc with ⟨rfl, rfl, rfl, rfl⟩ | ⟨v, rfl, rfl, rfl, rfl⟩ | ⟨v, x, rfl, rfl, rfl, rfl⟩
      · rfl
      · rfl
      · rfl
    refine yields_of_lift _ hexec ?_
    rw [issue_of_ready htry hcs rfl, hu, askRun_open hrow hroute,
      take_plain t .request _ (nextOp t u) rfl (by rw [hbegun]; exact hupdating)]
    subst hbegun
    exact ⟨_, routerOf_setRouter_same .., rfl, rfl, seal_ok _, rfl, rfl, rfl, rfl, rfl, rfl, rfl, rfl, rfl, rfl, nextOp_opSeq t _, rfl⟩
  case put =>
    have hexec : exec c s = lift (putIssue t op p) s := by
      rcases hc with ⟨rfl, rfl⟩ | ⟨rfl, rfl⟩
      · rfl
      · rfl
    refine yields_of_lift _ hexec ?_
    have hupdating' : updating (useCredit t p (nextOp t u)) t = false :=
      (updating_of_bar0 (w := s.w) (by rw [useCredit_eq, hbegun]; rfl) t).trans hupdating
    have hseq : (tileOf (useCredit t p (nextOp t u)) t).opSeq = (tileOf s.w t).opSeq + 1 := by
      rw [useCredit_opSeq, nextOp_opSeq, hbegun]
      rfl
    obtain ⟨ts, hcredit⟩ : ∃ ts, useCredit t p (nextOp t u) = { s.w with page := pg, tiles := ts } :=
      ⟨_, (useCredit_eq ..).trans (by rw [hbegun]; rfl)⟩
    have hrun : putIssue t op p s.w =
        forEach (putPackets t op p (tileOf s.w t).opSeq false yx (readStore s.w t p.src.toNat p.len))
          (fun k w => routerTake t .request .loc k w) (useCredit t p (nextOp t u)) := by
      rw [putIssue, issue_of_ready htry hcs (by rw [hready, hcovers]; rfl), hu]
      subst hbegun
      exact putRun_open hrow hroute hdata howed hclean op
    obtain ⟨hpkts, r, hrouters⟩ := takes_plain t (putPackets t op p (tileOf s.w t).opSeq false yx (readStore s.w t p.src.toNat p.len))
      (useCredit t p (nextOp t u)) (fun q hq => (mcast_of_mem_putPackets hq).trans hgroup) hupdating'
    rw [hrun]
    refine ⟨hpkts.trans (by rw [hcredit]; rfl), ?_, ?_⟩
    · rw [hrouters]
      exact hseq
    · rw [hrouters, hcredit]
  case closed =>
    rw [getIssue, issue_of_ready htry hcs rfl, hu, askRun_closed hrow hroute, hsignal, if_pos rfl, zeroReply_unassigned _ hdata]
    refine ⟨?_, ?_, ?_, nakNoted_flag ..⟩
    · rw [routerOf, nakNoted_routers, hbegun]
      rfl
    · rw [nakNoted_mem, hbegun]
      rfl
    · rw [nakNoted_counts, ← hu]
      exact congrArg (satAdd32 · 1) (prd_begun p.conds s.w (by decide) (by decide))

end Sys2Proof.Machine
end

section
/-! SUPPORT. Routers and seams (R168, R173, R175 to R177, R186 to R188): what a packet at the local input comes to, what an open slot does
for a router that holds one packet, and how a scheduled packet leaves its seam queue. -/

namespace Sys2Proof.Machine

open Sys2Proof

/-! ## Arrival at the local input (R168) -/

theorem packetArrive_local {t : Tile} {net : Net} {p : Packet} (w : W9) (h : hcrcOk p = true) :
    packetArrive t net .loc p w = routerTake t net .loc p w := by
  rw [packetArrive, h]
  rfl

theorem packetArrive_badHeader {t : Tile} {net : Net} {p : Packet} (w : W9) (h : hcrcOk p = false) :
    packetArrive t net .loc p w = hdrDrop t net .loc w := by
  rw [packetArrive, h]
  rfl

theorem hdrDrop_routers (t : Tile) (net : Net) (w : W9) : (hdrDrop t net .loc w).routers = w.routers := raiseT_routers ..

theorem hdrDrop_mem (t : Tile) (net : Net) (w : W9) : (hdrDrop t net .loc w).mem = w.mem := raiseT_mem ..

theorem hdrDrop_counts (t : Tile) (net : Net) (w : W9) : prd (hdrDrop t net .loc w) t Pg.hdrDrops = satAdd32 (prd w t Pg.hdrDrops) 1 ∧
    prdB (hdrDrop t net .loc w) t Pg.meshErr 2 = true := by
  unfold hdrDrop
  refine ⟨?_, ?_⟩
  · rw [prd_raiseT, prd_pwrB_off _ _ _ (by decide), prd_pinc_same]
    rfl
  · rw [prdB_of_prd (prd_raiseT ..)]
    exact prdB_pwrB_same _ _ _ _ _ (by decide)

theorem outsAt_unicast {t : Tile} {net : Net} {p : Packet} (w : W9) (h : p.mcast = false) : outsAt w t net p =
    [nextOut p.yx (tileX t) (tileY t) (destXY (tileX t) (tileY t) p.target).1 (destXY (tileX t) (tileY t) p.target).2] := by
  rw [outsAt, h]
  rfl

/-! ## Open slots (R186, R187) -/

/-- A lost slot is a matter of the routers and of INJ_WAIT. -/
theorem loseSlot_eq (t : Tile) (net : Net) (o : Out) (i : Option Nat) (w : W9) : ∃ n es,
    loseSlot t net o i w = pinc t Pg.injWait n (setRouter t es w) := ⟨_, _, rfl⟩

/-- Losing a slot counts; no packet goes. -/
theorem loseSlot_pkts (t : Tile) (net : Net) (o : Out) (i : Option Nat) (w : W9) :
    (routerOf (loseSlot t net o i w) t).map (·.pkt) = (routerOf w t).map (·.pkt) := by
  rw [loseSlot, routerOf_pinc, routerOf_setRouter_same]
  refine List.ext_getElem (by simp) fun k hk hk' => ?_
  simp only [List.getElem_map, List.getElem_mapIdx]
  split <;> rfl

/-- The one packet of a router that has not begun to leave holds no output. -/
theorem findIdx?_holding_none {e : BufEntry} {net : Net} {o : Out} (h : e.holds = none) :
    [e].findIdx? (fun x => x.net == net && x.holds == some o) = none := by simp [h]

section
variable {t : Tile} {net : Net} {w : W9} {e : BufEntry} (hsole : routerOf w t = [e])
include hsole

/-- The only packet of a router loses no slot that it starts in. -/
theorem loseSlot_sole_winner (o : Out) : routerOf (loseSlot t net o (some 0) w) t = [e] := by
  rw [loseSlot, routerOf_pinc, routerOf_setRouter_same, hsole]
  simp

theorem pick_sole (pointer : Nat) (hwants : wants e net .land = true) : pick w t net .land pointer = some 0 := by
  rw [pick, hsole]
  simp [hwants, isHead, nextFree]

/-- A packet of no more flits than an open slot carries leaves by its last output, landing, and its copy with it. -/
theorem advance_sole (houts : e.outs = [.land]) (hleft : e.left ≤ 4) : advance t net .land 0 w = setRouter t [] w := by
  have hsent : sendFlits .land e = { e with outs := [], holds := none, left := flitsOf e.pkt } := by
    rw [sendFlits, if_pos (show e.left ≤ slotFlits .land from hleft), houts]
    rfl
  simp only [advance, hsole, List.getElem?_cons_zero, hsent]
  rfl

/-- What an open slot with no packet under way at its output begins with. -/
theorem openSlot_starts (pointer : Fin 8) (hwants : wants e net .land = true) (hfree : e.holds = none) (hlost : e.lost = 0) :
    openSlot t net .land pointer true w = advance t net .land 0 (pinc t Pg.openPackets 1
      (setRouter t [{ e with holds := some .land, left := flitsOf e.pkt, lost := 0 }] (loseSlot t net .land (some 0) w))) := by
  have hunstarved : (isInjection e.inp && decide (64 ≤ e.lost)) = false := by simp [hlost]
  simp only [openSlot, hsole, findIdx?_holding_none hfree, if_true, pick_sole hsole pointer.val hwants, List.getElem?_cons_zero, hunstarved,
    Bool.false_eq_true, if_false]
  rw [loseSlot_sole_winner hsole]
  rfl

theorem openSlot_noRoom (pointer : Fin 8) (hfree : e.holds = none) :
    openSlot t net .land pointer false w = loseSlot t net .land none w := by
  simp only [openSlot, hsole, findIdx?_holding_none hfree, Bool.false_eq_true, if_false]

end

/-! ## Seams (R175 to R177) -/

section
variable {w : W9} {f : FieldIx} {sd : Fin 4} {net : Net} {ex : Bool} {e : SeamEntry} (hhead : seamHead w f sd net ex = some e)
include hhead

theorem seamRelease_due (h : beatCycleOf w f = e.entered + 6) : seamRelease f sd net ex w = dropSeam f e w := by
  simp only [seamRelease, hhead, if_pos h]

theorem seamRelease_waits (h : beatCycleOf w f ≠ e.entered + 6) : seamRelease f sd net ex w = w := by
  simp only [seamRelease, hhead, if_neg h]

end

/-- A late packet goes on unscheduled on VC0 (R177). -/
def latePkt (p : Packet) : Packet := sealPkt { p with sched := false, yx := false }

/-- A late packet goes behind the others of its queue. -/
def requeueLate (f : FieldIx) (e : SeamEntry) (w : W9) : W9 :=
  modField f (fun s => { s with seams := s.seams.erase e ++ [{ e with pkt := latePkt e.pkt }] }) w

/-- The slot-table row that a field's beat cycle stands at. -/
def slotRow (w : W9) (f : FieldIx) : Nat := beatCycleOf w f % max 1 (rdF w (Reg.slotLen f.val) 12 0)

theorem seamLate_eq {w : W9} {f : FieldIx} {sd : Fin 4} {net : Net} {ex : Bool} {e : SeamEntry}
    (hhead : seamHead w f sd net ex = some e) : seamLate f sd net ex w =
      trap chkSlot true (srcField f) f 0 (BitVec.ofNat 8 sd.val) (BitVec.ofNat 16 (slotRow w f))
        (raise0 0x3021 (srcField f) ([BitVec.ofNat 8 sd.val, 0] ++ le 2 (slotRow w f))
          (inc (Reg.seamLateCount f.val) 1 (requeueLate f e w))) := by
  simp only [seamLate, hhead]
  rfl

/-- A check that fires counts in DBG_COUNT and DBG_OVF and raises events. -/
theorem rd_trap {off : Nat} (c : Fin 5) (always : Bool) (src : BitVec 16) (f : FieldIx) (a : LAddr) (u : Byte) (x : BitVec 16) (w : W9)
    (hcount : off ≠ Reg.dbgCount c.val) (hovf : off ≠ Reg.dbgOvf) (hlost : off ≠ Reg.evtLost) (herr : off ≠ Reg.hostifErr) :
    rd (trap c always src f a u x w) off = rd w off := by
  have hkept : ∀ v : W9, rd v off = rd (inc (Reg.dbgCount c.val) 1 w) off → rd v off = rd w off :=
    fun v h => h.trans (rd_inc_ne 1 w hcount)
  have hraise : ∀ code source det v, rd (raise0 code source det v) off = rd v off := fun _ _ _ v => rd_raise0 _ _ _ v hlost herr
  unfold trap
  split
  · dsimp only
    split
    case isTrue hroom => split <;> exact (hraise ..).trans (hkept _ rfl)
    case isFalse hfull => split <;> exact (hraise ..).trans (hkept _ ((hraise ..).trans (rd_inc_ne _ _ hovf)))
  · rfl

/-- Settles O18: a packet at the local input is dropped or taken whole (`take_plain`), an open slot sends the only packet of a router or
leaves it (`openSlot_starts`, `advance_sole`, `loseSlot_pkts`), and a seam gives up its oldest scheduled packet. -/
theorem routersDropHoldAndForward : Obligations.RoutersDropHoldAndForward := by
  refine ⟨fun s t net p row => ⟨fun hbad => yields_of_lift (packetArrive t net .loc p) rfl ?bad,
      fun hok hmcast hupdating => yields_of_lift (packetArrive t net .loc p) rfl ?kept⟩,
    fun s t net p ptr hlen hsched hsole => ⟨yields_of_lift (openSlot t net .land ptr true) rfl ?sent,
      yields_of_lift (openSlot t net .land ptr false) rfl ?stays⟩,
    fun s f sd net ex e hhead => ⟨fun hdue => yields_of_lift (seamRelease f sd net ex) rfl ?released,
      fun hearly => exec_of_lift_same rfl (seamRelease_waits hhead hearly), yields_of_lift (seamLate f sd net ex) rfl ?late⟩⟩
  case bad =>
    rw [packetArrive_badHeader _ hbad]
    exact ⟨hdrDrop_routers .., hdrDrop_mem .., hdrDrop_counts ..⟩
  case kept =>
    rw [packetArrive_local _ hok, take_plain t net p s.w hmcast hupdating, outsAt_unicast _ hmcast]
    exact ⟨⟨flitsOf p, routerOf_setRouter_same ..⟩, fun u hu => routerOf_setRouter_ne _ _ hu, rfl⟩
  case sent =>
    have hwants : wants ⟨net, .loc, p, [.land], none, 1, 0⟩ net .land = true := by simp [wants, hsched]
    have hflits : flitsOf p ≤ 4 := by rw [flitsOf, if_pos hlen]; decide
    obtain ⟨n, es, hlose⟩ := loseSlot_eq t net .land (some 0) s.w
    rw [openSlot_starts hsole ptr hwants rfl rfl, advance_sole ((routerOf_pinc ..).trans (routerOf_setRouter_same ..)) rfl hflits, hlose]
    refine ⟨routerOf_setRouter_same .., ?_, fun u hu => ?_, ?_, ?_, ?_⟩
    · rw [prd_setRouter, prd_pinc_same, prd_setRouter, prd_pinc_off _ _ (by decide), prd_setRouter]
    · simp only [routerOf_pinc, routerOf_setRouter_ne _ _ hu]
    · simp only [setRouter_mem, pinc_mem]
    · simp only [setRouter_tiles, pinc_tiles]
    · simp only [setRouter_fields, pinc_fields]
  case stays =>
    obtain ⟨n, es, hlose⟩ := loseSlot_eq t net .land none s.w
    rw [openSlot_noRoom hsole ptr rfl]
    refine ⟨?_, ?_, ?_⟩
    · rw [loseSlot_pkts, hsole]
      rfl
    · rw [hlose, pinc_mem, setRouter_mem]
    · rw [hlose, pinc_fields, setRouter_fields]
  case released =>
    rw [seamRelease_due hhead hdue]
    exact ⟨by rw [dropSeam, fieldState_modField_same], fun g hg => fieldState_modField_ne _ _ hg, rfl⟩
  case late =>
    have hf := f.isLt
    have hcounter : 0x1000000 ≤ Reg.seamLateCount f.val ∧ Reg.seamLateCount f.val < 0x4000000 := by
      simp only [Reg.seamLateCount]
      omega
    have hne : ∀ off, off < 0x1000000 ∨ 0x4000000 ≤ off → Reg.seamLateCount f.val ≠ off := fun off hoff => by omega
    rw [seamLate_eq hhead]
    refine ⟨⟨latePkt e.pkt, ?_, rfl, rfl, seal_ok _, rfl, rfl⟩, ?_, ?_, ?_⟩
    · rw [fieldState_trap, fieldState_raise0, fieldState_inc, requeueLate, fieldState_modField_same]
    · rw [rd_trap _ _ _ _ _ _ _ _ (hne _ (by decide)) (hne _ (by decide)) (hne _ (by decide)) (hne _ (by decide)),
        rd_raise0 _ _ _ _ (hne _ (by decide)) (hne _ (by decide)), rd_inc_same]
      rfl
    · rw [trap_mem, raise0_mem]
      rfl
    · rw [trap_routers, raise0_routers]
      rfl

end Sys2Proof.Machine
end

section
/-! SUPPORT. Ring credits (R196 to R199, R202): what a producer wants, what the ring's tile grants, and what the producer may send. -/

namespace Sys2Proof.Machine

open Sys2Proof

/-! ## Replies of a ring's tile -/

theorem routerTake_tiles (t : Tile) (net : Net) (inp : Inp) (p : Packet) (w : W9) : (routerTake t net inp p w).tiles = w.tiles := by
  unfold routerTake
  split
  · rw [mcastDrop, raiseT_tiles, pwrB_tiles, pinc_tiles]
  split
  · rw [holdStray, raise0_tiles, inc_tiles, setRouter_tiles]
  split
  · rfl
  · rfl

theorem sendReply_tiles (t : Tile) (p : Packet) (w : W9) : (sendReply t p w).tiles = w.tiles := by
  unfold sendReply
  split
  · rfl
  · exact routerTake_tiles ..

/-- A credit packet changes no memory, no register of a page and no tile's state. -/
theorem sendReply_grantPacket (t : Tile) (r : RingIx) (producer : BitVec 16) (k : Nat) (st : BitVec 4) (w : W9) :
    (sendReply t (grantPacket t r producer k st) w).mem = w.mem ∧ (sendReply t (grantPacket t r producer k st) w).page = w.page ∧
      (sendReply t (grantPacket t r producer k st) w).tiles = w.tiles := by
  obtain ⟨hmem, hpage⟩ := reply_frame t (grantPacket t r producer k st) w rfl
  exact ⟨hmem, hpage, sendReply_tiles ..⟩

/-! ## Wants (R196, R197) -/

theorem wantOf_of_tiles {w w' : W9} (h : w'.tiles = w.tiles) (t : Tile) (r : RingIx) (j : Nat) : wantOf w' t r j = wantOf w t r j := by
  rw [wantOf, tileOf, h, wantOf, tileOf]

theorem wantOf_setWant (t : Tile) (r : RingIx) (j k : Nat) (w : W9) : wantOf (setWant t r j k w) t r j = k := by
  rw [wantOf, setWant, tileOf_pwrB, tileOf_modTile_same]
  exact smGet_smPut_same ..

theorem prdB_setWant (t : Tile) (r : RingIx) {j : Nat} (k : Nat) (w : W9) (hj : j < 4) :
    prdB (setWant t r j k w) t (Pg.ringCredit r.val) (23 + j) = decide (0 < k) := prdB_pwrB_same _ _ _ _ _ (by omega)

/-- The WANT bits stand above GRANTED (Table 5.10). -/
theorem granted_setWant (t : Tile) (r : RingIx) {j : Nat} (k : Nat) (w : W9) (hj : j < 4) :
    prdF (setWant t r j k w) t (Pg.ringCredit r.val) 22 0 = prdF w t (Pg.ringCredit r.val) 22 0 :=
  (prdF_pwrF_ne _ _ _ _ _ _ _ _ (le_refl _) (by decide) (by omega)).trans (prdF_of_prd (prd_modTile ..) ..)

section
variable {t : Tile} {r : RingIx} {producer : BitVec 16} {k : Nat} {w : W9}

theorem creditReq_recorded {j : Nat} (hj : producerIx w t r producer = some j) (hk : k ≤ ringSize w t r) :
    creditReq t r producer k w = setWant t r j k w := by simp only [creditReq, hj, if_pos hk]

theorem creditReq_refused (h : producerIx w t r producer = none ∨ ringSize w t r < k) :
    creditReq t r producer k w = creditReq.refuse t r producer k w := by
  unfold creditReq
  cases hj : producerIx w t r producer with
  | none => rfl
  | some j =>
    have hk : ringSize w t r < k := h.resolve_left (by simp [hj])
    exact if_neg (Nat.not_le.mpr hk)

end

theorem refuse_counts (t : Tile) (r : RingIx) (producer : BitVec 16) (k : Nat) (w : W9) :
    prd (creditReq.refuse t r producer k w) t Pg.creditReject = satAdd32 (prd w t Pg.creditReject) 1 ∧
      prdB (creditReq.refuse t r producer k w) t Pg.meshErr 5 = true ∧ (creditReq.refuse t r producer k w).mem = w.mem := by
  unfold creditReq.refuse
  obtain ⟨hmem, hpage, -⟩ := sendReply_grantPacket t r producer 0 1
    (raiseT t 0x3040 ([BitVec.ofNat 8 r.val, 0] ++ le 2 producer.toNat ++ le 4 k)
      (pwrB t Pg.meshErr 5 true (pinc t Pg.creditReject 1 w)))
  refine ⟨?_, ?_, ?_⟩
  · rw [prd_of_page hpage, prd_raiseT, prd_pwrB_off _ _ _ (by decide), prd_pinc_same]
  · rw [prdB_of_prd (prd_of_page hpage t _), prdB_of_prd (prd_raiseT ..)]
    exact prdB_pwrB_same _ _ _ _ _ (by decide)
  · rw [hmem, raiseT_mem, pwrB_mem, pinc_mem]

/-! ## Grants (R198) -/

/-- The entry `j` of a ring is granted `k` bytes, and is the one served last. -/
def granted (t : Tile) (r : RingIx) (j k : Nat) (w : W9) : W9 :=
  modTile t (fun s => { s with servedLast := smPut (fun _ => 0) s.servedLast r.val (j + 1) })
    (setWant t r j 0 (pwrF t (Pg.ringCredit r.val) 22 0 (prdF w t (Pg.ringCredit r.val) 22 0 + k) w))

theorem wantOf_granted (t : Tile) (r : RingIx) (j k : Nat) (w : W9) : wantOf (granted t r j k w) t r j = 0 := by
  refine Eq.trans ?_ (wantOf_setWant t r j 0 (pwrF t (Pg.ringCredit r.val) 22 0 (prdF w t (Pg.ringCredit r.val) 22 0 + k) w))
  rw [wantOf, granted, tileOf_modTile_same]
  rfl

theorem prdB_granted (t : Tile) (r : RingIx) {j : Nat} (k : Nat) (w : W9) (hj : j < 4) :
    prdB (granted t r j k w) t (Pg.ringCredit r.val) (23 + j) = false :=
  (prdB_of_prd (prd_modTile ..) _).trans (prdB_setWant t r 0 _ hj)

theorem prdF_granted (t : Tile) (r : RingIx) {j : Nat} (k : Nat) (w : W9) (hj : j < 4) :
    prdF (granted t r j k w) t (Pg.ringCredit r.val) 22 0 = (prdF w t (Pg.ringCredit r.val) 22 0 + k) % 2 ^ 23 := by
  rw [granted, prdF_of_prd (prd_modTile ..), granted_setWant t r 0 _ hj, prdF_pwrF_same _ _ _ _ _ _ (by decide) (by decide)]

section
variable {t : Tile} {r : RingIx} {w : W9}

theorem creditGrant_idle (h : nextWant w t r = none) : creditGrant t r w = w := by simp only [creditGrant, h]

variable {j : Nat} (hj : nextWant w t r = some j)
include hj

theorem creditGrant_waits (h : ringFree w t r < wantOf w t r j + prdF w t (Pg.ringCredit r.val) 22 0) : creditGrant t r w = w := by
  simp only [creditGrant, hj, if_neg (Nat.not_le.mpr h)]

theorem creditGrant_covered (h : wantOf w t r j + prdF w t (Pg.ringCredit r.val) 22 0 ≤ ringFree w t r) : ∃ producer,
    creditGrant t r w = sendReply t (grantPacket t r producer (wantOf w t r j) 0) (granted t r j (wantOf w t r j) w) := by
  simp only [creditGrant, hj, if_pos h]
  exact ⟨_, rfl⟩

end

/-! ## What a producer may send (R199, R202) -/

theorem creditOf_grantReceive (producer target : Tile) (r : RingIx) (k : Nat) (d : Dest) (q : RingIx) (w : W9) :
    creditOf (grantReceive producer target r k 0 w) producer d q =
      if creditKey d q = creditKey (.unit (tileSrc target)) r then creditOf w producer (.unit (tileSrc target)) r + k
      else creditOf w producer d q := by
  rw [creditOf, grantReceive, if_pos rfl, tileOf_modTile_same]
  exact smGet_smPut ..

theorem grantReceive_refused {producer target : Tile} {r : RingIx} {k : Nat} {st : BitVec 4} (w : W9) (h : st ≠ 0) :
    grantReceive producer target r k st w = nakNoted producer (tileSrc target) st opCreditGrant 0 w := by rw [grantReceive, if_neg h]

/-- Settles O20: a want is recorded or refused, a grant is given when the ring covers it (`granted`), and a producer's credit grows by what
it was granted. -/
theorem creditsAreGrantedWithinTheRing : Obligations.CreditsAreGrantedWithinTheRing := by
  refine ⟨fun s t r producer k => ⟨fun j hj hj4 hk => yields_of_lift (creditReq t r producer k) rfl ?wanted,
      fun h => yields_of_lift (creditReq t r producer k) rfl ?refused⟩,
    fun s t r => ⟨fun hnone => exec_of_lift_same rfl (creditGrant_idle hnone), fun j hj hj4 =>
      ⟨fun hshort => exec_of_lift_same rfl (creditGrant_waits hj hshort),
        fun hcovered => yields_of_lift (creditGrant t r) rfl ?given⟩⟩,
    fun s producer target r k st => ⟨fun hst => yields_of_lift (grantReceive producer target r k st) rfl ?received,
      fun hst => yields_of_lift (grantReceive producer target r k st) rfl ?noted⟩⟩
  case wanted =>
    rw [creditReq_recorded hj hk]
    exact ⟨wantOf_setWant .., prdB_setWant t r k s.w hj4, rfl⟩
  case refused =>
    rw [creditReq_refused h]
    exact refuse_counts ..
  case given =>
    obtain ⟨producer, hgrant⟩ := creditGrant_covered hj hcovered
    obtain ⟨hmem, hpage, htiles⟩ := sendReply_grantPacket t r producer (wantOf s.w t r j) 0 (granted t r j (wantOf s.w t r j) s.w)
    have hprd := prd_of_page hpage t (Pg.ringCredit r.val)
    rw [hgrant, wantOf_of_tiles htiles, wantOf_granted, prdB_of_prd hprd, prdB_granted t r _ _ hj4,
      prdF_of_prd hprd, prdF_granted t r _ _ hj4]
    exact ⟨rfl, rfl, rfl, hmem⟩
  case received =>
    subst hst
    refine ⟨?_, fun d q hne => ?_, rfl⟩
    · rw [creditOf_grantReceive, if_pos rfl]
    · rw [creditOf_grantReceive, if_neg hne]
  case noted =>
    rw [grantReceive_refused _ hst]
    exact ⟨nakNoted_counts .., nakNoted_tiles .., nakNoted_mem ..⟩

end Sys2Proof.Machine
end

section
/-! SUPPORT. The attention unit (R209 to R215): what ATTN and AMERGE compute rests on the stores alone, the operation they put in flight is
all they add to their tile beside flags and counts, and a row that sees no key stays empty. -/

namespace Sys2Proof.Machine

open Sys2Proof

/-! ## What is computed from the stores -/

theorem storeW32_of_mem {w w' : W9} (h : w'.mem = w.mem) (t : Tile) (a : Nat) : storeW32 w' t a = storeW32 w t a := by
  rw [storeW32, readStore_of_mem h, storeW32]

theorem attLoad_of_mem {w w' : W9} (h : w'.mem = w.mem) (t : Tile) (a d : Nat) : attLoad w' t a d = attLoad w t a d := by
  rw [attLoad, storeW32_of_mem h, storeW32_of_mem h, readF32s_of_mem h, attLoad]

theorem attLimit_of_mem {w w' : W9} (h : w'.mem = w.mem) (t : Tile) (a : AttnArgs) : attLimit w' t a = attLimit w t a := by
  rw [attLimit, readStore_of_mem h, attLimit]

theorem attVisible_of_mem {w w' : W9} (h : w'.mem = w.mem) (t : Tile) (a : AttnArgs) (limit i b : Nat) (q : List F32) :
    attVisible w' t a limit i b q = attVisible w t a limit i b q := by
  simp only [attVisible, kvEntry, readStore_of_mem h]

theorem attRowRun_of_mem {w w' : W9} (h : w'.mem = w.mem) (t : Tile) (a : AttnArgs) (i : Nat) : attRowRun w' t a i = attRowRun w t a i := by
  simp only [attRowRun, attVisible_of_mem h, attLimit_of_mem h, attLoad_of_mem h, readF32s_of_mem h]

theorem latPad_begun (t u : Tile) (cs : List Cond) (w : W9) (hi lo : Nat) : latPad (begun t cs w) u hi lo = latPad w u hi lo :=
  rdF_of_bar0 (begun_bar0 t cs w) _ _ _

theorem isA1_begun (t : Tile) (cs : List Cond) (w : W9) : isA1 (begun t cs w) = isA1 w := by rw [isA1, begun_dev, isA1]

/-- The operation an ATTN puts in flight: the words of its rows (R210, R212) and its duration (R215). -/
def attnOp (w : W9) (t : Tile) (a : AttnArgs) : AttnOp :=
  ⟨((List.range a.rows).map (fun i => (attRowRun w t a i).1)).zipIdx.flatMap (fun r =>
      if a.final then attOutWords (a.output.toNat + r.2 * 4 * a.d) r.1 else attStateWords (a.state.toNat + r.2 * (64 + 4 * a.d)) r.1),
    attnCycles w t a⟩

theorem attnOp_begun (t : Tile) (cs : List Cond) (w : W9) (a : AttnArgs) : attnOp (begun t cs w) t a = attnOp w t a := by
  simp only [attnOp, attRowRun_of_mem (begun_mem t cs w), attnCycles, exp2Cycles, isA1_begun, latPad_begun]

/-- The operation an AMERGE puts in flight (R214). -/
def amergeOp (w : W9) (t : Tile) (a : AmergeArgs) : AttnOp :=
  ⟨((List.range a.rows).map (fun i => mergeRow (attLoad w t (a.x.toNat + i * (64 + 4 * a.d)) a.d)
      (attLoad w t (a.y.toNat + i * (64 + 4 * a.d)) a.d))).zipIdx.flatMap (fun r =>
        attStateWords (a.y.toNat + r.2 * (64 + 4 * a.d)) r.1 ++ (if a.final then attOutWords (a.output.toNat + r.2 * 4 * a.d) r.1 else [])),
    amergeCycles w t a⟩

theorem amergeOp_begun (t : Tile) (cs : List Cond) (w : W9) (a : AmergeArgs) : amergeOp (begun t cs w) t a = amergeOp w t a := by
  simp only [amergeOp, attLoad_of_mem (begun_mem t cs w), amergeCycles, isA1_begun, latPad_begun]

/-! ## What reads and their flags leave alone -/

/-- Operation `op` joins those in flight on tile `t`. -/
def pushOp (t : Tile) (op : AttnOp) (w : W9) : W9 := modTile t (fun s => { s with attn := s.attn ++ [op] }) w

/-- `v` differs from `w` in nothing that an attention operation of tile `t` is held to keep. -/
structure AttnKept (t : Tile) (w v : W9) : Prop where
  mem : v.mem = w.mem
  attn : (tileOf v t).attn = (tileOf w t).attn
  others : ∀ u, u ≠ t → tileOf v u = tileOf w u
  serve : v.serve = w.serve
  kv : v.kv = w.kv

section

variable {t : Tile} {w v : W9}

theorem AttnKept.ofTiles {v' : W9} (h : AttnKept t w v) (hmem : v'.mem = v.mem) (htiles : v'.tiles = v.tiles) (hserve : v'.serve = v.serve)
    (hkv : v'.kv = v.kv) : AttnKept t w v' := by
  have htile : ∀ u, tileOf v' u = tileOf v u := fun u => by rw [tileOf, htiles, tileOf]
  exact ⟨hmem.trans h.mem, by rw [htile, h.attn], fun u hu => (htile u).trans (h.others u hu), hserve.trans h.serve, hkv.trans h.kv⟩

theorem AttnKept.begun (t : Tile) (cs : List Cond) (w : W9) : AttnKept t w (begun t cs w) :=
  .ofTiles ⟨rfl, rfl, fun _ _ => rfl, rfl, rfl⟩ (begun_mem ..) (begun_tiles ..) (begun_serve ..) (consume_kv ..)

theorem AttnKept.schedRead {a n : Nat} (h : AttnKept t w v) : AttnKept t w (schedRead t a n v) :=
  ⟨(schedRead_mem ..).trans h.mem, (schedRead_attn ..).trans h.attn, fun u hu => (schedRead_other t u hu ..).trans (h.others u hu),
    (schedRead_serve ..).trans h.serve, (schedRead_kv ..).trans h.kv⟩

theorem AttnKept.pinc {off n : Nat} (h : AttnKept t w v) : AttnKept t w (pinc t off n v) := h.ofTiles rfl rfl rfl rfl

theorem AttnKept.pwrB {off i : Nat} {b : Bool} (h : AttnKept t w v) : AttnKept t w (pwrB t off i b v) := h.ofTiles rfl rfl rfl rfl

theorem AttnKept.inc {off n : Nat} (h : AttnKept t w v) : AttnKept t w (inc off n v) := h.ofTiles rfl rfl rfl rfl

theorem AttnKept.raise {c s cs : BitVec 16} {d : List Byte} (h : AttnKept t w v) : AttnKept t w (raise c s cs d v) :=
  h.ofTiles (raise_mem ..) (raise_tiles ..) (raise_serve ..) (raise_kv ..)

theorem AttnKept.ite {c : Prop} [Decidable c] {a b : W9} (ha : AttnKept t w a) (hb : AttnKept t w b) : AttnKept t w (if c then a else b) := by
  split
  · exact ha
  · exact hb

theorem AttnKept.attnReads {a : AttnArgs} (h : AttnKept t w v) : AttnKept t w (attnReads t a v) :=
  have hread := h.schedRead.schedRead.schedRead.schedRead.schedRead.schedRead
  .ite hread.schedRead hread

/-- An operation put in flight where the rest was kept. -/
theorem AttnKept.pushOp (h : AttnKept t w v) (op : AttnOp) : (tileOf (pushOp t op v) t).attn = (tileOf w t).attn ++ [op] ∧
    (pushOp t op v).mem = w.mem ∧ (∀ u, u ≠ t → tileOf (pushOp t op v) u = tileOf w u) ∧ (pushOp t op v).serve = w.serve ∧
    (pushOp t op v).kv = w.kv :=
  ⟨by rw [Machine.pushOp, tileOf_modTile_same, h.attn], h.mem, fun u hu => (tileOf_modTile_ne _ _ hu).trans (h.others u hu), h.serve, h.kv⟩

end

/-! ## ATTN and AMERGE -/

/-- An ATTN that acts on `w` reads, counts and flags, and puts one operation in flight. -/
theorem attnRun_adds {t : Tile} (a : AttnArgs) {w₀ w : W9} (h : AttnKept t w₀ w) :
    ∃ v, AttnKept t w₀ v ∧ attnRun t a w = pushOp t (attnOp w t a) v := by
  have hop : attnOp w t a = ⟨(((List.range a.rows).map (attRowRun w t a)).map (·.1)).zipIdx.flatMap (fun r =>
      if a.final then attOutWords (a.output.toNat + r.2 * 4 * a.d) r.1 else attStateWords (a.state.toNat + r.2 * (64 + 4 * a.d)) r.1),
      attnCycles w t a⟩ := by simp only [attnOp, List.map_map, Function.comp_def]
  rw [hop]
  refine ⟨_, ?_, rfl⟩
  have hcounted := h.attnReads (a := a) |>.pinc (off := Pg.attnBlocks) (n := cdiv a.n 64)
  have hmasked := fun n => AttnKept.ite (c := a.final = true) (hcounted.pinc (off := Pg.attnMaskedRows) (n := n)) hcounted
  refine .ite ?_ (.raise (.inc ?_))
  all_goals exact .ite (.raise (.pwrB (hmasked _).pinc)) (hmasked _)

/-- The same of an AMERGE. -/
theorem amergeRun_adds {t : Tile} (a : AmergeArgs) {w₀ w : W9} (h : AttnKept t w₀ w) :
    ∃ v, AttnKept t w₀ v ∧ amergeRun t a w = pushOp t (amergeOp w t a) v :=
  ⟨_, .ite h.schedRead.schedRead.pinc h.schedRead.schedRead, rfl⟩

theorem attn_ready {t : Tile} {a : AttnArgs} {w : W9} (htry : canTry w t = true) (hcs : a.conds.all (condHolds w t) = true)
    (hquery : readReady w t a.query.toNat (a.rows * 4 * a.d) = true)
    (hstate : a.cont = true → readReady w t a.state.toNat (a.rows * (64 + 4 * a.d)) = true) :
    ∃ v, AttnKept t w v ∧ attn t a w = pushOp t (attnOp w t a) v := by
  have hmore : (readReady w t a.query.toNat (a.rows * 4 * a.d) &&
      (!a.cont || readReady w t a.state.toNat (a.rows * (64 + 4 * a.d)))) = true := by
    cases hcont : a.cont
    · simp [hquery]
    · simp [hquery, hstate hcont]
  rw [attn, issue_of_ready htry hcs hmore, ← attnOp_begun t a.conds w a]
  exact attnRun_adds a (.begun t a.conds w)

theorem amerge_ready {t : Tile} {a : AmergeArgs} {w : W9} (htry : canTry w t = true) (hcs : a.conds.all (condHolds w t) = true)
    (hx : readReady w t a.x.toNat (a.rows * (64 + 4 * a.d)) = true) (hy : readReady w t a.y.toNat (a.rows * (64 + 4 * a.d)) = true) :
    ∃ v, AttnKept t w v ∧ amerge t a w = pushOp t (amergeOp w t a) v := by
  rw [amerge, issue_of_ready htry hcs (by rw [hx, hy]; rfl), ← amergeOp_begun t a.conds w a]
  exact amergeRun_adds a (.begun t a.conds w)

/-! ## Rows that see no key (R209, R212) -/

/-- No position from POS0 on lies at or below the row's limit. -/
theorem attVisible_masked {a : AttnArgs} {limit i : Nat} (h : limit + i / a.g < a.pos0) (w : W9) (t : Tile) (b : Nat) (q : List F32) :
    attVisible w t a limit i b q = [] := by
  rw [attVisible, List.filterMap_eq_nil_iff]
  exact fun j _ => if_neg (by omega)

theorem attRowRun_masked {w : W9} {t : Tile} {a : AttnArgs} {i : Nat} (hcont : a.cont = false)
    (h : attLimit w t a + i / a.g < a.pos0) : (attRowRun w t a i).1 = AttRow.start a.d := by
  simp only [attRowRun, attVisible_masked h, hcont, Bool.false_eq_true, if_false, List.foldl_map, List.map_nil, attBlock]
  exact List.foldl_fixed _

/-- A row with l = 0 divides nothing (R210). -/
theorem attOut_start (d : Nat) : ∀ x ∈ attOut (AttRow.start d), x = 0 := by
  have hzero : f32Lt 0 0 = false := by decide
  intro x hx
  obtain ⟨y, -, rfl⟩ := List.mem_map.mp hx
  rw [AttRow.start, hzero]
  rfl

theorem mergeRow_empty_left {x : AttRow} (y : AttRow) (h : x.m = none) : mergeRow x y = y := by rw [mergeRow, h]

theorem mergeRow_empty_right {x y : AttRow} (hy : y.m = none) (hx : x.m ≠ none) : mergeRow x y = x := by
  obtain ⟨m, hm⟩ := Option.ne_none_iff_exists'.mp hx
  rw [mergeRow, hm, hy]

/-- Settles O23: an operation in flight holds what the stores gave (`attn_ready`, `amerge_ready`), a row without a visible key stays empty
(`attRowRun_masked`), and a completion lands word after word (`landWords_spec`). -/
theorem attentionFoldsVisibleKeys : Obligations.AttentionFoldsVisibleKeys := by
  refine ⟨fun s t a htry hcs hquery hstate => ⟨yields_of_lift (attn t a) rfl ?attn, fun i hcont hlimit => ?masked⟩,
    fun s t a htry hcs hx hy => yields_of_lift (amerge t a) rfl ?amerge,
    fun x y => ⟨mergeRow_empty_left y, mergeRow_empty_right⟩, fun s t op rest hop => yields_of_lift (attnComplete t) rfl ?complete⟩
  case attn =>
    obtain ⟨v, hkept, heq⟩ := attn_ready htry hcs hquery hstate
    obtain ⟨hattn, hrest⟩ := hkept.pushOp (attnOp s.w t a)
    rw [heq]
    exact ⟨⟨_, hattn, rfl, rfl⟩, hrest⟩
  case masked =>
    rw [attRowRun_masked hcont hlimit]
    exact ⟨rfl, attOut_start a.d⟩
  case amerge =>
    obtain ⟨v, hkept, heq⟩ := amerge_ready htry hcs hx hy
    obtain ⟨hattn, hrest⟩ := hkept.pushOp (amergeOp s.w t a)
    rw [heq]
    exact ⟨⟨_, hattn, rfl, rfl⟩, hrest⟩
  case complete =>
    obtain ⟨hlands, hkeeps, hattn, hframe⟩ := landWords_spec t op.writes (modTile t (fun s => { s with attn := s.attn.drop 1 }) s.w)
    simp only [attnComplete, hop]
    refine ⟨?_, hlands, hkeeps, hframe⟩
    rw [hattn, tileOf_modTile_same, hop]
    rfl

end Sys2Proof.Machine
end

section
/-! SUPPORT. Staging (R220, R350): a waiting append stalls its bundle, and in native debug mode a stall that the detector watches for is
recorded in the debug FIFO. -/

namespace Sys2Proof.Machine

open Sys2Proof

/-- What a command whose arm lifts `f` completes with is what `f` makes of the W9. -/
theorem lifted_of_yields {c : Instr} {s : State} {f : W9 → W9} {P : W9 → Prop} (hexec : exec c s = lift f s) (h : Yields c s P) :
    P (f s.w) := by
  obtain ⟨w', hw', hP⟩ := h
  have heq : f s.w = w' := congrArg State.w (Host.Outcome.next.inj (hexec.symm.trans hw'))
  rwa [heq]

/-- Where a firing check finds room in the FIFO, its record enters (R350). -/
theorem trap_fifo {c : Fin 5} {w : W9} (hdebug : debugOn w = true) (hnative : compatOn w = false) (hwatch : rdB w Reg.dbgCtrl c.val = true)
    (hroom : w.dbg.fifo.length < 64) (src : BitVec 16) (f : FieldIx) (addr : LAddr) (unit : Byte) (other : BitVec 16) :
    (trap c false src f addr unit other w).dbg.fifo.length = w.dbg.fifo.length + 1 := by
  have hfires : (debugOn w && (false || !compatOn w) && rdB w Reg.dbgCtrl c.val) = true := by rw [hdebug, hnative, hwatch]; rfl
  simp only [trap, hfires, if_true, inc_dbg, hroom]
  split <;> simp only [raise0_dbg, List.length_append, List.length_singleton]

theorem canTry_of_status {w w' : W9} {t : Tile} (hstatus : prd w' t Pg.tileStatus = prd w t Pg.tileStatus) (hdev : w'.dev = w.dev)
    (htiles : w'.tiles = w.tiles) : canTry w' t = canTry w t := by
  have htile : tileOf w' t = tileOf w t := by rw [tileOf, htiles, tileOf]
  rw [canTry, running, idling, prdB, prdB, prdB, hstatus, now, hdev, htile]
  rfl

/-- An append that waits counts its cycle and is held (R220). -/
theorem stagingAppend_waits {t : Tile} {x : StreamIx} {l : LayerIx} {pos : Nat} (kv : List Byte) {w : W9} (htry : canTry w t = true)
    (hbusy : stageFree (stageSlot (stagingOf w t x l) (pos / 64)) (pos / 64) = false) :
    stagingAppend t x l pos kv w = holdBundle t (pinc t Pg.stageWaits 1 w) := by
  have hstill : canTry (pinc t Pg.stageWaits 1 w) t = true :=
    (canTry_of_status (prd_pinc_off 1 w (by decide)) rfl rfl).trans htry
  simp only [stagingAppend, issue, htry, hbusy, hstill, Bool.not_false, Bool.and_self, Bool.false_and, if_true, Bool.false_eq_true, if_false]

/-- In native debug mode, with the STALL check on and room in the FIFO, the waiting append is recorded there (R350). -/
theorem stagingAppend_traps {t : Tile} {x : StreamIx} {l : LayerIx} {pos : Nat} (kv : List Byte) {w : W9} (htry : canTry w t = true)
    (hbusy : stageFree (stageSlot (stagingOf w t x l) (pos / 64)) (pos / 64) = false) (hdebug : debugOn w = true)
    (hnative : compatOn w = false) (hwatch : rdB w Reg.dbgCtrl chkStall.val = true) (hroom : w.dbg.fifo.length < 64) :
    (stagingAppend t x l pos kv w).dbg.fifo.length = w.dbg.fifo.length + 1 := by
  rw [stagingAppend_waits kv htry hbusy]
  have hbar0 : (pwrF t Pg.tileStatus 2 1 1 (pinc t Pg.stallCycles 1 (pinc t Pg.stageWaits 1 w))).bar0 = w.bar0 := by
    simp only [pwrF_bar0, pinc_bar0]
  exact trap_fifo ((rdB_of_bar0 hbar0 _ _).trans hdebug) ((rdB_of_bar0 hbar0 _ _).trans hnative) ((rdB_of_bar0 hbar0 _ _).trans hwatch)
    hroom ..

/-- Such a record is outside the page and the tiles. -/
theorem stagingAppend_ne_frame {t : Tile} {x : StreamIx} {l : LayerIx} {pos : Nat} (kv : List Byte) {w : W9} (htry : canTry w t = true)
    (hbusy : stageFree (stageSlot (stagingOf w t x l) (pos / 64)) (pos / 64) = false) (hdebug : debugOn w = true)
    (hnative : compatOn w = false) (hwatch : rdB w Reg.dbgCtrl chkStall.val = true) (hroom : w.dbg.fifo.length < 64) :
    stagingAppend t x l pos kv w ≠
      { w with page := (stagingAppend t x l pos kv w).page, tiles := (stagingAppend t x l pos kv w).tiles } := by
  intro hframe
  have hrecord := stagingAppend_traps kv htry hbusy hdebug hnative hwatch hroom
  have hkept : (stagingAppend t x l pos kv w).dbg = w.dbg := by rw [hframe]
  rw [hkept] at hrecord
  omega

/-- Tile 0 runs in native debug mode with the STALL check on; of stream 0's layer 0 it holds chunk 0, which is not flushed. -/
def watchedW : W9 := wr Reg.dbgCtrl 4 (wr Reg.imgStatus 0x43 (pwr 0 Pg.tileStatus 1
  (setStaging 0 ⟨0, 0, ⟨some 0, 0, false, []⟩, .none, none⟩ W9.reset)))

theorem watchedW_canTry : canTry watchedW 0 = true := by decide

/-- Position 128 is of chunk 2, whose slot is chunk 0's (R219). -/
theorem watchedW_busy : stageFree (stageSlot (stagingOf watchedW 0 0 0) (128 / 64)) (128 / 64) = false := by
  simp [watchedW, stagingOf, setStaging, stageSlot, stageFree]

theorem watchedW_imgStatus : rd watchedW Reg.imgStatus = 0x43 := by rw [watchedW, rd_wr_ne _ _ (by decide), rd_wr_same]

theorem watchedW_debugOn : debugOn watchedW = true := by rw [debugOn, rdB, watchedW_imgStatus]; decide

theorem watchedW_compatOn : compatOn watchedW = false := by rw [compatOn, rdB, watchedW_imgStatus]; decide

theorem watchedW_stallCheck : rdB watchedW Reg.dbgCtrl chkStall.val = true := by rw [watchedW, rdB, rd_wr_same]; decide

/-- Refutes O24: in `watchedW` the append of position 128 has to wait for chunk 0's flush. The stall is trapped (R350), so a record enters the
debug FIFO, where the statement has nothing but the page and the tiles change. -/
theorem not_stagingAppendsAndFlushes : ¬ Obligations.StagingAppendsAndFlushes := by
  rintro ⟨happend, -, -⟩
  have hwaits := (happend ⟨watchedW, []⟩ 0 0 0 128 [] watchedW_canTry).2 watchedW_busy
  obtain ⟨-, -, hframe⟩ := lifted_of_yields (f := stagingAppend 0 0 0 128 []) rfl hwaits
  exact stagingAppend_ne_frame [] watchedW_canTry watchedW_busy watchedW_debugOn watchedW_compatOn watchedW_stallCheck (by decide) hframe

end Sys2Proof.Machine
end

section
/-! SUPPORT. Key/value blocks (R226, R228, R232, R233): what a changed descriptor leaves alone, what an allocation from covered pages gives, and
the resumption of a held one. -/

namespace Sys2Proof.Machine

open Sys2Proof

/-! ## Keys and registers -/

theorem blockKey_ne {b c : Nat} (s : StreamIx) (h : b ≠ c) : blockKey s b ≠ blockKey s c := by unfold blockKey; omega

/-- Blocks below 8,192 of two streams have different keys. -/
theorem blockKey_ne_of_stream {s t : StreamIx} {b c : Nat} (hne : t ≠ s) (hb : b < 8192) (hc : c < 8192) :
    blockKey t b ≠ blockKey s c := by
  have hval : t.val ≠ s.val := fun h => hne (Fin.ext h)
  unfold blockKey
  omega

/-- The registers of the ports lie above those of the device. -/
theorem OnlyWire.rd_low {w w' : W9} (h : OnlyWire w w') {off : Nat} (hoff : off < 0x2000000) : rd w' off = rd w off :=
  h.regs off fun p => by unfold Reg.txDataFlits; omega

theorem putBlock_serve (s : StreamIx) (b : Nat) (d : Option BlockDesc) (w : W9) : (putBlock s b d w).serve = w.serve :=
  (putBlock_wire s b d w).serve

theorem putBlock_img (s : StreamIx) (b : Nat) (d : Option BlockDesc) (w : W9) : (putBlock s b d w).img = w.img :=
  (putBlock_wire s b d w).img

theorem putBlock_kv (s : StreamIx) (b : Nat) (d : Option BlockDesc) (w : W9) :
    (putBlock s b d w).kv = { w.kv with blocks := smPut (fun _ => none) w.kv.blocks (blockKey s b) d } :=
  (putBlock_wire s b d w).kv

theorem rd_putBlock (s : StreamIx) (b : Nat) (d : Option BlockDesc) (w : W9) {off : Nat} (hoff : off < 0x2000000) :
    rd (putBlock s b d w) off = rd w off := (putBlock_wire s b d w).rd_low hoff

theorem kvFree_setKvFree {n : Nat} (w : W9) (h : n < 2 ^ 32) : kvFree (setKvFree n w) = n := by
  rw [kvFree, setKvFree, rd_wr_same, BitVec.toNat_ofNat, Nat.mod_eq_of_lt h]

theorem kvFree_lt (w : W9) : kvFree w < 2 ^ 32 := (rd w Reg.kvPagesFree).isLt

theorem kvLayers_of_img {w w' : W9} (h : w'.img = w.img) : kvLayers w' = kvLayers w := by rw [kvLayers, h, kvLayers]

/-! ## Allocating -/

theorem allocBlock_blockOf_same (s : StreamIx) (st : BlockState) (b : Nat) (w : W9) : ∃ d, blockOf (allocBlock s st b w) s b = some d ∧
    d.state = st ∧ d.node = none ∧ d.layers &&& 63 = 0 :=
  ⟨_, blockOf_putBlock_same .., rfl, rfl, by rw [freeAddr, BitVec.and_assoc]; simp⟩

theorem allocBlock_blockOf_ne {s t : StreamIx} {b c : Nat} (st : BlockState) (w : W9) (h : blockKey t c ≠ blockKey s b) :
    blockOf (allocBlock s st b w) t c = blockOf w t c := blockOf_putBlock_ne _ _ h

theorem allocBlock_serve (s : StreamIx) (st : BlockState) (b : Nat) (w : W9) : (allocBlock s st b w).serve = w.serve := putBlock_serve ..

theorem allocBlock_img (s : StreamIx) (st : BlockState) (b : Nat) (w : W9) : (allocBlock s st b w).img = w.img := putBlock_img ..

theorem allocBlock_held (s : StreamIx) (st : BlockState) (b : Nat) (w : W9) : (allocBlock s st b w).kv.held = w.kv.held := by
  rw [allocBlock, putBlock_kv]
  rfl

theorem kvFree_allocBlock (s : StreamIx) (st : BlockState) (b : Nat) (w : W9) : kvFree (allocBlock s st b w) = kvFree w - kvLayers w := by
  rw [allocBlock, kvFree, rd_putBlock _ _ _ _ (by decide)]
  exact kvFree_setKvFree _ (Nat.lt_of_le_of_lt (Nat.sub_le ..) (kvFree_lt w))

/-- What allocating blocks `bs` of stream `s` in state `st` makes of `w`. -/
structure Allocated (s : StreamIx) (st : BlockState) (bs : List Nat) (w v : W9) : Prop where
  gained : ∀ b ∈ bs, ∃ d, blockOf v s b = some d ∧ d.state = st ∧ d.node = none ∧ d.layers &&& 63 = 0
  kept : ∀ t c, (∀ b ∈ bs, blockKey t c ≠ blockKey s b) → blockOf v t c = blockOf w t c
  free : kvFree v = kvFree w - bs.length * kvLayers w
  held : v.kv.held = w.kv.held
  serve : v.serve = w.serve

theorem Allocated.nil (s : StreamIx) (st : BlockState) (w : W9) : Allocated s st [] w w :=
  ⟨fun _ h => absurd h List.not_mem_nil, fun _ _ _ => rfl, by simp, rfl, rfl⟩

theorem allocated_forEach (s : StreamIx) (st : BlockState) (bs : List Nat) (w : W9) :
    Allocated s st bs w (forEach bs (allocBlock s st) w) := by
  induction bs generalizing w with
  | nil => exact .nil s st w
  | cons b bs ih =>
    have hrest := ih (allocBlock s st b w)
    have hlayers := kvLayers_of_img (allocBlock_img s st b w)
    refine ⟨fun c hc => ?_, fun t c hc => ?_, ?_, hrest.held.trans (allocBlock_held ..), hrest.serve.trans (allocBlock_serve ..)⟩
    · by_cases hin : c ∈ bs
      · exact hrest.gained c hin
      · obtain rfl : c = b := (List.mem_cons.mp hc).resolve_right hin
        obtain ⟨d, hd, hrules⟩ := allocBlock_blockOf_same s st c w
        exact ⟨d, (hrest.kept s c fun i hi => blockKey_ne s fun h => hin (h ▸ hi)).trans hd, hrules⟩
    · rw [List.forall_mem_cons] at hc
      exact (hrest.kept t c hc.2).trans (allocBlock_blockOf_ne st w hc.1)
    · refine hrest.free.trans ?_
      rw [hlayers, kvFree_allocBlock, List.length_cons, Nat.succ_mul]
      omega

/-- No block is dropped where the pages are there. -/
theorem dropUntil_covered {s : StreamIx} {need : Nat} {w : W9} (h : need ≤ kvAvailable w s) (k : Nat) : dropUntil s need k w = w := by
  cases k with
  | zero => rfl
  | succ k => rw [dropUntil, if_pos (.inl h)]

theorem ensureBlocks_covered {s : StreamIx} {a n : Nat} {w : W9} (h : (missingBlocks w s a n).length * kvLayers w ≤ kvAvailable w s) :
    Allocated s .active (missingBlocks w s a n) w (ensureBlocks s a n w).2 := by
  simp only [ensureBlocks, allocBlocks, dropUntil_covered h, if_pos h]
  split
  next hempty =>
    rw [List.isEmpty_iff.mp hempty]
    exact .nil ..
  · exact allocated_forEach ..

/-! ## ALLOCATION_RESUME (R233) -/

/-- The W9 in which stream `s` holds no allocation. -/
def unheld (s : StreamIx) (w : W9) : W9 := { w with kv := { w.kv with held := w.kv.held.filter (fun x => !(x.1 == s)) } }

theorem not_mem_held_unheld (s : StreamIx) (w : W9) : ∀ h ∈ (unheld s w).kv.held, h.1 ≠ s := by
  intro h hh
  simpa using (List.mem_filter.mp hh).2

theorem allocationResume_none {s : StreamIx} {w : W9} (h : w.kv.held.find? (fun e => e.1 == s) = none) : allocationResume s w = w := by
  simp only [allocationResume, h]

theorem allocationResume_short {s : StreamIx} {w : W9} {e : StreamIx × Nat} (h : w.kv.held.find? (fun e => e.1 == s) = some e)
    (hshort : kvAvailable w s < e.2) : allocationResume s w = w := by
  simp only [allocationResume, h, if_neg (Nat.not_le.mpr hshort)]

/-- A covered allocation is made, and the stream goes on. -/
theorem allocationResume_covered {s : StreamIx} {w : W9} {e : StreamIx × Nat} (h : w.kv.held.find? (fun e => e.1 == s) = some e)
    (hcovered : e.2 ≤ kvAvailable w s)
    (hneed : (missingBlocks w s (heldRange w s).1 (heldRange w s).2).length * kvLayers w ≤ kvAvailable w s) :
    ∃ v, Allocated s .active (missingBlocks w s (heldRange w s).1 (heldRange w s).2) (unheld s w) v ∧
      allocationResume s w = setState s (heldReturn w s) v := by
  have halloc : Allocated s .active (missingBlocks w s (heldRange w s).1 (heldRange w s).2) (unheld s w)
    (ensureBlocks s (heldRange w s).1 (heldRange w s).2 (unheld s w)).2 := ensureBlocks_covered (w := unheld s w) hneed
  have hnone : ((ensureBlocks s (heldRange w s).1 (heldRange w s).2 (unheld s w)).2.kv.held.any (fun x => x.1 == s)) = false := by
    rw [halloc.held, List.any_eq_false]
    exact fun x hx => by simpa using not_mem_held_unheld s w x hx
  have hreturn : heldReturn (ensureBlocks s (heldRange w s).1 (heldRange w s).2 (unheld s w)).2 s = heldReturn w s := by
    rw [heldReturn, halloc.serve, heldReturn]
    rfl
  refine ⟨_, halloc, ?_⟩
  simp only [allocationResume, h, if_pos hcovered]
  rw [← hreturn]
  exact if_neg (Bool.eq_false_iff.mp hnone)

/-- Moving a stream to a state keeps the blocks, the pages and the held allocations. -/
theorem setState_kv (s : StreamIx) (x : StreamState) (w : W9) : (setState s x w).kv = w.kv := (setState_wire s x w).kv

theorem kvFree_setState (s : StreamIx) (x : StreamState) (w : W9) : kvFree (setState s x w) = kvFree w := by
  rw [kvFree, (setState_wire s x w).rd_low (by decide)]
  rfl

end Sys2Proof.Machine
end

section
/-! SUPPORT. The walker of the tree of shared blocks (R236 to R243): the blocks a lookup binds, the node an insertion makes, and what a release
takes back. -/

namespace Sys2Proof.Machine

open Sys2Proof

/-! ## Collisions (R240) -/

/-- The collisions of one match, counted and told. -/
def noteCollisions (s : StreamIx) (h : Nat) (l : List Nat) (w : W9) : W9 := forEach l (fun i w => noteCollision s h i w) w

theorem noteCollisions_kv (s : StreamIx) (h : Nat) (l : List Nat) (w : W9) : (noteCollisions s h l w).kv = w.kv :=
  forEach_frame W9.kv (fun i v => noteCollision s h i v) (fun _ _ => raiseS_kv ..) l w

theorem noteCollisions_serve (s : StreamIx) (h : Nat) (l : List Nat) (w : W9) : (noteCollisions s h l w).serve = w.serve :=
  forEach_frame W9.serve (fun i v => noteCollision s h i v) (fun _ _ => raiseS_serve ..) l w

theorem rd_noteCollisions (s : StreamIx) (h : Nat) (l : List Nat) (w : W9) {off : Nat} (hcount : off ≠ Reg.prefixCollisions)
    (hlost : off ≠ Reg.evtLost) (herr : off ≠ Reg.hostifErr) : rd (noteCollisions s h l w) off = rd w off :=
  forEach_frame (rd · off) _ (fun _ v => ((raiseS_step ..).regs off hlost herr).trans (rd_inc_ne 1 v hcount)) l w

theorem blockOf_of_kv {w w' : W9} (h : w'.kv = w.kv) (s : StreamIx) (b : Nat) : blockOf w' s b = blockOf w s b := by
  rw [blockOf, h, blockOf]

theorem nodeOf_of_nodes {w w' : W9} (h : w'.kv.nodes = w.kv.nodes) (i : Nat) : nodeOf w' i = nodeOf w i := by rw [nodeOf, h, nodeOf]

theorem streamOf_of_serve {w w' : W9} (h : w'.serve = w.serve) (s : StreamIx) : streamOf w' s = streamOf w s := by
  rw [streamOf, h, streamOf]

theorem nodeOf_putBlock (s : StreamIx) (b : Nat) (d : Option BlockDesc) (w : W9) (i : Nat) : nodeOf (putBlock s b d w) i = nodeOf w i :=
  nodeOf_of_nodes (by rw [putBlock_kv]) i

/-! ## PREFIX_LOOKUP (R240, R243) -/

theorem bindNode_serve (s : StreamIx) (b : Nat) (n : PrefixNode) (w : W9) : (bindNode s b n w).serve = w.serve := putBlock_serve ..

theorem bindNode_blockOf_same (s : StreamIx) (b : Nat) (n : PrefixNode) (w : W9) :
    ∃ d, blockOf (bindNode s b n w) s b = some d ∧ d.state = .shared ∧ d.node.isSome = true :=
  ⟨_, blockOf_putBlock_same .., rfl, rfl⟩

theorem bindNode_blockOf_ne {s t : StreamIx} {b c : Nat} (n : PrefixNode) (w : W9) (h : blockKey t c ≠ blockKey s b) :
    blockOf (bindNode s b n w) t c = blockOf w t c := blockOf_putBlock_ne _ _ h

/-- What a walk of at most `k` blocks of stream `s` from block `b` on comes to: the block it stopped at, and the W9. -/
structure Walked (s : StreamIx) (b k : Nat) (w : W9) (r : Nat × W9) : Prop where
  from_le : b ≤ r.1
  le_to : r.1 ≤ b + k
  shared : ∀ c, b ≤ c → c < r.1 → ∃ d, blockOf r.2 s c = some d ∧ d.state = .shared ∧ d.node.isSome = true
  kept : ∀ t c, (∀ i, b ≤ i → i < r.1 → blockKey t c ≠ blockKey s i) → blockOf r.2 t c = blockOf w t c
  serve : r.2.serve = w.serve

theorem Walked.stop {s : StreamIx} {b k : Nat} {w v : W9} (hkv : v.kv = w.kv) (hserve : v.serve = w.serve) : Walked s b k w (b, v) :=
  ⟨le_rfl, Nat.le_add_right .., fun _ h h' => absurd h' (Nat.not_lt.mpr h), fun t c _ => blockOf_of_kv hkv t c, hserve⟩

theorem walked_walkBlocks (s : StreamIx) (root : Fin 256) (k b : Nat) (parent : Option Nat) (ph : Nat) (w : W9) :
    Walked s b k w (walkBlocks s root k b parent ph w) := by
  induction k generalizing b parent ph w with
  | zero => exact .stop rfl rfl
  | succ k ih =>
    rw [walkBlocks]
    split
    next n hn =>
      rw [← noteCollisions]
      generalize hnoted : noteCollisions s _ _ w = u
      have hkv : u.kv = w.kv := hnoted ▸ noteCollisions_kv ..
      have hserve : u.serve = w.serve := hnoted ▸ noteCollisions_serve ..
      obtain ⟨hfrom, hto, hshared, hkept, hrest⟩ := ih (b + 1) (some n.index) (blockHash ph (logTokens w s (256 * b) 256)) (bindNode s b n u)
      refine ⟨by omega, by omega, fun c hc hlt => ?_, fun t c hc => ?_, hrest.trans ((bindNode_serve ..).trans hserve)⟩
      · rcases Nat.eq_or_lt_of_le hc with rfl | hafter
        · obtain ⟨d, hd, hrules⟩ := bindNode_blockOf_same s b n u
          exact ⟨d, (hkept s b fun i hi _ => blockKey_ne s (by omega)).trans hd, hrules⟩
        · exact hshared c hafter hlt
      · rw [hkept t c fun i hi hlt => hc i (by omega) hlt, bindNode_blockOf_ne n u (hc b le_rfl (by omega)), blockOf_of_kv hkv]
    · exact .stop (noteCollisions_kv ..) (noteCollisions_serve ..)

theorem prefixWalk_noRoot {s : StreamIx} {w : W9} (h : findRoot w (rootKey w s) = none) : prefixWalk s w = (0, inc Reg.prefixLookups 1 w) := by
  have hinc : findRoot (inc Reg.prefixLookups 1 w) (rootKey (inc Reg.prefixLookups 1 w) s) = none := by
    rw [← h, rootKey, streamOf_inc, kv8On, rdB_inc_off _ _ _ (by decide), rootKey, kv8On, findRoot, inc_kv, findRoot]
  simp only [prefixWalk, hinc]

theorem walked_prefixWalk (s : StreamIx) (w : W9) : Walked s 0 (((streamOf w s).promptLen - 1) / 256) w (prefixWalk s w) := by
  have hcounted : (inc Reg.prefixLookups 1 w).kv = w.kv := inc_kv ..
  rw [prefixWalk]
  split
  next r hr =>
    obtain ⟨hfrom, hto, hshared, hkept, hserve⟩ := walked_walkBlocks s r.index (((streamOf w s).promptLen - 1) / 256) 0 none r.hash.toNat
      (inc Reg.prefixLookups 1 w)
    exact ⟨hfrom, hto, hshared, fun t c hc => (hkept t c hc).trans (blockOf_of_kv hcounted t c), hserve⟩
  · exact .stop hcounted (inc_serve ..)

theorem prefixLookup_if (s : StreamIx) (w : W9) : prefixLookup s w = if (streamOf w s).state = .admitting ∧ (streamOf w s).lookup = true ∧
    prefixOn w = true ∧ (streamBlocks w s).isEmpty = true then lookupFor s w else w := rfl

theorem lookupFor_eq (s : StreamIx) (w : W9) :
    lookupFor s w = modStream s (fun t => { t with prefixHit := 256 * (prefixWalk s w).1 }) (prefixWalk s w).2 := rfl

/-- Keys that no bound block has are those outside the bound range. -/
theorem Walked.changed {s : StreamIx} {k : Nat} {w : W9} {r : Nat × W9} (h : Walked s 0 k w r) {t : StreamIx} {c : Nat}
    (hchanged : blockOf r.2 t c ≠ blockOf w t c) : blockKey t c < blockKey s r.1 ∧ blockKey s 0 ≤ blockKey t c := by
  by_contra hout
  refine hchanged (h.kept t c fun i _ hi => ?_)
  unfold blockKey at hout ⊢
  omega

/-! ## PREFIX_INSERT (R238, R241) -/

theorem syncRoot_wire (i : Fin 256) (w : W9) : OnlyWire w (syncRoot i w) := by
  unfold syncRoot
  dsimp only
  split
  · exact .refl w
  · split
    · exact writeFar_wire ..
    · exact writeFar_wire ..

theorem countRoot_kv (i : Fin 256) (d : Int) (w : W9) : ∃ rs, (countRoot i d w).kv = { w.kv with roots := rs } :=
  ⟨_, (syncRoot_wire ..).kv⟩

theorem rd_countRoot (i : Fin 256) (d : Int) (w : W9) {off : Nat} (hoff : off < 0x2000000) : rd (countRoot i d w) off = rd w off :=
  (syncRoot_wire ..).rd_low hoff

/-- The node that an insertion makes of a block (R237, R241). -/
def insertedNode (d : BlockDesc) (r : RootEntry) (parent : Option Nat) (h : Nat) (toks : List Word32) (w : W9) : PrefixNode :=
  ⟨w.kv.nextNode, BitVec.ofNat 64 h, parent, toks, d.layers, 1, r.index, now w⟩

section

variable (s : StreamIx) (b : Nat) (d : BlockDesc) (r : RootEntry) (parent : Option Nat) (h : Nat) (toks : List Word32) (w : W9)

theorem createNode_kv : ∃ rs, (createNode s b d r parent h toks w).kv = { w.kv with
    blocks := smPut (fun _ => none) w.kv.blocks (blockKey s b) (some { d with state := .shared, node := some w.kv.nextNode })
    nodes := insertedNode d r parent h toks w :: w.kv.nodes
    nextNode := w.kv.nextNode + 1
    roots := rs } := by
  obtain ⟨rs, hrs⟩ := countRoot_kv r.index 1 { w with kv := { w.kv with
    nodes := insertedNode d r parent h toks w :: w.kv.nodes
    nextNode := w.kv.nextNode + 1
    roots := if (findRoot w r.key).isSome then w.kv.roots else w.kv.roots ++ [r] } }
  refine ⟨rs, ?_⟩
  rw [createNode, putBlock_kv, inc_kv, ← insertedNode, hrs]

theorem createNode_inserts : rd (createNode s b d r parent h toks w) Reg.prefixInserts = satAdd32 (rd w Reg.prefixInserts) 1 := by
  rw [createNode, rd_putBlock _ _ _ _ (by decide), rd_inc_same, rd_countRoot _ _ _ (by decide)]
  rfl

theorem createNode_blockOf_same : blockOf (createNode s b d r parent h toks w) s b =
    some { d with state := .shared, node := some w.kv.nextNode } := blockOf_putBlock_same ..

theorem createNode_blockOf_ne {t : StreamIx} {c : Nat} (hne : blockKey t c ≠ blockKey s b) :
    blockOf (createNode s b d r parent h toks w) t c = blockOf w t c := by
  obtain ⟨rs, hkv⟩ := createNode_kv s b d r parent h toks w
  rw [blockOf, hkv, blockOf, smGet_smPut_ne _ _ _ hne]

end

/-- When the walker may insert block `b` of stream `s`, whose descriptor is `d`. -/
structure Insertable (s : StreamIx) (b : Nat) (d : BlockDesc) (w : W9) : Prop where
  ended : 256 * (b + 1) ≤ (streamOf w s).length
  allowed : (streamOf w s).insert = true
  on : prefixOn w = true
  own : w.pair.shadows.contains s = false
  parent : b = 0 ∨ stateOf (blockOf w s (b - 1)) = .shared
  desc : blockOf w s b = some d
  full : d.state = .full

theorem prefixInsert_insertable {s : StreamIx} {b : Nat} {d : BlockDesc} {w : W9} (h : Insertable s b d w) :
    prefixInsert s b w = insertBlock s b d w := by
  obtain ⟨hended, hallowed, hon, hown, hparent, hdesc, hfull⟩ := h
  have hcan : (decide (b = 0) || decide (stateOf (blockOf w s (b - 1)) = .shared)) = true := by simpa using hparent
  simp only [prefixInsert, hcan, hended, hallowed, hon, hown, hdesc, hfull, Bool.not_false, and_self, if_true]

theorem prefixInsert_not {s : StreamIx} {b : Nat} {w : W9} (h : ∀ d, ¬ Insertable s b d w) : prefixInsert s b w = w := by
  unfold prefixInsert
  dsimp only
  split
  next hmay =>
    obtain ⟨hended, hallowed, hon, hparent, hown⟩ := hmay
    split
    next d hdesc =>
      exact if_neg fun hfull => h d ⟨hended, hallowed, hon, by simpa using hown, by simpa using hparent, hdesc, hfull⟩
    · rfl
  · rfl

theorem insertBlock_noRoot {s : StreamIx} {w : W9} (b : Nat) (d : BlockDesc) (h : rootFor w (rootKey w s) = none) :
    insertBlock s b d w = inc Reg.prefixSkips 1 w := by
  simp only [insertBlock, h]

section

variable {s : StreamIx} {b : Nat} {w : W9} {r : RootEntry}

/-- The tokens of block `b` of a stream. -/
abbrev blockToks (w : W9) (s : StreamIx) (b : Nat) : List Word32 := logTokens w s (256 * b) 256

/-- The hash of block `b` of a stream under root entry `r` (R236). -/
abbrev chainHash (w : W9) (s : StreamIx) (b : Nat) (r : RootEntry) : Nat := blockHash (parentOf w s b r).2 (blockToks w s b)

/-- What block `b` of a stream matches under root entry `r` (R240). -/
abbrev insertMatch (w : W9) (s : StreamIx) (b : Nat) (r : RootEntry) : Option PrefixNode × List Nat :=
  matchBlock w r.index (parentOf w s b r).1 (chainHash w s b r) (blockToks w s b)

theorem insertBlock_matched (d : BlockDesc) (h : rootFor w (rootKey w s) = some r) (hm : (insertMatch w s b r).1 ≠ none) :
    insertBlock s b d w = inc Reg.prefixSkips 1 (noteCollisions s (chainHash w s b r) (insertMatch w s b r).2 w) := by
  simp only [insertBlock, h]
  exact if_pos (Option.isSome_iff_ne_none.mpr hm)

theorem insertBlock_new (d : BlockDesc) (h : rootFor w (rootKey w s) = some r) (hm : (insertMatch w s b r).1 = none) :
    insertBlock s b d w = createNode s b d r (parentOf w s b r).1 (chainHash w s b r) (blockToks w s b)
      (noteCollisions s (chainHash w s b r) (insertMatch w s b r).2 w) := by
  simp only [insertBlock, h]
  exact if_neg fun hsome => Option.isSome_iff_ne_none.mp hsome hm

end

/-! ## PREFIX_RELEASE (R242) -/

theorem releaseNode_serve (s : StreamIx) (i : Nat) (w : W9) : (releaseNode s i w).serve = w.serve := by
  unfold releaseNode
  split
  · split
    · exact raiseS_serve ..
    · rfl
  · rfl

theorem releaseNode_blocks (s : StreamIx) (i : Nat) (w : W9) : (releaseNode s i w).kv.blocks = w.kv.blocks := by
  unfold releaseNode
  split
  · split
    · exact congrArg KvS.blocks (raiseS_kv ..)
    · rfl
  · rfl

/-- A node whose count is lowered by `k`. -/
def lowered (k : Nat) (n : PrefixNode) : PrefixNode := { n with refcount := n.refcount - k }

theorem lowered_zero : lowered 0 = id := rfl

theorem lowered_of_zero (k : Nat) {n : PrefixNode} (h : n.refcount = 0) : lowered k n = n := by
  rw [lowered, h, Nat.zero_sub, ← h]

theorem lowered_lowered (j k : Nat) (n : PrefixNode) : lowered k (lowered j n) = lowered (j + k) n := by
  rw [lowered, lowered, lowered, Nat.sub_sub]

theorem nodeOf_modNode (i j : Nat) (f : PrefixNode → PrefixNode) (hf : ∀ n, (f n).index = n.index) (w : W9) :
    nodeOf (modNode i f w) j = (nodeOf w j).map (fun n => if n.index = i then f n else n) := by
  rw [nodeOf, modNode, List.find?_map, nodeOf]
  congr 2
  funext n
  simp only [Function.comp_apply]
  split
  · rw [hf]
  · rfl

theorem index_of_nodeOf {w : W9} {i : Nat} {n : PrefixNode} (h : nodeOf w i = some n) : n.index = i := by
  simpa using List.find?_some h

/-- A count is lowered by 1 for one binding, and stops at 0 (R242). -/
theorem nodeOf_releaseNode (s : StreamIx) (i j : Nat) (w : W9) :
    nodeOf (releaseNode s i w) j = (nodeOf w j).map (lowered (if i = j then 1 else 0)) := by
  have hsame : ∀ n, nodeOf w i = some n → n.refcount = 0 → nodeOf w j = (nodeOf w j).map (lowered (if i = j then 1 else 0)) := by
    intro n hn hzero
    split
    next h =>
      subst h
      rw [hn, Option.map_some, lowered_of_zero 1 hzero]
    · rw [lowered_zero, Option.map_id_fun, id]
  unfold releaseNode
  split
  next n hn =>
    split
    next hzero => exact (nodeOf_of_nodes (congrArg KvS.nodes (raiseS_kv ..)) j).trans (hsame n hn hzero)
    · refine (nodeOf_modNode i j (lowered 1) (fun _ => rfl) w).trans (Option.map_congr fun x hx => ?_)
      rw [index_of_nodeOf hx]
      by_cases h : i = j
      · rw [if_pos h.symm, if_pos h]
      · rw [if_neg (Ne.symm h), if_neg h, lowered_zero, id]
  next hnone =>
    split
    next h =>
      subst h
      rw [hnone]
      rfl
    · rw [lowered_zero, Option.map_id_fun, id]

/-- One SHARED descriptor goes: its node's count falls, and it is cleared. -/
def releaseEntry (s : StreamIx) (e : Nat × BlockDesc) (w : W9) : W9 :=
  putBlock s e.1 none (match e.2.node with | some i => releaseNode s i w | none => w)

theorem releaseShared_eq (s : StreamIx) (w : W9) :
    releaseShared s w = forEach ((streamBlocks w s).filter (fun e => decide (e.2.state = .shared))) (releaseEntry s) w := rfl

theorem releaseEntry_serve (s : StreamIx) (e : Nat × BlockDesc) (w : W9) : (releaseEntry s e w).serve = w.serve := by
  rw [releaseEntry, putBlock_serve]
  split
  · exact releaseNode_serve ..
  · rfl

theorem releaseEntry_blockOf_ne {s t : StreamIx} {e : Nat × BlockDesc} {c : Nat} (w : W9) (h : blockKey t c ≠ blockKey s e.1) :
    blockOf (releaseEntry s e w) t c = blockOf w t c := by
  rw [releaseEntry, blockOf_putBlock_ne _ _ h]
  split
  · rw [blockOf, releaseNode_blocks, blockOf]
  · rfl

theorem nodeOf_releaseEntry (s : StreamIx) (e : Nat × BlockDesc) (w : W9) (i : Nat) :
    nodeOf (releaseEntry s e w) i = (nodeOf w i).map (lowered (if e.2.node = some i then 1 else 0)) := by
  rw [releaseEntry, nodeOf_putBlock]
  split
  next j hj => simp only [hj, nodeOf_releaseNode, Option.some_inj]
  next hnone => rw [hnone, if_neg (Option.some_ne_none i).symm, lowered_zero, Option.map_id_fun, id]

/-- What releasing the entries `l` of stream `s` makes of `w`. -/
structure Released (s : StreamIx) (l : List (Nat × BlockDesc)) (w v : W9) : Prop where
  cleared : ∀ e ∈ l, blockOf v s e.1 = none
  kept : ∀ t c, (∀ e ∈ l, blockKey t c ≠ blockKey s e.1) → blockOf v t c = blockOf w t c
  nodes : ∀ i, nodeOf v i = (nodeOf w i).map (lowered (l.filter (fun e => e.2.node == some i)).length)
  serve : v.serve = w.serve

theorem released_forEach (s : StreamIx) (l : List (Nat × BlockDesc)) (w : W9) : Released s l w (forEach l (releaseEntry s) w) := by
  induction l generalizing w with
  | nil => exact ⟨fun _ h => absurd h List.not_mem_nil, fun _ _ _ => rfl, fun i => (Option.map_id_apply).symm, rfl⟩
  | cons e l ih =>
    obtain ⟨hcleared, hkept, hnodes, hserve⟩ := ih (releaseEntry s e w)
    refine ⟨List.forall_mem_cons.mpr ⟨?_, hcleared⟩, fun t c hc => ?_, fun i => ?_, hserve.trans (releaseEntry_serve ..)⟩
    · by_cases hagain : ∃ e' ∈ l, e'.1 = e.1
      · obtain ⟨e', he', heq⟩ := hagain
        exact heq ▸ hcleared e' he'
      · rw [not_exists] at hagain
        exact (hkept s e.1 fun e' he' => blockKey_ne s fun h => hagain e' ⟨he', h.symm⟩).trans (blockOf_putBlock_same ..)
    · rw [List.forall_mem_cons] at hc
      exact (hkept t c hc.2).trans (releaseEntry_blockOf_ne w hc.1)
    · refine (hnodes i).trans ?_
      rw [nodeOf_releaseEntry, Option.map_map, List.filter_cons]
      congr 1
      funext n
      rw [Function.comp_apply, lowered_lowered]
      by_cases h : e.2.node = some i
      · rw [if_pos h, if_pos (beq_iff_eq.mpr h), List.length_cons, Nat.add_comm]
      · rw [if_neg h, if_neg (fun hb => h (beq_iff_eq.mp hb)), Nat.zero_add]

/-! ## The obligation -/

/-- Settles O25: a covered allocation is made whole (`allocationResume_covered`), a lookup binds the blocks it walked (`walked_prefixWalk`),
an insertion makes a node or counts a skip (`insertBlock_new`, `insertBlock_matched`), and a release takes each binding back
(`released_forEach`). -/
theorem blocksAreHeldSharedAndReleased : Obligations.BlocksAreHeldSharedAndReleased := by
  refine ⟨fun s x => ⟨fun hnone => exec_of_lift_same rfl (allocationResume_none hnone), fun e he =>
      ⟨fun hshort => exec_of_lift_same rfl (allocationResume_short he hshort),
        fun hcovered hneed => yields_of_lift (allocationResume x) rfl ?resumed⟩⟩,
    fun s x => ⟨fun hmay => yields_of_lift (prefixLookup x) rfl ?lookup, fun hnot => exec_of_lift_same rfl (if_neg hnot)⟩,
    fun s x b => ⟨fun d hended hallowed hon hown hparent hdesc hfull =>
      ⟨fun hroot => yields_of_lift (prefixInsert x b) rfl ?noRoot, fun r hr =>
        ⟨fun hm => yields_of_lift (prefixInsert x b) rfl ?created, fun hm => yields_of_lift (prefixInsert x b) rfl ?matched⟩⟩,
      fun hnot => exec_of_lift_same rfl (prefixInsert_not fun d hcan => ?refused)⟩,
    fun s x => ⟨fun hending => yields_of_lift (prefixRelease x) rfl ?released, fun hnot => exec_of_lift_same rfl (if_neg hnot)⟩⟩
  case resumed =>
    obtain ⟨v, halloc, heq⟩ := allocationResume_covered he hcovered hneed
    have hkv := setState_kv x (heldReturn s.w x) v
    rw [heq]
    refine ⟨fun b hb => ?_, fun b hb => ?_, fun y b hy hb hall => ?_, ?_, ?_, ?_, fun y hy => ?_⟩
    · obtain ⟨d, hd, hstate, hnode, hlayers⟩ := halloc.gained b hb
      exact ⟨d, (blockOf_of_kv hkv x b).trans hd, hstate, hnode, hlayers⟩
    · exact (blockOf_of_kv hkv x b).trans (halloc.kept x b fun c hc => blockKey_ne x fun h => hb (h ▸ hc))
    · exact (blockOf_of_kv hkv y b).trans (halloc.kept y b fun c hc => blockKey_ne_of_stream hy hb (hall c hc))
    · exact (kvFree_setState ..).trans halloc.free
    · rw [hkv, halloc.held]
      exact not_mem_held_unheld x s.w
    · rw [setState, streamOf_putStream_same]
    · rw [setState, streamOf_putStream_ne _ _ hy]
      exact streamOf_of_serve halloc.serve y
  case lookup =>
    have hwalk := walked_prefixWalk x s.w
    have hstream := streamOf_of_serve hwalk.serve
    rw [prefixLookup_if, if_pos hmay, lookupFor_eq]
    refine ⟨⟨(prefixWalk x s.w).1, by simpa using hwalk.le_to, by rw [streamOf_modStream_same], fun b hb => hwalk.shared b (Nat.zero_le b) hb,
      fun hnone => ?_, fun y b => hwalk.changed⟩, ?_, fun y hy => ?_⟩
    · rw [prefixWalk_noRoot hnone]
      exact ⟨rfl, (modStream_kv ..).trans (inc_kv ..), (rd_of_bar0 (modStream_bar0 ..) _).trans (rd_inc_same ..)⟩
    · rw [streamOf_modStream_same, hstream]
    · rw [streamOf_modStream_ne _ _ hy, hstream]
  case noRoot =>
    rw [prefixInsert_insertable ⟨hended, hallowed, hon, hown, hparent, hdesc, hfull⟩, insertBlock_noRoot b d hroot]
    exact ⟨rd_inc_same .., rfl⟩
  case created =>
    rw [prefixInsert_insertable ⟨hended, hallowed, hon, hown, hparent, hdesc, hfull⟩, insertBlock_new d hr hm]
    have hkv := noteCollisions_kv x (chainHash s.w x b r) (insertMatch s.w x b r).2 s.w
    have hcount := rd_noteCollisions x (chainHash s.w x b r) (insertMatch s.w x b r).2 s.w (off := Reg.prefixInserts)
      (by decide) (by decide) (by decide)
    generalize noteCollisions x _ _ s.w = v at hkv hcount ⊢
    obtain ⟨rs, hcreated⟩ := createNode_kv x b d r (parentOf s.w x b r).1 (chainHash s.w x b r) (blockToks s.w x b) v
    refine ⟨⟨insertedNode d r (parentOf s.w x b r).1 (chainHash s.w x b r) (blockToks s.w x b) v, ?_,
      congrArg KvS.nextNode hkv, rfl, rfl, rfl, rfl, rfl, rfl⟩, ?_, ?_, fun y c hne => ?_, ?_⟩
    · rw [hcreated, ← hkv]
    · rw [hcreated, ← hkv]
    · rw [createNode_blockOf_same, hkv]
    · rw [createNode_blockOf_ne _ _ _ _ _ _ _ _ hne, blockOf_of_kv hkv]
    · rw [createNode_inserts, hcount]
  case matched =>
    rw [prefixInsert_insertable ⟨hended, hallowed, hon, hown, hparent, hdesc, hfull⟩, insertBlock_matched d hr hm]
    refine ⟨?_, ?_, noteCollisions_kv ..⟩
    · rw [rd_inc_same, rd_noteCollisions _ _ _ _ (by decide) (by decide) (by decide)]
    · rw [rd_inc_ne _ _ (by decide), rd_noteCollisions _ _ _ _ (by decide) (by decide) (by decide)]
  case refused =>
    obtain ⟨hended, hallowed, hon, hown, hparent, hdesc, hfull⟩ := hcan
    rcases hnot with h | h | h | h | h | ⟨hpos, h⟩
    · omega
    · exact absurd hallowed (Bool.eq_false_iff.mp h)
    · exact absurd hon (Bool.eq_false_iff.mp h)
    · exact absurd h (Bool.eq_false_iff.mp hown)
    · exact h (by rw [hdesc, stateOf, hfull])
    · exact hparent.elim (fun h0 => by omega) h
  case released =>
    have hrel := released_forEach x ((streamBlocks s.w x).filter (fun e => decide (e.2.state = .shared))) s.w
    have hmem : ∀ e, e ∈ (streamBlocks s.w x).filter (fun e => decide (e.2.state = .shared)) ↔
        e ∈ streamBlocks s.w x ∧ e.2.state = .shared := fun e => by rw [List.mem_filter, decide_eq_true_iff]
    rw [prefixRelease, if_pos hending, releaseShared_eq]
    refine ⟨fun e he hshared => hrel.cleared e ((hmem e).mpr ⟨he, hshared⟩),
      fun y b hne => hrel.kept y b fun e he => hne e ((hmem e).mp he).1 ((hmem e).mp he).2, fun i => ?_, hrel.serve⟩
    rw [hrel.nodes i, List.filter_filter]
    simp only [Bool.and_comm]
    rfl

end Sys2Proof.Machine
end

section
/-! SUPPORT. What the changes of streams, blocks and pages leave alone (R226 to R243, R249, R272). `Upkeep v a w` says that `w` is `a` with
`v` as its serving state and with what the upkeep of streams changes besides: far memory, key/value state, registers of their own, messages
to the twin and events. `Upkeep.f` says what `f` makes of it; its proof follows the text of `f`. -/

namespace Sys2Proof.Machine

open Sys2Proof

-- Theorems one after another: as many at once as the part holds would take a thread with its stack each.
set_option Elab.async false

/-- The registers that the upkeep of streams and blocks writes: EVT_LOST, HOSTIF_ERR, SERVE_STATUS, the adapter slots, the counts of pages
and of the tree of shared blocks, the ports, MIRROR_LOST and the gateways. -/
abbrev UpkeepReg (off : Nat) : Prop :=
  off = 0x100008 ∨ off = 0x100020 ∨ off = 0x500004 ∨ (0x500200 ≤ off ∧ off < 0x500600) ∨ (0x508008 ≤ off ∧ off < 0x50803C) ∨
  (0x2000000 ≤ off ∧ off < 0x2080000) ∨ off = 0x2080038 ∨ 0x3000000 ≤ off

/-- `w` is `a` with serving state `v`, but for what the upkeep of streams and blocks changes. -/
structure Upkeep (v : Serve) (a w : W9) : Prop where
  eq : w = { a with serve := v, dev := w.dev, bar0 := w.bar0, mem := w.mem, kv := w.kv, host := w.host, ports := w.ports, pair := w.pair,
                    flt := w.flt }
  time : w.dev.time = a.dev.time
  host : w.host = { a.host with evtWait := w.host.evtWait, vectorDue := w.host.vectorDue }
  pair : w.pair = { a.pair with
    setups := w.pair.setups, ownReady := w.pair.ownReady, twinReady := w.pair.twinReady, starts := w.pair.starts,
    mirrorQueue := w.pair.mirrorQueue, handedTo := w.pair.handedTo }
  replay : w.flt.replay = a.flt.replay
  regs : ∀ off, ¬ UpkeepReg off → rd w off = rd a off

variable {v : Serve} {a w x : W9}

theorem Upkeep.refl (w : W9) : Upkeep w.serve w w := ⟨rfl, rfl, rfl, rfl, rfl, fun _ _ => rfl⟩

/-! ## What it keeps -/

section
variable (hw : Upkeep v a w)
include hw

theorem Upkeep.serve : w.serve = v := by rw [hw.eq]
theorem Upkeep.page : w.page = a.page := by rw [hw.eq]
theorem Upkeep.tiles : w.tiles = a.tiles := by rw [hw.eq]
theorem Upkeep.fields : w.fields = a.fields := by rw [hw.eq]
theorem Upkeep.wt : w.wt = a.wt := by rw [hw.eq]
theorem Upkeep.img : w.img = a.img := by rw [hw.eq]
theorem Upkeep.cplWait : w.host.cplWait = a.host.cplWait := by rw [hw.host]
theorem Upkeep.backlog : w.host.backlog = a.host.backlog := by rw [hw.host]
theorem Upkeep.shadows : w.pair.shadows = a.pair.shadows := by rw [hw.pair]
theorem Upkeep.commits : w.pair.backlog = a.pair.backlog := by rw [hw.pair]

theorem Upkeep.streamOf (s : StreamIx) : Machine.streamOf w s = smGet (fun _ => Stream.init) v.streams s.val := by
  rw [Machine.streamOf, hw.serve]

theorem Upkeep.rdF {off : Nat} (hi lo : Nat) (ho : ¬ UpkeepReg off) : Machine.rdF w off hi lo = Machine.rdF a off hi lo := by
  rw [Machine.rdF, hw.regs off ho, Machine.rdF]

theorem Upkeep.rdB {off : Nat} (i : Nat) (ho : ¬ UpkeepReg off) : Machine.rdB w off i = Machine.rdB a off i := by
  rw [Machine.rdB, hw.regs off ho, Machine.rdB]

theorem Upkeep.rd64 {off : Nat} (ho : ¬ UpkeepReg off) (ho4 : ¬ UpkeepReg (off + 4)) : Machine.rd64 w off = Machine.rd64 a off := by
  rw [Machine.rd64, hw.regs off ho, hw.regs _ ho4, Machine.rd64]

end

/-! ## The shapes a meaning is written in -/

/-- A change of far memory, key/value state and ports. -/
theorem Upkeep.same {mem : Mem} {kv : KvS} {ports : SMap PortS} (hw : Upkeep v a w) :
    Upkeep v a { w with mem := mem, kv := kv, ports := ports } :=
  ⟨by rw [hw.eq], hw.time, hw.host, hw.pair, hw.replay, hw.regs⟩

/-- A change of what the pair keeps of streams. -/
theorem Upkeep.mates {pair : PairS} (hw : Upkeep v a w) (hp : pair = { w.pair with
    setups := pair.setups, ownReady := pair.ownReady, twinReady := pair.twinReady, starts := pair.starts,
    mirrorQueue := pair.mirrorQueue, handedTo := pair.handedTo }) : Upkeep v a { w with pair := pair } :=
  ⟨by rw [hw.eq], hw.time, hw.host, hp.trans (by rw [hw.pair]), hw.replay, hw.regs⟩

/-- A change of the serving state. -/
theorem Upkeep.toServe (v' : Serve) (hw : Upkeep v a w) : Upkeep v' a { w with serve := v' } :=
  ⟨by rw [hw.eq], hw.time, hw.host, hw.pair, hw.replay, hw.regs⟩

theorem Upkeep.events (hw : Upkeep v a w) (h : OnlyEvents w x) : Upkeep v a x where
  eq := by
    change W9.mk x.dev x.bar0 x.page x.mem x.tiles x.routers x.fields x.gws x.prec x.serve x.kv x.wt x.img x.checked x.dbg x.host x.side
      x.ports x.pair x.env x.rst x.opt x.att x.flt = _
    rw [h.page, h.tiles, h.routers, h.fields, h.gws, h.prec, h.serve, h.wt, h.img, h.checked, h.dbg, h.side, h.env, h.rst, h.opt, h.att, hw.eq]
  time := h.dev_time.trans hw.time
  host := by
    change HostS.mk x.host.readData x.host.poisoned x.host.hostMem x.host.linkUp x.host.d3hot x.host.msixOn x.host.backlog x.host.cplWait
      x.host.evtWait x.host.stamping x.host.vectorDue x.host.vectorLast x.host.msixSent x.host.bar2Waiting x.host.bar4 x.host.opSeq = _
    rw [h.host_readData, h.host_poisoned, h.host_hostMem, h.host_linkUp, h.host_d3hot, h.host_msixOn, h.host_backlog, h.host_cplWait,
      h.host_stamping, h.host_vectorLast, h.host_msixSent, h.host_bar2Waiting, h.host_bar4, h.host_opSeq, hw.host]
  pair := by rw [h.pair]; exact hw.pair
  replay := h.flt_replay.trans hw.replay
  regs off ho := by
    have h1 : off ≠ Reg.evtLost := fun e => ho (.inr (.inl e))
    have h2 : off ≠ Reg.hostifErr := fun e => ho (.inl e)
    exact (h.regs off h1 h2).trans (hw.regs off ho)

theorem Upkeep.wire (hw : Upkeep v a w) (h : OnlyWire w x) : Upkeep v a x where
  eq := by rw [h.eq, hw.eq]
  time := by rw [h.dev]; exact hw.time
  host := by rw [h.host]; exact hw.host
  pair := by rw [h.pair]; exact hw.pair
  replay := by rw [h.flt]; exact hw.replay
  regs off ho := by
    refine (h.regs off fun p e => ho ?_).trans (hw.regs off ho)
    have := p.isLt
    simp only [UpkeepReg, Reg.txDataFlits] at e ⊢
    omega

theorem Upkeep.wr {off : Nat} {y : Word32} (hw : Upkeep v a w) (ho : UpkeepReg off) : Upkeep v a (Machine.wr off y w) where
  eq := by
    show { w with bar0 := _ } = _
    rw [hw.eq]; rfl
  time := hw.time
  host := hw.host
  pair := hw.pair
  replay := hw.replay
  regs k hk := by
    rw [rd_wr_ne _ _ (fun e : k = off => hk (by rw [e]; exact ho)), hw.regs k hk]

theorem Upkeep.wrF {off hi lo y : Nat} (hw : Upkeep v a w) (ho : UpkeepReg off) : Upkeep v a (Machine.wrF off hi lo y w) := .wr hw ho
theorem Upkeep.wrB {off i : Nat} {b : Bool} (hw : Upkeep v a w) (ho : UpkeepReg off) : Upkeep v a (Machine.wrB off i b w) := .wr hw ho
theorem Upkeep.inc {off n : Nat} (hw : Upkeep v a w) (ho : UpkeepReg off) : Upkeep v a (Machine.inc off n w) := .wr hw ho

theorem Upkeep.ite {c : Prop} [Decidable c] {y z : W9} (hy : Upkeep v a y) (hz : Upkeep v a z) : Upkeep v a (if c then y else z) := by
  split
  · exact hy
  · exact hz

theorem Upkeep.forEach {α : Type} {l : List α} {f : α → W9 → W9} (hf : ∀ e y, Upkeep v a y → Upkeep v a (f e y)) (hw : Upkeep v a w) :
    Upkeep v a (Machine.forEach l f w) :=
  forEach_keeps (Upkeep v a) f (fun e _ h => hf e _ h) l w hw

theorem Upkeep.raise {c s cs : BitVec 16} {d : List Byte} (hw : Upkeep v a w) : Upkeep v a (Machine.raise c s cs d w) :=
  .events hw (raise_step c s cs d w)
theorem Upkeep.raise0 {c s : BitVec 16} {d : List Byte} (hw : Upkeep v a w) : Upkeep v a (Machine.raise0 c s d w) := .raise hw
theorem Upkeep.raiseS {c src : BitVec 16} {s : StreamIx} {d : List Byte} (hw : Upkeep v a w) : Upkeep v a (Machine.raiseS c src s d w) :=
  .raise hw


/-! ## Serving states -/

/-- Serving state `v` with stream slot `s` changed. -/
def serveStream (s : StreamIx) (g : Stream → Stream) (v : Serve) : Serve :=
  { v with streams := smMod (fun _ => Stream.init) v.streams s.val g }

/-- Stream slot `s` in serving state `v`. -/
def serveGet (v : Serve) (s : StreamIx) : Stream := smGet (fun _ => Stream.init) v.streams s.val

/-- Serving state `v` with the window that contains time `t` changed (R273). -/
def serveWin (t c : Nat) (f : WinCount → WinCount) (v : Serve) : Serve :=
  if t < v.winStart + v.winLenNow then { v with wins := v.wins.modify c f } else { v with closed := v.closed.modify c f }

/-- Serving state `v` without the work of stream `s`: its chunks, held requests and chain (R272). -/
def serveDrop (s : StreamIx) (v : Serve) : Serve :=
  { v with queue := v.queue.filter (fun c => !(c.stream == s)), held := v.held.filter (fun q => !(q.stream == s.val)),
           holdWait := v.holdWait.filter (fun q => !(q.stream == s.val)), chains := smPut (fun _ => []) v.chains s.val [] }

/-- Serving state `v` with stream `s` ended at time `t` with status `st` (R272). -/
def serveEnd (t : Nat) (s : StreamIx) (st : BitVec 8) (v : Serve) : Serve :=
  serveStream s (fun x => { x with phase := none, adapterSlot := none })
    (serveDrop s (serveWin t (serveGet v s).cls.toNat (fun x => { x with ended := x.ended + 1 })
      (serveStream s (fun x => { x with endStatus := st, state := .ending, endTime := t }) v)))

variable {s y : StreamIx} {g : Stream → Stream} {t c : Nat} {f : WinCount → WinCount} {st : BitVec 8}

@[simp] theorem serveGet_serveStream_same : serveGet (serveStream s g v) s = g (serveGet v s) := by
  simp [serveGet, serveStream, smMod, smGet_smPut_same]

theorem serveGet_serveStream_ne (h : y ≠ s) : serveGet (serveStream s g v) y = serveGet v y := by
  simp only [serveGet, serveStream, smMod]
  exact smGet_smPut_ne _ _ _ (fun e => h (Fin.ext e))

theorem serveWin_eq : serveWin t c f v = { v with wins := (serveWin t c f v).wins, closed := (serveWin t c f v).closed } := by
  unfold serveWin
  split <;> rfl

@[simp] theorem serveGet_serveWin : serveGet (serveWin t c f v) s = serveGet v s := by rw [serveWin_eq]; rfl
@[simp] theorem queue_serveWin : (serveWin t c f v).queue = v.queue := by rw [serveWin_eq]
@[simp] theorem pipe_serveWin : (serveWin t c f v).pipe = v.pipe := by rw [serveWin_eq]
@[simp] theorem admitQ_serveWin : (serveWin t c f v).admitQ = v.admitQ := by rw [serveWin_eq]
@[simp] theorem streams_serveWin : (serveWin t c f v).streams = v.streams := by rw [serveWin_eq]
@[simp] theorem chains_serveWin : (serveWin t c f v).chains = v.chains := by rw [serveWin_eq]
@[simp] theorem serveGet_serveDrop : serveGet (serveDrop s v) y = serveGet v y := rfl

@[simp] theorem serveGet_serveEnd_same : serveGet (serveEnd t s st v) s =
    { serveGet v s with endStatus := st, state := .ending, endTime := t, phase := none, adapterSlot := none } := by
  simp [serveEnd]

theorem serveGet_serveEnd_ne (h : y ≠ s) : serveGet (serveEnd t s st v) y = serveGet v y := by
  simp [serveEnd, serveGet_serveStream_ne h]

theorem queue_serveEnd : (serveEnd t s st v).queue = v.queue.filter (fun c => !(c.stream == s)) := by
  simp [serveEnd, serveStream, serveDrop]

theorem chains_serveEnd : (serveEnd t s st v).chains = smPut (fun _ => []) v.chains s.val [] := by
  simp [serveEnd, serveStream, serveDrop]

theorem Upkeep.get (hw : Upkeep v a w) (s : StreamIx) : Machine.streamOf w s = serveGet v s := hw.streamOf s

/-! ## Streams -/

/-- A change of the serving state that is a function of it. -/
theorem Upkeep.serving (f : Serve → Serve) (hw : Upkeep v a w) : Upkeep (f v) a { w with serve := f w.serve } := by
  rw [hw.serve]
  exact hw.toServe _

theorem Upkeep.modStream (hw : Upkeep v a w) : Upkeep (serveStream s g v) a (Machine.modStream s g w) :=
  hw.serving (serveStream s g)

theorem Upkeep.putStream (hw : Upkeep v a w) : Upkeep (serveStream s g v) a (Machine.putStream s g w) :=
  .wire (.modStream hw) (putStream_wire s g w)

theorem Upkeep.setState {x : StreamState} (hw : Upkeep v a w) :
    Upkeep (serveStream s (fun t => { t with state := x }) v) a (Machine.setState s x w) := .putStream hw

theorem Upkeep.syncRecord (hw : Upkeep v a w) : Upkeep v a (Machine.syncRecord s w) := .wire hw (syncRecord_wire s w)

theorem Upkeep.writeLog {pos : Nat} {toks : List Word32} (hw : Upkeep v a w) : Upkeep v a (Machine.writeLog s pos toks w) :=
  .wire hw (writeLog_wire s pos toks w)

theorem Upkeep.sendTwin {m : Msg} (hw : Upkeep v a w) : Upkeep v a (Machine.sendTwin m w) := .wire hw (sendTwin_wire m w)

theorem winModAt_eq (t c : Nat) (f : WinCount → WinCount) (w : W9) : winModAt t c f w = { w with serve := serveWin t c f w.serve } := by
  unfold winModAt serveWin
  split <;> rfl

theorem Upkeep.winModAt (hw : Upkeep v a w) : Upkeep (serveWin t c f v) a (Machine.winModAt t c f w) := by
  rw [winModAt_eq]
  exact hw.serving _

theorem Upkeep.winMod (hw : Upkeep v a w) : Upkeep (serveWin a.dev.time c f v) a (Machine.winMod c f w) := by
  rw [← hw.time]
  exact .winModAt hw

/-! ## Far memory -/

theorem Upkeep.noteFarUE {q : Nat} (hw : Upkeep v a w) : Upkeep v a (Machine.noteFarUE q w) := by
  have hr : UpkeepReg (Reg.gwErr (farGateway q).val) ∧ UpkeepReg (Reg.gwUeCount (farGateway q).val) := by
    simp only [UpkeepReg, Reg.gwErr, Reg.gwUeCount]
    omega
  exact .raise0 (.wrB (.inc hw hr.2) hr.1)

theorem Upkeep.noteFarCE {q : Nat} (hw : Upkeep v a w) : Upkeep v a (Machine.noteFarCE q w) := by
  have hr : UpkeepReg (Reg.gwErr (farGateway q).val) ∧ UpkeepReg (Reg.gwCeCount (farGateway q).val) := by
    simp only [UpkeepReg, Reg.gwErr, Reg.gwCeCount]
    omega
  exact .same (.raise0 (.wrB (.inc hw hr.2) hr.1))

theorem Upkeep.farReadEffects {qs : List Nat} (hw : Upkeep v a w) : Upkeep v a (Machine.farReadEffects qs w) :=
  .forEach (fun _ _ h => .ite (.noteFarUE h) (.ite (.noteFarCE h) h)) hw

/-! ## Blocks -/

section

variable {d : Option BlockDesc} {bs : BlockState} {b h i n k m : Nat} {l : LayerIx}

theorem Upkeep.setKvFree (hw : Upkeep v a w) : Upkeep v a (Machine.setKvFree n w) := .wr hw (by decide)

theorem Upkeep.setReserve (hw : Upkeep v a w) : Upkeep v a (Machine.setReserve s n w) := .same hw

theorem Upkeep.freePages (hw : Upkeep v a w) : Upkeep v a (Machine.freePages s w) := .ite hw (.setKvFree hw)

theorem Upkeep.setBlock (hw : Upkeep v a w) : Upkeep v a (Machine.setBlock s b d w) := .same hw

theorem Upkeep.putBlock (hw : Upkeep v a w) : Upkeep v a (Machine.putBlock s b d w) := .wire (.setBlock hw) (putBlock_wire s b d w)

theorem Upkeep.countRoot {i : Fin 256} {d : Int} (hw : Upkeep v a w) : Upkeep v a (Machine.countRoot i d w) :=
  .wire (.same hw) (syncRoot_wire i _)

theorem Upkeep.removeNode (hw : Upkeep v a w) : Upkeep v a (Machine.removeNode i w) := by
  unfold Machine.removeNode
  split
  · exact hw
  · exact .forEach (fun _ _ h => .putBlock h) (.countRoot (.setKvFree (.same hw)))

theorem Upkeep.noteDrop {cs : BitVec 16} {node : Byte} (hw : Upkeep v a w) : Upkeep v a (Machine.noteDrop cs b node w) :=
  .raise (.inc hw (by decide))

theorem Upkeep.dropNode (hw : Upkeep v a w) : Upkeep v a (Machine.dropNode i w) :=
  .forEach (fun _ _ h => .noteDrop (.removeNode h)) hw

theorem Upkeep.dropPrivate {d : BlockDesc} (hw : Upkeep v a w) : Upkeep v a (Machine.dropPrivate s b d w) :=
  .noteDrop (.setKvFree (.putBlock hw))

theorem Upkeep.dropCand {c : Cand} (hw : Upkeep v a w) : Upkeep v a (Machine.dropCand c w) := by
  cases c with
  | node n => exact .dropNode hw
  | priv s b d cls => exact .dropPrivate hw

theorem Upkeep.dropUntil (hw : Upkeep v a w) : Upkeep v a (Machine.dropUntil s n k w) := by
  induction k generalizing w with
  | zero => exact hw
  | succ k ih =>
    refine .ite hw ?_
    split
    · exact ih (.dropCand hw)
    · exact hw

theorem Upkeep.drawFree (hw : Upkeep v a w) : Upkeep v a (Machine.drawFree n w) :=
  ⟨by unfold Machine.drawFree; rw [hw.eq], hw.time, hw.host, hw.pair, hw.replay, hw.regs⟩

theorem Upkeep.allocBlock (hw : Upkeep v a w) : Upkeep v a (Machine.allocBlock s bs b w) :=
  .putBlock (.setReserve (.setKvFree (.drawFree hw)))

/-- What an allocation makes of the serving state: nothing where it is covered, else its stream is held (R233). -/
def serveHeld (s : StreamIx) (covered : Bool) (v : Serve) : Serve :=
  if covered then v else serveStream s (fun t => { t with state := .held }) v

theorem Upkeep.allocBlocks {l : List Nat} (hw : Upkeep v a w) :
    Upkeep (serveHeld s (Machine.allocBlocks s bs l w).1 v) a (Machine.allocBlocks s bs l w).2 := by
  have hd := hw.dropUntil (s := s) (n := l.length * kvLayers w) (k := w.kv.nodes.length + w.kv.blocks.length)
  unfold Machine.allocBlocks
  dsimp only
  split
  · exact .forEach (fun _ _ h => .allocBlock h) hd
  · exact .setState (.raiseS (.inc (.same hd) (by decide)))

theorem Upkeep.ensureBlocks {p : Nat} (hw : Upkeep v a w) :
    Upkeep (serveHeld s (Machine.ensureBlocks s p n w).1 v) a (Machine.ensureBlocks s p n w).2 := by
  unfold Machine.ensureBlocks
  dsimp only
  split
  · exact hw
  · exact .allocBlocks hw

theorem Upkeep.fillBlocks (hw : Upkeep v a w) : Upkeep v a (Machine.fillBlocks s w) := .forEach (fun _ _ h => .putBlock h) hw

theorem Upkeep.touchBlocks (hw : Upkeep v a w) : Upkeep v a (Machine.touchBlocks s w) := .same (.forEach (fun _ _ h => .putBlock h) hw)

theorem Upkeep.freePrivate (hw : Upkeep v a w) : Upkeep v a (Machine.freePrivate s w) :=
  .forEach (fun _ _ h => .ite (.putBlock h) (.freePages (.putBlock h))) hw

theorem Upkeep.setFlushed (hw : Upkeep v a w) : Upkeep v a (Machine.setFlushed s l m w) := by
  unfold Machine.setFlushed
  split
  · exact .setBlock hw
  · exact hw

theorem Upkeep.mirrorItem (hw : Upkeep v a w) : Upkeep v a (Machine.mirrorItem s l m w) :=
  .ite (by
    dsimp only
    split
    · exact .raiseS (.inc (.mates hw rfl) (by decide))
    · exact .mates hw rfl) hw

/-! ## The tree of shared blocks -/

theorem Upkeep.noteCollision (hw : Upkeep v a w) : Upkeep v a (Machine.noteCollision s h i w) := .raiseS (.inc hw (by decide))

theorem Upkeep.modNode {f : PrefixNode → PrefixNode} (hw : Upkeep v a w) : Upkeep v a (Machine.modNode i f w) := .same hw

theorem Upkeep.bindNode {n : PrefixNode} (hw : Upkeep v a w) : Upkeep v a (Machine.bindNode s b n w) :=
  .putBlock (.modNode (.inc hw (by decide)))

theorem Upkeep.walkBlocks {root : Fin 256} {p : Option Nat} (hw : Upkeep v a w) : Upkeep v a (Machine.walkBlocks s root k b p h w).2 := by
  induction k generalizing b h p w with
  | zero => exact hw
  | succ k ih =>
    have hn : ∀ l x, Upkeep v a (Machine.forEach l (fun i w => Machine.noteCollision s x i w) w) := fun _ _ =>
      .forEach (fun _ _ h => .noteCollision h) hw
    unfold Machine.walkBlocks
    dsimp only
    split
    · exact ih (.bindNode (hn _ _))
    · exact hn _ _

theorem Upkeep.prefixWalk (hw : Upkeep v a w) : Upkeep v a (Machine.prefixWalk s w).2 := by
  have hl := hw.inc (off := Reg.prefixLookups) (n := 1) (by decide)
  unfold Machine.prefixWalk
  dsimp only
  split
  · exact .walkBlocks hl
  · exact hl

theorem Upkeep.lookupFor (hw : Upkeep v a w) :
    Upkeep (serveStream s (fun t => { t with prefixHit := 256 * (Machine.prefixWalk s w).1 }) v) a (Machine.lookupFor s w) :=
  .modStream (.prefixWalk hw)

theorem Upkeep.releaseNode (hw : Upkeep v a w) : Upkeep v a (Machine.releaseNode s i w) := by
  unfold Machine.releaseNode
  split
  · exact .ite (.raiseS hw) (.modNode hw)
  · exact hw

theorem Upkeep.releaseShared (hw : Upkeep v a w) : Upkeep v a (Machine.releaseShared s w) :=
  .forEach (fun _ _ h => .putBlock (by
    split
    · exact .releaseNode h
    · exact h)) hw

end

/-! ## Adapters bound -/

section

variable {n : Fin 64}

theorem upkeepReg_adapter (n : Fin 64) :
    UpkeepReg (Reg.adapterId n.val) ∧ UpkeepReg (Reg.adapterVer n.val) ∧ UpkeepReg (Reg.adapterRef n.val) := by
  have := n.isLt
  simp only [UpkeepReg, Reg.adapterId, Reg.adapterVer, Reg.adapterRef]
  omega

theorem writeAdapterTable_wire (w : W9) : OnlyWire w (writeAdapterTable w) := by
  unfold writeAdapterTable
  split
  · exact .refl w
  · exact writeFar_wire _ _ _

theorem Upkeep.adBind (hw : Upkeep v a w) : Upkeep v a (Machine.adBind n w) := .wrF hw (upkeepReg_adapter n).2.2

theorem Upkeep.adSettle (hw : Upkeep v a w) : Upkeep v a (Machine.adSettle n w) :=
  .ite (.wire (.wr (.wr hw (upkeepReg_adapter n).1) (upkeepReg_adapter n).2.1) (writeAdapterTable_wire _)) hw

theorem Upkeep.adRelease (hw : Upkeep v a w) : Upkeep v a (Machine.adRelease n w) := .adSettle (.wrF hw (upkeepReg_adapter n).2.2)

end

/-! ## Streams that start and end -/

theorem Upkeep.syncClass0 (hw : Upkeep v a w) : Upkeep v a (Machine.syncClass0 w) := .wrB hw (by decide)

theorem Upkeep.freeSlot (hw : Upkeep v a w) : Upkeep (serveStream s (fun _ => Stream.init) v) a (Machine.freeSlot s w) :=
  .syncClass0 (.putStream hw)

theorem Upkeep.dropWork (hw : Upkeep v a w) : Upkeep (serveDrop s v) a (Machine.dropWork s w) where
  eq := by
    unfold Machine.dropWork setChain
    rw [hw.eq]
    rfl
  time := hw.time
  host := hw.host
  pair := by
    unfold Machine.dropWork setChain
    rw [hw.pair]
  replay := hw.replay
  regs := hw.regs

theorem Upkeep.releaseHoldings (hw : Upkeep v a w) :
    Upkeep (serveStream s (fun t => { t with phase := none, adapterSlot := none }) v) a (Machine.releaseHoldings s w) :=
  .syncClass0 (.putStream (by
    split
    · exact .adRelease (.setReserve (.freePrivate hw))
    · exact .setReserve (.freePrivate hw)))

theorem Upkeep.endStream (hw : Upkeep v a w) : Upkeep (serveEnd a.dev.time s st v) a (Machine.endStream s st w) := by
  have hend : Upkeep (serveEnd a.dev.time s st v) a (Machine.releaseHoldings s (Machine.dropWork s (Machine.winEnded (Machine.streamOf w s).cls.toNat
      (Machine.putStream s (fun x => { x with endStatus := st, state := .ending, endTime := now w }) w)))) := by
    have ht : now w = a.dev.time := hw.time
    rw [hw.get, ht]
    exact .releaseHoldings (.dropWork (.winMod (.putStream hw)))
  have htold := Upkeep.ite (c := isFaultStatus st = true) (hend.raiseS (c := 0xD032) (src := srcSteward) (s := s) (d := [st])) hend
  exact .ite (.sendTwin (.mates htold rfl)) htold

theorem Upkeep.copyPrompt {q : Request} (hw : Upkeep v a w) : Upkeep v a (Machine.copyPrompt q w) := .writeLog (.farReadEffects hw)

theorem Upkeep.takeSlot {q : Request} (hw : Upkeep v a w) :
    Upkeep (serveStream (slotOf q) (fun _ => streamFor w q) v) a (Machine.takeSlot q w) := .putStream hw

end Sys2Proof.Machine
end

section
/-! SUPPORT. Adapter slots and the commands that move them (R280 to R282). -/

namespace Sys2Proof.Machine

open Sys2Proof

set_option Elab.async false

/-! ## Registers of the adapters -/

/-- ADAPTER_STATUS and the registers of the adapter slots. -/
abbrev AdapterReg (off : Nat) : Prop := off = 0x500110 ∨ (0x500200 ≤ off ∧ off < 0x500600)

theorem adapterReg_slot (n : Fin 64) :
    AdapterReg (Reg.adapterId n.val) ∧ AdapterReg (Reg.adapterVer n.val) ∧ AdapterReg (Reg.adapterRef n.val) := by
  have := n.isLt
  simp only [AdapterReg, Reg.adapterId, Reg.adapterVer, Reg.adapterRef]
  omega

theorem adapterId_ne_adapterStatus (n : Fin 64) : Reg.adapterId n.val ≠ Reg.adapterStatus := by
  simp only [Reg.adapterId, Reg.adapterStatus]; omega
theorem adapterVer_ne_adapterStatus (n : Fin 64) : Reg.adapterVer n.val ≠ Reg.adapterStatus := by
  simp only [Reg.adapterVer, Reg.adapterStatus]; omega
theorem adapterRef_ne_adapterStatus (n : Fin 64) : Reg.adapterRef n.val ≠ Reg.adapterStatus := by
  simp only [Reg.adapterRef, Reg.adapterStatus]; omega
theorem adapterId_ne_adapterVer (m n : Fin 64) : Reg.adapterId m.val ≠ Reg.adapterVer n.val := by
  simp only [Reg.adapterId, Reg.adapterVer]; omega
theorem adapterRef_ne_adapterId (m n : Fin 64) : Reg.adapterRef m.val ≠ Reg.adapterId n.val := by
  simp only [Reg.adapterId, Reg.adapterRef]; omega
theorem adapterId_inj {m n : Fin 64} (h : m ≠ n) : Reg.adapterId m.val ≠ Reg.adapterId n.val := by
  have : m.val ≠ n.val := fun e => h (Fin.ext e)
  simp only [Reg.adapterId]; omega

/-- The adapters of `w'` are those of `w`: every register of theirs and the state of the loads. -/
structure SameAdapters (w w' : W9) : Prop where
  regs : ∀ off, AdapterReg off → rd w' off = rd w off
  wt : w'.wt = w.wt

theorem sameAdapters_raise0 (c s : BitVec 16) (d : List Byte) (w : W9) : SameAdapters w (raise0 c s d w) where
  regs off ho := by
    simp only [AdapterReg] at ho
    exact rd_raise0 c s d w (by simp only [Reg.evtLost]; omega) (by simp only [Reg.hostifErr]; omega)
  wt := (raise0_step c s d w).wt

theorem sameAdapters_writeAdapterTable (w : W9) : SameAdapters w (writeAdapterTable w) where
  regs off ho := by
    simp only [AdapterReg] at ho
    exact (writeAdapterTable_wire w).rd_low (by omega)
  wt := (writeAdapterTable_wire w).wt

section
variable {w w' : W9} (h : SameAdapters w w') (n : Fin 64)
include h

theorem SameAdapters.id : rd w' (Reg.adapterId n.val) = rd w (Reg.adapterId n.val) := h.regs _ (adapterReg_slot n).1
theorem SameAdapters.ver : rd w' (Reg.adapterVer n.val) = rd w (Reg.adapterVer n.val) := h.regs _ (adapterReg_slot n).2.1
theorem SameAdapters.adState : adState w' n = adState w n := by simp only [Machine.adState, rdF, h.id]
theorem SameAdapters.adHandle : adHandle w' n = adHandle w n := by simp only [Machine.adHandle, rdF, h.id]
theorem SameAdapters.status (hi lo : Nat) : rdF w' Reg.adapterStatus hi lo = rdF w Reg.adapterStatus hi lo := by
  simp only [rdF, h.regs Reg.adapterStatus (by decide)]
end

/-- What a command writes of ADAPTER_STATUS leaves the slots as they are. -/
structure SameSlots (w w' : W9) : Prop where
  regs : ∀ off, AdapterReg off → off ≠ Reg.adapterStatus → rd w' off = rd w off
  wt : w'.wt = w.wt

theorem SameAdapters.slots {w w' : W9} (h : SameAdapters w w') : SameSlots w w' := ⟨fun off ho _ => h.regs off ho, h.wt⟩

theorem SameSlots.refl (w : W9) : SameSlots w w := ⟨fun _ _ _ => rfl, rfl⟩
theorem SameSlots.trans {a b c : W9} (h : SameSlots a b) (k : SameSlots b c) : SameSlots a c :=
  ⟨fun off ho hs => (k.regs off ho hs).trans (h.regs off ho hs), k.wt.trans h.wt⟩

theorem sameSlots_wrF (hi lo x : Nat) (w : W9) : SameSlots w (wrF Reg.adapterStatus hi lo x w) :=
  ⟨fun _ _ hs => rd_wrF_ne _ _ _ _ hs, rfl⟩

section
variable {w w' : W9} (h : SameSlots w w') (n : Fin 64)
include h

theorem SameSlots.id : rd w' (Reg.adapterId n.val) = rd w (Reg.adapterId n.val) :=
  h.regs _ (adapterReg_slot n).1 (adapterId_ne_adapterStatus n)
theorem SameSlots.ver : rd w' (Reg.adapterVer n.val) = rd w (Reg.adapterVer n.val) :=
  h.regs _ (adapterReg_slot n).2.1 (adapterVer_ne_adapterStatus n)
theorem SameSlots.ref : rd w' (Reg.adapterRef n.val) = rd w (Reg.adapterRef n.val) :=
  h.regs _ (adapterReg_slot n).2.2 (adapterRef_ne_adapterStatus n)
theorem SameSlots.adState : adState w' n = adState w n := by simp only [Machine.adState, rdF, h.id]
theorem SameSlots.adHandle : adHandle w' n = adHandle w n := by simp only [Machine.adHandle, rdF, h.id]
theorem SameSlots.adRef : adRef w' n = adRef w n := by simp only [Machine.adRef, rdF, h.ref]
end

theorem SameSlots.adCurrent {w w' : W9} (h : SameSlots w w') (x : BitVec 16) : adCurrent w' x = adCurrent w x := by
  simp only [Machine.adCurrent, h.adState, h.adHandle]

theorem setAdapter_state (st : Nat) (w : W9) (h : st < 8) : rdF (setAdapter st w) Reg.adapterStatus 2 0 = st := by
  rw [setAdapter, rdF_wrF_same _ _ _ _ _ (by decide) (by decide)]
  exact Nat.mod_eq_of_lt h

/-! ## Commands that are rejected or end in an error -/

theorem adapterReject_slots (h : BitVec 16) (w : W9) : SameSlots w (adapterReject h w) :=
  (sameSlots_wrF 16 16 (b2n true) w).trans (sameAdapters_raise0 _ _ _ _).slots

theorem adapterReject_rejects (h : BitVec 16) (w : W9) : rdB (adapterReject h w) Reg.adapterStatus 16 = true ∧ (adapterReject h w).mem = w.mem := by
  refine ⟨?_, (raise0_step _ _ _ _).mem⟩
  rw [rdB, adapterReject, (sameAdapters_raise0 _ _ _ _).regs _ (by decide)]
  exact rdB_wrB_same _ _ _ _ (by decide)

theorem adapterError_slots (h : BitVec 16) (w : W9) : SameSlots w (adapterError h w) :=
  (sameSlots_wrF 2 0 4 w).trans (sameAdapters_raise0 _ _ _ _).slots

theorem adapterError_state (h : BitVec 16) (w : W9) : rdF (adapterError h w) Reg.adapterStatus 2 0 = 4 := by
  rw [adapterError, (sameAdapters_raise0 _ _ _ _).status, setAdapter_state _ _ (by decide)]

/-! ## A slot taken, given up, and replaced -/

/-- A far memory without flags is read without effects (R294). -/
theorem farSetEffects_clean (a : Nat) (w : W9) (hu : w.mem.farUE = []) (hc : ∀ q, farHasCE w q = false) : farSetEffects a w = w := by
  refine forEach_keeps (· = w) _ (fun q y hy => ?_) _ _ rfl
  subst hy
  simp [hu, hc]

theorem takeAdapterSlot_takes (i : Install) (n : Fin 64) (w : W9) :
    (takeAdapterSlot i n w).wt.install = some { i with slot := some n } ∧
    rd (takeAdapterSlot i n w) (Reg.adapterId n.val) = BitVec.ofNat 32 (i.handle.toNat * 0x10000 + 1) ∧
    rd (takeAdapterSlot i n w) (Reg.adapterVer n.val) = i.version ∧
    rdF (takeAdapterSlot i n w) Reg.adapterStatus 2 0 = 1 ∧ rdF (takeAdapterSlot i n w) Reg.adapterStatus 15 8 = n.val ∧
    ∀ m : Fin 64, m ≠ n → rd (takeAdapterSlot i n w) (Reg.adapterId m.val) = rd w (Reg.adapterId m.val) := by
  have hid := adapterId_ne_adapterStatus
  have hn := n.isLt
  unfold takeAdapterSlot
  refine ⟨by rw [(sameAdapters_writeAdapterTable _).wt]; rfl, ?_, ?_, ?_, ?_, fun m hm => ?_⟩
  · rw [(sameAdapters_writeAdapterTable _).id, setAdapter, rd_wrF_ne _ _ _ _ (hid n), rd_wrF_ne _ _ _ _ (hid n)]
    exact (rd_wr_ne _ _ (adapterId_ne_adapterVer n n)).trans (rd_wr_same _ _ _)
  · rw [(sameAdapters_writeAdapterTable _).ver, setAdapter, rd_wrF_ne _ _ _ _ (adapterVer_ne_adapterStatus n),
      rd_wrF_ne _ _ _ _ (adapterVer_ne_adapterStatus n)]
    exact rd_wr_same _ _ _
  · rw [(sameAdapters_writeAdapterTable _).status, setAdapter_state _ _ (by decide)]
  · rw [(sameAdapters_writeAdapterTable _).status, setAdapter, rdF_wrF_ne _ _ _ _ _ _ _ (by decide) (by decide) (by decide),
      rdF_wrF_same _ _ _ _ _ (by decide) (by decide)]
    omega
  · rw [(sameAdapters_writeAdapterTable _).id, setAdapter, rd_wrF_ne _ _ _ _ (hid m), rd_wrF_ne _ _ _ _ (hid m)]
    exact (rd_wr_ne _ _ (adapterId_ne_adapterVer m n)).trans (rd_wr_ne _ _ (adapterId_inj hm))

/-- A slot whose registers are cleared is FREE (R282). -/
theorem adSettle_frame (n : Fin 64) (w : W9) : (∀ off, AdapterReg off → off ≠ Reg.adapterId n.val → off ≠ Reg.adapterVer n.val →
    rd (adSettle n w) off = rd w off) ∧ (adSettle n w).wt = w.wt := by
  unfold adSettle
  split
  · refine ⟨fun off ho h h' => ?_, (sameAdapters_writeAdapterTable _).wt⟩
    rw [(sameAdapters_writeAdapterTable _).regs off ho, rd_wr_ne _ _ h', rd_wr_ne _ _ h]
  · exact ⟨fun _ _ _ _ => rfl, rfl⟩

theorem adState_adSettle (n : Fin 64) (w : W9) : adState (adSettle n w) n = if adState w n = 3 ∧ adRef w n = 0 then 0 else adState w n := by
  unfold adSettle
  split
  · rw [(sameAdapters_writeAdapterTable _).adState, adState, rdF, rd_wr_ne _ _ (adapterId_ne_adapterVer n n), rd_wr_same]
    decide
  · rfl

/-- The handle's CURRENT slot is RETIRING while streams are bound to it, FREE otherwise; nothing else of the slots changes. -/
theorem retireCurrent_retires {h : BitVec 16} {n : Fin 64} {w : W9} (hc : adCurrent w h = some n) :
    adState (retireCurrent h w) n = (if adRef w n = 0 then 0 else 3) ∧ (retireCurrent h w).wt = w.wt ∧
    ∀ m : Fin 64, m ≠ n → rd (retireCurrent h w) (Reg.adapterId m.val) = rd w (Reg.adapterId m.val) := by
  have hs : adState (wrF (Reg.adapterId n.val) 1 0 3 w) n = 3 := by
    rw [adState, rdF_wrF_same _ _ _ _ _ (by decide) (by decide)]
    rfl
  have hr : adRef (wrF (Reg.adapterId n.val) 1 0 3 w) n = adRef w n := rdF_wrF_off _ _ _ _ _ _ (adapterRef_ne_adapterId n n)
  obtain ⟨hregs, hwt⟩ := adSettle_frame n (wrF (Reg.adapterId n.val) 1 0 3 w)
  simp only [retireCurrent, hc]
  refine ⟨by simp [adState_adSettle, hs, hr], hwt, fun m hm => ?_⟩
  rw [hregs _ (adapterReg_slot m).1 (adapterId_inj hm) (adapterId_ne_adapterVer m n), rd_wrF_ne _ _ _ _ (adapterId_inj hm)]

theorem retireCurrent_none {h : BitVec 16} {w : W9} (hc : adCurrent w h = none) : retireCurrent h w = w := by
  simp only [retireCurrent, hc]

/-- The slots after the load of slot `n` has ended well: `n` is CURRENT, its handle's former slot retires (R281). -/
def loadedSlots (i : Install) (n : Fin 64) (w : W9) : W9 := wrF (Reg.adapterId n.val) 1 0 2 (retireCurrent i.handle w)

theorem rd_loadedSlots_id (i : Install) {n m : Fin 64} (w : W9) (hm : m ≠ n) :
    rd (loadedSlots i n w) (Reg.adapterId m.val) = rd (retireCurrent i.handle w) (Reg.adapterId m.val) :=
  rd_wrF_ne _ _ _ _ (adapterId_inj hm)

theorem loadedSlots_current (i : Install) (n : Fin 64) (w : W9) (hc : adCurrent w i.handle ≠ some n) :
    adState (loadedSlots i n w) n = 2 ∧ adHandle (loadedSlots i n w) n = adHandle w n := by
  have hid : rd (retireCurrent i.handle w) (Reg.adapterId n.val) = rd w (Reg.adapterId n.val) := by
    cases h : adCurrent w i.handle with
    | none => rw [retireCurrent_none h]
    | some m => exact (retireCurrent_retires h).2.2 n (fun e => hc (e ▸ h))
  constructor
  · rw [adState, loadedSlots, rdF_wrF_same _ _ _ _ _ (by decide) (by decide)]
    rfl
  · rw [adHandle, loadedSlots, rdF_wrF_ne _ _ _ _ _ _ _ (by decide) (by decide) (by decide), rdF, hid, adHandle, rdF]

/-! ## The commands -/

/-- The install that a write of ADAPTER_CMD asks for, before it has a slot. -/
def askedInstall (h : BitVec 16) (w : W9) : Install := ⟨h, rd w Reg.adapterVerArg, BitVec.ofNat 64 (rd64 w Reg.adapterAddr), none⟩

/-- An INSTALL that waits for a slot: BUSY (R281). -/
def installWaits (h : BitVec 16) (w : W9) : W9 :=
  raise0 0x5021 srcSteward (le 2 h.toNat ++ [0, 0] ++ le 4 (rd w Reg.adapterVerArg).toNat)
    (setAdapter 2 { w with wt := { w.wt with install := some (askedInstall h w) } })

section

variable {h : BitVec 16} {w : W9} (hopen : cmdOpen w = true) (hbusy : adapterBusy w = false) (hu : w.mem.farUE = [])
  (hc : ∀ q, farHasCE w q = false)
include hopen hbusy hu hc

theorem install_error (hf : installFits w h (rd w Reg.adapterVerArg) (farSet w (rd64 w Reg.adapterAddr)) = false) :
    install h w = adapterError h w := by
  simp [install, hopen, hbusy, farSetEffects_clean _ w hu hc, hf]

theorem install_takes (hf : installFits w h (rd w Reg.adapterVerArg) (farSet w (rd64 w Reg.adapterAddr)) = true) {n : Fin 64}
    (hn : adFree w = some n) : install h w = takeAdapterSlot (askedInstall h w) n w := by
  simp [install, hopen, hbusy, farSetEffects_clean _ w hu hc, hf, hn, askedInstall]

theorem install_waits (hf : installFits w h (rd w Reg.adapterVerArg) (farSet w (rd64 w Reg.adapterAddr)) = true)
    (hn : adFree w = none) : install h w = installWaits h w := by
  simp [install, hopen, hbusy, farSetEffects_clean _ w hu hc, hf, hn, askedInstall, installWaits]

end

/-- A command through a port that does not take it, and one while another runs (R282). -/
theorem install_remove_turned_away (h : BitVec 16) (w : W9) :
    (cmdOpen w = false → install h w = w ∧ remove h w = w) ∧
    (cmdOpen w = true → adapterBusy w = true → install h w = adapterReject h w ∧ remove h w = adapterReject h w) := by
  refine ⟨fun ho => ?_, fun ho hb => ?_⟩ <;> simp_all [install, remove]

theorem remove_none {h : BitVec 16} {w : W9} (hopen : cmdOpen w = true) (hbusy : adapterBusy w = false) (hc : adCurrent w h = none) :
    remove h w = writeAdapterTable (setAdapter 3 w) := by
  simp [remove, hopen, hbusy, hc, retireCurrent_none]

theorem remove_current {h : BitVec 16} {n : Fin 64} {w : W9} (hopen : cmdOpen w = true) (hbusy : adapterBusy w = false)
    (hc : adCurrent w h = some n) : remove h w = writeAdapterTable (setAdapter 3 (retireCurrent h (wrF Reg.adapterStatus 15 8 n.val w))) := by
  simp [remove, hopen, hbusy, hc]

/-- REMOVE of a CURRENT slot (R282). -/
theorem remove_retires {h : BitVec 16} {n : Fin 64} {w : W9} (hopen : cmdOpen w = true) (hbusy : adapterBusy w = false)
    (hc : adCurrent w h = some n) : rdF (remove h w) Reg.adapterStatus 2 0 = 3 ∧ rdF (remove h w) Reg.adapterStatus 15 8 = n.val ∧
      adState (remove h w) n = (if adRef w n = 0 then 0 else 3) ∧ (remove h w).wt = w.wt ∧
      ∀ m : Fin 64, m ≠ n → rd (remove h w) (Reg.adapterId m.val) = rd w (Reg.adapterId m.val) := by
  have hslots := sameSlots_wrF 15 8 n.val w
  have hcur : adCurrent (wrF Reg.adapterStatus 15 8 n.val w) h = some n := by rw [hslots.adCurrent, hc]
  obtain ⟨hst, hwt, hids⟩ := retireCurrent_retires hcur
  have hset : SameSlots _ (setAdapter 3 (retireCurrent h (wrF Reg.adapterStatus 15 8 n.val w))) := sameSlots_wrF 2 0 3 _
  have hout := sameAdapters_writeAdapterTable (setAdapter 3 (retireCurrent h (wrF Reg.adapterStatus 15 8 n.val w)))
  rw [remove_current hopen hbusy hc]
  refine ⟨?_, ?_, ?_, ?_, fun m hm => ?_⟩
  · rw [hout.status, setAdapter_state _ _ (by decide)]
  · have hn := n.isLt
    rw [hout.status, setAdapter, rdF_wrF_ne _ _ _ _ _ _ _ (by decide) (by decide) (by decide), rdF]
    simp only [retireCurrent, hcur]
    rw [(adSettle_frame n _).1 _ (by decide) (adapterId_ne_adapterStatus n).symm (adapterVer_ne_adapterStatus n).symm,
      rd_wrF_ne _ _ _ _ (adapterId_ne_adapterStatus n).symm]
    refine (rdF_wrF_same _ _ _ _ _ (by decide) (by decide)).trans ?_
    omega
  · rw [hout.adState, hset.adState, hst, hslots.adRef]
  · rw [hout.wt, hset.wt, hwt, hslots.wt]
  · rw [hout.id, hset.id, hids m hm, hslots.id]

theorem adapterLoaded_fails {i : Install} {n : Fin 64} {w : W9} (hok : digestsOk w i.addr.toNat (farSet w i.addr.toNat) = false) :
    (adapterLoaded i n w).wt.install = none ∧ rdF (adapterLoaded i n w) Reg.adapterStatus 2 0 = 4 ∧
    rd (adapterLoaded i n w) (Reg.adapterId n.val) = 0 ∧ rd (adapterLoaded i n w) (Reg.adapterVer n.val) = 0 ∧
    ∀ m : Fin 64, m ≠ n → rd (adapterLoaded i n w) (Reg.adapterId m.val) = rd w (Reg.adapterId m.val) := by
  simp only [adapterLoaded, hok, Bool.false_eq_true, if_false]
  generalize hx : wr (Reg.adapterVer n.val) 0 (wr (Reg.adapterId n.val) 0 { w with wt := { w.wt with install := none } }) = x
  have hs := (sameAdapters_writeAdapterTable x).slots.trans (adapterError_slots i.handle _)
  refine ⟨by rw [hs.wt, ← hx]; rfl, adapterError_state _ _, ?_, ?_, fun m hm => ?_⟩
  · rw [hs.id, ← hx, rd_wr_ne _ _ (adapterId_ne_adapterVer n n), rd_wr_same]
  · rw [hs.ver, ← hx, rd_wr_same]
  · rw [hs.id, ← hx, rd_wr_ne _ _ (adapterId_ne_adapterVer m n), rd_wr_ne _ _ (adapterId_inj hm)]
    rfl

theorem adapterLoaded_current {i : Install} {n : Fin 64} {w : W9} (hok : digestsOk w i.addr.toNat (farSet w i.addr.toNat) = true) :
    (adapterLoaded i n w).wt.install = none ∧ rdF (adapterLoaded i n w) Reg.adapterStatus 2 0 = 3 ∧
    (∀ m, adCurrent w i.handle = some m → m ≠ n → adState (adapterLoaded i n w) m = if adRef w m = 0 then 0 else 3) ∧
    (adCurrent w i.handle ≠ some n → adState (adapterLoaded i n w) n = 2 ∧ adHandle (adapterLoaded i n w) n = adHandle w n) ∧
    ∀ m : Fin 64, m ≠ n → adCurrent w i.handle ≠ some m → rd (adapterLoaded i n w) (Reg.adapterId m.val) = rd w (Reg.adapterId m.val) := by
  let u : W9 := { w with wt := { w.wt with install := none } }
  have he : adapterLoaded i n w = raise0 0x5020 srcSteward (le 2 i.handle.toNat ++ [BitVec.ofNat 8 n.val, 0] ++ le 4 i.version.toNat)
      (writeAdapterTable (setAdapter 3 (loadedSlots i n u))) := by
    simp only [adapterLoaded, hok, if_true, loadedSlots, u]
  have hcur : adCurrent u i.handle = adCurrent w i.handle := rfl
  have hs : SameSlots (loadedSlots i n u) (adapterLoaded i n w) := by
    rw [he]
    exact (sameSlots_wrF 2 0 3 _).trans ((sameAdapters_writeAdapterTable _).slots.trans (sameAdapters_raise0 _ _ _ _).slots)
  refine ⟨?_, ?_, fun m hm hmn => ?_, fun hc => ?_, fun m hmn hm => ?_⟩
  · rw [hs.wt]
    change (retireCurrent i.handle u).wt.install = none
    cases h : adCurrent u i.handle with
    | none => rw [retireCurrent_none h]
    | some m => rw [(retireCurrent_retires h).2.1]
  · rw [he, (sameAdapters_raise0 _ _ _ _).status, (sameAdapters_writeAdapterTable _).status, setAdapter_state _ _ (by decide)]
  · rw [hs.adState, adState, rdF, rd_loadedSlots_id _ _ hmn]
    exact (retireCurrent_retires (hcur.trans hm)).1
  · rw [hs.adState, hs.adHandle]
    exact loadedSlots_current i n u hc
  · rw [hs.id, rd_loadedSlots_id _ _ hmn]
    cases h : adCurrent u i.handle with
    | none => rw [retireCurrent_none h]; rfl
    | some k => exact (retireCurrent_retires h).2.2 m (fun e => hm (by rw [← hcur, h, e]))

/-- Settles O43: each command and each end of a load moves the slots as its lemma above says. -/
theorem adaptersAreInstalledAndRemoved : Obligations.AdaptersAreInstalledAndRemoved := by
  unfold Obligations.AdaptersAreInstalledAndRemoved
  refine ⟨fun s h => ⟨fun ho => ?_, fun ho hb => ?_, fun ho hb => ⟨fun hu hc => ⟨fun hf => ?_, fun n hf hn => ?_, fun hf hn => ?_⟩,
    fun hc => ?_, fun n hc => ?_⟩⟩, fun s => ⟨fun hi => ?_, fun i n hi hslot hn => ?_, fun hi => ?_, fun i n hi hslot => ⟨fun hok => ?_, fun hok => ?_⟩⟩⟩
  · obtain ⟨hinst, hrem⟩ := (install_remove_turned_away h s.w).1 ho
    exact ⟨exec_of_lift_same rfl hinst, exec_of_lift_same rfl hrem⟩
  · obtain ⟨hinst, hrem⟩ := (install_remove_turned_away h s.w).2 ho hb
    have hs := adapterReject_slots h s.w
    have hr := adapterReject_rejects h s.w
    exact ⟨⟨_, exec_of_lift_eq rfl hinst, hr.1, hs.wt, fun n => ⟨hs.id n, hs.ver n⟩, hr.2⟩,
      ⟨_, exec_of_lift_eq rfl hrem, hr.1, hs.wt, fun n => ⟨hs.id n, hs.ver n⟩, hr.2⟩⟩
  · have hs := adapterError_slots h s.w
    exact ⟨_, exec_of_lift_eq rfl (install_error ho hb hu hc hf), adapterError_state h s.w, hs.wt, fun n => ⟨hs.id n, hs.ver n⟩⟩
  · exact ⟨_, exec_of_lift_eq rfl (install_takes ho hb hu hc hf hn), takeAdapterSlot_takes _ n s.w⟩
  · have hr : SameAdapters _ (installWaits h s.w) := sameAdapters_raise0 _ _ _ _
    refine ⟨_, exec_of_lift_eq rfl (install_waits ho hb hu hc hf hn), by rw [hr.wt]; rfl, by rw [hr.status, setAdapter_state _ _ (by decide)],
      fun n => ⟨?_, ?_⟩⟩
    · rw [hr.id, setAdapter, rd_wrF_ne _ _ _ _ (adapterId_ne_adapterStatus n)]
      rfl
    · rw [hr.ver, setAdapter, rd_wrF_ne _ _ _ _ (adapterVer_ne_adapterStatus n)]
      rfl
  · have hs := (sameSlots_wrF 2 0 3 s.w).trans (sameAdapters_writeAdapterTable (setAdapter 3 s.w)).slots
    refine ⟨_, exec_of_lift_eq rfl (remove_none ho hb hc), ?_, fun n => ⟨hs.id n, hs.ver n⟩, hs.wt⟩
    rw [(sameAdapters_writeAdapterTable _).status, setAdapter_state _ _ (by decide)]
  · exact yields_of_lift (remove h) rfl (remove_retires ho hb hc)
  · refine exec_of_lift_same (f := adapterSlotTaken) rfl ?_
    unfold adapterSlotTaken
    rcases hi with hi | hi | ⟨i, hi, hslot⟩
    · rw [hi]
    · rw [hi]; cases s.w.wt.install <;> rfl
    · rw [hi]
      cases adFree s.w with
      | none => rfl
      | some n => simp [Option.isNone_eq_false_iff.mpr hslot]
  · have he : adapterSlotTaken s.w = takeAdapterSlot i n s.w := by simp [adapterSlotTaken, hi, hn, hslot]
    obtain ⟨hw, hid, hver, hst, -, hids⟩ := takeAdapterSlot_takes i n s.w
    exact ⟨_, exec_of_lift_eq rfl he, hw, hid, hver, hst, hids⟩
  · refine exec_of_lift_same (f := adapterLoadComplete) rfl ?_
    unfold adapterLoadComplete
    rcases hi with hi | ⟨i, hi, hslot⟩
    · rw [hi]
    · rw [hi]; simp only [hslot]
  · have he : adapterLoadComplete s.w = adapterLoaded i n s.w := by simp [adapterLoadComplete, hi, hslot]
    exact ⟨_, exec_of_lift_eq rfl he, adapterLoaded_fails hok⟩
  · have he : adapterLoadComplete s.w = adapterLoaded i n s.w := by simp [adapterLoadComplete, hi, hslot]
    exact ⟨_, exec_of_lift_eq rfl he, adapterLoaded_current hok⟩

end Sys2Proof.Machine
end

section
/-! SUPPORT. What a scan takes of an intake ring (R370, R371). -/

namespace Sys2Proof.Machine

open Sys2Proof

set_option Elab.async false

/-! ## Registers of the intake rings -/

theorem intakeCtrl_inj {m n : RingIx} (h : m ≠ n) : Reg.intakeCtrl m.val ≠ Reg.intakeCtrl n.val := by
  have : m.val ≠ n.val := fun e => h (Fin.ext e)
  simp only [Reg.intakeCtrl]
  omega

/-- The control register of a ring is none that taking a record writes, but for its own ring's. -/
theorem intakeCtrl_apart (m n : RingIx) : Reg.intakeCtrl m.val ≠ Reg.cplReserved n.val ∧ Reg.intakeCtrl m.val ≠ Reg.intakeTaken n.val ∧
    Reg.intakeCtrl m.val ≠ Reg.intakeTaken n.val + 4 ∧ Reg.intakeCtrl m.val ≠ Reg.intakeFound := by
  simp only [Reg.intakeCtrl, Reg.cplReserved, Reg.intakeTaken, Reg.intakeFound]
  omega

theorem intakeFound_apart (n : RingIx) : Reg.intakeFound ≠ Reg.cplReserved n.val ∧ Reg.intakeFound ≠ Reg.intakeTaken n.val ∧
    Reg.intakeFound ≠ Reg.intakeTaken n.val + 4 ∧ Reg.intakeFound ≠ Reg.intakeCtrl n.val := by
  simp only [Reg.intakeCtrl, Reg.cplReserved, Reg.intakeTaken, Reg.intakeFound]
  omega

theorem not_upkeepReg_intake (n : RingIx) : ¬ UpkeepReg (Reg.intakeCtrl n.val) ∧ ¬ UpkeepReg (Reg.intakeTaken n.val) := by
  have := n.isLt
  simp only [UpkeepReg, Reg.intakeCtrl, Reg.intakeTaken]
  omega

theorem rd64_lt (w : W9) (off : Nat) : rd64 w off < 2 ^ 64 := by
  have := (rd w off).isLt
  have := (rd w (off + 4)).isLt
  unfold rd64
  omega

theorem satAdd32_zero (v : Word32) : satAdd32 v 0 = v := by
  have := v.isLt
  rw [satAdd32, Nat.add_zero, Nat.min_eq_left (by omega), BitVec.ofNat_toNat, BitVec.setWidth_eq]

theorem satAdd32_add (v : Word32) (a b : Nat) : satAdd32 (satAdd32 v a) b = satAdd32 v (a + b) := by
  apply BitVec.eq_of_toNat_eq
  simp only [satAdd32_toNat]
  omega

theorem farReadEffects_kv (qs : List Nat) (w : W9) : (farReadEffects qs w).kv = w.kv := by
  refine forEach_frame (·.kv) _ (fun q w => ?_) qs w
  split
  · exact (raise0_step _ _ _ _).kv
  · split
    · exact (raise0_step _ _ _ _).kv
    · rfl

/-! ## One record -/

/-- The 64 bytes of the ring's next record. -/
def nextRecord (n : RingIx) (w : W9) : List Byte :=
  farRead w (rd64 w (Reg.intakeBase n.val) + 64 * (rd64 w (Reg.intakeTaken n.val) % 2 ^ rdF w (Reg.intakeCtrl n.val) 3 0)) 64

/-- Its stamp is due: it names the entry's lap (R370). -/
def stampDue (n : RingIx) (w : W9) : Prop := ofLe ((nextRecord n w).drop 60) = rd64 w (Reg.intakeTaken n.val) % 0xFFFFFFFF + 1

/-- The W9 after that record is read and, for a NEW one, its completion entry reserved (R371). -/
def recordRead (n : RingIx) (w : W9) : W9 :=
  let a := rd64 w (Reg.intakeBase n.val) + 64 * (rd64 w (Reg.intakeTaken n.val) % 2 ^ rdF w (Reg.intakeCtrl n.val) 3 0)
  let u := farReadEffects (farQuarters w a 64) w
  if decide ((nextRecord n w).getD 0 0 ≠ 1) then
    wrF (Reg.cplReserved n.val) 10 0 (rdF u (Reg.cplReserved n.val) 10 0 + 1) (wrB (Reg.intakeCtrl n.val) 28 false u)
  else u

/-- The W9 after the ring's next record is taken (R371). -/
def recordTaken (n : RingIx) (arrival : Nat) (w : W9) : W9 :=
  let u := inc Reg.intakeFound 1 (wr64 (Reg.intakeTaken n.val) (rd64 w (Reg.intakeTaken n.val) + 1) (recordRead n w))
  { u with serve := { u.serve with admitQ := u.serve.admitQ ++ [parseRequest n (nextRecord n w) arrival] } }

theorem takeRecords_notDue {n : RingIx} {w : W9} (h : ¬ stampDue n w) (arrival k : Nat) : takeRecords n arrival (k + 1) w = w :=
  if_pos h

theorem takeRecords_full {n : RingIx} {w : W9} (h : stampDue n w) (hnew : (nextRecord n w).getD 0 0 ≠ 1) (hfree : cplFree w n = false)
    (arrival k : Nat) : takeRecords n arrival (k + 1) w = wrB (Reg.intakeCtrl n.val) 28 true w :=
  (if_neg (not_not_intro h)).trans (if_pos (by simpa [nextRecord, hfree] using hnew))

theorem takeRecords_taken {n : RingIx} {w : W9} (h : stampDue n w) (hfree : (nextRecord n w).getD 0 0 = 1 ∨ cplFree w n = true)
    (arrival k : Nat) : takeRecords n arrival (k + 1) w = takeRecords n arrival k (recordTaken n arrival w) :=
  (if_neg (not_not_intro h)).trans (if_neg (by
    intro hc
    obtain ⟨hnew, hno⟩ := Bool.and_eq_true_iff.mp hc
    rcases hfree with h1 | h1
    · exact of_decide_eq_true hnew h1
    · rw [h1] at hno
      cases hno))

/-! ## The records taken -/

/-- `w'` is `w` after the records `l` of ring `n` were taken. -/
structure Taken (n : RingIx) (l : List Request) (w w' : W9) : Prop where
  admitQ : w'.serve.admitQ = w.serve.admitQ ++ l
  taken : rd64 w' (Reg.intakeTaken n.val) = (rd64 w (Reg.intakeTaken n.val) + l.length) % 2 ^ 64
  found : rd w' Reg.intakeFound = satAdd32 (rd w Reg.intakeFound) l.length
  streams : w'.serve.streams = w.serve.streams
  kv : w'.kv = w.kv
  ctrl : ∀ m, m ≠ n → rd w' (Reg.intakeCtrl m.val) = rd w (Reg.intakeCtrl m.val)

theorem Taken.refl (n : RingIx) (w : W9) : Taken n [] w w :=
  ⟨(List.append_nil _).symm, (Nat.mod_eq_of_lt (rd64_lt w _)).symm, (satAdd32_zero _).symm, rfl, rfl, fun _ _ => rfl⟩

theorem Taken.trans {n : RingIx} {l r : List Request} {a b c : W9} (h : Taken n l a b) (k : Taken n r b c) : Taken n (l ++ r) a c where
  admitQ := by rw [k.admitQ, h.admitQ, List.append_assoc]
  taken := by rw [k.taken, h.taken, List.length_append, Nat.mod_add_mod, Nat.add_assoc]
  found := by rw [k.found, h.found, satAdd32_add, List.length_append]
  streams := k.streams.trans h.streams
  kv := k.kv.trans h.kv
  ctrl m hm := (k.ctrl m hm).trans (h.ctrl m hm)

/-- Reading a record changes no request, and of the intake registers its own ring's control alone. -/
theorem recordRead_frame (n : RingIx) (w : W9) : (recordRead n w).serve = w.serve ∧ (recordRead n w).kv = w.kv ∧
    rd (recordRead n w) Reg.intakeFound = rd w Reg.intakeFound ∧
    ∀ m, m ≠ n → rd (recordRead n w) (Reg.intakeCtrl m.val) = rd w (Reg.intakeCtrl m.val) := by
  unfold recordRead
  dsimp only
  generalize hu : farReadEffects _ w = u
  have hup : Upkeep w.serve w u := hu ▸ (Upkeep.refl w).farReadEffects
  have hkv : u.kv = w.kv := hu ▸ farReadEffects_kv _ w
  have hfound : rd u Reg.intakeFound = rd w Reg.intakeFound := hup.regs _ (by decide)
  have hctrl : ∀ m : RingIx, rd u (Reg.intakeCtrl m.val) = rd w (Reg.intakeCtrl m.val) := fun m => hup.regs _ (not_upkeepReg_intake m).1
  split
  · obtain ⟨hf1, -, -, hf4⟩ := intakeFound_apart n
    refine ⟨hup.serve, hkv, ?_, fun m hm => ?_⟩
    · rw [rd_wrF_ne _ _ _ _ hf1, rd_wrB_ne _ _ _ hf4, hfound]
    · rw [rd_wrF_ne _ _ _ _ (intakeCtrl_apart m n).1, rd_wrB_ne _ _ _ (intakeCtrl_inj hm), hctrl]
  · exact ⟨hup.serve, hkv, hfound, fun m _ => hctrl m⟩

theorem taken_recordTaken (n : RingIx) (arrival : Nat) (w : W9) :
    Taken n [parseRequest n (nextRecord n w) arrival] w (recordTaken n arrival w) := by
  obtain ⟨hserve, hkv, hfound, hctrl⟩ := recordRead_frame n w
  obtain ⟨-, hf2, hf3, -⟩ := intakeFound_apart n
  generalize hx : wr64 (Reg.intakeTaken n.val) (rd64 w (Reg.intakeTaken n.val) + 1) (recordRead n w) = x
  have hrd : ∀ off, rd (recordTaken n arrival w) off = rd (inc Reg.intakeFound 1 x) off := fun _ => hx ▸ rfl
  have hq : recordTaken n arrival w = { inc Reg.intakeFound 1 x with serve :=
    { (recordRead n w).serve with admitQ := (recordRead n w).serve.admitQ ++ [parseRequest n (nextRecord n w) arrival] } } := hx ▸ rfl
  refine ⟨by rw [hq, hserve], ?_, ?_, by rw [hq, hserve], by rw [hq, ← hkv, ← hx]; rfl, fun m hm => ?_⟩
  · rw [rd64, hrd, hrd, rd_inc_ne _ _ hf2.symm, rd_inc_ne _ _ hf3.symm]
    exact hx ▸ rd64_wr64_same _ _ _
  · rw [hrd, rd_inc_same, ← hx, rd_wr64_ne _ _ hf2 hf3, hfound]
    rfl
  · obtain ⟨-, hc2, hc3, hc4⟩ := intakeCtrl_apart m n
    rw [hrd, rd_inc_ne _ _ hc4, ← hx, rd_wr64_ne _ _ hc2 hc3, hctrl m hm]

/-- CPL_WAIT alone is no record. -/
theorem taken_cplWait (n : RingIx) (w : W9) : Taken n [] w (wrB (Reg.intakeCtrl n.val) 28 true w) := by
  obtain ⟨hc1, hc2, hc3, hc4⟩ := intakeCtrl_apart n n
  refine { Taken.refl n w with taken := ?_, found := ?_, ctrl := fun m hm => rd_wrB_ne _ _ _ (intakeCtrl_inj hm) }
  · rw [rd64, rd_wrB_ne _ _ _ hc2.symm, rd_wrB_ne _ _ _ hc3.symm]
    exact (Taken.refl n w).taken
  · rw [rd_wrB_ne _ _ _ hc4.symm]
    exact (Taken.refl n w).found

/-- Up to `k` records are taken. -/
theorem taken_takeRecords (n : RingIx) (arrival k : Nat) (w : W9) : ∃ l, Taken n l w (takeRecords n arrival k w) ∧ l.length ≤ k := by
  induction k generalizing w with
  | zero => exact ⟨[], .refl n w, Nat.le_refl _⟩
  | succ k ih =>
    by_cases hdue : stampDue n w
    · by_cases hfree : (nextRecord n w).getD 0 0 = 1 ∨ cplFree w n = true
      · obtain ⟨l, hl, hk⟩ := ih (recordTaken n arrival w)
        rw [takeRecords_taken hdue hfree]
        exact ⟨_ :: l, (taken_recordTaken n arrival w).trans hl, Nat.succ_le_succ hk⟩
      · simp only [not_or, Bool.not_eq_true] at hfree
        rw [takeRecords_full hdue hfree.1 hfree.2]
        exact ⟨[], taken_cplWait n w, Nat.zero_le _⟩
    · rw [takeRecords_notDue hdue]
      exact ⟨[], .refl n w, Nat.zero_le _⟩

/-! ## The scan of one ring among idle ones -/

/-- A ring is enabled and READY. -/
def ringLive (w : W9) (m : RingIx) : Bool := rdB w (Reg.intakeCtrl m.val) 31 && rdB w (Reg.intakeCtrl m.val) 30

theorem scanRing_idle {t : Nat} {m : RingIx} {w : W9} (h : ringLive w m = false) : scanRing t m w = w :=
  if_neg (by rw [Bool.not_eq_true]; exact h)

theorem scan_idle {t : Nat} {l : List RingIx} {w : W9} (h : ∀ m ∈ l, ringLive w m = false) : forEach l (scanRing t) w = w := by
  induction l with
  | nil => rfl
  | cons m l ih =>
    change forEach l (scanRing t) (scanRing t m w) = w
    rw [scanRing_idle (h m List.mem_cons_self)]
    exact ih (fun k hk => h k (List.mem_cons_of_mem m hk))

/-- What a scan of a live ring makes of the records it takes: TAKEN is written back (R369). -/
theorem taken_scanRing {n : RingIx} {l : List Request} {t : Nat} {w : W9} (h : Taken n l w (takeRecords n t 8 w)) (hlive : ringLive w n = true) :
    Taken n l w (scanRing t n w) := by
  have hback : ∀ u : W9, Taken n l w u → Taken n l w (onlyIf u.host.linkUp (takenBack n) u) := fun u hu => by
    unfold onlyIf takenBack
    split
    · dsimp only
      split
      · exact hu
      · exact ⟨hu.admitQ, hu.taken, hu.found, hu.streams, hu.kv, hu.ctrl⟩
    · exact hu
  refine (congrArg (Taken n l w) (if_pos hlive)).mpr ?_
  split
  · exact h
  · exact hback _ h

/-- With every other ring idle the scan is that of ring `n`. -/
theorem scan_one {n : RingIx} {t : Nat} {w : W9} (hidle : ∀ m, m ≠ n → ringLive w m = false)
    (hctrl : ∀ m, m ≠ n → rd (scanRing t n w) (Reg.intakeCtrl m.val) = rd w (Reg.intakeCtrl m.val)) :
    forEach allRings (scanRing t) w = scanRing t n w := by
  obtain ⟨pre, post, he⟩ := List.append_of_mem (List.mem_finRange n)
  have hnd := List.nodup_finRange 16
  rw [he, List.nodup_middle, List.nodup_cons] at hnd
  have hne : ∀ m, m ∈ pre ++ post → m ≠ n := fun m hm e => hnd.1 (e ▸ hm)
  have hlive : ∀ m, m ≠ n → ringLive (scanRing t n w) m = false := fun m hm => by
    have := hidle m hm
    simp only [ringLive, rdB] at this ⊢
    rw [hctrl m hm]
    exact this
  rw [allRings, he]
  unfold forEach
  rw [List.foldl_append, List.foldl_cons]
  have hpre := scan_idle (t := t) (l := pre) (w := w) (fun m hm => hidle m (hne m (List.mem_append_left _ hm)))
  have hpost := scan_idle (t := t) (l := post) (w := scanRing t n w) (fun m hm => hlive m (hne m (List.mem_append_right _ hm)))
  unfold forEach at hpre hpost
  rw [hpre]
  exact hpost

theorem intakeScan_runs {w : W9} (hport : hostAnswers w = true) (hctrl : rdB w Reg.hostifCtrl 31 = true) (hd : w.host.d3hot = false) :
    intakeScan w = forEach allRings (scanRing w.dev.time) w := by
  simp [intakeScan, hport, hctrl, hd, now]

theorem intakeScan_off {w : W9} (h : hostAnswers w = false ∨ rdB w Reg.hostifCtrl 31 = false ∨ w.host.d3hot = true) : intakeScan w = w := by
  rcases h with h | h | h <;> simp [intakeScan, h]

/-- A scan that meets no due stamp in ring `n`, the others being idle. -/
theorem scanRing_notDue {n : RingIx} {t : Nat} {w : W9} (h : ¬ stampDue n w) : scanRing t n w = w := by
  unfold scanRing
  rw [takeRecords_notDue h, if_pos rfl, ite_self]

/-- A NEW record without a free completion entry stays, and CPL_WAIT says so (R371). -/
theorem scanRing_full {n : RingIx} {t : Nat} {w : W9} (hlive : ringLive w n = true) (h : stampDue n w) (hnew : (nextRecord n w).getD 0 0 ≠ 1)
    (hfree : cplFree w n = false) : scanRing t n w = wrB (Reg.intakeCtrl n.val) 28 true w := by
  obtain ⟨-, hc2, hc3, -⟩ := intakeCtrl_apart n n
  refine (if_pos hlive).trans ?_
  rw [takeRecords_full h hnew hfree, if_pos]
  rw [rd64, rd_wrB_ne _ _ _ hc2.symm, rd_wrB_ne _ _ _ hc3.symm, rd64]

end Sys2Proof.Machine
end

section
/-! SUPPORT. CANCEL and DRAFT_EXTEND (R271, R274). -/

namespace Sys2Proof.Machine

open Sys2Proof

set_option Elab.async false

/-! ## CANCEL -/

theorem winRefused_eq (c : Nat) (w : W9) : winRefused c w =
    { w with serve := serveWin w.dev.time c (fun x => { x with refused := x.refused + 1 }) w.serve } := winModAt_eq _ _ _ _

/-- What a refusal counted leaves: only the windows differ. -/
theorem winRefused_frame (c : Nat) (w : W9) : (winRefused c w).serve.streams = w.serve.streams ∧ (winRefused c w).serve.queue = w.serve.queue ∧
    winRefused c w = { w with serve := { w.serve with wins := (winRefused c w).serve.wins, closed := (winRefused c w).serve.closed } } := by
  rw [winRefused_eq]
  refine ⟨streams_serveWin, queue_serveWin, ?_⟩
  dsimp only
  rw [← serveWin_eq]

/-- CANCEL of a stream it may not end is only counted. -/
theorem cancel_refused {x : StreamIx} {tag : BitVec 16} {w : W9} (h : (streamOf w x).state = .free ∨ (streamOf w x).reqTag ≠ tag ∨
    (streamOf w x).state = .ending ∨ (streamOf w x).state = .quarantined) : ∃ c, cancel x tag w = winRefused c w := by
  by_cases hf : (streamOf w x).state = .free
  · exact ⟨2, if_pos hf⟩
  · exact ⟨_, (if_neg hf).trans (if_pos (h.resolve_left hf))⟩

/-- The W9 in which stream `x` is noted as cancelled. -/
def cancelNoted (x : StreamIx) (w : W9) : W9 := modStream x (fun y => { y with cancelAsked := true }) w

/-- The same with the stream's queued chunks gone. -/
def cancelTaken (x : StreamIx) (w : W9) : W9 :=
  { cancelNoted x w with serve := { (cancelNoted x w).serve with queue := w.serve.queue.filter (fun c => !(c.stream == x)) } }

theorem cancel_known {x : StreamIx} {tag : BitVec 16} {w : W9} (hf : (streamOf w x).state ≠ .free) (ht : (streamOf w x).reqTag = tag)
    (he : (streamOf w x).state ≠ .ending) (hq : (streamOf w x).state ≠ .quarantined) :
    cancel x tag w = if inHold w then cancelNoted x w else finishCancel x (cancelTaken x w) := by
  refine (if_neg hf).trans ((if_neg ?_).trans rfl)
  rintro (h | h | h)
  · exact h ht
  · exact he h
  · exact hq h

theorem streamOf_cancelTaken_same (x : StreamIx) (w : W9) : streamOf (cancelTaken x w) x = { streamOf w x with cancelAsked := true } :=
  streamOf_modStream_same x (fun y => { y with cancelAsked := true }) w

theorem streamOf_cancelTaken_ne {x y : StreamIx} (h : y ≠ x) (w : W9) : streamOf (cancelTaken x w) y = streamOf w y :=
  streamOf_modStream_ne (fun y => { y with cancelAsked := true }) w h

/-- A stream with work in flight, or that is being admitted, goes on until that is over (R271). -/
theorem finishCancel_waits {x : StreamIx} {w : W9}
    (h : inPipe w x = true ∨ chunkRuns w x = true ∨ awaiting w x = true ∨ (streamOf w x).state = .admitting) : finishCancel x w = w := by
  refine if_neg fun hc => ?_
  obtain ⟨-, hp, hr, ha, hs⟩ := hc
  rcases h with h | h | h | h
  · simp [h] at hp
  · simp [h] at hr
  · simp [h] at ha
  · simp [h] at hs

/-- A cancelled stream without work in flight ends with status 2 (R271). -/
theorem finishCancel_ends {x : StreamIx} {w : W9} (hc : (streamOf w x).cancelAsked = true) (hp : inPipe w x = false)
    (hr : chunkRuns w x = false) (ha : awaiting w x = false)
    (hs : (streamOf w x).state = .prefill ∨ (streamOf w x).state = .decode ∨ (streamOf w x).state = .held ∨ (streamOf w x).state = .parked) :
    Upkeep (serveEnd w.dev.time x 2 w.serve) w (finishCancel x w) := by
  have he : finishCancel x w = raiseS 0x5013 srcSteward x ([0, 0] ++ le 2 (streamOf w x).reqTag.toNat) (endStream x 2 w) :=
    if_pos ⟨hc, by simp [hp], by simp [hr], by simp [ha], hs⟩
  rw [he]
  exact .raiseS (.endStream (.refl w))

/-- A stream in no other state has been admitted and has not ended. -/
theorem admitted_states {st : StreamState} (hf : st ≠ .free) (he : st ≠ .ending) (hq : st ≠ .quarantined) (ha : st ≠ .admitting) :
    st = .prefill ∨ st = .decode ∨ st = .held ∨ st = .parked := by
  cases st <;> simp_all

/-- The stream that a CANCEL names, and the others, after it (R271). -/
theorem cancel_open {x : StreamIx} {tag : BitVec 16} {w : W9} (hf : (streamOf w x).state ≠ .free) (ht : (streamOf w x).reqTag = tag)
    (he : (streamOf w x).state ≠ .ending) (hq : (streamOf w x).state ≠ .quarantined) (hh : inHold w = false) :
    let w' := cancel x tag w
    w'.serve.queue = w.serve.queue.filter (fun c => !(c.stream == x)) ∧ (∀ y, y ≠ x → streamOf w' y = streamOf w y) ∧
    (streamOf w' x).cancelAsked = true ∧ (streamOf w' x).reqTag = tag ∧
    (inPipe w x = false → chunkRuns w x = false → awaiting w x = false → (streamOf w x).state ≠ .admitting →
      (streamOf w' x).state = .ending ∧ (streamOf w' x).endStatus = 2 ∧ (streamOf w' x).phase = none ∧ chainOf w' x = []) ∧
    (inPipe w x = true ∨ chunkRuns w x = true ∨ awaiting w x = true → streamOf w' x = { streamOf w x with cancelAsked := true }) := by
  have hcan : cancel x tag w = finishCancel x (cancelTaken x w) := by rw [cancel_known hf ht he hq, hh]; rfl
  have hsame := streamOf_cancelTaken_same x w
  intro w'
  by_cases hw : inPipe w x = true ∨ chunkRuns w x = true ∨ awaiting w x = true ∨ (streamOf w x).state = .admitting
  · have hw' : w' = cancelTaken x w := hcan.trans (finishCancel_waits (by rw [hsame]; exact hw))
    rw [hw', hsame]
    refine ⟨rfl, fun y hy => streamOf_cancelTaken_ne hy w, rfl, ht, fun hp hr ha hs => ?_, fun _ => rfl⟩
    rw [hp, hr, ha] at hw
    simp [hs] at hw
  · simp only [not_or, Bool.not_eq_true] at hw
    obtain ⟨hp, hr, ha, hs⟩ := hw
    have hends : Upkeep (serveEnd (cancelTaken x w).dev.time x 2 (cancelTaken x w).serve) (cancelTaken x w) w' := by
      rw [show w' = _ from hcan]
      refine finishCancel_ends (by rw [hsame]) hp hr ha ?_
      rw [hsame]
      exact admitted_states hf he hq hs
    have hx := (hends.get x).trans serveGet_serveEnd_same
    have hget : ∀ y, serveGet (cancelTaken x w).serve y = streamOf (cancelTaken x w) y := fun _ => rfl
    rw [hget, hsame] at hx
    refine ⟨?_, fun y hy => ?_, by rw [hx], by rw [hx]; exact ht, fun _ _ _ _ => ⟨by rw [hx], by rw [hx], by rw [hx], ?_⟩, fun h => ?_⟩
    · rw [hends.serve, queue_serveEnd]
      exact List.filter_filter.trans (List.filter_congr fun c _ => Bool.and_self _)
    · rw [hends.get, serveGet_serveEnd_ne hy, hget, streamOf_cancelTaken_ne hy]
    · rw [chainOf, hends.serve, chains_serveEnd, smGet_smPut_same]
    · rw [hp, hr, ha] at h
      simp at h

/-! ## DRAFT_EXTEND -/

theorem draftExtend_appends {x : StreamIx} {w : W9} (token : Word32) (hsp : speculates w x = true) (ho : draftOpen w = true)
    (hd : (streamOf w x).state = .decode) (hr : (chainOf w x).length + 1 < rowsMax w) :
    draftExtend x token w = setChain x (chainOf w x ++ [token]) w := by
  simp [draftExtend, hsp, ho, hd, hr]

theorem draftExtend_none {x : StreamIx} {w : W9} (token : Word32) (h : speculates w x = false ∨ draftOpen w = false ∨
    (streamOf w x).state ≠ .decode ∨ rowsMax w ≤ (chainOf w x).length + 1) : draftExtend x token w = w := by
  refine if_neg fun hc => ?_
  simp only [Bool.and_eq_true, decide_eq_true_eq] at hc
  obtain ⟨⟨⟨hsp, ho⟩, hd⟩, hr⟩ := hc
  rcases h with h | h | h | h
  · simp [h] at hsp
  · simp [h] at ho
  · exact h hd
  · omega

/-- Settles O26: the scan of the one live ring by `takeRecords`, CANCEL by the state of its stream, DRAFT_EXTEND by its test. -/
theorem intakeTakesDueRecords : Obligations.IntakeTakesDueRecords := by
  unfold Obligations.IntakeTakesDueRecords
  refine ⟨fun s => ⟨fun h => exec_of_lift_same rfl (intakeScan_off h), fun n hport hctrl hd hidle => ⟨fun hdue => ?_,
    fun h31 h30 hdue => ⟨fun hnew hfree => ?_, fun hfree => ?_⟩⟩⟩, fun s x tag => ⟨fun h => ?_, fun hf ht he hq => ⟨fun hh => ?_, fun hh => ?_⟩⟩,
    fun s x token => ⟨fun hsp ho hd hr => ?_, fun h => exec_of_lift_same rfl (draftExtend_none token h)⟩⟩
  · refine exec_of_lift_same rfl ((intakeScan_runs hport hctrl hd).trans ?_)
    have hsame := scanRing_notDue (t := s.w.dev.time) (w := s.w) hdue
    rw [scan_one hidle (fun m _ => by rw [hsame]), hsame]
  · have hlive : ringLive s.w n = true := by rw [ringLive, h31, h30]; rfl
    have hfull := scanRing_full (t := s.w.dev.time) hlive hdue hnew hfree
    refine ⟨_, exec_of_lift_eq rfl ((intakeScan_runs hport hctrl hd).trans ((scan_one hidle fun m hm => ?_).trans hfull)), ?_, fun off ho => ?_, rfl⟩
    · rw [hfull, rd_wrB_ne _ _ _ (intakeCtrl_inj hm)]
    · exact rdB_wrB_same _ _ _ _ (by decide)
    · exact rd_wrB_ne _ _ _ ho
  · have hlive : ringLive s.w n = true := by rw [ringLive, h31, h30]; rfl
    obtain ⟨l, hl, hlen⟩ := taken_takeRecords n s.w.dev.time 7 (recordTaken n s.w.dev.time s.w)
    have hall := (taken_recordTaken n s.w.dev.time s.w).trans hl
    rw [← takeRecords_taken hdue hfree] at hall
    have hscan := taken_scanRing hall hlive
    refine ⟨_, exec_of_lift_eq rfl ((intakeScan_runs hport hctrl hd).trans (scan_one hidle hscan.ctrl)),
      ⟨l, hscan.admitQ, Nat.lt_succ_of_le hlen, ?_, ?_⟩, hscan.streams, hscan.kv⟩
    · rw [hscan.taken, List.length_append, List.length_singleton, Nat.add_assoc]
    · rw [hscan.found, List.length_append, List.length_singleton]
  · obtain ⟨c, hc⟩ := cancel_refused h
    exact ⟨_, exec_of_lift_eq rfl hc, winRefused_frame c s.w⟩
  · have he' : cancel x tag s.w = cancelNoted x s.w := by rw [cancel_known hf ht he hq, if_pos hh]
    exact ⟨_, exec_of_lift_eq rfl he', streamOf_modStream_same x _ s.w, rfl, fun y hy => streamOf_modStream_ne _ s.w hy⟩
  · exact yields_of_lift (cancel x tag) rfl (cancel_open hf ht he hq hh)
  · refine ⟨_, exec_of_lift_eq rfl (draftExtend_appends token hsp ho hd hr), smGet_smPut_same _ _ _ _, fun y hy => ?_, rfl⟩
    exact smGet_smPut_ne _ _ _ (fun e => hy (Fin.ext e))

end Sys2Proof.Machine
end

section
/-! SUPPORT. Rings in host memory: enabling, batches, vectors, and the completion that frees a slot (R272, R373 to R379). -/

namespace Sys2Proof.Machine

open Sys2Proof

set_option Elab.async false

/-! ## A ring's registers -/

/-- A ring's five registers lie apart. -/
theorem hostRingRegs_apart (r : HostRing) : (ringRegs r).2.1 ≠ (ringRegs r).2.2.2.1 ∧ (ringRegs r).2.1 ≠ (ringRegs r).2.2.1 ∧
    (ringRegs r).2.2.1 ≠ (ringRegs r).2.2.2.1 ∧ (ringRegs r).1 ≠ (ringRegs r).2.2.2.1 ∧ (ringRegs r).1 + 4 ≠ (ringRegs r).2.2.2.1 := by
  cases r <;> simp only [ringRegs, Reg.outAddr, Reg.outCtrl, Reg.outConsumed, Reg.outWritten, Reg.cplBase, Reg.cplCtrl, Reg.cplConsumed,
    Reg.cplWritten, Reg.evtBase, Reg.evtCtrl, Reg.evtConsumed, Reg.evtWritten] <;> omega

/-- None of them is EVT_LOST, HOSTIF_ERR or a count of reservations. -/
theorem hostRingRegs_plain (r : HostRing) : ((ringRegs r).2.1 ≠ Reg.evtLost ∧ (ringRegs r).2.1 ≠ Reg.hostifErr) ∧
    ((ringRegs r).2.2.2.1 ≠ Reg.evtLost ∧ (ringRegs r).2.2.2.1 ≠ Reg.hostifErr) ∧
    ∀ n : RingIx, (ringRegs r).2.2.2.1 ≠ Reg.cplReserved n.val := by
  cases r <;> simp only [ringRegs, Reg.outCtrl, Reg.outWritten, Reg.cplCtrl, Reg.cplWritten, Reg.evtCtrl, Reg.evtWritten, Reg.evtLost,
    Reg.hostifErr, Reg.cplReserved] <;> exact ⟨by omega, by omega, fun n => by omega⟩

/-- A field is made of the word's bits. -/
theorem fieldOf_of_bits {n hi lo : Nat} {u v : BitVec n} (h : ∀ i, lo ≤ i → i ≤ hi → u.getLsbD i = v.getLsbD i) :
    fieldOf u hi lo = fieldOf v hi lo := by
  apply Nat.eq_of_testBit_eq
  intro j
  rw [testBit_fieldOf, testBit_fieldOf]
  by_cases hj : j < hi + 1 - lo
  · rw [h _ (by omega) (by omega)]
  · simp [hj]

/-! ## The control word an enable writes -/

/-- What an enable may take of the value written, and where its sticky ERR stands (Tables 10.7, 10.8). -/
def enableKeep (r : HostRing) : Word32 := if decide (r = .event) then 0x00FF0000 else 0x00FF8000

/-- The ERR bit that stays. -/
def enableErr (r : HostRing) (old v : Word32) : Word32 :=
  if !decide (r = .event) && old.getLsbD 30 && !v.getLsbD 30 then 0x40000000 else 0

theorem enableKeep_low (r : HostRing) {i : Nat} (h : i ≤ 4 ∨ i = 31) : (enableKeep r).getLsbD i = false := by
  unfold enableKeep
  rcases h with h | rfl
  · interval_cases i <;> split <;> rfl
  · split <;> rfl

theorem enableErr_low (r : HostRing) (old v : Word32) {i : Nat} (h : i ≤ 4 ∨ i = 31) : (enableErr r old v).getLsbD i = false := by
  unfold enableErr
  rcases h with h | rfl
  · interval_cases i <;> split <;> rfl
  · split <;> rfl

/-- The size field and ENABLE are the bits of a mask that passes them. -/
theorem mask_low {m : Word32} (hm : m = 0x8000001F ∨ m = 0x1F) {i : Nat} (h : i ≤ 4) : m.getLsbD i = true := by
  rcases hm with rfl | rfl <;> interval_cases i <;> rfl

/-- An enabled ring keeps ENABLE and its size. -/
def stillEnabled (r : HostRing) (old v : Word32) : Word32 := (old &&& 0x8000001F) ||| (v &&& enableKeep r) ||| enableErr r old v
/-- A ring that is enabled takes ENABLE and its size from the value written. -/
def newlyEnabled (r : HostRing) (old v : Word32) : Word32 := (v &&& (enableKeep r ||| 0x8000001F)) ||| enableErr r old v
/-- A ring that is refused takes no ENABLE, and a token or completion ring its ERR. -/
def enableRefused (r : HostRing) (v : Word32) : Word32 := (v &&& (enableKeep r ||| 0x1F)) ||| (if decide (r = .event) then 0 else 0x40000000)

theorem stillEnabled_bit (r : HostRing) (old v : Word32) {i : Nat} (h : i ≤ 4 ∨ i = 31) : (stillEnabled r old v).getLsbD i = old.getLsbD i := by
  have hm : (0x8000001F : Word32).getLsbD i = true := h.elim (fun h => mask_low (.inl rfl) h) (fun h => h ▸ rfl)
  rw [stillEnabled, BitVec.getLsbD_or, BitVec.getLsbD_or, BitVec.getLsbD_and, BitVec.getLsbD_and, enableKeep_low r h, enableErr_low r old v h, hm]
  simp

theorem newlyEnabled_bit (r : HostRing) (old v : Word32) {i : Nat} (h : i ≤ 4 ∨ i = 31) : (newlyEnabled r old v).getLsbD i = v.getLsbD i := by
  have hm : (0x8000001F : Word32).getLsbD i = true := h.elim (fun h => mask_low (.inl rfl) h) (fun h => h ▸ rfl)
  rw [newlyEnabled, BitVec.getLsbD_or, BitVec.getLsbD_and, BitVec.getLsbD_or, enableKeep_low r h, enableErr_low r old v h, hm]
  simp

theorem enableRefused_bits (r : HostRing) (v : Word32) :
    (enableRefused r v).getLsbD 31 = false ∧ (r ≠ .event → (enableRefused r v).getLsbD 30 = true) := by
  have h31 : (enableKeep r).getLsbD 31 = false := enableKeep_low r (.inr rfl)
  have hm : (0x1F : Word32).getLsbD 31 = false := rfl
  have he : (0x40000000 : Word32).getLsbD 31 = false := rfl
  refine ⟨?_, fun hr => ?_⟩
  · rw [enableRefused, BitVec.getLsbD_or, BitVec.getLsbD_and, BitVec.getLsbD_or, h31, hm, Bool.or_self, Bool.and_false, Bool.false_or]
    split
    · rfl
    · exact he
  · rw [enableRefused, if_neg (by simpa using hr), BitVec.getLsbD_or]
    exact (congrArg (_ || ·) (show (0x40000000 : Word32).getLsbD 30 = true from rfl)).trans (Bool.or_true _)

theorem hostRingEnable_eq {r : HostRing} {w : W9} (v : Word32) (hport : hostAnswers w = true) : hostRingEnable r v w =
    if (hrCtrl w r).getLsbD 31 then wr (ringRegs r).2.1 (stillEnabled r (hrCtrl w r) v) w
    else if hrValid w r (fieldOf v 4 0) then
      wr (ringRegs r).2.2.1 0 (wr (ringRegs r).2.2.2.1 0 (wr (ringRegs r).2.1 (newlyEnabled r (hrCtrl w r) v) w))
    else ringRefused (hrLimits r).2.1 (hrLimits r).2.2 (wr (ringRegs r).2.1 (enableRefused r v) w) := by
  refine (if_neg ?_).trans rfl
  rw [hport]
  decide

/-- A write of ENABLE 1 to an enabled ring: it stays enabled with its size (R373; log entry 112). -/
theorem hostRingEnable_again {r : HostRing} {w : W9} (v : Word32) (hport : hostAnswers w = true) (hon : (hrCtrl w r).getLsbD 31 = true) :
    let w' := hostRingEnable r v w
    (hrCtrl w' r).getLsbD 31 = true ∧ hrEntries w' r = hrEntries w r ∧
    (∀ off, off ≠ (ringRegs r).2.1 → rd w' off = rd w off) ∧ w' = { w with bar0 := w'.bar0 } := by
  rw [hostRingEnable_eq v hport, if_pos hon]
  have hc : hrCtrl (wr (ringRegs r).2.1 (stillEnabled r (hrCtrl w r) v) w) r = stillEnabled r (hrCtrl w r) v := rd_wr_same _ _ _
  refine ⟨by rw [hc, stillEnabled_bit _ _ _ (.inr rfl), hon], ?_, fun off ho => rd_wr_ne _ _ ho, rfl⟩
  rw [hrEntries, hc, fieldOf_of_bits fun i _ hi => stillEnabled_bit _ _ _ (.inl hi), hrEntries]

theorem hostRingEnable_first {r : HostRing} {w : W9} {v : Word32} (hport : hostAnswers w = true) (hv : v.getLsbD 31 = true)
    (hoff : (hrCtrl w r).getLsbD 31 = false) (hok : hrValid w r (fieldOf v 4 0) = true) :
    let w' := hostRingEnable r v w
    (hrCtrl w' r).getLsbD 31 = true ∧ hrEntries w' r = 2 ^ fieldOf v 4 0 ∧ hrWritten w' r = 0 ∧ rd w' (ringRegs r).2.2.1 = 0 ∧
    w' = { w with bar0 := w'.bar0 } := by
  obtain ⟨hcw, hcc, hcon, -, -⟩ := hostRingRegs_apart r
  rw [hostRingEnable_eq v hport, if_neg (by rw [hoff]; decide), if_pos hok]
  have hc : hrCtrl (wr (ringRegs r).2.2.1 0 (wr (ringRegs r).2.2.2.1 0 (wr (ringRegs r).2.1 (newlyEnabled r (hrCtrl w r) v) w))) r =
      newlyEnabled r (hrCtrl w r) v := by
    rw [hrCtrl, rd_wr_ne _ _ hcc, rd_wr_ne _ _ hcw, rd_wr_same]
  refine ⟨by rw [hc, newlyEnabled_bit _ _ _ (.inr rfl), hv], ?_, ?_, rd_wr_same _ _ _, rfl⟩
  · rw [hrEntries, hc, fieldOf_of_bits fun i _ hi => newlyEnabled_bit _ _ _ (.inl hi)]
  · rw [hrWritten, rd_wr_ne _ _ hcon.symm, rd_wr_same]

theorem hostRingEnable_refused {r : HostRing} {w : W9} {v : Word32} (hport : hostAnswers w = true)
    (hoff : (hrCtrl w r).getLsbD 31 = false) (hbad : hrValid w r (fieldOf v 4 0) = false) :
    let w' := hostRingEnable r v w
    (hrCtrl w' r).getLsbD 31 = false ∧ (r ≠ .event → (hrCtrl w' r).getLsbD 30 = true) ∧ hrWritten w' r = hrWritten w r ∧ w'.mem = w.mem := by
  obtain ⟨hcw, -, -, -, -⟩ := hostRingRegs_apart r
  obtain ⟨⟨hc1, hc2⟩, ⟨hw1, hw2⟩, -⟩ := hostRingRegs_plain r
  rw [hostRingEnable_eq v hport, if_neg (by rw [hoff]; decide), if_neg (by rw [hbad]; decide)]
  dsimp only [ringRefused]
  have hc : hrCtrl (raise0 0x8010 srcIntake ([(hrLimits r).2.1, 0] ++ le 2 (hrLimits r).2.2) (wr (ringRegs r).2.1 (enableRefused r v) w)) r =
      enableRefused r v := by rw [hrCtrl, rd_raise0 _ _ _ _ hc1 hc2, rd_wr_same]
  refine ⟨by rw [hc, (enableRefused_bits r v).1], fun hr => by rw [hc, (enableRefused_bits r v).2 hr], ?_, (raise0_step _ _ _ _).mem⟩
  rw [hrWritten, rd_raise0 _ _ _ _ hw1 hw2, rd_wr_ne _ _ hcw.symm, hrWritten]

/-! ## Entries written -/

/-- The address of a ring's entry by its count. -/
def slotAddr (w : W9) (r : HostRing) (n : Nat) : Nat := hrBase w r + n % hrEntries w r * (ringRegs r).2.2.2.2

/-- The byte of host memory at an address. -/
def hostByte (w : W9) (a : Nat) : Byte := smGet (fun _ => 0) w.host.hostMem a

/-- One entry written: its bytes, and WRITTEN one further. -/
def putEntry (r : HostRing) (e : Bool → List Byte) (w : W9) : W9 :=
  let n := (hrWritten w r).toNat
  let u := putHost (slotAddr w r n) (e (n / hrEntries w r % 2 == 0)) w
  wr (ringRegs r).2.2.2.1 (hrWritten u r + 1) u

theorem putEntries_cons (r : HostRing) (e : Bool → List Byte) (l : List (Bool → List Byte)) (w : W9) :
    putEntries r (e :: l) w = putEntries r l (putEntry r e w) := rfl

theorem putEntry_ring (r : HostRing) (e : Bool → List Byte) (w : W9) : hrWritten (putEntry r e w) r = hrWritten w r + 1 ∧
    hrEntries (putEntry r e w) r = hrEntries w r ∧ hrBase (putEntry r e w) r = hrBase w r := by
  obtain ⟨hcw, -, -, hb, hb4⟩ := hostRingRegs_apart r
  refine ⟨rd_wr_same _ _ _, ?_, ?_⟩
  · simp only [hrEntries, hrCtrl, putEntry, rd_wr_ne _ _ hcw]
    rfl
  · simp only [hrBase, putEntry, rd64, rd_wr_ne _ _ hb, rd_wr_ne _ _ hb4]
    rfl

theorem putEntry_slotAddr (r : HostRing) (e : Bool → List Byte) (w : W9) (n : Nat) : slotAddr (putEntry r e w) r n = slotAddr w r n := by
  obtain ⟨-, he, hb⟩ := putEntry_ring r e w
  rw [slotAddr, he, hb, slotAddr]

/-- What writing entries leaves: host memory and WRITTEN alone change. -/
theorem putEntries_frame (r : HostRing) (l : List (Bool → List Byte)) (w : W9) :
    putEntries r l w = { w with bar0 := (putEntries r l w).bar0, host := { w.host with hostMem := (putEntries r l w).host.hostMem } } ∧
    (∀ off, off ≠ (ringRegs r).2.2.2.1 → rd (putEntries r l w) off = rd w off) := by
  induction l generalizing w with
  | nil => exact ⟨rfl, fun _ _ => rfl⟩
  | cons e l ih =>
    obtain ⟨hw, hr⟩ := ih (putEntry r e w)
    rw [putEntries_cons]
    refine ⟨?_, fun off ho => (hr off ho).trans ((rd_wr_ne _ _ ho).trans rfl)⟩
    rw [hw]
    rfl

theorem putEntries_written (r : HostRing) (l : List (Bool → List Byte)) (w : W9) :
    hrWritten (putEntries r l w) r = hrWritten w r + BitVec.ofNat 32 l.length := by
  induction l generalizing w with
  | nil => exact (BitVec.add_zero _).symm
  | cons e l ih =>
    rw [putEntries_cons, ih, (putEntry_ring r e w).1, List.length_cons, Nat.add_comm, BitVec.ofNat_add, BitVec.add_assoc]
    rfl

section

variable {r : HostRing} {l : List (Bool → List Byte)}

/-- Bytes beside the entry's place stand. -/
theorem putEntry_beside {e : Bool → List Byte} {w : W9} {a : Nat} (he : ∀ p, (e p).length = (ringRegs r).2.2.2.2)
    (ha : a < slotAddr w r (hrWritten w r).toNat ∨ slotAddr w r (hrWritten w r).toNat + (ringRegs r).2.2.2.2 ≤ a) :
    hostByte (putEntry r e w) a = hostByte w a :=
  smGet_putBytes_out _ _ _ _ _ (by rw [he]; exact ha)

/-- The count of an entry wraps at 2^32, which leaves its place and phase alone. -/
theorem slot_wrap {k n : Nat} (hk : ∃ g, g ≤ 16 ∧ k = 2 ^ g) : n % 2 ^ 32 % k = n % k ∧ n % 2 ^ 32 / k % 2 = n / k % 2 := by
  obtain ⟨g, hg, rfl⟩ := hk
  have hdvd : 2 ^ g * 2 ∣ 2 ^ 32 := by
    rw [← Nat.pow_succ]
    exact Nat.pow_dvd_pow 2 (by omega)
  refine ⟨Nat.mod_mod_of_dvd n (Dvd.dvd.trans ⟨2, rfl⟩ hdvd), ?_⟩
  rw [← Nat.mod_mul_right_div_self, ← Nat.mod_mul_right_div_self, Nat.mod_mod_of_dvd n hdvd]

/-- Fewer places than the ring has entries are distinct. -/
theorem slot_ne {k n i j : Nat} (hi : i < k) (hj : j < k) (h : i ≠ j) : (n + i) % k ≠ (n + j) % k := by
  intro e
  have : i ≡ j [MOD k] := Nat.ModEq.add_left_cancel' n e
  exact h (by rwa [Nat.ModEq, Nat.mod_eq_of_lt hi, Nat.mod_eq_of_lt hj] at this)

/-- Bytes beside every place written stand. -/
theorem putEntries_beside (hl : ∀ e ∈ l, ∀ p, (e p).length = (ringRegs r).2.2.2.2) {w : W9} {a : Nat} (hk : ∃ g, g ≤ 16 ∧ hrEntries w r = 2 ^ g)
    (ha : ∀ i, i < l.length → a < slotAddr w r ((hrWritten w r).toNat + i) ∨ slotAddr w r ((hrWritten w r).toNat + i) + (ringRegs r).2.2.2.2 ≤ a) :
    hostByte (putEntries r l w) a = hostByte w a := by
  induction l generalizing w with
  | nil => rfl
  | cons e l ih =>
    obtain ⟨hw, he, -⟩ := putEntry_ring r e w
    have hpl : ∀ i, slotAddr (putEntry r e w) r ((hrWritten (putEntry r e w) r).toNat + i) = slotAddr w r ((hrWritten w r).toNat + (i + 1)) := by
      intro i
      rw [putEntry_slotAddr, hw, slotAddr, slotAddr, BitVec.toNat_add, ← (slot_wrap (n := _ + i) hk).1, Nat.mod_add_mod, (slot_wrap hk).1,
        show (1 : Word32).toNat = 1 from rfl, Nat.add_assoc, Nat.add_comm 1 i]
    rw [putEntries_cons, ih (fun x hx => hl x (List.mem_cons_of_mem e hx)) (he ▸ hk) (fun i hi => ?_),
      putEntry_beside (hl e List.mem_cons_self) (ha 0 (Nat.succ_pos _))]
    rw [hpl]
    exact ha (i + 1) (Nat.succ_lt_succ hi)

/-- Each entry lies at its place with its lap's phase (R373). -/
theorem putEntries_bytes (hl : ∀ e ∈ l, ∀ p, (e p).length = (ringRegs r).2.2.2.2) {w : W9} (hk : ∃ g, g ≤ 16 ∧ hrEntries w r = 2 ^ g)
    (hn : l.length ≤ hrEntries w r) {i j : Nat} {e : Bool → List Byte} (he : l[i]? = some e) (hj : j < (ringRegs r).2.2.2.2) :
    hostByte (putEntries r l w) (slotAddr w r ((hrWritten w r).toNat + i) + j) =
      (e (((hrWritten w r).toNat + i) / hrEntries w r % 2 == 0)).getD j 0 := by
  induction l generalizing w i with
  | nil => cases he
  | cons x l ih =>
    obtain ⟨hw, hent, -⟩ := putEntry_ring r x w
    have hx := hl x List.mem_cons_self
    have hrest : ∀ y ∈ l, ∀ p, (y p).length = (ringRegs r).2.2.2.2 := fun y hy => hl y (List.mem_cons_of_mem x hy)
    have hmod : ∀ i, ((hrWritten w r + 1).toNat + i) % 2 ^ 32 = ((hrWritten w r).toNat + (i + 1)) % 2 ^ 32 := fun i => by
      rw [BitVec.toNat_add, Nat.mod_add_mod, show (1 : Word32).toNat = 1 from rfl, Nat.add_assoc, Nat.add_comm 1 i]
    have hplace : ∀ i, slotAddr (putEntry r x w) r ((hrWritten (putEntry r x w) r).toNat + i) = slotAddr w r ((hrWritten w r).toNat + (i + 1)) :=
      fun i => by rw [putEntry_slotAddr, hw, slotAddr, slotAddr, ← (slot_wrap hk).1, hmod, (slot_wrap hk).1]
    have hphase : ∀ i, ((hrWritten (putEntry r x w) r).toNat + i) / hrEntries (putEntry r x w) r % 2 =
        ((hrWritten w r).toNat + (i + 1)) / hrEntries w r % 2 :=
      fun i => by rw [hw, hent, ← (slot_wrap hk).2, hmod, (slot_wrap hk).2]
    rw [List.length_cons] at hn
    cases i with
    | zero =>
      obtain rfl : x = e := Option.some.inj he
      rw [putEntries_cons, putEntries_beside hrest (hent ▸ hk) fun i hi => ?_]
      · exact smGet_putBytes_in _ _ _ _ _ (by rw [hx]; exact hj)
      · rw [hplace]
        have hne := slot_ne (k := hrEntries w r) (n := (hrWritten w r).toNat) (i := 0) (j := i + 1) (by omega) (by omega) (by omega)
        simp only [slotAddr]
        rcases Nat.lt_or_gt_of_ne hne with h | h
        · left
          have := Nat.mul_le_mul_right (ringRegs r).2.2.2.2 h
          rw [Nat.succ_mul] at this
          omega
        · right
          have := Nat.mul_le_mul_right (ringRegs r).2.2.2.2 h
          rw [Nat.succ_mul] at this
          omega
    | succ i =>
      have := ih hrest (w := putEntry r x w) (hent ▸ hk) (by omega) (i := i) he
      rw [hplace, hphase] at this
      exact this

end

/-! ## One batch -/

/-- Token and completion records have their ring's entry size (Tables 10.4, 10.5). -/
theorem hrWaiting_sizes {r : HostRing} (hr : r ≠ .event) (w : W9) : ∀ e ∈ hrWaiting w r, ∀ p, (e p).length = (ringRegs r).2.2.2.2 := by
  intro e he p
  cases r with
  | token s =>
    obtain ⟨x, -, rfl⟩ := List.mem_map.mp he
    simp [tokenBytes, le_length, ringRegs]
  | completion n =>
    obtain ⟨x, -, rfl⟩ := List.mem_map.mp he
    simp [cplBytes, le_length, ringRegs]
  | event => exact absurd rfl hr

/-- The written entries wait no more; WRITTEN, host memory and the rest stand. -/
theorem dropWaiting_frame (r : HostRing) (k : Nat) (w : W9) : hrWaiting (dropWaiting r k w) r = (hrWaiting w r).drop k ∧
    hrWritten (dropWaiting r k w) r = hrWritten w r ∧ (dropWaiting r k w).host.hostMem = w.host.hostMem ∧
    (dropWaiting r k w).mem = w.mem ∧ (dropWaiting r k w).serve = w.serve := by
  cases r with
  | token s => exact ⟨by simp [hrWaiting, dropWaiting, smMod, List.map_drop], rfl, rfl, rfl, rfl⟩
  | completion n =>
    have hne := (hostRingRegs_plain (.completion n)).2.2 n
    refine ⟨?_, (rd_wrF_ne _ _ _ _ hne).trans rfl, rfl, rfl, rfl⟩
    simp [hrWaiting, dropWaiting, releaseEntries, smMod, List.map_drop]
  | event => exact ⟨by simp [hrWaiting, dropWaiting, List.map_drop], rfl, rfl, rfl, rfl⟩

theorem afterBatch_frame (r : HostRing) (w : W9) : hrWaiting (afterBatch r w) r = hrWaiting w r ∧
    hrWritten (afterBatch r w) r = hrWritten w r ∧ (r ≠ .event → (afterBatch r w).host.hostMem = w.host.hostMem) ∧
    (afterBatch r w).mem = w.mem ∧ (afterBatch r w).serve = w.serve := by
  by_cases hr : r = .event
  · subst hr
    unfold afterBatch
    dsimp only
    rw [if_pos rfl]
    split <;> exact ⟨rfl, rfl, fun h => absurd rfl h, rfl, rfl⟩
  · unfold afterBatch
    dsimp only
    rw [if_neg hr]
    split <;> exact ⟨by cases r <;> rfl, rfl, fun _ => rfl, rfl, rfl⟩

theorem hrWaiting_of_host {w w' : W9} (hb : w'.host.backlog = w.host.backlog) (hc : w'.host.cplWait = w.host.cplWait)
    (he : w'.host.evtWait = w.host.evtWait) (r : HostRing) : hrWaiting w' r = hrWaiting w r := by
  cases r <;> simp [hrWaiting, hb, hc, he]

theorem ringBatch_none {r : HostRing} {w : W9} (h : canWrite w = false ∨ hrRoom w r = 0) : ringBatch r w = w := by
  refine if_pos ?_
  rcases h with h | h
  · rw [h]; rfl
  · rw [h, List.take_zero]
    exact Bool.or_true _

theorem hrRoom_le (w : W9) (r : HostRing) : hrRoom w r ≤ hrEntries w r := by
  unfold hrRoom
  split <;> omega

/-- What one batch writes (R373, R378). -/
theorem ringBatch_writes {r : HostRing} {w : W9} (hcan : canWrite w = true) :
    let w' := ringBatch r w
    let k := min (hrWaiting w r).length (hrRoom w r)
    hrWritten w' r = hrWritten w r + BitVec.ofNat 32 k ∧ hrWaiting w' r = (hrWaiting w r).drop k ∧
    (r ≠ .event → hrEntries w r ≤ 2 ^ 16 → ∀ i e, i < k → (hrWaiting w r)[i]? = some e → ∀ j, j < (ringRegs r).2.2.2.2 →
      hostByte w' (slotAddr w r ((hrWritten w r).toNat + i) + j) = (e (((hrWritten w r).toNat + i) / hrEntries w r % 2 == 0)).getD j 0) ∧
    w'.mem = w.mem ∧ w'.serve = w.serve := by
  have hlen : ((hrWaiting w r).take (hrRoom w r)).length = min (hrWaiting w r).length (hrRoom w r) := by
    rw [List.length_take, Nat.min_comm]
  intro w' k
  by_cases hes : (hrWaiting w r).take (hrRoom w r) = []
  · have hk : k = 0 := by rw [← List.length_eq_zero_iff, hlen] at hes; exact hes
    have hw' : w' = w := if_pos (by rw [hes]; exact Bool.or_true _)
    rw [hw', hk]
    exact ⟨(BitVec.add_zero _).symm, rfl, fun _ _ i e hi => absurd hi (Nat.not_lt_zero i), rfl, rfl⟩
  · have hw' : w' = afterBatch r (dropWaiting r k (putEntries r ((hrWaiting w r).take (hrRoom w r)) w)) := by
      refine (if_neg ?_).trans (by rw [hlen])
      simp [hcan, hes]
    generalize hu : putEntries r ((hrWaiting w r).take (hrRoom w r)) w = u at hw'
    obtain ⟨hframe, -⟩ := putEntries_frame r ((hrWaiting w r).take (hrRoom w r)) w
    rw [hu] at hframe
    obtain ⟨hd1, hd2, hd3, hd4, hd5⟩ := dropWaiting_frame r k u
    obtain ⟨ha1, ha2, ha3, ha4, ha5⟩ := afterBatch_frame r (dropWaiting r k u)
    rw [hw']
    refine ⟨?_, ?_, fun hr hsize i e hi he j hj => ?_, by rw [ha4, hd4, hframe], by rw [ha5, hd5, hframe]⟩
    · rw [ha2, hd2, ← hu, putEntries_written, hlen]
    · rw [ha1, hd1]
      exact congrArg (List.drop k) (hrWaiting_of_host (by rw [hframe]) (by rw [hframe]) (by rw [hframe]) r)
    · rw [hostByte, ha3 hr, hd3, ← hu]
      refine putEntries_bytes (fun x hx => hrWaiting_sizes hr w x (List.mem_of_mem_take hx)) ?_ ?_ ?_ hj
      · exact ⟨_, (Nat.pow_le_pow_iff_right (by decide)).mp hsize, rfl⟩
      · exact (List.length_take_le _ _).trans (hrRoom_le w r)
      · rw [List.getElem?_take_of_lt (by omega), he]

/-! ## Vectors -/

theorem msixSend_off {v : Fin 256} {w : W9} (h : w.host.vectorDue.contains v = false ∨ canWrite w = false ∨ w.host.msixOn = false) :
    msixSend v w = w := by
  refine if_neg ?_
  rcases h with h | h | h <;> rw [h] <;> simp

/-- The W9 in which a vector is due no more. -/
def vectorGone (v : Fin 256) (w : W9) : W9 :=
  { w with host := { w.host with vectorDue := w.host.vectorDue.filter (fun x => decide (x ≠ v)) } }

/-- The W9 in which a vector's message is written (R379). -/
def vectorSent (v : Fin 256) (w : W9) : W9 :=
  let a := (rd w (Reg.msixAddrLo v.val)).toNat + 2 ^ 32 * (rd w (Reg.msixAddrHi v.val)).toNat
  let u := putHost a (le 4 (rd w (Reg.msixData v.val)).toNat) (vectorGone v w)
  { u with host := { u.host with
    vectorLast := smPut (fun _ => 0) u.host.vectorLast v.val (now u + 1)
    msixSent := smMod (fun _ => 0) u.host.msixSent v.val (fun n => n + 1) } }

theorem msixSend_due {v : Fin 256} {w : W9} (hd : w.host.vectorDue.contains v = true) (hc : canWrite w = true) (hm : w.host.msixOn = true) :
    msixSend v w = if rdB w (Reg.msixCtl v.val) 0 then wrB (Reg.msixPba (v.val / 32)) (v.val % 32) true (vectorGone v w)
      else if vectorReady w v then vectorSent v w else w :=
  if_pos (by rw [hd, hc, hm]; rfl)

theorem vectorGone_gone (v : Fin 256) (w : W9) : (vectorGone v w).host.vectorDue.contains v = false := by
  simp [vectorGone]

theorem vectorSent_bytes (v : Fin 256) (w : W9) {j : Nat} (hj : j < 4) : smGet (fun _ => 0) (vectorSent v w).host.hostMem
    ((rd w (Reg.msixAddrLo v.val)).toNat + 2 ^ 32 * (rd w (Reg.msixAddrHi v.val)).toNat + j) = (le 4 (rd w (Reg.msixData v.val)).toNat).getD j 0 :=
  smGet_putBytes_in _ _ _ _ _ (by rw [le_length]; exact hj)

theorem vectorSent_count (v : Fin 256) (w : W9) :
    smGet (fun _ => 0) (vectorSent v w).host.msixSent v.val = smGet (fun _ => 0) w.host.msixSent v.val + 1 := by
  simp [vectorSent, smMod, putHost, vectorGone]

/-! ## Completions -/

/-- A stream without SHARED blocks has nothing to release (R242). -/
theorem releaseShared_none {x : StreamIx} {w : W9} (h : ∀ e ∈ streamBlocks w x, e.2.state ≠ .shared) : releaseShared x w = w := by
  have hnil : (streamBlocks w x).filter (fun e => decide (e.2.state = .shared)) = [] :=
    List.filter_eq_nil_iff.mpr fun e he => by simpa using h e he
  rw [releaseShared, hnil]
  rfl

theorem completionPost_none {x : StreamIx} {w : W9} (h : (streamOf w x).state ≠ .ending ∨ (streamOf w x).handedOff = true ∨
    w.pair.shadows.contains x = true) : completionPost x w = w := if_pos h

/-- The completion record of stream `x` waits in ring `n`. -/
def cplQueued (x : StreamIx) (n : RingIx) (w : W9) : W9 := if cplWaits w x n then w else pushCpl n (cplOf w x) w

section

variable {x : StreamIx} {w : W9} (he : (streamOf w x).state = .ending) (hh : (streamOf w x).handedOff = false)
  (hs : w.pair.shadows.contains x = false) (hb : ∀ e ∈ streamBlocks w x, e.2.state ≠ .shared)
include he hh hs hb

theorem completionPost_noRing (hring : (streamOf w x).cplRing = none) : completionPost x w = freeSlot x w := by
  simp only [completionPost, he, hh, hs, ne_eq, not_true_eq_false, Bool.false_eq_true, or_self, if_false, releaseShared_none hb, hring]

theorem completionPost_tokensWait {n : RingIx} (hring : (streamOf w x).cplRing = some n) (ht : tokensDone w x = false) :
    completionPost x w = w := by
  simp only [completionPost, he, hh, hs, ne_eq, not_true_eq_false, Bool.false_eq_true, or_self, if_false, releaseShared_none hb, hring, ht,
    Bool.not_false, if_true]

theorem completionPost_posts {n : RingIx} (hring : (streamOf w x).cplRing = some n) (ht : tokensDone w x = true) :
    completionPost x w = if cplWaits (ringBatch (.completion n) (cplQueued x n w)) x n then ringBatch (.completion n) (cplQueued x n w)
      else freeSlot x (ringBatch (.completion n) (cplQueued x n w)) := by
  simp only [completionPost, he, hh, hs, ne_eq, not_true_eq_false, Bool.false_eq_true, or_self, if_false, releaseShared_none hb, hring, ht,
    Bool.not_true, cplQueued]
  rfl

end

theorem freeSlot_frees (x : StreamIx) (w : W9) : Upkeep (serveStream x (fun _ => Stream.init) w.serve) w (freeSlot x w) :=
  (Upkeep.refl w).freeSlot

theorem freeSlot_streams (x : StreamIx) (w : W9) : streamOf (freeSlot x w) x = Stream.init ∧
    ∀ y, y ≠ x → streamOf (freeSlot x w) y = streamOf w y :=
  ⟨((freeSlot_frees x w).get x).trans serveGet_serveStream_same, fun y hy => ((freeSlot_frees x w).get y).trans (serveGet_serveStream_ne hy)⟩

/-- A record that waits is found by its stream, tag and status. -/
theorem cplWaits_cplQueued (x : StreamIx) (n : RingIx) (w : W9) : cplWaits (cplQueued x n w) x n = true := by
  unfold cplQueued
  split
  · assumption
  · simp only [cplWaits, pushCpl, smMod, smGet_smPut_same, List.any_append, Bool.or_eq_true]
    right
    simp [cplOf]
    exact ⟨rfl, rfl⟩

theorem cplQueued_frame (x : StreamIx) (n : RingIx) (w : W9) : (cplQueued x n w).serve = w.serve ∧ (cplQueued x n w).bar0 = w.bar0 ∧
    hrRoom (cplQueued x n w) (.completion n) = hrRoom w (.completion n) ∧ canWrite (cplQueued x n w) = canWrite w := by
  unfold cplQueued
  split <;> exact ⟨rfl, rfl, rfl, rfl⟩

/-- The record of a stream whose ring has room and holds none is written, and the slot is FREE (R272). -/
theorem completionPost_written {x : StreamIx} {n : RingIx} {w : W9} (hc : canWrite w = true)
    (hq : smGet (fun _ => []) w.host.cplWait n.val = []) (hr : 0 < hrRoom w (.completion n)) :
    let u := ringBatch (.completion n) (cplQueued x n w)
    cplWaits u x n = false ∧ hrWritten u (.completion n) = hrWritten w (.completion n) + 1 ∧ smGet (fun _ => []) u.host.cplWait n.val = [] ∧
    u.serve = w.serve := by
  obtain ⟨hserve, hbar, hroom, hcan⟩ := cplQueued_frame x n w
  have hone : (smGet (fun _ => []) (cplQueued x n w).host.cplWait n.val) = [cplOf w x] := by
    have hno : cplWaits w x n = false := by rw [cplWaits, hq]; rfl
    rw [cplQueued, hno]
    simp [pushCpl, smMod, hq]
  obtain ⟨hwr, hwait, -, -, hkeep⟩ := ringBatch_writes (r := .completion n) (hcan.trans hc)
  have hk : min (hrWaiting (cplQueued x n w) (.completion n)).length (hrRoom (cplQueued x n w) (.completion n)) = 1 := by
    rw [hroom, hrWaiting, hone]
    exact Nat.min_eq_left hr
  have hempty : smGet (fun _ => []) (ringBatch (.completion n) (cplQueued x n w)).host.cplWait n.val = [] := by
    rw [hk] at hwait
    simp only [hrWaiting, hone] at hwait
    simpa using hwait
  intro u
  refine ⟨by rw [cplWaits, hempty]; rfl, ?_, hempty, hkeep.trans hserve⟩
  rw [hwr, hk, hrWritten, rd_of_bar0 hbar, hrWritten]
  rfl

theorem not_upkeepReg_cplWritten (n : RingIx) : ¬ UpkeepReg (Reg.cplWritten n.val) := by
  have := n.isLt
  simp only [UpkeepReg, Reg.cplWritten]
  omega

/-- Settles O29: enables by the control word written, batches by `ringBatch_writes`, vectors, and completions. -/
theorem hostRingsWriteBatchesAndVectors : Obligations.HostRingsWriteBatchesAndVectors := by
  unfold Obligations.HostRingsWriteBatchesAndVectors
  refine ⟨fun s r v hv => ⟨fun hport => exec_of_lift_same (f := hostRingEnable r v) rfl (if_pos (by rw [hport]; rfl)),
      fun hport => ⟨fun hon => ?_, fun hoff => ⟨fun hok => ?_, fun hbad => ?_⟩⟩⟩,
    fun s r => ⟨fun h => ?_, fun hdue hc hr => ?_⟩,
    fun s v => ⟨fun h => exec_of_lift_same rfl (msixSend_off h), fun hd hc hm =>
      ⟨fun hmask => ?_, fun hmask => ⟨fun hready => ?_, fun hready => ?_⟩⟩⟩,
    fun s x => ⟨fun h => exec_of_lift_same rfl (completionPost_none h), fun he hh hs hb =>
      ⟨fun hring => ?_, fun n hring => ⟨fun ht => ?_, fun ht hc hq hr => ?_, fun ht hr => ?_⟩⟩⟩⟩
  · exact yields_of_lift (hostRingEnable r v) rfl (hostRingEnable_again v hport hon)
  · exact yields_of_lift (hostRingEnable r v) rfl (hostRingEnable_first hport hv hoff hok)
  · exact yields_of_lift (hostRingEnable r v) rfl (hostRingEnable_refused hport hoff hbad)
  · refine exec_of_lift_same (f := ringBatchWrite r) rfl ?_
    rcases h with h | h
    · exact if_neg (by rw [h]; decide)
    · rw [ringBatchWrite, ringBatch_none h, ite_self]
  · have hbatch : ringBatchWrite r s.w = ringBatch r s.w := if_pos hdue
    exact ⟨_, exec_of_lift_eq rfl hbatch, ringBatch_writes hc⟩
  · refine ⟨_, exec_of_lift_eq rfl ((msixSend_due hd hc hm).trans (if_pos hmask)), ?_, rfl⟩
    exact rdB_wrB_same _ _ _ _ (Nat.mod_lt _ (by decide))
  · refine ⟨_, exec_of_lift_eq rfl ((msixSend_due hd hc hm).trans ((if_neg (by rw [hmask]; decide)).trans (if_pos hready))), ?_, ?_, ?_, rfl⟩
    · exact vectorGone_gone v s.w
    · exact fun j hj => vectorSent_bytes v s.w hj
    · exact vectorSent_count v s.w
  · exact exec_of_lift_same rfl ((msixSend_due hd hc hm).trans ((if_neg (by rw [hmask]; decide)).trans (if_neg (by rw [hready]; decide))))
  · exact ⟨_, exec_of_lift_eq rfl (completionPost_noRing he hh hs hb hring), freeSlot_streams x s.w⟩
  · exact exec_of_lift_same rfl (completionPost_tokensWait he hh hs hb hring ht)
  · have hpost := completionPost_posts he hh hs hb hring ht
    obtain ⟨hno, hwr, hempty, hserve⟩ := completionPost_written (x := x) hc hq hr
    rw [hno, if_neg Bool.false_ne_true] at hpost
    generalize ringBatch (.completion n) (cplQueued x n s.w) = u at hpost hwr hempty hserve
    obtain ⟨hfree, hothers⟩ := freeSlot_streams x u
    refine ⟨_, exec_of_lift_eq rfl hpost, hfree, ?_, by rw [(freeSlot_frees x u).cplWait, hempty], fun y hy => ?_⟩
    · exact ((freeSlot_frees x u).regs _ (not_upkeepReg_cplWritten n)).trans hwr
    · rw [hothers y hy, streamOf_of_serve hserve]
  · have hpost := completionPost_posts he hh hs hb hring ht
    have hbatch : ringBatch (.completion n) (cplQueued x n s.w) = cplQueued x n s.w := ringBatch_none (.inr ((cplQueued_frame x n s.w).2.2.1.trans hr))
    rw [hbatch, cplWaits_cplQueued, if_pos rfl] at hpost
    exact ⟨_, exec_of_lift_eq rfl hpost, streamOf_of_serve (cplQueued_frame x n s.w).1 x, cplWaits_cplQueued x n s.w⟩

end Sys2Proof.Machine
end

section
/-! SUPPORT. Chunks on their groups, and the confirmation of steps (R262 to R264, R530). -/

namespace Sys2Proof.Machine

open Sys2Proof

set_option Elab.async false

theorem writeFlight_wire (w : W9) : OnlyWire w (writeFlight w) := by
  unfold writeFlight
  split
  · exact .refl w
  · exact writeFar_wire _ _ _

/-! ## CHUNK_START -/

/-- `w'` has the groups, the queue, the pipeline, the streams, the blocks and the tiles of `w`. -/
structure SameWork (w w' : W9) : Prop where
  groups : w'.serve.groups = w.serve.groups
  queue : w'.serve.queue = w.serve.queue
  pipe : w'.serve.pipe = w.serve.pipe
  streams : w'.serve.streams = w.serve.streams
  kv : w'.kv = w.kv
  tiles : w'.tiles = w.tiles

theorem SameWork.refl (w : W9) : SameWork w w := ⟨rfl, rfl, rfl, rfl, rfl, rfl⟩

theorem SameWork.trans {a b c : W9} (h : SameWork a b) (k : SameWork b c) : SameWork a c :=
  ⟨k.groups.trans h.groups, k.queue.trans h.queue, k.pipe.trans h.pipe, k.streams.trans h.streams, k.kv.trans h.kv, k.tiles.trans h.tiles⟩

theorem SameWork.of_events {w w' : W9} (h : OnlyEvents w w') : SameWork w w' := by
  refine ⟨?_, ?_, ?_, ?_, h.kv, h.tiles⟩ <;> rw [h.serve]

theorem SameWork.of_wire {w w' : W9} (h : OnlyWire w w') : SameWork w w' := by
  refine ⟨?_, ?_, ?_, ?_, h.kv, h.tiles⟩ <;> rw [h.serve]

theorem sameWork_moveRole (g : Rung) (i : Nat) (r : RotationSet) (k : Nat) (w : W9) : SameWork w (moveRole g i r k w) := by
  unfold moveRole
  split <;> exact ⟨rfl, rfl, rfl, rfl, rfl, rfl⟩

theorem sameWork_rotateJob (w : W9) : SameWork w (rotateJob w) := by
  unfold rotateJob
  split
  · exact .refl w
  next g _ =>
    refine forEach_keeps (SameWork w) _ (fun e u hu => ?_) _ _ (.refl w)
    split
    · split
      · exact hu.trans (sameWork_moveRole _ _ _ _ _)
      · exact hu
    · exact hu

theorem sameWork_noteRecompute (c : Chunk) (w : W9) : SameWork w (noteRecompute c w) := by
  unfold noteRecompute
  split
  · split
    · split
      · exact .of_events (raiseS_step _ _ _ _ _)
      · exact .refl w
    · exact .refl w
  · exact .refl w

/-- The group runs the chunk, and of the work nothing else changes (R541). -/
theorem runChunk_runs (i : Nat) (g : Group) (c : Chunk) (w : W9) : (runChunk i g c w).serve.groups =
      w.serve.groups.set i { g with running := some (c, w.dev.time, epochNow w) } ∧
    (runChunk i g c w).serve.queue = w.serve.queue.erase c ∧ (runChunk i g c w).serve.pipe = w.serve.pipe ∧
    (runChunk i g c w).kv = w.kv ∧ (runChunk i g c w).tiles = w.tiles ∧ (runChunk i g c w).serve.streams = w.serve.streams := by
  have hlog : ∀ u, SameWork { w with serve := { w.serve with
      queue := w.serve.queue.erase c, groups := w.serve.groups.set i { g with running := some (c, w.dev.time, epochNow w) } } } u →
      SameWork _ (writeFlight (rotateJob (noteRecompute c u))) := fun u hu =>
    ((hu.trans (sameWork_noteRecompute c u)).trans (sameWork_rotateJob _)).trans (.of_wire (writeFlight_wire _))
  obtain ⟨hg, hq, hp, hs, hk, ht⟩ : SameWork { w with serve := { w.serve with
      queue := w.serve.queue.erase c, groups := w.serve.groups.set i { g with running := some (c, w.dev.time, epochNow w) } } }
      (runChunk i g c w) := by
    unfold runChunk
    dsimp only
    cases w.flt.replay with
    | none => exact hlog _ (.refl _)
    | some r =>
      refine hlog _ ?_
      dsimp only
      split <;> exact ⟨rfl, rfl, rfl, rfl, rfl, rfl⟩
  exact ⟨hg, hq, hp, hk, ht, hs⟩

/-- A group may take a chunk. -/
def groupMay (w : W9) (g : Group) (ok : Bool) : Bool :=
  imageRuns w && g.running.isNone && groupOpen w g && groupTurn w g && taking w g.field && ok

theorem groupMay_iff {w : W9} {g : Group} {ok : Bool} : groupMay w g ok = true ↔
    imageRuns w = true ∧ g.running = none ∧ groupOpen w g = true ∧ groupTurn w g = true ∧ taking w g.field = true ∧ ok = true := by
  simp only [groupMay, Bool.and_eq_true, Option.isNone_iff_eq_none, and_assoc]

theorem chunkStart_noGroup {i : Nat} {w : W9} (ok : Bool) (h : w.serve.groups[i]? = none) : chunkStart i ok w = w := by
  rw [chunkStart, h]

section

variable {i : Nat} {w : W9} {g : Group} {ok : Bool} (hg : w.serve.groups[i]? = some g)
include hg

theorem chunkStart_mayNot (hm : groupMay w g ok = false) : chunkStart i ok w = w := by
  rw [chunkStart, hg]
  exact if_neg (by rw [← Bool.not_eq_true] at hm; exact hm)

theorem chunkStart_noChunk (hm : groupMay w g ok = true) (hc : (ranked w w.serve.queue).find? (chunkReady w) = none) :
    chunkStart i ok w = w := by
  rw [chunkStart, hg]
  exact (if_pos hm).trans (by rw [hc])

section

variable {c : Chunk} (hm : groupMay w g ok = true) (hc : (ranked w w.serve.queue).find? (chunkReady w) = some c)
include hm hc

theorem chunkStart_held (hb : (ensureBlocks c.stream c.first c.count w).1 = false) :
    chunkStart i ok w = (ensureBlocks c.stream c.first c.count w).2 := by
  rw [chunkStart, hg]
  refine (if_pos hm).trans ?_
  rw [hc]
  dsimp only
  rw [← Prod.mk.eta (p := ensureBlocks c.stream c.first c.count w), hb]

theorem chunkStart_runs (hb : missingBlocks w c.stream c.first c.count = []) : chunkStart i ok w = runChunk i g c w := by
  have he : ensureBlocks c.stream c.first c.count w = (true, w) := by rw [ensureBlocks, hb]; rfl
  rw [chunkStart, hg]
  refine (if_pos hm).trans ?_
  rw [hc]
  dsimp only
  rw [he]

end

end

/-! ## CHUNK_END -/

/-- The W9 with group `i` free. -/
def groupFreed (i : Nat) (g : Group) (w : W9) : W9 :=
  { w with serve := { w.serve with groups := w.serve.groups.set i { g with running := none } } }

theorem chunkEnd_none {i : Nat} {w : W9} (h : w.serve.groups[i]? = none) : chunkEnd i w = w := by
  rw [chunkEnd, h]

theorem chunkEnd_idle {i : Nat} {w : W9} {g : Group} (h : w.serve.groups[i]? = some g) (hr : g.running = none) : chunkEnd i w = w := by
  simp only [chunkEnd, h, hr]

theorem chunkEnd_ran {i t : Nat} {e : Bool} {w : W9} {g : Group} {c : Chunk} (h : w.serve.groups[i]? = some g) (hr : g.running = some (c, t, e)) :
    chunkEnd i w = finishChunk c t (groupFreed i g w) := by
  simp only [chunkEnd, h, hr]
  rfl

theorem Upkeep.storeChunks {v : Serve} {a w : W9} {s : StreamIx} {p e : Nat} (hw : Upkeep v a w) :
    Upkeep v a (Machine.storeChunks s p e w) := by
  unfold Machine.storeChunks
  split
  · exact hw
  · exact .forEach (fun _ _ h => .forEach (fun _ _ k => .mirrorItem (.setFlushed k)) h) hw

theorem Upkeep.chunkResult {v : Serve} {a w : W9} {c : Chunk} {t : Nat} (hc : c.recompute = none) (hw : Upkeep v a w) :
    Upkeep (serveStream c.stream (fun x => { x with length := c.first + c.count }) v) a (Machine.chunkResult c t w) := by
  rw [Machine.chunkResult, hc]
  exact .touchBlocks (.fillBlocks (.storeChunks (.putStream hw)))

/-- Where the stream's chunks go on, a clean one leaves its positions in L (R228). -/
theorem finishChunk_clean {c : Chunk} {t : Nat} {w : W9} (hp : (streamOf w c.stream).state = .prefill)
    (hca : (streamOf w c.stream).cancelAsked = false) (ht : taintKind w c.stream = none) (hre : c.recompute = none)
    (hq : w.serve.queue.any (fun q => q.stream == c.stream) = true) :
    let w' := finishChunk c t w
    w'.serve = serveStream c.stream (fun x => { x with length := c.first + c.count }) w.serve ∧ w'.tiles = w.tiles := by
  have hres := (Upkeep.refl w).chunkResult (t := t) hre
  have hgo : ∀ u : W9, u.serve = serveStream c.stream (fun x => { x with length := c.first + c.count }) w.serve → u.tiles = w.tiles →
      (if (u.serve.queue.any (fun q => q.stream == c.stream) || (streamOf u c.stream).parkAsked) = true then u else leavePrefill c.stream u).serve =
        serveStream c.stream (fun x => { x with length := c.first + c.count }) w.serve ∧
      (if (u.serve.queue.any (fun q => q.stream == c.stream) || (streamOf u c.stream).parkAsked) = true then u else leavePrefill c.stream u).tiles =
        w.tiles := fun u hu ht => by
    rw [if_pos (by rw [hu, Bool.or_eq_true]; exact .inl hq)]
    exact ⟨hu, ht⟩
  simp only [finishChunk, hp, ne_eq, not_true_eq_false, if_false, hca, Bool.false_eq_true, ht]
  cases (chunkResult c t w).flt.replay with
  | none => exact hgo _ hres.serve hres.tiles
  | some r =>
    dsimp only
    split
    · exact hgo _ hres.serve hres.tiles
    · exact hgo _ hres.serve hres.tiles

/-! ## Taint -/

/-- No damaged far word: the repair finds nothing to do (R531). -/
theorem repairWords_clean {s : StreamIx} {w : W9} (h : w.mem.farUE = []) : repairWords s w = (false, w) := by
  unfold repairWords
  cases hset : w.wt.active <;> cases hfar : farOf w <;> simp [h, hfar, forEach]

/-- The W9 in which the taint of a step of stream `s` is taken up: it is counted and reported (R530). -/
def taintTaken (s : StreamIx) (d : List Byte) (w : W9) : W9 :=
  raiseS 0xD022 srcSteward s d (inc Reg.stepsTainted 1 { w with serve := { w.serve with tainted := w.serve.tainted.filter (fun e => !(e.1 == s)) } })

theorem taintTaken_step (s : StreamIx) (d : List Byte) (w : W9) : OnlyEvents
    (inc Reg.stepsTainted 1 { w with serve := { w.serve with tainted := w.serve.tainted.filter (fun e => !(e.1 == s)) } }) (taintTaken s d w) :=
  raiseS_step _ _ _ _ _

theorem taintTaken_serve (s : StreamIx) (d : List Byte) (w : W9) : (taintTaken s d w).serve =
    { w.serve with tainted := w.serve.tainted.filter (fun e => !(e.1 == s)) } := (taintTaken_step s d w).serve

theorem taintTaken_counts (s : StreamIx) (d : List Byte) (w : W9) : rd (taintTaken s d w) Reg.stepsTainted = satAdd32 (rd w Reg.stepsTainted) 1 :=
  ((taintTaken_step s d w).regs _ (by decide) (by decide)).trans (rd_inc_same _ _ _)

/-- A taint taken up names the stream no more. -/
theorem taintKind_filtered {s : StreamIx} {w : W9} {l : List (StreamIx × Bool)} (h : w.serve.tainted = l.filter (fun e => !(e.1 == s))) :
    taintKind w s = none := by
  rw [taintKind, h, Option.map_eq_none_iff, List.find?_eq_none]
  intro e he
  have := (List.mem_filter.mp he).2
  simpa using this

theorem taintKind_taintTaken (s : StreamIx) (d : List Byte) (w : W9) : taintKind (taintTaken s d w) s = none :=
  taintKind_filtered (by rw [taintTaken_serve])

/-- A tainted chunk goes back to the head of the queue (R530). -/
theorem finishChunk_tainted {c : Chunk} {t : Nat} {w : W9} {k : Bool} (hp : (streamOf w c.stream).state = .prefill)
    (hca : (streamOf w c.stream).cancelAsked = false) (ht : taintKind w c.stream = some k) (hu : w.mem.farUE = []) :
    finishChunk c t w = taintTaken c.stream (le 4 (streamOf w c.stream).length ++ [BitVec.ofNat 8 (b2n k)])
      { w with serve := { w.serve with queue := c :: w.serve.queue } } := by
  simp only [finishChunk, hp, ne_eq, not_true_eq_false, if_false, hca, Bool.false_eq_true, ht, rerunChunk]
  rw [repairWords_clean]
  · rfl
  · rw [(raiseS_step _ _ _ _ _).mem]
    exact hu

/-! ## STEP_CONFIRM -/

/-- The W9 with the hand-overs of stream `s` taken out. -/
def handOverTaken (s : StreamIx) (w : W9) : W9 :=
  { w with serve := { w.serve with handOvers := w.serve.handOvers.filter (fun x => !(x.slot.stream == s)) } }

theorem stepConfirm_none {x : StreamIx} {w : W9} (h : w.serve.handOvers.find? (fun h => h.slot.stream == x) = none) : stepConfirm x w = w := by
  rw [stepConfirm, h]

theorem stepConfirm_early {x : StreamIx} {w : W9} {h : HandOver} (hh : w.serve.handOvers.find? (fun h => h.slot.stream == x) = some h)
    (ht : w.dev.time < h.time + 1500) : stepConfirm x w = w := by
  rw [stepConfirm, hh]
  exact if_pos ht

/-- A shadow backlog that is empty hands nothing over. -/
theorem deliverBacklog_empty {s : StreamIx} {p : Nat} {w : W9} (h : w.pair.backlog = []) : deliverBacklog s p w = w := by
  have hw : { w with pair := { w.pair with backlog := [] } } = w := by rw [← h]
  unfold deliverBacklog
  rw [h]
  exact hw

theorem finishCancel_notAsked {s : StreamIx} {w : W9} (h : (streamOf w s).cancelAsked = false) : finishCancel s w = w :=
  if_neg fun hc => by
    rw [h] at hc
    exact Bool.false_ne_true hc.1

/-- An unpaired W9 without damaged far words withdraws a step by counting it (R530). -/
theorem withdrawStep_unpaired {x : StreamIx} {k : Bool} {w : W9} (hp : paired w = false) (hu : w.mem.farUE = []) :
    withdrawStep x k w = taintTaken x (le 4 (streamOf w x).length ++ [BitVec.ofNat 8 (b2n k)]) w := by
  unfold withdrawStep
  dsimp only
  generalize hx : raiseS _ _ _ _ _ = u
  obtain rfl : taintTaken x (le 4 (streamOf w x).length ++ [BitVec.ofNat 8 (b2n k)]) w = u := hx
  have hstep := taintTaken_step x (le 4 (streamOf w x).length ++ [BitVec.ofNat 8 (b2n k)]) w
  have hpu : paired (taintTaken x (le 4 (streamOf w x).length ++ [BitVec.ofNat 8 (b2n k)]) w) = false := by
    rw [paired_of_rd ((hstep.regs _ (by decide) (by decide)).trans (rd_inc_ne _ _ (by decide)))]
    exact hp
  rw [repairWords_clean ((congrArg Mem.farUE hstep.mem).trans hu)]
  simp only [hpu, Bool.false_and, Bool.false_eq_true, if_false]

/-- A step named by a taint flag is withdrawn (R530). -/
theorem stepConfirm_tainted {x : StreamIx} {w : W9} {h : HandOver} {k : Bool}
    (hh : w.serve.handOvers.find? (fun h => h.slot.stream == x) = some h) (ht : h.time + 1500 ≤ w.dev.time) (hp : paired w = false)
    (hca : (streamOf w x).cancelAsked = false) (hk : taintKind w x = some k) (hu : w.mem.farUE = []) :
    stepConfirm x w = taintTaken x (le 4 (streamOf w x).length ++ [BitVec.ofNat 8 (b2n k)]) (handOverTaken x w) := by
  have hwith : withdrawStep x k (handOverTaken x w) = _ := withdrawStep_unpaired (w := handOverTaken x w) hp hu
  have hcan : finishCancel x (withdrawStep x k (handOverTaken x w)) = withdrawStep x k (handOverTaken x w) := finishCancel_notAsked (by
    rw [hwith, streamOf, taintTaken_serve]
    exact hca)
  unfold stepConfirm
  rw [hh]
  refine (if_neg (Nat.not_lt.mpr ht)).trans ?_
  simp only [taintKind] at hk ⊢
  rw [hk]
  exact hcan.trans hwith

/-- A clean step of an own stream goes on to its delivery. -/
theorem stepConfirm_clean {x : StreamIx} {w : W9} {h : HandOver}
    (hh : w.serve.handOvers.find? (fun h => h.slot.stream == x) = some h) (ht : h.time + 1500 ≤ w.dev.time)
    (hca : (streamOf w x).cancelAsked = false) (hsh : w.pair.shadows.contains x = false) (hb : w.pair.backlog = [])
    (hk : taintKind w x = none) : stepConfirm x w = ownStep x h (handOverTaken x w) := by
  have hback : deliverBacklog x 0 (handOverTaken x w) = handOverTaken x w := deliverBacklog_empty hb
  unfold stepConfirm
  rw [hh]
  refine (if_neg (Nat.not_lt.mpr ht)).trans ?_
  simp only [taintKind] at hk ⊢
  rw [hk]
  refine (if_neg (by rw [hsh]; decide)).trans ?_
  change (if (streamOf (deliverBacklog x 0 (handOverTaken x w)) x).cancelAsked = true then _ else ownStep x h (deliverBacklog x 0 (handOverTaken x w))) = _
  rw [hback]
  exact if_neg (by rw [show (streamOf (handOverTaken x w) x).cancelAsked = false from hca]; decide)

/-! ## One token delivered -/

/-- The serving state after one token of stream `s` is delivered at time `t` (R268, R273). -/
def serveToken (s : StreamIx) (t : Nat) (v : Serve) : Serve :=
  serveWin t (serveGet v s).cls.toNat (fun x => { x with tokens := x.tokens + 1 })
    (serveStream s (fun x => { x with length := x.length + 1, generated := x.generated + 1, lastDelivery := t }) v)

theorem serveGet_serveToken (s : StreamIx) (t : Nat) (v : Serve) : serveGet (serveToken s t v) s =
    { serveGet v s with length := (serveGet v s).length + 1, generated := (serveGet v s).generated + 1, lastDelivery := t } := by
  rw [serveToken, serveGet_serveWin, serveGet_serveStream_same]

theorem handOvers_serveToken (s : StreamIx) (t : Nat) (v : Serve) : (serveToken s t v).handOvers = v.handOvers := by
  rw [serveToken, serveWin_eq]
  rfl

/-- The W9 after the token is committed and counted, before its record goes to the host. -/
def tokenCounted (s : StreamIx) (t : Nat) (tok : Word32) (w : W9) : W9 := winTokens t (streamOf w s).cls.toNat 1 (commitToken s t tok w)

theorem Upkeep.tokenCounted {v : Serve} {a w : W9} {s : StreamIx} {t : Nat} {tok : Word32} (hw : Upkeep v a w) :
    Upkeep (serveToken s t v) a (Machine.tokenCounted s t tok w) := by
  unfold Machine.tokenCounted winTokens
  rw [hw.get]
  exact .winModAt (.modStream (.writeLog hw))

theorem not_upkeepReg_out (s : StreamIx) : ¬ UpkeepReg (Reg.outCtrl s.val) ∧ ¬ UpkeepReg (Reg.outWritten s.val) ∧
    ¬ UpkeepReg (Reg.outConsumed s.val) := by
  have := s.isLt
  simp only [UpkeepReg, Reg.outCtrl, Reg.outWritten, Reg.outConsumed]
  omega

/-- The upkeep of streams leaves the room of the token rings alone. -/
theorem Upkeep.hrRoom_token {v : Serve} {a w : W9} (hw : Upkeep v a w) (s : StreamIx) : hrRoom w (.token s) = hrRoom a (.token s) := by
  obtain ⟨hc, hwr, hco⟩ := not_upkeepReg_out s
  have hd3 : w.host.d3hot = a.host.d3hot := by rw [hw.host]
  simp only [hrRoom, hrCtrl, hrEntries, hrWritten, ringRegs, hw.regs _ hc, hw.regs _ hwr, hw.regs _ hco, hd3]
  rfl

theorem pushToken_room {s : StreamIx} {x : TokenRec} {w : W9}
    (h : (smGet (fun _ => []) w.host.backlog s.val).length < hrRoom w (.token s) + 64) : pushToken s x w =
    { w with host := { w.host with backlog := smMod (fun _ => []) w.host.backlog s.val (fun l => l ++ [x]) } } := if_pos h

/-- The record of a token that is neither drafted, final nor late. -/
def plainRecord (s : StreamIx) (tok : Word32) (w : W9) : TokenRec := ⟨tok, false, false, false, (streamOf w s).length + 1, w.dev.time⟩

/-- The W9 after the one token of a clean step: its chain is cut, the token committed, and its record waits for the host. -/
def tokenDelivered (s : StreamIx) (t : Nat) (chain : List Word32) (tok : Word32) (w : W9) : W9 :=
  let u := tokenCounted s t tok (setChain s chain w)
  { u with host := { u.host with backlog := smMod (fun _ => []) w.host.backlog s.val (fun l => l ++ [plainRecord s tok w]) } }

theorem tokenCounted_upkeep (s : StreamIx) (t : Nat) (chain : List Word32) (tok : Word32) (w : W9) :
    Upkeep (serveToken s t { w.serve with chains := smPut (fun _ => []) w.serve.chains s.val chain }) w (tokenCounted s t tok (setChain s chain w)) :=
  .tokenCounted ((Upkeep.refl w).serving fun v => { v with chains := smPut (fun _ => []) v.chains s.val chain })

/-- Delivery of one token that ends nothing and has no deadline (R256, R268). -/
theorem deliverTokens_one {s : StreamIx} {t : Nat} {chain : List Word32} {tok : Word32} {w : W9} (hcls : (streamOf w s).cls = 2)
    (hend : endOf (streamOf w s) tok = none) (hroom : (smGet (fun _ => []) w.host.backlog s.val).length < hrRoom w (.token s) + 64) :
    deliverTokens s t none [(tok, false)] (setChain s chain w) = (none, tokenDelivered s t chain tok w) := by
  have hx : streamOf (setChain s chain w) s = streamOf w s := rfl
  have hu := tokenCounted_upkeep s t chain tok w
  have hpush : deliverToken s t none false tok (setChain s chain w) = tokenDelivered s t chain tok w := by
    refine (pushToken_room (w := tokenCounted s t tok (setChain s chain w)) ?_).trans ?_
    · rw [hu.backlog, hu.hrRoom_token]
      exact hroom
    · rw [hu.backlog, hx, hend]
      rfl
  rw [deliverTokens]
  dsimp only
  rw [hx, hcls, hend, if_neg (by simp), hpush]
  rfl

theorem clearSuspect_none {s : StreamIx} {w : W9} (h : w.flt.replay = none) : clearSuspect s w = w := by
  rw [clearSuspect, h]

theorem Upkeep.afterDelivery {v : Serve} {a w : W9} {s : StreamIx} (hw : Upkeep v a w) :
    ∃ b, Upkeep (serveHeld s b v) a (Machine.afterDelivery s none w) :=
  ⟨_, .syncRecord (.ensureBlocks (.fillBlocks (.touchBlocks hw)))⟩

/-- A clean one-token step of an unpaired W9's class-2 stream (R530). -/
theorem ownStep_one {s : StreamIx} {h : HandOver} {tok : Word32} {w : W9} (hp : paired w = false) (hsh : (streamOf w s).shadow = false)
    (hreplay : w.flt.replay = none) (htok : h.sampled.take h.accepted = [tok]) (hcls : (streamOf w s).cls = 2)
    (hend : endOf (streamOf w s) tok = none) (hroom : (smGet (fun _ => []) w.host.backlog s.val).length < hrRoom w (.token s) + 64) :
    ∃ b chain, Upkeep (serveHeld s b (tokenDelivered s h.time chain tok w).serve) (tokenDelivered s h.time chain tok w) (ownStep s h w) := by
  generalize hchain : cutChain (chainOf w s) [tok] = chain
  generalize hd : tokenDelivered s h.time chain tok w = d
  have hu := tokenCounted_upkeep s h.time chain tok w
  have hdel := deliverTokens_one (t := h.time) (chain := chain) hcls hend hroom
  have hbar : d.bar0 = (tokenCounted s h.time tok (setChain s chain w)).bar0 := by rw [← hd]; rfl
  have hpd : paired d = false := by
    rw [paired_of_bar0 hbar, paired_of_rd (hu.regs _ (by decide)), hp]
  have hrd : d.flt.replay = none := by
    rw [← hd]
    exact hu.replay.trans hreplay
  obtain ⟨b, hafter⟩ := (Upkeep.refl d).afterDelivery (s := s)
  refine ⟨b, chain, ?_⟩
  have hlen : (streamOf d s).length = (streamOf w s).length + 1 := by
    rw [← hd]
    exact congrArg Stream.length ((hu.get s).trans (serveGet_serveToken _ _ _))
  have hstep : ownStep s h w = afterDelivery s none d := by
    have hmir : mirrors d s = false := by rw [mirrors, hpd]; rfl
    have hdue : handOffDue (afterDelivery s none d) s = false := by
      rw [handOffDue, paired_of_rd (hafter.regs _ (by decide)), hpd]
      rfl
    have hlate : lateBy (streamOf w s) h.time = none := if_neg (by rw [hcls]; decide)
    have hzip : [tok].zipIdx.map (fun e => (e.1, decide (0 < e.2))) = [(tok, false)] := rfl
    have hsent : ([tok].take 1).isEmpty = false := rfl
    unfold ownStep
    dsimp only
    rw [htok, hchain, hlate, hzip, hdel, hd]
    dsimp only
    rw [hlen, Nat.add_sub_cancel_left]
    simp only [hsent, hsh, hmir, Bool.false_eq_true, if_false, clearSuspect_none (hafter.replay.trans hrd), hdue]
  rw [hstep, hd]
  exact hafter

/-- Holding an allocation changes the stream's state alone (R233). -/
theorem serveGet_serveHeld (s : StreamIx) (b : Bool) (v : Serve) : serveGet (serveHeld s b v) s =
    { serveGet v s with state := (serveGet (serveHeld s b v) s).state } := by
  cases b with
  | true => rfl
  | false =>
    have hheld : serveGet (serveHeld s false v) s = { serveGet v s with state := .held } := serveGet_serveStream_same
    rw [hheld]

theorem handOvers_serveHeld (s : StreamIx) (b : Bool) (v : Serve) : (serveHeld s b v).handOvers = v.handOvers := by
  cases b <;> rfl

/-- Settles O42: a group's chunk by its test, pages and run; a chunk's end and a step's confirmation clean or tainted. -/
theorem chunksRunAndStepsAreConfirmed : Obligations.ChunksRunAndStepsAreConfirmed := by
  unfold Obligations.ChunksRunAndStepsAreConfirmed
  refine ⟨fun s i ok => ⟨fun h => exec_of_lift_same rfl (chunkStart_noGroup ok h), fun g hg =>
      ⟨fun hm => ?_, fun hm hc => ?_, fun c hm hc => ⟨fun hb => ?_, fun hb => ?_⟩⟩⟩,
    fun s i => ⟨fun h => exec_of_lift_same rfl (chunkEnd_none h), fun g hg => ⟨fun hr => exec_of_lift_same rfl (chunkEnd_idle hg hr), fun c t e hr => ⟨fun hp => ?_,
      fun hp hca => ⟨fun ht hre hq => ?_, fun k hk hu => ?_⟩⟩⟩⟩,
    fun s x => ⟨fun h => exec_of_lift_same rfl (stepConfirm_none h), fun h hh => ⟨fun ht => exec_of_lift_same rfl (stepConfirm_early hh ht),
      fun ht hp hca hsh hs hb => ⟨fun k hk hu => ?_, fun tok hk hrep htok hcls hend hroom => ?_⟩⟩⟩⟩
  · refine exec_of_lift_same (f := chunkStart i ok) rfl (chunkStart_mayNot hg ?_)
    rw [← Bool.not_eq_true, groupMay_iff]
    exact hm
  · exact exec_of_lift_same rfl (chunkStart_noChunk hg (groupMay_iff.mpr hm) hc)
  · exact ⟨_, exec_of_lift_eq rfl (chunkStart_runs hg (groupMay_iff.mpr hm) hc hb), runChunk_runs i g c s.w⟩
  · exact exec_of_lift_eq rfl (chunkStart_held hg (groupMay_iff.mpr hm) hc hb)
  · exact exec_of_lift_eq rfl ((chunkEnd_ran hg hr).trans (if_pos hp))
  · obtain ⟨hserve, htiles⟩ := finishChunk_clean (t := t) (w := groupFreed i g s.w) hp hca ht hre hq
    have hx : streamOf (finishChunk c t (groupFreed i g s.w)) c.stream = { streamOf s.w c.stream with length := c.first + c.count } := by
      rw [streamOf, hserve]
      exact serveGet_serveStream_same
    refine ⟨_, exec_of_lift_eq rfl (chunkEnd_ran hg hr), by rw [hserve]; rfl, by rw [hserve]; rfl, by rw [hx], by rw [hx]; exact hp, htiles, fun y hy => ?_⟩
    rw [streamOf, hserve]
    exact serveGet_serveStream_ne hy
  · have he := finishChunk_tainted (t := t) (w := groupFreed i g s.w) hp hca hk hu
    exact ⟨_, exec_of_lift_eq rfl ((chunkEnd_ran hg hr).trans he), by rw [taintTaken_serve]; rfl, by rw [taintTaken_serve]; rfl, by rw [taintTaken_serve]; rfl,
      taintKind_taintTaken _ _ _, taintTaken_counts _ _ _, (taintTaken_step _ _ _).kv⟩
  · have he := stepConfirm_tainted hh ht hp hca hk hu
    exact ⟨_, exec_of_lift_eq rfl he, by rw [taintTaken_serve]; rfl, by rw [taintTaken_serve]; rfl, taintTaken_counts _ _ _,
      (taintTaken_step _ _ _).host_backlog, (taintTaken_step _ _ _).mem, taintKind_taintTaken _ _ _⟩
  · have he := stepConfirm_clean hh ht hca hs hb hk
    obtain ⟨b, chain, hup⟩ := ownStep_one (w := handOverTaken x s.w) hp hsh hrep htok hcls hend hroom
    have hu := tokenCounted_upkeep x h.time chain tok (handOverTaken x s.w)
    have hserve : (tokenDelivered x h.time chain tok (handOverTaken x s.w)).serve = _ := hu.serve
    have hx := (hup.get x).trans (serveGet_serveHeld _ _ _)
    rw [hserve, serveGet_serveToken] at hx
    refine ⟨_, exec_of_lift_eq rfl he, ?_, by rw [hx]; rfl, by rw [hx]; rfl, by rw [hx], ?_⟩
    · rw [hup.serve, handOvers_serveHeld, hserve, handOvers_serveToken]
      rfl
    · rw [hup.backlog]
      simp only [tokenDelivered, smMod, smGet_smPut_same]
      rfl

end Sys2Proof.Machine
end

section
/-! SUPPORT. The admission decision (R263, R265, R314, R403, R471, R565). -/

namespace Sys2Proof.Machine

open Sys2Proof

set_option Elab.async false

/-! ## A refusal -/

/-- The serving state after a refusal is counted (R273). -/
def serveRefused (t : Nat) (q : Request) (v : Serve) : Serve :=
  if q.cls.toNat ≤ 2 then serveWin t q.cls.toNat (fun x => { x with refused := x.refused + 1 }) v else v

theorem serveRefused_frame (t : Nat) (q : Request) (v : Serve) : (serveRefused t q v).admitQ = v.admitQ ∧ (serveRefused t q v).pipe = v.pipe ∧
    (serveRefused t q v).streams = v.streams ∧ (serveRefused t q v).queue = v.queue := by
  unfold serveRefused
  split
  · exact ⟨admitQ_serveWin, pipe_serveWin, streams_serveWin, queue_serveWin⟩
  · exact ⟨rfl, rfl, rfl, rfl⟩

/-- The completion record of a refused request (Table 10.5). -/
def refusalRec (q : Request) (st : BitVec 8) (t : Nat) : CplRec := ⟨q.stream, q.tag, st, 0, q.cls, 0, 0xFFFFFFFF, q.arrival, t, true, t⟩

/-- The refusal reported and counted, before its record waits. -/
def refusalNoted (q : Request) (st : BitVec 8) (w : W9) : W9 :=
  let u := raise 0x5001 srcSteward (if q.stream < 1024 then csOf w (slotOf q) else csNone) ([st, 0] ++ le 2 q.tag.toNat) w
  if q.cls.toNat ≤ 2 then winRefused q.cls.toNat u else u

theorem refuse_eq (q : Request) (st : BitVec 8) (w : W9) : refuse q st w = pushCpl q.ring (refusalRec q st w.dev.time) (refusalNoted q st w) := rfl

theorem refusalNoted_upkeep (q : Request) (st : BitVec 8) (w : W9) : Upkeep (serveRefused w.dev.time q w.serve) w (refusalNoted q st w) := by
  unfold refusalNoted serveRefused
  dsimp only
  split
  · exact .winMod (.raise (.refl w))
  · exact .raise (.refl w)

theorem refusalNoted_kv (q : Request) (st : BitVec 8) (w : W9) : (refusalNoted q st w).kv = w.kv := by
  have hev := (raise_step 0x5001 srcSteward (if q.stream < 1024 then csOf w (slotOf q) else csNone) ([st, 0] ++ le 2 q.tag.toNat) w).kv
  unfold refusalNoted
  dsimp only
  split
  · rw [winRefused_eq]
    exact hev
  · exact hev

/-- What a refusal leaves: the count and the record that waits (R265). -/
theorem refuse_serve (q : Request) (st : BitVec 8) (w : W9) : (refuse q st w).serve = serveRefused w.dev.time q w.serve :=
  (refusalNoted_upkeep q st w).serve

theorem refuse_kv (q : Request) (st : BitVec 8) (w : W9) : (refuse q st w).kv = w.kv := refusalNoted_kv q st w

theorem refuse_record (q : Request) (st : BitVec 8) (w : W9) : ∃ x, smGet (fun _ => []) (refuse q st w).host.cplWait q.ring.val =
    smGet (fun _ => []) w.host.cplWait q.ring.val ++ [x] ∧ x.status = st ∧ x.tag = q.tag ∧ x.stream = q.stream ∧ x.outEnd = 0xFFFFFFFF := by
  refine ⟨refusalRec q st w.dev.time, ?_, rfl, rfl, rfl, rfl⟩
  rw [refuse_eq]
  simp only [pushCpl, smMod, smGet_smPut_same, (refusalNoted_upkeep q st w).cplWait]

/-! ## A request that waits in its slot -/

/-- The slot's request waits for the flip to commit (R314). -/
def waitsFlip (q : Request) (w : W9) : W9 :=
  let u := takeSlot q w
  { u with serve := { u.serve with held := u.serve.held ++ [q] } }

/-- The slot's request waits for hold to end (R565). -/
def waitsHold (q : Request) (w : W9) : W9 :=
  let u := takeSlot q w
  { u with serve := { u.serve with holdWait := u.serve.holdWait ++ [q] } }

theorem waitsFlip_serve (q : Request) (w : W9) : (waitsFlip q w).serve =
    { serveStream (slotOf q) (fun _ => streamFor w q) w.serve with held := w.serve.held ++ [q] } :=
  congrArg (fun v : Serve => { v with held := v.held ++ [q] }) (Upkeep.refl w).takeSlot.serve

theorem waitsHold_serve (q : Request) (w : W9) : (waitsHold q w).serve =
    { serveStream (slotOf q) (fun _ => streamFor w q) w.serve with holdWait := w.serve.holdWait ++ [q] } :=
  congrArg (fun v : Serve => { v with holdWait := v.holdWait ++ [q] }) (Upkeep.refl w).takeSlot.serve

/-- The slot of a request that waits is taken, and no other. -/
theorem streamOf_waiting {q : Request} {w w' : W9} (h : w'.serve.streams = (serveStream (slotOf q) (fun _ => streamFor w q) w.serve).streams) :
    streamOf w' (slotOf q) = streamFor w q ∧ ∀ y, y ≠ slotOf q → streamOf w' y = streamOf w y := by
  have hget : ∀ y, streamOf w' y = serveGet (serveStream (slotOf q) (fun _ => streamFor w q) w.serve) y := fun y => by
    rw [streamOf, h, serveGet]
  exact ⟨(hget _).trans serveGet_serveStream_same, fun y hy => (hget y).trans (serveGet_serveStream_ne hy)⟩

theorem waitsFlip_waits (q : Request) (w : W9) : streamOf (waitsFlip q w) (slotOf q) = streamFor w q ∧
    (waitsFlip q w).serve.held = w.serve.held ++ [q] ∧ (waitsFlip q w).serve.admitQ = w.serve.admitQ ∧
    ∀ y, y ≠ slotOf q → streamOf (waitsFlip q w) y = streamOf w y := by
  have hserve := waitsFlip_serve q w
  obtain ⟨hslot, hothers⟩ := streamOf_waiting (w := w) (w' := waitsFlip q w) (by rw [hserve])
  exact ⟨hslot, by rw [hserve], by rw [hserve]; rfl, hothers⟩

theorem waitsHold_waits (q : Request) (w : W9) : streamOf (waitsHold q w) (slotOf q) = streamFor w q ∧
    (waitsHold q w).serve.holdWait = w.serve.holdWait ++ [q] ∧ (waitsHold q w).serve.admitQ = w.serve.admitQ ∧
    ∀ y, y ≠ slotOf q → streamOf (waitsHold q w) y = streamOf w y := by
  have hserve := waitsHold_serve q w
  obtain ⟨hslot, hothers⟩ := streamOf_waiting (w := w) (w' := waitsHold q w) (by rw [hserve])
  exact ⟨hslot, by rw [hserve], by rw [hserve]; rfl, hothers⟩

/-! ## The decision's tests in their order -/

section

variable {q : Request} {w : W9}

theorem newRequest_first {st : BitVec 8} (h : firstTests w q = some st) : newRequest q w = refuse q st w := by
  rw [newRequest, h]

variable (h1 : firstTests w q = none)
include h1

/-- During a flip (R314). -/
theorem newRequest_flip {f : Flip} (hf : w.wt.flip = some f) : newRequest q w = if q.modelVer = f.version then
    waitsFlip q w else refuse q 0x12 w := by
  have hb : flipBarrier w = some f := by rw [flipBarrier, hf]
  rw [newRequest, h1]
  dsimp only
  rw [hb]
  rfl

variable (hf : w.wt.flip = none)
include hf

theorem newRequest_model {st : BitVec 8} (h2 : modelTests w q = some st) : newRequest q w = refuse q st w := by
  have hb : flipBarrier w = none := by rw [flipBarrier, hf]
  rw [newRequest, h1]
  dsimp only
  rw [hb]
  dsimp only
  rw [h2]

/-- In hold, or on to the prompt, the walk and the class tests (R565). -/
theorem newRequest_tested (h2 : modelTests w q = none) : newRequest q w =
    if inHold w then
      if q.cls = 0 then refuse q 0x14 w
      else waitsHold q w
    else runAdmission q w := by
  have hb : flipBarrier w = none := by rw [flipBarrier, hf]
  rw [newRequest, h1]
  dsimp only
  rw [hb]
  dsimp only
  rw [h2]
  rfl

end

/-! ## The slot in ADMITTING -/

/-- The serving state of `w` with the request's slot in ADMITTING: nothing else differs, and its walk may have bound blocks. -/
structure Admitting (q : Request) (w : W9) (v : Serve) : Prop where
  eq : v = { w.serve with streams := v.streams }
  slot : serveGet v (slotOf q) = { streamFor w q with prefixHit := (serveGet v (slotOf q)).prefixHit }
  others : ∀ y, y ≠ slotOf q → serveGet v y = streamOf w y

theorem admitting_taken (q : Request) (w : W9) : Admitting q w (serveStream (slotOf q) (fun _ => streamFor w q) w.serve) :=
  ⟨rfl, by rw [serveGet_serveStream_same], fun _ hy => serveGet_serveStream_ne hy⟩

theorem Admitting.walked {q : Request} {w : W9} {v : Serve} (h : Admitting q w v) (n : Nat) :
    Admitting q w (serveStream (slotOf q) (fun t => { t with prefixHit := n }) v) where
  eq := by
    rw [h.eq]
    rfl
  slot := by rw [serveGet_serveStream_same, h.slot]
  others y hy := (serveGet_serveStream_ne hy).trans (h.others y hy)

/-- The class tests of a request are met after its prompt is copied and the tree is walked for it (R263). -/
theorem runAdmission_walked (q : Request) (w : W9) : ∃ v u, Admitting q w v ∧ Upkeep v w u ∧ runAdmission q w = decide' q u := by
  have hcopy := ((Upkeep.refl w).takeSlot (q := q)).copyPrompt (q := q)
  unfold runAdmission
  dsimp only
  split
  · exact ⟨_, _, (admitting_taken q w).walked _, hcopy.lookupFor, rfl⟩
  · exact ⟨_, _, admitting_taken q w, hcopy, rfl⟩

/-! ## Refused once admitted to the slot -/

/-- A request refused in ADMITTING leaves its slot FREE and its chunks gone (R265). -/
theorem refuseSlot_refuses {q : Request} {st : BitVec 8} {w u : W9} {v : Serve} (hv : Admitting q w v) (hu : Upkeep v w u) :
    let w' := refuseSlot q st u
    (w'.serve.admitQ = w.serve.admitQ ∧ (∃ x, smGet (fun _ => []) w'.host.cplWait q.ring.val = smGet (fun _ => []) w.host.cplWait q.ring.val ++ [x] ∧
      x.status = st ∧ x.tag = q.tag ∧ x.stream = q.stream ∧ x.outEnd = 0xFFFFFFFF) ∧ w'.serve.pipe = w.serve.pipe) ∧
    (streamOf w' (slotOf q)).state = .free ∧ w'.serve.queue = w.serve.queue.filter (fun c => !(c.stream == slotOf q)) ∧
    (∀ y, y ≠ slotOf q → streamOf w' y = streamOf w y) := by
  have hfree := (hu.dropWork (s := slotOf q)).releaseShared (s := slotOf q) |>.releaseHoldings (s := slotOf q) |>.freeSlot (s := slotOf q)
  generalize hx : freeSlot (slotOf q) (releaseHoldings (slotOf q) (releaseShared (slotOf q) (dropWork (slotOf q) u))) = x at hfree
  have hw' : refuseSlot q st u = refuse q st x := by rw [← hx]; rfl
  obtain ⟨hadm, hpipe, hstr, hque⟩ := serveRefused_frame x.dev.time q x.serve
  have hsv := refuse_serve q st x
  have hget : ∀ y, streamOf (refuse q st x) y = streamOf x y := fun y => by rw [streamOf, hsv, hstr, streamOf]
  have hrec := refuse_record q st x
  rw [hfree.cplWait] at hrec
  rw [hw']
  refine ⟨⟨?_, hrec, ?_⟩, ?_, ?_, fun y hy => ?_⟩
  · rw [hsv, hadm, hfree.serve, hv.eq]
    rfl
  · rw [hsv, hpipe, hfree.serve, hv.eq]
    rfl
  · rw [hget, hfree.get, serveGet_serveStream_same]
    rfl
  · rw [hsv, hque, hfree.serve, hv.eq]
    rfl
  · rw [hget, hfree.get, serveGet_serveStream_ne hy, serveGet_serveStream_ne hy, serveGet_serveDrop, hv.others y hy]

/-! ## The class tests -/

section

variable {v : Serve} {w u : W9} (hu : Upkeep v w u)
include hu

theorem Upkeep.capExt : capExt u = capExt w := by
  rw [Machine.capExt, Machine.capExt, hu.rdF 15 0 (off := Reg.facilityCap) (by decide), hu.rdF 15 0 (off := Reg.hostCap) (by decide)]

theorem Upkeep.belowFloor : belowFloor u = belowFloor w := by
  have hh : inHold u = inHold w := congrArg (· == 2) (hu.rdF 31 29 (off := Reg.envStatus) (by decide))
  rw [Machine.belowFloor, Machine.belowFloor, hh, hu.capExt, hu.rdF 15 0 (off := Reg.thermalCap) (by decide),
    hu.rdF 15 0 (off := Reg.class0Floor) (by decide)]

theorem Upkeep.pairEn : pairEn u = pairEn w := hu.rdB 31 (by decide)

theorem Upkeep.paired : paired u = paired w := paired_of_rd (hu.regs _ (by decide))

theorem Upkeep.prefillChunks (s : StreamIx) (a e : Nat) : prefillChunks u s a e = prefillChunks w s a e := by
  have hr : rungNow u = rungNow w := by
    rw [rungNow, rungNow, hu.img, hu.rdF 23 16 (off := Reg.imgStatus) (by decide)]
  rw [Machine.prefillChunks, Machine.prefillChunks, timingOf, timingOf, hr]

end

theorem decideClass0_floor {q : Request} {h : Nat} {w : W9} (hb : belowFloor w = true) : decideClass0 q h w = refuseSlot q 0x14 w := if_pos hb

theorem decideClass0_alone {q : Request} {h : Nat} {w : W9} (hb : belowFloor w = false) (he : pairEn w = true) (hp : paired w = false) :
    decideClass0 q h w = refuseSlot q 0x15 w :=
  (if_neg (by rw [hb]; decide)).trans (if_pos (by rw [he, hp]; rfl))

/-- A class-1 request whose limit lies before its arrival misses every bound (R266). -/
theorem decide'_late {q : Request} {w : W9} (hc : q.cls = 1) (hl : q.limitFirst < q.arrival) : decide' q w = refuseSlot q 0x17 w := by
  have h0 : q.cls ≠ 0 := by rw [hc]; decide
  refine (if_neg h0).trans ((if_pos hc).trans ?_)
  cases ttftOf w q (streamOf w (slotOf q)).prefixHit with
  | none => rfl
  | some t => exact if_pos (by omega)

/-! ## Class 2 is admitted -/

/-- The stream of a request of class 1 or 2 as its admission writes it (R263). -/
def admittedAs (q : Request) (h k : Nat) (a : Option (Fin 64)) (t : Stream) : Stream :=
  { t with
    state := .prefill, phase := none, length := h, prefixHit := h, order := k, adapterSlot := a, shadow := false
    lookup := t.lookup && !false, spec := t.spec && !false
    deadlineFirst := (if q.cls = 0 then q.arrival + 0 else t.deadlineFirst)
    deadlineStep := (if q.cls = 0 then 0 else t.deadlineStep) }

/-- The serving state after a class-2 request is admitted: next in order, its chunks at the queue's end. -/
def serveAdmit (q : Request) (h : Nat) (a : Option (Fin 64)) (chunks : List Chunk) (v : Serve) : Serve :=
  serveStream (slotOf q) (admittedAs q h v.decisions a) { v with decisions := v.decisions + 1, queue := v.queue ++ chunks }

/-- The stream's adapter slot, where it has one, is bound (R280). -/
def adBound (a : Option (Fin 64)) (w : W9) : W9 := match a with
  | some n => adBind n w
  | none => w

theorem Upkeep.adBound {v : Serve} {w u : W9} (a : Option (Fin 64)) (hu : Upkeep v w u) : Upkeep v w (Machine.adBound a u) := by
  cases a with
  | none => exact hu
  | some n => exact hu.adBind

/-- The W9 after that, before a request without chunks enters DECODE. -/
def admitted (q : Request) (h : Nat) (w : W9) : W9 :=
  let s := slotOf q
  let a := if q.adapter = 0 then none else adCurrent w q.adapter
  let u := adBound a w
  let u := { u with serve := { u.serve with
    decisions := w.serve.decisions + 1, queue := u.serve.queue ++ prefillChunks w s h (q.promptLen - 1) } }
  syncClass0 (putStream s (admittedAs q h w.serve.decisions a) u)

theorem admitted_upkeep {q : Request} {h : Nat} {v : Serve} {w u : W9} (hu : Upkeep v w u) : ∃ a,
    Upkeep (serveAdmit q h a (prefillChunks w (slotOf q) h (q.promptLen - 1)) v) w (admitted q h u) := by
  have hd : u.serve.decisions = v.decisions := by rw [hu.serve]
  refine ⟨if q.adapter = 0 then none else adCurrent u q.adapter, ?_⟩
  unfold admitted
  dsimp only
  rw [hu.prefillChunks, hd]
  exact .syncClass0 (.putStream ((hu.adBound _).serving fun z =>
    { z with decisions := v.decisions + 1, queue := z.queue ++ prefillChunks w (slotOf q) h (q.promptLen - 1) }))

theorem serveGet_serveAdmit {q : Request} {h : Nat} {a : Option (Fin 64)} {cs : List Chunk} {v : Serve} :
    serveGet (serveAdmit q h a cs v) (slotOf q) = admittedAs q h v.decisions a (serveGet v (slotOf q)) := serveGet_serveStream_same

theorem serveGet_serveAdmit_ne {q : Request} {y : StreamIx} {h : Nat} {a : Option (Fin 64)} {cs : List Chunk} {v : Serve} (hy : y ≠ slotOf q) :
    serveGet (serveAdmit q h a cs v) y = serveGet v y := serveGet_serveStream_ne hy

/-- The serving state after the stream enters DECODE with L = P − 1, or is held (R263, R233). -/
def serveDecode (s : StreamIx) (p : Nat) (b : Bool) (v : Serve) : Serve :=
  serveHeld s b (serveStream s (fun t => { t with state := .decode, length := p - 1 }) v)

theorem serveGet_serveDecode (s : StreamIx) (p : Nat) (b : Bool) (v : Serve) : ∃ x, (x = .decode ∨ x = .held) ∧
    serveGet (serveDecode s p b v) s = { serveGet v s with state := x, length := p - 1 } := by
  cases b with
  | true => exact ⟨.decode, .inl rfl, serveGet_serveStream_same⟩
  | false =>
    refine ⟨.held, .inr rfl, ?_⟩
    change serveGet (serveStream s (fun t => { t with state := .held }) (serveStream s _ v)) s = _
    rw [serveGet_serveStream_same, serveGet_serveStream_same]

theorem serveGet_serveDecode_ne {s y : StreamIx} (p : Nat) (b : Bool) (v : Serve) (hy : y ≠ s) :
    serveGet (serveDecode s p b v) y = serveGet v y := by
  cases b with
  | true => exact serveGet_serveStream_ne hy
  | false => exact (serveGet_serveStream_ne hy).trans (serveGet_serveStream_ne hy)

theorem serveDecode_frame (s : StreamIx) (p : Nat) (b : Bool) (v : Serve) : serveDecode s p b v = { v with streams := (serveDecode s p b v).streams } := by
  cases b <;> rfl

/-- The stream's state and L as it enters DECODE, before its next block. -/
def decodeBegun (s : StreamIx) (p : Nat) (w : W9) : W9 :=
  fillBlocks s (putStream s (fun t => { t with state := .decode, length := p - 1 }) w)

theorem enterDecode_eq (s : StreamIx) (w : W9) : enterDecode s w =
    let u := (ensureBlocks s ((streamOf w s).promptLen - 1) 1 (decodeBegun s (streamOf w s).promptLen w)).2
    if (streamOf u s).shadow then tryStart s (sendTwin (.ready s) { u with pair := { u.pair with ownReady := u.pair.ownReady ++ [s] } }) else u := rfl

/-- A stream that is not shadowed enters DECODE (R263). -/
theorem Upkeep.enterDecode {v : Serve} {w u : W9} {s : StreamIx} (hu : Upkeep v w u) (hs : (serveGet v s).shadow = false) :
    ∃ b, Upkeep (serveDecode s (serveGet v s).promptLen b v) w (Machine.enterDecode s u) := by
  have hbegun : Upkeep _ w (decodeBegun s (serveGet v s).promptLen u) := hu.putStream.fillBlocks
  have hens := hbegun.ensureBlocks (s := s) (p := (serveGet v s).promptLen - 1) (n := 1)
  rw [enterDecode_eq, hu.get]
  generalize Machine.ensureBlocks s ((serveGet v s).promptLen - 1) 1 (decodeBegun s (serveGet v s).promptLen u) = r at hens
  obtain ⟨x, -, hx⟩ := serveGet_serveDecode s (serveGet v s).promptLen r.1 v
  have hshadow : (Machine.streamOf r.2 s).shadow = false := (congrArg Stream.shadow ((hens.get s).trans hx)).trans hs
  exact ⟨r.1, by rw [if_neg (by rw [hshadow]; decide)]; exact hens⟩

theorem admitReq_eq (q : Request) (h : Nat) (w : W9) : admitReq q h none 0 0 false w = finishCancel (slotOf q)
    (if (prefillChunks w (slotOf q) h (q.promptLen - 1)).isEmpty then enterDecode (slotOf q) (admitted q h w) else admitted q h w) := rfl

/-- The serving state an admission leaves: the request's chunks queued, or its stream in DECODE where it has none (R263). -/
theorem admitReq_serve {q : Request} {h : Nat} {v : Serve} {w u : W9} (hv : Admitting q w v) (hu : Upkeep v w u) :
    ∃ a b, let v' := serveAdmit q h a (prefillChunks w (slotOf q) h (q.promptLen - 1)) v
      (admitReq q h none 0 0 false u).serve =
        if (prefillChunks w (slotOf q) h (q.promptLen - 1)).isEmpty then serveDecode (slotOf q) q.promptLen b v' else v' := by
  obtain ⟨a, hadm⟩ := admitted_upkeep (q := q) (h := h) hu
  have hslot := serveGet_serveAdmit (q := q) (h := h) (a := a) (cs := prefillChunks w (slotOf q) h (q.promptLen - 1)) (v := v)
  rw [hv.slot] at hslot
  obtain ⟨b, hdec⟩ := hadm.enterDecode (s := slotOf q) (by rw [hslot]; rfl)
  rw [hslot] at hdec
  refine ⟨a, b, ?_⟩
  rw [admitReq_eq, hu.prefillChunks]
  dsimp only
  split
  · rw [finishCancel_notAsked]
    · exact hdec.serve
    · obtain ⟨x, -, hx⟩ := serveGet_serveDecode (slotOf q) q.promptLen b
        (serveAdmit q h a (prefillChunks w (slotOf q) h (q.promptLen - 1)) v)
      refine (congrArg Stream.cancelAsked ((hdec.get _).trans hx)).trans ?_
      rw [hslot]
      rfl
  · rw [finishCancel_notAsked]
    · exact hadm.serve
    · rw [hadm.get, hslot]
      rfl

/-- A class-2 request is admitted (R263, R265). -/
theorem admitReq_admits {q : Request} {h : Nat} {v : Serve} {w u : W9} (hv : Admitting q w v) (hu : Upkeep v w u) (hc : q.cls = 2) :
    let w' := admitReq q h none 0 0 false u
    let x := streamOf w' (slotOf q)
    let chunks := prefillChunks w (slotOf q) x.prefixHit (q.promptLen - 1)
    x.cls = 2 ∧ x.reqTag = q.tag ∧ x.promptLen = q.promptLen ∧ x.maxNew = q.maxNew ∧ x.phase = none ∧ x.shadow = false ∧
    x.order = w.serve.decisions ∧ w'.serve.decisions = w.serve.decisions + 1 ∧
    w'.serve.queue = w.serve.queue ++ chunks ∧ w'.serve.admitQ = w.serve.admitQ ∧
    (chunks ≠ [] → x.state = .prefill ∧ x.length = x.prefixHit) ∧
    (chunks = [] → (x.state = .decode ∨ x.state = .held) ∧ x.length = q.promptLen - 1) ∧
    (∀ y, y ≠ slotOf q → streamOf w' y = streamOf w y) := by
  obtain ⟨a, b, hserve⟩ := admitReq_serve (h := h) hv hu
  have hcls : BitVec.ofNat 2 q.cls.toNat = 2 := by rw [hc]; rfl
  have hdecisions : v.decisions = w.serve.decisions := by rw [hv.eq]
  have hqueue : v.queue = w.serve.queue := by rw [hv.eq]
  have hadmitQ : v.admitQ = w.serve.admitQ := by rw [hv.eq]
  have hslot := serveGet_serveAdmit (q := q) (h := h) (a := a) (cs := prefillChunks w (slotOf q) h (q.promptLen - 1)) (v := v)
  rw [hv.slot, hdecisions] at hslot
  intro w' x chunks
  have hget : ∀ y, streamOf w' y = serveGet w'.serve y := fun _ => rfl
  by_cases hnil : prefillChunks w (slotOf q) h (q.promptLen - 1) = []
  · rw [hnil] at hserve hslot
    obtain ⟨st, hst, hx⟩ := serveGet_serveDecode (slotOf q) q.promptLen b (serveAdmit q h a [] v)
    have hserve' : w'.serve = serveDecode (slotOf q) q.promptLen b (serveAdmit q h a [] v) := hserve
    have hx' : x = _ := (hget _).trans ((congrArg (serveGet · (slotOf q)) hserve').trans hx)
    rw [hslot] at hx'
    have hh : x.prefixHit = h := by rw [hx']; rfl
    have hchunks : chunks = [] := by rw [← hnil, ← hh]
    rw [hchunks, hserve', serveDecode_frame, hx']
    refine ⟨hcls, rfl, rfl, rfl, rfl, rfl, rfl, by rw [← hdecisions]; rfl, by rw [← hqueue]; rfl, hadmitQ, fun hne => absurd rfl hne,
      fun _ => ⟨hst, rfl⟩, fun y hy => ?_⟩
    rw [hget, hserve', serveGet_serveDecode_ne _ _ _ hy, serveGet_serveAdmit_ne hy, hv.others y hy]
  · have hserve' : w'.serve = serveAdmit q h a (prefillChunks w (slotOf q) h (q.promptLen - 1)) v :=
      hserve.trans (if_neg (by simpa using hnil))
    have hx' : x = _ := (hget _).trans ((congrArg (serveGet · (slotOf q)) hserve').trans hslot)
    have hh : x.prefixHit = h := by rw [hx']; rfl
    have hchunks : chunks = prefillChunks w (slotOf q) h (q.promptLen - 1) := by rw [← hh]
    rw [hchunks, hserve', hx']
    refine ⟨hcls, rfl, rfl, rfl, rfl, rfl, rfl, by rw [← hdecisions]; rfl, by rw [← hqueue]; rfl, hadmitQ, fun _ => ⟨rfl, rfl⟩,
      fun he => absurd he hnil, fun y hy => ?_⟩
    rw [hget, hserve', serveGet_serveAdmit_ne hy, hv.others y hy]

/-! ## The decision of the queue's first request -/

/-- The W9 with the first request taken off the queue. -/
def requestTaken (r : List Request) (w : W9) : W9 := { w with serve := { w.serve with admitQ := r } }

theorem admissionDecision_new {w : W9} {q : Request} {r : List Request} (hq : w.serve.admitQ = q :: r) (hk : q.kind ≠ 1) :
    admissionDecision w = newRequest q (requestTaken r w) := by
  rw [admissionDecision, hq]
  exact if_neg hk

/-- A refusal at the tests before the class tests: no stream, block or chunk changes (R265). -/
theorem refuse_taken (q : Request) (r : List Request) (st : BitVec 8) (w : W9) :
    let w' := refuse q st (requestTaken r w)
    (w'.serve.admitQ = r ∧ (∃ x, smGet (fun _ => []) w'.host.cplWait q.ring.val = smGet (fun _ => []) w.host.cplWait q.ring.val ++ [x] ∧
      x.status = st ∧ x.tag = q.tag ∧ x.stream = q.stream ∧ x.outEnd = 0xFFFFFFFF) ∧ w'.serve.pipe = w.serve.pipe) ∧
    w'.serve.streams = w.serve.streams ∧ w'.serve.queue = w.serve.queue ∧ w'.kv = w.kv := by
  have hrec := refuse_record q st (requestTaken r w)
  have hkv := refuse_kv q st (requestTaken r w)
  obtain ⟨hadm, hpipe, hstr, hque⟩ := serveRefused_frame (requestTaken r w).dev.time q (requestTaken r w).serve
  intro w'
  have hserve : w'.serve = _ := refuse_serve q st (requestTaken r w)
  rw [hserve, hadm, hpipe, hstr, hque]
  exact ⟨⟨rfl, hrec, rfl⟩, rfl, rfl, hkv⟩

/-- Settles O27: the tests in their order, and from the class tests on the slot's stream as `Admitting` says it. -/
theorem requestsAreDecidedByTheirTests : Obligations.RequestsAreDecidedByTheirTests := by
  unfold Obligations.RequestsAreDecidedByTheirTests
  refine ⟨fun s hq => exec_of_lift_same (f := admissionDecision) rfl (by rw [admissionDecision, hq]), fun s q r hq => ?_⟩
  intro refused popped
  refine ⟨fun hk hs => ?_, fun hk => ?_⟩
  · have he : admissionDecision s.w = cancel (slotOf q) q.tag popped.w := by
      rw [admissionDecision, hq]
      exact (if_pos hk).trans (if_pos hs)
    exact exec_of_lift_eq rfl he
  have hnew := admissionDecision_new hq hk
  have hfirst : firstTests (requestTaken r s.w) q = firstTests s.w q := rfl
  have hmodel : modelTests (requestTaken r s.w) q = modelTests s.w q := rfl
  refine ⟨fun st h1 => ?_, fun h1 => ⟨fun f hf => ⟨fun hm => ?_, fun hm => ?_⟩,
    fun hf => ⟨fun st h2 => ?_, fun h2 => ⟨fun hh => ⟨fun hc => ?_, fun hc => ?_⟩, fun hh => ?_⟩⟩⟩⟩
  · exact ⟨_, exec_of_lift_eq rfl (hnew.trans (newRequest_first (hfirst.trans h1))), refuse_taken q r st s.w⟩
  · have he := newRequest_flip (w := requestTaken r s.w) (hfirst.trans h1) hf
    rw [if_pos hm] at he
    exact ⟨_, exec_of_lift_eq rfl (hnew.trans he), waitsFlip_waits q (requestTaken r s.w)⟩
  · have he := newRequest_flip (w := requestTaken r s.w) (hfirst.trans h1) hf
    rw [if_neg hm] at he
    exact ⟨_, exec_of_lift_eq rfl (hnew.trans he), refuse_taken q r 0x12 s.w⟩
  · have he := newRequest_model (w := requestTaken r s.w) (hfirst.trans h1) hf (hmodel.trans h2)
    exact ⟨_, exec_of_lift_eq rfl (hnew.trans he), refuse_taken q r st s.w⟩
  · have he := newRequest_tested (w := requestTaken r s.w) (hfirst.trans h1) hf (hmodel.trans h2)
    rw [if_pos (show inHold (requestTaken r s.w) = true from hh), if_pos hc] at he
    exact ⟨_, exec_of_lift_eq rfl (hnew.trans he), refuse_taken q r 0x14 s.w⟩
  · have he := newRequest_tested (w := requestTaken r s.w) (hfirst.trans h1) hf (hmodel.trans h2)
    rw [if_pos (show inHold (requestTaken r s.w) = true from hh), if_neg hc] at he
    exact ⟨_, exec_of_lift_eq rfl (hnew.trans he), waitsHold_waits q (requestTaken r s.w)⟩
  have hrun := newRequest_tested (w := requestTaken r s.w) (hfirst.trans h1) hf (hmodel.trans h2)
  rw [show inHold (requestTaken r s.w) = false from hh, if_neg Bool.false_ne_true] at hrun
  obtain ⟨v, u, hv, hu, hdec⟩ := runAdmission_walked q (requestTaken r s.w)
  have hdecide := hnew.trans (hrun.trans hdec)
  refine ⟨fun hc hb => ?_, fun hc hb he hp => ?_, fun hc hl => ?_, fun hc => ?_⟩
  · have hz : decide' q u = refuseSlot q 0x14 u := (if_pos hc).trans (decideClass0_floor (hu.belowFloor.trans hb))
    exact ⟨_, exec_of_lift_eq rfl (hdecide.trans hz), refuseSlot_refuses hv hu⟩
  · have hz : decide' q u = refuseSlot q 0x15 u :=
      (if_pos hc).trans (decideClass0_alone (hu.belowFloor.trans hb) (hu.pairEn.trans he) (hu.paired.trans hp))
    exact ⟨_, exec_of_lift_eq rfl (hdecide.trans hz), refuseSlot_refuses hv hu⟩
  · exact ⟨_, exec_of_lift_eq rfl (hdecide.trans (decide'_late hc hl)), refuseSlot_refuses hv hu⟩
  · have hz : decide' q u = admitReq q (streamOf u (slotOf q)).prefixHit none 0 0 false u :=
      (if_neg (by rw [hc]; decide)).trans (if_neg (by rw [hc]; decide))
    exact ⟨_, exec_of_lift_eq rfl (hdecide.trans hz), admitReq_admits hv hu hc⟩

end Sys2Proof.Machine
end

section
/-! SUPPORT. Beats of an idle W9, beat starts and windows (R254, R273, R431, R432). -/

namespace Sys2Proof.Machine

open Sys2Proof

set_option Elab.async false

/-! ## Steps over the fields -/

/-- `w'` is `w` but for field `f`: its state, FIELD_CLK and ROUTE_STATUS. -/
structure OneField (f : FieldIx) (w w' : W9) : Prop where
  eq : w' = { w with bar0 := w'.bar0, fields := w'.fields }
  fields : ∀ g, g ≠ f → fieldState w' g = fieldState w g
  regs : ∀ off, off ≠ Reg.fieldClk f.val → off ≠ Reg.routeStatus f.val → rd w' off = rd w off

/-- `w'` is `w` but for fields other than `f`. -/
structure OtherFields (f : FieldIx) (w w' : W9) : Prop where
  eq : w' = { w with bar0 := w'.bar0, fields := w'.fields }
  field : fieldState w' f = fieldState w f
  regs : ∀ off, (∀ g, g ≠ f → off ≠ Reg.fieldClk g.val ∧ off ≠ Reg.routeStatus g.val) → rd w' off = rd w off

/-- `w'` is `w` but for fields. -/
structure FieldsOnly (w w' : W9) : Prop where
  eq : w' = { w with bar0 := w'.bar0, fields := w'.fields }
  regs : ∀ off, (∀ g : FieldIx, off ≠ Reg.fieldClk g.val ∧ off ≠ Reg.routeStatus g.val) → rd w' off = rd w off

theorem OtherFields.refl (f : FieldIx) (w : W9) : OtherFields f w w := ⟨rfl, rfl, fun _ _ => rfl⟩

theorem OtherFields.trans {f : FieldIx} {a b c : W9} (h : OtherFields f a b) (k : OtherFields f b c) : OtherFields f a c :=
  ⟨by rw [k.eq, h.eq], k.field.trans h.field, fun off ho => (k.regs off ho).trans (h.regs off ho)⟩

theorem OneField.others {f g : FieldIx} {w w' : W9} (h : OneField g w w') (hf : f ≠ g) : OtherFields f w w' :=
  ⟨h.eq, h.fields f hf, fun off ho => h.regs off (ho g hf.symm).1 (ho g hf.symm).2⟩

theorem FieldsOnly.refl (w : W9) : FieldsOnly w w := ⟨rfl, fun _ _ => rfl⟩

theorem FieldsOnly.step {f : FieldIx} {a b c : W9} (h : FieldsOnly a b) (k : OneField f b c) : FieldsOnly a c :=
  ⟨by rw [k.eq, h.eq], fun off ho => (k.regs off (ho f).1 (ho f).2).trans (h.regs off ho)⟩

section

variable {w w' : W9} (h : FieldsOnly w w')
include h

theorem FieldsOnly.serve : w'.serve = w.serve := by rw [h.eq]

theorem FieldsOnly.tiles : w'.tiles = w.tiles := by rw [h.eq]

theorem FieldsOnly.page : w'.page = w.page := by rw [h.eq]

end

theorem OneField.trans {f : FieldIx} {a b c : W9} (h : OneField f a b) (k : OneField f b c) : OneField f a c :=
  ⟨by rw [k.eq, h.eq], fun g hg => (k.fields g hg).trans (h.fields g hg), fun off h1 h2 => (k.regs off h1 h2).trans (h.regs off h1 h2)⟩

theorem oneField_modField (f : FieldIx) (g : FieldS → FieldS) (w : W9) : OneField f w (modField f g w) :=
  ⟨rfl, fun _ hx => fieldState_modField_ne g w hx, fun _ _ _ => rfl⟩

theorem oneField_showHeld (f : FieldIx) (w : W9) : OneField f w (showHeld f w) :=
  ⟨rfl, fun _ _ => rfl, fun _ h _ => rd_wrB_ne _ _ _ h⟩

section

variable {step : FieldIx → W9 → W9} {Inv : W9 → Prop} (hstep : ∀ f w, Inv w → OneField f w (step f w)) (hinv : ∀ f w, Inv w → Inv (step f w))
include hstep hinv

/-- Steps over fields in turn leave a field that has no turn alone. -/
theorem forEach_noTurn {f : FieldIx} : ∀ {l : List FieldIx} {w : W9}, f ∉ l → Inv w → OtherFields f w (forEach l step w)
  | [], w, _, _ => .refl f w
  | g :: l, w, hf, hw => ((hstep g w hw).others (fun e => hf (e ▸ List.mem_cons_self))).trans
      (forEach_noTurn (l := l) (fun h => hf (List.mem_cons_of_mem g h)) (hinv g w hw))

/-- What a field's turn makes of it stands. -/
theorem forEach_turn {f : FieldIx} {l : List FieldIx} {w : W9} (hl : l.Nodup) (hf : f ∈ l) (hw : Inv w) :
    ∃ u, OtherFields f w u ∧ Inv u ∧ OtherFields f (step f u) (forEach l step w) := by
  induction l generalizing w with
  | nil => cases hf
  | cons g l ih =>
    obtain ⟨hg, hnd⟩ := List.nodup_cons.mp hl
    by_cases h : f = g
    · subst h
      exact ⟨w, .refl f w, hw, forEach_noTurn hstep hinv hg (hinv f w hw)⟩
    · obtain ⟨u, hu, hiu, hres⟩ := ih hnd ((List.mem_cons.mp hf).resolve_left h) (hinv g w hw)
      exact ⟨u, ((hstep g w hw).others h).trans hu, hiu, hres⟩

theorem forEach_fieldsOnly (l : List FieldIx) (w : W9) (hw : Inv w) : FieldsOnly w (forEach l step w) :=
  (forEach_keeps (fun u => Inv u ∧ FieldsOnly w u) step (fun f u hu => ⟨hinv f u hu.1, hu.2.step (hstep f u hu.1)⟩) l w ⟨hw, .refl w⟩).2

end

theorem allFields_nodup : allFields.Nodup := List.nodup_finRange 48

theorem mem_allFields (f : FieldIx) : f ∈ allFields := List.mem_finRange f

/-! ## What decides whether a field takes part -/

theorem taking_of {f : FieldIx} {w u : W9} (hf : fieldState u f = fieldState w f) (hp : rd u (Reg.parkStatus f.val) = rd w (Reg.parkStatus f.val))
    (hs : rd u (seenReg f f) = rd w (seenReg f f)) : taking u f = taking w f := by
  rw [taking, hf, parkState, rdF, hp, fieldStateSeen_of_rd hs, taking, parkState, rdF]

section

variable {f : FieldIx} {w u : W9} (h : OtherFields f w u)
include h

theorem OtherFields.time : now u = now w := by rw [now, now, h.eq]

theorem OtherFields.page : u.page = w.page := by rw [h.eq]

theorem OtherFields.serve : u.serve = w.serve := by rw [h.eq]

theorem OtherFields.beatNs : beatNs u = beatNs w := by
  rw [Machine.beatNs, rdF, h.regs _ fun g _ => ?_, Machine.beatNs, rdF]
  have := g.isLt
  simp only [Reg.beatCycles, Reg.fieldClk, Reg.routeStatus]
  omega

theorem OtherFields.routeStatus : rd u (Reg.routeStatus f.val) = rd w (Reg.routeStatus f.val) := by
  refine h.regs _ fun g hg => ?_
  have : g.val ≠ f.val := fun e => hg (Fin.ext e)
  simp only [Reg.fieldClk, Reg.routeStatus]
  omega

theorem OtherFields.taking : taking u f = taking w f := by
  refine taking_of h.field (h.regs _ fun g _ => ?_) (h.regs _ fun g _ => ?_)
  · simp only [Reg.parkStatus, Reg.fieldClk, Reg.routeStatus]
    omega
  · have := f.isLt
    simp only [seenReg, Reg.fieldClk, Reg.routeStatus]
    omega

end

/-! ## Pulses of fields without running tiles -/

/-- No tile of any field runs. -/
def NoneRuns (w : W9) : Prop := ∀ f, runningTiles w f = []

theorem NoneRuns.of_page {w w' : W9} (h : NoneRuns w) (hp : w'.page = w.page) : NoneRuns w' := fun f => by
  rw [runningTiles, hp]
  exact h f

/-- A pulse over a beat of `len` ns, owed to no tile. -/
def pulsed (t len : Nat) (s : FieldS) : FieldS := { s with beatStart := t, beatLen := len, owing := s.owing ++ [(t + len, [])] }

/-- The length of the beat that starts (R253). -/
def beatNow (w : W9) : Nat := beatNs w + w.serve.stretchNow + w.serve.extNow

theorem pulseField_none {n : Nat} {f : FieldIx} {w : W9} (h : NoneRuns w) : pulseField n f w = modField f (pulsed (now w) (beatNow w)) w := by
  simp only [pulseField, h f, List.filter_nil, ite_self, List.isEmpty_nil, Bool.not_true, Bool.false_or, if_true]
  rfl

/-- One field's part in a boundary. -/
def pulseStep (n : Nat) (f : FieldIx) (w : W9) : W9 := showHeld f (if taking w f then pulseField n f w else w)

theorem pulseStep_oneField (n : Nat) (f : FieldIx) (w : W9) (h : NoneRuns w) : OneField f w (pulseStep n f w) := by
  unfold pulseStep
  split
  · rw [pulseField_none h]
    exact (oneField_modField f _ w).trans (oneField_showHeld f _)
  · exact oneField_showHeld f w

theorem pulseStep_noneRuns (n : Nat) (f : FieldIx) (w : W9) (h : NoneRuns w) : NoneRuns (pulseStep n f w) :=
  h.of_page (by rw [(pulseStep_oneField n f w h).eq])

/-- Each field that takes part owes one more pulse; the others are as before (R254). -/
theorem pulseFields_field {w : W9} (h : NoneRuns w) (f : FieldIx) : fieldState (pulseFields w) f =
    if taking w f then pulsed (now w) (beatNow w) (fieldState w f) else fieldState w f := by
  obtain ⟨u, hu, hiu, hres⟩ := forEach_turn (pulseStep_oneField (rd64 w Reg.beatCount)) (pulseStep_noneRuns (rd64 w Reg.beatCount))
    allFields_nodup (mem_allFields f) h
  have hbeat : beatNow u = beatNow w := by rw [beatNow, hu.beatNs, hu.serve, beatNow]
  refine (hres.field.trans ?_)
  unfold pulseStep
  rw [hu.taking]
  split
  · rw [pulseField_none hiu, hu.time, hbeat, ← hu.field]
    exact fieldState_modField_same f _ u
  · exact hu.field

theorem pulseFields_only {w : W9} (h : NoneRuns w) : FieldsOnly w (pulseFields w) :=
  forEach_fieldsOnly (pulseStep_oneField _) (pulseStep_noneRuns _) allFields w h

/-! ## An idle W9's boundary -/

theorem leaveSampler_empty {l : List (List F32)} {w : W9} (h : ∀ x ∈ w.serve.pipe, x = none) : leaveSampler l w = w := by
  have hlast : (w.serve.pipe.getLast?).join = none := by
    cases hp : w.serve.pipe.getLast? with
    | none => rfl
    | some x => rw [h x (List.mem_of_getLast? hp)]; rfl
  rw [leaveSampler, hlast]

theorem skipSamples_none {w : W9} (h : w.prec.samples = []) : skipSamples w = w := by
  unfold skipSamples
  split
  · rfl
  · simp [h]

theorem startDrains_none {g : Rung} {w : W9} (h : ∀ f, (fieldState w f).parkOrder = false) : startDrains g w = w := by
  refine forEach_keeps (· = w) _ (fun f u hu => ?_) _ _ rfl
  subst hu
  simp [h f]

/-- No flip, no rotation and no park order: a boundary makes no structural change (R43). -/
theorem structural_none {w : W9} (hflip : w.wt.flip = none) (hrot : ∀ g, rungNow w = some g → g.rotation = [])
    (hpark : ∀ f, (fieldState w f).parkOrder = false) : structural w = w := by
  have hsel : wselSwitch w = w := by rw [wselSwitch, hflip]
  unfold structural
  rw [hsel]
  dsimp only
  cases hg : rungNow w with
  | none => rfl
  | some g =>
    dsimp only
    rw [startDrains_none hpark]
    have hr : rotateRoles g w = w := by rw [rotateRoles, hrot g hg]; rfl
    rw [hr, moveStagings, stagingBands, hrot g hg]
    rfl

section

variable {w : W9} (h : w.serve.streams = [])
include h

theorem busyStreams_none : busyStreams w = [] := by rw [busyStreams, h]; rfl

theorem streamsGoOn_none : streamsGoOn w = w := by
  have hres : resumable w = [] := by
    unfold resumable
    rw [busyStreams_none h]
    exact ite_self _
  unfold streamsGoOn
  rw [hres]
  change forEach ((busyStreams w).filter _) _ w = w
  rw [busyStreams_none h]
  rfl

theorem beforeChoice_none (hr : replaying w = false) : beforeChoice w = w := by
  unfold beforeChoice
  rw [hr, if_neg Bool.false_ne_true]
  split
  · rfl
  · have hexp : expirable w = [] := by rw [expirable, busyStreams_none h]; rfl
    rw [hexp]
    change restoreReady w = w
    rw [restoreReady, busyStreams_none h]
    rfl

theorem chosen_none (hr : replaying w = false) : chosen w = none := by
  unfold chosen
  rw [hr, if_neg Bool.false_ne_true]
  cases reservedPhase w with
  | none =>
    dsimp only
    rw [freeStream, busyStreams_none h]
    rfl
  | some k =>
    dsimp only
    rw [reservedStream, class0s, busyStreams_none h]
    rfl

/-- Nothing enters: an empty beat (R254). -/
theorem chooseSlot_none (hr : replaying w = false) (ok : Bool) : OnlyWire (emptyBeat w) (chooseSlot ok w) := by
  unfold chooseSlot
  dsimp only
  rw [beforeChoice_none h hr, chosen_none h hr]
  split
  · exact .refl _
  · exact writeFlight_wire _

end

/-- The registers that a plan word's coming into force writes. -/
abbrev PlanReg (off : Nat) : Prop :=
  off = 0x500050 ∨ off = 0x500054 ∨ off = 0x301038 ∨ off = 0x30103C ∨ off = 0x500004 ∨ off = 0x500028 ∨ off = 0x50002C ∨
  off = 0x100020 ∨ off = 0x100008

/-- The W9 before the beat's extension shows: LEDGER_NOW, and a missing plan word counted (R432). -/
def planLooked (w : W9) : W9 :=
  let u := wr64 Reg.ledgerNow (ledgerNow w) w
  if u.serve.plan.isNone then planMiss u else u

/-- The beat's extension in force. -/
def planExt (w : W9) : Nat := match w.serve.plan with
  | some _ => extensionOf (wr64 Reg.ledgerNow (ledgerNow w) w) (ledgerNow w)
  | none => 0

/-- The beat's stretch in force. -/
def planStretch (align : Nat) (w : W9) : Nat := match w.serve.plan with
  | some x => min (x + (if align = 1 then 1 else 0)) (stretchLimit (wr64 Reg.ledgerNow (ledgerNow w) w) (planExt w)) + (if 1 < align then align else 0)
  | none => 0

/-- The registers that show the extension. -/
def extShown (e : Nat) (w : W9) : W9 :=
  wrB Reg.serveStatus 1 (decide (0 < e)) (wr Reg.extLast (BitVec.ofNat 32 e) (inc Reg.extBeats (b2n (decide (0 < e))) w))

theorem planBeat_eq (align : Nat) (w : W9) : planBeat align w =
    { extShown (planExt w) (planLooked w) with serve := { (planLooked w).serve with
      plan := (planLooked w).serve.planNext, planNext := none, extNow := planExt w, stretchNow := planStretch align w } } := rfl

theorem planMiss_step (w : W9) : OnlyEvents (wrB Reg.pwrErr 3 true (inc Reg.pipePlanMiss 1 w)) (planMiss w) := raise0_step _ _ _ _

theorem planLooked_step (w : W9) : (planLooked w).tiles = w.tiles ∧ (planLooked w).page = w.page ∧ (planLooked w).fields = w.fields ∧
    now (planLooked w) = now w ∧ (planLooked w).serve = w.serve := by
  unfold planLooked
  dsimp only
  split
  · have h := planMiss_step (wr64 Reg.ledgerNow (ledgerNow w) w)
    exact ⟨h.tiles, h.page, h.fields, h.dev_time, h.serve⟩
  · exact ⟨rfl, rfl, rfl, rfl, rfl⟩

theorem rd_planLooked {w : W9} {off : Nat} (h : ¬ PlanReg off) : rd (planLooked w) off = rd w off := by
  simp only [PlanReg, not_or] at h
  obtain ⟨h1, h2, h3, h4, -, -, -, h8, h9⟩ := h
  have hl : rd (wr64 Reg.ledgerNow (ledgerNow w) w) off = rd w off := rd_wr64_ne _ _ h1 h2
  unfold planLooked
  dsimp only
  split
  · rw [(planMiss_step _).regs off h8 h9, rd_wrB_ne _ _ _ h3, rd_inc_ne _ _ h4, hl]
  · exact hl

theorem rd_planBeat {align : Nat} {w : W9} {off : Nat} (h : ¬ PlanReg off) : rd (planBeat align w) off = rd w off := by
  have hlook := rd_planLooked (w := w) h
  simp only [PlanReg, not_or] at h
  obtain ⟨-, -, -, -, h5, h6, h7, -, -⟩ := h
  rw [planBeat_eq]
  change rd (extShown (planExt w) (planLooked w)) off = rd w off
  rw [extShown, rd_wrB_ne _ _ _ h5, rd_wr_ne _ _ h6, rd_inc_ne _ _ h7, hlook]

/-- The registers of a missed plan word are none that show the extension. -/
theorem rd_planBeat_miss {align : Nat} {w : W9} {off : Nat} (h5 : off ≠ Reg.serveStatus) (h6 : off ≠ Reg.extLast) (h7 : off ≠ Reg.extBeats) :
    rd (planBeat align w) off = rd (planLooked w) off := by
  rw [planBeat_eq]
  change rd (extShown (planExt w) (planLooked w)) off = _
  rw [extShown, rd_wrB_ne _ _ _ h5, rd_wr_ne _ _ h6, rd_inc_ne _ _ h7]

/-- A beat with a plan word misses none. -/
theorem planLooked_some {w : W9} (h : w.serve.plan ≠ none) : planLooked w = wr64 Reg.ledgerNow (ledgerNow w) w :=
  if_neg (by
    rw [Option.isNone_iff_eq_none]
    exact h)

/-- A beat without a plan word is counted as missed (R432). -/
theorem planLooked_none {w : W9} (h : w.serve.plan = none) : planLooked w = planMiss (wr64 Reg.ledgerNow (ledgerNow w) w) :=
  if_pos (by
    rw [Option.isNone_iff_eq_none]
    exact h)

theorem planBeat_missed {align : Nat} {w : W9} (h : w.serve.plan = none) : (planBeat align w).serve.extNow = 0 ∧
    (planBeat align w).serve.stretchNow = 0 ∧ rd (planBeat align w) Reg.pipePlanMiss = satAdd32 (rd w Reg.pipePlanMiss) 1 ∧
    rdB (planBeat align w) Reg.pwrErr 3 = true := by
  have hstep := planMiss_step (wr64 Reg.ledgerNow (ledgerNow w) w)
  refine ⟨?_, ?_, ?_, ?_⟩
  · rw [planBeat_eq]
    change planExt w = 0
    rw [planExt, h]
  · rw [planBeat_eq]
    change planStretch align w = 0
    rw [planStretch, h]
  · rw [rd_planBeat_miss (by decide) (by decide) (by decide), planLooked_none h, hstep.regs _ (by decide) (by decide),
      rd_wrB_ne _ _ _ (by decide), rd_inc_same, rd_wr64_ne _ _ (by decide) (by decide)]
  · rw [rdB, rd_planBeat_miss (by decide) (by decide) (by decide), planLooked_none h, hstep.regs _ (by decide) (by decide)]
    exact rdB_wrB_same _ _ _ _ (by decide)

theorem planBeat_kept {align : Nat} {w : W9} (h : w.serve.plan ≠ none) : rd (planBeat align w) Reg.pipePlanMiss = rd w Reg.pipePlanMiss := by
  rw [rd_planBeat_miss (by decide) (by decide) (by decide), planLooked_some h, rd_wr64_ne _ _ (by decide) (by decide)]

theorem planBeat_frame (align : Nat) (w : W9) : (planBeat align w).tiles = w.tiles ∧ (planBeat align w).page = w.page ∧
    (planBeat align w).fields = w.fields ∧ now (planBeat align w) = now w ∧ (planBeat align w).serve.pipe = w.serve.pipe ∧
    (planBeat align w).serve.plan = w.serve.planNext ∧ (planBeat align w).serve.planNext = none ∧
    (planBeat align w).serve.streams = w.serve.streams := by
  obtain ⟨htiles, hpage, hfields, htime, hserve⟩ := planLooked_step w
  rw [planBeat_eq, hserve]
  exact ⟨htiles, hpage, hfields, htime, rfl, rfl, rfl, rfl⟩

/-! ## BEAT_BOUNDARY -/

/-- A W9 with nothing to do at a boundary but to pass it. -/
structure IdleBeat (w : W9) : Prop where
  streams : w.serve.streams = []
  pipe : ∀ x ∈ w.serve.pipe, x = none
  samples : w.prec.samples = []
  flip : w.wt.flip = none
  solo : paired w = false
  rotation : ∀ g, rungNow w = some g → g.rotation = []
  park : ∀ f, (fieldState w f).parkOrder = false
  replay : replaying w = false
  runs : NoneRuns w

/-- The W9 with the beat counted and its entries passed on. -/
def beatCounted (w : W9) : W9 := shiftPipe (wr64 Reg.beatCount (rd64 w Reg.beatCount + 1) w)

theorem rd_beatCounted {w : W9} {off : Nat} (h : off ≠ 0x500020) (h4 : off ≠ 0x500024) : rd (beatCounted w) off = rd w off :=
  rd_wr64_ne _ _ h h4

theorem rungNow_beatCounted (w : W9) : rungNow (beatCounted w) = rungNow w := by
  change (match w.img with | some im => im.body.rungs[rdF (beatCounted w) Reg.imgStatus 23 16]? | none => none) = _
  rw [rdF, rd_beatCounted (by decide) (by decide)]
  rfl

theorem paired_beatCounted (w : W9) : paired (beatCounted w) = paired w := paired_of_rd (rd_beatCounted (by decide) (by decide))

/-- An idle W9's boundary up to the choice of a slot only counts. -/
theorem beatBoundary_idle {b : BoundaryIn} {w : W9} (hfalls : boundaryFalls w = true) (h : IdleBeat w) :
    beatBoundary b w = pulseFields (planBeat 0 (chooseSlot b.logAccepted (applyStretch (beatCounted w)))) := by
  have hleave : leaveSampler b.logits (wr64 Reg.beatCount (rd64 w Reg.beatCount + 1) w) = wr64 Reg.beatCount (rd64 w Reg.beatCount + 1) w :=
    leaveSampler_empty h.pipe
  have hskip : skipSamples (beatCounted w) = beatCounted w := skipSamples_none h.samples
  have hstruct : structural (beatCounted w) = beatCounted w :=
    structural_none h.flip (by rw [rungNow_beatCounted]; exact h.rotation) h.park
  have hgo : streamsGoOn (beatCounted w) = beatCounted w := streamsGoOn_none h.streams
  have hsolo : paired (beatCounted w) = false := (paired_beatCounted w).trans h.solo
  have halign : alignCycles (beatCounted w) b.lead = 0 := if_pos (by rw [hsolo]; rfl)
  have hpair : pairBoundary b (beatCounted w) = beatCounted w := if_pos (by rw [hsolo]; rfl)
  unfold beatBoundary
  rw [if_pos hfalls]
  dsimp only
  rw [hleave]
  change pulseFields (planBeat (alignCycles (streamsGoOn (structural (skipSamples (beatCounted w)))) b.lead) (chooseSlot b.logAccepted
    (applyStretch (pairBoundary b (streamsGoOn (structural (skipSamples (beatCounted w)))))))) = _
  rw [hskip, hstruct, hgo, halign, hpair]

/-- The W9 at the choice of a slot: the beat counted, its entries passed on, and an empty beat counted. -/
theorem idle_chosen {w : W9} (h : IdleBeat w) (ok : Bool) : let u := chooseSlot ok (applyStretch (beatCounted w))
    (u.tiles = w.tiles ∧ u.page = w.page ∧ u.fields = w.fields ∧ now u = now w ∧ u.serve = (shiftPipe w).serve) ∧
    rd64 u Reg.beatCount = (rd64 w Reg.beatCount + 1) % 2 ^ 64 ∧ rd u Reg.emptyBeats = satAdd32 (rd w Reg.emptyBeats) 1 ∧
    ∀ off, off < 0x2000000 → off ≠ 0x500020 → off ≠ 0x500024 → off ≠ 0x500030 → rd u off = rd w off := by
  generalize hv : applyStretch (beatCounted w) = v
  have hframe : v = { beatCounted w with env := { (beatCounted w).env with stretch := v.env.stretch }, pair := v.pair } := by
    rw [← hv]
    exact applyStretch_frame _
  have hbar : v.bar0 = (beatCounted w).bar0 := by rw [hframe]
  have hreplay : replaying v = false := by
    rw [replaying, rdB_of_bar0 hbar, rdB, rd_beatCounted (by decide) (by decide), show v.flt = w.flt by rw [hframe]; rfl]
    exact h.replay
  have hwire := chooseSlot_none (w := v) (by rw [hframe]; exact h.streams) hreplay ok
  have hrd : ∀ off, off < 0x2000000 → off ≠ 0x500030 → rd (chooseSlot ok v) off = rd (beatCounted w) off := fun off hl he => by
    rw [hwire.rd_low hl, emptyBeat, rd_inc_ne _ _ he, rd_of_bar0 hbar]
  refine ⟨⟨?_, ?_, ?_, ?_, ?_⟩, ?_, ?_, fun off hl h1 h2 h3 => (hrd off hl h3).trans (rd_beatCounted h1 h2)⟩
  · rw [hwire.tiles]; change v.tiles = _; rw [hframe]; rfl
  · rw [hwire.page]; change v.page = _; rw [hframe]; rfl
  · rw [hwire.fields]; change v.fields = _; rw [hframe]; rfl
  · rw [now, hwire.dev]; change v.dev.time = _; rw [hframe]; rfl
  · rw [hwire.serve]; change v.serve = _; rw [hframe]; rfl
  · rw [rd64, hrd _ (by decide) (by decide), hrd _ (by decide) (by decide)]
    exact rd64_wr64_same _ _ _
  · rw [hwire.rd_low (by decide), emptyBeat, rd_inc_same, rd_of_bar0 hbar, rd_beatCounted (by decide) (by decide)]

/-- What a boundary makes of an idle W9 (R254, R432). -/
theorem beatBoundary_passes {b : BoundaryIn} {w : W9} (hfalls : boundaryFalls w = true) (h : IdleBeat w) : let w' := beatBoundary b w
    rd64 w' Reg.beatCount = (rd64 w Reg.beatCount + 1) % 2 ^ 64 ∧ rd w' Reg.emptyBeats = satAdd32 (rd w Reg.emptyBeats) 1 ∧
    w'.serve.pipe = none :: w.serve.pipe.dropLast ∧ w'.serve.plan = w.serve.planNext ∧ w'.serve.planNext = none ∧
    w'.serve.streams = [] ∧ w'.tiles = w.tiles ∧ w'.page = w.page ∧
    (w.serve.plan = none → w'.serve.extNow = 0 ∧ w'.serve.stretchNow = 0 ∧ rd w' Reg.pipePlanMiss = satAdd32 (rd w Reg.pipePlanMiss) 1 ∧
      rdB w' Reg.pwrErr 3 = true) ∧
    (w.serve.plan ≠ none → rd w' Reg.pipePlanMiss = rd w Reg.pipePlanMiss) ∧
    ∀ f, fieldState w' f = if taking w f then { fieldState w f with
      beatStart := w.dev.time
      beatLen := beatNs w + w'.serve.stretchNow + w'.serve.extNow
      owing := (fieldState w f).owing ++ [(w.dev.time + (beatNs w + w'.serve.stretchNow + w'.serve.extNow), [])] }
    else fieldState w f := by
  obtain ⟨⟨htiles, hpage, hfields, htime, hserve⟩, hbeats, hempty, hregs⟩ := idle_chosen h b.logAccepted
  rw [beatBoundary_idle hfalls h]
  generalize chooseSlot b.logAccepted (applyStretch (beatCounted w)) = u at htiles hpage hfields htime hserve hbeats hempty hregs
  obtain ⟨ptiles, ppage, pfields, ptime, ppipe, pplan, pnext, pstreams⟩ := planBeat_frame 0 u
  have hruns : NoneRuns (planBeat 0 u) := h.runs.of_page (ppage.trans hpage)
  have honly := pulseFields_only hruns
  have hsv := honly.serve
  have hlow : ∀ off, off < 0x1000000 → rd (pulseFields (planBeat 0 u)) off = rd (planBeat 0 u) off := fun off hl => honly.regs off fun g => by
    simp only [Reg.fieldClk, Reg.routeStatus]
    omega
  have hns : beatNs (planBeat 0 u) = beatNs w := by
    rw [beatNs, rdF, rd_planBeat (by decide), hregs _ (by decide) (by decide) (by decide) (by decide), beatNs, rdF]
  have hplan : u.serve.plan = w.serve.plan := by rw [hserve]; rfl
  have hmiss : rd u Reg.pipePlanMiss = rd w Reg.pipePlanMiss := hregs _ (by decide) (by decide) (by decide) (by decide)
  refine ⟨?_, ?_, ?_, ?_, ?_, ?_, ?_, ?_, fun hp => ?_, fun hp => ?_, fun f => ?_⟩
  · rw [rd64, hlow _ (by decide), hlow _ (by decide), rd_planBeat (by decide), rd_planBeat (by decide)]
    exact hbeats
  · rw [hlow _ (by decide), rd_planBeat (by decide), hempty]
  · rw [hsv, ppipe, hserve]; rfl
  · rw [hsv, pplan, hserve]; rfl
  · rw [hsv, pnext]
  · rw [hsv, pstreams, hserve]; exact h.streams
  · exact honly.tiles.trans (ptiles.trans htiles)
  · exact honly.page.trans (ppage.trans hpage)
  · rw [hsv, hlow _ (by decide), rdB, hlow _ (by decide), ← hmiss]
    exact planBeat_missed (hplan.trans hp)
  · rw [hlow _ (by decide), planBeat_kept (by rw [hplan]; exact hp), hmiss]
  · have hfield : fieldState (planBeat 0 u) f = fieldState w f := by rw [fieldState, pfields, hfields, fieldState]
    have htake : taking (planBeat 0 u) f = taking w f := by
      have := f.isLt
      have hp : ∀ off, 0x1000000 ≤ off → off < 0x2000000 → rd (planBeat 0 u) off = rd w off := fun off h1 h2 =>
        (rd_planBeat (by simp only [PlanReg]; omega)).trans (hregs off h2 (by omega) (by omega) (by omega))
      refine taking_of hfield (hp _ ?_ ?_) (hp _ ?_ ?_) <;> simp only [Reg.parkStatus, seenReg] <;> omega
    rw [hsv, pulseFields_field hruns f, htake, hfield, ptime, htime, beatNow, hns]
    rfl

/-! ## BEAT_START -/

/-- No tile waits for a START. -/
def NoneWaits (w : W9) : Prop := ∀ e ∈ w.tiles, e.2.startWait = false

/-- No tile runs or waits to start. -/
def Still (w : W9) : Prop := NoneRuns w ∧ NoneWaits w

theorem Still.of_eq {w w' : W9} (h : Still w) (he : w' = { w with bar0 := w'.bar0, fields := w'.fields }) : Still w' :=
  ⟨h.1.of_page (by rw [he]), by rw [he]; exact h.2⟩

/-- A field that begins beat cycle 0: its table runs, and it owes a pulse to no tile. -/
theorem startField_none {f : FieldIx} {w : W9} (h : Still w) :
    startField f w = modField f (pulsed (now w) (beatNs w)) (wrB (Reg.routeStatus f.val) 0 true w) := by
  have hwaits : w.tiles.filter (fun e => e.2.startWait) = [] := List.filter_eq_nil_iff.mpr fun e he => by rw [h.2 e he]; decide
  unfold startField
  dsimp only
  rw [h.1 f, hwaits]
  rfl

/-- One field's part in a beat start. -/
def startStep (f : FieldIx) (w : W9) : W9 := showHeld f (if taking w f then startField f w else w)

theorem oneField_routeStatus (f : FieldIx) (w : W9) : OneField f w (wrB (Reg.routeStatus f.val) 0 true w) :=
  ⟨rfl, fun _ _ => rfl, fun _ _ h => rd_wrB_ne _ _ _ h⟩

theorem startStep_oneField (f : FieldIx) (w : W9) (h : Still w) : OneField f w (startStep f w) := by
  unfold startStep
  split
  · rw [startField_none h]
    exact ((oneField_routeStatus f w).trans (oneField_modField f _ _)).trans (oneField_showHeld f _)
  · exact oneField_showHeld f w

theorem startStep_still (f : FieldIx) (w : W9) (h : Still w) : Still (startStep f w) := h.of_eq (startStep_oneField f w h).eq

/-- A refill that no field waits for gives nothing back. -/
theorem setRefill_same {w : W9} (h : ∀ f, (fieldState w f).withheld.refill = false) : (∀ f, fieldState (setRefill false w) f = fieldState w f) ∧
    setRefill false w = { w with fields := (setRefill false w).fields } := by
  constructor
  · refine forEach_keeps (fun u => ∀ f, fieldState u f = fieldState w f) _ (fun g u hu f => ?_) _ _ (fun _ => rfl)
    by_cases hf : f = g
    · subst hf
      have hsame : { (fieldState w f).withheld with refill := false } = (fieldState w f).withheld := by rw [← h f]
      rw [fieldState_modField_same, hu f, hsame]
    · rw [fieldState_modField_ne _ _ hf, hu f]
  · refine forEach_keeps (fun u => u = { w with fields := u.fields }) _ (fun g u hu => ?_) _ _ rfl
    rw [hu]
    rfl

/-- The W9 in which every field's part of a beat start is done. -/
def fieldsStarted (w : W9) : W9 := forEach allFields startStep w

theorem fieldsStarted_field {w : W9} (h : Still w) (f : FieldIx) :
    (taking w f = true → rdB (fieldsStarted w) (Reg.routeStatus f.val) 0 = true ∧ fieldState (fieldsStarted w) f = pulsed (now w) (beatNs w) (fieldState w f)) ∧
    (taking w f = false → rd (fieldsStarted w) (Reg.routeStatus f.val) = rd w (Reg.routeStatus f.val) ∧ fieldState (fieldsStarted w) f = fieldState w f) := by
  obtain ⟨u, hu, hiu, hturn⟩ := forEach_turn startStep_oneField startStep_still allFields_nodup (mem_allFields f) h
  have hres : OtherFields f (startStep f u) (fieldsStarted w) := hturn
  clear hturn
  generalize fieldsStarted w = z at hres ⊢
  have hclk : Reg.routeStatus f.val ≠ Reg.fieldClk f.val := by simp only [Reg.routeStatus, Reg.fieldClk]; omega
  refine ⟨fun ht => ?_, fun ht => ?_⟩
  · have hs : startStep f u = showHeld f (modField f (pulsed (now w) (beatNs w)) (wrB (Reg.routeStatus f.val) 0 true u)) := by
      rw [startStep, hu.taking, if_pos ht, startField_none hiu, hu.time, hu.beatNs]
    rw [hs] at hres
    refine ⟨?_, hres.field.trans ?_⟩
    · rw [rdB, hres.routeStatus, showHeld, rd_wrB_ne _ _ _ hclk, rd_modField]
      exact rdB_wrB_same _ _ _ _ (by decide)
    · rw [showHeld, fieldState_wrB, fieldState_modField_same, fieldState_wrB, hu.field]
  · have hs : startStep f u = showHeld f u := by
      rw [startStep, hu.taking, ht, if_neg Bool.false_ne_true]
    rw [hs] at hres
    refine ⟨?_, hres.field.trans (by rw [showHeld, fieldState_wrB, hu.field])⟩
    rw [hres.routeStatus, showHeld, rd_wrB_ne _ _ _ hclk, hu.routeStatus]

/-- BEAT_START of an image that runs: a failed refill gives its pulses back first (R320). -/
theorem beatStart_runs {w : W9} (hrun : imageRuns w = true) :
    beatStart w = wrB Reg.serveStatus 0 true (fieldsStarted (if flipState w = 3 then w else setRefill false w)) := if_pos hrun

/-- What a beat start makes of a W9 with no tile running and none waiting (R431). -/
theorem beatStart_starts {w : W9} (hrun : imageRuns w = true) (h : Still w) (href : ∀ f, (fieldState w f).withheld.refill = false) :
    let w' := beatStart w
    rdB w' Reg.serveStatus 0 = true ∧ w'.serve = w.serve ∧ w'.tiles = w.tiles ∧ w'.page = w.page ∧
    ∀ f, (taking w f = true → rdB w' (Reg.routeStatus f.val) 0 = true ∧ (fieldState w' f).beatStart = w.dev.time ∧
        (fieldState w' f).beatLen = beatNs w ∧ (fieldState w' f).owing = (fieldState w f).owing ++ [(w.dev.time + beatNs w, [])]) ∧
      (taking w f = false → rd w' (Reg.routeStatus f.val) = rd w (Reg.routeStatus f.val) ∧ (fieldState w' f).owing = (fieldState w f).owing) := by
  rw [beatStart_runs hrun]
  generalize hu : (if flipState w = 3 then w else setRefill false w) = u
  obtain ⟨hfields, heq⟩ : (∀ f, fieldState u f = fieldState w f) ∧ u = { w with fields := u.fields } := by
    rw [← hu]
    split
    · exact ⟨fun _ => rfl, rfl⟩
    · exact setRefill_same href
  have hbar : u.bar0 = w.bar0 := by rw [heq]
  have hstill : Still u := h.of_eq (by rw [heq])
  have htake : ∀ f, taking u f = taking w f := fun f => taking_of (hfields f) (rd_of_bar0 hbar _) (rd_of_bar0 hbar _)
  have htime : now u = w.dev.time := by rw [now, heq]
  have hns : beatNs u = beatNs w := by rw [beatNs, rdF_of_bar0 hbar, beatNs]
  have honly : FieldsOnly u (fieldsStarted u) := forEach_fieldsOnly startStep_oneField startStep_still allFields u hstill
  have hstart := fieldsStarted_field hstill
  generalize fieldsStarted u = z at honly hstart
  have hroute : ∀ f : FieldIx, Reg.routeStatus f.val ≠ Reg.serveStatus := fun f => by
    simp only [Reg.routeStatus, Reg.serveStatus]
    omega
  refine ⟨rdB_wrB_same _ _ _ _ (by decide), ?_, ?_, ?_, fun f => ⟨fun ht => ?_, fun ht => ?_⟩⟩
  · rw [wrB_serve, honly.serve, heq]
  · rw [wrB_tiles, honly.tiles, heq]
  · rw [wrB_page, honly.page, heq]
  · obtain ⟨hrs, hfs⟩ := (hstart f).1 ((htake f).trans ht)
    have hfs' : fieldState (wrB Reg.serveStatus 0 true z) f = pulsed w.dev.time (beatNs w) (fieldState w f) := by
      rw [fieldState_wrB, hfs, htime, hns, hfields f]
    rw [hfs']
    refine ⟨?_, rfl, rfl, rfl⟩
    rw [rdB, rd_wrB_ne _ _ _ (hroute f)]
    exact hrs
  · obtain ⟨hrs, hfs⟩ := (hstart f).2 ((htake f).trans ht)
    have hfs' : fieldState (wrB Reg.serveStatus 0 true z) f = fieldState w f := by
      rw [fieldState_wrB, hfs, hfields f]
    rw [hfs', rd_wrB_ne _ _ _ (hroute f), hrs, rd_of_bar0 hbar]
    exact ⟨rfl, rfl⟩

/-! ## WINDOW_PUBLISH -/

theorem rd_winShow_ne {off c : Nat} (x : WinCount) (w : W9) (h : off < 0x500080 + 0x10 * c ∨ 0x500090 + 0x10 * c ≤ off) :
    rd (winShow c x w) off = rd w off := by
  have h1 : off ≠ Reg.winTokens c ∧ off ≠ Reg.winLate c ∧ off ≠ Reg.winRefused c ∧ off ≠ Reg.winEnded c := by
    simp only [Reg.winTokens, Reg.winLate, Reg.winRefused, Reg.winEnded]
    omega
  rw [winShow, rd_wr_ne _ _ h1.2.2.2, rd_wr_ne _ _ h1.2.2.1, rd_wr_ne _ _ h1.2.1, rd_wr_ne _ _ h1.1]

theorem rd_winShow_same (c : Nat) (x : WinCount) (w : W9) : rd (winShow c x w) (Reg.winTokens c) = BitVec.ofNat 32 x.tokens ∧
    rd (winShow c x w) (Reg.winLate c) = BitVec.ofNat 32 x.late ∧ rd (winShow c x w) (Reg.winRefused c) = BitVec.ofNat 32 x.refused ∧
    rd (winShow c x w) (Reg.winEnded c) = BitVec.ofNat 32 x.ended := by
  have hlt : Reg.winTokens c < Reg.winLate c ∧ Reg.winLate c < Reg.winRefused c ∧ Reg.winRefused c < Reg.winEnded c := by
    simp only [Reg.winTokens, Reg.winLate, Reg.winRefused, Reg.winEnded]
    omega
  obtain ⟨htl, hlr, hre⟩ := hlt
  rw [winShow]
  refine ⟨?_, ?_, ?_, rd_wr_same _ _ _⟩
  · rw [rd_wr_ne _ _ (htl.trans (hlr.trans hre)).ne, rd_wr_ne _ _ (htl.trans hlr).ne, rd_wr_ne _ _ htl.ne, rd_wr_same]
  · rw [rd_wr_ne _ _ (hlr.trans hre).ne, rd_wr_ne _ _ hlr.ne, rd_wr_same]
  · rw [rd_wr_ne _ _ hre.ne, rd_wr_same]

/-- The counts of three windows in their registers, class by class. -/
def winsShown (cs : List WinCount) (w : W9) : W9 :=
  winShow 2 (cs.getD 2 WinCount.zero) (winShow 1 (cs.getD 1 WinCount.zero) (winShow 0 (cs.getD 0 WinCount.zero) w))

/-- A register of class `c` shows what was written of that class. -/
theorem rd_winsShown (cs : List WinCount) (w : W9) {c : Nat} (hc : c < 3) {off : Nat} (h1 : 0x500080 + 0x10 * c ≤ off) (h2 : off < 0x500090 + 0x10 * c) :
    ∃ u, rd (winsShown cs w) off = rd (winShow c (cs.getD c WinCount.zero) u) off := by
  unfold winsShown
  interval_cases c
  · exact ⟨w, by rw [rd_winShow_ne _ _ (by omega), rd_winShow_ne _ _ (by omega)]⟩
  · exact ⟨winShow 0 (cs.getD 0 WinCount.zero) w, by rw [rd_winShow_ne _ _ (by omega)]⟩
  · exact ⟨winShow 1 (cs.getD 1 WinCount.zero) (winShow 0 (cs.getD 0 WinCount.zero) w), rfl⟩

theorem winsShown_shows (cs : List WinCount) (w : W9) {c : Nat} (hc : c < 3) :
    rd (winsShown cs w) (Reg.winTokens c) = BitVec.ofNat 32 (cs.getD c WinCount.zero).tokens ∧
    rd (winsShown cs w) (Reg.winLate c) = BitVec.ofNat 32 (cs.getD c WinCount.zero).late ∧
    rd (winsShown cs w) (Reg.winRefused c) = BitVec.ofNat 32 (cs.getD c WinCount.zero).refused ∧
    rd (winsShown cs w) (Reg.winEnded c) = BitVec.ofNat 32 (cs.getD c WinCount.zero).ended := by
  have hin : ∀ off, 0x500080 + 0x10 * c ≤ off → off < 0x500090 + 0x10 * c → ∃ u, rd (winsShown cs w) off = rd (winShow c (cs.getD c WinCount.zero) u) off :=
    fun off h1 h2 => rd_winsShown cs w hc h1 h2
  obtain ⟨u1, e1⟩ := hin (Reg.winTokens c) (by simp only [Reg.winTokens]; omega) (by simp only [Reg.winTokens]; omega)
  obtain ⟨u2, e2⟩ := hin (Reg.winLate c) (by simp only [Reg.winLate]; omega) (by simp only [Reg.winLate]; omega)
  obtain ⟨u3, e3⟩ := hin (Reg.winRefused c) (by simp only [Reg.winRefused]; omega) (by simp only [Reg.winRefused]; omega)
  obtain ⟨u4, e4⟩ := hin (Reg.winEnded c) (by simp only [Reg.winEnded]; omega) (by simp only [Reg.winEnded]; omega)
  exact ⟨e1.trans (rd_winShow_same c _ u1).1, e2.trans (rd_winShow_same c _ u2).2.1, e3.trans (rd_winShow_same c _ u3).2.2.1,
    e4.trans (rd_winShow_same c _ u4).2.2.2⟩

/-- The serving state of the window that follows (R273). -/
def nextWindow (w : W9) : Serve :=
  { w.serve with
    wins := w.serve.closed, closed := [WinCount.zero, WinCount.zero, WinCount.zero], winStart := w.serve.winStart + w.serve.winLenNow
    winLenNow := (rd w Reg.winLen).toNat }

theorem winsShown_frame (cs : List WinCount) (w : W9) : (winsShown cs w).mem = w.mem ∧ (winsShown cs w).serve = w.serve := by
  simp only [winsShown, winShow, wr_mem, wr_serve, and_self]

theorem windowPublish_early {w : W9} (h : w.dev.time < w.serve.winStart + w.serve.winLenNow + 10000) : windowPublish w = w :=
  if_neg (Nat.not_le.mpr h)

theorem windowPublish_due {w : W9} (h : w.serve.winStart + w.serve.winLenNow + 10000 ≤ w.dev.time) :
    windowPublish w = wr64 Reg.winStart w.serve.winStart (winsShown w.serve.wins { w with serve := nextWindow w }) := if_pos h

/-- A published window: its counts class by class, its start, and the window that follows (R273). -/
theorem windowPublish_shows {w : W9} (h : w.serve.winStart + w.serve.winLenNow + 10000 ≤ w.dev.time) :
    (∀ c, c < 3 →
      rd (windowPublish w) (Reg.winTokens c) = BitVec.ofNat 32 (w.serve.wins.getD c WinCount.zero).tokens ∧
      rd (windowPublish w) (Reg.winLate c) = BitVec.ofNat 32 (w.serve.wins.getD c WinCount.zero).late ∧
      rd (windowPublish w) (Reg.winRefused c) = BitVec.ofNat 32 (w.serve.wins.getD c WinCount.zero).refused ∧
      rd (windowPublish w) (Reg.winEnded c) = BitVec.ofNat 32 (w.serve.wins.getD c WinCount.zero).ended) ∧
    rd64 (windowPublish w) Reg.winStart = w.serve.winStart % 2 ^ 64 ∧ (windowPublish w).mem = w.mem ∧ (windowPublish w).serve = nextWindow w := by
  rw [windowPublish_due h]
  obtain ⟨hmem, hserve⟩ := winsShown_frame w.serve.wins { w with serve := nextWindow w }
  have hshow := fun c hc => winsShown_shows w.serve.wins { w with serve := nextWindow w } (c := c) hc
  generalize winsShown w.serve.wins { w with serve := nextWindow w } = u at hmem hserve hshow
  refine ⟨fun c hc => ?_, rd64_wr64_same _ _ _, hmem, hserve⟩
  have hne : ∀ off, 0x500080 ≤ off → rd (wr64 Reg.winStart w.serve.winStart u) off = rd u off := fun off ho =>
    rd_wr64_ne _ _ (by simp only [Reg.winStart]; omega) (by simp only [Reg.winStart]; omega)
  rw [hne _ (by simp only [Reg.winTokens]; omega), hne _ (by simp only [Reg.winLate]; omega), hne _ (by simp only [Reg.winRefused]; omega),
    hne _ (by simp only [Reg.winEnded]; omega)]
  exact hshow c hc

/-- Settles O41: the idle boundary by `beatBoundary_passes`, the beat start by `beatStart_starts`, the window by `windowPublish_shows`. -/
theorem idleBeatsAndWindowsPass : Obligations.IdleBeatsAndWindowsPass := by
  unfold Obligations.IdleBeatsAndWindowsPass
  refine ⟨fun s b => ⟨fun hf => ?_, fun hf hst hpipe hsm hfl hp hrot hpark hrep hrun => ?_⟩, fun s => ⟨fun hi => ?_, fun hi hrun hwait href => ?_,
    fun h => exec_of_lift_same (f := windowPublish) rfl (windowPublish_early h), fun h => yields_of_lift windowPublish rfl (windowPublish_shows h)⟩⟩
  · exact exec_of_lift_same (f := beatBoundary b) rfl (if_neg (by rw [hf]; decide))
  · exact yields_of_lift (beatBoundary b) rfl (beatBoundary_passes hf ⟨hst, hpipe, hsm, hfl, hp, hrot, hpark, hrep, hrun⟩)
  · exact exec_of_lift_same (f := beatStart) rfl (if_neg (by rw [hi]; decide))
  · exact yields_of_lift beatStart rfl (beatStart_starts hi ⟨hrun, hwait⟩ href)

end Sys2Proof.Machine
end

section
/-! SUPPORT. What writes and reads of far memory depend on and leave alone (R285, R294, R299), and what messages on the edge ports add to the
replay buffers (R396, R401). -/

namespace Sys2Proof.Machine

open Sys2Proof

/-! ## The stripe set -/

theorem stripeStacks_of_rd {w w' : W9} (h : rd w' Reg.stripeSet = rd w Reg.stripeSet) (h4 : rd w' (Reg.stripeSet + 4) = rd w (Reg.stripeSet + 4)) :
    stripeStacks w' = stripeStacks w := by
  refine List.filter_congr fun f hf => ?_
  have hf48 : f < 48 := List.mem_range.mp hf
  obtain h0 | h1 : f / 32 = 0 ∨ f / 32 = 1 := by omega
  · simp [rdB64, rdB, h0, h]
  · simp [rdB64, rdB, h1, h4]

theorem stripeStacks_of_bar0 {w w' : W9} (h : w'.bar0 = w.bar0) : stripeStacks w' = stripeStacks w :=
  stripeStacks_of_rd (rd_of_bar0 h _) (rd_of_bar0 h _)

theorem farDecode_of {w w' : W9} (h : stripeStacks w' = stripeStacks w) (a : Nat) : farDecode w' a = farDecode w a := by
  rw [farDecode, h, farDecode]

theorem farQuarters_of {w w' : W9} (h : stripeStacks w' = stripeStacks w) (a n : Nat) : farQuarters w' a n = farQuarters w a n := by
  simp only [farQuarters, farDecode_of h]

/-! ## Bytes written -/

/-- A write of far memory changes the memories alone. -/
theorem putFars_mem_only : ∀ (bs : List Byte) (a : Nat) (w : W9), ∃ m, putFars a bs w = { w with mem := m }
  | [], _, w => ⟨w.mem, rfl⟩
  | b :: bs, a, w => by
    obtain ⟨m, hm⟩ : ∃ m, putFar a b w = { w with mem := m } := by
      unfold putFar
      split
      · exact ⟨_, rfl⟩
      · exact ⟨w.mem, rfl⟩
    obtain ⟨m', hm'⟩ := putFars_mem_only bs (a + 1) (putFar a b w)
    exact ⟨m', by rw [putFars, hm', hm]⟩

theorem writeFar_eq (a : Nat) (bs : List Byte) (w : W9) : writeFar a bs w = { w with mem := (writeFar a bs w).mem } := by
  obtain ⟨m, hm⟩ := putFars_mem_only bs a w
  rw [writeFar, hm]
  rfl

@[simp] theorem writeFar_bar0 (a : Nat) (bs : List Byte) (w : W9) : (writeFar a bs w).bar0 = w.bar0 := by rw [writeFar_eq]
@[simp] theorem writeFar_ports (a : Nat) (bs : List Byte) (w : W9) : (writeFar a bs w).ports = w.ports := by rw [writeFar_eq]
@[simp] theorem rd_writeFar (a : Nat) (bs : List Byte) (w : W9) (off : Nat) : rd (writeFar a bs w) off = rd w off :=
  rd_of_bar0 (writeFar_bar0 a bs w) off
@[simp] theorem writeFar_wt (a : Nat) (bs : List Byte) (w : W9) : (writeFar a bs w).wt = w.wt := by rw [writeFar_eq]
@[simp] theorem writeFar_tiles (a : Nat) (bs : List Byte) (w : W9) : (writeFar a bs w).tiles = w.tiles := by rw [writeFar_eq]
@[simp] theorem writeFar_gws (a : Nat) (bs : List Byte) (w : W9) : (writeFar a bs w).gws = w.gws := by rw [writeFar_eq]

theorem putFars_mem_of : ∀ (bs : List Byte) (a : Nat) {w w' : W9}, w'.mem = w.mem → stripeStacks w' = stripeStacks w →
    (putFars a bs w').mem = (putFars a bs w).mem
  | [], _, _, _, hm, _ => hm
  | b :: bs, a, w, w', hm, hs => by
    have hstripe : ∀ u : W9, stripeStacks (putFar a b u) = stripeStacks u := fun u => by
      unfold putFar
      split
      · exact stripeStacks_of_bar0 rfl
      · rfl
    have hmem : (putFar a b w').mem = (putFar a b w).mem := by
      unfold putFar
      rw [farDecode_of hs, hm]
      split
      · rfl
      · exact hm
    exact putFars_mem_of bs (a + 1) hmem ((hstripe w').trans (hs.trans (hstripe w).symm))

/-- What a write leaves in far memory rests on the memories and the stripe set. -/
theorem writeFar_mem_of {w w' : W9} (hm : w'.mem = w.mem) (hs : stripeStacks w' = stripeStacks w) (a : Nat) (bs : List Byte) :
    (writeFar a bs w').mem = (writeFar a bs w).mem := by
  simp only [writeFar, clearFarErrors, putFars_mem_of bs a hm hs, farQuarters_of hs]

/-! ## Bytes read -/

theorem farRead_of {w w' : W9} (hm : w'.mem = w.mem) (hs : stripeStacks w' = stripeStacks w) (a n : Nat) : farRead w' a n = farRead w a n := by
  simp only [farRead, hm, hs]

/-- A far memory without flags is read without effects (R294). -/
theorem farReadEffects_clean (qs : List Nat) {w : W9} (hu : w.mem.farUE = []) (hc : ∀ q, farHasCE w q = false) : farReadEffects qs w = w := by
  refine forEach_keeps (· = w) _ (fun q y hy => ?_) _ _ rfl
  subst hy
  simp [hu, hc]

/-! ## Messages -/

theorem sendMsg_wire (p : PortIx) (m : Msg) (w : W9) : OnlyWire w (sendMsg p m w) := sendMsgAt_wire _ p m w

theorem portOf_sendMsg_same (p : PortIx) (m : Msg) (w : W9) : portOf (sendMsg p m w) p = { portOf w p with
    replay := (portOf w p).replay ++ [⟨(portOf w p).seqTx, m, now w, now w, 0⟩], seqTx := (portOf w p).seqTx + 1,
    txData := (portOf w p).txData + BitVec.ofNat 16 (dataFlits m) } := by
  simp only [sendMsg, sendMsgAt, portOf_inc, portOf_modPort_same]

theorem portOf_sendMsg_ne {p q : PortIx} (m : Msg) (w : W9) (h : q ≠ p) : portOf (sendMsg p m w) q = portOf w q := by
  simp only [sendMsg, sendMsgAt, portOf_inc, portOf_modPort_ne _ _ h]

end Sys2Proof.Machine
end

section
/-! SUPPORT. Loads, verifications and Mule data (R299 to R305). -/

namespace Sys2Proof.Machine

open Sys2Proof

/-! ## LOAD_STATUS and LOAD_DONE_BYTES -/

theorem loadState_of_rd {w w' : W9} (h : rd w' Reg.loadStatus = rd w Reg.loadStatus) : loadState w' = loadState w := by
  simp only [loadState, rdF, h]

theorem muleRole_of_rd {w w' : W9} (h : rd w' Reg.muleCtrl = rd w Reg.muleCtrl) : muleRole w' = muleRole w := by
  simp only [muleRole, rdF, h]

theorem loadState_setLoad {st : Nat} (r : Nat) (w : W9) (h : st < 8) : loadState (setLoad st r w) = st := by
  rw [loadState, setLoad, rdF_wrF_ne _ _ _ _ _ _ _ (by decide) (by decide) (by decide), rdF_wrF_same _ _ _ _ _ (by decide) (by decide)]
  exact Nat.mod_eq_of_lt h

theorem loadReason_setLoad (st : Nat) {r : Nat} (w : W9) (h : r < 256) : rdF (setLoad st r w) Reg.loadStatus 15 8 = r := by
  rw [setLoad, rdF_wrF_same _ _ _ _ _ (by decide) (by decide)]
  exact Nat.mod_eq_of_lt h

theorem rd_setLoad_ne {off : Nat} (st r : Nat) (w : W9) (h : off ≠ Reg.loadStatus) : rd (setLoad st r w) off = rd w off := by
  rw [setLoad, rd_wrF_ne _ _ _ _ h, rd_wrF_ne _ _ _ _ h]

theorem rd64_of_rd {w w' : W9} {off : Nat} (h : rd w' off = rd w off) (h4 : rd w' (off + 4) = rd w (off + 4)) : rd64 w' off = rd64 w off := by
  simp only [rd64, h, h4]

theorem rd64_addDone (n : Nat) (w : W9) : rd64 (addDone n w) Reg.loadDoneBytes = (rd64 w Reg.loadDoneBytes + n) % 2 ^ 64 := rd64_wr64_same _ _ _

theorem rd_addDone_ne {off : Nat} (n : Nat) (w : W9) (h : off ≠ Reg.loadDoneBytes) (h4 : off ≠ Reg.loadDoneBytes + 4) :
    rd (addDone n w) off = rd w off := rd_wr64_ne _ _ h h4

@[simp] theorem addDone_wt (n : Nat) (w : W9) : (addDone n w).wt = w.wt := rfl
@[simp] theorem addDone_mem (n : Nat) (w : W9) : (addDone n w).mem = w.mem := rfl
@[simp] theorem addDone_ports (n : Nat) (w : W9) : (addDone n w).ports = w.ports := rfl

@[simp] theorem putLoad_load (o : LoadOp) (w : W9) : (putLoad o w).wt.load = some o := rfl
@[simp] theorem putLoad_mem (o : LoadOp) (w : W9) : (putLoad o w).mem = w.mem := rfl
@[simp] theorem rd_putLoad (o : LoadOp) (w : W9) (off : Nat) : rd (putLoad o w) off = rd w off := rfl
@[simp] theorem portOf_putLoad (o : LoadOp) (w : W9) (p : PortIx) : portOf (putLoad o w) p = portOf w p := rfl

/-! ## Bytes of a set that land (R299, R303) -/

theorem rd_touchVerified {off : Nat} (a n : Nat) (w : W9) (h : off ≠ Reg.loadVerified) (h4 : off ≠ Reg.loadVerified + 4) :
    rd (touchVerified a n w) off = rd w off := by
  unfold touchVerified
  split
  · split
    · exact rd_wr64_ne _ _ h h4
    · rfl
  · rfl

@[simp] theorem touchVerified_mem (a n : Nat) (w : W9) : (touchVerified a n w).mem = w.mem := by
  unfold touchVerified
  split
  · split <;> simp
  · rfl

@[simp] theorem touchVerified_load (a n : Nat) (w : W9) : (touchVerified a n w).wt.load = w.wt.load := by
  unfold touchVerified
  split
  · split <;> simp
  · rfl

@[simp] theorem touchVerified_ports (a n : Nat) (w : W9) : (touchVerified a n w).ports = w.ports := by
  unfold touchVerified
  split
  · split <;> simp
  · rfl

theorem stripeStacks_touchVerified (a n : Nat) (w : W9) : stripeStacks (touchVerified a n w) = stripeStacks w :=
  stripeStacks_of_rd (rd_touchVerified _ _ _ (by decide) (by decide)) (rd_touchVerified _ _ _ (by decide) (by decide))

theorem writeFar_touchVerified_mem (a : Nat) (bs : List Byte) (n : Nat) (w : W9) :
    (writeFar a bs (touchVerified a n w)).mem = (writeFar a bs w).mem :=
  writeFar_mem_of (touchVerified_mem a n w) (stripeStacks_touchVerified a n w) a bs

theorem sendMule_wire (p : PortIx) (a n : Nat) (w : W9) : OnlyWire w (sendMule p a n w) :=
  forEach_wire _ (fun _ _ => (modPort_wire _ _ _).trans (sendMsg_wire _ _ _)) _ _

theorem landSet_wire (a : Nat) (bs : List Byte) (w : W9) : OnlyWire (touchVerified a bs.length w) (landSet a bs w) := by
  unfold landSet
  refine (writeFar_wire a bs _).trans ?_
  dsimp only
  split
  · exact forEach_wire _ (fun _ _ => sendMule_wire _ _ _ _) _ _
  · exact .refl _

theorem landSet_load (a : Nat) (bs : List Byte) (w : W9) : (landSet a bs w).wt.load = w.wt.load := by
  rw [(landSet_wire a bs w).wt, touchVerified_load]

theorem rd_landSet {off : Nat} (a : Nat) (bs : List Byte) (w : W9) (h : off < 0x2000000) (hv : off ≠ Reg.loadVerified)
    (hv4 : off ≠ Reg.loadVerified + 4) : rd (landSet a bs w) off = rd w off :=
  ((landSet_wire a bs w).rd_low h).trans (rd_touchVerified _ _ _ hv hv4)

/-- A W9 that is no Mule source sends nothing on. -/
theorem landSet_alone {a : Nat} {bs : List Byte} {w : W9} (h : muleRole w ≠ 1) : landSet a bs w = writeFar a bs (touchVerified a bs.length w) := by
  have hrole : muleRole (writeFar a bs (touchVerified a bs.length w)) ≠ 1 := by
    rwa [muleRole_of_rd ((rd_writeFar _ _ _ _).trans (rd_touchVerified _ _ _ (by decide) (by decide)))]
  exact if_neg hrole

/-! ## Commands that are rejected, and operations that fail -/

theorem loadReject_rejects (w : W9) : rdB (loadReject w) Reg.loadStatus 16 = true ∧ (loadReject w).wt = w.wt ∧ (loadReject w).mem = w.mem ∧
    loadState (loadReject w) = loadState w := by
  refine ⟨?_, by simp [loadReject], by simp [loadReject], ?_⟩
  · exact ((raise0_step _ _ _ _).rdB _ _ (by decide) (by decide)).trans (rdB_wrB_same _ _ _ _ (by decide))
  · exact (rdF_ev (raise0_step _ _ _ _) _ _ _ (by decide) (by decide)).trans (rdF_wrF_ne _ _ _ _ _ _ _ (by decide) (by decide) (by decide))

/-- The end of an operation that fails with a reason. -/
def LoadFailed (r : Nat) (w w' : W9) : Prop :=
  loadState w' = 4 ∧ rdF w' Reg.loadStatus 15 8 = r ∧ w'.wt.load = none ∧ w'.mem = w.mem

/-- An operation of a W9 that is no Mule source fails without a word to anyone. -/
theorem loadFails_alone {r : Nat} {w : W9} (hr : r < 256) (h : muleRole w ≠ 1) : LoadFailed r w (loadFails r w) := by
  have hown : (loadState w == 1 && muleRole w == 1) = false := by simp [h]
  simp only [loadFails, hown, Bool.false_eq_true, if_false]
  refine ⟨?_, ?_, by simp [setLoad], by simp [setLoad]⟩
  · exact (rdF_ev (raise0_step _ _ _ _) _ _ _ (by decide) (by decide)).trans (loadState_setLoad _ _ (by decide))
  · exact (rdF_ev (raise0_step _ _ _ _) _ _ _ (by decide) (by decide)).trans (loadReason_setLoad _ _ hr)

/-! ## LOAD_CMD (R300 to R302) -/

section
variable {w : W9}

theorem setLoadCmd_closed {bs : List Byte} (h : cmdOpen w = false) : setLoadCmd bs w = w := by simp [setLoadCmd, h]
theorem verify_closed (h : cmdOpen w = false) : verify w = w := by simp [verify, h]
theorem loadAbort_closed (h : cmdOpen w = false) : loadAbort w = w := by simp [loadAbort, h]

variable (hopen : cmdOpen w = true)
include hopen

theorem setLoadCmd_busy {bs : List Byte} (h : loadBusy w = true) : setLoadCmd bs w = loadReject w := by simp [setLoadCmd, hopen, h]
theorem verify_busy (h : loadBusy w = true) : verify w = loadReject w := by simp [verify, hopen, h]
theorem loadAbort_busy (h : loadBusy w = true) : loadAbort w = loadFails 4 w := by simp [loadAbort, hopen, h]
theorem loadAbort_idle (h : loadBusy w = false) : loadAbort w = loadReject w := by simp [loadAbort, hopen, h]

theorem setLoadCmd_bad {bs : List Byte} (h : loadBusy w = false)
    (hbad : (headerBad w (parseSet bs) || rangeBad w (rd64 w Reg.loadDst) (parseSet bs).totalLen) = true) :
    setLoadCmd bs w = beginLoad 1 (parseSet bs) (muleRole w == 2) true w := by
  simp only [setLoadCmd, hopen, h, hbad, Bool.not_true, Bool.false_eq_true, if_false, if_true]

theorem setLoadCmd_good {bs : List Byte} (h : loadBusy w = false)
    (hgood : (headerBad w (parseSet bs) || rangeBad w (rd64 w Reg.loadDst) (parseSet bs).totalLen) = false) :
    setLoadCmd bs w = addDone (min (headerLen (parseSet bs).entries) (bs.take (parseSet bs).totalLen).length)
      (if muleRole w == 2 then beginLoad 1 (parseSet bs) (muleRole w == 2) false w
        else landSet (rd64 w Reg.loadDst) (bs.take (parseSet bs).totalLen) (beginLoad 1 (parseSet bs) (muleRole w == 2) false w)) := by
  simp only [setLoadCmd, hopen, h, hgood, Bool.not_true, Bool.false_eq_true, if_false]

theorem verify_idle (h : loadBusy w = false) (hu : w.mem.farUE = []) (hc : ∀ q, farHasCE w q = false) {set : SetHeader}
    (hset : farSet w (rd64 w Reg.loadDst) = set) : verify w = if headerBad w set then beginLoad 2 set false true w
      else addDone (headerLen set.entries) (beginLoad 2 set false false w) := by
  simp only [verify, hopen, h, farSetEffects_clean _ _ hu hc, hset, Bool.not_true, Bool.false_eq_true, if_false]
  cases headerBad w set <;> rfl

end

/-- The operation that begins. -/
def begunOp (h : SetHeader) (receive bad : Bool) (w : W9) : LoadOp :=
  ⟨h, BitVec.ofNat 64 (rd64 w Reg.loadDst), 0, 0, receive, none, if bad then some 1 else none⟩

theorem beginLoad_begins {st : Nat} (h : SetHeader) (receive bad : Bool) (w : W9) (hst : st < 8) : let w' := beginLoad st h receive bad w
    loadState w' = st ∧ w'.wt = { w.wt with load := some (begunOp h receive bad w) } ∧ rd64 w' Reg.loadDoneBytes = 0 ∧ w'.mem = w.mem ∧
    w'.ports = w.ports := by
  refine ⟨?_, rfl, rd64_wr64_same _ _ _, rfl, rfl⟩
  exact (loadState_of_rd (rd_wr64_ne _ _ (by decide) (by decide))).trans (loadState_setLoad _ _ hst)

theorem rd_beginLoad {st off : Nat} (h : SetHeader) (receive bad : Bool) (w : W9) (hs : off ≠ Reg.loadStatus) (hd : off ≠ Reg.loadDoneBytes)
    (hd4 : off ≠ Reg.loadDoneBytes + 4) : rd (beginLoad st h receive bad w) off = rd w off :=
  (rd_wr64_ne _ _ hd hd4).trans (rd_setLoad_ne _ _ _ hs)

theorem headerLen_le (n : Nat) : headerLen n ≤ 32832 := by
  unfold headerLen
  omega

/-- A LOAD of a set that is accepted. -/
theorem setLoadCmd_loads {w : W9} {bs : List Byte} (hopen : cmdOpen w = true) (hidle : loadBusy w = false)
    (hgood : (headerBad w (parseSet bs) || rangeBad w (rd64 w Reg.loadDst) (parseSet bs).totalLen) = false) : let w' := setLoadCmd bs w
    let a := rd64 w Reg.loadDst
    loadState w' = 1 ∧ w'.wt.load = some (begunOp (parseSet bs) (muleRole w == 2) false w) ∧
    rd64 w' Reg.loadDoneBytes = min (headerLen (parseSet bs).entries) (min (parseSet bs).totalLen bs.length) ∧
    (muleRole w = 2 → w'.mem = w.mem) ∧
    (muleRole w ≠ 1 → muleRole w ≠ 2 → w'.mem = (writeFar a (bs.take (parseSet bs).totalLen) w).mem ∧ w'.ports = w.ports) := by
  intro w' a
  have heq : w' = _ := setLoadCmd_good hopen hidle hgood
  obtain ⟨hstate, hwt, hdone, hmem, hports⟩ := beginLoad_begins (st := 1) (parseSet bs) (muleRole w == 2) false w (by decide)
  have hrd : ∀ off, off ≠ Reg.loadStatus → off ≠ Reg.loadDoneBytes → off ≠ Reg.loadDoneBytes + 4 →
      rd (beginLoad 1 (parseSet bs) (muleRole w == 2) false w) off = rd w off := fun off => rd_beginLoad _ _ _ _
  generalize beginLoad 1 (parseSet bs) (muleRole w == 2) false w = v at *
  have hlen := headerLen_le (parseSet bs).entries
  have hsum : (0 + min (headerLen (parseSet bs).entries) (bs.take (parseSet bs).totalLen).length) % 2 ^ 64 =
      min (headerLen (parseSet bs).entries) (min (parseSet bs).totalLen bs.length) := by
    rw [List.length_take]
    omega
  rw [heq]
  by_cases hrole : muleRole w = 2
  · simp only [hrole, beq_self_eq_true, if_true, rd64_addDone, hdone, hsum, addDone_wt, addDone_mem]
    refine ⟨(loadState_of_rd (rd_addDone_ne _ _ (by decide) (by decide))).trans hstate, ?_, trivial, fun _ => hmem, fun _ h => absurd rfl h⟩
    rw [hwt, hrole]
    rfl
  · have hbeq : (muleRole w == 2) = false := beq_false_of_ne hrole
    have hland : ∀ {off}, off < 0x2000000 → off ≠ Reg.loadVerified → off ≠ Reg.loadVerified + 4 → _ :=
      fun h hv hv4 => rd_landSet a (bs.take (parseSet bs).totalLen) v h hv hv4
    simp only [hbeq, Bool.false_eq_true, if_false, rd64_addDone, addDone_wt, addDone_mem, addDone_ports, landSet_load]
    refine ⟨?_, ?_, ?_, fun h => absurd h hrole, fun h1 _ => ?_⟩
    · rw [loadState_of_rd (rd_addDone_ne _ _ (by decide) (by decide)), loadState_of_rd (hland (by decide) (by decide) (by decide)), hstate]
    · rw [hwt, hbeq]
    · rw [rd64_of_rd (hland (by decide) (by decide) (by decide)) (hland (by decide) (by decide) (by decide)), hdone, hsum]
    · have hv1 : muleRole v ≠ 1 := by rwa [muleRole_of_rd (hrd _ (by decide) (by decide) (by decide))]
      have hstripe : stripeStacks v = stripeStacks w :=
        stripeStacks_of_rd (hrd _ (by decide) (by decide) (by decide)) (hrd _ (by decide) (by decide) (by decide))
      rw [landSet_alone hv1, writeFar_touchVerified_mem, writeFar_mem_of hmem hstripe, writeFar_ports, touchVerified_ports, hports]
      exact ⟨rfl, rfl⟩

/-- A VERIFY reads the header, and writes nothing. -/
theorem verify_verifies {w : W9} (hopen : cmdOpen w = true) (hidle : loadBusy w = false) (hu : w.mem.farUE = []) (hc : ∀ q, farHasCE w q = false) :
    let w' := verify w
    let h := farSet w (rd64 w Reg.loadDst)
    loadState w' = 2 ∧ w'.mem = w.mem ∧ ∃ o, w'.wt.load = some o ∧ o.header = h ∧ o.next = 0 ∧ o.receive = false ∧
      o.result = (if headerBad w h then some 1 else none) ∧ rd64 w' Reg.loadDoneBytes = if headerBad w h then 0 else headerLen h.entries := by
  intro w' h
  have heq : w' = _ := verify_idle hopen hidle hu hc (set := h) rfl
  rw [heq]
  clear_value h
  cases hbad : headerBad w h
  · obtain ⟨hstate, hwt, hdone, hmem, -⟩ := beginLoad_begins (st := 2) h false false w (by decide)
    simp only [Bool.false_eq_true, if_false]
    rw [addDone_mem, addDone_wt, rd64_addDone, hdone]
    refine ⟨(loadState_of_rd (rd_addDone_ne _ _ (by decide) (by decide))).trans hstate, hmem, begunOp h false false w, congrArg WeightS.load hwt, rfl,
      rfl, rfl, rfl, ?_⟩
    rw [Nat.zero_add]
    exact Nat.mod_eq_of_lt ((headerLen_le _).trans_lt (by decide))
  · obtain ⟨hstate, hwt, hdone, hmem, -⟩ := beginLoad_begins (st := 2) h false true w (by decide)
    exact ⟨hstate, hmem, begunOp h false true w, congrArg WeightS.load hwt, rfl, rfl, rfl, rfl, hdone⟩

/-! ## LAYER_DIGEST_CHECK (R301, R304) -/

/-- The load engine hashes what the host has given it. -/
def ownBytes (o : LoadOp) (w : W9) : Bool := loadState w == 1 && !o.receive

/-- The bytes of a layer that the load engine hashes. -/
def hashedBytes (data : List Byte) (o : LoadOp) (e : ManifestEntry) (w : W9) : List Byte :=
  if ownBytes o w then data.take e.length else farRead w (o.dst.toNat + e.offset) e.length

/-- The W9 in which the layer's bytes have been taken. -/
def layerTaken (data : List Byte) (o : LoadOp) (e : ManifestEntry) (w : W9) : W9 :=
  if ownBytes o w then landSet (o.dst.toNat + e.offset) (data.take (o.header.totalLen - e.offset)) w else w

theorem layerDigest_none {data : List Byte} {w : W9} (h : w.wt.load = none) : layerDigest data w = w := by simp only [layerDigest, h]

theorem layerDigest_over {data : List Byte} {w : W9} {o : LoadOp} (hload : w.wt.load = some o)
    (h : o.result.isSome = true ∨ o.header.manifest[o.next]? = none) : layerDigest data w = w := by
  simp only [layerDigest, hload]
  split
  · rename_i e hr he
    rcases h with h | h
    · simp [hr] at h
    · simp [h] at he
  · rfl

section
variable {data : List Byte} {w : W9} {o : LoadOp} {e : ManifestEntry} (hload : w.wt.load = some o) (hres : o.result = none)
  (hlayer : o.header.manifest[o.next]? = some e) (hu : w.mem.farUE = []) (hc : ∀ q, farHasCE w q = false)
include hload hres hlayer hu hc

theorem layerDigest_matches (hm : sha256 (hashedBytes data o e w) = e.digest) :
    layerDigest data w = addDone e.length (putLoad { o with next := o.next + 1, attempt := 0 } (layerTaken data o e w)) := by
  simp only [layerDigest, hload, hres, hlayer, farReadEffects_clean _ hu hc]
  exact if_pos hm

theorem layerDigest_mismatches (hm : ¬ sha256 (hashedBytes data o e w) = e.digest) :
    layerDigest data w = digestBad o e (layerTaken data o e w) := by
  simp only [layerDigest, hload, hres, hlayer, farReadEffects_clean _ hu hc]
  exact if_neg hm

end

theorem rd_layerTaken {off : Nat} (data : List Byte) (o : LoadOp) (e : ManifestEntry) (w : W9) (h : off < 0x2000000) (hv : off ≠ Reg.loadVerified)
    (hv4 : off ≠ Reg.loadVerified + 4) : rd (layerTaken data o e w) off = rd w off := by
  unfold layerTaken
  split
  · exact rd_landSet _ _ _ h hv hv4
  · rfl

theorem rd64_layerTaken_done (data : List Byte) (o : LoadOp) (e : ManifestEntry) (w : W9) :
    rd64 (layerTaken data o e w) Reg.loadDoneBytes = rd64 w Reg.loadDoneBytes :=
  rd64_of_rd (rd_layerTaken _ _ _ _ (by decide) (by decide) (by decide)) (rd_layerTaken _ _ _ _ (by decide) (by decide) (by decide))

theorem layerTaken_receiver (data : List Byte) {o : LoadOp} (e : ManifestEntry) (w : W9) (h : o.receive = true) : layerTaken data o e w = w := by
  simp [layerTaken, ownBytes, h]

/-- An own operation has its result at the first digest that does not match. -/
theorem digestBad_own {o : LoadOp} (e : ManifestEntry) (w : W9) (h : o.receive = false) :
    (digestBad o e w).wt.load = some { o with result := some 2 } ∧ rd64 (digestBad o e w) Reg.loadDoneBytes = rd64 w Reg.loadDoneBytes := by
  simp only [digestBad, h, Bool.not_false, if_true]
  exact ⟨rfl, (rd64_of_bar0 rfl _).trans (rd64_ev (raise0_step _ _ _ _) _ (by decide) (by decide) (by decide) (by decide))⟩

/-- The last copy of a layer that a receiver takes. -/
theorem digestBad_last {o : LoadOp} (e : ManifestEntry) (w : W9) (h : o.receive = true) (hn : 3 ≤ o.attempt) :
    (digestBad o e w).wt.load = some { o with attempt := o.attempt + 1, result := some 5 } ∧ (digestBad o e w).ports = w.ports := by
  have h4 : 4 ≤ o.attempt + 1 := by omega
  simp only [digestBad, h, Bool.not_true, Bool.false_eq_true, if_false, h4, if_true]
  exact ⟨rfl, (raise0_step _ _ _ _).ports⟩

/-- What a receiver notes before it asks for a layer again. -/
def resendNoted (o : LoadOp) (e : ManifestEntry) (w : W9) : W9 :=
  inc Reg.muleResends 1 (putLoad { o with attempt := o.attempt + 1 } (raise0 0x6011 srcSteward (le 2 e.layer ++ [BitVec.ofNat 8 (o.attempt + 1)]) w))

section
variable {o : LoadOp} (e : ManifestEntry) (w : W9) (h : o.receive = true) (hn : o.attempt < 3)
include h hn

theorem digestBad_lost (hs : o.source = none) : digestBad o e w = resendNoted o e w := by
  have h4 : ¬ 4 ≤ o.attempt + 1 := by omega
  simp only [digestBad, h, Bool.not_true, Bool.false_eq_true, if_false, h4, hs, resendNoted]

theorem digestBad_again {p : PortIx} {d : BitVec 16} (hs : o.source = some (p, d)) : digestBad o e w =
    sendMsg p (.muleResend (o.attempt + 1) (Fin.ofNat 256 e.layer) d (deviceAddr (resendNoted o e w))) (resendNoted o e w) := by
  have h4 : ¬ 4 ≤ o.attempt + 1 := by omega
  simp only [digestBad, h, Bool.not_true, Bool.false_eq_true, if_false, h4, hs, resendNoted]

end

theorem rd_resendNoted {off : Nat} (o : LoadOp) (e : ManifestEntry) (w : W9) (h : off ≠ Reg.muleResends) (h1 : off ≠ Reg.evtLost)
    (h2 : off ≠ Reg.hostifErr) : rd (resendNoted o e w) off = rd w off :=
  (rd_inc_ne _ _ h).trans ((raise0_step _ _ _ _).regs _ h1 h2)

theorem resendNoted_notes (o : LoadOp) (e : ManifestEntry) (w : W9) : (resendNoted o e w).wt.load = some { o with attempt := o.attempt + 1 } ∧
    rd (resendNoted o e w) Reg.muleResends = satAdd32 (rd w Reg.muleResends) 1 ∧ (resendNoted o e w).mem = w.mem ∧
    (∀ p, portOf (resendNoted o e w) p = portOf w p) ∧ deviceAddr (resendNoted o e w) = deviceAddr w := by
  refine ⟨by rw [resendNoted, inc_wt, putLoad_load], ?_, by rw [resendNoted, inc_mem, putLoad_mem, (raise0_step _ _ _ _).mem],
    fun p => ?_, ?_⟩
  · rw [resendNoted, rd_inc_same, rd_putLoad, (raise0_step _ _ _ _).regs _ (by decide) (by decide)]
  · rw [resendNoted, portOf_inc, portOf_putLoad, portOf_raise0]
  · simp only [deviceAddr, rdF, rd_resendNoted o e w (off := Reg.deviceAddr) (by decide) (by decide) (by decide)]

/-- A receiver asks its source for the layer again. -/
theorem digestBad_asks {o : LoadOp} (e : ManifestEntry) (w : W9) (h : o.receive = true) (hn : o.attempt < 3) : let w' := digestBad o e w
    w'.wt.load = some { o with attempt := o.attempt + 1 } ∧ rd w' Reg.muleResends = satAdd32 (rd w Reg.muleResends) 1 ∧ w'.mem = w.mem ∧
    ∀ p d, o.source = some (p, d) → ∃ m, (portOf w' p).replay = (portOf w p).replay ++ [m] ∧
      m.msg = .muleResend (o.attempt + 1) (Fin.ofNat 256 e.layer) d (deviceAddr w) := by
  obtain ⟨hwt, hcount, hmem, hport, haddr⟩ := resendNoted_notes o e w
  rcases hsrc : o.source with - | ⟨q, d'⟩
  · rw [digestBad_lost e w h hn hsrc, ← hsrc]
    exact ⟨hwt, hcount, hmem, fun p d hp => by simp [hsrc] at hp⟩
  · rw [digestBad_again e w h hn hsrc, ← hsrc]
    generalize resendNoted o e w = v at *
    refine ⟨hwt, ?_, hmem, fun p d hp => ?_⟩
    · exact ((sendMsg_wire q _ v).rd_low (by decide)).trans hcount
    · obtain ⟨rfl, rfl⟩ : q = p ∧ d' = d := by simpa [hsrc] using hp
      exact ⟨_, by rw [portOf_sendMsg_same, hport], by rw [haddr]⟩

/-! ## LOAD_ENGINE_DONE (R301) -/

theorem loadDone_none {b : Bool} {w : W9} (h : w.wt.load = none) : loadDone b w = w := by simp only [loadDone, h]

section
variable {b : Bool} {w : W9} {o : LoadOp} (hload : w.wt.load = some o)
include hload

theorem loadDone_result {r : Fin 7} (h : o.result = some r) : loadDone b w = loadFails r.val w := by simp only [loadDone, hload, h]

variable (hres : o.result = none)
include hres

theorem loadDone_hostError (hb : b = true ∧ loadState w = 1 ∧ o.receive = false) : loadDone b w = loadFails 3 w := by
  obtain ⟨rfl, h1, h2⟩ := hb
  simp [loadDone, hload, hres, h1, h2]

theorem loadDone_goesOn (hb : ¬(b = true ∧ loadState w = 1 ∧ o.receive = false)) (h : o.next < o.header.entries) : loadDone b w = w := by
  have hb' : ¬(b = true ∧ loadState w = 1 ∧ (!o.receive) = true) := by simpa using hb
  simp only [loadDone, hload, hres]
  rw [if_neg hb', if_neg (by omega)]

theorem loadDone_succeeds (hb : ¬(b = true ∧ loadState w = 1 ∧ o.receive = false)) (h : o.header.entries ≤ o.next) : let w' := loadDone b w
    w'.wt.load = none ∧ w'.wt.verified = some (o.dst, o.header) ∧ loadState w' = 3 ∧ rd64 w' Reg.loadVerified = o.dst.toNat ∧ w'.mem = w.mem := by
  have hb' : ¬(b = true ∧ loadState w = 1 ∧ (!o.receive) = true) := by simpa using hb
  simp only [loadDone, hload, hres]
  rw [if_neg hb', if_pos h]
  refine ⟨by simp [setLoad], by simp [setLoad], ?_, ?_, by simp [setLoad]⟩
  · exact (loadState_of_rd (((raise0_step _ _ _ _).regs _ (by decide) (by decide)).trans (rd_wr64_ne _ _ (by decide) (by decide)))).trans
      (loadState_setLoad _ _ (by decide))
  · exact (rd64_ev (raise0_step _ _ _ _) _ (by decide) (by decide) (by decide) (by decide)).trans
      ((rd64_wr64_same _ _ _).trans (Nat.mod_eq_of_lt o.dst.isLt))

end

/-! ## Mule data (R304, R400, R483) -/

theorem dropTransfer_events (p : PortIx) (op src addr : Nat) (w : W9) : OnlyEvents (inc (Reg.rxDrops p.val) 1 w) (dropTransfer p op src addr w) :=
  raise0_step _ _ _ _

theorem muleData_waits {p : PortIx} {src : BitVec 16} {a : FAddr} {bs : List Byte} {w : W9} (h : portUp w p = false ∨ inHold w = true) :
    muleData p src a bs w = w := by
  rcases h with h | h <;> simp [muleData, h]

section
variable {p : PortIx} {src : BitVec 16} {a : FAddr} {bs : List Byte} {w : W9} (hup : portUp w p = true) (hhold : inHold w = false)
include hup hhold

theorem muleData_acts : muleData p src a bs w = muleReceive p src a.toNat bs w := by simp [muleData, hup, hhold]

theorem muleData_lands (hin : inMuleRange w a.toNat bs.length = true) : let w' := muleData p src a bs w
    w'.mem = (writeFar a.toNat bs w).mem ∧
    ∀ o, w.wt.load = some o → w'.wt.load = some (if o.receive then { o with source := some (p, src) } else o) := by
  rw [muleData_acts hup hhold]
  simp only [muleReceive, hin, if_true]
  have hmem := writeFar_touchVerified_mem a.toNat bs bs.length w
  have hload : (writeFar a.toNat bs (touchVerified a.toNat bs.length w)).wt.load = w.wt.load := by rw [writeFar_wt, touchVerified_load]
  generalize writeFar a.toNat bs (touchVerified a.toNat bs.length w) = v at *
  cases hv : v.wt.load with
  | none => exact ⟨hmem, fun o ho => by simp [← hload, hv] at ho⟩
  | some x =>
    dsimp only
    split
    · rename_i hrx
      refine ⟨hmem, fun o ho => ?_⟩
      obtain rfl : x = o := by simpa [← hload, hv] using ho
      simp [putLoad, hrx]
    · rename_i hrx
      refine ⟨hmem, fun o ho => ?_⟩
      obtain rfl : x = o := by simpa [← hload, hv] using ho
      simp [hv, hrx]

theorem muleData_drops (hout : inMuleRange w a.toNat bs.length = false) : let w' := muleData p src a bs w
    w'.mem = w.mem ∧ w'.wt = w.wt ∧ rd w' Reg.muleDrops = satAdd32 (rd w Reg.muleDrops) 1 ∧
    rd w' (Reg.rxDrops p.val) = satAdd32 (rd w (Reg.rxDrops p.val)) 1 := by
  rw [muleData_acts hup hhold]
  simp only [muleReceive, hout, Bool.false_eq_true, if_false]
  have hev := raise0_step 0x6013 srcSteward (le 8 a.toNat ++ [BitVec.ofNat 8 p.val]) (inc Reg.muleDrops 1 w)
  generalize raise0 0x6013 srcSteward (le 8 a.toNat ++ [BitVec.ofNat 8 p.val]) (inc Reg.muleDrops 1 w) = v at hev ⊢
  have hdrop := dropTransfer_events p 0 src.toNat a.toNat v
  have hne : Reg.muleDrops ≠ Reg.rxDrops p.val ∧ Reg.rxDrops p.val ≠ Reg.evtLost ∧ Reg.rxDrops p.val ≠ Reg.hostifErr := by
    simp only [Reg.muleDrops, Reg.rxDrops, Reg.evtLost, Reg.hostifErr]
    omega
  obtain ⟨hmule, hlost, herr⟩ := hne
  refine ⟨by rw [hdrop.mem, inc_mem, hev.mem, inc_mem], by rw [hdrop.wt, inc_wt, hev.wt, inc_wt], ?_, ?_⟩
  · rw [hdrop.regs _ (by decide) (by decide), rd_inc_ne _ _ hmule, hev.regs _ (by decide) (by decide), rd_inc_same]
  · rw [hdrop.regs _ hlost herr, rd_inc_same, hev.regs _ hlost herr, rd_inc_ne _ _ hmule.symm]

end

/-- Settles O44: the commands by `setLoadCmd_loads`, `verify_verifies` and `loadFails_alone`, a digest by `layerDigest_matches` and
`layerDigest_mismatches`, the end by `loadDone_succeeds`, Mule data by `muleData_lands`. -/
theorem loadsFollowTheirSetAndEnd : Obligations.LoadsFollowTheirSetAndEnd := by
  unfold Obligations.LoadsFollowTheirSetAndEnd
  refine ⟨fun s bs => ⟨fun h => ⟨?_, ?_, ?_⟩, fun hopen hbusy => ⟨⟨?_, ?_⟩, fun hrole => ?_⟩,
      fun hopen hidle => ⟨?_, ⟨fun hbad => ?_, fun hgood => ?_⟩, fun hu hc => ?_⟩⟩,
    fun s data => ⟨fun h => ⟨?_, fun e => ?_⟩, fun o hload => ⟨fun h => ?_,
      fun e hres hlayer hu hc hrole => ⟨fun hm => ?_, fun hm hrx => ?_, fun hm hrx hn => ?_, fun hm hrx hn => ?_⟩,
      fun hrole b => ⟨fun r hr => ?_, fun hres hb hst hrx => ?_, fun hres hb => ⟨fun hn => ?_, fun hn => ?_⟩⟩⟩⟩,
    fun s p src a bs => ⟨fun h => ?_, fun hup hhold => ⟨fun hin => ?_, fun hout => ?_⟩⟩⟩
  · exact exec_of_lift_same (f := setLoadCmd bs) rfl (setLoadCmd_closed h)
  · exact exec_of_lift_same (f := verify) rfl (verify_closed h)
  · exact exec_of_lift_same (f := loadAbort) rfl (loadAbort_closed h)
  · exact yields_of_lift (setLoadCmd bs) rfl (by rw [setLoadCmd_busy hopen hbusy]; exact loadReject_rejects s.w)
  · exact yields_of_lift verify rfl (by rw [verify_busy hopen hbusy]; exact loadReject_rejects s.w)
  · exact yields_of_lift loadAbort rfl (by rw [loadAbort_busy hopen hbusy]; exact loadFails_alone (by decide) hrole)
  · refine yields_of_lift loadAbort rfl ?_
    rw [loadAbort_idle hopen hidle]
    obtain ⟨hflag, hwt, -, hstate⟩ := loadReject_rejects s.w
    exact ⟨hflag, hwt, hstate⟩
  · refine yields_of_lift (setLoadCmd bs) rfl ?_
    rw [setLoadCmd_bad hopen hidle hbad]
    obtain ⟨hstate, hwt, hdone, hmem, -⟩ := beginLoad_begins (st := 1) (parseSet bs) (muleRole s.w == 2) true s.w (by decide)
    exact ⟨hstate, congrArg WeightS.load hwt, hdone, hmem⟩
  · exact yields_of_lift (setLoadCmd bs) rfl (setLoadCmd_loads hopen hidle hgood)
  · refine yields_of_lift verify rfl ?_
    exact verify_verifies hopen hidle hu hc
  · exact exec_of_lift_same (f := layerDigest data) rfl (layerDigest_none h)
  · exact exec_of_lift_same (f := loadDone e) rfl (loadDone_none h)
  · exact exec_of_lift_same (f := layerDigest data) rfl (layerDigest_over hload h)
  · refine yields_of_lift (layerDigest data) rfl ?_
    rw [layerDigest_matches hload hres hlayer hu hc hm, rd64_addDone]
    exact ⟨rfl, congrArg (fun n => (n + e.length) % 2 ^ 64) (rd64_layerTaken_done data o e s.w)⟩
  · refine yields_of_lift (layerDigest data) rfl ?_
    rw [layerDigest_mismatches hload hres hlayer hu hc hm]
    obtain ⟨hop, hdone⟩ := digestBad_own e (layerTaken data o e s.w) hrx
    exact ⟨hop, hdone.trans (rd64_layerTaken_done data o e s.w)⟩
  · refine yields_of_lift (layerDigest data) rfl ?_
    rw [layerDigest_mismatches hload hres hlayer hu hc hm, layerTaken_receiver data e s.w hrx]
    exact digestBad_asks e s.w hrx hn
  · refine yields_of_lift (layerDigest data) rfl ?_
    rw [layerDigest_mismatches hload hres hlayer hu hc hm, layerTaken_receiver data e s.w hrx]
    exact digestBad_last e s.w hrx hn
  · refine yields_of_lift (loadDone b) rfl ?_
    rw [loadDone_result hload hr]
    obtain ⟨hstate, hreason, hop, hmem⟩ := loadFails_alone (r := r.val) (by omega) hrole
    exact ⟨hop, hstate, hreason, hmem⟩
  · refine yields_of_lift (loadDone b) rfl ?_
    rw [loadDone_hostError hload hres ⟨hb, hst, hrx⟩]
    obtain ⟨hstate, hreason, hop, hmem⟩ := loadFails_alone (r := 3) (by decide) hrole
    exact ⟨hop, hstate, hreason, hmem⟩
  · exact exec_of_lift_same (f := loadDone b) rfl (loadDone_goesOn hload hres hb hn)
  · exact yields_of_lift (loadDone b) rfl (loadDone_succeeds hload hres hb hn)
  · exact exec_of_lift_same (f := muleData p src a bs) rfl (muleData_waits h)
  · exact yields_of_lift (muleData p src a bs) rfl (muleData_lands hup hhold hin)
  · exact yields_of_lift (muleData p src a bs) rfl (muleData_drops hup hhold hout)

end Sys2Proof.Machine
end

section
/-! SUPPORT. The mirror of the partner's blocks and chunks (R408, R409), and the Mule's messages (R305). -/

namespace Sys2Proof.Machine

open Sys2Proof

/-- A Mule message acts on an UP port outside TRIPPED. -/
theorem onPort_acts {p : PortIx} {w : W9} (hup : portUp w p = true) (htrip : tripDrops w = false) (f : W9 → W9) : onPort p f w = f w := by
  simp [onPort, hup, htrip]

/-! ## BLOCK and CHUNK_DONE -/

section
variable {x : StreamIx} {f : FarLayout} {w : W9}

theorem blockIn_ignored {b : Nat} {ls : FAddr} {st : Byte} (h : paired w = false ∨ ownSlot w x = true) : blockIn x b ls st w = w := by
  unfold blockIn
  rcases h with h | h <;> split <;> simp [h]

theorem chunkDoneIn_ignored {c l k : Nat} (h : paired w = false ∨ ownSlot w x = true) : chunkDoneIn x c l k w = w := by
  unfold chunkDoneIn
  rcases h with h | h <;> split <;> simp [h]

variable (hfar : farOf w = some f) (hpaired : paired w = true) (htheirs : ownSlot w x = false)
include hfar hpaired htheirs

theorem blockIn_writes {b : Nat} {ls : FAddr} {st : Byte} (hb : b < 8192) : blockIn x b ls st w = writeFar (dirBase f x + 32 * b)
    (le 8 ls.toNat ++ le 8 w.dev.time ++ [0xFF, 0xFF, 0xFF, 0xFF, st, if kv8On w then 2 else 0] ++ List.replicate 10 0) w := by
  have hflag : BitVec.ofNat 8 (2 * b2n (kv8On w)) = if kv8On w then 2 else 0 := by cases kv8On w <;> rfl
  simp only [blockIn, hfar, hpaired, htheirs, hb, and_self, if_true, hflag]

theorem chunkDoneIn_tainted {c l k : Nat} (hc : c < 32768) (ht : w.pair.tainted.contains (x, (2 : BitVec 8)) = true) : chunkDoneIn x c l k w =
    mirrorLost x c 1 { w with pair := { w.pair with tainted := w.pair.tainted.filter (fun e => !(e == (x, 2))) } } := by
  simp only [chunkDoneIn, hfar, hpaired, htheirs, hc, ht, and_self, if_true]

/-- A chunk of one layer sets its bit in the mirrored layer vector, where there is one. -/
theorem chunkDoneIn_one {c l : Nat} (hc : c < 32768) (ht : w.pair.tainted.contains (x, (2 : BitVec 8)) = false) : chunkDoneIn x c l l w =
    if ofLe (farBytes w (dirBase f x + 32 * (c / 4)) 8) = 0 then w else mirrorFlushed (ofLe (farBytes w (dirBase f x + 32 * (c / 4)) 8)) c l w := by
  have hone : min 256 (l + 1 - l) = 1 := by omega
  simp only [chunkDoneIn, hfar, hpaired, htheirs, hc, ht, and_self, if_true, Bool.false_eq_true, if_false, hone]
  rfl

end

theorem mirrorLost_counts (x : StreamIx) (c : Nat) (k : Byte) (w : W9) : rd (mirrorLost x c k w) Reg.mirrorLost = satAdd32 (rd w Reg.mirrorLost) 1 ∧
    (mirrorLost x c k w).mem = w.mem ∧ (mirrorLost x c k w).pair = w.pair := by
  have hev := raiseS_step 0x9030 srcSteward x (le 4 c ++ [k]) (inc Reg.mirrorLost 1 w)
  exact ⟨(hev.regs _ (by decide) (by decide)).trans (rd_inc_same _ _ _), by rw [mirrorLost, hev.mem, inc_mem], by rw [mirrorLost, hev.pair, inc_pair]⟩

theorem mirrorFlushed_writes {vec c l i : Nat} {w : W9} (h : kvIndex w l = some i) : mirrorFlushed vec c l w =
    writeFar (vec + 16 * i) [((farBytes w (vec + 16 * i) 1).headD 0) ||| BitVec.ofNat 8 (2 ^ (c % 4))] w := by
  simp only [mirrorFlushed, h]

theorem mirrorFlushed_unknown {vec c l : Nat} {w : W9} (h : kvIndex w l = none) : mirrorFlushed vec c l w = w := by
  simp only [mirrorFlushed, h]

/-! ## MIRROR_SEND (R409) -/

/-- `w'` differs from `w` in nothing but messages that were added to what the ports have to send. -/
structure Sent (w w' : W9) : Prop where
  wire : OnlyWire w w'
  mem : w'.mem = w.mem
  replay : ∀ q, ∃ k, (portOf w' q).replay = (portOf w q).replay ++ k

theorem Sent.refl (w : W9) : Sent w w := ⟨.refl w, rfl, fun _ => ⟨[], (List.append_nil _).symm⟩⟩

theorem Sent.trans {a b c : W9} (h : Sent a b) (k : Sent b c) : Sent a c :=
  ⟨h.wire.trans k.wire, k.mem.trans h.mem, fun q => by
    obtain ⟨x, hx⟩ := h.replay q
    obtain ⟨y, hy⟩ := k.replay q
    exact ⟨x ++ y, by rw [hy, hx, List.append_assoc]⟩⟩

theorem sent_sendMsg (p : PortIx) (m : Msg) (w : W9) : Sent w (sendMsg p m w) := by
  refine ⟨sendMsg_wire p m w, rfl, fun q => ?_⟩
  by_cases h : q = p
  · subst h
    exact ⟨_, congrArg PortS.replay (portOf_sendMsg_same q m w)⟩
  · exact ⟨[], by rw [portOf_sendMsg_ne m w h, List.append_nil]⟩

theorem sent_sendTwin (m : Msg) (w : W9) : Sent w (sendTwin m w) := by
  unfold sendTwin
  split
  · exact sent_sendMsg _ m w
  · exact .refl w

/-- Numbering a transfer leaves what the port has to send. -/
theorem sent_nextXfer (p : PortIx) (w : W9) : Sent w (modPort p (fun s => { s with xferSeq := s.xferSeq + 1 }) w) := by
  refine ⟨modPort_wire p _ w, rfl, fun q => ⟨[], ?_⟩⟩
  by_cases h : q = p
  · subst h
    rw [portOf_modPort_same, List.append_nil]
  · rw [portOf_modPort_ne _ _ h, List.append_nil]

theorem sent_forEach {α : Type} {f : α → W9 → W9} (h : ∀ a w, Sent w (f a w)) (l : List α) (w : W9) : Sent w (forEach l f w) :=
  forEach_keeps (Sent w) f (fun a _ k => k.trans (h a _)) l w (.refl w)

theorem sent_sendFar (purpose : BitVec 8) (stream a n : Nat) (w : W9) : Sent w (sendFar purpose stream a n w) :=
  sent_forEach (fun _ _ => (sent_nextXfer _ _).trans (sent_sendTwin _ _)) _ w

theorem sent_sendMule (p : PortIx) (a n : Nat) (w : W9) : Sent w (sendMule p a n w) :=
  sent_forEach (fun _ _ => (sent_nextXfer p _).trans (sent_sendMsg p _ _)) _ w

theorem mirrorSend_idle {w : W9} (h : w.pair.mirrorQueue = [] ∨ paired w = false) : mirrorSend w = w := by
  unfold mirrorSend
  rcases h with h | h
  · rw [h]
  · split
    · rfl
    · simp [h]

/-- The W9 in which the oldest item has left the queue and its bytes are sent. -/
def chunkSent (x : StreamIx) (l : LayerIx) (c : Nat) (r : List (StreamIx × LayerIx × Nat)) (w : W9) : W9 :=
  let w := { w with pair := { w.pair with mirrorQueue := r } }
  forEach (chunkRanges w x l c) (fun e w => sendFar 2 x.val e.1 e.2 w) w

theorem mirrorSend_sends {x : StreamIx} {l : LayerIx} {c : Nat} {r : List (StreamIx × LayerIx × Nat)} {w : W9}
    (h : w.pair.mirrorQueue = (x, l, c) :: r) (hp : paired w = true) :
    mirrorSend w = sendTwin (.chunkDone x c l.val l.val) (inc Reg.mirrorChunks 1 (chunkSent x l c r w)) := by
  simp only [mirrorSend, h, hp, Bool.not_true, Bool.false_eq_true, if_false]
  rfl

theorem txDataFlits_apart (p : PortIx) : Reg.mirrorChunks ≠ Reg.txDataFlits p.val := by
  have := p.isLt
  simp only [Reg.mirrorChunks, Reg.txDataFlits]
  omega

theorem twinPorts_of_rd {w w' : W9} (hc : ∀ p : PortIx, rd w' (Reg.portCtrl p.val) = rd w (Reg.portCtrl p.val))
    (hs : ∀ p : PortIx, rd w' (Reg.portStatus p.val) = rd w (Reg.portStatus p.val)) : twinPorts w' = twinPorts w := by
  simp only [twinPorts, isTwinPort, portRole, portUp, portState, rdF, hc, hs]

theorem twinPorts_wire {w w' : W9} (h : OnlyWire w w') : twinPorts w' = twinPorts w :=
  twinPorts_of_rd (fun p => h.regs _ fun q => by simp only [Reg.portCtrl, Reg.txDataFlits]; omega)
    (fun p => h.regs _ fun q => by simp only [Reg.portStatus, Reg.txDataFlits]; omega)

/-- The oldest item's bytes go first, and CHUNK_DONE last, on the lowest UP twin port. -/
theorem mirrorSend_done {x : StreamIx} {l : LayerIx} {c : Nat} {r : List (StreamIx × LayerIx × Nat)} {w : W9}
    (h : w.pair.mirrorQueue = (x, l, c) :: r) (hp : paired w = true) : let w' := mirrorSend w
    w'.pair.mirrorQueue = r ∧ rd w' Reg.mirrorChunks = satAdd32 (rd w Reg.mirrorChunks) 1 ∧ w'.mem = w.mem ∧ w'.serve = w.serve ∧ w'.kv = w.kv ∧
    ∀ q ∈ (twinPorts w).head?, ∃ k m, (portOf w' q).replay = (portOf w q).replay ++ k ++ [m] ∧ m.msg = .chunkDone x c l.val l.val := by
  intro w'
  have heq : w' = _ := mirrorSend_sends h hp
  have hsent : Sent { w with pair := { w.pair with mirrorQueue := r } } (chunkSent x l c r w) := sent_forEach (fun _ _ => sent_sendFar _ _ _ _ _) _ _
  generalize chunkSent x l c r w = v at *
  have hlast := sent_sendTwin (.chunkDone x c l.val l.val) (inc Reg.mirrorChunks 1 v)
  have hports : twinPorts (inc Reg.mirrorChunks 1 v) = twinPorts w := by
    have hleft : twinPorts { w with pair := { w.pair with mirrorQueue := r } } = twinPorts w := twinPorts_of_rd (fun _ => rfl) (fun _ => rfl)
    rw [← hleft, ← twinPorts_wire hsent.wire]
    refine twinPorts_of_rd (fun p => rd_inc_ne _ _ ?_) (fun p => rd_inc_ne _ _ ?_)
    · simp only [Reg.portCtrl, Reg.mirrorChunks]
      omega
    · simp only [Reg.portStatus, Reg.mirrorChunks]
      omega
  rw [heq]
  refine ⟨?_, ?_, by rw [hlast.mem, inc_mem, hsent.mem], by rw [hlast.wire.serve, inc_serve, hsent.wire.serve],
    by rw [hlast.wire.kv, inc_kv, hsent.wire.kv], fun q hq => ?_⟩
  · rw [hlast.wire.pair, inc, wr_pair, hsent.wire.pair]
  · rw [hlast.wire.regs _ txDataFlits_apart, rd_inc_same, hsent.wire.regs _ txDataFlits_apart]
    rfl
  · obtain ⟨ps, hps⟩ : ∃ ps, twinPorts w = q :: ps := List.head?_eq_some_iff.mp hq
    obtain ⟨k, hk⟩ : ∃ k, (portOf v q).replay = (portOf w q).replay ++ k := hsent.replay q
    simp only [sendTwin, hports, hps]
    exact ⟨k, _, by rw [portOf_sendMsg_same, portOf_inc, hk], rfl⟩

/-! ## MULE_RESEND and MULE_FAIL (R305) -/

/-- Steps that each send one message on a port. -/
theorem forEach_sends_length {α : Type} {f : α → W9 → W9} {p : PortIx}
    (h : ∀ a w, (portOf (f a w) p).replay.length = (portOf w p).replay.length + 1) :
    ∀ (l : List α) (w : W9), (portOf (forEach l f w) p).replay.length = (portOf w p).replay.length + l.length
  | [], _ => rfl
  | a :: l, w => by
    have ih : (portOf (forEach (a :: l) f w) p).replay.length = (portOf (f a w) p).replay.length + l.length := forEach_sends_length h l (f a w)
    rw [ih, h, List.length_cons]
    omega

/-- A copy of far bytes goes out in transfers of 1 KiB on its port, and on no other. -/
theorem sendMule_sends (p : PortIx) (a n : Nat) (w : W9) : (portOf (sendMule p a n w) p).replay.length = (portOf w p).replay.length + cdiv n 1024 ∧
    (sendMule p a n w).mem = w.mem ∧ (sendMule p a n w).wt = w.wt ∧ ∀ q, q ≠ p → portOf (sendMule p a n w) q = portOf w q := by
  refine ⟨?_, (sent_sendMule p a n w).mem, (sendMule_wire p a n w).wt, fun q hq => forEach_frame (portOf · q) _ (fun _ _ => ?_) _ _⟩
  · have hlen := List.length_range (n := cdiv n 1024)
    rw [sendMule, forEach_sends_length (fun i v => ?_), hlen]
    rw [portOf_sendMsg_same, portOf_modPort_same, List.length_append, List.length_singleton]
  · exact (portOf_sendMsg_ne _ _ hq).trans (portOf_modPort_ne _ _ hq)

theorem muleResendIn_ignored {p : PortIx} {l : LayerIx} {d : BitVec 16} {w : W9} (h : muleRole w ≠ 1 ∨ destOk w d = false) :
    muleResendIn p l d w = w := if_pos h

theorem muleResendIn_sends {p : PortIx} {l : LayerIx} {d : BitVec 16} {w : W9} {o : LoadOp} {e : ManifestEntry} (hrole : muleRole w = 1)
    (hd : destOk w d = true) (ho : w.wt.load = some o) (he : o.header.manifest.find? (fun e => e.layer == l.val) = some e) :
    muleResendIn p l d w = sendMule p (rd64 w Reg.loadDst + e.offset) e.length w := by
  simp [muleResendIn, hrole, hd, ho, he]

theorem muleFailIn_fails {d : BitVec 16} {w : W9} {o : LoadOp} (ho : w.wt.load = some o) (hrx : o.receive = true) (hd : destOk w d = true)
    (hst : loadState w = 1) : muleFailIn d w = loadFails 6 w := by
  simp only [muleFailIn, ho, hrx, hd, hst, and_self, if_true]

theorem muleFailIn_ignored {d : BitVec 16} {w : W9}
    (h : w.wt.load = none ∨ (∀ o ∈ w.wt.load, o.receive = false) ∨ destOk w d = false ∨ loadState w ≠ 1) : muleFailIn d w = w := by
  unfold muleFailIn
  split
  · rename_i o ho
    refine if_neg fun ⟨hrx, hd, hst⟩ => ?_
    rcases h with h | h | h | h
    · simp [ho] at h
    · simp [h o ho] at hrx
    · simp [h] at hd
    · exact h hst
  · rfl

/-- Settles O39: the mirror by `blockIn_writes` and `chunkDoneIn_one`, MIRROR_SEND by `mirrorSend_done`, the Mule's messages by `sendMule_sends` and
`loadFails_alone`. -/
theorem mirrorsFollowBlocksAndChunks : Obligations.MirrorsFollowBlocksAndChunks := by
  unfold Obligations.MirrorsFollowBlocksAndChunks
  refine ⟨fun s p x f hup htwin htrip hfar => ?_, fun s => ⟨fun h => exec_of_lift_same (f := mirrorSend) rfl (mirrorSend_idle h),
    fun x l c r h hp => yields_of_lift mirrorSend rfl (mirrorSend_done h hp)⟩, fun s p n l dest src hup htrip => ?_⟩
  · have hacts := onTwin_acts hup htwin htrip
    refine ⟨fun h => ⟨fun b ls st => ?_, fun c a z => ?_⟩, fun hp ho => ⟨fun b ls st hb => ?_, fun c l hc ht => ?_, fun c l hc ht => ⟨fun h => ?_,
      fun i hvec hi => ?_⟩⟩⟩
    · exact exec_of_lift_same (f := onTwin p (blockIn x b ls st)) rfl ((hacts _).trans (blockIn_ignored h))
    · exact exec_of_lift_same (f := onTwin p (chunkDoneIn x c a z)) rfl ((hacts _).trans (chunkDoneIn_ignored h))
    · refine yields_of_lift (onTwin p (blockIn x b ls st)) rfl ?_
      rw [hacts, blockIn_writes hfar hp ho hb]
      exact writeFar_eq _ _ _
    · refine yields_of_lift (onTwin p (chunkDoneIn x c l l)) rfl ?_
      rw [hacts, chunkDoneIn_tainted hfar hp ho hc ht]
      obtain ⟨hcount, hmem, hpair⟩ := mirrorLost_counts x c 1 { s.w with pair := { s.w.pair with
        tainted := s.w.pair.tainted.filter (fun e => !(e == (x, 2))) } }
      exact ⟨hcount, hmem, by rw [hpair]; simp⟩
    · refine exec_of_lift_same (f := onTwin p (chunkDoneIn x c l l)) rfl ?_
      rw [hacts, chunkDoneIn_one hfar hp ho hc ht]
      rcases h with h | h
      · rw [if_pos h]
      · rw [mirrorFlushed_unknown h, ite_self]
    · refine yields_of_lift (onTwin p (chunkDoneIn x c l l)) rfl ?_
      rw [hacts, chunkDoneIn_one hfar hp ho hc ht, if_neg (Nat.pos_iff_ne_zero.mp hvec), mirrorFlushed_writes hi]
      exact writeFar_eq _ _ _
  · have hacts := onPort_acts hup htrip
    refine ⟨fun h => ?_, fun o e hrole hd ho he => ?_, fun o ho hrx hd hst hrole => ?_, fun h => ?_⟩
    · exact exec_of_lift_same (f := onPort p (muleResendIn p l dest)) rfl ((hacts _).trans (muleResendIn_ignored h))
    · refine yields_of_lift (onPort p (muleResendIn p l dest)) rfl ?_
      rw [hacts, muleResendIn_sends hrole hd ho he]
      exact sendMule_sends _ _ _ _
    · refine yields_of_lift (onPort p (muleFailIn dest)) rfl ?_
      rw [hacts, muleFailIn_fails ho hrx hd hst]
      exact loadFails_alone (by decide) hrole
    · exact exec_of_lift_same (f := onPort p (muleFailIn dest)) rfl ((hacts _).trans (muleFailIn_ignored h))

end Sys2Proof.Machine
end

section
/-! SUPPORT. Far requests at the gateways (R288 to R294, R499), refresh and SELF (R292, R293), and load items (R306, R307). -/

namespace Sys2Proof.Machine

open Sys2Proof

/-! ## Tags -/

theorem fmqOf_of_tiles {w w' : W9} (h : w'.tiles = w.tiles) (t : Tile) (g : Tag) : fmqOf w' t g = fmqOf w t g := by
  rw [fmqOf, tileOf, h, fmqOf, tileOf]

theorem fmqStep_only (t : Tile) (g : Tag) (d : Bool) (w : W9) : ∃ ts, fmqStep t g d w = { w with tiles := ts } := by
  unfold fmqStep
  split
  · exact ⟨_, rfl⟩
  · exact ⟨w.tiles, rfl⟩

@[simp] theorem fmqStep_bar0 (t : Tile) (g : Tag) (d : Bool) (w : W9) : (fmqStep t g d w).bar0 = w.bar0 := by
  obtain ⟨ts, h⟩ := fmqStep_only t g d w
  rw [h]

@[simp] theorem fmqStep_gws (t : Tile) (g : Tag) (d : Bool) (w : W9) : (fmqStep t g d w).gws = w.gws := by
  obtain ⟨ts, h⟩ := fmqStep_only t g d w
  rw [h]

@[simp] theorem fmqStep_mem (t : Tile) (g : Tag) (d : Bool) (w : W9) : (fmqStep t g d w).mem = w.mem := by
  obtain ⟨ts, h⟩ := fmqStep_only t g d w
  rw [h]

@[simp] theorem fmqStep_page (t : Tile) (g : Tag) (d : Bool) (w : W9) : (fmqStep t g d w).page = w.page := by
  obtain ⟨ts, h⟩ := fmqStep_only t g d w
  rw [h]

theorem fmqOf_fmqStep {t : Tile} {g : Tag} {w : W9} {x : FmqXfer} (d : Bool) (h : fmqOf w t g = some x) :
    fmqOf (fmqStep t g d w) t g = some { x with left := x.left - 1, damaged := x.damaged || d } := by
  simp only [fmqStep, h]
  rw [fmqOf, tileOf_modTile_same, smGet_smPut_same]

theorem tileOf_fmqStep_ne {t u : Tile} (g : Tag) (d : Bool) (w : W9) (h : u ≠ t) : tileOf (fmqStep t g d w) u = tileOf w u := by
  unfold fmqStep
  split
  · exact tileOf_modTile_ne _ _ h
  · rfl

/-! ## Stores of a tile -/

theorem writeStore_mem_of {w w' : W9} (h : w'.mem = w.mem) (t : Tile) (a : Nat) (bs : List Byte) :
    (writeStore t a bs w').mem = (writeStore t a bs w).mem := by
  simp only [writeStore, modTile_mem, h]

theorem fmqOf_writeStore (t : Tile) (a : Nat) (bs : List Byte) (w : W9) (g : Tag) : fmqOf (writeStore t a bs w) t g = fmqOf w t g := by
  rw [fmqOf, writeStore, tileOf_modTile_same]
  rfl

/-- What a write of a tile's stores and of its page leaves alone, an append to a ring leaves alone. -/
theorem ringWrite_frame {β : Type} (f : W9 → β) {t : Tile} (hstore : ∀ a bs w, f (writeStore t a bs w) = f w)
    (hpage : ∀ off v w, f (pwr t off v w) = f w) (r : RingIx) (bs : List Byte) (w : W9) : f (ringWrite t r bs w) = f w := by
  unfold ringWrite
  dsimp only
  rw [hpage]
  split
  · rw [hstore, hstore]
  · rw [hstore]

/-! ## GATEWAY_REQUEST_ACCEPT (R288, R290, R499) -/

/-- The request stands at the end of the gateway's queue, and the peak is kept. -/
def requestQueued (g : Gateway) (r : FarReq) (w : W9) : W9 :=
  wr (Reg.gwQueuePeak g.val) (BitVec.ofNat 32 (max (rd w (Reg.gwQueuePeak g.val)).toNat ((gwOf w g).queue.length + 1)))
    (modGw g (fun s => { s with queue := s.queue ++ [r] }) w)

section
variable {g : Gateway} {r : FarReq} {w : W9}

theorem gatewayAccept_outside (hr : (gwOf w g).reset = none) (h : stackBytes < r.offset + r.len) :
    gatewayAccept g r w = wrB (Reg.gwErr g.val) 2 true w := by
  simp [gatewayAccept, hr, h]

theorem gatewayAccept_full (hr : (gwOf w g).reset = none) (h : r.offset + r.len ≤ stackBytes) (hq : 64 ≤ (gwOf w g).queue.length) :
    gatewayAccept g r w = w := by
  simp [gatewayAccept, hr, Nat.not_lt.mpr h, Nat.not_lt.mpr hq]

theorem gatewayAccept_queued (hr : (gwOf w g).reset = none) (h : r.offset + r.len ≤ stackBytes) (hq : (gwOf w g).queue.length < 64) :
    gatewayAccept g r w = if r.load then requestQueued g r w else fmqStep r.tile r.tag false (inc (Reg.gwWrites g.val) 1 (requestQueued g r w)) := by
  simp only [gatewayAccept, hr, Option.isSome_none, Bool.false_eq_true, if_false, if_neg (Nat.not_lt.mpr h), if_pos hq]
  rfl

theorem gatewayAccept_reset (hr : (gwOf w g).reset.isSome = true) : gatewayAccept g r w = farNak r w := if_pos hr

/-- The registers of a gateway lie apart. -/
theorem gwRegs_apart (g : Gateway) : Reg.gwQueuePeak g.val ≠ Reg.gwWrites g.val ∧ Reg.gwLatMax g.val ≠ Reg.gwReads g.val ∧
    Reg.gwLatMax g.val ≠ Reg.resetDrops ∧ Reg.gwReads g.val ≠ Reg.resetDrops ∧ Reg.gwLatMax g.val ≠ Reg.stripeSet ∧
    Reg.gwLatMax g.val ≠ Reg.stripeSet + 4 := by
  simp only [Reg.gwQueuePeak, Reg.gwWrites, Reg.gwLatMax, Reg.gwReads, Reg.resetDrops, Reg.stripeSet]
  omega

theorem requestQueued_queues (g : Gateway) (r : FarReq) (w : W9) : let w' := requestQueued g r w
    (gwOf w' g).queue = (gwOf w g).queue ++ [r] ∧ (∀ k, k ≠ g → gwOf w' k = gwOf w k) ∧ w'.mem = w.mem ∧ w'.tiles = w.tiles ∧
    rd w' (Reg.gwQueuePeak g.val) = BitVec.ofNat 32 (max (rd w (Reg.gwQueuePeak g.val)).toNat ((gwOf w g).queue.length + 1)) ∧
    rd w' (Reg.gwWrites g.val) = rd w (Reg.gwWrites g.val) :=
  ⟨by rw [requestQueued, gwOf_wr, gwOf_modGw_same], fun _ hk => by rw [requestQueued, gwOf_wr, gwOf_modGw_ne _ _ hk], rfl, rfl, rd_wr_same _ _ _,
    rd_wr_ne _ _ (gwRegs_apart g).1.symm⟩

theorem gwOf_of_gws {w w' : W9} (h : w'.gws = w.gws) (g : Gateway) : gwOf w' g = gwOf w g := by rw [gwOf, h, gwOf]

/-- A request within the stack joins a queue that has room; a STORE is counted and answered. -/
theorem gatewayAccept_joins (hr : (gwOf w g).reset = none) (h : r.offset + r.len ≤ stackBytes) (hq : (gwOf w g).queue.length < 64) :
    let w' := gatewayAccept g r w
    (gwOf w' g).queue = (gwOf w g).queue ++ [r] ∧ (∀ k, k ≠ g → gwOf w' k = gwOf w k) ∧ w'.mem = w.mem ∧
    rd w' (Reg.gwQueuePeak g.val) = BitVec.ofNat 32 (max (rd w (Reg.gwQueuePeak g.val)).toNat ((gwOf w g).queue.length + 1)) ∧
    (r.load = true → w'.tiles = w.tiles ∧ rd w' (Reg.gwWrites g.val) = rd w (Reg.gwWrites g.val)) ∧
    (r.load = false → rd w' (Reg.gwWrites g.val) = satAdd32 (rd w (Reg.gwWrites g.val)) 1 ∧
      (∀ x, fmqOf w r.tile r.tag = some x → fmqOf w' r.tile r.tag = some { x with left := x.left - 1 }) ∧
      ∀ t, t ≠ r.tile → tileOf w' t = tileOf w t) := by
  intro w'
  have heq : w' = _ := gatewayAccept_queued hr h hq
  obtain ⟨hqueue, hothers, hmem, htiles, hpeak, hwrites⟩ := requestQueued_queues g r w
  generalize requestQueued g r w = v at *
  rw [heq]
  cases hl : r.load with
  | true => exact ⟨hqueue, hothers, hmem, hpeak, fun _ => ⟨htiles, hwrites⟩, fun h => by simp at h⟩
  | false =>
    have hgw : ∀ k, gwOf (fmqStep r.tile r.tag false (inc (Reg.gwWrites g.val) 1 v)) k = gwOf v k := fun k => gwOf_of_gws (fmqStep_gws _ _ _ _) k
    have hrd : ∀ off, rd (fmqStep r.tile r.tag false (inc (Reg.gwWrites g.val) 1 v)) off = rd (inc (Reg.gwWrites g.val) 1 v) off :=
      rd_of_bar0 (fmqStep_bar0 _ _ _ _)
    rw [if_neg Bool.false_ne_true, hgw, hrd, hrd, fmqStep_mem]
    refine ⟨hqueue, fun k hk => (hgw k).trans (hothers k hk), hmem, (rd_inc_ne _ _ (gwRegs_apart g).1).trans hpeak, fun h => by simp at h, fun _ =>
      ⟨(rd_inc_same _ _ _).trans (by rw [hwrites]), fun x hx => ?_, fun t ht => ?_⟩⟩
    · have hv : fmqOf (inc (Reg.gwWrites g.val) 1 v) r.tile r.tag = some x := (fmqOf_of_tiles htiles _ _).trans hx
      rw [fmqOf_fmqStep false hv, Bool.or_false]
    · rw [tileOf_fmqStep_ne _ _ _ ht, tileOf, inc, wr_tiles, htiles, tileOf]

theorem farNak_freed (h : fmqOf w r.tile r.tag = none) : farNak r w = w := by simp only [farNak, h]

/-- A STORE that meets a reset writes nothing and is answered with an error. -/
theorem farNak_store {x : FmqXfer} (h : fmqOf w r.tile r.tag = some x) (hl : r.load = false) : let w' := farNak r w
    prdB w' r.tile (Pg.fmqErr + 4 * (r.tag.val / 32)) (r.tag.val % 32) = true ∧ w'.gws = w.gws ∧ w'.mem = w.mem ∧
    fmqOf w' r.tile r.tag = some { x with left := x.left - 1 } := by
  simp only [farNak, h, hl, Bool.false_eq_true, if_false]
  have hev := raiseT_step r.tile 0x6001 (le 8 x.far.toNat ++ [3]) (pwrB64 r.tile Pg.fmqErr r.tag.val true w)
  have hbit := tagBit true r.tile Pg.fmqErr r.tag w
  generalize raiseT r.tile 0x6001 (le 8 x.far.toNat ++ [3]) (pwrB64 r.tile Pg.fmqErr r.tag.val true w) = v at hev ⊢
  refine ⟨?_, (fmqStep_gws _ _ _ _).trans hev.gws, (fmqStep_mem _ _ _ _).trans hev.mem, ?_⟩
  · rw [prdB_of_prd (prd_of_page ((fmqStep_page _ _ _ _).trans hev.page) _ _), hbit]
  · rw [fmqOf_fmqStep (x := x) false ((fmqOf_of_tiles hev.tiles _ _).trans h), Bool.or_false]

end

/-! ## GATEWAY_SERVE (R290 to R294) -/

/-- The request has left the gateway's queue, and the largest latency is kept. -/
def requestLeft (g : Gateway) (r : FarReq) (lat : Nat) (w : W9) : W9 :=
  wr (Reg.gwLatMax g.val) (BitVec.ofNat 32 (max (rd w (Reg.gwLatMax g.val)).toNat lat)) (modGw g (fun s => { s with queue := s.queue.erase r }) w)

theorem requestLeft_leaves (g : Gateway) (r : FarReq) (lat : Nat) (w : W9) : let w' := requestLeft g r lat w
    (gwOf w' g).queue = (gwOf w g).queue.erase r ∧ w'.mem = w.mem ∧ w'.tiles = w.tiles ∧ stripeStacks w' = stripeStacks w ∧
    rd w' (Reg.gwLatMax g.val) = BitVec.ofNat 32 (max (rd w (Reg.gwLatMax g.val)).toNat lat) ∧
    ∀ off, off ≠ Reg.gwLatMax g.val → rd w' off = rd w off :=
  ⟨by rw [requestLeft, gwOf_wr, gwOf_modGw_same], rfl, rfl,
    stripeStacks_of_rd (rd_wr_ne _ _ (gwRegs_apart g).2.2.2.2.1.symm) (rd_wr_ne _ _ (gwRegs_apart g).2.2.2.2.2.symm), rd_wr_same _ _ _,
    fun _ h => rd_wr_ne _ _ h⟩

section
variable {g : Gateway} {ch : Fin 4} {lat : Nat} {w : W9}

theorem gatewayServe_idle (h : refreshMode w (gwField g) = 2 ∨ nextReq (gwOf w g).queue ch.val = none) : gatewayServe g ch lat w = w := by
  rcases h with h | h <;> simp [gatewayServe, h]

variable {r : FarReq} (hself : refreshMode w (gwField g) ≠ 2) (hnext : nextReq (gwOf w g).queue ch.val = some r)
include hself hnext

theorem gatewayServe_takes : gatewayServe g ch lat w =
    if r.load then landLoad g r (requestLeft g r lat w) else writeFar (reqAddr g r) r.data (requestLeft g r lat w) := by
  simp only [gatewayServe, if_neg hself, hnext]
  rfl

theorem gatewayServe_stores (hl : r.load = false) : let w' := gatewayServe g ch lat w
    (gwOf w' g).queue = (gwOf w g).queue.erase r ∧
    rd w' (Reg.gwLatMax g.val) = BitVec.ofNat 32 (max (rd w (Reg.gwLatMax g.val)).toNat lat) ∧
    w'.mem = (writeFar (reqAddr g r) r.data w).mem ∧ w'.tiles = w.tiles := by
  intro w'
  have heq : w' = _ := gatewayServe_takes hself hnext
  obtain ⟨hqueue, hmem, htiles, hstripe, hlat, -⟩ := requestLeft_leaves g r lat w
  rw [heq, hl, if_neg Bool.false_ne_true, gwOf_of_gws (writeFar_gws _ _ _), rd_writeFar, writeFar_mem_of hmem hstripe, writeFar_tiles]
  exact ⟨hqueue, hlat, rfl, htiles⟩

end

/-- Undamaged data lands at its tile, or is dropped where its tag was freed. -/
theorem landLoad_clean {g : Gateway} {r : FarReq} {w : W9} (hu : w.mem.farUE = []) (hc : ∀ q, farHasCE w q = false) : landLoad g r w =
    if (fmqOf w r.tile r.tag).isSome then
      fmqStep r.tile r.tag false (writeStore r.tile r.landing.toNat (farRead w (reqAddr g r) r.len) (inc (Reg.gwReads g.val) 1 w))
    else inc Reg.resetDrops 1 (inc (Reg.gwReads g.val) 1 w) := by
  have hclean : ∀ qs, farReadEffects qs (inc (Reg.gwReads g.val) 1 w) = inc (Reg.gwReads g.val) 1 w := fun qs => farReadEffects_clean qs hu hc
  have hbad : ∀ qs : List Nat, (qs.any fun q => w.mem.farUE.contains q) = false := fun qs => by simp [hu]
  simp only [landLoad, hclean, hbad, onlyIf, Bool.false_eq_true, if_false]
  rfl

theorem gatewayServe_loads {g : Gateway} {ch : Fin 4} {lat : Nat} {w : W9} {r : FarReq} (hself : refreshMode w (gwField g) ≠ 2)
    (hnext : nextReq (gwOf w g).queue ch.val = some r) (hl : r.load = true) (hu : w.mem.farUE = []) (hc : ∀ q, farHasCE w q = false) :
    let w' := gatewayServe g ch lat w
    (gwOf w' g).queue = (gwOf w g).queue.erase r ∧
    rd w' (Reg.gwLatMax g.val) = BitVec.ofNat 32 (max (rd w (Reg.gwLatMax g.val)).toNat lat) ∧
    rd w' (Reg.gwReads g.val) = satAdd32 (rd w (Reg.gwReads g.val)) 1 ∧
    (∀ x, fmqOf w r.tile r.tag = some x → w'.mem = (writeStore r.tile r.landing.toNat (farRead w (reqAddr g r) r.len) w).mem ∧
      fmqOf w' r.tile r.tag = some { x with left := x.left - 1 }) ∧
    (fmqOf w r.tile r.tag = none → w'.mem = w.mem ∧ w'.tiles = w.tiles ∧ rd w' Reg.resetDrops = satAdd32 (rd w Reg.resetDrops) 1) := by
  intro w'
  have heq : w' = _ := gatewayServe_takes hself hnext
  obtain ⟨hqueue, hmem, htiles, hstripe, hlat, hregs⟩ := requestLeft_leaves g r lat w
  obtain ⟨-, hlr, hld, hrdr, -, -⟩ := gwRegs_apart g
  generalize requestLeft g r lat w = v at *
  have hclean : v.mem.farUE = [] ∧ ∀ q, farHasCE v q = false := ⟨by rw [hmem, hu], fun q => by rw [farHasCE, hmem]; exact hc q⟩
  have hfmq : fmqOf v r.tile r.tag = fmqOf w r.tile r.tag := fmqOf_of_tiles htiles _ _
  have hreads : rd (inc (Reg.gwReads g.val) 1 v) (Reg.gwReads g.val) = satAdd32 (rd w (Reg.gwReads g.val)) 1 := by
    rw [rd_inc_same, hregs _ hlr.symm]
  rw [heq, hl, if_pos rfl, landLoad_clean hclean.1 hclean.2, hfmq, farRead_of hmem hstripe]
  cases hx : fmqOf w r.tile r.tag with
  | none =>
    rw [Option.isSome_none, if_neg Bool.false_ne_true]
    refine ⟨hqueue, ?_, ?_, fun x h => by simp at h, fun _ => ⟨hmem, htiles, ?_⟩⟩
    · rw [rd_inc_ne _ _ hld, rd_inc_ne _ _ hlr, hlat]
    · rw [rd_inc_ne _ _ hrdr, hreads]
    · rw [rd_inc_same, rd_inc_ne _ _ hrdr.symm, hregs _ hld.symm]
  | some y =>
    rw [Option.isSome_some, if_pos rfl]
    have hrd : ∀ off, rd (fmqStep r.tile r.tag false (writeStore r.tile r.landing.toNat (farRead w (reqAddr g r) r.len) (inc (Reg.gwReads g.val) 1 v))) off =
        rd (inc (Reg.gwReads g.val) 1 v) off := rd_of_bar0 (fmqStep_bar0 _ _ _ _)
    rw [gwOf_of_gws (fmqStep_gws _ _ _ _), hrd, hrd, fmqStep_mem]
    refine ⟨hqueue, ?_, hreads, fun x h => ⟨writeStore_mem_of (w := w) hmem _ _ _, ?_⟩, fun h => by simp at h⟩
    · rw [rd_inc_ne _ _ hlr, hlat]
    · have hstored : fmqOf (writeStore r.tile r.landing.toNat (farRead w (reqAddr g r) r.len) (inc (Reg.gwReads g.val) 1 v)) r.tile r.tag = some x :=
        (fmqOf_writeStore _ _ _ _ _).trans (hfmq.trans (hx.trans h))
      rw [fmqOf_fmqStep false hstored, Bool.or_false]

/-! ## Refresh and SELF (R292, R293) -/

/-- The gateway of a stack's channel. -/
def channelGw (f : FieldIx) (ch : Fin 16) : Gateway := Fin.ofNat 192 (f.val * 4 + ch.val / 4)

/-- A request next on the channel waits for the refresh. -/
def refreshWaits (w : W9) (f : FieldIx) (ch : Fin 16) : Prop :=
  refreshMode w f ≠ 2 ∧ (nextReq (gwOf w (channelGw f ch)).queue (ch.val % 4)).isSome = true

theorem refreshInterval_passes {f : FieldIx} {ch : Fin 16} {w : W9} (h : ¬ refreshWaits w f ch) : refreshInterval f ch w = w := if_neg h

theorem refreshInterval_waits {f : FieldIx} {ch : Fin 16} {w : W9} (h : refreshWaits w f ch) :
    refreshInterval f ch w = inc (Reg.gwRefreshWaits (channelGw f ch).val) 1 w := if_pos h

theorem stackLeaveSelf_ordered {f : FieldIx} {w : W9} (h : w.env.selfStacks = true) : stackLeaveSelf f w = w := if_pos h

/-- A stack that no read of BAR2 waits for leaves SELF, and nothing else happens. -/
theorem stackLeaveSelf_alone {f : FieldIx} {w : W9} (h : w.env.selfStacks = false) (hwait : w.host.bar2Waiting = []) :
    stackLeaveSelf f w = modField f (fun s => { s with stackSelf := false }) w := by
  have hhost : { w.host with bar2Waiting := [] } = w.host := by rw [← hwait]
  simp only [stackLeaveSelf, h, Bool.false_eq_true, if_false, modField_host, hwait, List.filter_nil, forEach, List.foldl_nil, hhost]
  rfl

/-! ## Load items (R306, R307) -/

theorem routerTake_wt (t : Tile) (net : Net) (inp : Inp) (p : Packet) (w : W9) : (routerTake t net inp p w).wt = w.wt := by
  unfold routerTake
  split
  · rw [mcastDrop, raiseT_wt, pwrB_wt, pinc_wt]
  split
  · rw [holdStray, raise0_wt, inc_wt, setRouter_wt]
  split
  · rfl
  · rfl

theorem nakNoted_wt (t : Tile) (responder : BitVec 16) (st op : BitVec 4) (opSeq : BitVec 32) (w : W9) :
    (nakNoted t responder st op opSeq w).wt = w.wt := by simp [nakNoted]

/-- Sending an item uses one operation number of its tile, whatever becomes of its packets. -/
theorem sendItem_sends {w : W9} (t : Tile) (x : LoadItem) (hu : w.mem.farUE = []) (hc : ∀ q, farHasCE w q = false) :
    (sendItem t x w).wt = w.wt ∧ (tileOf (sendItem t x w) t).opSeq = (tileOf w t).opSeq + 1 := by
  have hop : ∀ {v : W9}, v.tiles = (nextOp t w).tiles → (tileOf v t).opSeq = (tileOf w t).opSeq + 1 := fun hv => by
    rw [tileOf, hv]
    exact nextOp_opSeq t w
  simp only [sendItem, farReadEffects_clean _ hu hc]
  split
  · exact ⟨nakNoted_wt .., hop (nakNoted_tiles ..)⟩
  · exact ⟨forEach_frame (·.wt) _ (fun _ _ => routerTake_wt ..) _ _, hop (forEach_frame (·.tiles) _ (fun _ _ => routerTake_tiles ..) _ _)⟩

/-- The Mule loop of an attach tile can pop an item. -/
def mayPop (w : W9) (t : Tile) : Prop :=
  (running w t = true ∨ rdF w Reg.imgStatus 2 0 = 2) ∧ ringOn w t 15 = true ∧ 32 ≤ ringFree w t 15

/-- The tile whose loop serves an attach point. -/
def pointTile (n : Fin 32) : Tile := tileAt (attachTile n.val).1 (attachTile n.val).2

theorem mayPop_iff (w : W9) (t : Tile) :
    ((running w t || rdF w Reg.imgStatus 2 0 == 2) && ringOn w t 15 && decide (32 ≤ ringFree w t 15)) = true ↔ mayPop w t := by
  simp [mayPop, and_assoc]

/-- The steward's lists once an item is taken from its attach point. -/
def itemTaken (n : Fin 32) (x : LoadItem) (r : List LoadItem) (w : W9) : W9 :=
  { w with wt := { w.wt with
      muleRings := smPut (fun _ => []) w.wt.muleRings n.val r
      outstanding := if x.signal.isSome then w.wt.outstanding ++ [x] else w.wt.outstanding } }

theorem loadItemPop_idle {n : Fin 32} {w : W9} (h : smGet (fun _ => []) w.wt.muleRings n.val = [] ∨ ¬ mayPop w (pointTile n)) : loadItemPop n w = w := by
  unfold loadItemPop
  dsimp only
  split
  · rfl
  · rename_i hitems
    rcases h with h | h
    · rw [h] at hitems
      cases hitems
    · exact if_neg fun hmay => h ((mayPop_iff w (pointTile n)).mp hmay)

theorem loadItemPop_pops {n : Fin 32} {x : LoadItem} {r : List LoadItem} {w : W9} (hmay : mayPop w (pointTile n))
    (hitems : smGet (fun _ => []) w.wt.muleRings n.val = x :: r) : loadItemPop n w =
    sendItem (pointTile n) x (advanceHead (pointTile n) 15 32 (ringWrite (pointTile n) 15 (itemBytes x) (itemTaken n x r w))) := by
  unfold loadItemPop
  simp only [hitems]
  exact if_pos ((mayPop_iff w (pointTile n)).mpr hmay)

/-- The oldest item of an attach point is taken and sent. -/
theorem loadItemPop_sends {n : Fin 32} {x : LoadItem} {r : List LoadItem} {w : W9} (hmay : mayPop w (pointTile n))
    (hitems : smGet (fun _ => []) w.wt.muleRings n.val = x :: r) (hu : w.mem.farUE = []) (hc : ∀ q, farHasCE w q = false) :
    let w' := loadItemPop n w
    smGet (fun _ => []) w'.wt.muleRings n.val = r ∧ (tileOf w' (pointTile n)).opSeq = (tileOf w (pointTile n)).opSeq + 1 ∧
    w'.wt.outstanding = (if x.signal.isSome then w.wt.outstanding ++ [x] else w.wt.outstanding) := by
  rw [loadItemPop_pops hmay hitems]
  generalize pointTile n = t
  have hkeep : ∀ {β : Type} (f : W9 → β), (∀ a bs u, f (writeStore t a bs u) = f u) → (∀ off v u, f (pwr t off v u) = f u) →
      f (advanceHead t 15 32 (ringWrite t 15 (itemBytes x) (itemTaken n x r w))) = f (itemTaken n x r w) := fun f hs hp =>
    (hp _ _ _).trans (ringWrite_frame f hs hp 15 (itemBytes x) _)
  have hwt := hkeep (·.wt) (fun _ _ _ => rfl) (fun _ _ _ => rfl)
  have hop := hkeep (fun u => (tileOf u t).opSeq) (fun _ _ _ => by rw [writeStore, tileOf_modTile_same]; rfl) (fun _ _ _ => rfl)
  have hue := hkeep (·.mem.farUE) (fun _ _ _ => rfl) (fun _ _ _ => rfl)
  have hce := hkeep farHasCE (fun _ _ _ => rfl) (fun _ _ _ => rfl)
  generalize advanceHead t 15 32 (ringWrite t 15 (itemBytes x) (itemTaken n x r w)) = v at *
  obtain ⟨hwt', hop'⟩ := sendItem_sends t x (hue.trans hu) (fun q => (congrFun hce q).trans (hc q))
  refine ⟨?_, hop'.trans (by rw [hop]; rfl), ?_⟩
  · rw [hwt', hwt]
    exact smGet_smPut_same _ _ _ _
  · rw [hwt', hwt]
    rfl

theorem loadItemComplete_none {k : BitVec 32} {w : W9} (h : w.wt.outstanding.find? (fun x => x.seq == k) = none) : loadItemComplete k w = w := by
  simp only [loadItemComplete, h]

/-- The item's signal has come to each of its tiles. -/
def signalShown (w : W9) (x : LoadItem) : Prop := ∀ c, x.signal = some c → ∀ t ∈ itemTiles w x, prd w t (Pg.sigcnt c.val) ≠ 0

section
variable {k : BitVec 32} {w : W9} {x : LoadItem} (hfind : w.wt.outstanding.find? (fun x => x.seq == k) = some x)
include hfind

theorem loadItemComplete_shown (h : signalShown w x) :
    loadItemComplete k w = { w with wt := { w.wt with outstanding := w.wt.outstanding.erase x } } := by
  simp only [loadItemComplete, hfind]
  cases hs : x.signal with
  | none => exact if_pos rfl
  | some c => exact if_pos (List.all_eq_true.mpr fun t ht => decide_eq_true (h c hs t ht))

theorem loadItemComplete_waits (h : ¬ signalShown w x) : loadItemComplete k w = w := by
  simp only [loadItemComplete, hfind]
  cases hs : x.signal with
  | none => exact absurd (fun c hc => by simp [hs] at hc) h
  | some c =>
    refine if_neg fun hall => h fun d hd t ht => ?_
    obtain rfl : c = d := by simpa [hs] using hd
    exact of_decide_eq_true (List.all_eq_true.mp hall t ht)

end

/-- Settles O45: acceptance by `gatewayAccept_joins` and `farNak_store`, service by `gatewayServe_stores` and `gatewayServe_loads`, load items by
`loadItemPop_sends` and `loadItemComplete_shown`. -/
theorem farRequestsQueueAndAreServed : Obligations.FarRequestsQueueAndAreServed := by
  unfold Obligations.FarRequestsQueueAndAreServed
  refine ⟨fun s g r => ⟨fun hr => ⟨fun h => ?_, fun h hq => ?_, fun h hq => ?_⟩, fun hr => ⟨fun h => ?_, fun x hx hl => ?_⟩⟩,
    fun s g ch lat => ⟨fun h => ?_, fun r hself hnext => ⟨fun hl => ?_, fun hl hu hc => ?_⟩⟩,
    fun s f ch => ⟨fun h => ?_, fun h => ?_, fun h => ?_, fun h hwait => ?_⟩,
    fun s n => ⟨fun h => ?_, fun x r hmay hitems hu hc => ?_⟩, fun s k => ⟨fun h => ?_, fun x hx => ⟨fun h => ?_, fun h => ?_⟩⟩⟩
  · refine yields_of_lift (gatewayAccept g r) rfl ?_
    rw [gatewayAccept_outside hr h]
    exact ⟨rdB_wrB_same _ _ _ _ (by decide), rfl, fun off ho => rd_wrB_ne _ _ _ ho⟩
  · exact exec_of_lift_same (f := gatewayAccept g r) rfl (gatewayAccept_full hr h hq)
  · exact yields_of_lift (gatewayAccept g r) rfl (gatewayAccept_joins hr h hq)
  · exact exec_of_lift_same (f := gatewayAccept g r) rfl ((gatewayAccept_reset hr).trans (farNak_freed h))
  · exact yields_of_lift (gatewayAccept g r) rfl (by rw [gatewayAccept_reset hr]; exact farNak_store hx hl)
  · exact exec_of_lift_same (f := gatewayServe g ch lat) rfl (gatewayServe_idle h)
  · exact yields_of_lift (gatewayServe g ch lat) rfl (gatewayServe_stores hself hnext hl)
  · exact yields_of_lift (gatewayServe g ch lat) rfl (gatewayServe_loads hself hnext hl hu hc)
  · exact exec_of_lift_same (f := refreshInterval f ch) rfl (refreshInterval_passes h)
  · exact yields_of_lift (refreshInterval f ch) rfl (by rw [refreshInterval_waits h]; exact ⟨rd_inc_same _ _ _, rfl, rfl⟩)
  · exact exec_of_lift_same (f := stackLeaveSelf f) rfl (stackLeaveSelf_ordered h)
  · refine yields_of_lift (stackLeaveSelf f) rfl ?_
    rw [stackLeaveSelf_alone h hwait]
    exact ⟨fieldState_modField_same _ _ _, fun k hk => fieldState_modField_ne _ _ hk, rfl, rfl⟩
  · exact exec_of_lift_same (f := loadItemPop n) rfl (loadItemPop_idle h)
  · exact yields_of_lift (loadItemPop n) rfl (loadItemPop_sends hmay hitems hu hc)
  · exact exec_of_lift_same (f := loadItemComplete k) rfl (loadItemComplete_none h)
  · exact exec_of_lift_eq (f := loadItemComplete k) rfl (loadItemComplete_shown hx h)
  · exact exec_of_lift_same (f := loadItemComplete k) rfl (loadItemComplete_waits hx h)

end Sys2Proof.Machine
end

section
/-! SUPPORT. Flips of the model: their start, their abort, the drain, the parking of streams and the refill (R314 to R321). -/

namespace Sys2Proof.Machine

open Sys2Proof

/-! ## FLIP_STATUS -/

theorem flipState_of_rd {w w' : W9} (h : rd w' Reg.flipStatus = rd w Reg.flipStatus) : flipState w' = flipState w := by
  simp only [flipState, rdF, h]

theorem flipState_setFlip {st : Nat} (r : Nat) (w : W9) (h : st < 8) : flipState (setFlip st r w) = st := by
  rw [flipState, setFlip, rdF_wrF_ne _ _ _ _ _ _ _ (by decide) (by decide) (by decide), rdF_wrF_same _ _ _ _ _ (by decide) (by decide)]
  exact Nat.mod_eq_of_lt h

theorem flipReason_setFlip (st : Nat) {r : Nat} (w : W9) (h : r < 16) : rdF (setFlip st r w) Reg.flipStatus 7 4 = r := by
  rw [setFlip, rdF_wrF_same _ _ _ _ _ (by decide) (by decide)]
  exact Nat.mod_eq_of_lt h

theorem rd_setFlip_ne {off : Nat} (st r : Nat) (w : W9) (h : off ≠ Reg.flipStatus) : rd (setFlip st r w) off = rd w off := by
  rw [setFlip, rd_wrF_ne _ _ _ _ h, rd_wrF_ne _ _ _ _ h]

/-- A bit above the state and the reason leaves both. -/
theorem flipStatus_wrB {i : Nat} (b : Bool) (w : W9) (h : 8 ≤ i) : flipState (wrB Reg.flipStatus i b w) = flipState w ∧
    rdF (wrB Reg.flipStatus i b w) Reg.flipStatus 7 4 = rdF w Reg.flipStatus 7 4 :=
  ⟨rdF_wrF_ne _ _ _ _ _ _ _ (le_refl i) (by decide) (by omega), rdF_wrF_ne _ _ _ _ _ _ _ (le_refl i) (by decide) (by omega)⟩

theorem flipStopped_events (b : Byte) (w : W9) : OnlyEvents w (flipStopped b w) := raise0_step _ _ _ _

theorem flipState_ev {w w' : W9} (h : OnlyEvents w w') : flipState w' = flipState w := flipState_of_rd (h.regs _ (by decide) (by decide))

theorem flipReject_rejects (w : W9) : rdB (flipReject w) Reg.flipStatus 16 = true ∧ (flipReject w).wt = w.wt ∧ (flipReject w).serve = w.serve ∧
    flipState (flipReject w) = flipState w := by
  have hev := flipStopped_events 3 (wrB Reg.flipStatus 16 true w)
  refine ⟨?_, hev.wt, hev.serve, (flipState_ev hev).trans (flipStatus_wrB _ _ (by decide)).1⟩
  exact (hev.rdB _ _ (by decide) (by decide)).trans (rdB_wrB_same _ _ _ _ (by decide))

/-- A START that is refused. -/
theorem flipRefused_fails (w : W9) : flipState (flipStopped 1 (setFlip 5 1 w)) = 5 ∧ rdF (flipStopped 1 (setFlip 5 1 w)) Reg.flipStatus 7 4 = 1 ∧
    (flipStopped 1 (setFlip 5 1 w)).wt = w.wt ∧ (flipStopped 1 (setFlip 5 1 w)).serve = w.serve := by
  have hev := flipStopped_events 1 (setFlip 5 1 w)
  exact ⟨(flipState_ev hev).trans (flipState_setFlip _ _ (by decide)), (rdF_ev hev _ _ _ (by decide) (by decide)).trans
    (flipReason_setFlip _ _ (by decide)), hev.wt, hev.serve⟩

/-! ## The image in force -/

theorem farOf_of {w w' : W9} (hi : w'.img = w.img) (hs : rd w' Reg.imgStatus = rd w Reg.imgStatus) : farOf w' = farOf w := by
  simp only [farOf, rungNow, rdF, hi, hs]

theorem secondCopy_of {w w' : W9} (hi : w'.img = w.img) (hs : rd w' Reg.imgStatus = rd w Reg.imgStatus) : secondCopy w' = secondCopy w := by
  simp only [secondCopy, farOf_of hi hs]

theorem writeHeader_wire (w : W9) : OnlyWire w (writeHeader w) := by
  unfold writeHeader
  split
  · exact .refl w
  · exact writeFar_wire _ _ _

/-! ## START (R314) -/

section
variable {m : Bool} {w : W9}

theorem flipStart_closed (h : cmdOpen w = false) : flipStart m w = w := by simp [flipStart, h]
theorem flipAbort_closed (h : cmdOpen w = false) : flipAbort w = w := by simp [flipAbort, h]

variable (hopen : cmdOpen w = true)
include hopen

theorem flipStart_rejected (h : flipping w = true ∨ imageRuns w = false) : flipStart m w = flipReject w := by
  rcases h with h | h <;> simp [flipStart, hopen, h]

theorem flipAbort_rejected (h : flipping w = false ∨ flipCommitted w = true) : flipAbort w = flipReject w := by
  rcases h with h | h <;> simp [flipAbort, hopen, h]

theorem flipAbort_aborts (h : flipping w = true) (hc : flipCommitted w = false) : flipAbort w = abortFlip 0 w := by
  simp [flipAbort, hopen, h, hc]

variable (hidle : flipping w = false) (hrun : imageRuns w = true)
include hidle hrun

theorem flipStart_refused (h : rd w Reg.flipVerArg = 0 ∨ rd w Reg.flipVerArg = rd w Reg.modelVer ∨
    flipSetOk w (rd64 w Reg.flipSet) (rd w Reg.flipVerArg).toNat = none) : flipStart m w = flipStopped 1 (setFlip 5 1 w) := by
  simp only [flipStart, hopen, hidle, hrun, Bool.not_true, Bool.or_self, Bool.false_eq_true, if_false]
  rcases h with h | h | h
  · exact if_pos (by simp [h])
  · exact if_pos (by simp [h])
  · rw [h]
    exact ite_self _

theorem flipStart_begins {h : SetHeader} (h0 : rd w Reg.flipVerArg ≠ 0) (hcur : rd w Reg.flipVerArg ≠ rd w Reg.modelVer)
    (hset : flipSetOk w (rd64 w Reg.flipSet) (rd w Reg.flipVerArg).toNat = some h) : flipStart m w = flipBegin m (rd64 w Reg.flipSet) h w := by
  simp only [flipStart, hopen, hidle, hrun, Bool.not_true, Bool.or_self, Bool.false_eq_true, if_false, hset]
  exact if_neg (by simpa [hcur] using h0)

end

/-- The steward's lists of items are all that a queued item changes. -/
theorem queueItems_only (set : Nat) (sel : Bool) (w : W9) : ∃ l n, queueItems set sel w = { w with wt := { w.wt with muleRings := l, itemSeq := n } } := by
  unfold queueItems
  split
  · refine forEach_keeps (fun u => ∃ l n, u = { w with wt := { w.wt with muleRings := l, itemSeq := n } }) _ (fun x u hu => ?_) _ _
      ⟨w.wt.muleRings, w.wt.itemSeq, rfl⟩
    obtain ⟨l, n, rfl⟩ := hu
    unfold queueItem
    split
    · exact ⟨_, _, rfl⟩
    · exact ⟨l, n, rfl⟩
  · exact ⟨w.wt.muleRings, w.wt.itemSeq, rfl⟩

/-- The flip that START begins. -/
def newFlip (m : Bool) (set : Nat) (h : SetHeader) (w : W9) : Flip :=
  ⟨w.dev.time, m, rd w Reg.modelVer, h.modelVer, BitVec.ofNat 64 set, h, false, false, none, 0, false⟩

/-- The registers of a flip that begins. -/
def flipShown (w : W9) : W9 :=
  wr Reg.flipProgress 0 (wrB Reg.flipStatus 9 (secondCopy w) (setFlip (if secondCopy w then 1 else 2) 0 w))

/-- The flip's data are in place and event 0x6020 is raised. -/
def flipNoted (m : Bool) (set : Nat) (h : SetHeader) (w : W9) : W9 :=
  raise0 0x6020 srcSteward (le 4 (rd w Reg.modelVer).toNat ++ le 4 h.modelVer.toNat) { w with wt := { w.wt with flip := some (newFlip m set h w) } }

theorem flipNoted_events (m : Bool) (set : Nat) (h : SetHeader) (w : W9) :
    OnlyEvents { w with wt := { w.wt with flip := some (newFlip m set h w) } } (flipNoted m set h w) := raise0_step _ _ _ _

/-- A flip that begins queues the items of a second copy. -/
theorem flipBegin_eq (m : Bool) (set : Nat) (h : SetHeader) (w : W9) : ∃ l n, flipBegin m set h w =
    { flipShown (flipNoted m set h w) with wt := { (flipNoted m set h w).wt with muleRings := l, itemSeq := n } } := by
  have hbegin : flipBegin m set h w = if secondCopy (flipShown (flipNoted m set h w)) then
      queueItems set (!rdB (flipShown (flipNoted m set h w)) Reg.flipStatus 8) (flipShown (flipNoted m set h w)) else flipShown (flipNoted m set h w) := rfl
  rw [hbegin]
  split
  · exact queueItems_only _ _ _
  · exact ⟨(flipNoted m set h w).wt.muleRings, (flipNoted m set h w).wt.itemSeq, rfl⟩

theorem flipShown_shows (w : W9) : flipState (flipShown w) = (if secondCopy w then 1 else 2) ∧ rd (flipShown w) Reg.flipProgress = 0 ∧
    rdB (flipShown w) Reg.flipStatus 9 = secondCopy w ∧ (flipShown w).serve = w.serve ∧ rd (flipShown w) Reg.modelVer = rd w Reg.modelVer := by
  have hst : (if secondCopy w then 1 else 2) < 8 := by split <;> decide
  refine ⟨?_, rd_wr_same _ _ _, ?_, rfl, ?_⟩
  · rw [flipShown, flipState_of_rd (rd_wr_ne _ _ (by decide)), (flipStatus_wrB _ _ (by decide)).1, flipState_setFlip _ _ hst]
  · rw [flipShown, rdB_wr_ne' _ _ _ (by decide), rdB_wrB_same _ _ _ _ (by decide)]
  · rw [flipShown, rd_wr_ne _ _ (by decide), rd_wrB_ne _ _ _ (by decide), rd_setFlip_ne _ _ _ (by decide)]

theorem flipBegin_begins (m : Bool) (set : Nat) (h : SetHeader) (w : W9) : let w' := flipBegin m set h w
    flipState w' = (if secondCopy w then 1 else 2) ∧ rd w' Reg.flipProgress = 0 ∧ rdB w' Reg.flipStatus 9 = secondCopy w ∧
    w'.wt.flip = some (newFlip m set h w) ∧ w'.serve = w.serve ∧ rd w' Reg.modelVer = rd w Reg.modelVer := by
  obtain ⟨l, n, heq⟩ := flipBegin_eq m set h w
  have hev := flipNoted_events m set h w
  generalize flipNoted m set h w = u at heq hev
  obtain ⟨hstate, hprog, hbit, hserve, hver⟩ := flipShown_shows u
  have hcopy : secondCopy u = secondCopy w := secondCopy_of hev.img (hev.regs _ (by decide) (by decide))
  rw [heq]
  refine ⟨hstate.trans (by rw [hcopy]), hprog, hbit.trans hcopy, ?_, hserve.trans hev.serve, hver.trans (hev.regs _ (by decide) (by decide))⟩
  exact congrArg WeightS.flip hev.wt

/-! ## The end of a flip (R314, R319) -/

theorem dropParkAsks_only (w : W9) : ∃ l, dropParkAsks w = { w with serve := { w.serve with streams := l } } := by
  refine forEach_keeps (fun u => ∃ l, u = { w with serve := { w.serve with streams := l } }) _ (fun x u hu => ?_) _ _ ⟨w.serve.streams, rfl⟩
  obtain ⟨l, rfl⟩ := hu
  exact ⟨_, rfl⟩

theorem dropParkAsks_none {w : W9} (h : w.serve.streams = []) : dropParkAsks w = w := by
  rw [dropParkAsks, busyStreams_none h]
  rfl

/-- The registers of a flip that is over. -/
def overShown (st r : Nat) (w : W9) : W9 := wrB Reg.flipStatus 10 false (wr64 Reg.wselAtBeat 0xFFFFFFFFFFFFFFFF (setFlip st r w))

theorem overShown_frame (st r : Nat) (w : W9) : (overShown st r w).serve = w.serve ∧ (overShown st r w).fields = w.fields ∧
    (overShown st r w).wt = w.wt := by
  refine ⟨?_, ?_, ?_⟩
  · rw [overShown, wrB_serve, wr64_serve, setFlip, wrF_serve, wrF_serve]
  · rw [overShown, wrB_fields, wr64_fields, setFlip, wrF_fields, wrF_fields]
  · rw [overShown, wrB_wt, wr64_wt, setFlip, wrF_wt, wrF_wt]

theorem rd_overShown {off : Nat} (st r : Nat) (w : W9) (h : off ≠ Reg.flipStatus) (h1 : off ≠ Reg.wselAtBeat) (h2 : off ≠ Reg.wselAtBeat + 4) :
    rd (overShown st r w) off = rd w off := by
  rw [overShown, rd_wrB_ne _ _ _ h, rd_wr64_ne _ _ h1 h2, rd_setFlip_ne _ _ _ h]

theorem overShown_shows {st r : Nat} (w : W9) (hst : st < 8) (hr : r < 16) : flipState (overShown st r w) = st ∧
    rdF (overShown st r w) Reg.flipStatus 7 4 = r ∧ rd64 (overShown st r w) Reg.wselAtBeat = 0xFFFFFFFFFFFFFFFF := by
  obtain ⟨hs, hf⟩ := flipStatus_wrB (i := 10) false (wr64 Reg.wselAtBeat 0xFFFFFFFFFFFFFFFF (setFlip st r w)) (by decide)
  have hstatus : rd (wr64 Reg.wselAtBeat 0xFFFFFFFFFFFFFFFF (setFlip st r w)) Reg.flipStatus = rd (setFlip st r w) Reg.flipStatus :=
    rd_wr64_ne _ _ (by decide) (by decide)
  refine ⟨?_, ?_, ?_⟩
  · rw [overShown, hs, flipState_of_rd hstatus, flipState_setFlip r w hst]
  · rw [overShown, hf, rdF, hstatus]
    exact flipReason_setFlip st w hr
  · rw [overShown, rd64_of_rd (rd_wrB_ne _ _ _ (by decide)) (rd_wrB_ne _ _ _ (by decide)), rd64_wr64_same, Nat.mod_eq_of_lt (by norm_num)]

/-- Beside its registers, the end of a flip takes its data, its items and what it has asked of streams. -/
theorem flipOver_frame (st r : Nat) (w : W9) : (flipOver st r w).bar0 = (overShown st r w).bar0 ∧ (flipOver st r w).fields = w.fields ∧
    (flipOver st r w).wt = { w.wt with flip := none, muleRings := [], outstanding := [] } ∧ (flipOver st r w).serve.held = w.serve.held ∧
    (w.serve.streams = [] → (flipOver st r w).serve.streams = []) := by
  have heq : flipOver st r w = dropItems (dropParkAsks { overShown st r w with wt := { (overShown st r w).wt with flip := none } }) := rfl
  obtain ⟨hserve, hfields, hwt⟩ := overShown_frame st r w
  generalize overShown st r w = o at *
  obtain ⟨l, hl⟩ := dropParkAsks_only { o with wt := { o.wt with flip := none } }
  rw [heq]
  refine ⟨by rw [hl, dropItems], by rw [hl, dropItems, hfields], by rw [hl, dropItems, hwt], by rw [hl, dropItems, hserve], fun h => ?_⟩
  have hstreams : o.serve.streams = [] := (congrArg Serve.streams hserve).trans h
  have hdrop : dropParkAsks { o with wt := { o.wt with flip := none } } = { o with wt := { o.wt with flip := none } } := dropParkAsks_none hstreams
  rw [hdrop]
  exact hstreams

/-- What the end of a flip makes of its registers and its data. -/
structure FlipEnded (st r : Nat) (w w' : W9) : Prop where
  state : flipState w' = st
  reason : rdF w' Reg.flipStatus 7 4 = r
  wsel : rd64 w' Reg.wselAtBeat = 0xFFFFFFFFFFFFFFFF
  wt : w'.wt = { w.wt with flip := none, muleRings := [], outstanding := [] }
  held : w'.serve.held = w.serve.held
  streams : w.serve.streams = [] → w'.serve.streams = []
  fields : w'.fields = w.fields
  regs : ∀ off, off ≠ Reg.flipStatus → off ≠ Reg.wselAtBeat → off ≠ Reg.wselAtBeat + 4 → rd w' off = rd w off

theorem flipOver_ends {st r : Nat} (w : W9) (hst : st < 8) (hr : r < 16) : FlipEnded st r w (flipOver st r w) := by
  obtain ⟨hbar, hfields, hwt, hheld, hstreams⟩ := flipOver_frame st r w
  obtain ⟨hs, hf, hsel⟩ := overShown_shows w hst hr
  exact ⟨(flipState_of_rd (rd_of_bar0 hbar _)).trans hs, (rdF_of_bar0 hbar _ _ _).trans hf, (rd64_of_bar0 hbar _).trans hsel, hwt, hheld, hstreams,
    hfields, fun off h h1 h2 => (rd_of_bar0 hbar off).trans (rd_overShown st r w h h1 h2)⟩

/-- Events and messages: `w'` serves, holds weights and runs its fields as `w` does, and its registers below the ports are those of `w` but for
EVT_LOST and HOSTIF_ERR. -/
structure Aside (w w' : W9) : Prop where
  serve : w'.serve = w.serve
  wt : w'.wt = w.wt
  fields : w'.fields = w.fields
  regs : ∀ off, off < 0x2000000 → off ≠ Reg.evtLost → off ≠ Reg.hostifErr → rd w' off = rd w off

theorem Aside.trans {a b c : W9} (h : Aside a b) (k : Aside b c) : Aside a c :=
  ⟨k.serve.trans h.serve, k.wt.trans h.wt, k.fields.trans h.fields, fun off ho h1 h2 => (k.regs off ho h1 h2).trans (h.regs off ho h1 h2)⟩

theorem OnlyEvents.aside {w w' : W9} (h : OnlyEvents w w') : Aside w w' := ⟨h.serve, h.wt, h.fields, fun off _ => h.regs off⟩

theorem OnlyWire.aside {w w' : W9} (h : OnlyWire w w') : Aside w w' := ⟨h.serve, h.wt, h.fields, fun _ ho _ _ => h.rd_low ho⟩

section
variable {w w' : W9} (h : Aside w w')
include h

theorem Aside.flipStatus : rd w' Reg.flipStatus = rd w Reg.flipStatus := h.regs _ (by decide) (by decide) (by decide)
theorem Aside.modelVer : rd w' Reg.modelVer = rd w Reg.modelVer := h.regs _ (by decide) (by decide) (by decide)
theorem Aside.flipState : Machine.flipState w' = Machine.flipState w := flipState_of_rd h.flipStatus
theorem Aside.flipReason : rdF w' Reg.flipStatus 7 4 = rdF w Reg.flipStatus 7 4 := by rw [rdF, h.flipStatus, rdF]
theorem Aside.wselAtBeat : rd64 w' Reg.wselAtBeat = rd64 w Reg.wselAtBeat :=
  rd64_of_rd (h.regs _ (by decide) (by decide) (by decide)) (h.regs _ (by decide) (by decide) (by decide))
theorem Aside.wsetActive : rd64 w' Reg.wsetActive = rd64 w Reg.wsetActive :=
  rd64_of_rd (h.regs _ (by decide) (by decide) (by decide)) (h.regs _ (by decide) (by decide) (by decide))

theorem Aside.adState (n : Fin 64) : Machine.adState w' n = Machine.adState w n := by
  have hn := n.isLt
  rw [Machine.adState, rdF, h.regs _ (by simp only [Reg.adapterId]; omega) (by simp only [Reg.adapterId, Reg.evtLost]; omega)
    (by simp only [Reg.adapterId, Reg.hostifErr]; omega), Machine.adState, rdF]

end

theorem refuseHeld_none {w : W9} (h : w.serve.held = []) : refuseHeld w = w := by
  have hserve : { w.serve with held := [] } = w.serve := by rw [← h]
  simp only [refuseHeld, h, hserve]
  rfl

theorem admitHeld_none {w : W9} (h : w.serve.held = []) : admitHeld w = w := by
  have hserve : { w.serve with held := [] } = w.serve := by rw [← h]
  simp only [admitHeld, h, hserve]
  rfl

/-! ## ABORT without held requests and streams (R319) -/

theorem abortFlip_aborts {b : Byte} {w : W9} (hheld : w.serve.held = []) (hstreams : w.serve.streams = []) : let w' := abortFlip b w
    flipState w' = 6 ∧ w'.wt.flip = none ∧ w'.wt.muleRings = [] ∧ w'.wt.outstanding = [] ∧ rd w' Reg.modelVer = rd w Reg.modelVer ∧
    rd64 w' Reg.wselAtBeat = 0xFFFFFFFFFFFFFFFF := by
  have hend := flipOver_ends (st := 6) (r := 0) w (by decide) (by decide)
  have hev := (flipStopped_events b (flipOver 6 0 w)).aside
  have hrefuse : refuseHeld (flipStopped b (flipOver 6 0 w)) = flipStopped b (flipOver 6 0 w) := refuseHeld_none (by rw [hev.serve, hend.held, hheld])
  have hres : resumable (flipStopped b (flipOver 6 0 w)) = [] := by
    rw [resumable, busyStreams_none (by rw [hev.serve, hend.streams hstreams]), List.filter_nil, ite_self]
  have habort : abortFlip b w = flipStopped b (flipOver 6 0 w) := by
    simp only [abortFlip, hrefuse, hres]
    rfl
  intro w'
  have hw : w' = _ := habort
  rw [hw, hev.flipState, hev.wt, hev.modelVer, hev.wselAtBeat, hend.wt]
  exact ⟨hend.state, rfl, rfl, rfl, hend.regs _ (by decide) (by decide) (by decide), hend.wsel⟩

/-! ## FLIP_BUILD_COMPLETE -/

theorem flipBuilt_waits {w : W9} (h : flipState w ≠ 1 ∨ itemsDone w = false) : flipBuilt w = w :=
  if_neg fun ⟨h1, hd⟩ => h.elim (fun hn => hn h1) fun hn => by simp [hn] at hd

theorem flipBuilt_drains {w : W9} (h : flipState w = 1) (hd : itemsDone w = true) : let w' := flipBuilt w
    flipState w' = 2 ∧ w' = { w with bar0 := w'.bar0 } ∧ ∀ off, off ≠ Reg.flipStatus → rd w' off = rd w off := by
  have heq : flipBuilt w = setFlip 2 0 w := if_pos ⟨h, hd⟩
  rw [heq]
  exact ⟨flipState_setFlip _ _ (by decide), rfl, fun off ho => rd_setFlip_ne _ _ _ ho⟩

/-! ## FLIP_DRAIN_EXPIRED (R314) -/

/-- A stream is asked to park. -/
def askPark (x : StreamIx) (w : W9) : W9 := modStream x (fun t => { t with parkAsked := true }) w

theorem streamOf_asked (x : StreamIx) : ∀ (l : List StreamIx) (w : W9),
    streamOf (forEach l askPark w) x = if x ∈ l then { streamOf w x with parkAsked := true } else streamOf w x
  | [], _ => rfl
  | y :: l, w => by
    have ih : streamOf (forEach (y :: l) askPark w) x = _ := streamOf_asked x l (askPark y w)
    rw [ih]
    by_cases h : x = y
    · subst h
      simp [askPark]
    · simp [askPark, streamOf_modStream_ne _ _ h, h]

/-- The drain's time is over. -/
def drainDue (f : Flip) (w : W9) : Prop := flipState w = 2 ∧ f.drainPassed = false ∧ f.started + (rd w Reg.flipDrain).toNat ≤ w.dev.time

section
variable {w : W9} {f : Flip} (hf : w.wt.flip = some f)
include hf

theorem drainExpired_early (h : ¬ drainDue f w) : drainExpired w = w := by
  simp only [drainExpired, hf]
  exact if_neg fun ⟨hs, hp, ht⟩ => h ⟨hs, by simpa using hp, ht⟩

theorem drainExpired_asks (h : drainDue f w) : let w' := drainExpired w
    w'.wt.flip = some { f with drainPassed := true } ∧ w'.serve.queue = w.serve.queue ∧
    ∀ x, streamOf w' x = if x ∈ draining w false then { streamOf w x with parkAsked := true } else streamOf w x := by
  obtain ⟨hs, hp, ht⟩ := h
  have heq : drainExpired w = raise0 0x6021 srcSteward (le 2 (draining w false).length)
      (forEach (draining w false) askPark { w with wt := { w.wt with flip := some { f with drainPassed := true } } }) := by
    simp only [drainExpired, hf]
    exact if_pos ⟨hs, by simp [hp], ht⟩
  rw [heq]
  have hev := raise0_step 0x6021 srcSteward (le 2 (draining w false).length)
    (forEach (draining w false) askPark { w with wt := { w.wt with flip := some { f with drainPassed := true } } })
  refine ⟨?_, ?_, fun x => ?_⟩
  · rw [hev.wt, forEach_frame (·.wt) askPark (fun _ _ => rfl)]
  · rw [hev.serve, forEach_frame (·.serve.queue) askPark (fun _ _ => rfl)]
  · rw [streamOf, hev.serve]
    exact streamOf_asked x _ _

end

/-! ## The pulses of a refill -/

/-- A refill withholds a field's pulses, or gives them back. -/
def withheldFor (b : Bool) (x : FieldS) : FieldS := { x with withheld := { x.withheld with refill := b } }

theorem setRefill_only (b : Bool) (w : W9) : setRefill b w = { w with fields := (setRefill b w).fields } := by
  refine forEach_keeps (fun u => u = { w with fields := u.fields }) _ (fun g u hu => ?_) _ _ rfl
  rw [hu]
  rfl

theorem fieldState_setRefill (b : Bool) (w : W9) (i : FieldIx) : fieldState (setRefill b w) i = withheldFor b (fieldState w i) := by
  obtain ⟨u, hu, -, hres⟩ := forEach_turn (step := fun f => modField f (withheldFor b)) (Inv := fun _ => True)
    (fun f w _ => oneField_modField f (withheldFor b) w) (fun _ _ _ => trivial) allFields_nodup (mem_allFields i) (w := w) trivial
  have hset : setRefill b w = forEach allFields (fun f => modField f (withheldFor b)) w := rfl
  rw [hset, hres.field, fieldState_modField_same, hu.field]

theorem fieldState_of_fields {w w' : W9} (h : w'.fields = w.fields) (i : FieldIx) : fieldState w' i = fieldState w i := by
  rw [fieldState, h, fieldState]

@[simp] theorem setRefill_wt (b : Bool) (w : W9) : (setRefill b w).wt = w.wt := by rw [setRefill_only]
@[simp] theorem setRefill_serve (b : Bool) (w : W9) : (setRefill b w).serve = w.serve := by rw [setRefill_only]
@[simp] theorem setRefill_img (b : Bool) (w : W9) : (setRefill b w).img = w.img := by rw [setRefill_only]
@[simp] theorem setRefill_pair (b : Bool) (w : W9) : (setRefill b w).pair = w.pair := by rw [setRefill_only]
@[simp] theorem setRefill_bar0 (b : Bool) (w : W9) : (setRefill b w).bar0 = w.bar0 := by rw [setRefill_only]
@[simp] theorem rd_setRefill (b : Bool) (w : W9) (off : Nat) : rd (setRefill b w) off = rd w off := rd_of_bar0 (setRefill_bar0 b w) off

/-! ## FLIP_DRAIN_COMPLETE (R317, R318) -/

/-- Nothing of this W9 runs with the version in force, and the beat of the switch is not yet named. -/
def drainOver (f : Flip) (w : W9) : Prop :=
  flipState w = 2 ∧ draining w false = [] ∧ draining w true = [] ∧ ownSlots w = false ∧ f.switchBeat = none

/-- The flip is past its commit point. -/
def pastCommit (f : Flip) (w : W9) : W9 := { w with wt := { w.wt with flip := some { f with committed := true } } }

/-- The refill is due, and no field has pulses. -/
def refillSet (f : Flip) (w : W9) : W9 := setRefill true (setFlip 3 0 (pastCommit f w))

theorem refillSet_frame (f : Flip) (w : W9) : (refillSet f w).pair = w.pair ∧ (refillSet f w).img = w.img ∧ (refillSet f w).serve = w.serve ∧
    (refillSet f w).wt = (pastCommit f w).wt := by
  refine ⟨?_, ?_, ?_, ?_⟩
  · rw [refillSet, setRefill_pair, setFlip, wrF_pair, wrF_pair, pastCommit]
  · rw [refillSet, setRefill_img, setFlip, wrF_img, wrF_img, pastCommit]
  · rw [refillSet, setRefill_serve, setFlip, wrF_serve, wrF_serve, pastCommit]
  · rw [refillSet, setRefill_wt, setFlip, wrF_wt, wrF_wt]

theorem rd_refillSet {off : Nat} (f : Flip) (w : W9) (h : off ≠ Reg.flipStatus) : rd (refillSet f w) off = rd w off := by
  rw [refillSet, rd_setRefill, rd_setFlip_ne _ _ _ h]
  exact rd_of_bar0 rfl off

theorem startRefill_starts {f : Flip} {w : W9} {g : FarLayout} (hsh : w.pair.shadows = []) (hfar : farOf w = some g) (hg : g.refill ≠ []) :
    startRefill f w = refillSet f w := by
  obtain ⟨hpair, himg, -, -⟩ := refillSet_frame f w
  have hshadows : endShadows (refillSet f w) = refillSet f w := by
    rw [endShadows, hpair, hsh, forEach, List.foldl_nil]
  have hfar' : farOf (refillSet f w) = some g := (farOf_of himg (rd_refillSet f w (by decide))).trans hfar
  rw [startRefill]
  dsimp only
  rw [← pastCommit, ← refillSet, hshadows, hfar']
  exact if_neg (mt List.length_eq_zero_iff.mp hg)

theorem refillSet_sets (f : Flip) (w : W9) : let w' := refillSet f w
    w'.wt.flip = some { f with committed := true } ∧ flipState w' = 3 ∧ w'.serve = w.serve ∧ ∀ i, fieldState w' i = withheldFor true (fieldState w i) := by
  obtain ⟨-, -, hserve, hwt⟩ := refillSet_frame f w
  refine ⟨congrArg WeightS.flip hwt, ?_, hserve, fun i => ?_⟩
  · rw [refillSet, flipState_of_rd (rd_setRefill _ _ _), flipState_setFlip _ _ (by decide)]
  · rw [refillSet, fieldState_setRefill]
    rfl

section
variable {w : W9} {f : Flip} (hf : w.wt.flip = some f)
include hf

theorem drainComplete_waits (h : ¬ drainOver f w) : drainComplete w = w := by
  simp only [drainComplete, hf]
  exact if_neg fun ⟨hs, h0, h1, ho, hb⟩ => h ⟨hs, by simpa using h0, by simpa using h1, by simpa using ho, by simpa using hb⟩

variable (h : drainOver f w)
include h

theorem drainComplete_acts : drainComplete w = if secondCopy w then wr64 Reg.wselAtBeat (rd64 w Reg.beatCount + 1)
    { w with wt := { w.wt with flip := some { f with switchBeat := some (rd64 w Reg.beatCount + 1) } } } else startRefill f w := by
  obtain ⟨hs, h0, h1, ho, hb⟩ := h
  simp only [drainComplete, hf]
  exact if_pos ⟨hs, by simp [h0], by simp [h1], by simp [ho], by simp [hb]⟩

theorem drainComplete_names (hc : secondCopy w = true) : let w' := drainComplete w
    w'.wt.flip = some { f with switchBeat := some (rd64 w Reg.beatCount + 1) } ∧
    rd64 w' Reg.wselAtBeat = (rd64 w Reg.beatCount + 1) % 2 ^ 64 ∧ flipState w' = 2 ∧ w'.serve = w.serve := by
  rw [drainComplete_acts hf h, if_pos hc]
  exact ⟨rfl, rd64_wr64_same _ _ _, (flipState_of_rd (rd_wr64_ne _ _ (by decide) (by decide))).trans h.1, wr64_serve _ _ _⟩

theorem drainComplete_refills {g : FarLayout} (hc : secondCopy w = false) (hsh : w.pair.shadows = []) (hfar : farOf w = some g) (hg : g.refill ≠ []) :
    drainComplete w = refillSet f w := by
  rw [drainComplete_acts hf h, hc, if_neg Bool.false_ne_true, startRefill_starts hsh hfar hg]

end

/-! ## FLIP_COMMIT (R314, R321) -/

/-- A CURRENT adapter retires. -/
def retireStep (n : Fin 64) (w : W9) : W9 := if adState w n = 2 then adSettle n (wrF (Reg.adapterId n.val) 1 0 3 w) else w

theorem retireStep_retires (n : Fin 64) (w : W9) : adState (retireStep n w) n ≠ 2 := by
  unfold retireStep
  split
  · have h3 : adState (wrF (Reg.adapterId n.val) 1 0 3 w) n = 3 := rdF_wrF_same _ _ _ _ _ (by decide) (by decide)
    rw [adState_adSettle, h3]
    split <;> decide
  · assumption

theorem retireStep_others {m n : Fin 64} (w : W9) (h : m ≠ n) : adState (retireStep n w) m = adState w m := by
  unfold retireStep
  split
  · rw [adState, rdF, (adSettle_frame n _).1 _ (adapterReg_slot m).1 (adapterId_inj h) (adapterId_ne_adapterVer m n), rd_wrF_ne _ _ _ _ (adapterId_inj h),
      adState, rdF]
  · rfl

/-- No adapter of the list is CURRENT once each has had its turn. -/
theorem retireSteps_retire {m : Fin 64} : ∀ (l : List (Fin 64)) (w : W9), m ∈ l ∨ adState w m ≠ 2 → adState (forEach l retireStep w) m ≠ 2
  | [], _, h => h.resolve_left List.not_mem_nil
  | n :: l, w, h => by
    refine retireSteps_retire l (retireStep n w) ?_
    by_cases hm : m = n
    · subst hm
      exact .inr (retireStep_retires m w)
    · rw [retireStep_others w hm]
      exact h.imp_left fun hmem => (List.mem_cons.mp hmem).resolve_left hm

theorem retireAdapters_retires (w : W9) (n : Fin 64) : adState (retireAdapters w) n ≠ 2 := by
  have heq : retireAdapters w = writeAdapterTable (forEach (List.finRange 64) retireStep w) := rfl
  rw [heq, (sameAdapters_writeAdapterTable _).adState]
  exact retireSteps_retire _ w (.inl (List.mem_finRange n))

theorem retireAdapters_upkeep (w : W9) : Upkeep w.serve w (retireAdapters w) :=
  .wire (.forEach (fun n _ h => .ite (.adSettle (.wrF h (upkeepReg_adapter n).1)) h) (.refl w)) (writeAdapterTable_wire _)

/-- The version and the set of the flip are in force, and no adapter is CURRENT. -/
def inForce (f : Flip) (w : W9) : W9 := retireAdapters (wr64 Reg.wsetActive f.set.toNat (wr Reg.modelVer f.version w))

theorem inForce_forces (f : Flip) (w : W9) : let w' := inForce f w
    rd w' Reg.modelVer = f.version ∧ rd64 w' Reg.wsetActive = f.set.toNat ∧ w'.serve = w.serve ∧ w'.fields = w.fields ∧ ∀ n, adState w' n ≠ 2 := by
  have hup := retireAdapters_upkeep (wr64 Reg.wsetActive f.set.toNat (wr Reg.modelVer f.version w))
  refine ⟨?_, ?_, hup.serve, hup.fields, retireAdapters_retires _⟩
  · exact (hup.regs _ (by decide)).trans ((rd_wr64_ne _ _ (by decide) (by decide)).trans (rd_wr_same _ _ _))
  · exact (hup.rd64 (by decide) (by decide)).trans ((rd64_wr64_same _ _ _).trans (Nat.mod_eq_of_lt f.set.isLt))

/-- The incoming header is the active one, and event 0x6022 is raised. -/
def committedWith (f : Flip) (w : W9) : W9 :=
  raise0 0x6022 srcSteward (le 4 f.oldVer.toNat ++ le 4 f.version.toNat ++ le 8 f.started) { w with wt := { w.wt with active := some f.header } }

theorem flipCommit_commits {w : W9} {f : Flip} (hf : w.wt.flip = some f) (hheld : w.serve.held = []) : let w' := flipCommit w
    rd w' Reg.modelVer = f.version ∧ rd64 w' Reg.wsetActive = f.set.toNat ∧ w'.wt.active = some f.header ∧ w'.wt.flip = none ∧ flipState w' = 4 ∧
    w'.fields = w.fields ∧ ∀ n, adState w' n ≠ 2 := by
  obtain ⟨hver, hset, hserve, hfields, had⟩ := inForce_forces f w
  have heq : flipCommit w = admitHeld (writeHeader (flipOver 4 0 (committedWith f (inForce f w)))) := by
    simp only [flipCommit, hf]
    rfl
  generalize inForce f w = u at *
  have hev : Aside { u with wt := { u.wt with active := some f.header } } (committedWith f u) := (raise0_step _ _ _ _).aside
  generalize committedWith f u = v at *
  have hend := flipOver_ends (st := 4) (r := 0) v (by decide) (by decide)
  have hout := (writeHeader_wire (flipOver 4 0 v)).aside
  rw [admitHeld_none (by rw [hout.serve, hend.held, hev.serve]; exact (congrArg Serve.held hserve).trans hheld)] at heq
  intro w'
  have hw : w' = _ := heq
  rw [hw]
  refine ⟨?_, ?_, ?_, ?_, hout.flipState.trans hend.state, ?_, fun n => ?_⟩
  · exact hout.modelVer.trans ((hend.regs _ (by decide) (by decide) (by decide)).trans (hev.modelVer.trans hver))
  · exact hout.wsetActive.trans ((rd64_of_rd (hend.regs _ (by decide) (by decide) (by decide)) (hend.regs _ (by decide) (by decide) (by decide))).trans
      (hev.wsetActive.trans hset))
  · rw [hout.wt, hend.wt, hev.wt]
  · rw [hout.wt, hend.wt]
  · rw [hout.fields, hend.fields, hev.fields]
    exact hfields
  · have hn := n.isLt
    have hover : adState (flipOver 4 0 v) n = adState v n := by
      rw [adState, rdF, hend.regs _ (by simp only [Reg.adapterId, Reg.flipStatus]; omega) (by simp only [Reg.adapterId, Reg.wselAtBeat]; omega)
        (by simp only [Reg.adapterId, Reg.wselAtBeat]; omega), adState, rdF]
    rw [hout.adState, hover, hev.adState]
    exact had n

/-! ## REFILL_ENTRY_DONE (R318) -/

section
variable {w : W9} {f : Flip} (hf : w.wt.flip = some f)
include hf

theorem refillEntryDone_other {d : Bool} (h : flipState w ≠ 3) : refillEntryDone d w = w := by
  simp only [refillEntryDone, hf, if_pos h]

variable (h : flipState w = 3)
include h

theorem refillEntryDone_damaged : refillEntryDone true w =
    if f.retried then refillFailed w else { w with wt := { w.wt with flip := some { f with retried := true } } } := by
  simp only [refillEntryDone, hf, h, ne_eq, not_true_eq_false, if_false, if_true]

/-- The W9 in which an entry is refilled. -/
def entryRefilled (f : Flip) (w : W9) : W9 :=
  wrF Reg.flipProgress 31 16 (f.entry + 1) { w with wt := { w.wt with flip := some { f with entry := f.entry + 1, retried := false } } }

theorem refillEntryDone_done {g : FarLayout} (hfar : farOf w = some g) : refillEntryDone false w =
    if g.refill.length ≤ f.entry + 1 then flipCommit (setRefill false (entryRefilled f w)) else entryRefilled f w := by
  simp only [refillEntryDone, hf, h, hfar, ne_eq, not_true_eq_false, if_false, Bool.false_eq_true]
  rfl

theorem refillEntryDone_next {g : FarLayout} (hfar : farOf w = some g) (hn : f.entry + 1 < g.refill.length) (hlt : f.entry + 1 < 65536) :
    let w' := refillEntryDone false w
    w'.wt.flip = some { f with entry := f.entry + 1, retried := false } ∧ rdF w' Reg.flipProgress 31 16 = f.entry + 1 ∧ flipState w' = 3 ∧
    w'.serve = w.serve ∧ w'.fields = w.fields := by
  rw [refillEntryDone_done hf h hfar, if_neg (Nat.not_le.mpr hn)]
  refine ⟨rfl, (rdF_wrF_same _ _ _ _ _ (by decide) (by decide)).trans (Nat.mod_eq_of_lt hlt), ?_, rfl, rfl⟩
  exact (flipState_of_rd (rd_wrF_ne _ _ _ _ (by decide))).trans h

theorem refillEntryDone_last {g : FarLayout} (hfar : farOf w = some g) (hn : g.refill.length ≤ f.entry + 1) (hheld : w.serve.held = []) :
    let w' := refillEntryDone false w
    rd w' Reg.modelVer = f.version ∧ rd64 w' Reg.wsetActive = f.set.toNat ∧ w'.wt.active = some f.header ∧ w'.wt.flip = none ∧ flipState w' = 4 ∧
    (∀ i, (fieldState w' i).withheld.refill = false) ∧ ∀ n, adState w' n ≠ 2 := by
  rw [refillEntryDone_done hf h hfar, if_pos hn]
  have hflip : (setRefill false (entryRefilled f w)).wt.flip = some { f with entry := f.entry + 1, retried := false } := by
    rw [setRefill_wt]
    rfl
  have hheld' : (setRefill false (entryRefilled f w)).serve.held = [] := by
    rw [setRefill_serve]
    exact hheld
  obtain ⟨hver, hset, hactive, hnone, hstate, hfields, had⟩ := flipCommit_commits hflip hheld'
  refine ⟨hver, hset, hactive, hnone, hstate, fun i => ?_, had⟩
  rw [fieldState_of_fields hfields, fieldState_setRefill, withheldFor]

end

/-- A refill that fails leaves no version in force. -/
theorem refillFailed_fails {w : W9} (hheld : w.serve.held = []) : let w' := refillFailed w
    flipState w' = 5 ∧ rdF w' Reg.flipStatus 7 4 = 2 ∧ rd w' Reg.modelVer = 0 ∧ w'.wt.flip = none := by
  have hend := flipOver_ends (st := 5) (r := 2) w (by decide) (by decide)
  have hout : Aside (wr Reg.modelVer 0 (flipOver 5 2 w)) (flipStopped 2 (writeHeader (wr Reg.modelVer 0 (flipOver 5 2 w)))) :=
    (writeHeader_wire _).aside.trans (flipStopped_events _ _).aside
  have heq : refillFailed w = flipStopped 2 (writeHeader (wr Reg.modelVer 0 (flipOver 5 2 w))) :=
    refuseHeld_none (by rw [hout.serve, wr_serve, hend.held, hheld])
  have hstatus : rd (wr Reg.modelVer 0 (flipOver 5 2 w)) Reg.flipStatus = rd (flipOver 5 2 w) Reg.flipStatus := rd_wr_ne _ _ (by decide)
  intro w'
  have hw : w' = _ := heq
  rw [hw]
  refine ⟨hout.flipState.trans ((flipState_of_rd hstatus).trans hend.state), hout.flipReason.trans ?_, hout.modelVer.trans (rd_wr_same _ _ _), ?_⟩
  · rw [rdF, hstatus]
    exact hend.reason
  · rw [hout.wt, wr_wt, hend.wt]

/-! ## STREAM_PARK (R320) -/

/-- What parking makes of a stream. -/
def parked (x : Stream) : Stream :=
  { x with state := .parked, parkAsked := false, parkedIn := if x.state = .prefill then .prefill else .decode }

/-- The stream's chunks and blocks are given up. -/
def parkCleared (x : StreamIx) (w : W9) : W9 :=
  { w with serve := { w.serve with queue := w.serve.queue.filter (fun c => !(c.stream == x)) }
           kv := { w.kv with held := w.kv.held.filter (fun e => !(e.1 == x)) } }

theorem streamPark_parks {x : StreamIx} {w : W9} (h : parkReady w x = true) : let w' := streamPark x w
    streamOf w' x = parked (streamOf w x) ∧ w'.serve.queue = w.serve.queue.filter (fun c => !(c.stream == x)) ∧
    (∀ y, y ≠ x → streamOf w' y = streamOf w y) ∧ rdF w' Reg.flipProgress 15 0 = (rdF w Reg.flipProgress 15 0 + 1) % 2 ^ 16 := by
  have heq : streamPark x w = raiseS 0x6024 srcSteward x (le 4 (streamOf w x).length)
      (wrF Reg.flipProgress 15 0 (rdF (putStream x parked (parkCleared x w)) Reg.flipProgress 15 0 + 1) (putStream x parked (parkCleared x w))) := if_pos h
  have hput := putStream_wire x parked (parkCleared x w)
  have hsame := streamOf_putStream_same x parked (parkCleared x w)
  have hne := fun y (hy : y ≠ x) => streamOf_putStream_ne parked (parkCleared x w) hy
  intro w'
  have hw : w' = _ := heq
  rw [hw]
  generalize putStream x parked (parkCleared x w) = u at *
  have hev := raiseS_step 0x6024 srcSteward x (le 4 (streamOf w x).length) (wrF Reg.flipProgress 15 0 (rdF u Reg.flipProgress 15 0 + 1) u)
  have hprog : rdF u Reg.flipProgress 15 0 = rdF w Reg.flipProgress 15 0 := by
    rw [rdF, hput.rd_low (by decide)]
    rfl
  refine ⟨?_, ?_, fun y hy => ?_, ?_⟩
  · rw [streamOf, hev.serve]
    exact hsame
  · rw [hev.serve, wrF, wr_serve, hput.serve]
    rfl
  · rw [streamOf, hev.serve]
    exact hne y hy
  · rw [rdF_ev hev _ _ _ (by decide) (by decide), rdF_wrF_same _ _ _ _ _ (by decide) (by decide), hprog]

theorem streamPark_waits {x : StreamIx} {w : W9} (h : parkReady w x = false) : streamPark x w = w := if_neg (by simp [h])

/-- Settles O46: START by `flipBegin_begins`, ABORT by `abortFlip_aborts`, the drain by `drainExpired_asks` and `drainComplete_acts`, parking by
`streamPark_parks`, the refill by `refillEntryDone_next`, `refillFailed_fails` and `flipCommit_commits`. -/
theorem flipsDrainAndCommit : Obligations.FlipsDrainAndCommit := by
  unfold Obligations.FlipsDrainAndCommit
  refine ⟨fun s m => ⟨fun h => ⟨?_, ?_⟩, fun hopen h => ?_, fun hopen h => ?_, fun hopen hidle hrun => ⟨fun h => ?_, fun hd h0 hcur hset => ?_⟩,
    fun hopen hfl hc hheld hstreams => ?_⟩, fun s => ⟨fun h => ?_, fun h hd => ?_, fun h => ⟨?_, ?_, fun d => ?_⟩,
    fun f hf => ⟨⟨fun h => ?_, fun h => ?_⟩, ⟨fun h => ?_, fun h hc => ?_, fun g h hc hsh hfar hg => ?_⟩, fun h d => ?_, fun h hr => ?_,
    fun h hr hheld => ?_, fun g h hfar hn hlt => ?_, fun g h hfar hn hheld => ?_⟩⟩, fun s x => ⟨fun h => ?_, fun h => ?_⟩⟩
  · exact exec_of_lift_same (f := flipStart m) rfl (flipStart_closed h)
  · exact exec_of_lift_same (f := flipAbort) rfl (flipAbort_closed h)
  · exact yields_of_lift (flipStart m) rfl (by rw [flipStart_rejected hopen h]; exact flipReject_rejects s.w)
  · exact yields_of_lift flipAbort rfl (by rw [flipAbort_rejected hopen h]; exact flipReject_rejects s.w)
  · exact yields_of_lift (flipStart m) rfl (by rw [flipStart_refused hopen hidle hrun h]; exact flipRefused_fails s.w)
  · exact yields_of_lift (flipStart m) rfl (by rw [flipStart_begins hopen hidle hrun h0 hcur hset]; exact flipBegin_begins _ _ _ _)
  · exact yields_of_lift flipAbort rfl (by rw [flipAbort_aborts hopen hfl hc]; exact abortFlip_aborts hheld hstreams)
  · exact exec_of_lift_same (f := flipBuilt) rfl (flipBuilt_waits h)
  · exact yields_of_lift flipBuilt rfl (flipBuilt_drains h hd)
  · exact exec_of_lift_same (f := drainExpired) rfl (by simp only [drainExpired, h])
  · exact exec_of_lift_same (f := drainComplete) rfl (by simp only [drainComplete, h])
  · exact exec_of_lift_same (f := refillEntryDone d) rfl (by simp only [refillEntryDone, h])
  · exact exec_of_lift_same (f := drainExpired) rfl (drainExpired_early hf h)
  · exact yields_of_lift drainExpired rfl (drainExpired_asks hf h)
  · exact exec_of_lift_same (f := drainComplete) rfl (drainComplete_waits hf h)
  · exact yields_of_lift drainComplete rfl (drainComplete_names hf h hc)
  · exact yields_of_lift drainComplete rfl (by rw [drainComplete_refills hf h hc hsh hfar hg]; exact refillSet_sets f s.w)
  · exact exec_of_lift_same (f := refillEntryDone d) rfl (refillEntryDone_other hf h)
  · exact exec_of_lift_eq (f := refillEntryDone true) rfl ((refillEntryDone_damaged hf h).trans (by rw [hr, if_neg Bool.false_ne_true]))
  · exact yields_of_lift (refillEntryDone true) rfl (by rw [refillEntryDone_damaged hf h, hr, if_pos rfl]; exact refillFailed_fails hheld)
  · exact yields_of_lift (refillEntryDone false) rfl (refillEntryDone_next hf h hfar hn hlt)
  · exact yields_of_lift (refillEntryDone false) rfl (refillEntryDone_last hf h hfar hn hheld)
  · exact exec_of_lift_same (f := streamPark x) rfl (streamPark_waits h)
  · exact yields_of_lift (streamPark x) rfl (streamPark_parks h)

end Sys2Proof.Machine
end

section
/-! SUPPORT. Time broadcasts, plan words and freezes (R350, R432, R436, R437). -/

namespace Sys2Proof.Machine

open Sys2Proof

set_option Elab.async false

/-! ## TIME_BROADCAST (R436, R437) -/

/-- The W9 with the correction of one domain's sampled copy. -/
def copyMoved (d : Nat) (x : Int) (w : W9) : W9 :=
  { w with dev := { w.dev with copies := smPut (fun _ => 0) w.dev.copies d (corrected x) } }

/-- What a copy outside its bound shows: PWR_ERR.TIME, and TIME_ERR of a field's copy. -/
def copyShown (d : Nat) (x : Int) (w : W9) : W9 :=
  if d < 48 then wr (Reg.timeErr d) (signedBits 32 x) (wrB Reg.pwrErr 2 true w) else wrB Reg.pwrErr 2 true w

theorem timeBroadcast_within {d : Nat} {x : Int} (w : W9) (hlo : -(copyBound d) ≤ x) (hhi : x ≤ copyBound d) :
    timeBroadcast [(d, x)] w = copyMoved d x w := if_neg (not_or.mpr ⟨not_lt.mpr hlo, not_lt.mpr hhi⟩)

theorem timeBroadcast_outside {d : Nat} {x : Int} (w : W9) (h : x < -(copyBound d) ∨ copyBound d < x) :
    OnlyEvents (copyShown d x (copyMoved d x w)) (timeBroadcast [(d, x)] w) := by
  have heq : timeBroadcast [(d, x)] w = raise0 0xA003 (if d < 48 then srcField (Fin.ofNat 48 d) else srcSteward) (le32s x)
      (copyShown d x (copyMoved d x w)) := if_pos h
  rw [heq]
  exact raise0_step ..

theorem copyShown_eq (d : Nat) (x : Int) (w : W9) : copyShown d x w = { w with bar0 := (copyShown d x w).bar0 } := by
  unfold copyShown
  split <;> rfl

theorem copyShown_pwrErr (d : Nat) (x : Int) (w : W9) : rdB (copyShown d x w) Reg.pwrErr 2 = true := by
  have hset : rdB (wrB Reg.pwrErr 2 true w) Reg.pwrErr 2 = true := rdB_wrB_same _ _ _ _ (by decide)
  unfold copyShown
  split
  · rwa [rdB_wr_ne' _ _ _ (by simp only [Reg.pwrErr, Reg.timeErr]; omega)]
  · exact hset

theorem copyShown_timeErr {d : Nat} (x : Int) (w : W9) (hd : d < 48) : rd (copyShown d x w) (Reg.timeErr d) = BitVec.ofInt 32 x := by
  rw [copyShown, if_pos hd, rd_wr_same, signedBits]

theorem copyMoved_same (d : Nat) (x : Int) (w : W9) : smGet (fun _ => 0) (copyMoved d x w).dev.copies d =
    (if x < 0 then min 0 (x + 128) else max 0 (x - 1024)) := smGet_smPut_same ..

/-- A copy outside its bound is corrected and reported; device time stays. -/
theorem timeBroadcast_reports {d : Nat} {x : Int} (w : W9) (h : x < -(copyBound d) ∨ copyBound d < x) : let w' := timeBroadcast [(d, x)] w
    smGet (fun _ => 0) w'.dev.copies d = (if x < 0 then min 0 (x + 128) else max 0 (x - 1024)) ∧
    rdB w' Reg.pwrErr 2 = true ∧ (d < 48 → rd w' (Reg.timeErr d) = BitVec.ofInt 32 x) ∧
    w'.dev.time = w.dev.time ∧ w'.page = w.page ∧ w'.mem = w.mem ∧ w'.tiles = w.tiles ∧ w'.serve = w.serve := by
  have hev := timeBroadcast_outside w h
  have hshown := copyShown_eq d x (copyMoved d x w)
  refine ⟨?_, ?_, fun hd => ?_, ?_, ?_, ?_, ?_, ?_⟩
  · rw [hev.dev_copies, hshown]
    exact copyMoved_same d x w
  · rw [hev.rdB _ _ (by decide) (by decide)]
    exact copyShown_pwrErr ..
  · rw [hev.regs _ (by simp only [Reg.timeErr, Reg.evtLost]; omega) (by simp only [Reg.timeErr, Reg.hostifErr]; omega)]
    exact copyShown_timeErr _ _ hd
  · rw [hev.dev_time, hshown, copyMoved]
  · rw [hev.page, hshown, copyMoved]
  · rw [hev.mem, hshown, copyMoved]
  · rw [hev.tiles, hshown, copyMoved]
  · rw [hev.serve, hshown, copyMoved]

/-! ## BEAT_PLAN_WORD (R432) -/

theorem beatPlanWord_early {lead : Nat} (w : W9) (h : 64 ≤ lead) : beatPlanWord lead w =
    { w with serve := { w.serve with plan := some (stretchFor w (pairBeat w + 1)) } } := if_pos h

theorem beatPlanWord_late {lead : Nat} (w : W9) (h : lead < 64) : beatPlanWord lead w =
    { w with serve := { w.serve with planNext := some (stretchFor w (pairBeat w + 2)) } } := if_neg (by omega)

/-! ## Withholding pulses for a freeze (R350) -/

/-- One field withholds its pulses for a freeze, or gives them back. -/
def freezeStep (b : Bool) (f : FieldIx) (w : W9) : W9 :=
  showHeld f (modField f (fun x => { x with withheld := { x.withheld with freeze := b } }) w)

theorem freezeStep_oneField (b : Bool) (f : FieldIx) (w : W9) : OneField f w (freezeStep b f w) :=
  (oneField_modField f _ w).trans (oneField_showHeld f _)

theorem freezeStep_freeze (b : Bool) (f : FieldIx) (w : W9) : (fieldState (freezeStep b f w) f).withheld.freeze = b := by
  rw [freezeStep, showHeld, fieldState_wrB, fieldState_modField_same]

theorem setFreeze_only (b : Bool) (w : W9) : FieldsOnly w (setFreeze b w) :=
  forEach_fieldsOnly (Inv := fun _ => True) (fun f w _ => freezeStep_oneField b f w) (fun _ _ _ => trivial) allFields w trivial

theorem setFreeze_freeze (b : Bool) (w : W9) (f : FieldIx) : (fieldState (setFreeze b w) f).withheld.freeze = b := by
  obtain ⟨u, -, -, hturn⟩ := forEach_turn (Inv := fun _ => True) (fun f w _ => freezeStep_oneField b f w) (fun _ _ _ => trivial)
    allFields_nodup (mem_allFields f) (w := w) trivial
  have hres : OtherFields f (freezeStep b f u) (setFreeze b w) := hturn
  rw [hres.field, freezeStep_freeze]

/-! ## FREEZE_BEGIN (R350, R352) -/

theorem freezeBegin_none {w : W9} (h : w.dbg.freezeDue = false) : freezeBegin w = w := if_neg (by simp [h])

/-- Every field withholds its pulses for the freeze that was due, which is due no more. -/
def fieldsFrozen (w : W9) : W9 := setFreeze true { w with dbg := { w.dbg with freezeDue := false } }

/-- DBG_STATUS tells of the freeze and of whose it is. -/
def freezeBegun (w : W9) : W9 := wrB Reg.dbgStatus 29 w.dbg.freezeTwin (wrB Reg.dbgStatus 30 true (fieldsFrozen w))

theorem fieldsFrozen_only (w : W9) : FieldsOnly { w with dbg := { w.dbg with freezeDue := false } } (fieldsFrozen w) := setFreeze_only ..

theorem fieldsFrozen_freeze (w : W9) (f : FieldIx) : (fieldState (fieldsFrozen w) f).withheld.freeze = true := by
  rw [fieldsFrozen, setFreeze_freeze]

theorem twoBits_eq (off i j : Nat) (b c : Bool) (w : W9) :
    wrB off i b (wrB off j c w) = { w with bar0 := (wrB off i b (wrB off j c w)).bar0 } := rfl

theorem freezeBegun_fields (w : W9) : (freezeBegun w).fields = (fieldsFrozen w).fields := by
  rw [freezeBegun, wrB_fields, wrB_fields]

theorem freezeBegun_eq (w : W9) : freezeBegun w =
    { w with bar0 := (freezeBegun w).bar0, fields := (freezeBegun w).fields, dbg := { w.dbg with freezeDue := false } } := by
  have hregs : freezeBegun w = { fieldsFrozen w with bar0 := (freezeBegun w).bar0 } := twoBits_eq ..
  rw [freezeBegun_fields]
  refine hregs.trans ?_
  rw [(fieldsFrozen_only w).eq]

theorem paired_freezeBegun (w : W9) : paired (freezeBegun w) = paired w := by
  refine paired_of_rd ?_
  rw [freezeBegun, rd_wrB_ne _ _ _ (by decide), rd_wrB_ne _ _ _ (by decide)]
  refine (fieldsFrozen_only w).regs _ fun g => ?_
  simp only [Reg.pairStatus, Reg.fieldClk, Reg.routeStatus]
  omega

/-- The freeze of a W9 that is not PAIRED goes to no twin. -/
theorem freezeBegin_events {w : W9} (hdue : w.dbg.freezeDue = true) (hrun : rdB w Reg.dbgStatus 30 = false) (hsolo : paired w = false) :
    OnlyEvents (freezeBegun w) (freezeBegin w) := by
  have hev := raise0_step 0x7042 srcSteward (le 8 (beatCountOf (freezeBegun w))) (freezeBegun w)
  have hnone : paired (raise0 0x7042 srcSteward (le 8 (beatCountOf (freezeBegun w))) (freezeBegun w)) = false := by
    rw [paired_ev hev, paired_freezeBegun, hsolo]
  have heq : freezeBegin w = raise0 0x7042 srcSteward (le 8 (beatCountOf (freezeBegun w))) (freezeBegun w) := by
    have hcond : w.dbg.freezeDue = true ∧ (!rdB w Reg.dbgStatus 30) = true := ⟨hdue, by rw [hrun]; rfl⟩
    refine (if_pos hcond).trans (if_neg ?_)
    show ¬ (paired (raise0 0x7042 srcSteward (le 8 (beatCountOf (freezeBegun w))) (freezeBegun w)) && !w.dbg.freezeTwin) = true
    rw [hnone]
    exact Bool.false_ne_true
  rwa [heq]

theorem freezeBegin_begins {w : W9} (hdue : w.dbg.freezeDue = true) (hrun : rdB w Reg.dbgStatus 30 = false) (hsolo : paired w = false) :
    let w' := freezeBegin w
    rdB w' Reg.dbgStatus 30 = true ∧ rdB w' Reg.dbgStatus 29 = w.dbg.freezeTwin ∧ w'.dbg.freezeDue = false ∧
    (∀ f, (fieldState w' f).withheld.freeze = true) ∧ w'.tiles = w.tiles ∧ w'.page = w.page ∧ w'.mem = w.mem ∧
    w'.routers = w.routers ∧ w'.serve = w.serve := by
  have hev := freezeBegin_events hdue hrun hsolo
  have heq := freezeBegun_eq w
  refine ⟨?_, ?_, ?_, fun f => ?_, ?_, ?_, ?_, ?_, ?_⟩
  · rw [hev.rdB _ _ (by decide) (by decide), freezeBegun, rdB_wrB_ne _ _ _ _ _ (by decide)]
    exact rdB_wrB_same _ _ _ _ (by decide)
  · rw [hev.rdB _ _ (by decide) (by decide)]
    exact rdB_wrB_same _ _ _ _ (by decide)
  · rw [hev.dbg, heq]
  · have hfield : fieldState (freezeBegin w) f = fieldState (fieldsFrozen w) f := by
      rw [fieldState, fieldState, hev.fields, freezeBegun_fields]
    rw [hfield, fieldsFrozen_freeze]
  · rw [hev.tiles, heq]
  · rw [hev.page, heq]
  · rw [hev.mem, heq]
  · rw [hev.routers, heq]
  · rw [hev.serve, heq]

/-- Settles O13: a copy by `timeBroadcast_within` and `timeBroadcast_reports`, plan words by their lead, a freeze by
`freezeBegin_begins`. -/
theorem timeAndPlanWordsReachTheFields : Obligations.TimeAndPlanWordsReachTheFields := by
  unfold Obligations.TimeAndPlanWordsReachTheFields
  refine ⟨fun s d x => ⟨fun hlo hhi => ?_, fun h => ?_⟩, fun s lead => ⟨fun h => ?_, fun h => ?_⟩,
    fun s => ⟨fun hdue hrun hsolo => ?_, fun h => ?_⟩⟩
  · exact ⟨_, exec_of_lift_eq (f := timeBroadcast [(d, x)]) rfl (timeBroadcast_within s.w hlo hhi), copyMoved_same d x s.w,
      fun e he => smGet_smPut_ne _ _ _ he, rfl⟩
  · exact yields_of_lift (timeBroadcast [(d, x)]) rfl (timeBroadcast_reports s.w h)
  · exact ⟨_, exec_of_lift_eq (f := beatPlanWord lead) rfl (beatPlanWord_early s.w h), rfl, rfl⟩
  · exact ⟨_, exec_of_lift_eq (f := beatPlanWord lead) rfl (beatPlanWord_late s.w h), rfl, rfl⟩
  · exact yields_of_lift freezeBegin rfl (freezeBegin_begins hdue hrun hsolo)
  · exact exec_of_lift_same (f := freezeBegin) rfl (freezeBegin_none h)

end Sys2Proof.Machine
end

section
/-! SUPPORT. What a loaded image leaves in the registers and in the state, and the work that keeps it: writing, closing, gating and waking
fields, and the records of slots that hold no stream (R339, R341, R348). -/

namespace Sys2Proof.Machine

open Sys2Proof

set_option Elab.async false

/-- The registers that tell of the image: IMG_STATUS, IMG_LOST, SERVE_STATUS, BEAT_COUNT, MODEL_VER and STRIPE_SET. -/
abbrev ImageReg (off : Nat) : Prop :=
  off = 0x8004 ∨ off = 0x8060 ∨ off = 0x8064 ∨ off = 0x500004 ∨ off = 0x500020 ∨ off = 0x500024 ∨ off = 0x509000 ∨ off = 0x509078 ∨
  off = 0x50907C

/-- The image, the image that passed its checks, key-value state, pipeline and those registers are in `w` what they are in `a`. -/
structure ImageStands (a w : W9) : Prop where
  img : w.img = a.img
  checked : w.checked = a.checked
  kv : w.kv = a.kv
  pipe : w.serve.pipe = a.serve.pipe
  regs : ∀ off, ImageReg off → rd w off = rd a off

variable {a b w x : W9}

theorem ImageStands.refl (w : W9) : ImageStands w w := ⟨rfl, rfl, rfl, rfl, fun _ _ => rfl⟩

section
variable (hw : ImageStands a w)
include hw

theorem ImageStands.rdF (off hi lo : Nat) (ho : ImageReg off := by decide) : Machine.rdF w off hi lo = Machine.rdF a off hi lo := by
  rw [Machine.rdF, hw.regs off ho, Machine.rdF]

theorem ImageStands.rdB (off i : Nat) (ho : ImageReg off := by decide) : Machine.rdB w off i = Machine.rdB a off i := by
  rw [Machine.rdB, hw.regs off ho, Machine.rdB]

theorem ImageStands.rd64 (off : Nat) (ho : ImageReg off := by decide) (ho4 : ImageReg (off + 4) := by decide) :
    Machine.rd64 w off = Machine.rd64 a off := rd64_of_rd (hw.regs off ho) (hw.regs _ ho4)

theorem ImageStands.imgState : Machine.imgState w = Machine.imgState a := imgState_of_rd (hw.regs _ (by decide))

end

/-! ## The shapes a meaning is written in -/

/-- A change of other parts of the state. -/
theorem ImageStands.same {dev : Dev} {page : SMap Word32} {mem : Mem} {tiles : SMap TileS} {routers : SMap (List BufEntry)}
    {fields : SMap FieldS} {gws : SMap GwS} {prec : Prec} {wt : WeightS} {dbg : Dbg} {host : HostS} {side : SideS} {ports : SMap PortS}
    {pair : PairS} {env : EnvS} {rst : RstS} {opt : OptS} {att : AttS} {flt : FaultS} (hw : ImageStands a w) :
    ImageStands a ⟨dev, w.bar0, page, mem, tiles, routers, fields, gws, prec, w.serve, w.kv, wt, w.img, w.checked, dbg, host, side, ports,
      pair, env, rst, opt, att, flt⟩ := ⟨hw.img, hw.checked, hw.kv, hw.pipe, hw.regs⟩

theorem ImageStands.pwr {t : Tile} {off : Nat} {v : Word32} (hw : ImageStands a w) : ImageStands a (Machine.pwr t off v w) := .same hw

/-- A change of the serving state beside the pipeline. -/
theorem ImageStands.serving {v : Serve} (hw : ImageStands a w) (hv : v.pipe = w.serve.pipe) : ImageStands a { w with serve := v } :=
  ⟨hw.img, hw.checked, hw.kv, hv.trans hw.pipe, hw.regs⟩

theorem ImageStands.wr {off : Nat} {y : Word32} (hw : ImageStands a w) (hoff : ¬ ImageReg off := by decide) :
    ImageStands a (Machine.wr off y w) :=
  ⟨hw.img, hw.checked, hw.kv, hw.pipe, fun o ho => (rd_wr_ne y w fun e : o = off => hoff (e ▸ ho)).trans (hw.regs o ho)⟩

theorem ImageStands.wr64 {off y : Nat} (hw : ImageStands a w) (hoff : ¬ ImageReg off := by decide)
    (hoff4 : ¬ ImageReg (off + 4) := by decide) : ImageStands a (Machine.wr64 off y w) := .wr (.wr hw hoff) hoff4

theorem ImageStands.wrF {off hi lo y : Nat} (hw : ImageStands a w) (hoff : ¬ ImageReg off := by decide) :
    ImageStands a (Machine.wrF off hi lo y w) := .wr hw hoff

theorem ImageStands.wrB {off i : Nat} {c : Bool} (hw : ImageStands a w) (hoff : ¬ ImageReg off := by decide) :
    ImageStands a (Machine.wrB off i c w) := .wrF hw hoff

/-- The same register takes the same value on both sides. -/
theorem ImageStands.wrBoth {off : Nat} {y : Word32} (hw : ImageStands a w) : ImageStands (Machine.wr off y a) (Machine.wr off y w) := by
  refine ⟨hw.img, hw.checked, hw.kv, hw.pipe, fun o ho => ?_⟩
  by_cases h : o = off
  · rw [h, rd_wr_same, rd_wr_same]
  · rw [rd_wr_ne _ _ h, rd_wr_ne _ _ h, hw.regs o ho]

theorem ImageStands.wr64Both {off y : Nat} (hw : ImageStands a w) : ImageStands (Machine.wr64 off y a) (Machine.wr64 off y w) :=
  .wrBoth (.wrBoth hw)

theorem ImageStands.wrFBoth {off hi lo y : Nat} (hw : ImageStands a w) (hoff : ImageReg off := by decide) :
    ImageStands (Machine.wrF off hi lo y a) (Machine.wrF off hi lo y w) := by
  unfold Machine.wrF
  rw [hw.regs off hoff]
  exact hw.wrBoth

theorem ImageStands.wrBBoth {off i : Nat} {c : Bool} (hw : ImageStands a w) (hoff : ImageReg off := by decide) :
    ImageStands (Machine.wrB off i c a) (Machine.wrB off i c w) := .wrFBoth hw hoff

theorem ImageStands.ite {c : Prop} [Decidable c] {y z : W9} (hy : ImageStands a y) (hz : ImageStands a z) :
    ImageStands a (if c then y else z) := by
  split
  · exact hy
  · exact hz

theorem ImageStands.forEach {α : Type} {l : List α} {f : α → W9 → W9} (hf : ∀ e y, ImageStands a y → ImageStands a (f e y))
    (hw : ImageStands a w) : ImageStands a (Machine.forEach l f w) := forEach_keeps (ImageStands a) f hf l w hw

/-- A run over the indices below `n`. -/
theorem forEach_range {P : W9 → Prop} {n : Nat} {f : Nat → W9 → W9} (hf : ∀ i < n, ∀ y, P y → P (f i y)) (hw : P w) :
    P (forEach (List.range n) f w) := by
  suffices h : ∀ l : List Nat, (∀ i ∈ l, i < n) → ∀ y, P y → P (forEach l f y) from h _ (fun _ => List.mem_range.mp) w hw
  intro l
  induction l with
  | nil => exact fun _ _ hy => hy
  | cons i l ih => exact fun hl y hy => ih (fun j hj => hl j (.tail i hj)) _ (hf i (hl i (.head l)) y hy)

theorem ImageStands.forRange {n : Nat} {f : Nat → W9 → W9} (hf : ∀ i < n, ∀ y, ImageStands a y → ImageStands a (f i y))
    (hw : ImageStands a w) : ImageStands a (Machine.forEach (List.range n) f w) := forEach_range hf hw

theorem ImageStands.events (hw : ImageStands a w) (h : OnlyEvents w x) : ImageStands a x := by
  refine ⟨h.img.trans hw.img, h.checked.trans hw.checked, h.kv.trans hw.kv, ?_, fun o ho => (h.regs o ?_ ?_).trans (hw.regs o ho)⟩
  · rw [h.serve, hw.pipe]
  · exact fun e => absurd (e ▸ ho) (by decide)
  · exact fun e => absurd (e ▸ ho) (by decide)

theorem ImageStands.raise0 {code source : BitVec 16} {det : List Byte} (hw : ImageStands a w) :
    ImageStands a (Machine.raise0 code source det w) := hw.events (raise0_step ..)

theorem ImageStands.wire (hw : ImageStands a w) (h : OnlyWire w x) : ImageStands a x := by
  refine ⟨h.img.trans hw.img, h.checked.trans hw.checked, h.kv.trans hw.kv, ?_, fun o ho => (h.rd_low ?_).trans (hw.regs o ho)⟩
  · rw [h.serve, hw.pipe]
  · obtain rfl | rfl | rfl | rfl | rfl | rfl | rfl | rfl | rfl := ho <;> decide

/-- The registers of a field. -/
theorem ImageStands.fieldReg {off : Nat} {y : Word32} (hw : ImageStands a w) (ho : 0x1000000 ≤ off) : ImageStands a (Machine.wr off y w) :=
  .wr hw (by unfold ImageReg; omega)

/-! ## Blocks of a field (R339, R341, R453, R501) -/

section
variable {f : FieldIx} {t : Tile} {g : Rung}

theorem ImageStands.setFieldState {v : Nat} (hw : ImageStands a w) : ImageStands a (Machine.setFieldState f v w) :=
  .forEach (fun _ _ h => .wrF h (by unfold ImageReg; omega)) hw

theorem ImageStands.showHeld (hw : ImageStands a w) : ImageStands a (Machine.showHeld f w) := .fieldReg hw (by unfold Reg.fieldClk; omega)

theorem ImageStands.setPark {st : Nat} (hw : ImageStands a w) : ImageStands a (Machine.setPark f st w) :=
  .same (.fieldReg hw (by unfold Reg.parkStatus; omega))

theorem ImageStands.pulsesBack (hw : ImageStands a w) : ImageStands a (Machine.pulsesBack f w) := .showHeld (.same hw)

theorem ImageStands.parkRejected {reason : Nat} (hw : ImageStands a w) : ImageStands a (Machine.parkRejected f reason w) :=
  .raise0 (.fieldReg hw (by unfold Reg.parkStatus; omega))

theorem ImageStands.abandonDrain {reason : Nat} (hw : ImageStands a w) : ImageStands a (Machine.abandonDrain f reason w) :=
  .parkRejected (.pulsesBack (.same (.setPark hw)))

theorem ImageStands.loaderMeets (hw : ImageStands a w) : ImageStands a (Machine.loaderMeets f w) := by
  unfold Machine.loaderMeets
  split
  · exact .abandonDrain hw
  · exact .setPark hw
  · exact .same hw

theorem ImageStands.stopTile (hw : ImageStands a w) : ImageStands a (Machine.stopTile t w) := .same (.pwr hw)

theorem ImageStands.setZones {v : Nat} (hw : ImageStands a w) : ImageStands a (Machine.setZones f v w) :=
  have hone (hi : Nat) {y : W9} (hy : ImageStands a y) : ImageStands a (if Machine.rdF y (Reg.fieldPwr f.val) hi (hi - 1) = 3 then y else
      Machine.wrF (Reg.fieldPwr f.val) hi (hi - 1) v y) := .ite hy (.fieldReg hy (by unfold Reg.fieldPwr; omega))
  hone 29 (hone 31 hw)

theorem ImageStands.clearField (hw : ImageStands a w) : ImageStands a (Machine.clearField f w) :=
  .fieldReg (.same (.same (.forEach (fun _ _ h => .same h) (.forEach (fun _ _ h => .same h) (.same hw))))) (by unfold Reg.routeStatus; omega)

theorem ImageStands.zeroed (hw : ImageStands a w) : ImageStands a (Machine.zeroed f w) := .forEach (fun _ _ h => .same h) hw

theorem ImageStands.gateField (hw : ImageStands a w) : ImageStands a (Machine.gateField f w) :=
  .raise0 (.setPark (.setZones (.zeroed (.clearField hw))))

theorem ImageStands.startWake (hw : ImageStands a w) : ImageStands a (Machine.startWake f w) := .raise0 (.setPark (.same hw))

theorem ImageStands.markReset {c : Bool} (hw : ImageStands a w) : ImageStands a (Machine.markReset f c w) :=
  .wr hw (by
    have := f.isLt
    simp only [ImageReg, Reg.fieldsInReset]
    omega)

theorem ImageStands.fieldResetDone {cause row ns : Nat} {late : Bool} (hw : ImageStands a w) :
    ImageStands a (Machine.fieldResetDone f cause row late ns w) := .ite (.raise0 hw) (.raise0 (.raise0 hw))

theorem ImageStands.writeTables (hw : ImageStands a w) : ImageStands a (Machine.writeTables g f w) :=
  .same (.fieldReg hw (by unfold Reg.slotLen; omega))

theorem ImageStands.putCtx {m : LayerMap} {fmt : Nat} {c : Bool} {e : CtxMap} (hw : ImageStands a w) :
    ImageStands a (Machine.putCtx m fmt c e t w) := .pwr (.pwr (.pwr hw))

theorem ImageStands.putBanks {layers : List LayerMap} {c : CtxMap} (hw : ImageStands a w) : ImageStands a (Machine.putBanks layers c t w) := by
  unfold Machine.putBanks
  split
  · exact hw
  · exact .putCtx (.putCtx hw)

theorem ImageStands.writeRing {r : RingMap} (hw : ImageStands a w) : ImageStands a (Machine.writeRing t r w) :=
  .pwr (.pwr (.pwr (.pwr (.pwr hw))))

theorem ImageStands.writeWindow {v : WindowMap} (hw : ImageStands a w) : ImageStands a (Machine.writeWindow t v w) := .pwr (.pwr (.pwr hw))

theorem ImageStands.writeField (hw : ImageStands a w) : ImageStands a (Machine.writeField f w) := by
  unfold Machine.writeField
  split
  · refine .forEach (fun _ _ h => ?_) (.forEach (fun _ _ h => ?_) (.forEach (fun _ _ h => ?_) (.forEach (fun _ _ h => ?_)
      (.forEach (fun _ _ h => ?_) (.fieldReg (.writeTables hw) (by unfold Reg.latPad; omega))))))
    · split
      · exact .putBanks h
      · exact h
    · split
      · exact .pwr (.pwr h)
      · exact h
    · split
      · exact .writeWindow h
      · exact h
    · split
      · exact .writeRing h
      · exact h
    · split
      · exact .same h
      · exact h
  · exact hw

theorem ImageStands.loaderReset (hw : ImageStands a w) : ImageStands a (Machine.loaderReset f w) :=
  .pulsesBack (.writeField (.fieldResetDone (.setPark (.zeroed (.setFieldState (.markReset (.same (.clearField hw))))))))

theorem ImageStands.takeField {keep : List FieldIx} (hw : ImageStands a w) : ImageStands a (Machine.takeField keep g f w) := by
  refine .ite hw (.ite (.writeTables hw) ?_)
  split
  · exact .startWake hw
  · exact .startWake hw
  · exact hw
  · exact .loaderReset hw

theorem ImageStands.closeField (hw : ImageStands a w) : ImageStands a (Machine.closeField f w) :=
  .ite hw (.gateField (.fieldReg (.setFieldState (.markReset (.same hw))) (by unfold Reg.fieldClk; omega)))

end

/-! ## Weights and records -/

theorem ImageStands.queueWeights {keep : List FieldIx} {g : Rung} {set : Nat} (hw : ImageStands a w) :
    ImageStands a (Machine.queueWeights keep g set w) := by
  refine .forEach (fun e y h => ?_) hw
  unfold Machine.queueItem
  split
  · exact .same h
  · exact h

theorem ImageStands.modStream {s : StreamIx} {g : Stream → Stream} (hw : ImageStands a w) : ImageStands a (Machine.modStream s g w) :=
  .serving hw rfl

theorem ImageStands.putStream {s : StreamIx} {g : Stream → Stream} (hw : ImageStands a w) : ImageStands a (Machine.putStream s g w) :=
  .wire (.modStream hw) (putStream_wire s g w)

theorem ImageStands.freeRecords (hw : ImageStands a w) : ImageStands a (Machine.freeRecords w) :=
  .forEach (fun _ _ h => .putStream h) hw

end Sys2Proof.Machine
end

section
/-! SUPPORT. What the image of a rung lays out, what a LOAD starts from, and what an image leaves when it goes (R338, R339, R348). -/

namespace Sys2Proof.Machine

open Sys2Proof

set_option Elab.async false

variable {a b w x : W9} {im : ImageS} {k : Nat} {g : Rung} {keep : List FieldIx} {set : Nat}

/-! ## The image of a rung in force -/

/-- IMG_STATUS of an image that is being instantiated. -/
def instantiating (im : ImageS) (k : Nat) (w : W9) : W9 :=
  wrF Reg.imgStatus 4 3 im.profile (wrB Reg.imgStatus 5 im.compat (wrF Reg.imgStatus 23 16 k (setImgState 2 w)))

/-- An empty pipeline of `n` stages. -/
def emptyPipe (n : Nat) (w : W9) : W9 := { w with serve := { w.serve with pipe := List.replicate n none } }

theorem rd_emptyPipe (n : Nat) (w : W9) (off : Nat) : rd (emptyPipe n w) off = rd w off := rfl

/-- Rung `k` in force: the image and an empty pipeline of the rung's stages, with IMG_STATUS and STRIPE_SET. -/
def laidOut (im : ImageS) (k : Nat) (g : Rung) (w : W9) : W9 :=
  emptyPipe g.timing.stages (wr64 Reg.stripeSet g.far.stripe.toNat (instantiating im k { w with img := some im }))

theorem ImageStands.setupImage (hw : ImageStands a w) : ImageStands
    (Machine.wr64 Reg.stripeSet g.far.stripe.toNat (instantiating im k a)) (Machine.setupImage im k g (setImgState 2 w)) :=
  .wr64 (.wr64Both (.wrFBoth (.wrBBoth (.wrFBoth (a := setImgState 2 a) (.forRange (fun n hn _ h => .wr h (by unfold ImageReg Reg.imgDigest; omega))
    (.wr64 (.wr64 (.wr64 (.wr64 (.wr64 hw.wrFBoth))))))))))

theorem ImageStands.setupServe (hw : ImageStands a w) :
    ImageStands (emptyPipe g.timing.stages a) (Machine.setupServe g w) :=
  .wr64 (.wr (.wr (.wr64 (.wr (.wr (.wr (.wr (.wr ⟨hw.img, hw.checked, hw.kv, rfl, hw.regs⟩))))))))

theorem ImageStands.setupRotation (hw : ImageStands a w) : ImageStands a (Machine.setupRotation g w) := by
  refine .serving (.forRange (fun n hn _ h => ?_) hw) rfl
  split
  · exact .wr h (by unfold ImageReg Reg.rotMember; omega)
  · exact .wr h (by unfold ImageReg Reg.rotMember; omega)

theorem instantiate_stands (hw : ImageStands a w) : ImageStands (laidOut { im with mapId := (ladderOf im.body k).mapId } k g a)
    (instantiate im k g keep set w) := by
  have himg : ImageStands { a with img := some { im with mapId := (ladderOf im.body k).mapId } }
      { w with img := some { im with mapId := (ladderOf im.body k).mapId } } := ⟨rfl, hw.checked, hw.kv, hw.pipe, hw.regs⟩
  have hfields := ImageStands.forEach (l := allFields) (f := fun f w => if usedBy im.body k f.val then takeField keep g f w else closeField f w)
    (fun _ _ h => .ite (.takeField h) (.closeField h)) (.setupRotation (g := g) (.setupServe (g := g) (.setupImage (g := g)
      (im := { im with mapId := (ladderOf im.body k).mapId }) (k := k) himg)))
  exact .ite hfields (.queueWeights hfields)

theorem instantiating_state (im : ImageS) (k : Nat) (w : W9) : imgState (instantiating im k w) = 2 := by
  rw [imgState, instantiating, wrB, rdF_wrF_ne _ _ _ _ _ _ _ (by decide) (by decide) (by decide),
    rdF_wrF_ne _ _ _ _ _ _ _ (by decide) (by decide) (by decide), rdF_wrF_ne _ _ _ _ _ _ _ (by decide) (by decide) (by decide),
    setImgState, rdF_wrF_same _ _ _ _ _ (by decide) (by decide)]
  rfl

theorem instantiating_rung (im : ImageS) (k : Nat) (w : W9) : rdF (instantiating im k w) Reg.imgStatus 23 16 = k % 256 := by
  rw [instantiating, wrB, rdF_wrF_ne _ _ _ _ _ _ _ (by decide) (by decide) (by decide),
    rdF_wrF_ne _ _ _ _ _ _ _ (by decide) (by decide) (by decide), rdF_wrF_same _ _ _ _ _ (by decide) (by decide)]
  rfl

theorem instantiating_debug (im : ImageS) (k : Nat) (w : W9) : rdB (instantiating im k w) Reg.imgStatus 6 = rdB w Reg.imgStatus 6 := by
  rw [instantiating, wrB, setImgState, rdB_wrF_ne _ _ _ _ _ _ (by decide) (by decide) (by decide),
    rdB_wrF_ne _ _ _ _ _ _ (by decide) (by decide) (by decide), rdB_wrF_ne _ _ _ _ _ _ (by decide) (by decide) (by decide),
    rdB_wrF_ne _ _ _ _ _ _ (by decide) (by decide) (by decide)]

theorem rd_instantiating_ne (im : ImageS) (k : Nat) (w : W9) {off : Nat} (h : off ≠ Reg.imgStatus) : rd (instantiating im k w) off = rd w off := by
  rw [instantiating, setImgState, rd_wrF_ne _ _ _ _ h, rd_wrB_ne _ _ _ h, rd_wrF_ne _ _ _ _ h, rd_wrF_ne _ _ _ _ h]

theorem rd_laidOut_status (im : ImageS) (k : Nat) (g : Rung) (w : W9) :
    rd (laidOut im k g w) Reg.imgStatus = rd (instantiating im k { w with img := some im }) Reg.imgStatus := by
  rw [laidOut, rd_emptyPipe, rd_wr64_ne _ _ (by decide) (by decide)]

theorem rd_laidOut_ne (im : ImageS) (k : Nat) (g : Rung) (w : W9) {off : Nat} (h : off ≠ Reg.imgStatus) (h1 : off ≠ Reg.stripeSet)
    (h2 : off ≠ Reg.stripeSet + 4) : rd (laidOut im k g w) off = rd w off := by
  rw [laidOut, rd_emptyPipe, rd_wr64_ne _ _ h1 h2, rd_instantiating_ne _ _ _ h]
  rfl

theorem laidOut_parts (im : ImageS) (k : Nat) (g : Rung) (w : W9) :
    (laidOut im k g w).img = some im ∧ (laidOut im k g w).checked = w.checked ∧ (laidOut im k g w).kv = w.kv := by
  simp [laidOut, emptyPipe, instantiating, setImgState]

theorem laidOut_stripe (im : ImageS) (k : Nat) (g : Rung) (w : W9) : rd64 (laidOut im k g w) Reg.stripeSet = g.far.stripe.toNat := by
  have hlt : g.far.stripe.toNat < 2 ^ 64 := lt_of_lt_of_le g.far.stripe.isLt (by decide)
  rw [laidOut, rd64_of_rd (rd_emptyPipe ..) (rd_emptyPipe ..), rd64_wr64_same, Nat.mod_eq_of_lt hlt]

/-- What stands once a rung is laid out. -/
structure Instantiating (im : ImageS) (k : Nat) (g : Rung) (a w : W9) : Prop where
  state : imgState w = 2
  rung : rdF w Reg.imgStatus 23 16 = k % 256
  mode : rdB w Reg.imgStatus 6 = rdB a Reg.imgStatus 6
  img : w.img = some { im with mapId := (ladderOf im.body k).mapId }
  checked : w.checked = a.checked
  kv : w.kv = a.kv
  pipe : w.serve.pipe = List.replicate g.timing.stages none
  stripe : rd64 w Reg.stripeSet = g.far.stripe.toNat
  regs : ∀ off, ImageReg off → off ≠ Reg.imgStatus → off ≠ Reg.stripeSet → off ≠ Reg.stripeSet + 4 → rd w off = rd a off

theorem ImageStands.instantiating (h : ImageStands (laidOut { im with mapId := (ladderOf im.body k).mapId } k g a) w) :
    Instantiating im k g a w where
  state := by rw [h.imgState, imgState_of_rd (rd_laidOut_status ..), instantiating_state]
  rung := by
    rw [h.rdF Reg.imgStatus, Machine.rdF, rd_laidOut_status]
    exact instantiating_rung ..
  mode := by
    rw [h.rdB Reg.imgStatus, Machine.rdB, rd_laidOut_status]
    exact instantiating_debug ..
  img := h.img.trans (laidOut_parts ..).1
  checked := h.checked.trans (laidOut_parts ..).2.1
  kv := h.kv.trans (laidOut_parts ..).2.2
  pipe := h.pipe
  stripe := by rw [h.rd64 Reg.stripeSet, laidOut_stripe]
  regs off ho h0 h1 h2 := (h.regs off ho).trans (rd_laidOut_ne _ _ _ _ h0 h1 h2)

/-! ## What a LOAD starts from -/

theorem adapterReg_out {n : Nat} (hn : n < 64) :
    ¬ ImageReg (Reg.adapterId n) ∧ ¬ ImageReg (Reg.adapterVer n) ∧ ¬ ImageReg (Reg.adapterRef n) := by
  simp only [ImageReg, Reg.adapterId, Reg.adapterVer, Reg.adapterRef]
  omega

theorem layerReg_out {n : Nat} (hn : n < 256) :
    ¬ ImageReg (Reg.layerFmt n) ∧ ¬ ImageReg (Reg.errMean n) ∧ ¬ ImageReg (Reg.errWindow n) := by
  simp only [ImageReg, Reg.layerFmt, Reg.errMean, Reg.errWindow]
  omega

theorem ImageStands.clearAdapters (hw : ImageStands a w) : ImageStands a (Machine.clearAdapters w) :=
  .forRange (fun _ hn _ h => .wr (.wr (.wr h (adapterReg_out hn).1) (adapterReg_out hn).2.1) (adapterReg_out hn).2.2) (.same hw)

theorem ImageStands.setupPrec {layers : List LayerMap} (hw : ImageStands a w) : ImageStands a (Machine.setupPrec layers w) :=
  .wr64 (.wr (.forEach (fun m _ h => .wr h (layerReg_out m.layer.isLt).1) (.forRange (fun _ hn _ h =>
    .wr (.wr (.wr h (layerReg_out hn).1) (layerReg_out hn).2.1) (layerReg_out hn).2.2) (.same hw))))

theorem ImageStands.setupKv (hw : ImageStands a w) : ImageStands a (Machine.setupKv g w) :=
  .wr64 (.wr64 (.wrF (.wrB (.wr (.wr hw)))))

/-- A new key-value space, with BEAT_COUNT and MODEL_VER 0. -/
def anew (w : W9) : W9 := wr Reg.modelVer 0 (wr64 Reg.beatCount 0 { w with kv := KvS.init })

theorem freshImage_stands (hw : ImageStands a w) : ImageStands (anew a) (freshImage im g w) := by
  have hkv : ImageStands { a with kv := KvS.init } { w with kv := KvS.init, wt := { w.wt with active := none } } :=
    ⟨hw.img, hw.checked, rfl, hw.pipe, hw.regs⟩
  exact .wr64 (.wrBoth (.wr64Both (.setupKv (.setupPrec (.clearAdapters hkv)))))

theorem rd_anew_ne (w : W9) {off : Nat} (h : off ≠ Reg.modelVer) (h1 : off ≠ Reg.beatCount) (h2 : off ≠ Reg.beatCount + 4) :
    rd (anew w) off = rd w off := (rd_wr_ne _ _ h).trans (rd_wr64_ne _ _ h1 h2)

theorem anew_parts (w : W9) : (anew w).checked = w.checked ∧ (anew w).kv = KvS.init := by
  simp [anew]

theorem anew_modelVer (w : W9) : rd (anew w) Reg.modelVer = 0 := rd_wr_same ..

theorem anew_beatCount (w : W9) : rd64 (anew w) Reg.beatCount = 0 := by
  rw [anew, rd64_of_rd (rd_wr_ne _ _ (by decide)) (rd_wr_ne _ _ (by decide)), rd64_wr64_same]
  rfl

/-! ## No image -/

/-- What the state says once no image is loaded. -/
def imageless (w : W9) : W9 := wr Reg.modelVer 0 { w with img := none, kv := KvS.init, serve := { w.serve with pipe := [] } }

theorem clearImage_stands (w : W9) : ImageStands (imageless w) (clearImage w) := by
  have hempty : ImageStands { w with img := none, kv := KvS.init, serve := { w.serve with pipe := [] } } { w with
      img := none, kv := KvS.init, prec := Prec.init, wt := { w.wt with active := none }
      serve := { w.serve with pipe := [], groups := [], draftField := none, rotMoved := [] } } := ⟨rfl, rfl, rfl, rfl, fun _ _ => rfl⟩
  have hrot := ImageStands.forRange (n := 16) (f := fun i w => wr (Reg.rotMember i) 0 w)
    (fun n hn _ h => .wr h (by unfold ImageReg Reg.rotMember; omega)) hempty.clearAdapters
  have hfmt := ImageStands.forRange (n := 256) (f := fun i w => wr (Reg.layerFmt i) 0 w) (fun _ hn _ h => .wr h (layerReg_out hn).1) hrot
  exact .wr64 (.wrBoth (.wr64 (.wr64 (.wr64 (.wr64 (.wr (.wr (.wr hfmt))))))))

end Sys2Proof.Machine
end

section
/-! SUPPORT. IMG_CMD: rejected commands, LOAD and UNLOAD (R338, R339, Table 9.8). -/

namespace Sys2Proof.Machine

open Sys2Proof

set_option Elab.async false

/-! ## A command in a state that does not allow it (R338) -/

/-- A discarded IMG_CMD shows CMD_REJECT and touches neither the image nor what runs. -/
theorem imgReject_rejects (op : Nat) (w : W9) : let w' := imgReject op w
    rdB w' Reg.imgStatus 15 = true ∧ imgState w' = imgState w ∧ w'.img = w.img ∧ w'.serve = w.serve ∧ w'.kv = w.kv := by
  have hev : OnlyEvents (wrB Reg.imgStatus 15 true w) (imgReject op w) := raise0_step ..
  refine ⟨?_, ?_, ?_, ?_, ?_⟩
  · rw [hev.rdB _ _ (by decide) (by decide), rdB_wrB_same _ _ _ _ (by decide)]
  · rw [imgState_of_rd (hev.regs _ (by decide) (by decide))]
    exact rdF_wrF_ne _ _ _ _ _ _ _ (by decide) (by decide) (by decide)
  · rw [hev.img, wrB_img]
  · rw [hev.serve, wrB_serve]
  · rw [hev.kv, wrB_kv]

section
variable {d : Bool} {body : ImageBody} {w : W9}

theorem imageLoad_closed (h : hostAnswers w = false) : imageLoad d body w = w := if_pos (by simp [h])
theorem unload_closed (h : hostAnswers w = false) : unload w = w := if_pos (by simp [h])
theorem reload_closed (h : hostAnswers w = false) : reload w = w := if_pos (by simp [h])

variable (hopen : hostAnswers w = true)
include hopen

theorem imageLoad_rejected (h : safeMode w = true ∨ (imgState w ≠ 0 ∧ imgState w ≠ 4)) : imageLoad d body w = imgReject 1 w :=
  (if_neg (by simp [hopen])).trans (if_pos h)

theorem unload_rejected (h : safeMode w = true ∨ imgState w ≠ 3 ∨ busyStreams w ≠ []) : unload w = imgReject 2 w :=
  (if_neg (by simp [hopen])).trans (if_pos (by simpa using h))

theorem reload_rejected (h : safeMode w = true ∨ ¬(imgState w = 3 ∨ (imgState w = 4 ∧ w.checked.isSome = true))) : reload w = imgReject 3 w :=
  (if_neg (by simp [hopen])).trans (if_pos (h.imp_right fun hn => by rw [Bool.not_eq_true', decide_eq_false_iff_not]; exact hn))

end

/-! ## What the checks of a LOAD read -/

section
variable {w w' : W9}

theorem seamFailed_of (hf : w'.fields = w.fields) (p : Tile × Tile) : seamFailed w' p = seamFailed w p := by
  simp only [seamFailed, fieldState, hf]

theorem pathOk_of (hf : w'.fields = w.fields) (b : ImageBody) (compat : Bool) (k : Nat) (t : TimingProfile) :
    pathOk w' b compat k t = pathOk w b compat k t := by
  funext p
  simp only [pathOk, seamFailed_of hf]

/-- The checks read the header's bytes, the seams, the stepping, far memory and the stripe set. -/
theorem loadChecks_of (hm : w'.mem = w.mem) (hf : w'.fields = w.fields) (hd : w'.dev = w.dev) (hs : stripeStacks w' = stripeStacks w)
    (h : List Byte) (addr : Nat) (b : ImageBody) : loadChecks w' h addr b = loadChecks w h addr b := by
  have h9 (c : Bool) : check09 w' c b = check09 w c b := by
    funext k g
    simp only [check09, pathOk_of hf]
  have hF (n : Nat) : check0F w' addr n b = check0F w addr n b := by
    funext k g
    simp only [check0F, hs]
  simp only [loadChecks, rungChecks, farRead_of hm hs, hd, h9, hF]

theorem imageOf_of (hm : w'.mem = w.mem) (hs : stripeStacks w' = stripeStacks w) (h : List Byte) (addr : Nat) (b : ImageBody) :
    imageOf w' h addr b = imageOf w h addr b := by
  simp only [imageOf, farRead_of hm hs]

theorem usableRung_of (h : rd w' Reg.imgLost = rd w Reg.imgLost) (h4 : rd w' (Reg.imgLost + 4) = rd w (Reg.imgLost + 4)) (b : ImageBody) :
    usableRung w' b = usableRung w b := by
  have hbit : ∀ f < 48, rdB64 w' Reg.imgLost f = rdB64 w Reg.imgLost f := fun f hf => by
    obtain h0 | h1 : f / 32 = 0 ∨ f / 32 = 1 := by omega
    · simp [rdB64, rdB, h0, h]
    · simp [rdB64, rdB, h1, h4]
  have hall (k : Nat) : ((List.range 48).all fun f => !(usedBy b k f && rdB64 w' Reg.imgLost f)) =
      (List.range 48).all fun f => !(usedBy b k f && rdB64 w Reg.imgLost f) := by
    rw [Bool.eq_iff_iff, List.all_eq_true, List.all_eq_true]
    refine forall₂_congr fun f hf => ?_
    rw [hbit f (List.mem_range.mp hf)]
  simp only [usableRung, hall]

/-- The checks allow at most 16 rungs (Table 9.7, checks 0x01 and 0x04). -/
theorem rungs_le_of_loadChecks {h : List Byte} {addr : Nat} {b : ImageBody} (hc : loadChecks w h addr b = none) : b.rungs.length ≤ 16 := by
  unfold loadChecks at hc
  dsimp only at hc
  split at hc
  · exact absurd hc (by simp)
  split at hc
  · exact absurd hc (by simp)
  split at hc
  · exact absurd hc (by simp)
  next hhead _ _ =>
    have hcount : hdField h 10 1 ≤ 16 := by
      simp only [headerOk, Bool.not_eq_true, Bool.not_eq_false', Bool.and_eq_true, decide_eq_true_eq] at hhead
      tauto
    simp only [firstErr, List.findSome?_cons, id] at hc
    split at hc
    · exact absurd hc (by simp)
    next h04 =>
      have hlen : badIf 4 0xFF 0 (decide (b.rungs.length ≠ hdField h 10 1)) = none := by
        simp only [check04, firstErr, List.findSome?_eq_none_iff] at h04
        exact h04 _ (.tail _ (.tail _ (.tail _ (.head _))))
      by_contra hgt
      have hne : b.rungs.length ≠ hdField h 10 1 := by omega
      simp [badIf, hne] at hlen

theorem lt_of_usableRung {b : ImageBody} {k : Nat} (h : usableRung w b = some k) : k < b.rungs.length :=
  List.mem_range.mp (List.mem_of_find?_eq_some h)

end

/-! ## LOAD (R339) -/

/-- A LOAD under way: DEBUG and CHECKING in IMG_STATUS, and no image. -/
def loadSeen (d : Bool) (w : W9) : W9 := setImgState 1 (wrB Reg.imgStatus 6 d { w with img := none, checked := none })

theorem loadSeen_eq (d : Bool) (w : W9) : setImgState 1 (wrB Reg.imgStatus 6 d { w with img := none, checked := none }) = loadSeen d w := rfl

theorem rd_loadSeen_ne {off : Nat} (d : Bool) (w : W9) (h : off ≠ Reg.imgStatus) : rd (loadSeen d w) off = rd w off := by
  rw [loadSeen, setImgState, rd_wrF_ne _ _ _ _ h, rd_wrB_ne _ _ _ h]
  rfl

theorem loadSeen_debug (d : Bool) (w : W9) : rdB (loadSeen d w) Reg.imgStatus 6 = d := by
  rw [loadSeen, setImgState, rdB_wrF_ne _ _ _ _ _ _ (by decide) (by decide) (by decide), rdB_wrB_same _ _ _ _ (by decide)]

theorem loadSeen_parts (d : Bool) (w : W9) : (loadSeen d w).mem = w.mem ∧ (loadSeen d w).fields = w.fields ∧ (loadSeen d w).dev = w.dev := by
  simp [loadSeen, setImgState]

theorem loadSeen_stripe (d : Bool) (w : W9) : stripeStacks (loadSeen d w) = stripeStacks w :=
  stripeStacks_of_rd (rd_loadSeen_ne d w (by decide)) (rd_loadSeen_ne d w (by decide))

section
variable {d : Bool} {body : ImageBody} {w : W9} {im : ImageS} {k : Nat} {g : Rung}

theorem loadPassed_goes (hk : usableRung w im.body = some k) (hg : im.body.rungs[k]? = some g) (hset : rd64 w Reg.imgWset = 0) :
    loadPassed im w = loadGo im k 0 none g w := by
  simp only [loadPassed, hk, hg, hset, if_true]

/-- A LOAD of an image in sound far memory that passes every check, with IMG_WSET 0, goes to its lowest usable rung. -/
theorem imageLoad_goes (hopen : hostAnswers w = true) (hsafe : safeMode w = false) (hst : imgState w = 0 ∨ imgState w = 4)
    (hu : w.mem.farUE = []) (hc : ∀ q, farHasCE w q = false)
    (hpass : loadChecks w (farRead w (rd64 w Reg.imgAddr) 256) (rd64 w Reg.imgAddr) body = none)
    (hk : usableRung w body = some k) (hg : body.rungs[k]? = some g) (hset : rd64 w Reg.imgWset = 0) :
    imageLoad d body w = loadGo (imageOf w (farRead w (rd64 w Reg.imgAddr) 256) (rd64 w Reg.imgAddr) body) k 0 none g (loadSeen d w) := by
  have hstate : ¬ (safeMode w = true ∨ (imgState w ≠ 0 ∧ imgState w ≠ 4)) := fun h =>
    h.elim (fun hs => by simp [hsafe] at hs) fun ⟨h0, h4⟩ => hst.elim h0 h4
  obtain ⟨hmem, hfields, hdev⟩ := loadSeen_parts d w
  have hstripe := loadSeen_stripe d w
  have hchecks : loadChecks (loadSeen d w) (farRead w (rd64 w Reg.imgAddr) 256) (rd64 w Reg.imgAddr) body = none := by
    rw [loadChecks_of hmem hfields hdev hstripe, hpass]
  have hrung : usableRung (loadSeen d w) body = some k := by
    rw [usableRung_of (rd_loadSeen_ne d w (by decide)) (rd_loadSeen_ne d w (by decide)), hk]
  have hwset : rd64 (loadSeen d w) Reg.imgWset = 0 := by
    rw [rd64_of_rd (rd_loadSeen_ne d w (by decide)) (rd_loadSeen_ne d w (by decide)), hset]
  refine (if_neg (by simp [hopen])).trans ((if_neg hstate).trans ?_)
  simp only [farReadEffects_clean _ hu hc, loadSeen_eq, hchecks, imageOf_of hmem hstripe]
  exact loadPassed_goes hrung hg hwset

/-- What a LOAD without a weight set leaves. -/
theorem loadGo_stands (im : ImageS) (k : Nat) (g : Rung) (w : W9) :
    Instantiating im k g (anew { w with checked := some im }) (loadGo im k 0 none g w) := by
  have hfresh : ImageStands (anew { w with checked := some im })
      { freshImage im g { w with checked := some im } with wt := { (freshImage im g { w with checked := some im }).wt with active := none } } :=
    .same (freshImage_stands (.refl _))
  exact (instantiate_stands hfresh).freeRecords.instantiating

theorem loadGo_loads (him : k < 256) : let w' := loadGo im k 0 none g w
    imgState w' = 2 ∧ rdF w' Reg.imgStatus 23 16 = k ∧ rdB w' Reg.imgStatus 6 = rdB w Reg.imgStatus 6 ∧
    w'.img = some { im with mapId := (ladderOf im.body k).mapId } ∧
    w'.checked = some im ∧ w'.kv = KvS.init ∧ w'.serve.pipe = List.replicate g.timing.stages none ∧ rd64 w' Reg.beatCount = 0 ∧
    rd w' Reg.modelVer = 0 ∧ rd64 w' Reg.stripeSet = g.far.stripe.toNat := by
  have h := loadGo_stands im k g w
  obtain ⟨hchecked, hkv⟩ := anew_parts { w with checked := some im }
  have hver := anew_modelVer { w with checked := some im }
  have hcount := anew_beatCount { w with checked := some im }
  have hstatus : rd (anew { w with checked := some im }) Reg.imgStatus = rd w Reg.imgStatus :=
    rd_anew_ne _ (by decide) (by decide) (by decide)
  generalize anew { w with checked := some im } = a at h hchecked hkv hver hcount hstatus
  have hdebug : rdB a Reg.imgStatus 6 = rdB w Reg.imgStatus 6 := by rw [rdB, hstatus, rdB]
  refine ⟨h.state, h.rung.trans (Nat.mod_eq_of_lt him), h.mode.trans hdebug, h.img, h.checked.trans hchecked, h.kv.trans hkv, h.pipe, ?_, ?_,
    h.stripe⟩
  · rw [rd64_of_rd (h.regs _ (by decide) (by decide) (by decide) (by decide)) (h.regs _ (by decide) (by decide) (by decide) (by decide)), hcount]
  · rw [h.regs _ (by decide) (by decide) (by decide) (by decide), hver]

end

/-! ## UNLOAD (Table 9.8) -/

/-- What a turn establishes and every turn keeps holds after the run. -/
theorem forEach_reaches {α : Type} {P : W9 → Prop} {step : α → W9 → W9} {c : α} (hturn : ∀ w, P (step c w))
    (hkeep : ∀ e w, P w → P (step e w)) {l : List α} (hc : c ∈ l) (w : W9) : P (forEach l step w) := by
  induction l generalizing w with
  | nil => exact absurd hc List.not_mem_nil
  | cons e l ih =>
    rcases List.mem_cons.mp hc with rfl | hmem
    · exact forEach_keeps P step hkeep l _ (hturn w)
    · exact ih hmem (step e w)

/-- The tables of field `f` are cleared. -/
def clearTables (f : FieldIx) (w : W9) : W9 := modField f (fun s => { s with slots := [], mcast := [], mcastRoots := [] }) (wr (Reg.slotLen f.val) 0 w)

/-- Field `f` holds no slot entry and no multicast entry. -/
def TablesClear (f : FieldIx) (w : W9) : Prop := (fieldState w f).slots = [] ∧ (fieldState w f).mcast = [] ∧ rd w (Reg.slotLen f.val) = 0

theorem clearTables_clears (f : FieldIx) (w : W9) : TablesClear f (clearTables f w) := by
  refine ⟨?_, ?_, rd_wr_same ..⟩ <;> rw [clearTables, fieldState_modField_same]

theorem clearTables_keeps {f : FieldIx} (g : FieldIx) {w : W9} (h : TablesClear f w) : TablesClear f (clearTables g w) := by
  by_cases hfg : f = g
  · rw [hfg]
    exact clearTables_clears g w
  · have hval : f.val ≠ g.val := Fin.val_ne_of_ne hfg
    have hreg : Reg.slotLen f.val ≠ Reg.slotLen g.val := by
      simp only [Reg.slotLen]
      omega
    have hfield : fieldState (clearTables g w) f = fieldState w f := by
      rw [clearTables, fieldState_modField_ne _ _ hfg, fieldState_wr]
    obtain ⟨hs, hm, hl⟩ := h
    rw [TablesClear, hfield]
    exact ⟨hs, hm, (rd_wr_ne _ _ hreg).trans hl⟩

/-- The W9 whose tables are clear says that it holds no image. -/
def unloaded (w : W9) : W9 := setImgState 0 (wr64 Reg.recoveryAddr 0 { w with checked := none })

theorem rd_unloaded_ne {off : Nat} (w : W9) (h : off ≠ Reg.imgStatus) (h1 : off ≠ Reg.recoveryAddr) (h2 : off ≠ Reg.recoveryAddr + 4) :
    rd (unloaded w) off = rd w off := by
  rw [unloaded, setImgState, rd_wrF_ne _ _ _ _ h, rd_wr64_ne _ _ h1 h2]
  rfl

theorem unloaded_parts (w : W9) : (unloaded w).img = w.img ∧ (unloaded w).checked = none ∧ (unloaded w).kv = w.kv ∧
    (unloaded w).serve = w.serve ∧ (unloaded w).fields = w.fields := by
  simp [unloaded, setImgState]

theorem unloaded_says (w : W9) : imgState (unloaded w) = 0 ∧ rd64 (unloaded w) Reg.recoveryAddr = 0 := by
  constructor
  · rw [imgState, unloaded, setImgState, rdF_wrF_same _ _ _ _ _ (by decide) (by decide)]
    rfl
  · rw [unloaded, setImgState, rd64_of_rd (rd_wrF_ne _ _ _ _ (by decide)) (rd_wrF_ne _ _ _ _ (by decide)), rd64_wr64_same]
    rfl

/-- UNLOAD outside a pair: everything stops, and the image, its tables and its record go. -/
theorem unload_events {w : W9} (hopen : hostAnswers w = true) (hsafe : safeMode w = false) (hst : imgState w = 3) (hnone : busyStreams w = [])
    (hsolo : paired w = false) : OnlyEvents (unloaded (forEach allFields clearTables (clearImage (stopImage w)))) (unload w) := by
  have hstate : ¬ (safeMode w = true ∨ imgState w ≠ 3 ∨ (!(busyStreams w).isEmpty) = true) := by simp [hsafe, hst, hnone]
  have hleave : leavePair 4 w = w := if_neg (by simp [hsolo])
  have heq : unload w = raise0 0x7011 srcSteward [] (unloaded (forEach allFields clearTables (clearImage (stopImage (leavePair 4 w))))) :=
    (if_neg (by simp [hopen])).trans (if_neg hstate)
  rw [heq, hleave]
  exact raise0_step ..

theorem unload_unloads {w : W9} (hopen : hostAnswers w = true) (hsafe : safeMode w = false) (hst : imgState w = 3) (hnone : busyStreams w = [])
    (hsolo : paired w = false) : let w' := unload w
    imgState w' = 0 ∧ w'.img = none ∧ w'.checked = none ∧ w'.kv = KvS.init ∧ w'.serve.pipe = [] ∧ rd w' Reg.modelVer = 0 ∧
    rd64 w' Reg.recoveryAddr = 0 ∧ ∀ f, (fieldState w' f).slots = [] ∧ (fieldState w' f).mcast = [] ∧ rd w' (Reg.slotLen f.val) = 0 := by
  have hev := unload_events hopen hsafe hst hnone hsolo
  have hclear : ImageStands (imageless (stopImage w)) (forEach allFields clearTables (clearImage (stopImage w))) :=
    .forEach (fun f _ h => .same (.fieldReg h (by unfold Reg.slotLen; omega))) (clearImage_stands _)
  have htables (f : FieldIx) : TablesClear f (forEach allFields clearTables (clearImage (stopImage w))) :=
    forEach_reaches (clearTables_clears f) (fun g _ h => clearTables_keeps g h) (mem_allFields f) _
  generalize forEach allFields clearTables (clearImage (stopImage w)) = u at hev hclear htables
  obtain ⟨himg, hchecked, hkv, hserve, hfields⟩ := unloaded_parts u
  obtain ⟨hstate, hrec⟩ := unloaded_says u
  refine ⟨?_, ?_, ?_, ?_, ?_, ?_, ?_, fun f => ?_⟩
  · rw [imgState_of_rd (hev.regs _ (by decide) (by decide)), hstate]
  · rw [hev.img, himg, hclear.img]
    rfl
  · rw [hev.checked, hchecked]
  · rw [hev.kv, hkv, hclear.kv]
    rfl
  · rw [hev.serve, hserve, hclear.pipe]
    rfl
  · rw [hev.regs _ (by decide) (by decide), rd_unloaded_ne _ (by decide) (by decide) (by decide), hclear.regs _ (by decide)]
    exact rd_wr_same ..
  · rw [rd64_ev hev _ (by decide) (by decide) (by decide) (by decide), hrec]
  · obtain ⟨hs, hm, hl⟩ := htables f
    have hfield : fieldState (unload w) f = fieldState u f := by rw [fieldState, hev.fields, hfields, fieldState]
    have hhigh : 0x1000000 ≤ Reg.slotLen f.val := by
      unfold Reg.slotLen
      omega
    rw [hfield, hev.regs _ (unitReg_ne hhigh) (unitReg_ne hhigh),
      rd_unloaded_ne _ (unitReg_ne hhigh) (unitReg_ne hhigh) (unitReg_ne hhigh)]
    exact ⟨hs, hm, hl⟩

end Sys2Proof.Machine
end

section
/-! SUPPORT. What survives the stop of an image, and RELOAD (R319, R338, R347, R348). -/

namespace Sys2Proof.Machine

open Sys2Proof

set_option Elab.async false

/-! ## What ends of streams and flips keep -/

/-- The registers of IMG_LOST, and SERVE_STATUS. -/
abbrev LostReg (off : Nat) : Prop := off = 0x8060 ∨ off = 0x8064 ∨ off = 0x500004

/-- The image that passed its checks, IMG_LOST and whether beats run are in `w` what they are in `a`. -/
structure ImageKept (a w : W9) : Prop where
  checked : w.checked = a.checked
  lost : ∀ off, off = 0x8060 ∨ off = 0x8064 → rd w off = rd a off
  runs : rdB w Reg.serveStatus 0 = rdB a Reg.serveStatus 0

variable {a b w x : W9}

theorem ImageKept.refl (w : W9) : ImageKept w w := ⟨rfl, fun _ _ => rfl, rfl⟩

theorem ImageKept.trans (h : ImageKept a b) (k : ImageKept b w) : ImageKept a w :=
  ⟨k.checked.trans h.checked, fun off ho => (k.lost off ho).trans (h.lost off ho), k.runs.trans h.runs⟩

/-- A change of other parts of the state. -/
theorem ImageKept.same {dev : Dev} {page : SMap Word32} {mem : Mem} {tiles : SMap TileS} {routers : SMap (List BufEntry)}
    {fields : SMap FieldS} {gws : SMap GwS} {prec : Prec} {serve : Serve} {kv : KvS} {wt : WeightS} {img : Option ImageS} {dbg : Dbg}
    {host : HostS} {side : SideS} {ports : SMap PortS} {pair : PairS} {env : EnvS} {rst : RstS} {opt : OptS} {att : AttS} {flt : FaultS}
    (hw : ImageKept a w) : ImageKept a ⟨dev, w.bar0, page, mem, tiles, routers, fields, gws, prec, serve, kv, wt, img, w.checked, dbg,
      host, side, ports, pair, env, rst, opt, att, flt⟩ := ⟨hw.checked, hw.lost, hw.runs⟩

theorem ImageKept.wr {off : Nat} {y : Word32} (hw : ImageKept a w) (hoff : ¬ LostReg off := by decide) : ImageKept a (Machine.wr off y w) := by
  refine ⟨hw.checked, fun o ho => (rd_wr_ne _ _ fun e => hoff ?_).trans (hw.lost o ho), ?_⟩
  · rw [← e]
    exact ho.imp_right .inl
  · rw [rdB_wr_ne' _ _ _ (fun e => hoff (.inr (.inr e.symm))), hw.runs]

theorem ImageKept.wr64 {off y : Nat} (hw : ImageKept a w) (hoff : ¬ LostReg off := by decide) (hoff4 : ¬ LostReg (off + 4) := by decide) :
    ImageKept a (Machine.wr64 off y w) := .wr (.wr hw hoff) hoff4

theorem ImageKept.wrF {off hi lo y : Nat} (hw : ImageKept a w) (hoff : ¬ LostReg off := by decide) :
    ImageKept a (Machine.wrF off hi lo y w) := .wr hw hoff

theorem ImageKept.wrB {off i : Nat} {c : Bool} (hw : ImageKept a w) (hoff : ¬ LostReg off := by decide) :
    ImageKept a (Machine.wrB off i c w) := .wrF hw hoff

/-- The other bits of SERVE_STATUS. -/
theorem ImageKept.wrServe {i : Nat} {c : Bool} (hw : ImageKept a w) (hi : 0 < i) (hi' : i < 32 := by decide) :
    ImageKept a (Machine.wrB Reg.serveStatus i c w) := by
  refine ⟨hw.checked, fun o ho => (rd_wrB_ne _ _ _ ?_).trans (hw.lost o ho), ?_⟩
  · rcases ho with rfl | rfl <;> decide
  · rw [Machine.wrB, rdB_wrF_ne _ _ _ _ _ _ (le_refl i) (by decide) (by omega), hw.runs]

theorem ImageKept.events (hw : ImageKept a w) (h : OnlyEvents w x) : ImageKept a x := by
  refine ⟨h.checked.trans hw.checked, fun o ho => (h.regs o ?_ ?_).trans (hw.lost o ho), (h.rdB _ _ (by decide) (by decide)).trans hw.runs⟩
  · rcases ho with rfl | rfl <;> decide
  · rcases ho with rfl | rfl <;> decide

theorem ImageKept.wire (hw : ImageKept a w) (h : OnlyWire w x) : ImageKept a x := by
  have hreg {off : Nat} (ho : LostReg off) : rd x off = rd w off := h.rd_low (by rcases ho with rfl | rfl | rfl <;> decide)
  refine ⟨h.checked.trans hw.checked, fun o ho => (hreg (ho.imp_right .inl)).trans (hw.lost o ho), ?_⟩
  rw [rdB, hreg (.inr (.inr rfl)), ← hw.runs, rdB]

theorem ImageKept.stands (hw : ImageKept a w) (h : ImageStands w x) : ImageKept a x := by
  refine hw.trans ⟨h.checked, fun off ho => h.regs off ?_, h.rdB _ _⟩
  rcases ho with rfl | rfl <;> decide

theorem ImageKept.ite {c : Prop} [Decidable c] {y z : W9} (hy : ImageKept a y) (hz : ImageKept a z) : ImageKept a (if c then y else z) := by
  split
  · exact hy
  · exact hz

theorem ImageKept.forEach {α : Type} {l : List α} {f : α → W9 → W9} (hf : ∀ e y, ImageKept a y → ImageKept a (f e y)) (hw : ImageKept a w) :
    ImageKept a (Machine.forEach l f w) := forEach_keeps (ImageKept a) f hf l w hw

/-! ## Streams that end (R265, R272, R414) -/

section
variable {s : StreamIx} {q : Request} {st : BitVec 8} {n : Fin 64}

theorem ImageKept.modStream {g : Stream → Stream} (hw : ImageKept a w) : ImageKept a (Machine.modStream s g w) := .same hw

theorem ImageKept.putStream {g : Stream → Stream} (hw : ImageKept a w) : ImageKept a (Machine.putStream s g w) :=
  .wire (.modStream hw) (putStream_wire s g w)

theorem ImageKept.setBlock {i : Nat} {d : Option BlockDesc} (hw : ImageKept a w) : ImageKept a (Machine.setBlock s i d w) := .same hw

theorem ImageKept.putBlock {i : Nat} {d : Option BlockDesc} (hw : ImageKept a w) : ImageKept a (Machine.putBlock s i d w) :=
  .wire (.setBlock hw) (putBlock_wire s i d w)

theorem ImageKept.freePages (hw : ImageKept a w) : ImageKept a (Machine.freePages s w) := .ite hw (.wr hw)

theorem ImageKept.freePrivate (hw : ImageKept a w) : ImageKept a (Machine.freePrivate s w) :=
  .forEach (fun _ _ h => .ite (.putBlock h) (.freePages (.putBlock h))) hw

theorem adapterReg_kept (n : Fin 64) :
    ¬ LostReg (Reg.adapterId n.val) ∧ ¬ LostReg (Reg.adapterVer n.val) ∧ ¬ LostReg (Reg.adapterRef n.val) := by
  have := n.isLt
  simp only [LostReg, Reg.adapterId, Reg.adapterVer, Reg.adapterRef]
  omega

theorem ImageKept.adSettle (hw : ImageKept a w) : ImageKept a (Machine.adSettle n w) :=
  .ite (.wire (.wr (.wr hw (adapterReg_kept n).1) (adapterReg_kept n).2.1) (writeAdapterTable_wire _)) hw

theorem ImageKept.adRelease (hw : ImageKept a w) : ImageKept a (Machine.adRelease n w) := .adSettle (.wrF hw (adapterReg_kept n).2.2)

theorem ImageKept.syncClass0 (hw : ImageKept a w) : ImageKept a (Machine.syncClass0 w) := .wrServe hw (by decide)

theorem ImageKept.freeSlot (hw : ImageKept a w) : ImageKept a (Machine.freeSlot s w) := .syncClass0 (.putStream hw)

theorem ImageKept.dropWork (hw : ImageKept a w) : ImageKept a (Machine.dropWork s w) := .same (.same (.same (.same hw)))

theorem ImageKept.setReserve {k : Nat} (hw : ImageKept a w) : ImageKept a (Machine.setReserve s k w) := .same hw

theorem ImageKept.releaseHoldings (hw : ImageKept a w) : ImageKept a (Machine.releaseHoldings s w) :=
  .syncClass0 (.putStream (by
    split
    · exact .adRelease (.setReserve (.freePrivate hw))
    · exact .setReserve (.freePrivate hw)))

theorem ImageKept.winMod {c : Nat} {f : WinCount → WinCount} (hw : ImageKept a w) : ImageKept a (Machine.winMod c f w) := .ite (.same hw) (.same hw)

theorem ImageKept.endStream (hw : ImageKept a w) : ImageKept a (Machine.endStream s st w) := by
  have hend : ImageKept a (Machine.releaseHoldings s (Machine.dropWork s (winEnded (streamOf w s).cls.toNat
      (Machine.putStream s (fun x => { x with endStatus := st, state := .ending, endTime := now w }) w)))) :=
    .releaseHoldings (.dropWork (.winMod (.putStream hw)))
  have htold := ImageKept.ite (c := isFaultStatus st = true) (hend.events (raiseS_step 0xD032 srcSteward s [st] _)) hend
  exact .ite (.wire (.same htold) (sendTwin_wire _ _)) htold

theorem ImageKept.dropSlots (hw : ImageKept a w) : ImageKept a (Machine.dropSlots s w) := .same hw

theorem ImageKept.dropCommits (hw : ImageKept a w) : ImageKept a (Machine.dropCommits s w) := .same hw

theorem ImageKept.freeShadow {keepPhase : Bool} (hw : ImageKept a w) : ImageKept a (Machine.freeShadow keepPhase s w) :=
  .freeSlot (.dropCommits (.same (.releaseHoldings (.dropWork (.dropSlots hw)))))

theorem ImageKept.dropFlights (hw : ImageKept a w) : ImageKept a (Machine.dropFlights w) := .same hw

theorem ImageKept.endStreams (hw : ImageKept a w) : ImageKept a (Machine.endStreams st w) :=
  .forEach (fun _ _ h => .endStream h) (.forEach (fun _ _ h => .freeShadow h) (.dropFlights hw))

theorem ImageKept.pushCpl {i : RingIx} {r : CplRec} (hw : ImageKept a w) : ImageKept a (Machine.pushCpl i r w) := .same hw

theorem ImageKept.refuse (hw : ImageKept a w) : ImageKept a (Machine.refuse q st w) := by
  have hev := fun c : BitVec 16 => hw.events (raise_step 0x5001 srcSteward c ([st, 0] ++ le 2 q.tag.toNat) w)
  exact .pushCpl (.ite (.winMod (hev _)) (hev _))

/-! ## A flip that is stopped (R319) -/

theorem freeSlot_noStreams (h : w.serve.streams = []) : (Machine.freeSlot s w).serve.streams = [] := by
  rw [Machine.freeSlot, Machine.syncClass0, wrB_serve, (putStream_wire s _ w).serve]
  simp [Machine.modStream, smMod, smPut, h, smErase]

theorem refuseHeld_streams (h : w.serve.streams = []) : (refuseHeld w).serve.streams = [] := by
  refine forEach_keeps (·.serve.streams = []) _ (fun q u hu => ?_) _ _ h
  rw [refuse_serve, (serveRefused_frame ..).2.2.1]
  exact freeSlot_noStreams hu

end

section
variable {r st : Nat} {c : Byte}

theorem ImageKept.refuseHeld (hw : ImageKept a w) : ImageKept a (Machine.refuseHeld w) := .forEach (fun _ _ h => .refuse (.freeSlot h)) (.same hw)

theorem ImageKept.flipStopped (hw : ImageKept a w) : ImageKept a (Machine.flipStopped c w) := hw.events (flipStopped_events c w)

theorem ImageKept.dropParkAsks (hw : ImageKept a w) : ImageKept a (Machine.dropParkAsks w) := .forEach (fun _ _ h => .modStream h) hw

theorem ImageKept.flipOver (hw : ImageKept a w) : ImageKept a (Machine.flipOver st r w) :=
  .same (.dropParkAsks (.same (.wrB (.wr64 (.wrF (.wrF hw))))))

/-- An aborted flip of a W9 without streams resumes none. -/
theorem abortFlip_kept (hstreams : w.serve.streams = []) : ImageKept w (abortFlip c w) := by
  have hover : (flipStopped c (flipOver 6 0 w)).serve.streams = [] := by
    rw [(flipStopped_events c (flipOver 6 0 w)).serve]
    exact (flipOver_frame 6 0 w).2.2.2.2 hstreams
  have hnone : resumable (refuseHeld (flipStopped c (flipOver 6 0 w))) = [] := by
    rw [resumable, busyStreams_none (refuseHeld_streams hover), List.filter_nil, ite_self]
  have heq : abortFlip c w = refuseHeld (flipStopped c (flipOver 6 0 w)) := by
    simp only [abortFlip, hnone]
    rfl
  rw [heq]
  exact .refuseHeld (.flipStopped (.flipOver (.refl w)))

theorem stopFlip_kept (hstreams : w.serve.streams = []) : ImageKept w (stopFlip w) := by
  unfold stopFlip
  split
  · exact .refl w
  split
  · exact .refuseHeld (.flipStopped (.forEach (fun _ _ h => .same h) (.wr (.flipOver (.refl w)))))
  · exact abortFlip_kept hstreams

end

/-! ## The stop of an image (R338, Table 12.7) -/

/-- Beats end on both sides. -/
theorem ImageKept.beatsEnd (hw : ImageKept a w) : ImageKept (Machine.wrB Reg.serveStatus 0 false a) (Machine.wrB Reg.serveStatus 0 false w) := by
  have hreg (y : W9) {off : Nat} (ho : off = 0x8060 ∨ off = 0x8064) : rd (Machine.wrB Reg.serveStatus 0 false y) off = rd y off :=
    rd_wrB_ne _ _ _ (by rcases ho with rfl | rfl <;> decide)
  refine ⟨hw.checked, fun off ho => ?_, ?_⟩
  · rw [hreg _ ho, hreg _ ho, hw.lost off ho]
  · rw [rdB_wrB_same _ _ _ _ (by decide), rdB_wrB_same _ _ _ _ (by decide)]

theorem stopImage_kept (hstreams : w.serve.streams = []) : ImageKept (wrB Reg.serveStatus 0 false w) (stopImage w) := by
  have htile {t : Tile} {y : W9} (h : ImageKept w y) : ImageKept w (stopTile t y) := h.stands (.stopTile (.refl y))
  have hmeets {f : FieldIx} {y : W9} (h : ImageKept w y) : ImageKept w (loaderMeets f y) := h.stands (.loaderMeets (.refl y))
  refine .wrServe (.beatsEnd (.dropFlights (.same (.forEach (fun _ _ h => htile h) (.forEach (fun _ _ h => ?_)
    (.same (stopFlip_kept hstreams))))))) (by decide)
  exact .same (hmeets (.forEach (fun _ _ h => htile h) h))

/-! ## RELOAD (R347, R348) -/

section
variable {im : ImageS} {k : Nat} {g : Rung}

/-- Rung `k` of `im` is being instantiated again; beats and the image that passed are as in `a`. -/
structure Reloading (im : ImageS) (k : Nat) (g : Rung) (a w : W9) : Prop where
  state : imgState w = 2
  rung : rdF w Reg.imgStatus 23 16 = k % 256
  runs : rdB w Reg.serveStatus 0 = rdB a Reg.serveStatus 0
  checked : w.checked = a.checked
  pipe : w.serve.pipe = List.replicate g.timing.stages none
  img : ∃ i, w.img = some i ∧ i.body = im.body

theorem Instantiating.reloading {im' : ImageS} (h : Instantiating im' k g b w) (ha : ImageKept a b) (hbody : im'.body = im.body) :
    Reloading im k g a w := by
  have hruns : rdB w Reg.serveStatus 0 = rdB b Reg.serveStatus 0 := by
    rw [rdB, h.regs _ (by decide) (by decide) (by decide) (by decide), rdB]
  exact ⟨h.state, h.rung, hruns.trans ha.runs, h.checked.trans ha.checked, h.pipe, _, h.img, hbody⟩

theorem ImageKept.anew (hw : ImageKept a w) : ImageKept a (Machine.anew w) := .wr (.wr64 (.same hw))

/-- The rung is instantiated again, whether its far memory carries across or not. -/
theorem reloadTo_reloads (im : ImageS) (k : Nat) (g : Rung) (w : W9) : Reloading im k g w (reloadTo im k g w) := by
  unfold reloadTo
  split
  · dsimp only
    split
    · exact (instantiate_stands (.refl _)).instantiating.reloading (.refl w) rfl
    · exact (instantiate_stands (freshImage_stands (.refl _))).freeRecords.instantiating.reloading (.anew (.endStreams (.refl w))) rfl
  · exact (instantiate_stands (freshImage_stands (.refl _))).freeRecords.instantiating.reloading (.anew (.refl w)) rfl

/-- RELOAD outside a pair, without streams. -/
theorem reload_reloads (hopen : hostAnswers w = true) (hsafe : safeMode w = false) (hst : imgState w = 3) (hstreams : w.serve.streams = [])
    (hsolo : paired w = false) (hchecked : w.checked = some im) (hk : usableRung w im.body = some k) (hg : im.body.rungs[k]? = some g) :
    Reloading im k g (wrB Reg.serveStatus 0 false w) (reload w) := by
  have hstop := stopImage_kept hstreams
  have hstate : ¬ (safeMode w = true ∨ (!decide (imgState w = 3 ∨ imgState w = 4 ∧ w.checked.isSome = true)) = true) := by simp [hsafe, hst]
  have hleave : leavePair 3 w = w := if_neg (by simp [hsolo])
  have hreload : reload w = reloadImage (leavePair 3 w) := (if_neg (by simp [hopen])).trans (if_neg hstate)
  have hrung : usableRung (stopImage w) im.body = some k := by
    rw [usableRung_of (hstop.lost _ (.inl rfl)) (hstop.lost _ (.inr rfl)),
      usableRung_of (rd_wrB_ne _ _ _ (by decide)) (rd_wrB_ne _ _ _ (by decide)), hk]
  have heq : reload w = reloadTo im k g (stopImage w) := by
    rw [hreload, hleave]
    simp only [reloadImage, hchecked, hrung, hg]
  have h := reloadTo_reloads im k g (stopImage w)
  rw [heq]
  exact ⟨h.state, h.rung, h.runs.trans hstop.runs, h.checked.trans hstop.checked, h.pipe, h.img⟩

end

end Sys2Proof.Machine
end

section
/-! SUPPORT. The end of an instantiation, RESUME and the end of a freeze (R339, R348, R351, R352). -/

namespace Sys2Proof.Machine

open Sys2Proof

set_option Elab.async false

variable {a w x : W9} {im : ImageS} {k : Nat}

/-! ## IMAGE_INSTANTIATED (R339) -/

theorem imageInstantiated_waits (h : booted w = false ∨ w.img = none ∨ (instantiated w = false ∧ imgState w ≠ 2)) : imageInstantiated w = w := by
  rcases h with hb | hi | ⟨hn, hs⟩
  · exact if_pos (by simp [hb])
  · simp [imageInstantiated, hi]
  · cases hi : w.img with
    | none => simp [imageInstantiated, hi]
    | some im => simp [imageInstantiated, hi, hn, hs]

theorem imageInstantiated_unready (hi : w.img = some im) (hl : rungLost w im = false) (hn : instantiated w = false) : imageInstantiated w = w := by
  simp [imageInstantiated, hi, hl, hn]

theorem imageInstantiated_ends (hb : booted w = true) (hi : w.img = some im) (hl : rungLost w im = false) (hn : instantiated w = true)
    (hr : w.flt.recovering = false) (ho : im.oldRung = none) : imageInstantiated w = loadEnds (rdF w Reg.imgStatus 23 16) im w := by
  simp [imageInstantiated, hb, hi, hl, hn, hr, ho]

/-- Starting the tiles of a field changes the tiles. -/
theorem startTiles_only (f : FieldIx) (w : W9) : startTiles f w = { w with tiles := (startTiles f w).tiles } := by
  unfold startTiles
  split
  · rfl
  · refine forEach_keeps (fun u => u = { w with tiles := u.tiles }) _ (fun e u hu => ?_) _ _ rfl
    rw [hu]
    rfl

/-- Every placed tile of an image that starts waits for its first pulse. -/
def tilesStarted (w : W9) : W9 := forEach allFields (fun f w => if taking w f then startTiles f w else w)
  { w with env := { w.env with imageSince := w.dev.time, pFix := 0, pDec := 0, pPf := 0 } }

theorem tilesStarted_only (w : W9) : tilesStarted w =
    { w with tiles := (tilesStarted w).tiles, env := { w.env with imageSince := w.dev.time, pFix := 0, pDec := 0, pPf := 0 } } := by
  refine forEach_keeps (fun u => u = { w with
    tiles := u.tiles, env := { w.env with imageSince := w.dev.time, pFix := 0, pDec := 0, pPf := 0 } }) _ (fun f u hu => ?_) _ _ rfl
  split
  · rw [startTiles_only, hu]
  · exact hu

/-- The version of the set in use. -/
def activeVersion (w : W9) : Word32 := match w.wt.active with
  | some h => h.modelVer
  | none => 0

/-- IMG_STATUS says RUNNING with no error, and MODEL_VER is the set's. -/
def runningNow (w : W9) : W9 := wrF Reg.imgStatus 31 24 0 (wr Reg.modelVer (activeVersion w) (setImgState 3 (tilesStarted w)))

theorem runningNow_parts (w : W9) : (runningNow w).serve = w.serve ∧ (runningNow w).img = w.img ∧ (runningNow w).env.imageSince = w.dev.time := by
  simp only [runningNow, setImgState, wrF_serve, wr_serve, wrF_img, wr_img, wrF_env, wr_env]
  rw [tilesStarted_only]
  exact ⟨rfl, rfl, rfl⟩

theorem runningNow_status (w : W9) : imgState (runningNow w) = 3 ∧ rdF (runningNow w) Reg.imgStatus 31 24 = 0 := by
  constructor
  · rw [imgState, runningNow, rdF_wrF_ne _ _ _ _ _ _ _ (by decide) (by decide) (by decide), rdF_wr_ne' _ _ _ _ (by decide), setImgState,
      rdF_wrF_same _ _ _ _ _ (by decide) (by decide)]
    rfl
  · rw [runningNow, rdF_wrF_same _ _ _ _ _ (by decide) (by decide)]
    rfl

theorem runningNow_modelVer (w : W9) : rd (runningNow w) Reg.modelVer = activeVersion w := by
  rw [runningNow, rd_wrF_ne _ _ _ _ (by decide), rd_wr_same]

/-- A LOAD's image runs. -/
theorem loadEnds_runs (k : Nat) (im : ImageS) (w : W9) : let w' := loadEnds k im w
    imgState w' = 3 ∧ rdF w' Reg.imgStatus 31 24 = 0 ∧ w'.env.imageSince = w.dev.time ∧ rd w' Reg.modelVer = activeVersion w ∧
    w'.serve = w.serve ∧ w'.img = w.img := by
  obtain ⟨det, heq⟩ : ∃ det, loadEnds k im w = writeHeader (raise0 0x7010 srcSteward det (runningNow w)) := ⟨_, rfl⟩
  have hev := raise0_step 0x7010 srcSteward det (runningNow w)
  have hwire := writeHeader_wire (raise0 0x7010 srcSteward det (runningNow w))
  have hreg (off : Nat) (h : off < 0x2000000) (h1 : off ≠ Reg.evtLost) (h2 : off ≠ Reg.hostifErr) :
      rd (loadEnds k im w) off = rd (runningNow w) off := by rw [heq, hwire.rd_low h, hev.regs _ h1 h2]
  have hstatus := hreg Reg.imgStatus (by decide) (by decide) (by decide)
  obtain ⟨hstate, herr⟩ := runningNow_status w
  obtain ⟨hserve, himg, hsince⟩ := runningNow_parts w
  refine ⟨?_, ?_, ?_, ?_, ?_, ?_⟩
  · rw [imgState_of_rd hstatus, hstate]
  · rw [rdF, hstatus, ← rdF, herr]
  · rw [heq, hwire.env, hev.env, hsince]
  · rw [hreg _ (by decide) (by decide) (by decide), runningNow_modelVer]
  · rw [heq, hwire.serve, hev.serve, hserve]
  · rw [heq, hwire.img, hev.img, himg]

/-! ## RESUME (R351, R352) -/

/-- The time at which the freeze ends is known. -/
def resumesAt (t : Nat) (w : W9) : W9 := { w with dbg := { w.dbg with resumeAt := some t } }

theorem resume_none (h : dbgOpen w = false ∨ rdB w Reg.dbgStatus 30 = false ∨ w.dbg.resumeAt.isSome = true) : resume w = w :=
  if_pos (by simpa using h)

section
variable (hopen : dbgOpen w = true) (hfrozen : rdB w Reg.dbgStatus 30 = true) (hnone : w.dbg.resumeAt = none)
include hopen hfrozen hnone

theorem resume_alone (hsolo : paired w = false) : resume w = resumesAt (w.dev.time + 10000) w := by
  have hpaired (d : Dbg) : paired { w with dbg := d } = false := hsolo
  simp [resume, hopen, hfrozen, hnone, hsolo, hpaired, resumesAt, now]

theorem resume_paired (hpair : paired w = true) :
    resume w = sendTwins (.resume (w.dev.time + 30000)) (resumesAt (w.dev.time + 30000) w) := by
  have hpaired (d : Dbg) : paired { w with dbg := d } = true := hpair
  simp [resume, hopen, hfrozen, hnone, hpair, hpaired, resumesAt, now]

end

/-- A message to the twin waits on every twin port. -/
theorem sendTwins_sends {p : PortIx} (m : Msg) (w : W9) (hp : p ∈ twinPorts w) : ∃ e ∈ (portOf (sendTwins m w) p).replay, e.msg = m := by
  refine forEach_reaches (P := fun u => ∃ e ∈ (portOf u p).replay, e.msg = m) (fun u => ?_) (fun q u ⟨e, he, hm⟩ => ?_) hp w
  · rw [portOf_sendMsg_same]
    exact ⟨_, List.mem_append_right _ (.head _), rfl⟩
  · obtain ⟨more, hmore⟩ := (sent_sendMsg q m u).replay p
    exact ⟨e, by rw [hmore]; exact List.mem_append_left _ he, hm⟩

/-! ## RESUME_TIME_REACHED (R351) -/

theorem resumeTimeReached_none (h : w.dbg.resumeAt = none) : resumeTimeReached w = w := by simp [resumeTimeReached, h]

theorem resumeTimeReached_early {t : Nat} (h : w.dbg.resumeAt = some t) (ht : w.dev.time < t) : resumeTimeReached w = w := by
  simp only [resumeTimeReached, h]
  exact if_neg (not_le.mpr ht)

/-- Neither the freeze, nor its end, nor a field's part in it changed. -/
structure FreezeKept (a w : W9) : Prop where
  resumeAt : w.dbg.resumeAt = a.dbg.resumeAt
  status : rd w Reg.dbgStatus = rd a Reg.dbgStatus
  held : ∀ f, (fieldState w f).withheld.freeze = (fieldState a f).withheld.freeze

theorem FreezeKept.refl (w : W9) : FreezeKept w w := ⟨rfl, rfl, fun _ => rfl⟩

theorem FreezeKept.same {dev : Dev} {page : SMap Word32} {mem : Mem} {tiles : SMap TileS} (hw : FreezeKept a w) :
    FreezeKept a { w with dev := dev, page := page, mem := mem, tiles := tiles } := ⟨hw.resumeAt, hw.status, hw.held⟩

theorem FreezeKept.wr {off : Nat} {y : Word32} (hw : FreezeKept a w) (hoff : Reg.dbgStatus ≠ off) : FreezeKept a (Machine.wr off y w) :=
  ⟨hw.resumeAt, (rd_wr_ne _ _ hoff).trans hw.status, hw.held⟩

theorem FreezeKept.events (hw : FreezeKept a w) (h : OnlyEvents w x) : FreezeKept a x :=
  ⟨by rw [h.dbg, hw.resumeAt], (h.regs _ (by decide) (by decide)).trans hw.status, fun f => by rw [fieldState, h.fields, ← hw.held f, fieldState]⟩

theorem FreezeKept.trap {c : Fin 5} {b : Bool} {src : BitVec 16} {f : FieldIx} {addr : LAddr} {u : Byte} {o : BitVec 16} (hw : FreezeKept a w) :
    FreezeKept a (Machine.trap c b src f addr u o w) := by
  refine ⟨?_, (rd_trap _ _ _ _ _ _ _ _ ?_ (by decide) (by decide) (by decide)).trans hw.status, fun g => ?_⟩
  · rw [← hw.resumeAt]
    unfold Machine.trap
    split
    · dsimp only
      split <;> split <;> simp [inc]
    · rfl
  · simp only [Reg.dbgStatus, Reg.dbgCount]
    omega
  · rw [fieldState, trap_fields, ← hw.held g, fieldState]

theorem FreezeKept.forEach {α : Type} {l : List α} {f : α → W9 → W9} (hf : ∀ e y, FreezeKept a y → FreezeKept a (f e y)) (hw : FreezeKept a w) :
    FreezeKept a (Machine.forEach l f w) := forEach_keeps (FreezeKept a) f hf l w hw

/-- A change of a field beside its part in the freeze. -/
theorem FreezeKept.modField {f : FieldIx} {g : FieldS → FieldS} (hw : FreezeKept a w) (hg : ∀ s, (g s).withheld.freeze = s.withheld.freeze) :
    FreezeKept a (Machine.modField f g w) := by
  refine ⟨hw.resumeAt, hw.status, fun i => ?_⟩
  by_cases h : i = f
  · rw [h, fieldState_modField_same, hg, hw.held f]
  · rw [fieldState_modField_ne _ _ h, hw.held i]

theorem FreezeKept.pulseTile {t : Tile} (hw : FreezeKept a w) : FreezeKept a (Machine.pulseTile t w) := by
  unfold Machine.pulseTile
  dsimp only
  split
  · exact .trap (.events (.same (.same hw)) (raiseT_step _ _ _ _))
  · exact .same hw

theorem FreezeKept.startField {f : FieldIx} (hw : FreezeKept a w) : FreezeKept a (Machine.startField f w) :=
  .modField (.wr (.forEach (fun _ _ h => .same h) (.forEach (fun _ _ h => .pulseTile h) hw))
    (by simp only [Reg.dbgStatus, Reg.routeStatus]; omega)) fun _ => rfl

theorem FreezeKept.startStep {f : FieldIx} (hw : FreezeKept a w) : FreezeKept a (Machine.startStep f w) := by
  refine .wr ?_ (by simp only [Reg.dbgStatus, Reg.fieldClk]; omega)
  split
  · exact .startField hw
  · exact hw

theorem FreezeKept.setRefill {b : Bool} (hw : FreezeKept a w) : FreezeKept a (Machine.setRefill b w) :=
  .forEach (fun _ _ h => .modField h fun _ => rfl) hw

theorem FreezeKept.beatStart (hw : FreezeKept a w) : FreezeKept a (Machine.beatStart w) := by
  cases hrun : imageRuns w with
  | false =>
    have heq : Machine.beatStart w = w := if_neg (by simp [hrun])
    rwa [heq]
  | true =>
    rw [beatStart_runs hrun]
    refine .wr (.forEach (fun _ _ h => .startStep h) ?_) (by decide)
    split
    · exact hw
    · exact .setRefill hw

/-- The freeze is over for every field. -/
def fieldsThawed (w : W9) : W9 := setFreeze false { w with dbg := { w.dbg with resumeAt := none, freezeDue := false, freezeTwin := false } }

/-- DBG_STATUS tells of no freeze. -/
def freezeEnded (w : W9) : W9 := wrB Reg.dbgStatus 29 false (wrB Reg.dbgStatus 30 false (fieldsThawed w))

theorem resumeTimeReached_thaws {t : Nat} (h : w.dbg.resumeAt = some t) (ht : t ≤ w.dev.time) : FreezeKept (freezeEnded w) (resumeTimeReached w) := by
  have hend : resumeTimeReached w = endFreeze w := by
    simp only [resumeTimeReached, h]
    exact if_pos ht
  have heq : endFreeze w = beatStart (raise0 0x7043 srcSteward (List.replicate 8 0 ++ le 8 t) (freezeEnded w)) := by
    simp only [endFreeze, h]
    rfl
  rw [hend, heq]
  exact .beatStart (.events (.refl _) (raise0_step ..))

theorem fieldsThawed_parts (w : W9) : (fieldsThawed w).dbg.resumeAt = none ∧ ∀ f, (fieldState (fieldsThawed w) f).withheld.freeze = false := by
  refine ⟨?_, fun f => by rw [fieldsThawed, setFreeze_freeze]⟩
  rw [fieldsThawed, (setFreeze_only false _).eq]

theorem freezeEnded_parts (w : W9) : (freezeEnded w).dbg.resumeAt = none ∧ rdB (freezeEnded w) Reg.dbgStatus 30 = false ∧
    rdB (freezeEnded w) Reg.dbgStatus 29 = false ∧ ∀ f, (fieldState (freezeEnded w) f).withheld.freeze = false := by
  obtain ⟨hat, hheld⟩ := fieldsThawed_parts w
  refine ⟨?_, ?_, ?_, fun f => ?_⟩
  · rw [freezeEnded, wrB_dbg, wrB_dbg, hat]
  · rw [freezeEnded, rdB_wrB_ne _ _ _ _ _ (by decide)]
    exact rdB_wrB_same _ _ _ _ (by decide)
  · rw [freezeEnded]
    exact rdB_wrB_same _ _ _ _ (by decide)
  · rw [freezeEnded, fieldState_wrB, fieldState_wrB, hheld]

theorem resumeTimeReached_ends {t : Nat} (h : w.dbg.resumeAt = some t) (ht : t ≤ w.dev.time) : let w' := resumeTimeReached w
    w'.dbg.resumeAt = none ∧ rdB w' Reg.dbgStatus 30 = false ∧ rdB w' Reg.dbgStatus 29 = false ∧
    ∀ f, (fieldState w' f).withheld.freeze = false := by
  have hkept := resumeTimeReached_thaws h ht
  obtain ⟨hat, h30, h29, hheld⟩ := freezeEnded_parts w
  refine ⟨hkept.resumeAt.trans hat, ?_, ?_, fun f => (hkept.held f).trans (hheld f)⟩
  · rw [rdB, hkept.status, ← rdB, h30]
  · rw [rdB, hkept.status, ← rdB, h29]

/-- Settles O47: rejected commands by `imgReject_rejects`, a LOAD by `loadGo_loads`, UNLOAD by `unload_unloads`, RELOAD by `reload_reloads`, the
end of an instantiation by `loadEnds_runs`, the end of a freeze by `resumeTimeReached_ends`. -/
theorem imagesLoadStartAndStop : Obligations.ImagesLoadStartAndStop := by
  unfold Obligations.ImagesLoadStartAndStop
  refine ⟨fun s d body => ⟨fun hclosed => ?closed, fun hopen => ⟨fun h => ?loadRejected, fun h => ?unloadRejected, fun h => ?reloadRejected⟩,
      fun k g hopen hsafe hst hu hc hpass hk hg hset => ?loads, fun hopen hsafe hst hnone hsolo => ?unloads,
      fun im k g hopen hsafe hst hnone hsolo hchecked hk hg => ?reloads⟩,
    fun s => ⟨fun h => ?waits, fun im hi hl hn => ?unready, fun im hb hi hl hn hr ho => ?runs, fun h => ?resumeNone,
      fun hopen hfrozen hnone => ⟨fun hsolo => ?alone, fun hpair => ?paired⟩, fun h => ?noTime, fun t h => ⟨fun ht => ?early, fun ht => ?thaws⟩⟩⟩
  case closed => exact ⟨exec_of_lift_same (f := imageLoad d body) rfl (imageLoad_closed hclosed),
    exec_of_lift_same (f := unload) rfl (unload_closed hclosed), exec_of_lift_same (f := reload) rfl (reload_closed hclosed)⟩
  case loadRejected =>
    refine yields_of_lift (imageLoad d body) rfl ?_
    rw [imageLoad_rejected hopen h]
    exact imgReject_rejects 1 s.w
  case unloadRejected =>
    refine yields_of_lift unload rfl ?_
    rw [unload_rejected hopen h]
    exact imgReject_rejects 2 s.w
  case reloadRejected =>
    refine yields_of_lift reload rfl ?_
    rw [reload_rejected hopen h]
    exact imgReject_rejects 3 s.w
  case loads =>
    refine yields_of_lift (imageLoad d body) rfl ?_
    have hk256 : k < 256 := by
      have := lt_of_usableRung hk
      have := rungs_le_of_loadChecks hpass
      omega
    have hloads := loadGo_loads (im := imageOf s.w (farRead s.w (rd64 s.w Reg.imgAddr) 256) (rd64 s.w Reg.imgAddr) body) (g := g)
      (w := loadSeen d s.w) hk256
    rw [imageLoad_goes hopen hsafe hst hu hc hpass hk hg hset]
    rwa [loadSeen_debug] at hloads
  case unloads => exact yields_of_lift unload rfl (unload_unloads hopen hsafe hst hnone hsolo)
  case reloads =>
    have h := reload_reloads hopen hsafe hst hnone hsolo hchecked hk hg
    exact yields_of_lift reload rfl ⟨h.state, h.rung, h.runs.trans (rdB_wrB_same _ _ _ _ (by decide)), h.checked.trans hchecked, h.pipe, h.img⟩
  case waits => exact exec_of_lift_same (f := imageInstantiated) rfl (imageInstantiated_waits h)
  case unready => exact exec_of_lift_same (f := imageInstantiated) rfl (imageInstantiated_unready hi hl hn)
  case runs =>
    refine yields_of_lift imageInstantiated rfl ?_
    rw [imageInstantiated_ends hb hi hl hn hr ho]
    exact loadEnds_runs _ im s.w
  case resumeNone => exact exec_of_lift_same (f := resume) rfl (resume_none h)
  case alone => exact exec_of_lift_eq (f := resume) rfl (resume_alone hopen hfrozen hnone hsolo)
  case paired =>
    refine yields_of_lift resume rfl ?_
    rw [resume_paired hopen hfrozen hnone hpair]
    exact ⟨by rw [(sendTwins_wire _ _).dbg, resumesAt], fun p hp => sendTwins_sends _ _ hp⟩
  case noTime => exact exec_of_lift_same (f := resumeTimeReached) rfl (resumeTimeReached_none h)
  case early => exact exec_of_lift_same (f := resumeTimeReached) rfl (resumeTimeReached_early h ht)
  case thaws => exact yields_of_lift resumeTimeReached rfl (resumeTimeReached_ends h ht)

end Sys2Proof.Machine
end
